-- ==== Sys2Proof/Word.lean ====
section
/-! DEFINITION. The word types of the block: what the manual treats as bits. -/

namespace Sys2Proof

/-- One byte of memory or scratchpad. -/
abbrev Byte := BitVec 8

/-- A 16-bit word. -/
abbrev W16 := BitVec 16

/-- A 32-bit word. -/
abbrev W32 := BitVec 32

/-- A 64-bit register or descriptor word. -/
abbrev W64 := BitVec 64

end Sys2Proof
end

