-- ==== Sys2Proof/Machine/Bits.lean ====
section
/-! DEFINITION. Bit fields, sign extension, byte order and small list helpers used by every unit. -/

namespace Sys2Proof.Machine

/-- Bits [hi:lo] of a word, as a number. -/
def bits (w hi lo : Nat) : Nat := (w >>> lo) % 2 ^ (hi + 1 - lo)

/-- Bit n of a word. -/
def bitAt (w n : Nat) : Bool := (w >>> n) % 2 == 1

/-- A Bool as a bit. -/
def b2n (b : Bool) : Nat := if b then 1 else 0

/-- The signed value of the low n bits of a word. -/
def signed (n w : Nat) : Int :=
  let v := w % 2 ^ n
  if v < 2 ^ (n - 1) then (v : Int) else (v : Int) - (2 ^ n : Nat)

/-- IMM sign-extended to 64 bits (R172). -/
def sext32 (imm : W32) : W64 := imm.signExtend 64

/-- An integer reduced to an n-bit number, two's complement. -/
def wrapInt (n : Nat) (x : Int) : Nat := (x % (2 ^ n : Nat)).toNat

/-- Little-endian number of a list of bytes (first byte least significant). -/
def leNat : List Byte → Nat
  | [] => 0
  | b :: r => b.toNat + 256 * leNat r

/-- The n little-endian bytes of a number. -/
def leBytes : Nat → Nat → List Byte
  | 0, _ => []
  | n + 1, w => BitVec.ofNat 8 w :: leBytes n (w / 256)

/-- Bits set in a mask below n, ascending. -/
def maskList (n m : Nat) : List Nat := (List.range n).filter (bitAt m)

/-- m with bit i set. -/
def setBit (m i : Nat) : Nat := m ||| 2 ^ i

/-- m with bit i clear. -/
def clrBit (m i : Nat) : Nat := if bitAt m i then m - 2 ^ i else m

/-- The number of set bits of m below n. -/
def popCount (n m : Nat) : Nat := (maskList n m).length

/-- Cuts a list into pieces of n elements (fuel: the list's length). -/
def chunk {α : Type} (n : Nat) : Nat → List α → List (List α)
  | 0, _ => []
  | f + 1, l => if l.isEmpty then [] else l.take n :: chunk n f (l.drop n)

/-- Saturating 16-bit increment. -/
def satInc (cap n : Nat) : Nat := if n + 1 > cap then cap else n + 1

/-- One more, in a counter that wraps at n bits. -/
def inc64 (w : W64) : W64 := w + 1

end Sys2Proof.Machine
end

