-- ==== Sys2Proof/Syntax.lean ====
section
/-! DEFINITION. The commands of the block: one constructor for each row of the opcode table, with the row's operands.
Units are named by number: an engine by its global engine number ge (R8), an array by 0 to 3, a home by 0 to 31 (HBM) or 32
and 33 (LPDDR), a die by 0 to 7 (compute), 8 and 9 (hc0, hc1), 10 and 11 (ed0, ed1). Operands that are measured by the
hardware (a power, a temperature, a test's outcome, a received frame) come with the command. -/

namespace Sys2Proof

/-- What a host core, or a cluster's page walker, does with a line that it owns: nothing more, a store of bytes, an atomic
(numbered as for anc), a load-reserved, or a store-conditional. -/
inductive CoreAct where
  | none
  | store (data : List Byte)
  | amo (width op : Nat) (v : W64)
  | lr
  | sc (data : List Byte)
  deriving DecidableEq, Repr

/-- A request of a PCIe device: its device ID, its process ID if it gives one, and Relaxed Ordering (R206, R220). -/
structure IoReq where
  dev : Nat
  pid : Option Nat
  relaxed : Bool
  deriving DecidableEq, Repr


/-- The step header of a Relay frame (R280). -/
structure StepHdr where
  team : Nat
  step : Nat
  member : Nat
  lsExp : Int
  halve : Bool
  ovf : Bool
  inv : Bool
  poison : Bool
  digest64 : Nat
  deriving DecidableEq, Repr

/-- What a frame carries beside its payload: an ACK's CUM_PSN, map of later PSNs and completed messages with the accepted
counts of bundles; a NACK's reason and (PATH, PATH_SEQ) pairs; a CREDIT's packet limit, message credits or demand; an OPEN's
class and credits; and with a DATA frame what its message needs to land (R263, R271): a bundle's CODE_BYTES and SCALE_BYTES,
or a contribution's byte offset in the posted region, contributor index and DONE mark. (log 53 DESIGN CHOICE) -/
inductive RBody where
  | plain
  | ack (cum map : Nat) (done : List (Nat × Nat))
  | nack (reason : Nat) (pairs : List (Nat × Nat))
  | credit (limit : Option Nat) (msgs demand : Nat)
  | opening (cls credits : Nat)
  | bundle (codeBytes scaleBytes : Nat)
  | grad (off contrib : Nat) (done : Bool)
  deriving DecidableEq, Repr

/-- A Relay frame (R278, R279): TYPE, FLAGS, stream entries and the other header fields; resv is nonzero where any reserved
field, the version or a reserved flag pattern is not as R279 asks. (log 53 DESIGN CHOICE) -/
structure RFrame where
  type : Nat
  cls : Nat
  retx : Bool := false
  first : Bool := false
  last : Bool := false
  dst : Nat
  src : Nat
  path : Nat := 0
  tcls : Nat := 0
  psn : Nat := 0
  pathSeq : Nat := 0
  msgId : Nat := 0
  msgOff : Nat := 0
  tstamp : Nat := 0
  resv : Nat := 0
  step : Option StepHdr := none
  /-- The poison extension's mask (R287). -/
  pmask : Nat := 0
  payload : List Byte := []
  body : RBody := .plain
  deriving DecidableEq, Repr

/-- How a frame arrived (R256, R278): receiving port, the VID of its tag if it has one, checksum and FCS good, ECN CE mark,
and the generation tag of the port's traffic (R384). -/
structure Arrival where
  port : Nat
  vid : Option Nat := none
  good : Bool := true
  ce : Bool := false
  gen : Nat := 0
  deriving DecidableEq, Repr

/-- A checkpoint image as a restore reads it (R388): the eight words of the manifest header, the region entries and the bytes of
each region. -/
structure CkptImage where
  words : List W64
  entries : List (Nat × W64)
  regions : List (List Byte)
  deriving DecidableEq, Repr

/-- One cell of a weight set of the packed-mode test (R82): weights as O9 codes (BF16 in mode 3), scale code, metadata byte. -/
structure TestCell where
  ops : List Nat
  scale : Nat
  meta8 : Nat
  deriving DecidableEq, Repr

/-- One activation row of the test: for each grid row its operands' codes and its scale code. -/
structure TestRow where
  ops : List (List Nat)
  scales : List Nat
  deriving DecidableEq, Repr

/-- One problem of the test: mode, weight set by grid row and column, activation rows, the tile that takes the result (a
quarter-slot of the first quarter of the store, or a slot), and whether the pass overwrites. -/
structure TestProblem where
  mode : Nat
  cells : List (List TestCell)
  rows : List TestRow
  tile : Nat
  overwrite : Bool
  deriving DecidableEq, Repr

/-- The test program of the signed configuration image (R82): the problem sequence of the quadrants and of the whole array, with
their golden CRC-64 tallies. (log 140 DESIGN CHOICE) -/
structure TestProgram where
  quads : List TestProblem
  whole : List TestProblem
  goldenQ : W64
  goldenW : W64
  deriving DecidableEq, Repr

/-- A command on the management ring to a unit (R406): to drain a slot, to rein a compute die, or one that changes nothing here. -/
inductive MgmtCmd where
  | none
  | drain (slot : Nat)
  | rein (die duty : Nat)
  deriving DecidableEq, Repr

/-- What the two mask ROMs and the firmware find in the flash at a boot: the Ostler cores that cannot recover the package secret from
their die's record (R465), and the SEQ numbers of the repair records that fail verification (R473). -/
structure FlashFinds where
  noSecret : List Nat := []
  badRepairs : List Nat := []
  deriving DecidableEq, Repr

/-- What happens outside the block's registers at a boot: the ed0 core announces a role epoch within 2 s, and what the flash gives. -/
structure BootFinds where
  ed0 : Bool
  flash : FlashFinds := {}
  deriving DecidableEq, Repr

/-- A test run on a slot (R82): the program, and the tallies that come out wrong, as (array, quadrant or 4 for the whole array, XOR
onto the tally). -/
structure SlotTest where
  prog : TestProgram
  bad : List (Nat × Nat × W64)
  deriving DecidableEq, Repr

/-- The tests of a die's spares: the program, and the tallies that come out wrong, each behind its spare's slot. -/
structure SpareTests where
  prog : TestProgram
  bad : List (Nat × Nat × Nat × W64)
  deriving DecidableEq, Repr

/-- A register address with the width of its access in bytes (R202). -/
structure RegAt where
  pa : Nat
  width : Nat
  deriving DecidableEq, Repr

/-- The bytes of a write to a granule: their number, 4 or 8, and the word. -/
structure WriteWord where
  width : Nat
  v : W64
  deriving DecidableEq, Repr

/-- A mailbox channel and the word written to its offset 0x000. -/
structure MailboxWrite where
  ch : Nat
  w : W64
  deriving DecidableEq, Repr

/-- Groups of a chain instruction that enter, and the bubbles inserted among them (R132, R136). -/
structure ChainGroups where
  groups : Nat
  dry : Nat
  deriving DecidableEq, Repr

/-- The core of the host die that asks for a line, and what it does with it. -/
structure CoreUse where
  core : Nat
  act : CoreAct
  deriving DecidableEq, Repr

/-- What a read for ownership is for: core and act; nc: the page is PBMT NC or IO (R248); err: the home's read of memory meets an
uncorrectable error (R223, R224). -/
structure OwnUse where
  core : Nat
  act : CoreAct
  nc : Bool
  err : Bool
  deriving DecidableEq, Repr

/-- Of an uncached read: the PCIe device of an edge die that asks, in whose address space the address then lies; and err as for OwnUse. -/
structure ReadCase where
  io : Option IoReq
  err : Bool
  deriving DecidableEq, Repr

/-- Of an uncached write: the writer defers invalidation on STREAMING regions (engine, Relay, NVMe); the PCIe device as for ReadCase. -/
structure WriteCase where
  defer : Bool
  io : Option IoReq
  deriving DecidableEq, Repr

/-- The operand of an atomic at the home, and err as for OwnUse. -/
structure AmoCase where
  v : W64
  err : Bool
  deriving DecidableEq, Repr

/-- The line of a message unacknowledged; and where the silent die is contained, the lines that could not be written back and the
engines whose state could not be read. -/
structure AckLoss where
  pa : Nat
  lines : List Nat
  engines : List Nat
  deriving DecidableEq, Repr

/-- An error in a directory set: fixed, the address of a line whose entry's error was corrected; none, uncorrectable, with the lines
and engines lost where a second one contains the die. -/
structure SetError where
  set : Nat
  fixed : Option Nat
  lines : List Nat
  engines : List Nat
  deriving DecidableEq, Repr

/-- The bytes of a contribution with their byte mask (R110). -/
structure MaskedData where
  mask : List Bool
  data : List (Byte × Bool)
  deriving DecidableEq, Repr

/-- A port, and its peer's MAC address that link training learns in NATIVE mode (R256). -/
structure PortPeer where
  port : Nat
  mac : Nat
  deriving DecidableEq, Repr

/-- What the world outside the Ostler does while it serves a dictionary request: whether the flash commits what the request
stores, the lines lost where the request resets a host die or core or takes the package into Hobble or sleep, and the dies that would exceed their power cap during a handover. -/
structure DictEnv where
  nor : Bool := true
  lost : List Nat := []
  dies : List Nat := []
  deriving DecidableEq, Repr

/-- A command of the block. (log 4 DESIGN CHOICE) -/
inductive Instr where
  -- CTL (R173)
  | ctlNop (ge : Nat)
  | ctlLi (ge rd : Nat) (imm : W32)
  | ctlLih (ge rd : Nat) (imm : W32)
  | ctlAdd (ge rd ra rb : Nat)
  | ctlSub (ge rd ra rb : Nat)
  | ctlMul (ge rd ra rb : Nat)
  | ctlAnd (ge rd ra rb : Nat)
  | ctlOr (ge rd ra rb : Nat)
  | ctlXor (ge rd ra rb : Nat)
  | ctlAddi (ge rd ra : Nat) (imm : W32)
  | ctlSlli (ge rd ra : Nat) (imm : W32)
  | ctlSrli (ge rd ra : Nat) (imm : W32)
  | ctlSrai (ge rd ra : Nat) (imm : W32)
  | ctlAndi (ge rd ra : Nat) (imm : W32)
  | ctlBeq (ge ra rb : Nat) (imm : W32)
  | ctlBne (ge ra rb : Nat) (imm : W32)
  | ctlBlt (ge ra rb : Nat) (imm : W32)
  | ctlBge (ge ra rb : Nat) (imm : W32)
  | ctlBltu (ge ra rb : Nat) (imm : W32)
  | ctlBgeu (ge ra rb : Nat) (imm : W32)
  | ctlJal (ge rd : Nat) (imm : W32)
  | ctlJr (ge ra : Nat)
  | ctlLds (ge rd ra : Nat) (imm : W32)
  | ctlSts (ge ra rb : Nat) (imm : W32)
  | ctlDld (ge rd ra : Nat) (imm : W32)
  | ctlDst (ge ra rb : Nat) (imm : W32)
  | ctlDsetw (ge rd ra : Nat) (imm : W32)
  | ctlDaddw (ge rd ra : Nat) (imm : W32)
  | ctlRds (ge rd : Nat) (imm : W32)
  | ctlYieldpt (ge : Nat) (imm : W32)
  | ctlFault (ge : Nat) (imm : W32)
  | ctlEnd (ge : Nat) (imm : W32)
  /-- An instruction word that breaks R172. -/
  | illegalInstruction (ge : Nat) (word : W64)
  | yieldSave (ge waves : Nat)
  | streamEnd (ge waves : Nat)
  | yieldGapExceeded (ge : Nat)
  | overrun (ge : Nat)
  -- MOV (R174)
  | movCopy (ge q ds dd : Nat)
  | movFill (ge q dd ra : Nat)
  | movCmb (ge q ds dd ra : Nat) (imm : W32)
  | movCdone (ge q dd ra : Nat) (imm : W32)
  | movCopen (ge q ds : Nat)
  | movCclose (ge q dd : Nat)
  | movTransferComplete (ge q : Nat)
  | moveUnitFault (ge q : Nat)
  | regEccError (ge : Nat)
  -- MTX (R175)
  | mtxRun (ge arr rb : Nat) (imm : W32)
  | mtxTdecl (ge arr : Nat) (imm : W32)
  | mtxTrel (ge arr : Nat) (imm : W32)
  | mtxTzero (ge arr : Nat) (imm : W32)
  | mtxTclr (ge arr : Nat) (imm : W32)
  | mtxTsave (ge arr dr : Nat) (imm : W32)
  | mtxTrest (ge arr dr : Nat) (imm : W32)
  | mtxTstat (ge arr rd : Nat) (imm : W32)
  | mtxFmtld (ge dr : Nat) (imm : W32)
  | formatSlotLoad (ge : Nat)
  | passStart (ge arr : Nat)
  /-- One wave of an array: dry, the scratchpad did not deliver the row in time; busy, the accumulator write port is busy
  (R69); fill, a filler row is due in a bubble while the governor requests them (R71). -/
  | arrayWave (ge arr : Nat) (dry busy fill : Bool)
  | shadowLoadRead (ge arr : Nat)
  | shadowLoadBankWrite (ge arr : Nat)
  | finishedTileRaise (ge arr tile : Nat)
  | arrayHwFault (ge arr code : Nat)
  /-- unit 0 to 3 an array, 4 the chain. -/
  | handshakeTimeout (ge unit : Nat)
  -- VCH (R178)
  | vchRun (ge rp rc : Nat) (imm : W32)
  | vchCrvld (ge dr : Nat) (imm : W32)
  | vchCclr (ge : Nat) (imm : W32)
  | vchCstat (ge rd : Nat)
  | curveSlotLoad (ge : Nat)
  | chainInstrStart (ge : Nat)
  | chainInstrComplete (ge : Nat) (p : ChainGroups)
  | chainHwFault (ge code : Nat)
  -- SYN (R180) and the fences at the homes
  | synFenceData (ge : Nat)
  | synFenceFlag (ge ra rb : Nat)
  | synWait (ge cond ra rb rd : Nat) (imm : W32)
  | synWaitSatisfied (ge waves : Nat)
  | synWaitTimeout (ge waves : Nat)
  | fenceFlagMarker (home ctx : Nat)
  | fenceFlagWrite (ctx : Nat)
  | staleLogOverflow (home : Nat)
  -- region attributes, offload streams, translation (R206 to R222)
  | regionAttrGo (w1 : W64)
  | regionAttrDone
  | offloadStreamEnable (home stream : Nat) (w1 : W64)
  /-- carried: of the bytes counted, how many the stream received within the interval. -/
  | offloadShortInterval (home stream carried : Nat) (demand : Bool)
  | iotinvalVma (inst dev : Nat) (all : Bool) (va : Nat)
  | iotinvalGvma (inst dev : Nat) (all : Bool) (va : Nat)
  | iodirInvalDdt (inst dev : Nat) (all : Bool)
  | iodirInvalPdt (inst dev pid : Nat)
  | iofenceC (inst : Nat) (flag : Option (Nat × W32))
  | iofenceCComplete (inst : Nat)
  -- the harness (R231 to R251)
  /-- A cacheable read by an agent (R233: clusters 0 to 95, host dies 96 and 97, command processors 98 to 105, edge dies 106 and
  107), for a core of the die where the agent is a host die; err: the home's read of memory meets an uncorrectable error (R223,
  R224). -/
  | rs (agent pa core : Nat) (err : Bool)
  | ru (agent pa : Nat) (u : OwnUse)
  | upg (agent pa : Nat) (u : CoreUse)
  | rnc (agent pa n : Nat) (r : ReadCase)
  /-- A write of at most one line. -/
  | wnc (agent pa : Nat) (data : List (Byte × Bool)) (w : WriteCase)
  /-- An atomic at the home: op 0 swap, 1 add, 2 xor, 3 and, 4 or, 5 min, 6 max, 7 minu, 8 maxu; width 4 or 8. -/
  | anc (agent pa width op : Nat) (x : AmoCase)
  | putm (agent pa : Nat)
  | puto (agent pa : Nat)
  | pute (agent pa : Nat)
  | forward (agent pa : Nat)
  | invalidation (agent pa : Nat)
  | invalidationAck (agent pa : Nat)
  | dataResponse (agent pa : Nat)
  | completionAck (agent pa : Nat)
  | putAck (agent pa : Nat)
  | retry (agent pa : Nat)
  | grant (home : Nat)
  | release (home num agent : Nat)
  | creditLapse (home num : Nat)
  | lrDeferEnd (core : Nat)
  | harnessAckTimeout (agent : Nat) (x : AckLoss)
  | cacheAgentLost (agent : Nat)
  | dirUncorrectableError (home : Nat) (x : SetError)
  | setRecall (agent home set : Nat)
  -- combine (R107 to R127)
  /-- The eight descriptor words with physical addresses, and the opening context. -/
  | combineOpen (home : Nat) (words : List W64) (owner : Nat)
  /-- src: the sending engine, or none for the Relay unit. -/
  | combineContribution (pa type epoch contrib : Nat) (d : MaskedData) (src : Option Nat)
  | combineDone (pa epoch contrib : Nat) (src : Option Nat)
  /-- owner none: the Relay unit at step close. -/
  | combineClose (pa : Nat) (owner : Option Nat)
  | combineApplyComplete (pa : Nat)
  | combineRefusal
  | combineUnitFault (home : Nat)
  -- Relay operations (R271)
  | rlyDispatch (ge ds dd ra rb : Nat) (imm : W32)
  | rlySend (ge ds ra rb : Nat) (imm : W32)
  | rlyPostrx (ge dd ra rb : Nat) (imm : W32)
  | rlyReturn (ge ds dd ra : Nat) (imm : W32)
  | rlyStepflags (ge ra : Nat) (imm : W32)
  | rlyCancelrx (ge ra : Nat) (imm : W32)
  -- Relay ports, frames, streams and steps (R253 to R294); a stream is named by its number (R497)
  | portLinkUp (p : PortPeer)
  | laneFailure (port lane : Nat)
  | laneSpareComplete (port : Nat)
  | packetTransmit (stream : Nat)
  | frameData (a : Arrival) (f : RFrame)
  | frameAck (a : Arrival) (f : RFrame)
  | frameNack (a : Arrival) (f : RFrame) (now : Nat)
  | frameCredit (a : Arrival) (f : RFrame)
  | frameOpen (a : Arrival) (f : RFrame)
  | frameOpenAck (a : Arrival) (f : RFrame)
  | frameOpenNack (a : Arrival) (f : RFrame)
  | frameClose (a : Arrival) (f : RFrame)
  | frameProbe (a : Arrival) (f : RFrame)
  | frameProbeAck (a : Arrival) (f : RFrame)
  | openRetryTimer (stream : Nat)
  | retransmitTimeout (stream psn now : Nat)
  | noPathTimeout (stream : Nat)
  | ackTimer (stream : Nat)
  | probeTimer (stream : Nat)
  | earlyRetry
  | stepDeadline (step : Nat)
  | stepCloseRecord (step : Nat)
  | relayUnitFault (unit : Nat)
  | streamQuerySelect (reader : Nat) (data : List Byte)
  | streamClose (stream : Nat)
  -- verdicts and lent memory (R308, R309, R323)
  | verdictReport (member step : Nat) (halve incomplete : Bool)
  | verdictWaitExpiry (step : Nat)
  | verdictReceive (step : Nat) (halve incomplete : Bool) (lsNext : Int) (clean : Nat)
  | commitDeadline (step : Nat)
  | lendWriteRequest (member off : Nat) (data : List (Byte × Bool))
  | lendReadRequest (member off len : Nat)
  | lendEnableWrite (v : Nat)
  | lendNoticeExpiry
  -- replay, replicas and members (R394 to R402)
  | replayStallTimeout (step : Nat)
  | groupTallyReport (member step group : Nat) (tally : W64)
  /-- The triples of one block that differ, by holder: member, TALLY, N_UPD, EPOCH, and whether its body matches its tally. -/
  | replicaTripleExchange (group handle step : Nat) (triples : List (Nat × W64 × Nat × Nat × Bool))
  | replicaRepairInstall (group handle step : Nat) (data : List Byte)
  | replicaScrub (step : Nat)
  | memberSuspect (member : Nat)
  | declareLost (member : Nat)
  -- the NVMe initiators and checkpoints (R324, R325, R386 to R391)
  | nvmeRingPoll (unit ring : Nat)
  | nvmeRead (unit : Nat)
  | nvmeWrite (unit : Nat)
  | nvmeWriteFua (unit : Nat)
  | nvmeFlush (unit : Nat)
  | nvmeDeallocate (unit : Nat)
  | nvmeWriteZeroes (unit : Nat)
  /-- A controller answers a request: its status field (SCT and SC) and, for a READ, the data. -/
  | nvmeCompletion (unit id status : Nat) (data : List Byte)
  | checkpointPoint (step : Nat)
  | checkpointCopyComplete
  /-- Whether every write of the drain succeeded. -/
  | checkpointDrainComplete (stored : Bool)
  | checkpointRestore (images : List CkptImage)
  -- paddocks, contexts and the scheduler (R329 to R349)
  /-- A paddock's scheduler decides: the mean advance of its engines' waves since the last decision, and for each context the
  engine-waves billed to it, those spent saving and restoring, and those not billed for re-execution and rein. -/
  | schedulerDecision (p delta : Nat) (bills : List (Nat × Nat × Nat × Nat × Nat))
  | sliceEnd (ctx : Nat)
  | blockThresholdReached (ctx : Nat)
  | contextDispatch (ctx : Nat)
  | swapOutComplete (ctx : Nat)
  | swapInComplete (ctx : Nat)
  | paddockStart (p : Nat)
  | paddockStop (p : Nat)
  | paddockDrainComplete (p : Nat)
  /-- hi: paddock_clusters_hi, else paddock_clusters_lo. -/
  | paddockClustersWrite (p : Nat) (hi : Bool) (v : Nat)
  /-- count: ring_count, else ring_first. -/
  | ringRangeWrite (p : Nat) (count : Bool) (v : Nat)
  | paddockRangeWrite (p entry word : Nat) (v : W64)
  | shareWeightWrite (ctx v : Nat)
  /-- waves: those that pass up to the stop. -/
  | fullSaveStop (ctx waves : Nat)
  | fullSaveResume (ge arr : Nat)
  -- command rings and host dies (R351 to R372)
  | doorbell (ring : Nat) (d : WriteWord)
  | doorbellContinue (ring : Nat)
  | doorbellReset (ring : Nat)
  /-- A write of RING_CTL with GO in the window of a die's command processor: the word written. -/
  | ringEnable (die : Nat) (w : W64)
  | ringDisable (die : Nat) (w : W64)
  | ringCtlReset (die : Nat) (w : W64)
  -- the command at the head of a ring
  | cmdNop (ring : Nat)
  | cmdLaunch (ring : Nat)
  | cmdWrite (ring : Nat)
  | cmdCmb (ring : Nat)
  | cmdWait (ring : Nat)
  | cmdWaitPoll (ring : Nat)
  | cmdWaitTimeout (ring : Nat)
  | cmdCreate (ring : Nat)
  | cmdDestroy (ring : Nat)
  | cmdUnknownOpcode (ring : Nat)
  | launchComplete (ctx : Nat)
  /-- The lines (address / 64) that could not be written back. -/
  | hostDieReset (die : Nat) (lost : List Nat)
  /-- The core's L2 lines that are not written back in time, and those whose write-back fails (R228). -/
  | hostCoreReset (hart : Nat) (late failed : List Nat)
  | hostDieResetExit (die : Nat)
  -- registers of MMIO (R10, R92, R201): the agent is the host die
  | registerWrite (agent pa width : Nat) (v : W64)
  | snapshotRead (agent : Nat) (x : RegAt)
  | chainStatusW1c (ge : Nat) (v : W64)
  | rangeErrorW1c (p : Nat) (v : W64)
  -- the Studbook (R446 to R461): the oldest event raised; readers are numbered as clients (R421)
  | studbookSubmit
  | tokenRefill
  | studbookRecordWrite
  | recorderFailure (recorder : Nat)
  | studbookNorCopyDone
  | studbookRecordRead (reader : Nat)
  | qvaRecordRead (reader : Nat)
  | swRecord (data : List Byte)
  | triggerEntryWrite (data : List Byte)
  | rateLimitWrite (burst : Bool) (v : Nat)
  -- power, gait and heat (R425 to R444)
  /-- PRED and the live count of a cluster's monitor, in Mwave/s. -/
  | gaitMonitorSample (cluster pred live : Nat)
  /-- Mean power of each compute die; power of stacks, edge dies and regulation; powers of the host dies; hottest valid reading of
  each of the twelve dies and of each stack; compute dies whose AVSBus failed; lines lost if the package enters Hobble. -/
  | governorInterval (powers : List Nat) (other : Nat) (hosts : List Nat) (temps hbm : List Int) (avs lost : List Nat)
  | floorBreachClear
  | groomPowerSample (die power : Nat)
  | slewWindow (mean : Nat) (dies : List Nat) (full : Bool)
  | coolantDemandUpdate (mean : Nat)
  | liveCalibration (cluster pred live : Nat)
  | replicaSelfCheck (cluster cal : Nat)
  | avsbusRetry (die : Nat) (good : Bool)
  | supplyFault (lost : List Nat)
  /-- Each sensor's reading, its expected offset, and whether it has stuck. -/
  | sensorCheck (die : Nat) (reads : List (Int × Int × Bool))
  | eyeRetrainScan (pc : Nat)
  | eyeRetrainHold (pc : Nat)
  | thermalTrip (die : Nat) (lost : List Nat)
  | hobbleRequest (lost : List Nat)
  | hobbleExit
  | hobbleAutoExit
  | sleepRequest (lost : List Nat)
  -- service states, containment, Remount (R21, R22, R81, R82, R378 to R383); slots are numbered cluster * 9 + e
  | slotAdmission (slot : Nat)
  | drainRequest (slot : Nat)
  /-- Whether an edge die's reset succeeds, lines that caches cannot write back, engines whose state cannot be read. -/
  | containmentReport (kind unit : Nat) (resetOk : Bool) (lines engines : List Nat)
  | containmentClear (kind unit : Nat)
  | remount (slot : Nat) (test : SlotTest) (readable : Bool)
  | spareMapCommit (slot : Nat)
  | remountResume (slot : Nat) (readable : Bool)
  | unitReadmission (kind unit : Nat) (pass bySleep : Bool)
  | packedModeEnter (slot arr : Nat)
  | packedModeExit (slot arr : Nat)
  | packedModeTest (slot : Nat) (test : SlotTest)
  | spareTestInterval (die : Nat) (tests : SpareTests)
  -- lands, power-up and boot (R468 to R471, R490, R494); straps: bit 0 STRAP_RECOVERY, bit 1 STRAP_TEST
  | standbyPowerOn
  | pkgResetAssert
  | pkgResetRelease (straps : Nat) (finds : BootFinds)
  | roleAnnounceTimeout
  | bootWatchdogReset
  /-- sig: after the last chunk, whether the image's signature verifies. -/
  | recoveryImageChunk (data : List Byte) (last sig : Bool)
  /-- A rail by its bit of power_good; units (kind, number) that fail their test where this ends the sequence. -/
  | powerGoodRise (rail : Nat) (failed : List (Nat × Nat))
  | powerGoodTimeout (rail : Nat) (lost : List Nat)
  | powerGoodFall (rail : Nat) (lost : List Nat)
  | powerBrakeAssert
  | powerBrakeRelease
  | wakeNAssert
  | vstbyLoss
  | tapBypass (data : List Bool)
  | tapSamplePreload (pins data : List Bool)
  | tapExtest (pins data : List Bool)
  | tapIdcode
  | tapReset
  -- the Ostler role and the Grooms (R406 to R410, R476); Grooms cd0 to cd7, hc0, hc1, ed0, ed1
  | ostlerHeartbeat
  /-- Dies that would exceed their power cap during the handover (R19). -/
  | standbyTakeover (dies : List Nat)
  | handoverRequest (dies : List Nat)
  | standbySelfTestPass
  | standbySyncComplete
  | mgmtRingCommand (epoch : Nat) (cmd : MgmtCmd)
  | groomHeartbeat (groom : Nat)
  | groomSilent (groom : Nat) (resetOk : Bool) (lines engines : List Nat)
  | groomRestartReport (groom : Nat)
  | groomReportTimeout (groom : Nat) (resetOk : Bool) (lines engines : List Nat)
  | groomHoldTimeout (lost : List Nat)
  | groomWatchdogRestart (groom : Nat)
  -- update, repair log, attestation (R472 to R480)
  | updateLoad
  | updateLoadComplete (sig flash : Bool)
  | updateGrooms
  | updateOstler
  | updateAtReset
  | updateCommitSvn
  | repairRecordCommit (kind : Nat)
  | attestNonce (reader : Nat) (nonce : List Byte)
  | bottomTreeCompute
  -- the dictionary's paths (R418 to R421, R373, R374)
  /-- eid: the request came by MCTP from that endpoint; else over the management Ethernet. -/
  | odpRead (eid : Option Nat) (frame : List Byte)
  | odpWrite (eid : Option Nat) (env : DictEnv) (frame : List Byte)
  | odpWriteSet (eid : Option Nat) (env : DictEnv) (frame : List Byte)
  | odpReadStaged (eid : Option Nat) (frame : List Byte)
  | odpEnum (eid : Option Nat) (frame : List Byte)
  /-- op 0 sets, 1 forces, 2 resets the endpoint ID, 3 sets the discovered flag. -/
  | mctpSetEndpointId (op eid : Nat)
  | mctpGetEndpointId
  | mctpGetVersionSupport (type : Nat)
  | mctpGetMessageTypeSupport
  | mctpGetVendorMsgSupport (selector : Nat)
  | i3cEntdaa (addr : Nat)
  | i3cSetdasa (target addr : Nat)
  /-- w: the word written with GO to offset 0x000 of the channel. -/
  | mailboxSubmit (ch : Nat) (w : W64) (env : DictEnv)
  | mailboxDoneClear (x : MailboxWrite)
  deriving DecidableEq, Repr

end Sys2Proof
end

