-- ==== Sys2Proof/Decode.lean ====
section
/-! DEFINITION. The commands of the block are not words: no row of the opcode table gives bits (its header says so), so no
word of the table spells a command. The stream instructions among them are 64-bit words in memory (R172): decodeTheser reads
the command of one, encodeTheser writes it. -/

namespace Sys2Proof

open Sys2Proof.Machine (bits)

/-- The command that a word spells by the bits of the opcode table: the table gives no row any bits, so none. -/
def decodeTableWord (_nbits _w : Nat) : Option Instr := none

/-! ### Words of a stream (R172) -/

/-- The IMM field [63:32]. -/
def immOf (w : Nat) : W32 := BitVec.ofNat 32 (bits w 63 32)

/-- CTL (R173): RD [13:9], RA [18:14], RB [23:19]. -/
def decodeCtl (ge w : Nat) : Option Instr :=
  let rd := bits w 13 9
  let ra := bits w 18 14
  let rb := bits w 23 19
  let imm := immOf w
  if bits w 31 24 ≠ 0 then none else
  match bits w 8 3 with
  | 0x00 => some (.ctlNop ge)
  | 0x01 => some (.ctlLi ge rd imm)
  | 0x02 => some (.ctlLih ge rd imm)
  | 0x03 => some (.ctlAdd ge rd ra rb)
  | 0x04 => some (.ctlSub ge rd ra rb)
  | 0x05 => some (.ctlMul ge rd ra rb)
  | 0x06 => some (.ctlAnd ge rd ra rb)
  | 0x07 => some (.ctlOr ge rd ra rb)
  | 0x08 => some (.ctlXor ge rd ra rb)
  | 0x09 => some (.ctlAddi ge rd ra imm)
  | 0x0A => some (.ctlSlli ge rd ra imm)
  | 0x0B => some (.ctlSrli ge rd ra imm)
  | 0x0C => some (.ctlSrai ge rd ra imm)
  | 0x0D => some (.ctlAndi ge rd ra imm)
  | 0x10 => some (.ctlBeq ge ra rb imm)
  | 0x11 => some (.ctlBne ge ra rb imm)
  | 0x12 => some (.ctlBlt ge ra rb imm)
  | 0x13 => some (.ctlBge ge ra rb imm)
  | 0x14 => some (.ctlBltu ge ra rb imm)
  | 0x15 => some (.ctlBgeu ge ra rb imm)
  | 0x16 => some (.ctlJal ge rd imm)
  | 0x17 => some (.ctlJr ge ra)
  | 0x18 => some (.ctlLds ge rd ra imm)
  | 0x19 => some (.ctlSts ge ra rb imm)
  | 0x1A => some (.ctlDld ge rd ra imm)
  | 0x1B => some (.ctlDst ge ra rb imm)
  | 0x1C => some (.ctlDsetw ge rd ra imm)
  | 0x1D => some (.ctlDaddw ge rd ra imm)
  | 0x1E => some (.ctlRds ge rd imm)
  | 0x30 => some (.ctlYieldpt ge imm)
  | 0x3E => some (.ctlFault ge imm)
  | 0x3F => some (.ctlEnd ge imm)
  | _ => none

/-- MOV (R174): DD [12:9], DS [16:13], Q [18:17], RA [23:19]. The operations without an IMM operand have IMM 0. -/
def decodeMov (ge w : Nat) : Option Instr :=
  let dd := bits w 12 9
  let ds := bits w 16 13
  let q := bits w 18 17
  let ra := bits w 23 19
  let imm := immOf w
  let plain (i : Instr) : Option Instr := if imm = 0 then some i else none
  if bits w 31 24 ≠ 0 then none else
  match bits w 8 3 with
  | 0x00 => plain (.movCopy ge q ds dd)
  | 0x01 => plain (.movFill ge q dd ra)
  | 0x02 => some (.movCmb ge q ds dd ra imm)
  | 0x03 => some (.movCdone ge q dd ra imm)
  | 0x04 => plain (.movCopen ge q ds)
  | 0x05 => plain (.movCclose ge q dd)
  | _ => none

/-- MTX (R175): ARRAY [10:9], RB [15:11], RD [20:16], DR [24:21]; mtx.fmtld requires ARRAY 0. -/
def decodeMtx (ge w : Nat) : Option Instr :=
  let arr := bits w 10 9
  let rb := bits w 15 11
  let rd := bits w 20 16
  let dr := bits w 24 21
  let imm := immOf w
  if bits w 31 25 ≠ 0 then none else
  match bits w 8 3 with
  | 0x00 => some (.mtxRun ge arr rb imm)
  | 0x01 => some (.mtxTdecl ge arr imm)
  | 0x02 => some (.mtxTrel ge arr imm)
  | 0x03 => some (.mtxTzero ge arr imm)
  | 0x04 => some (.mtxTclr ge arr imm)
  | 0x05 => some (.mtxTsave ge arr dr imm)
  | 0x06 => some (.mtxTrest ge arr dr imm)
  | 0x07 => some (.mtxTstat ge arr rd imm)
  | 0x08 => if arr = 0 then some (.mtxFmtld ge dr imm) else none
  | _ => none

/-- VCH (R178): RP [13:9], RC [18:14], DR [22:19], RD [27:23]; vch.cstat has IMM 0. -/
def decodeVch (ge w : Nat) : Option Instr :=
  let rp := bits w 13 9
  let rc := bits w 18 14
  let dr := bits w 22 19
  let rd := bits w 27 23
  let imm := immOf w
  if bits w 31 28 ≠ 0 then none else
  match bits w 8 3 with
  | 0x00 => some (.vchRun ge rp rc imm)
  | 0x01 => some (.vchCrvld ge dr imm)
  | 0x02 => some (.vchCclr ge imm)
  | 0x03 => if imm = 0 then some (.vchCstat ge rd) else none
  | _ => none

/-- RLY (R179, R271): DD [12:9], DS [16:13], RA [21:17], RB [26:22]. -/
def decodeRly (ge w : Nat) : Option Instr :=
  let dd := bits w 12 9
  let ds := bits w 16 13
  let ra := bits w 21 17
  let rb := bits w 26 22
  let imm := immOf w
  if bits w 31 27 ≠ 0 then none else
  match bits w 8 3 with
  | 0x00 => some (.rlyDispatch ge ds dd ra rb imm)
  | 0x01 => some (.rlySend ge ds ra rb imm)
  | 0x02 => some (.rlyPostrx ge dd ra rb imm)
  | 0x03 => some (.rlyReturn ge ds dd ra imm)
  | 0x04 => some (.rlyStepflags ge ra imm)
  | 0x05 => some (.rlyCancelrx ge ra imm)
  | _ => none

/-- SYN (R180): COND [12:9], RA [17:13], RB [22:18], RD [27:23]; the fences have IMM 0. -/
def decodeSyn (ge w : Nat) : Option Instr :=
  let cond := bits w 12 9
  let ra := bits w 17 13
  let rb := bits w 22 18
  let rd := bits w 27 23
  let imm := immOf w
  if bits w 31 28 ≠ 0 then none else
  match bits w 8 3 with
  | 0x00 => if imm = 0 then some (.synFenceData ge) else none
  | 0x01 => if imm = 0 then some (.synFenceFlag ge ra rb) else none
  | 0x02 => some (.synWait ge cond ra rb rd imm)
  | _ => none

/-- The command that an instruction word of engine ge spells: CLASS [2:0] and OP [8:3] listed, no reserved field nonzero.
 (log 146 DEDUCED) -/
def decodeTheser (ge w : Nat) : Option Instr :=
  match bits w 2 0 with
  | 0 => decodeCtl ge w
  | 1 => decodeMov ge w
  | 2 => decodeMtx ge w
  | 3 => decodeVch ge w
  | 4 => decodeRly ge w
  | 5 => decodeSyn ge w
  | _ => none

/-! ### The encoder -/

/-- A CTL word. -/
def ctlWord (op rd ra rb : Nat) (imm : W32) : Nat := 8 * op + 2 ^ 9 * rd + 2 ^ 14 * ra + 2 ^ 19 * rb + 2 ^ 32 * imm.toNat

/-- A MOV word. -/
def movWord (op dd ds q ra : Nat) (imm : W32) : Nat :=
  1 + 8 * op + 2 ^ 9 * dd + 2 ^ 13 * ds + 2 ^ 17 * q + 2 ^ 19 * ra + 2 ^ 32 * imm.toNat

/-- An MTX word. -/
def mtxWord (op arr rb rd dr : Nat) (imm : W32) : Nat :=
  2 + 8 * op + 2 ^ 9 * arr + 2 ^ 11 * rb + 2 ^ 16 * rd + 2 ^ 21 * dr + 2 ^ 32 * imm.toNat

/-- A VCH word. -/
def vchWord (op rp rc dr rd : Nat) (imm : W32) : Nat :=
  3 + 8 * op + 2 ^ 9 * rp + 2 ^ 14 * rc + 2 ^ 19 * dr + 2 ^ 23 * rd + 2 ^ 32 * imm.toNat

/-- An RLY word. -/
def rlyWord (op dd ds ra rb : Nat) (imm : W32) : Nat :=
  4 + 8 * op + 2 ^ 9 * dd + 2 ^ 13 * ds + 2 ^ 17 * ra + 2 ^ 22 * rb + 2 ^ 32 * imm.toNat

/-- A SYN word. -/
def synWord (op cond ra rb rd : Nat) (imm : W32) : Nat :=
  5 + 8 * op + 2 ^ 9 * cond + 2 ^ 13 * ra + 2 ^ 18 * rb + 2 ^ 23 * rd + 2 ^ 32 * imm.toNat

/-- The word of a stream instruction, its unused fields 0; none for a command that no stream holds. -/
def encodeTheser (i : Instr) : Option Nat :=
  match i with
  | .ctlNop _ => some (ctlWord 0x00 0 0 0 0)
  | .ctlLi _ rd imm => some (ctlWord 0x01 rd 0 0 imm)
  | .ctlLih _ rd imm => some (ctlWord 0x02 rd 0 0 imm)
  | .ctlAdd _ rd ra rb => some (ctlWord 0x03 rd ra rb 0)
  | .ctlSub _ rd ra rb => some (ctlWord 0x04 rd ra rb 0)
  | .ctlMul _ rd ra rb => some (ctlWord 0x05 rd ra rb 0)
  | .ctlAnd _ rd ra rb => some (ctlWord 0x06 rd ra rb 0)
  | .ctlOr _ rd ra rb => some (ctlWord 0x07 rd ra rb 0)
  | .ctlXor _ rd ra rb => some (ctlWord 0x08 rd ra rb 0)
  | .ctlAddi _ rd ra imm => some (ctlWord 0x09 rd ra 0 imm)
  | .ctlSlli _ rd ra imm => some (ctlWord 0x0A rd ra 0 imm)
  | .ctlSrli _ rd ra imm => some (ctlWord 0x0B rd ra 0 imm)
  | .ctlSrai _ rd ra imm => some (ctlWord 0x0C rd ra 0 imm)
  | .ctlAndi _ rd ra imm => some (ctlWord 0x0D rd ra 0 imm)
  | .ctlBeq _ ra rb imm => some (ctlWord 0x10 0 ra rb imm)
  | .ctlBne _ ra rb imm => some (ctlWord 0x11 0 ra rb imm)
  | .ctlBlt _ ra rb imm => some (ctlWord 0x12 0 ra rb imm)
  | .ctlBge _ ra rb imm => some (ctlWord 0x13 0 ra rb imm)
  | .ctlBltu _ ra rb imm => some (ctlWord 0x14 0 ra rb imm)
  | .ctlBgeu _ ra rb imm => some (ctlWord 0x15 0 ra rb imm)
  | .ctlJal _ rd imm => some (ctlWord 0x16 rd 0 0 imm)
  | .ctlJr _ ra => some (ctlWord 0x17 0 ra 0 0)
  | .ctlLds _ rd ra imm => some (ctlWord 0x18 rd ra 0 imm)
  | .ctlSts _ ra rb imm => some (ctlWord 0x19 0 ra rb imm)
  | .ctlDld _ rd ra imm => some (ctlWord 0x1A rd ra 0 imm)
  | .ctlDst _ ra rb imm => some (ctlWord 0x1B 0 ra rb imm)
  | .ctlDsetw _ rd ra imm => some (ctlWord 0x1C rd ra 0 imm)
  | .ctlDaddw _ rd ra imm => some (ctlWord 0x1D rd ra 0 imm)
  | .ctlRds _ rd imm => some (ctlWord 0x1E rd 0 0 imm)
  | .ctlYieldpt _ imm => some (ctlWord 0x30 0 0 0 imm)
  | .ctlFault _ imm => some (ctlWord 0x3E 0 0 0 imm)
  | .ctlEnd _ imm => some (ctlWord 0x3F 0 0 0 imm)
  | .movCopy _ q ds dd => some (movWord 0x00 dd ds q 0 0)
  | .movFill _ q dd ra => some (movWord 0x01 dd 0 q ra 0)
  | .movCmb _ q ds dd ra imm => some (movWord 0x02 dd ds q ra imm)
  | .movCdone _ q dd ra imm => some (movWord 0x03 dd 0 q ra imm)
  | .movCopen _ q ds => some (movWord 0x04 0 ds q 0 0)
  | .movCclose _ q dd => some (movWord 0x05 dd 0 q 0 0)
  | .mtxRun _ arr rb imm => some (mtxWord 0x00 arr rb 0 0 imm)
  | .mtxTdecl _ arr imm => some (mtxWord 0x01 arr 0 0 0 imm)
  | .mtxTrel _ arr imm => some (mtxWord 0x02 arr 0 0 0 imm)
  | .mtxTzero _ arr imm => some (mtxWord 0x03 arr 0 0 0 imm)
  | .mtxTclr _ arr imm => some (mtxWord 0x04 arr 0 0 0 imm)
  | .mtxTsave _ arr dr imm => some (mtxWord 0x05 arr 0 0 dr imm)
  | .mtxTrest _ arr dr imm => some (mtxWord 0x06 arr 0 0 dr imm)
  | .mtxTstat _ arr rd imm => some (mtxWord 0x07 arr 0 rd 0 imm)
  | .mtxFmtld _ dr imm => some (mtxWord 0x08 0 0 0 dr imm)
  | .vchRun _ rp rc imm => some (vchWord 0x00 rp rc 0 0 imm)
  | .vchCrvld _ dr imm => some (vchWord 0x01 0 0 dr 0 imm)
  | .vchCclr _ imm => some (vchWord 0x02 0 0 0 0 imm)
  | .vchCstat _ rd => some (vchWord 0x03 0 0 0 rd 0)
  | .rlyDispatch _ ds dd ra rb imm => some (rlyWord 0x00 dd ds ra rb imm)
  | .rlySend _ ds ra rb imm => some (rlyWord 0x01 0 ds ra rb imm)
  | .rlyPostrx _ dd ra rb imm => some (rlyWord 0x02 dd 0 ra rb imm)
  | .rlyReturn _ ds dd ra imm => some (rlyWord 0x03 dd ds ra 0 imm)
  | .rlyStepflags _ ra imm => some (rlyWord 0x04 0 0 ra 0 imm)
  | .rlyCancelrx _ ra imm => some (rlyWord 0x05 0 0 ra 0 imm)
  | .synFenceData _ => some (synWord 0x00 0 0 0 0 0)
  | .synFenceFlag _ ra rb => some (synWord 0x01 0 ra rb 0 0)
  | .synWait _ cond ra rb rd imm => some (synWord 0x02 cond ra rb rd imm)
  | _ => none

end Sys2Proof
end

