-- ==== Sys2Proof/Machine/Smap.lean ====
section
/-! DEFINITION. Sparse storage in one canonical form: keys strictly rising, no entry equal to the default.
Memory, register files, caches and tables are all held so, and equal contents are equal data. -/

namespace Sys2Proof.Machine

/-- A sparse map from Nat keys; what an unlisted key reads as is the default given to each operation. (log 3 DESIGN CHOICE) -/
abbrev SMap (α : Type) := List (Nat × α)

/-- The value at a key. -/
def sget {α : Type} (d : α) : SMap α → Nat → α
  | [], _ => d
  | (k, v) :: r, j => if j = k then v else sget d r j

/-- Writes a key, keeping the canonical form: writing the default removes the entry. -/
def sset {α : Type} [DecidableEq α] (d : α) : SMap α → Nat → α → SMap α
  | [], j, x => if x = d then [] else [(j, x)]
  | (k, v) :: r, j, x =>
    if j < k then (if x = d then (k, v) :: r else (j, x) :: (k, v) :: r)
    else if j = k then (if x = d then r else (j, x) :: r)
    else (k, v) :: sset d r j x

/-- Changes the value at a key. -/
def smod {α : Type} [DecidableEq α] (d : α) (m : SMap α) (j : Nat) (f : α → α) : SMap α :=
  sset d m j (f (sget d m j))

/-- Every entry of the list lies above a bound, strictly rising, and differs from the default. -/
def swfFrom {α : Type} [DecidableEq α] (d : α) : Nat → SMap α → Bool
  | _, [] => true
  | b, (k, v) :: r => decide (b ≤ k) && decide (v ≠ d) && swfFrom d (k + 1) r

/-- The canonical form. -/
def swf {α : Type} [DecidableEq α] (d : α) (m : SMap α) : Bool := swfFrom d 0 m

/-- Writes several keys. -/
def ssetMany {α : Type} [DecidableEq α] (d : α) (m : SMap α) : List (Nat × α) → SMap α
  | [] => m
  | (j, x) :: r => ssetMany d (sset d m j x) r

/-- Writes a run of consecutive keys from base. -/
def ssetRun {α : Type} [DecidableEq α] (d : α) : SMap α → Nat → List α → SMap α
  | m, _, [] => m
  | m, b, x :: r => ssetRun d (sset d m b x) (b + 1) r

/-- The values at n consecutive keys. -/
def sgetRun {α : Type} (d : α) (m : SMap α) (b n : Nat) : List α := (List.range n).map fun i => sget d m (b + i)

/-- Keys at which the map holds a value that satisfies p. -/
def skeys {α : Type} (p : α → Bool) (m : SMap α) : List Nat := (m.filter fun e => p e.2).map Prod.fst

/-- Changes every value, keeping the canonical form. -/
def smapAll {α : Type} [DecidableEq α] (d : α) (f : Nat → α → α) (m : SMap α) : SMap α :=
  (m.map fun e => (e.1, f e.1 e.2)).filter fun e => decide (e.2 ≠ d)

/-- Removes the keys from b up to (not including) e. -/
def sclear {α : Type} (m : SMap α) (b e : Nat) : SMap α := m.filter fun x => x.1 < b || e ≤ x.1

end Sys2Proof.Machine
end

