-- ==== Sys2Proof/Machine/StMem.lean ====
section
/-! DEFINITION. The state of memory and its homes: bytes, poison, region attributes, the coherent caches and directories,
combine units, translation agents and offload streams (R107 to R127, R196 to R252). -/

namespace Sys2Proof.Machine

/-- One byte with its poison mark, as a granule read delivers it (R225). -/
abbrev PByte := Byte × Bool

/-- Memory (R196): bytes keyed by stack-local or per-interface address (an unlisted byte is +0, as initialisation leaves it,
R229), poison granules (address / 64, R223, R224), region attribute entries (address / 2 MiB, R211), and dirty regions.
 (log 3 DESIGN CHOICE) -/
structure Mem where
  bytes : SMap Byte := []
  poison : SMap Bool := []
  attr : SMap Nat := []
  /-- The active and the inactive dirty bitmaps of the homes, by region (R386). -/
  dirty : SMap Bool := []
  dirtyOld : SMap Bool := []
  deriving DecidableEq, Repr

/-- The region attribute command registers and the command in progress (R212): run holds its two words. -/
structure AttrCmd where
  w0 : W64 := 0
  w1 : W64 := 0
  run : W64 × W64 := (0, 0)
  busy : Bool := false
  result : Nat := 0
  done : Nat := 0
  queryAddr : Nat := 0
  deriving DecidableEq, Repr

/-- Cache states of a held line (R231); I is the absence of the line. -/
inductive Moesi where
  | m | o | e | s
  deriving DecidableEq, Repr

/-- A cached line. -/
structure CLine where
  st : Moesi
  data : List Byte
  poison : Bool
  deriving DecidableEq, Repr

/-- DSTATE (R235). -/
inductive DState where
  | s | x | o
  deriving DecidableEq, Repr

/-- A directory entry (R235); its key is the line. CSHARERS are the cluster group bits of R236. -/
structure DirEnt where
  dstate : DState
  openTx : Bool
  owner : Nat
  csharers : Nat
  hsharers : Nat
  eccMark : Bool
  stamp : Nat
  deriving DecidableEq, Repr

/-- Request types (R239). -/
inductive Req where
  | rs | ru | upg | rnc | wnc | anc | putm | puto | pute
  deriving DecidableEq, Repr

/-- An atomic of the AMO set (R246, R248). -/
inductive Amo where
  | swap | add | xor | and | or | min | max | minu | maxu
  deriving DecidableEq, Repr

/-- What a request carries: nothing; the bytes of a write and whether the writer defers invalidation (R211); an atomic for the
home; what a core, or a cluster's walker, does with the line (R247); or an engine's write of a context. -/
inductive ReqData where
  | none
  | write (pa : Nat) (data : List PByte) (defer : Bool)
  | amo (pa width : Nat) (op : Amo) (v : W64)
  | act (core pa : Nat) (a : CoreAct)
  | eng (ctx stamp pa : Nat) (data : List PByte)
  deriving DecidableEq, Repr

/-- An open transaction at a home (R240). -/
structure Txn where
  id : Nat
  line : Nat
  agent : Nat
  req : Req
  data : ReqData
  /-- Agents whose invalidation acknowledgement is awaited. -/
  acks : List Nat
  /-- The owner a forward was sent to and whose answer is awaited. -/
  fwd : Option Nat
  /-- Data and grant have been sent to the requester. -/
  granted : Bool
  /-- The requester is lost: the transaction closes without it (R249). -/
  lost : Bool
  /-- The state the requester takes. -/
  result : Option Moesi
  buf : List PByte
  wasDirty : Bool
  deriving DecidableEq, Repr

/-- A message in flight on one of the four channels (R242). -/
inductive HMsg where
  | forward (txn line agent : Nat) (inval sendData : Bool)
  | inval (txn line agent : Nat)
  | invAck (txn line agent : Nat)
  | data (txn line agent : Nat)
  | compAck (txn line agent : Nat)
  | retry (line agent credit : Nat)
  deriving DecidableEq, Repr

/-- A credit at a credit-mode home (R243). -/
structure Credit where
  home : Nat
  num : Nat
  agent : Nat
  line : Nat
  req : Req
  data : ReqData
  granted : Bool
  deriving DecidableEq, Repr

/-- A request in a blocking home's hold queue, or an engine's write that waits at any home (R243), with its place in the order
of arrival; or a request that its agent holds (R233, R245), ordered where it follows the agent's posted writes (R220). -/
structure Held where
  home : Nat
  num : Nat := 0
  ordered : Bool := false
  agent : Nat
  line : Nat
  req : Req
  data : ReqData
  deriving DecidableEq, Repr

/-- What an agent gets from the harness: bytes with poison, an access fault, or a store-conditional's success. -/
inductive HReply where
  | data (agent pa : Nat) (d : List PByte)
  | fault (agent pa : Nat)
  | sc (core : Nat) (done : Bool)
  deriving DecidableEq, Repr

/-- A stale-line log entry (R216): the line, the agents that may hold a stale copy, the writing context and its place in
the order of writes. -/
structure StaleEnt where
  line : Nat
  agents : List Nat
  ctx : Nat
  stamp : Nat
  deriving DecidableEq, Repr

/-- An invalidation sent by a write and not yet acknowledged (R215); hit: the cache has dropped its copy. -/
structure PendInv where
  line : Nat
  agent : Nat
  ctx : Nat
  stamp : Nat
  hit : Bool := false
  deriving DecidableEq, Repr

/-- A fence of a context (R217, R218): FENCE.DATA, or FENCE.FLAG with the flag to be written. -/
structure Fence where
  ctx : Nat
  stamp : Nat
  flag : Option (Nat × W64)
  deriving DecidableEq, Repr

/-- The coherent fabric (R231 to R251). Lines are named by address / 64; a cache line's key is agent * 2^38 + line.
 (log 6 DESIGN CHOICE) -/
structure Harness where
  lines : SMap (Option CLine) := []
  /-- Write-back buffers (R241). -/
  wb : SMap (Option CLine) := []
  dir : SMap (Option DirEnt) := []
  txns : List Txn := []
  msgs : List HMsg := []
  credits : List Credit := []
  holds : List Held := []
  /-- Requests that their agents hold: with 8 outstanding at the home (R233), behind their own notice for the line, behind an
  earlier posted write (R220), or to a region that is being changed (R245). -/
  queued : List Held := []
  /-- PUT notices on their way (R241): agent, line, and the state left. -/
  puts : List (Nat × Nat × Moesi) := []
  /-- The host L2 caches (R231): the state in which a core holds a line of its die, keyed core * 2^38 + line; the data is the
  die's. -/
  l2 : SMap (Option Moesi) := []
  /-- Set recalls in progress (R251): home, set, agents still to act. -/
  recalls : List (Nat × Nat × List Nat) := []
  nextId : Nat := 0
  stale : SMap (List StaleEnt) := []
  /-- The homes that a context's writes have reached (R218), keyed ctx * 64 + home: the first write's place in the order of
  writes, plus 1. -/
  reached : SMap Nat := []
  pendInv : List PendInv := []
  fences : List Fence := []
  /-- Load reservations of the host cores (R247): core to line + 1. -/
  resv : SMap Nat := []
  /-- Cores whose deferral after an LR runs, to line + 1, and the messages deferred. -/
  lrDefer : SMap Nat := []
  deferred : List HMsg := []
  hwPending : SMap Bool := []
  replies : List HReply := []
  deriving DecidableEq, Repr

/-- The harness counters (R230, R252). -/
structure HarnessCounters where
  dirRetries : W64 := 0
  dirHolds : W64 := 0
  victimRecalls : W64 := 0
  creditLapses : W64 := 0
  dirEntryErrors : W64 := 0
  staleLogDrains : W64 := 0
  deriving DecidableEq, Repr

/-- STATE of a combine entry (R120). -/
inductive CmbState where
  | idle | opened | applying | closed
  deriving DecidableEq, Repr

/-- A combine region descriptor entry (R108) with its status (R120) and done mask. -/
structure CmbEntry where
  base : Nat := 0
  size : Nat := 0
  elem : Nat := 0
  widen : Bool := false
  ordered : Bool := false
  team : Bool := false
  initZero : Bool := false
  expected : Nat := 0
  owner : Nat := 0
  countBase : Nat := 0
  stageBase : Nat := 0
  flagAddr : Nat := 0
  epoch : Nat := 0
  state : CmbState := .idle
  longsum : Bool := false
  ovf : Bool := false
  nan : Bool := false
  poison : Bool := false
  forced : Bool := false
  duplicate : Bool := false
  doneCount : Nat := 0
  lateCount : Nat := 0
  done : Nat := 0
  /-- Elements staged per granule and contributor (R122), keyed granule * 256 + contributor: a bit per element. -/
  staged : SMap Nat := []
  closedAt : Nat := 0
  deriving DecidableEq, Repr

/-- A contribution that the Relay unit holds: refused as late, to be submitted to the next epoch under STALE1, or refused as
early, to be retried (R291). -/
structure RelayHeld where
  pa : Nat
  contrib : Nat
  epoch : Nat
  type : Nat
  done : Bool
  data : List PByte
  /-- The byte mask of the region bytes (R110); empty where it covers every one. -/
  mask : List Bool := []
  late : Bool
  tcls : Nat := 0
  member : Nat := 0
  deriving DecidableEq, Repr

/-- The combine units: descriptor tables keyed home * 1024 + entry, and homes with an uncleared hardware fault (R127).
 (log 6 DESIGN CHOICE) -/
structure Combine where
  tab : SMap CmbEntry := []
  hwPending : SMap Bool := []
  closes : Nat := 0
  relayHeld : List RelayHeld := []
  /-- Refusals on their way back to the sender: the engine, or none for the Relay unit (R119). -/
  refusals : List (Option Nat × RelayHeld) := []
  deriving DecidableEq, Repr

/-- A translation cache entry of a translation agent or IOMMU (R206, R208). -/
structure TlbEnt where
  inst : Nat
  dev : Nat
  /-- The process of a PCIe request that names one, plus 1; else 0. -/
  pid : Nat
  vpn : Nat
  /-- The bytes that the first-stage leaf spans. -/
  span : Nat
  ppn : Nat
  perms : Nat
  pbmt : Nat
  gstage : Bool
  invalidated : Bool
  deriving DecidableEq, Repr

/-- The three translation agents (R201: engine agent 0, PCIe IOMMUs 1 and 2): registers, cached device contexts and
translations, device contexts invalidated and not yet fenced (agent, device), and each IOFENCE.C in progress with the flag
it writes. -/
structure Trans where
  regs : SMap W64 := []
  dcs : List (Nat × Nat × List W64) := []
  tlb : List TlbEnt := []
  dcInval : List (Nat × Nat) := []
  fences : List (Nat × Option (Nat × W32)) := []
  deriving DecidableEq, Repr

/-- An offload stream of an LPDDR home (R221). -/
structure Offload where
  base : W64 := 0
  ctl : W64 := 0
  bytes : W64 := 0
  short : W64 := 0
  /-- Of BYTES, those that the stream received within the intervals of 1 µs that have ended. -/
  mark : W64 := 0
  deriving DecidableEq, Repr

end Sys2Proof.Machine
end

