-- ==== Sys2Proof/Machine/StCkpt.lean ====
section
/-! DEFINITION. The state of the NVMe initiators (R324, R325) and of checkpoints (R386 to R391). -/

namespace Sys2Proof.Machine

/-- A request that an initiator has taken from a ring (R325): its number, initiator, the eight words, whether it has gone to the
controller, and how often it has been retried. -/
structure NvReq where
  id : Nat
  unit : Nat
  words : List W64
  sent : Bool := false
  retries : Nat := 0
  deriving DecidableEq, Repr

/-- A command sent to an NVMe controller: initiator, controller slot, request number (0: the unit's own), operation, namespace,
first LBA, blocks and data. -/
structure NvCmd where
  unit : Nat
  ctrl : Nat
  id : Nat
  op : Nat
  ns : Nat
  slba : Nat
  nlb : Nat
  data : List PByte
  deriving DecidableEq, Repr

/-- The two initiators. Controllers are keyed unit * 8 + slot. (log 7 DESIGN CHOICE) -/
structure Nvme where
  reqs : List NvReq := []
  nextId : Nat := 1
  out : List NvCmd := []
  /-- Controllers reset once through CC.EN after retries, and controllers marked failed. -/
  wasReset : SMap Bool := []
  failed : SMap Bool := []
  resets : List Nat := []
  commands : W64 := 0
  errors : W64 := 0
  deriving DecidableEq, Repr

/-- A checkpoint image stored on flash (R389): first LBA, blocks, STEP, whether full, BASE_STEP. -/
structure CkImage where
  lba : Nat
  len : Nat
  step : Nat
  full : Bool
  base : Nat
  deriving DecidableEq, Repr

/-- Checkpoints (R387 to R390): the copy in progress (step, full), the drain in progress, images taken, whether the next one
must be full, the store's images oldest first and its next LBA. -/
structure Ckpt where
  copying : Option (Nat × Bool) := none
  draining : Option CkImage := none
  taken : Nat := 0
  needFull : Bool := false
  images : List CkImage := []
  nextLba : Nat := 0
  /-- STEP of the latest checkpoint taken, and of the full one that starts its chain. -/
  lastTaken : Nat := 0
  base : Nat := 0
  postponed : W64 := 0
  refused : W64 := 0
  /-- The step restored, and whether the member's digest differs from the image's, so that it refuses to join (R391). -/
  restored : Option Nat := none
  joinRefused : Bool := false
  deriving DecidableEq, Repr

end Sys2Proof.Machine
end

