-- ==== Sys2Proof/Machine/StDict.lean ====
section
/-! DEFINITION. The Ostler's object dictionary as state (R411 to R424): the kinds of objects, the values in effect, staged and
stored, the table of clients, and the readers' own selections. -/

namespace Sys2Proof.Machine

/-- The type of an object with its length in bytes, or its greatest length (R411). -/
inductive OType where
  | bool
  | u (n : Nat)
  | i (n : Nat)
  | f32
  | ostr (max : Nat)
  | digest
  | record (n : Nat)
  deriving DecidableEq, Repr

/-- Access rights (R412). -/
inductive Access where
  | ro | rw | wo | rws | const
  deriving DecidableEq, Repr

/-- Apply classes (R413). -/
inductive Apply where
  | immediate | stepBoundary | quiescent | reboot | none
  deriving DecidableEq, Repr

/-- A row of an object table: index, first and last subindex, type, access, apply class, default, range, persistence and the
team-consistent flag. -/
structure Obj where
  ix : Nat
  lo : Nat
  hi : Nat
  ty : OType
  acc : Access
  ap : Apply
  dflt : Nat
  min : Int
  max : Int
  persistent : Bool
  team : Bool
  deriving DecidableEq, Repr

/-- A client of the Ostler Dictionary Protocol (R419): its number, the highest SEQ accepted, the time of its last request in
ms, and the responses to its last 16 requests by SEQ. -/
structure Client where
  num : Nat
  high : Nat
  lastMs : Nat
  replies : List (Nat × List Byte)
  deriving DecidableEq, Repr

/-- The path a dictionary request came by (R421): ODP with the client number, MCTP with the endpoint, a mailbox channel, or
an MCTP control command. -/
inductive OPath where
  | odp (client : Nat)
  | mctp (eid : Nat)
  | mailbox (ch : Nat)
  | control (cmd : Nat)
  deriving DecidableEq, Repr

/-- A mailbox channel (R373): request and response buffers, the control fields, the interrupt target and requests served. -/
structure Mailbox where
  req : List Byte := []
  reqLen : Nat := 0
  resp : List Byte := []
  respLen : Nat := 0
  busy : Bool := false
  done : Bool := false
  irqTarget : Nat := 0
  abort : Nat := 0
  served : Nat := 0
  deriving DecidableEq, Repr

/-- The dictionary: values in effect keyed index * 256 + subindex (an unlisted object holds its default), values staged for a
step (step, key, value), the persistent store (whose values of
class reboot wait for the next warm reset), each reader's selections keyed
reader * 2^24 + key, the old digest while it differs from the one in effect, and the step the new one holds from (R423).
 (log 7 DESIGN CHOICE) -/
structure Dict where
  val : SMap (Option (List Byte)) := []
  staged : List (Nat × Nat × List Byte) := []
  store : SMap (Option (List Byte)) := []
  sel : SMap (Option (List Byte)) := []
  prev : Option (List Byte) := none
  stepFrom : Nat := 0
  /-- Persistent writes committed in the second of ostler_time that is given. -/
  commits : Nat := 0
  commitSec : Nat := 0
  /-- The flash does not commit what the request in progress stores (R414). -/
  norFail : Bool := false
  clients : List Client := []
  /-- Frames sent in answer, newest last. -/
  out : List (OPath × List Byte) := []
  /-- Abort code of the latest write made by a command of its own. -/
  abort : Nat := 0
  mail : SMap Mailbox := []
  requests : W64 := 0
  authFailures : W64 := 0
  deriving DecidableEq, Repr

/-- State of the standby Ostler core (R407). -/
inductive Standby where
  | absent | syncing | ready
  deriving DecidableEq, Repr

/-- State of a Groom (R424). -/
inductive GroomSt where
  | running | restarting | silent | retired
  deriving DecidableEq, Repr

/-- The Ostler role and the Grooms (R406 to R410), the MCTP and I3C addresses (R421). Grooms are numbered cd0 to cd7, hc0,
hc1, ed0, ed1. (log 8 DESIGN CHOICE) -/
structure Ostler where
  /-- 0: the core of ed0 holds the role; 1: that of ed1. -/
  active : Nat := 0
  epoch : W32 := 1
  standby : Standby := .absent
  /-- No core holds the role and no dictionary service is given (R409). -/
  failed : Bool := false
  handovers : W64 := 0
  staleCmds : W64 := 0
  /-- ostler_time in ns. -/
  time : Nat := 0
  grooms : SMap GroomSt := []
  groomFw : SMap W32 := (List.range 12).map fun g => (g, 0x01000000)
  groomRestarts : W64 := 0
  /-- Error reports waiting at the report buffer of a die whose Groom restarts (R410). -/
  waiting : SMap (List (Nat × Nat)) := []
  overflow : SMap Bool := []
  /-- ostler_time of each Groom's last heartbeat, in ns. -/
  beats : SMap Nat := []
  eid : Nat := 0
  /-- The I3C dynamic address; 0 while none is assigned. -/
  i3c : Nat := 0
  /-- The former core may return as standby only after its edge die's Groom has tested it (R407). -/
  mustTest : Bool := false
  deriving DecidableEq, Repr

end Sys2Proof.Machine
end

