-- ==== Sys2Proof/Config.lean ====
section
/-! DEFINITION. What one implementation fixes and the free values: opaque constants without a body, so that no proof can
lean on a value the manual leaves open. Each is named in a row of notes/assumptions. -/

namespace Sys2Proof.Config

/-- Which of the two neighbouring FP32 values RSQRT returns for an operand (R141: error below 1 ulp). (log 14 DESIGN CHOICE) -/
opaque rsqrtUp : W32 → Bool

/-- A fresh 64-bit value the manual leaves undefined; the argument is the state's free counter. (log 5 DESIGN CHOICE) -/
opaque freeWord : Nat → W64

/-- A fresh byte the manual leaves undefined (R11, R162, R188). (log 5 DESIGN CHOICE) -/
opaque freeByte : Nat → Byte

/-- A fresh choice the manual leaves open (an old or a new translation before IOFENCE.C, R208). (log 5 DESIGN CHOICE) -/
opaque freeBool : Nat → Bool

/-- Which NaN code of a preset with several the encode stage writes (R53: the target's NaN code). (log 14 DESIGN CHOICE) -/
opaque nanPick : Nat → Nat

/-- The device identification code of the boundary scan register (R490): its value is not given. (log 14 DESIGN CHOICE) -/
opaque idcode : W32

/-- Bytes of the package secret that the package generated at manufacture (R465). -/
opaque secretByte : Nat → Byte

/-- Signature bytes of a message under the attestation key: the key's seed material, the leaf, SHA-256 of the message, offset
(R465, R480). (log 14 DESIGN CHOICE) -/
opaque signByte : List Byte → Nat → List Byte → Nat → Byte

/-- The serial number as marked (R424). (log 14 DESIGN CHOICE) -/
opaque serial : W64

/-- The lot code as marked (R424). (log 14 DESIGN CHOICE) -/
opaque lotCode : List Byte

/-- The first 4,096 bytes of the configuration base image, but for the header fields that R466 fixes (R482).
 (log 14 DESIGN CHOICE) -/
opaque configByte : Nat → Byte

/-- The attestation public key under its seed material, section 20 of the configuration base (R465, R467).
 (log 14 DESIGN CHOICE) -/
opaque attestKeyByte : List Byte → Nat → Byte

/-- The mask ROM's SHA-256 of the root public key (R468). (log 14 DESIGN CHOICE) -/
opaque rootKeyHash : List Byte

/-- The VMAX trim of a compute die in mV (R427), before its bounds are applied. (log 14 DESIGN CHOICE) -/
opaque vmaxTrim : Nat → Nat

/-- The starting CAL of a cluster in millionths (R425), before its bounds are applied. (log 14 DESIGN CHOICE) -/
opaque calTrim : Nat → Nat

/-- Version bytes of the MCTP control responses, which the spec does not give (R421). (log 14 DESIGN CHOICE) -/
opaque mctpByte : Nat → Byte

end Sys2Proof.Config
end

