-- ==== Sys2Proof/Machine/Fp.lean ====
section
/-! DEFINITION. Numbers of the arrays, accumulators, chain and combine units (R27 to R54): exact dyadic values,
the class order of R47, and one rounding function for every format. -/

namespace Sys2Proof.Machine

/-- A number with its class (R47): poison, NaN, an infinity, or the finite value (-1)^neg * m * 2^e. -/
inductive Fx where
  | poison
  | nan
  | inf (neg : Bool)
  | fin (neg : Bool) (m : Nat) (e : Int)
  deriving DecidableEq, Repr

/-- Positive zero. -/
def fxZero : Fx := .fin false 0 0

/-- The number of significant bits of m. -/
def bitLen (m : Nat) : Nat := if m = 0 then 0 else Nat.log2 m + 1

/-- m shifted down by k, to nearest with ties to even (R49). -/
def rshiftNE (m k : Nat) : Nat :=
  let q := m >>> k
  let r := m % 2 ^ k
  if 2 * r > 2 ^ k then q + 1 else if 2 * r = 2 ^ k then q + q % 2 else q

/-- Rounds a finite magnitude m * 2^e to p significant bits with smallest quantum 2^qmin; the result (m', e'). -/
def roundMag (p : Nat) (qmin : Int) (m : Nat) (e : Int) : Nat × Int :=
  let q := max qmin (e + (bitLen m : Int) - (p : Int))
  if q ≤ e then (m, e) else (rshiftNE m (q - e).toNat, q)

/-- The magnitude m * 2^e reaches 2^k. -/
def magGe (m : Nat) (e k : Int) : Bool := decide (m ≠ 0 ∧ (bitLen m : Int) + e > k)

/-- Rounds to a format of p bits, quantum 2^qmin and overflow bound 2^ovf; the flag says that a finite value
became infinite. -/
def roundFx (p : Nat) (qmin ovf : Int) : Fx → Fx × Bool
  | .fin s m e =>
    let r := roundMag p qmin m e
    if magGe r.1 r.2 ovf then (.inf s, true) else (.fin s r.1 r.2, false)
  | x => (x, false)

/-- FP32 rounding (R46). -/
def round32 : Fx → Fx × Bool := roundFx 24 (-149) 128

/-- Column-format rounding (R45). -/
def roundCol : Fx → Fx × Bool := roundFx 32 (-157) 128

/-- BF16 rounding (R43, R138). -/
def roundBf : Fx → Fx × Bool := roundFx 8 (-133) 128

/-- Product (R47): exact. -/
def fxMul : Fx → Fx → Fx
  | .poison, _ => .poison
  | _, .poison => .poison
  | .nan, _ => .nan
  | _, .nan => .nan
  | .inf s, .inf t => .inf (s != t)
  | .inf s, .fin t m _ => if m = 0 then .nan else .inf (s != t)
  | .fin s m _, .inf t => if m = 0 then .nan else .inf (s != t)
  | .fin s m e, .fin t n f => .fin (s != t) (m * n) (e + f)

/-- Sum of two finite values, exact; an exact zero is +0 unless both operands are -0. -/
def finAdd (s : Bool) (m : Nat) (e : Int) (t : Bool) (n : Nat) (f : Int) : Fx :=
  let q := min e f
  let a : Int := (m : Int) * (2 ^ (e - q).toNat : Nat)
  let b : Int := (n : Int) * (2 ^ (f - q).toNat : Nat)
  let c := (if s then -a else a) + (if t then -b else b)
  if c = 0 then .fin (s && t) 0 q else .fin (decide (c < 0)) c.natAbs q

/-- Sum (R47): exact. -/
def fxAdd : Fx → Fx → Fx
  | .poison, _ => .poison
  | _, .poison => .poison
  | .nan, _ => .nan
  | _, .nan => .nan
  | .inf s, .inf t => if s = t then .inf s else .nan
  | .inf s, .fin _ _ _ => .inf s
  | .fin _ _ _, .inf t => .inf t
  | .fin s m e, .fin t n f => finAdd s m e t n f

/-- Negation. -/
def fxNeg : Fx → Fx
  | .inf s => .inf (!s)
  | .fin s m e => .fin (!s) m e
  | x => x

/-- Scaling by 2^k, exact. -/
def fxScale (k : Int) : Fx → Fx
  | .fin s m e => .fin s m (e + k)
  | x => x

/-- Is the number NaN. -/
def fxIsNan : Fx → Bool
  | .nan => true
  | _ => false

/-- Is the number an infinity. -/
def fxIsInf : Fx → Bool
  | .inf _ => true
  | _ => false

/-- Is the number poison. -/
def fxIsPoison : Fx → Bool
  | .poison => true
  | _ => false

/-- Is the number a zero of either sign. -/
def fxIsZero : Fx → Bool
  | .fin _ m _ => m == 0
  | _ => false

/-- Sign of a number that has one. -/
def fxSign : Fx → Bool
  | .inf s => s
  | .fin s _ _ => s
  | _ => false

/-- Magnitude. -/
def fxAbs : Fx → Fx
  | .inf _ => .inf false
  | .fin _ m e => .fin false m e
  | x => x

/-- Comparison of magnitudes of finite values: m*2^e < n*2^f. -/
def magLt (m : Nat) (e : Int) (n : Nat) (f : Int) : Bool :=
  let q := min e f
  decide (m * 2 ^ (e - q).toNat < n * 2 ^ (f - q).toNat)

/-- Numeric order of two numbers that are neither NaN nor poison (-0 = +0). -/
def fxLt : Fx → Fx → Bool
  | .inf s, .inf t => s && !t
  | .inf s, .fin _ _ _ => s
  | .fin _ _ _, .inf t => !t
  | .fin s m e, .fin t n f =>
    if m = 0 ∧ n = 0 then false
    else if s then (if t then magLt n f m e else true)
    else if t then false else magLt m e n f
  | _, _ => false

/-- Numeric equality of two numbers that are neither NaN nor poison (-0 = +0). -/
def fxEq (a b : Fx) : Bool := !fxLt a b && !fxLt b a

/-- Decodes a binary format of eb exponent bits and mb fraction bits with IEEE infinities and NaNs. -/
def decodeIeee (eb mb w : Nat) : Fx :=
  let s := bitAt w (eb + mb)
  let e := bits w (eb + mb - 1) mb
  let f := w % 2 ^ mb
  let bias : Int := 2 ^ (eb - 1) - 1
  if e = 2 ^ eb - 1 then (if f = 0 then .inf s else .nan)
  else if e = 0 then .fin s f (1 - bias - mb)
  else .fin s (2 ^ mb + f) ((e : Int) - bias - mb)

/-- The FP32 value of 32 bits. -/
def dec32 (w : W32) : Fx := decodeIeee 8 23 w.toNat

/-- The BF16 value of 16 bits. -/
def decBf (w : Nat) : Fx := decodeIeee 8 7 w

/-- Encodes a value already rounded to eb, mb; NaN as its canonical quiet code, poison as NaN's bits (the mark is
kept beside the bits). -/
def encodeIeee (eb mb : Nat) : Fx → Nat
  | .poison => 0
  | .nan => (2 ^ eb - 1) * 2 ^ mb + 2 ^ (mb - 1)
  | .inf s => b2n s * 2 ^ (eb + mb) + (2 ^ eb - 1) * 2 ^ mb
  | .fin s m e =>
    let bias : Int := 2 ^ (eb - 1) - 1
    let sg := b2n s * 2 ^ (eb + mb)
    if m = 0 then sg else
    let top := (bitLen m : Int) + e - 1
    if top < 1 - bias then
      let k := e - (1 - bias - mb)
      sg + (if k ≥ 0 then m * 2 ^ k.toNat else m >>> (-k).toNat)
    else
      let k := e - (top - mb)
      let f := if k ≥ 0 then m * 2 ^ k.toNat else m >>> (-k).toNat
      sg + (top + bias).toNat * 2 ^ mb + (f - 2 ^ mb)

/-- FP32 bits of a rounded value (R46: NaN is 0x7FC0_0000). -/
def enc32 (x : Fx) : W32 := BitVec.ofNat 32 (encodeIeee 8 23 x)

/-- BF16 bits of a rounded value. -/
def encBf (x : Fx) : Nat := encodeIeee 8 7 x

/-- FP32 addition with its overflow flag. -/
def add32 (a b : Fx) : Fx × Bool := round32 (fxAdd a b)

/-- FP32 multiplication with its overflow flag. -/
def mul32 (a b : Fx) : Fx × Bool := round32 (fxMul a b)

/-- FP32 fused multiply-add, one rounding. -/
def fma32 (a b c : Fx) : Fx × Bool := round32 (fxAdd (fxMul a b) c)

/-- A quotient of finite nonzero magnitudes with 64 or more bits and a sticky bit. -/
def divMag (m n : Nat) (e f : Int) : Nat × Int :=
  let k := 64 + bitLen n
  let q := (m <<< k) / n
  let r := (m <<< k) % n
  (2 * q + (if r = 0 then 0 else 1), e - f - k - 1)

/-- Integer square root by bits: fuel counts the bit pairs. -/
def isqrtGo : Nat → Nat → Nat → Nat
  | 0, _, r => r
  | b + 1, m, r => let c := r + 2 ^ b; if c * c ≤ m then isqrtGo b m c else isqrtGo b m r

/-- Integer square root. -/
def isqrt (m : Nat) : Nat := isqrtGo (bitLen m / 2 + 1) m 0

/-- A square root of a finite nonzero magnitude with 64 or more bits and a sticky bit. -/
def sqrtMag (m : Nat) (e : Int) : Nat × Int :=
  let k : Nat := 128 + (e % 2).toNat
  let x := m <<< k
  let r := isqrt x
  (2 * r + (if r * r = x then 0 else 1), (e - k) / 2 - 1)

/-- The O9 operand of 9 bits (R28). -/
def decO9 (w : Nat) : Fx :=
  let s := bitAt w 8
  let e := bits w 7 3
  let f := w % 8
  if e = 31 then (if f = 0 then .inf s else if f = 7 then .poison else .nan)
  else if e = 0 then .fin s f (-17)
  else .fin s (8 + f) ((e : Int) - 18)

/-- The O9 code of an FP8 E4M3 code (R30). -/
def o9E4M3 (c : Nat) : Nat :=
  let s := bits c 7 7 * 256
  let e := bits c 6 3
  let m := c % 8
  if e = 15 ∧ m = 7 then 0x0F9
  else if e = 0 then
    (if m = 0 then s else if m ≥ 4 then s + (8 * 8) + (m - 4) * 2 else if m ≥ 2 then s + (7 * 8) + (m - 2) * 4 else s + 6 * 8)
  else s + (e + 8) * 8 + m

/-- The O9 code of an FP8 E5M2 code (R30). -/
def o9E5M2 (c : Nat) : Nat :=
  let s := bits c 7 7 * 256
  let e := bits c 6 2
  let m := c % 4
  if e = 31 then (if m = 0 then s + 31 * 8 else 0x0F9) else s + e * 8 + 2 * m

/-- The O9 code of an FP6 E2M3 code (R30). -/
def o9E2M3 (c : Nat) : Nat :=
  let s := bits c 5 5 * 256
  let e := bits c 4 3
  let m := c % 8
  if e = 0 then
    (if m = 0 then s else if m ≥ 4 then s + (14 * 8) + (m - 4) * 2 else if m ≥ 2 then s + (13 * 8) + (m - 2) * 4 else s + 12 * 8)
  else s + (e + 14) * 8 + m

/-- The O9 code of an FP6 E3M2 code (R30). -/
def o9E3M2 (c : Nat) : Nat :=
  let s := bits c 5 5 * 256
  let e := bits c 4 2
  let m := c % 4
  if e = 0 then (if m = 0 then s else if m ≥ 2 then s + (12 * 8) + (m - 2) * 4 else s + 11 * 8)
  else s + (e + 12) * 8 + 2 * m

/-- The O9 code of an FP4 E2M1 code (R30). -/
def o9E2M1 (c : Nat) : Nat :=
  let s := bits c 3 3 * 256
  let e := bits c 2 1
  let m := c % 2
  if e = 0 then (if m = 0 then s else s + 14 * 8) else s + (e + 14) * 8 + 4 * m

/-- The O9 code of an INT4 code (R30). -/
def o9Int4 (c : Nat) : Nat :=
  let v := signed 4 c
  let a := v.natAbs
  let s := if v < 0 then 256 else 0
  if a = 0 then 0
  else if a = 1 then s + 15 * 8
  else if a < 4 then s + 16 * 8 + (a - 2) * 4
  else if a < 8 then s + 17 * 8 + (a - 4) * 2
  else s + 18 * 8

/-- 1 / sqrt(a) for a positive finite a (R141): one of the two FP32 values next to the exact result, the same on every
engine; which one is the free value Config.rsqrtUp. An exact result is returned as it is. -/
def rsqrt32 (a : W32) (m : Nat) (e : Int) : Fx :=
  let k : Nat := 2 * (bitLen m + 96)
  let x := (1 <<< (2 * k)) / m
  let rem := (1 <<< (2 * k)) % m
  -- 1/(m 2^e) = x 2^(-2k-e); make the exponent even
  let odd := ((e : Int) % 2).toNat
  let y := if odd = 1 then 2 * x else x
  let sticky := rem ≠ 0
  let r := isqrt y
  let exact := r * r = y ∧ ¬ sticky
  let ex : Int := (-(2 * (k : Int)) - e - odd) / 2
  let sh := bitLen r - 24
  let lo := r >>> sh
  let isExact := exact ∧ r % 2 ^ sh = 0
  let up := if isExact then false else Config.rsqrtUp a
  .fin false (if up then lo + 1 else lo) (ex + sh)

end Sys2Proof.Machine
end

