-- ==== Sys2Proof/Machine/StEngine.lean ====
section
/-! DEFINITION. The state of one engine: sequencer, registers, scratchpad, format and curve slots, the four matrix arrays
with their accumulator stores, the vector chain, and the queues of its units (R35 to R195). -/

namespace Sys2Proof.Machine

/-- Where an operation was issued: its instruction's address, and its place in the order of issue (R182, R217). -/
structure Tag where
  pc : W64
  stamp : Nat
  deriving DecidableEq, Repr

/-- SEQ_STATUS.STATE (R195). -/
inductive SeqState where
  | idle | running | waiting | yielding | saved | faulted
  deriving DecidableEq, Repr

/-- What a waiting sequencer waits for (R180, R188, R190). -/
inductive SeqWait where
  | none
  /-- syn.wait: COND, IMM, the values of sRA and sRB at issue, RD, and external waves waited so far. -/
  | cond (c imm : Nat) (ra rb : W64) (rd : Nat) (waited : Nat)
  /-- A yield point with a pre-emption pending; the live-range descriptor IMM. -/
  | yieldPt (imm : Nat)
  /-- ctl.end; the live-range descriptor IMM. -/
  | endPt (imm : Nat)
  deriving DecidableEq, Repr

/-- The sequencer registers (R195), the kernel header of the running stream (R192) and the fault registers (R181). -/
structure Seq where
  state : SeqState := .idle
  wait : SeqWait := .none
  overrun : Bool := false
  yieldLate : Bool := false
  preemptReq : Bool := false
  context : Nat := 0
  issued : W32 := 0
  pc : W64 := 0
  faultCode : Nat := 0
  faultSource : Nat := 0
  faultArray : Nat := 0
  moreFaults : Nat := 0
  faultPc : W64 := 0
  faultAddr : W64 := 0
  qbase : Nat := 0
  qlen : Nat := 0
  streamBase : W64 := 0
  instrCount : Nat := 0
  worstWaves : W64 := 0
  maxYieldGap : Nat := 0
  /-- IMM of the yield point issued last, and of the one before the instruction issued last, if it was one (R340). -/
  lastYield : Option Nat := none
  prevYield : Option Nat := none
  deriving DecidableEq, Repr

/-- The RS group of wave counters of the stream (R195) and the stopped-wave count of R194. -/
structure SeqCounters where
  streamWaves : W64 := 0
  extwaitWaves : W64 := 0
  reexecWaves : W64 := 0
  yieldGap : W64 := 0
  stoppedWaves : W64 := 0
  overrunRecorded : Bool := false
  lateRecorded : Bool := false
  deriving DecidableEq, Repr

/-- A custom format slot's contents (R36): header fields and the 2^CODE_WIDTH entries. -/
structure FmtSlot where
  valid : Bool := false
  loaded : Bool := false
  codeWidth : Nat := 0
  scaleMode : Nat := 0
  encodable : Bool := false
  emaxElem : Nat := 0
  formatId : Nat := 0
  entries : List Nat := []
  deriving DecidableEq, Repr

/-- One segment of a curve (R143): X_LO, C0, C1, C2. -/
structure CurveSeg where
  xlo : W32
  c0 : W32
  c1 : W32
  c2 : W32
  deriving DecidableEq, Repr

/-- A curve slot (R143, R146). -/
structure CurveSlot where
  valid : Bool := false
  loaded : Bool := false
  sym : Nat := 0
  curveId : Nat := 0
  yNegInf : W32 := 0
  yPosInf : W32 := 0
  tally : W64 := 0
  segs : List CurveSeg := []
  deriving DecidableEq, Repr

/-- A tile table entry with its status word fields (R94, R98) and the halves overwritten since POISON was set (R99). -/
structure Tile where
  declared : Bool := false
  shape : Nat := 0
  format : Nat := 0
  poison : Bool := false
  ovf : Bool := false
  code : Bool := false
  longsum : Bool := false
  inv : Bool := false
  chain0 : Bool := false
  chain1 : Bool := false
  finished : Bool := false
  count0 : Nat := 0
  count1 : Nat := 0
  owner : Nat := 0
  over0 : Bool := false
  over1 : Bool := false
  deriving DecidableEq, Repr

/-- One weight cell of a bank (R63): one or four weights, scale code, metadata byte. -/
structure WCell where
  w : List Fx
  sw : Nat
  meta8 : Nat
  deriving DecidableEq, Repr

/-- A weight set in a load buffer or bank: 32 grid rows of 32 cells, and whether an UNUSED code was decoded (R41). -/
structure WSet where
  cells : List (List WCell)
  code : Bool
  /-- The set's source, for REUSE (R65): weight descriptor words, slot, mode, scale mode, K-pass. -/
  src : List W64 × Nat × Nat × Nat × Nat
  deriving DecidableEq, Repr

/-- A weight set on its way from the scratchpad through the load buffer of its bank into the bank (R64): the grid rows that
have arrived in the buffer, whether the write into the bank has begun, the grid rows written, whether a pass has taken the
set, and whether its metadata are invalid (R74). -/
structure Load where
  bank : Nat
  set : WSet
  arrived : Nat := 0
  writing : Bool := false
  written : Nat := 0
  taken : Bool := false
  bad : Bool := false
  deriving DecidableEq, Repr

/-- A pass that has begun feeding, or whose results are still in the grid (R61). -/
structure Pass where
  seqNo : Nat := 0
  tile : Nat := 0
  half : Nat := 0
  mode : Nat := 0
  /-- Three-pass FP32 (R43): 0 not, 1 A_hi W_hi, 2 A_lo W_hi, 3 A_hi W_lo. -/
  sub : Nat := 0
  wslot : Nat := 0
  aslot : Nat := 0
  overwrite : Bool := false
  zero : Bool := false
  /-- The tile's last pass. -/
  last : Bool := false
  /-- The last pass of its RUN. -/
  final : Bool := false
  bank : Nat := 0
  rows : List Nat := []
  nextRow : Nat := 0
  /-- The run record's words. -/
  words : List W64 := []
  kpass : Nat := 0
  reexec : Bool := false
  /-- Its RUN's place in the order of issue. -/
  stamp : Nat := 0
  deriving DecidableEq, Repr

/-- What a row slot carries: a valid row, a filler row (R71), or the zeros that the drain writes behind every row fed before
them and ahead of every row fed after them (R75, R78), which take no wave. -/
inductive RowKind where
  | valid | filler
  | zeros (rows : List Nat)
  deriving DecidableEq, Repr

/-- A row slot travelling through the grid (R59, R61): its age in waves, datum and the column partial sums.
 (log 17 DEDUCED) -/
structure RowSlot where
  kind : RowKind := .valid
  age : Nat := 0
  slot : Nat := 0
  tileRow : Nat := 0
  bank : Nat := 0
  sa : List Nat := []
  ops : List (List Fx) := []
  sums : List Fx := []
  pass : Pass := {}
  deriving DecidableEq, Repr

/-- A drain result buffer entry (R68): the result of a tile row, or zeros for tile rows. -/
structure DrainEntry where
  col : Nat
  tileRow : Nat := 0
  zeros : Option (List Nat) := none
  value : Fx
  pass : Pass
  deriving DecidableEq, Repr

/-- One quadrant of a packed array (R79): its own banks, WSEL, row slots and drain, and its problems in order. -/
structure Quad where
  bank0 : Option WSet := none
  bank1 : Option WSet := none
  wsel : Nat := 0
  rows : List RowSlot := []
  drain : List DrainEntry := []
  /-- The problem under way and its next row. -/
  cur : Option (Nat × TestProblem) := none
  todo : List TestProblem := []
  deriving DecidableEq, Repr

/-- An entry of an array's queue (R160): a run record address, or a tile instruction. -/
inductive ArrOp where
  | run (addr : Nat) (tag : Tag)
  | tdecl (slot shape format : Nat) (tag : Tag)
  | trel (slot : Nat) (tag : Tag)
  | tzero (slot : Nat) (tag : Tag)
  | tclr (slot : Nat) (tag : Tag)
  | tsave (slot : Nat) (desc : List W64) (tag : Tag)
  | trest (slot : Nat) (desc : List W64) (tag : Tag)
  | tstat (slot rd : Nat) (tag : Tag)
  deriving DecidableEq, Repr

/-- A run in progress: its 24 record words, the position of the next pass to start, and whether none has started yet. -/
structure RunState where
  addr : Nat
  tag : Tag
  words : List W64
  kpass : Nat
  sub : Nat
  reexec : Bool
  fresh : Bool
  deriving DecidableEq, Repr

/-- One matrix operation of the operation log (R184). -/
structure MatOp where
  tile : Nat
  half : Nat
  records : List (Nat × Tag)
  opened : Bool
  deriving DecidableEq, Repr

/-- ARRAY_STATUS.STATE (R91). -/
inductive ArrStop where
  | free
  /-- A full-save stop has been taken (R86). -/
  | stopped
  /-- The slot is in packed mode (R79). -/
  | packed
  /-- A hardware fault whose report the Groom has not cleared (R87). -/
  | faulted
  deriving DecidableEq, Repr

/-- One matrix array (R57 to R102). -/
structure Arr where
  queue : List ArrOp := []
  run : Option RunState := none
  pass : Option Pass := none
  rows : List RowSlot := []
  drain : List DrainEntry := []
  credits : Nat := 64
  /-- Weight sets in the load buffers, oldest first. -/
  loads : List Load := []
  bank0 : Option WSet := none
  bank1 : Option WSet := none
  lastBank : Nat := 1
  lastSrc : Option (List W64 × Nat × Nat × Nat × Nat) := none
  stop : ArrStop := .free
  faultCode : Nat := 0
  hwPending : Bool := false
  passSeq : W32 := 0
  liveBank : Nat := 0
  modeBits : Nat := 0
  /-- Passes fed whose results are not all written. -/
  fed : List Pass := []
  /-- Finished tiles whose descriptor is not queued yet, with the PASS_SEQ of their last pass (R128). -/
  held : List (Nat × Nat) := []
  deriving DecidableEq, Repr

/-- The accumulator store, tile table, operation log and wave counters of one array (R92 to R104). -/
structure Acc where
  /-- Elements keyed slot * 1024 + index; an unlisted one is +0, or free where its slot has a seed (R188). -/
  elems : SMap (Option W32) := []
  elemSeed : SMap Nat := []
  poison : SMap Bool := []
  tiles : SMap Tile := []
  /-- Quarter tiles of a packed array by quarter-slot (R93, R98). -/
  qtiles : SMap Tile := []
  counts : SMap W32 := []
  log : List MatOp := []
  reexecQ : List (Nat × Tag) := []
  validWaves : W64 := 0
  bubbleDry : W64 := 0
  bubbleDrain : W64 := 0
  bubbleLoad : W64 := 0
  deriving DecidableEq, Repr

/-- A chain queue entry (R160): a chain instruction with the values of every register it named at issue (R187) and the
tally register it holds (0: none), a curve load, a status clear or a status read. -/
inductive ChainOp where
  | run (prog count : Nat) (descs : List (List W64)) (regs : List W64) (pend : Nat) (tag : Tag)
  | curve (slot : Nat) (desc : List W64) (tag : Tag)
  | cclr (mask : Nat)
  | cstat (rd : Nat)
  deriving DecidableEq, Repr

/-- One output of a chain instruction, written when it completes (R132). -/
inductive ChainOut where
  | spad (addr : Nat) (data : List (Byte × Bool))
  | mem (va : Nat) (data : List (Byte × Bool))
  | tileEl (arr key : Nat) (v : W32) (p : Bool)
  | count (arr key : Nat) (v : W32)
  | tflag (arr tile : Nat) (poison inv longsum ovf : Bool)
  | cmb (va contrib epoch type : Nat) (data : List (Byte × Bool))
  deriving DecidableEq, Repr

/-- The chain instruction in progress: its queue entry, the scratchpad ranges it reads and its place in the order of issue when it
started (R162), the finished tiles it reads (array and tile), its outputs by group, the register and value of its tally, its
groups, the groups that have entered the chain, whether it is re-executed (R187), and the waves in which an array re-executed
beside it (R186). -/
structure ChainRun where
  op : ChainOp
  reads : List (Nat × Nat)
  start : Nat
  own : List (Nat × Nat)
  outs : List (Nat × ChainOut)
  tally : Option (Nat × W64)
  inplace : Bool
  groups : Nat
  entered : Nat
  reexec : Bool
  shared : Nat
  deriving DecidableEq, Repr

/-- The vector chain: CHAIN_STATUS (R154), its queue and counters. -/
structure Chain where
  queue : List ChainOp := []
  cur : Option ChainRun := none
  inv : Bool := false
  aovf : Bool := false
  ovf : Bool := false
  satb : Bool := false
  poison : Bool := false
  longsum : Bool := false
  code : Bool := false
  faultCode : Nat := 0
  hwPending : Bool := false
  instrSeq : W32 := 0
  issueWaves : W64 := 0
  chainDry : W64 := 0
  reexec : Bool := false
  plainRead : Bool := false
  /-- A full-save stop has been taken (R157). -/
  stopped : Bool := false
  deriving DecidableEq, Repr

/-- A move queue entry (R174) with the registers it named at issue. -/
inductive MovOp where
  | copy (ds dd : List W64) (tag : Tag)
  | fill (dd : List W64) (v : W64) (tag : Tag)
  | cmb (ds dd : List W64) (contrib epoch : Nat) (tag : Tag)
  | cdone (dd : List W64) (contrib epoch : Nat) (tag : Tag)
  | copen (ds : List W64) (tag : Tag)
  | cclose (dd : List W64) (tag : Tag)
  deriving DecidableEq, Repr

/-- One outstanding Relay operation of the engine (R179): its number at the Relay unit, whether a yield point waits for it
(R188), and whether it is a posting into the scratchpad, which pins the context (R338). -/
structure RlyOp where
  id : Nat
  holds : Bool
  pins : Bool
  deriving DecidableEq, Repr

/-- Bytes that an operation of a unit writes, in memory or in the scratchpad, with its place in the order of issue (R162). -/
structure Span where
  unit : Nat
  mem : Bool
  a : Nat
  n : Nat
  stamp : Nat
  deriving DecidableEq, Repr

/-- The move unit, Relay queue, format-load queue and pending register writes of an engine. -/
structure Units where
  mq : SMap (List MovOp) := []
  /-- A fault that the Groom has not cleared, by move queue (R183, R378), and at 4 more one of the queue's entry in progress. -/
  mqFault : SMap Bool := []
  rly : List RlyOp := []
  fmtLoads : List (Nat × List W64 × Tag) := []
  pendRegs : List Nat := []
  /-- Writes that ended while other work was in flight, each with the place in the order of issue at which it ended (R162). -/
  landed : List (Span × Nat) := []
  deriving DecidableEq, Repr

/-- One engine. (log 12 DESIGN CHOICE) -/
structure Engine where
  /-- The state of a context stands on the engine. -/
  taken : Bool := false
  seq : Seq := {}
  cnt : SeqCounters := {}
  regs : SMap W64 := []
  desc : SMap W64 := []
  /-- Scratchpad bytes by physical address; an unlisted byte is +0, or free where its 64 KiB unit has a seed (R188). -/
  spad : SMap (Option Byte) := []
  spadSeed : SMap Nat := []
  spadPoison : SMap Bool := []
  fmt : SMap FmtSlot := []
  curves : SMap CurveSlot := []
  arrays : SMap Arr := []
  accs : SMap Acc := []
  chain : Chain := {}
  ftq : SMap (Option W64) := []
  units : Units := {}
  deriving DecidableEq, Repr

end Sys2Proof.Machine
end

