-- ==== Sys2Proof/Machine/StHost.lean ====
section
/-! DEFINITION. The state of paddocks, contexts, command rings, command processors and the host dies (R327 to R375). -/

namespace Sys2Proof.Machine

/-- Scheduling states (R336). -/
inductive SchedSt where
  | idle | runnable | running | blocked | stopping | faulted | stranded
  deriving DecidableEq, Repr

/-- What a swap of a context is doing: none; its live state being saved; its state being restored at the binding base that is
given (R339). -/
inductive Swap where
  | none
  | out
  | into (qbase : Nat)
  deriving DecidableEq, Repr

/-- A LAUNCH that waits for its context's dispatch or runs (R363): ring, header addresses by logical engine, s1 to s8, whether
its streams have begun, and the context's billed waves when it started. -/
structure Launch where
  ring : Nat
  hdrs : List Nat
  args : List W64
  started : Bool := false
  billed0 : W64 := 0
  deriving DecidableEq, Repr

/-- The fields of a scheduling block (R334). -/
structure Sched where
  paddock : Nat := 0
  fullSave : Bool := false
  qlen : Nat := 0
  leMask : Nat := 0
  clusters : Nat := 0
  weight : Nat := 0
  deadline : Nat := 0
  deriving DecidableEq, Repr

/-- A context's account (R341 to R346): billed waves and their parts, stops and swap-ins, deficit, guarantee (0 none, 1 held,
2 lost), budget left, time of admission in ns, waves billed since dispatch, and the entry's SEQ. -/
structure Account where
  billed : W64 := 0
  switchW : W64 := 0
  reexecW : W64 := 0
  reinW : W64 := 0
  switches : W32 := 0
  swapIns : W32 := 0
  deficit : Int := 0
  guar : Nat := 0
  budget : Nat := 0
  admittedAt : Nat := 0
  slice : Nat := 0
  seq : W32 := 0
  deriving DecidableEq, Repr

/-- A context (R334 to R349). -/
structure Ctx where
  seed : W64 := 0
  paddock : Nat := 0
  faulted : Bool := false
  admitted : Bool := false
  sched : Sched := {}
  acct : Account := {}
  st : SchedSt := .idle
  /-- Dispatched to its gang. -/
  onGang : Bool := false
  /-- Its binding base while it is resident (R337). -/
  resident : Option Nat := none
  swap : Swap := .none
  launch : Option Launch := none
  /-- UNRECOVERABLE (R181), and engines whose state was lost (R349, R381). -/
  unrec : Bool := false
  lost : List Nat := []
  /-- The state saved for each engine while another context has it, or while swapped out (R339). -/
  saved : SMap Engine := []
  deriving DecidableEq, Repr

/-- Paddock states (R330). -/
inductive PadSt where
  | unused | stopped | running | draining
  deriving DecidableEq, Repr

/-- A paddock (R327 to R333). -/
structure Pad where
  mask : Nat := 0
  st : PadSt := .unused
  ringFirst : Nat := 0
  ringCount : Nat := 0
  maxResident : Nat := 16
  rangeError : Bool := false
  pinHold : Bool := false
  decisions : W64 := 0
  swapOuts : W64 := 0
  swapIns : W64 := 0
  fullSaves : W64 := 0
  evictions : W64 := 0
  pinHolds : W64 := 0
  claimIdle : W64 := 0
  deriving DecidableEq, Repr

/-- Ring states (R357). -/
inductive RingSt where
  | disabled | active | halted
  deriving DecidableEq, Repr

/-- A command that a ring has in progress: its block count, its 64-bit words (header first), and for a WAIT nothing more, for a
LAUNCH the context's record of it. -/
structure RingCmd where
  idx : Nat
  words : List W64
  deriving DecidableEq, Repr

/-- A ring (R355 to R359): state, counts, the entry read at its last ENABLE, the doorbells accepted (TAIL and place in the order
of acceptance), the bytes that the blocks below TAIL held when their doorbell was accepted (R358), the command in progress and
what follows it: a DISABLE or RESET that waits for its end. -/
structure Ring where
  st : RingSt := .disabled
  head : Nat := 0
  tail : Nat := 0
  tailError : Bool := false
  haltIndex : Nat := 0
  haltStatus : Nat := 0
  base : Nat := 0
  log2 : Nat := 0
  priv : Bool := false
  ctx : Nat := 0
  die : Nat := 0
  headAddr : Nat := 0
  irq : Nat := 0
  doors : List (Nat × Nat) := []
  seen : List (Nat × List Byte) := []
  cur : Option RingCmd := none
  disabling : Bool := false
  deriving DecidableEq, Repr

/-- A RING_CTL register group (R356). -/
structure RingCtl where
  word : W64 := 0
  result : Nat := 0
  commands : W64 := 0
  doorbells : W64 := 0
  deriving DecidableEq, Repr

/-- The host dies and the command processors: dies and cores in reset, core frequency in MHz, interrupts delivered (targets,
oldest first), counters, preserve_status (R371). (log 7 DESIGN CHOICE; log 8 DESIGN CHOICE) -/
structure Hosts where
  dieReset : SMap Bool := []
  coreReset : SMap Bool := []
  freq : SMap Nat := []
  irqs : List Nat := []
  irqDropped : W64 := 0
  cpCommands : W64 := 0
  tailErrors : W64 := 0
  ctl : SMap RingCtl := []
  preserve : Nat := 0
  /-- The 100 MHz time counters of both host dies: that of hc1 follows that of hc0 (R353). -/
  time : W64 := 0
  deriving DecidableEq, Repr

end Sys2Proof.Machine
end

