-- ==== Sys2Proof/Machine/StMgmt.lean ====
section
/-! DEFINITION. The state of containment and Remount, of power, gait and heat, of the Studbook, of boot, update and attestation,
and of the lands (R376 to R384, R425 to R495). -/

namespace Sys2Proof.Machine

/-! ### Containment (R377 to R383) -/

/-- A unit under handling, or a report that waits: SOURCE kind and unit (R450; 16 a Relay unit, 17 an NVMe initiator, 18 a lane),
level of the ladder (1 lane to 6 package), and its reports. -/
structure Handling where
  kind : Nat
  unit : Nat
  level : Nat
  reports : Nat := 1
  deriving DecidableEq, Repr

/-- A Remount in progress (R380): the held slot, the spare slot, and whether step 4 has been committed. -/
structure Remount where
  slot : Nat
  spare : Nat
  committed : Bool := false
  deriving DecidableEq, Repr

/-- One array of a slot as the Groom's test port sees it (R79 to R82): whether it is in packed mode, its quadrants, and its
accumulator store with the quarter tiles. -/
structure Packed where
  on : Bool := false
  quads : List Quad := []
  acc : Acc := {}
  deriving DecidableEq, Repr

/-- Containment: handlings in progress and queued, counters, Remounts, clusters out of service, arrays in packed mode (slot * 4 +
array). -/
structure Contain where
  active : List Handling := []
  queue : List Handling := []
  escalations : W64 := 0
  absorbed : W64 := 0
  remounts : List Remount := []
  clOut : SMap Bool := []
  packed : SMap Packed := []
  testResults : SMap Bool := []
  spareTests : W64 := 0
  /-- Units other than slots and compute dies that failed the test of R382, keyed kind * 4096 + number. -/
  retired : SMap Bool := []
  /-- Command processors and NVMe initiators held in reset by their containment (R20, R377), keyed alike. -/
  out : SMap Bool := []
  deriving DecidableEq, Repr

/-! ### Power, gait and heat (R425 to R445) -/

/-- What the governor holds about a compute die: VDDC in mV, rein duty in sixteenths, thermal_slow, mean power over 1 ms, gait read
last, the Groom's fast rein, its rein during a handover, a failed AVSBus, and filler rows asked for. -/
structure DiePower where
  vddc : Nat := 620
  slow : Bool := false
  power : Nat := 0
  gait : Nat := 0
  /-- Mean power of the latest governor interval. -/
  last : Nat := 0
  groomRein : Bool := false
  holdRein : Bool := false
  avsFail : Bool := false
  fill : Bool := false
  /-- The governor's rein duty and the die's cap as it last stood (R429). -/
  duty : Nat := 0
  cap : Nat := 780
  deriving DecidableEq, Repr

/-- A cluster's gait monitor (R425, R437): the reported gait, CAL in millionths while calibration has moved it, and faulty. -/
structure Monitor where
  gait : Nat := 0
  cal : Option Nat := none
  faulty : Bool := false
  deriving DecidableEq, Repr

/-- A floor breach recorded against a die (R433): cause, and when it started, in ns. -/
structure Breach where
  die : Nat
  cause : Nat
  start : Nat
  deriving DecidableEq, Repr

/-- Power, gait and heat of the package. -/
structure Power where
  dies : SMap DiePower := []
  monitors : SMap Monitor := []
  breaches : List Breach := []
  breachCause : Nat := 0
  breachCount : W64 := 0
  /-- Mean power of the package over the last 1 ms window, its ramp ceiling, windows with the floor missed. -/
  power : Nat := 0
  ceiling : Option Nat := none
  shortfall : W64 := 0
  /-- The load floor of the current window (R435). -/
  floor : Nat := 0
  /-- coolant_demand. -/
  demand : Nat := 0
  /-- When a condition of R433 last held, in ns. -/
  condAt : Nat := 0
  /-- coolant_demand at the last ten updates, newest first. -/
  demands : List Nat := []
  /-- Consecutive intervals above the package cap (R431). -/
  excess : Nat := 0
  temps : SMap Int := []
  hbmTemps : SMap Int := []
  suspects : SMap Bool := []
  refresh2 : SMap Bool := []
  /-- Holds left of the scan in progress of a pseudo-channel (R438). -/
  scans : SMap Nat := []
  /-- When a sensor last read above 95 °C, and when a supply was last out of range (R442), in ns. -/
  hotAt : Option Nat := none
  supplyAt : Option Nat := none
  hobble : Nat := 0
  cause : Nat := 0
  sleepState : Nat := 0
  /-- Setpoint of VDDH0 and VDDH1, in mV (R428, R490); 0 while they are switched off. -/
  vddh : Nat := 0
  deriving DecidableEq, Repr

/-! ### The Studbook (R446 to R462) -/

/-- A native record (R450). -/
structure Rec where
  seq : Nat := 0
  time : Nat := 0
  code : Nat := 0
  sev : Nat := 0
  kind : Nat := 0
  unit : Nat := 0
  suppressed : Nat := 0
  step : Nat := 0
  gen : Nat := 0
  flags : Nat := 0
  words : List W64 := []
  deriving DecidableEq, Repr

/-- A token bucket (R453). -/
structure Bucket where
  tokens : Nat := 16
  sup : Nat := 0
  deriving DecidableEq, Repr

/-- A copy in the NOR Studbook area (R460): cause, warm resets, time, number and records. -/
structure NorCopy where
  cause : Nat
  warm : Nat
  time : Nat
  number : Nat
  recs : List Rec
  deriving DecidableEq, Repr

/-- The two recorders: rings keyed recorder * 16384 + slot, slots written once, next SEQ, queue, buckets, QVA ring oldest first,
drop counts by severity, trigger entries, and the copies in NOR with the hold buffer. (log 7 DESIGN CHOICE) -/
structure Studbook where
  ring : SMap (Option Rec) := []
  nextSeq : Nat := 1
  queue : List Rec := []
  buckets : SMap Bucket := []
  suppressedTotal : W64 := 0
  drops : SMap W64 := []
  triggers : SMap (List W64) := []
  qva : List (List Byte) := []
  cursor : W64 := 0
  failed : Nat := 0
  mirrorOk : Bool := true
  hold : Option NorCopy := none
  nor : SMap (Option NorCopy) := []
  copies : Nat := 0
  /-- Records returned to readers by studbook_record and qva_record, oldest first: reader, bytes. -/
  reads : List (Nat × List Byte) := []
  deriving DecidableEq, Repr

/-! ### Boot, update, attestation (R463 to R482) -/

/-- An image as its header and its checks give it (R466, R468): SVN, VERSION, PREV_COMPAT, SHA-256 of the signed header, and
whether each check passes: format, root key, signature, section hashes. -/
structure Image where
  svn : Nat
  version : Nat
  prev : Nat
  hdr : List Byte
  fmtOk : Bool
  keyOk : Bool
  sigOk : Bool
  secOk : Bool
  /-- The host boot firmware (section 5). -/
  host : List Byte := []
  deriving DecidableEq, Repr

/-- A copy of the boot directory (R469). -/
structure BootDir where
  seq : Nat := 0
  preferred : Nat := 0
  valid : Bool := false
  deriving DecidableEq, Repr

/-- A valid repair record (R472): kind, SEQ, signing leaf, and its head and body as bytes. -/
structure Repair where
  kind : Nat
  seq : Nat
  leaf : Nat
  body : List Byte
  deriving DecidableEq, Repr

/-- The firmware image in slot A as the package comes (the manual gives no version). (log 13 DESIGN CHOICE) -/
def shippedImage : Image :=
  { svn := 1, version := 0x01000000, prev := 0x01000000, hdr := [], fmtOk := true, keyOk := true, sigOk := true, secOk := true }

/-- What the power-up sequence of R490 leads to: nothing, the role being free (R468), a boot, the end of Hobble, a wake. -/
inductive PowerSeq where
  | none | role | boot | hobbleExit | wake
  deriving DecidableEq, Repr

/-- Boot, update and attestation. -/
structure Boot where
  running : Nat := 0
  slots : SMap (Option Image) := [(0, some shippedImage)]
  verified : SMap Bool := [(0, true)]
  seq : PowerSeq := .none
  /-- The Ostler firmware runs: the mask ROM has jumped to it. -/
  fw : Bool := true
  /-- Kinds of repair record due (R472), a bit each. -/
  due : Nat := 0
  dirs : SMap BootDir := []
  rollback : Nat := 1
  rpmc1 : Nat := 1
  watchdog : Nat := 0
  fallbacks : W64 := 0
  recovery : Bool := false
  testMode : Bool := false
  complete : Bool := true
  /-- Recovery image received so far (R470). -/
  recv : List Byte := []
  /-- The image that a LOAD in progress has programmed (R475). -/
  loading : Option (List Byte) := none
  status : Nat := 0
  failedCheck : Nat := 0
  dieNow : Nat := 0
  /-- Dies whose Groom runs the new firmware in the update in progress (R476), and the update has finished step 2. -/
  groomsDone : Nat := 0
  repairs : List Repair := []
  repairSeq : Nat := 0
  finds : FlashFinds := {}
  nextLeaf : Nat := 0
  leafEnd : Nat := 0
  /-- Bottom trees computed into the cache (R479): the highest. -/
  tree : Nat := 0
  evidence : SMap (Option (List Byte)) := []
  lastEvidence : Option Nat := none
  signatures : W64 := 0
  bootId : W64 := 0
  warmResets : W64 := 0
  deriving DecidableEq, Repr

/-! ### Lands (R486 to R495) -/

/-- Test access port instructions (R490). -/
inductive TapIr where
  | bypass | samplePreload | extest | idcode
  deriving DecidableEq, Repr

/-- The lands and the test access port: standby power, PKG_RESET_N held low, straps as sampled, EN and PG lands (bits as
power_good), WAKE_N, POWER_BRAKE_N, THERMTRIP_N, the port's instruction, its boundary register and what it drives. -/
structure Lands where
  stby : Bool := true
  inReset : Bool := false
  straps : Nat := 0
  en : Nat := 0xFFF
  pg : Nat := 0xFFF
  brake : Bool := false
  brakeEvents : W64 := 0
  /-- PCIe root ports whose PERST_N is low, and those bifurcated into four ×4 since the last reboot (R491, R492), a bit each. -/
  portReset : Nat := 0
  x4 : Nat := 0
  thermtrip : Bool := false
  tap : TapIr := .idcode
  boundary : List Bool := []
  driven : List Bool := []
  tapOut : List Bool := []
  deriving DecidableEq, Repr

/-- Registers of MMIO as software sees them: the values of RW fields that no unit uses, keyed by address; the words latched by
a read of the first register of an RS group; the words read, oldest first; and writes that go on to PCIe: address, width, value
(R10, R92, R492). (log 7 DESIGN CHOICE) -/
structure Mmio where
  store : SMap W64 := []
  latch : SMap W64 := []
  reads : List (Nat × W64) := []
  out : List (Nat × Nat × W64) := []
  deriving DecidableEq, Repr

end Sys2Proof.Machine
end

