-- ==== Sys2Proof/Machine/StRelay.lean ====
section
/-! DEFINITION. The state of the two Relay units: ports, streams, posted buffers, dispatches and gated combines, the decisions
of each step, and the loss-scale verdicts (R253 to R310). -/

namespace Sys2Proof.Machine

/-- A Relay port (R253, R254): up, its mode while up, lanes that have failed, its lane map, a lane spare in progress, and the peer
MAC that NATIVE link training has learned (R256). -/
structure Port where
  up : Bool := false
  mode : Nat := 0
  failed : Nat := 0
  laneMap : W32 := 0x76543210
  spareUsed : Bool := false
  sparing : Bool := false
  peerMac : W64 := 0
  deriving DecidableEq, Repr

/-- Stream states (R275). -/
inductive StrSt where
  | closed | opening | opened | closing | mismatch | failed
  deriving DecidableEq, Repr

/-- A path of a stream (R283): port, entropy, next PATH_SEQ, congestion window, packets acknowledged in this round trip, and
the times in ns of its recent losses. -/
structure Path where
  port : Nat
  entropy : Nat
  nextSeq : Nat := 0
  cwnd : Nat := 16
  acked : Nat := 0
  losses : List Nat := []
  deriving DecidableEq, Repr

/-- A DATA packet that is not acknowledged: where and when it went, and whether it must be sent again. -/
structure Pkt where
  psn : Nat
  path : Nat
  pathSeq : Nat
  msgId : Nat
  off : Nat
  len : Nat
  resend : Bool
  rto : Nat
  deriving DecidableEq, Repr

/-- A message to be sent: its number, the Relay operation it belongs to, its bytes, what lands it (R263, R271), the bundle or
return it is, its step, and how far it has gone out. asPoison: it is sent as poison after a unit fault (R294). -/
structure TxMsg where
  id : Nat
  op : Option Nat
  tcls : Nat
  step : Nat
  data : List PByte
  body : RBody
  /-- The gated combine and bundle number of a bundle. -/
  bundle : Option (Nat × Nat)
  sent : Nat := 0
  started : Bool := false
  complete : Bool := false
  deriving DecidableEq, Repr

/-- A message being received: posted buffer taken (posting, address), accepted rows of a bundle, bytes arrived, its length once
the last packet has come, poison seen, its bytes so far keyed by offset (kept for messages that the unit itself reads), and
frames of a bundle that came before its first one. -/
structure RxMsg where
  id : Nat
  posting : Option Nat
  addr : Nat := 0
  size : Nat := 0
  drop : Bool := false
  step : Nat := 0
  rows : Nat := 0
  accepted : Nat := 0
  got : Nat := 0
  total : Option Nat := none
  poison : Bool := false
  parts : List (Nat × List PByte) := []
  early : List RFrame := []
  deriving DecidableEq, Repr

/-- A stream (R274, R275), keyed by its number (R497). -/
structure Stream where
  st : StrSt := .closed
  peer : Nat := 0
  cls : Nat := 0
  peerEntry : Nat := 0
  retries : Nat := 0
  /-- Delay before OPEN is sent again, in µs (R275). -/
  backoff : Nat := 0
  lastUse : Nat := 0
  -- sending
  nextPsn : Nat := 0
  cum : Nat := 0
  limit : Nat := 0
  msgCredits : Nat := 0
  demanded : Bool := false
  unacked : List Pkt := []
  tx : List TxMsg := []
  nextMsg : Nat := 0
  paths : SMap (Option Path) := []
  expiries : Nat := 0
  retransmits : W64 := 0
  deriving DecidableEq, Repr

/-- The receiving side of a stream: PSNs below cum and those listed have arrived, messages in progress, credit given, the next
PATH_SEQ expected on each path, and what the next ACK reports. -/
structure StreamRx where
  cum : Nat := 0
  have_ : List Nat := []
  msgs : List RxMsg := []
  granted : Nat := 0
  demand : Nat := 0
  limit : Nat := 256
  pathSeq : SMap Nat := []
  sinceAck : Nat := 0
  tstamp : Nat := 0
  done : List (Nat × Nat) := []
  deriving DecidableEq, Repr

/-- A posting of rly.postrx (R271): buffers not yet taken and the number not yet complete, or for GRAD a region. -/
structure Posting where
  id : Nat
  op : Nat
  ge : Nat
  ctx : Nat
  pc : W64
  peer : Nat
  cls : Nat
  tcls : Nat
  spad : Bool
  bufs : List Nat
  left : Nat
  size : Nat
  flag : Nat
  /-- GRAD: the region's canonical base, its contribution type, and whether it has WIDEN. -/
  region : Nat
  ctype : Nat := 0
  widen : Bool := false
  deriving DecidableEq, Repr

/-- An outstanding Relay operation (R179): messages not yet acknowledged, or buffers not yet complete. -/
structure RelOp where
  id : Nat
  ge : Nat
  ctx : Nat
  step : Nat
  left : Nat
  status : Nat
  deriving DecidableEq, Repr

/-- One slot's row in a bundle: record and slot. -/
abbrev RowRef := Nat × Nat

/-- A bundle sent for a gated combine: to which member, its number, entry, rank of the holder, and its rows. -/
structure SentBundle where
  member : Nat
  num : Nat
  entry : Nat
  rank : Nat
  rows : List RowRef
  deriving DecidableEq, Repr

/-- A gated combine of a dispatch (R261, R267 to R270): control block words, router output, the base of the placement table, records, token status by record,
holders that have refused a row (keyed record * 4 + slot: a bit per rank), rows still unresolved, and bundles sent. -/
structure GComb where
  id : Nat
  op : Nat
  ge : Nat
  ctx : Nat
  pc : W64
  /-- Its place in the order of issue. -/
  stamp : Nat
  step : Nat
  cb : List W64
  routers : List (List Byte)
  rspace : Nat
  rbase : Nat
  n : Nat
  tabBase : Nat
  rowBytes : SMap (List PByte)
  status : SMap Nat
  refused : SMap Nat
  pendingRows : SMap Nat
  bundles : List SentBundle
  complete : Bool
  deriving DecidableEq, Repr

/-- A decision of a step for the step journal (R293, R393). -/
inductive JItem where
  | regionClose (home entry epoch mask : Nat) (forced ordered : Bool) (late : Nat)
  | late (member tcls bytes decision : Nat)
  | admission (entry sender bundle a : Nat)
  | reroute (rec slot : Nat) (holder : Option Nat)
  | closeCounts (missing refusals : Nat)
  | groupTally (id : Nat) (tally : W64)
  | repair (group handle source rule : Nat)
  | unitEvent (unit gen : Nat)
  | skip (first count reason : Nat)
  deriving DecidableEq, Repr

/-- A loss-scale verdict (R308, R309). -/
structure Verdict where
  halve : Bool
  incomplete : Bool
  lsNext : Int
  clean : Nat
  deriving DecidableEq, Repr

/-- What the units hold about one step. -/
structure StepSt where
  timer : Bool := false
  expired : Bool := false
  halve : Bool := false
  ovf : Bool := false
  inv : Bool := false
  poison : Bool := false
  ended : List Nat := []
  refusals : Nat := 0
  missing : Nat := 0
  items : List JItem := []
  /-- Rows admitted per placement entry (R264), and entries that have reached CAPACITY. -/
  counts : SMap Nat := []
  full : List Nat := []
  /-- Next bundle number per member (R262). -/
  bundleNo : SMap Nat := []
  /-- R293 holds: the step is closed at this member. -/
  closed : Bool := false
  reports : List (Nat × Bool × Bool) := []
  reported : Bool := false
  verdict : Option Verdict := none
  /-- The verdict recorded for the step, in replay (R394). -/
  recorded : Option Verdict := none
  /-- The commit deadline passed with no verdict (R309). -/
  skipped : Bool := false
  journaled : Bool := false
  listed : Bool := false
  /-- Blocks touched, kept when the step closes (R305). -/
  touched : List Nat := []
  deriving DecidableEq, Repr

/-- A frame on a port, with its addressing (R256): port, destination member, next-hop MAC, IPv6 source and destination, hop limit,
flow label, DSCP and ECN, tag, UDP ports. -/
structure Wire where
  port : Nat
  member : Nat
  mac : W64
  src : Nat
  dst : Nat
  hop : Nat := 64
  flow : Nat
  dscp : Nat
  ecn : Nat
  sport : Nat
  vlan : Nat
  udp : Nat
  frame : RFrame
  deriving DecidableEq, Repr

/-- The counters of 0x6050. -/
structure RelayCounters where
  digestRefusals : W64 := 0
  retransmits : W64 := 0
  framesDiscarded : W64 := 0
  lateReturns : W64 := 0
  tableWaits : W64 := 0
  deriving DecidableEq, Repr

/-- The two Relay units. (log 6 DESIGN CHOICE; log 7 DESIGN CHOICE) -/
structure Relay where
  ports : SMap Port := []
  streams : SMap Stream := []
  rx : SMap StreamRx := []
  posts : List Posting := []
  ops : List RelOp := []
  combs : List GComb := []
  /-- Messages that wait for a stream entry (R277): peer, class, message. -/
  waiting : List (Nat × Nat × TxMsg) := []
  /-- Streams with a DEMAND, in the order the demands arrived (R285). -/
  demands : List Nat := []
  nextId : Nat := 1
  steps : SMap StepSt := []
  /-- The step whose timer last started locally (R289). -/
  lastStep : Option Nat := none
  /-- The placement table in effect fails its tally (R259). -/
  placementBad : Bool := false
  /-- The placement table in effect: base and entries. -/
  ptab : Nat × Nat := (0, 0)
  /-- The table in effect before it, and the step from which ptab is in effect (R295). -/
  ptabPrev : Nat × Nat := (0, 0)
  ptabFrom : Nat := 0
  /-- The touch bindings in effect: base and count (R305). -/
  bindings : Nat × Nat := (0, 0)
  out : List Wire := []
  cnt : RelayCounters := {}
  /-- Units (bit 0: ed0, bit 1: ed1) with an uncleared fault (R294), and out of service. -/
  faulted : Nat := 0
  outOfService : Nat := 0
  deriving DecidableEq, Repr

/-- The team's loss scale and what follows a step's close (R306 to R310, R392). (log 7 DESIGN CHOICE) -/
structure Team where
  lsExp : Int := 16
  clean : Nat := 0
  halvings : W64 := 0
  /-- The unit that writes touched lists and journal: 0 or 1 (R306). -/
  writer : Nat := 0
  /-- CONTROL messages sent: to member, step, halve, incomplete; and verdicts sent: to member, step. -/
  reportsOut : List (Nat × Nat × Bool × Bool) := []
  verdictsOut : List (Nat × Nat × Verdict) := []
  /-- CONTROL messages received whole: sender, step, bytes. -/
  controlIn : List (Nat × Nat × List PByte) := []
  /-- Next byte of the journal ring, its newest record's step, and gaps (R392). -/
  journalAt : Nat := 0
  journalLast : Nat := 0
  journalGaps : W64 := 0
  /-- Records written, oldest first: offset in the ring, length and step. -/
  journalRecs : List (Nat × Nat × Nat) := []
  /-- The lender's grant (R323): granted; steps still to pass once notice is given. -/
  lending : Bool := false
  notice : Option Nat := none
  replayStatus : Nat := 0
  suspect : SMap Bool := []
  /-- STEP of the newest valid stored checkpoint (R388). -/
  ckptLast : Nat := 0
  /-- What withholds the next touched list: a checkpoint copy (0), or a repair of a block (its handle + 1) (R387, R400). -/
  gate : List Nat := []
  /-- Group tallies reported: step, group, member, tally (R397). -/
  groupReps : List (Nat × Nat × Nat × W64) := []
  /-- Own tallies sent to the other holders: to member, step, group, tally (R397). -/
  talliesOut : List (Nat × Nat × Nat × W64) := []
  /-- Groups found unequal: step, group. -/
  unequal : List (Nat × Nat) := []
  /-- Blocks to be replaced (R399, R400): handle, source member or none for the newest valid checkpoint, rule. -/
  repairs : List (Nat × Option Nat × Nat) := []
  /-- Next block of the round-robin scrub (R398). -/
  scrubAt : Nat := 0
  mismatches : W64 := 0
  repairsDone : W64 := 0
  tallyFaults : W64 := 0
  deriving DecidableEq, Repr

end Sys2Proof.Machine
end

