-- ==== Sys2Proof/Machine/State.lean ====
section
/-! DEFINITION. The state of the block: everything the manual gives it, as plain data; the reasons a step stops; and the
state after reset. -/

namespace Sys2Proof.Machine

/-- The physical map in effect since the last warm reset (R198, R200, R203). -/
structure MapCfg where
  islands : Nat := 1
  lpCap : SMap Nat := []
  aliasEnable : Bool := true
  retired : Option Nat := none
  deriving DecidableEq, Repr

/-- The service state of an engine slot (R21). -/
inductive SlotSt where
  | inService | draining | held | test | retired
  deriving DecidableEq, Repr

/-- The 864 engine slots, numbered cluster * 9 + e: service states, and the spare map (R16), whose unlisted logical engine
le lies on slot e of the same number. Units whose fault report the Groom has not cleared. -/
structure Slots where
  st : SMap SlotSt := []
  map : SMap (Option Nat) := []
  deriving DecidableEq, Repr

/-- An event raised by a unit and waiting on the management ring for the Studbook (R448, R450): area, the event's number
within it, severity, source kind and unit, parameters. (log 10 DESIGN CHOICE) -/
structure Event where
  area : Nat
  num : Nat
  sev : Nat
  kind : Nat
  unit : Nat
  params : List W64
  deriving DecidableEq, Repr

/-- Generations of units (R382), keyed by kind * 4096 + number as SOURCE codes them (R450): the Ostler's record and the
Groom's copy, and the messages discarded for their tag (R384). -/
structure Gens where
  record : SMap Nat := []
  copy : SMap Nat := []
  stale : W64 := 0
  deriving DecidableEq, Repr

/-- The block's state. (log 1 DESIGN CHOICE; log 5 DESIGN CHOICE; log 6 DESIGN CHOICE) -/
structure State where
  pending : List Instr := []
  free : Nat := 0
  stamp : Nat := 0
  map : MapCfg := {}
  slots : Slots := {}
  rein : SMap Nat := []
  engines : SMap Engine := []
  mem : Mem := {}
  attrCmd : AttrCmd := {}
  harn : Harness := {}
  hcnt : HarnessCounters := {}
  cmb : Combine := {}
  trans : Trans := {}
  offload : SMap Offload := []
  ctxs : SMap Ctx := []
  padRanges : SMap W64 := []
  raised : List Event := []
  dict : Dict := {}
  ost : Ostler := {}
  rly : Relay := {}
  team : Team := {}
  gens : Gens := {}
  nvme : Nvme := {}
  ckpt : Ckpt := {}
  pads : SMap Pad := []
  /-- Engines held for a context that claims them (R342): the context + 1. -/
  claims : SMap Nat := []
  rings : SMap Ring := []
  hosts : Hosts := {}
  contain : Contain := {}
  power : Power := {}
  book : Studbook := {}
  boot : Boot := {}
  lands : Lands := {}
  mmio : Mmio := {}
  deriving DecidableEq, Repr

/-- No command ends in a fault: what goes wrong in the block is an effect on its state (a fault register, a status code, a
record). Nobody raises it. Safe: nothing can be proved from a fault that never happens. -/
inductive Fault where
  deriving DecidableEq, Repr

/-- Refusals of the model. -/
inductive Refusal where
  /-- Raised by the arm of a command whose meaning is not written; no meaning answers with it. Safe. -/
  | notModelled (mnemonic : String)
  deriving DecidableEq, Repr

/-- The block right after reset. (log 9 DEDUCED; log 11 DESIGN CHOICE; log 12 DESIGN CHOICE; log 13 DESIGN CHOICE) -/
def State.reset : State := {}

end Sys2Proof.Machine
end

