-- ==== Sys2Proof/Machine/Map.lean ====
section
/-! DEFINITION. The physical map (R196 to R204), region attributes (R211), poison (R223 to R226), and the agents and homes of
the harness (R231 to R237). -/

namespace Sys2Proof.Machine

/-- Bytes of one HBM stack (R197). -/
def stackBytes : Nat := 0x1200000000
/-- End of the stack-local view (R196). -/
def hbmEnd : Nat := 0x24000000000
/-- Start of the per-interface LPDDR view. -/
def lpBase : Nat := 0x40000000000
/-- Start of the LPDDR alias. -/
def lpAlias : Nat := 0x60000000000
/-- Start of the HBM alias windows. -/
def hbmAlias : Nat := 0x80000000000
/-- End of the HBM alias windows. -/
def hbmAliasEnd : Nat := 0xA4000000000
/-- Start of MMIO. -/
def mmioBase : Nat := 0xF0000000000
/-- One interface's span of addresses, 128 GiB. -/
def lpSpan : Nat := 0x2000000000
/-- 2 MiB. -/
def mib2 : Nat := 0x200000

/-- Capacity of interface lpNN in bytes (R200). -/
def lpBytes (c : MapCfg) (i : Nat) : Nat := sget 128 c.lpCap i * 2 ^ 30

/-- The LPDDR alias exists (R200). -/
def aliasOn (c : MapCfg) : Bool :=
  c.aliasEnable && decide (0 < lpBytes c 0) && (List.range 16).all fun i => lpBytes c i == lpBytes c 0

/-- Dies per island (R237). -/
def islandDies (c : MapCfg) : Nat := 8 / c.islands

/-- First die of the island that contains die d. -/
def islandStart (c : MapCfg) (d : Nat) : Nat := d / islandDies c * islandDies c

/-- Die d is retired (R3). -/
def dieRetired (c : MapCfg) (d : Nat) : Bool := c.retired == some d

/-- Some die of the island that starts at die d is retired (R203). -/
def islandBroken (c : MapCfg) (d : Nat) : Bool := (List.range (islandDies c)).any fun j => dieRetired c (d + j)

/-- The stack-local or per-interface address of a physical address in any view; none where it is absent or MMIO
(R196 to R203). -/
def canon (c : MapCfg) (pa : Nat) : Option Nat :=
  if pa < hbmEnd then (if dieRetired c (pa / (4 * stackBytes)) then none else some pa)
  else if pa < lpBase then none
  else if pa < lpAlias then
    let i := (pa - lpBase) / lpSpan
    if (pa - lpBase) % lpSpan < lpBytes c i then some pa else none
  else if pa < hbmAlias then
    let w := pa - lpAlias
    if aliasOn c && decide (w < 16 * lpBytes c 0) then
      let g := w / 4096
      some (lpBase + g % 16 * lpSpan + g / 16 * 4096 + w % 4096)
    else none
  else if pa < hbmAliasEnd then
    let d := islandStart c ((pa - hbmAlias) / (4 * stackBytes))
    if islandBroken c d then none else
    let w := pa - (hbmAlias + d * (4 * stackBytes))
    let st := 4 * islandDies c
    let g := w / 4096
    some ((4 * d + g % st) * stackBytes + g / st * 4096 + w % 4096)
  else none

/-- The address under which a canonical HBM address appears in its island's alias window (R198). -/
def hbmAliasOf (c : MapCfg) (a : Nat) : Nat :=
  let st := a / stackBytes
  let d := islandStart c (st / 4)
  let off := a % stackBytes
  hbmAlias + d * (4 * stackBytes) + (off / 4096 * (4 * islandDies c) + (st - 4 * d)) * 4096 + off % 4096

/-- The address under which a canonical LPDDR address appears in the interleaved alias (R200). -/
def lpAliasOf (a : Nat) : Nat :=
  let i := (a - lpBase) / lpSpan
  let off := (a - lpBase) % lpSpan
  lpAlias + (off / 4096 * 16 + i) * 4096 + off % 4096

/-- A range of n bytes from an address in any view covers a canonical address (R199). -/
def rangeCovers (c : MapCfg) (b n a : Nat) : Bool :=
  let inR (x : Nat) : Bool := decide (b ≤ x ∧ x < b + n)
  inR a || (if a < hbmEnd then inR (hbmAliasOf c a) else aliasOn c && inR (lpAliasOf a))

/-- The address is MMIO (R196). -/
def isMmio (pa : Nat) : Bool := decide (mmioBase ≤ pa ∧ pa < 2 ^ 44)

/-- The home of a canonical address: 0 to 31 the stack's HBM home (R9), 32 and 33 the LPDDR homes of ed0 and ed1. -/
def homeOf (a : Nat) : Nat := if a < hbmEnd then a / stackBytes else 32 + (a - lpBase) / lpSpan / 8

/-- A home is an LPDDR home. -/
def isLpHome (h : Nat) : Bool := decide (32 ≤ h)

/-- KIND of the region holding a canonical address (R211): 0 NORMAL, 1 STREAMING, 2 COMBINE, 3 UNCACHED. -/
def attrKind (m : Mem) (a : Nat) : Nat := sget 0 m.attr (a / mib2) % 4

/-- RPOISON of the region (R224). -/
def attrRpoison (m : Mem) (a : Nat) : Bool := bitAt (sget 0 m.attr (a / mib2)) 2

/-- The 2 MiB regions, by number and in address order, that a region attribute command names (R212, R213), or its RESULT code: 2 some region
absent, 3 an alias range that does not cover whole regions. -/
def attrRegions (c : MapCfg) (b n : Nat) : Except Nat (List Nat) :=
  let xs := (List.range n).map fun i => b + i * mib2
  if xs.any fun x => (canon c x).isNone then .error 2
  else if b < lpAlias then .ok (xs.map fun x => x / mib2)
  else
    let hbm := decide (hbmAlias ≤ b)
    let st := if hbm then 4 * islandDies c else 16
    let start := if hbm then hbmAlias + islandStart c ((b - hbmAlias) / (4 * stackBytes)) * (4 * stackBytes) else lpAlias
    if (b - start) / mib2 % st ≠ 0 ∨ n % st ≠ 0 then .error 3
    else .ok ((List.range st).flatMap fun k =>
      (List.range (n / st)).map fun g => (canon c (b + g * st * mib2 + k * 4096)).getD 0 / mib2)

/-- BASE of a command, as an address. -/
def attrBase (w0 : W64) : Nat := bits w0.toNat 43 21 * mib2
/-- COUNT of a command. -/
def attrCount (w1 : W64) : Nat := bits w1.toNat 20 0

/-- The regions that the command in progress has still to change (R213). -/
def attrLeft (c : MapCfg) (x : AttrCmd) : List Nat :=
  if !x.busy then [] else
  match attrRegions c (attrBase x.run.1) (attrCount x.run.2) with | .ok l => l.drop x.done | .error _ => []

/-- A region is being changed by the command in progress (R213). -/
def attrChanging (c : MapCfg) (x : AttrCmd) (region : Nat) : Bool := (attrLeft c x).contains region

/-- Memory is in its canonical form: addresses strictly rising, and no entry equal to what an unlisted address reads as.
 (log 3 DESIGN CHOICE) -/
def Mem.wf (m : Mem) : Bool :=
  swf 0 m.bytes && swf false m.poison && swf 0 m.attr && swf false m.dirty && swf false m.dirtyOld

/-- The 64-byte granule holding a canonical address reads as poison (R223, R224). -/
def granPoison (m : Mem) (a : Nat) : Bool := sget false m.poison (a / 64) || attrRpoison m a

/-- One byte of memory with its poison. (log 9 DEDUCED) -/
def memByte (m : Mem) (a : Nat) : PByte := (sget 0 m.bytes a, granPoison m a)

/-- n bytes of memory. -/
def memRun (m : Mem) (a n : Nat) : List PByte := (List.range n).map fun i => memByte m (a + i)

/-- The first granule number of LPDDR home h - 32 and the number of granules it spans. -/
def lpGranules (h : Nat) : Nat × Nat := ((lpBase + (h - 32) * 8 * lpSpan) / 64, 8 * lpSpan / 64)

/-- Entries in use in the poison table of an LPDDR home (R224). -/
def lpPoisonCount (m : Mem) (h : Nat) : Nat :=
  let g := lpGranules h
  (m.poison.filter fun e => decide (g.1 ≤ e.1 ∧ e.1 < g.1 + g.2)).length

/-- Marks the granule of a canonical address as poison: the HBM check pattern (R223), or an entry of the LPDDR poison
table, or RPOISON when the table of 16,384 is full (R224). -/
def poisonGran (m : Mem) (a : Nat) : Mem :=
  let h := homeOf a
  if isLpHome h && !sget false m.poison (a / 64) && decide (16384 ≤ lpPoisonCount m h) then
    { m with attr := smod 0 m.attr (a / mib2) (fun e => setBit e 2) }
  else { m with poison := sset false m.poison (a / 64) true }

/-- Bytes stored from a canonical address on, within one region: its dirty bit is set (R386). (log 3 DESIGN CHOICE) -/
def memPut (m : Mem) (a : Nat) (d : List Byte) : Mem :=
  { m with bytes := ssetRun 0 m.bytes a d, dirty := sset false m.dirty (a / mib2) true }

/-- Writes bytes that lie in one granule: a poisoned byte poisons it, a whole clean granule clears its mark (R226).
 (log 3 DESIGN CHOICE) -/
def memWrite (m : Mem) (a : Nat) (d : List PByte) : Mem :=
  let m1 := memPut m a (d.map Prod.fst)
  if d.any Prod.snd then poisonGran m1 a
  else if d.length = 64 then { m1 with poison := sset false m1.poison (a / 64) false }
  else m1

/-- Cuts bytes from address a at granule boundaries (fuel: the number of bytes). -/
def byGranule (w : Nat) : Nat → Nat → List PByte → List (Nat × List PByte)
  | 0, _, _ => []
  | f + 1, a, d =>
    if d.isEmpty then [] else
    let n := w - a % w
    (a, d.take n) :: byGranule w f (a + n) (d.drop n)

/-- The agent number of a cluster (R233): clusters 0 to 95, host dies 96 and 97, command processors 98 to 105, edge dies 106
and 107. -/
def clusterOf (ge : Nat) : Nat := ge / 8

/-- The die of a cluster agent. -/
def dieOfCluster (a : Nat) : Nat := a / 12

/-- The compute die of an engine (R8: eight logical engines a cluster, twelve clusters a die). -/
def dieOfGe (ge : Nat) : Nat := ge / 96

/-- The cluster code of a cluster at a home (R236); host dies keep 96 and 97. -/
def agentCode (c : MapCfg) (h a : Nat) : Nat :=
  if 96 ≤ a then a else if isLpHome h then a else a - islandStart c (h / 4) * 12

/-- The agent of a code at a home (R235, R236). -/
def codeAgent (c : MapCfg) (h x : Nat) : Nat :=
  if 96 ≤ x then x else if isLpHome h then x else x + islandStart c (h / 4) * 12

/-- Clusters per group bit at a home (R236). -/
def groupSize (c : MapCfg) (h : Nat) : Nat :=
  if isLpHome h then 4 else if islandDies c = 8 then 4 else if islandDies c = 4 then 2 else 1

/-- Clusters that a home tracks. -/
def homeClusters (c : MapCfg) (h : Nat) : Nat := if isLpHome h then 96 else islandDies c * 12

/-- The agents a directory entry names as sharers (R236). -/
def sharersOf (c : MapCfg) (h : Nat) (e : DirEnt) : List Nat :=
  ((List.range (homeClusters c h)).filter fun x => bitAt e.csharers (x / groupSize c h)).map (codeAgent c h)
    ++ ((List.range 2).filter fun i => bitAt e.hsharers i).map (96 + ·)

/-- Adds an agent to the sharers of an entry. -/
def addSharer (c : MapCfg) (h a : Nat) (e : DirEnt) : DirEnt :=
  if 96 ≤ a then { e with hsharers := setBit e.hsharers (a - 96) }
  else { e with csharers := setBit e.csharers (agentCode c h a / groupSize c h) }

/-- A home resolves races with credits (R237): HBM homes of islands of one or two dies. -/
def creditMode (c : MapCfg) (h : Nat) : Bool := !isLpHome h && decide (4 ≤ c.islands)

/-- The set of a line at its home (R234). -/
def dirSet (line : Nat) : Nat :=
  let a := line * 64
  if a < hbmEnd then (bits (a % stackBytes) 20 6) ^^^ (bits (a % stackBytes) 35 21)
  else
    let i := (a - lpBase) / lpSpan
    let l := i % 8 * lpSpan + (a - lpBase) % lpSpan
    (bits l 21 6) ^^^ (bits l 37 22)

/-- The tag of a line (R234). -/
def dirTag (line : Nat) : Nat :=
  let a := line * 64
  if a < hbmEnd then bits (a % stackBytes) 36 21
  else
    let i := (a - lpBase) / lpSpan
    bits (i % 8 * lpSpan + (a - lpBase) % lpSpan) 39 22

/-- Two lines lie in one set of one home. -/
def sameSet (l k : Nat) : Bool := homeOf (l * 64) == homeOf (k * 64) && dirSet l == dirSet k

end Sys2Proof.Machine
end

