-- ==== Sys2Proof/Machine/Coh.lean ====
section
/-! DEFINITION. Whole accesses at the homes: reads and writes as they complete, with recalls, invalidations, the stale-line
log and directory victims (R204, R215, R216, R240, R246). -/

namespace Sys2Proof.Machine

/-- The key of a line in an agent's cache. -/
def ckey (a line : Nat) : Nat := a * 2 ^ 38 + line

/-- A line held by an agent. -/
def cached (s : State) (a line : Nat) : Option CLine := sget none s.harn.lines (ckey a line)

/-- Sets or drops a line of an agent. -/
def setCached (s : State) (a line : Nat) (v : Option CLine) : State :=
  { s with harn := { s.harn with lines := sset none s.harn.lines (ckey a line) v } }

/-- The agent of a host core. -/
def agentOfCore (core : Nat) : Nat := 96 + core / 48

/-- A cache loses its copy of a line; a host die's L2s lose theirs with it (R231), and its reservations on the line end (R247). -/
def dropCopy (s : State) (a line : Nat) : State :=
  let s1 := setCached s a line none
  { s1 with harn := { s1.harn with
      l2 := s1.harn.l2.filter fun e => !(e.1 % 2 ^ 38 == line && agentOfCore (e.1 / 2 ^ 38) == a),
      resv := s1.harn.resv.filter fun r => !(agentOfCore r.1 == a && r.2 == line + 1) } }

/-- The directory entry of a line. -/
def dirEnt (s : State) (line : Nat) : Option DirEnt := sget none s.harn.dir line

/-- Sets or frees a directory entry. -/
def setDir (s : State) (line : Nat) (v : Option DirEnt) : State :=
  { s with harn := { s.harn with dir := sset none s.harn.dir line v } }

/-- The agent that owns a line in X or O. -/
def ownerOf (s : State) (line : Nat) : Option Nat :=
  match dirEnt s line with
  | some e => if e.dstate = .s then none else some (codeAgent s.map (homeOf (line * 64)) e.owner)
  | none => none

/-- The agents other than the owner that an entry names as sharers (R236): every cluster of a set group bit. -/
def sharers (s : State) (line : Nat) : List Nat :=
  match dirEnt s line with
  | some e => (sharersOf s.map (homeOf (line * 64)) e).filter fun a => some a ≠ ownerOf s line
  | none => []

/-- The sharers that hold the line. -/
def holdersOf (s : State) (line : Nat) : List Nat := (sharers s line).filter fun a => (cached s a line).isSome

/-- A notice of an agent for a line is on its way (R241). -/
def putFlies (s : State) (a line : Nat) : Bool := s.harn.puts.any fun p => p.1 == a && p.2.1 == line

/-- An agent's copy of a line: in its cache, or in its write-back buffer until the home has its notice (R241). -/
def copyOf (s : State) (a line : Nat) : Option CLine :=
  match cached s a line with
  | some c => some c
  | none => sget none s.harn.wb (ckey a line)

/-- A copy is dirty. -/
def CLine.dirty (c : CLine) : Bool := c.st == .m || c.st == .o

/-- The bytes of a copy, with its poison. -/
def CLine.bytes (c : CLine) : List PByte := c.data.map (·, c.poison)

/-- The dirty data of a line outside memory (R240): in the cache that holds it, in flight to its next owner, or in its owner's
write-back buffer. -/
def dirtyData (s : State) (line : Nat) : Option (List PByte) :=
  let held (e : Nat × Option CLine) : Option (List PByte) := match e.2 with
    | some c => if e.1 % 2 ^ 38 = line ∧ c.dirty = true then some c.bytes else none
    | none => none
  match s.harn.lines.findSome? held with
  | some d => some d
  | none =>
    match s.harn.txns.find? fun t => t.line == line && t.wasDirty && !t.buf.isEmpty && t.result == some .m with
    | some t => some t.buf
    | none =>
      match ownerOf s line with
      | some a => (sget none s.harn.wb (ckey a line)).map CLine.bytes
      | none => none

/-- A line's data as its home would serve it (R240). -/
def lineData (s : State) (line : Nat) : List PByte := (dirtyData s line).getD (memRun s.mem (line * 64) 64)

/-- Writes a dirty copy of a line to memory. -/
def writeBack (s : State) (a line : Nat) : State :=
  match copyOf s a line with
  | some c => if c.dirty then { s with mem := memWrite s.mem (line * 64) c.bytes } else s
  | none => s

/-- Recalls the owner of a line (R215 step 1): its dirty data reaches memory and its copy is dropped; the entry keeps the
sharers in S, or is freed. -/
def recallOwner (s : State) (line : Nat) : State :=
  match dirEnt s line, ownerOf s line with
  | some e, some a =>
    let s1 := dropCopy (writeBack s a line) a line
    setDir s1 line (if e.csharers = 0 ∧ e.hsharers = 0 ∧ !e.openTx then none
      else some { e with dstate := .s, owner := 127 })
  | _, _ => s

/-- Drops every copy of a line, dirty data first written to memory, and frees its entry (R240 victim recall). -/
def recallLine (s : State) (line : Nat) : State :=
  let s1 := recallOwner s line
  setDir ((holdersOf s1 line).foldl (fun t a => dropCopy t a line) s1) line none

/-- An entry whose line no sharer holds any more is freed (R240, R216). -/
def tidyDir (s : State) (line : Nat) : State :=
  match dirEnt s line with
  | some e => if e.dstate = .s ∧ !e.openTx ∧ (holdersOf s line).isEmpty then setDir s line none else s
  | none => s

/-- Directory entries of a line's set. -/
def setLines (s : State) (line : Nat) : List (Nat × DirEnt) :=
  s.harn.dir.filterMap fun e => match e.2 with
    | some d => if sameSet e.1 line then some (e.1, d) else none
    | none => none

/-- The least recently used entry of a set that is not pinned (R246). -/
def victimOf (s : State) (line : Nat) : Option Nat :=
  ((setLines s line).filter fun e => !e.2.openTx).foldl (fun (b : Option (Nat × Nat)) e =>
    match b with
    | none => some (e.1, e.2.stamp)
    | some (l, t) => if e.2.stamp < t then some (e.1, e.2.stamp) else some (l, t)) none |>.map Prod.fst

/-- A core's deferral after an LR keeps a line (R247). -/
def lrKeeps (s : State) (line : Nat) : Bool := s.harn.lrDefer.any fun d => d.2 == line + 1

/-- A set has a free way, or a victim that no deferral after an LR keeps (R246, R247). -/
def hasRoom (s : State) (line : Nat) : Bool :=
  decide ((setLines s line).length < 16) || match victimOf s line with | some v => !lrKeeps s v | none => false

/-- Makes room for a new entry: with all 16 ways in use, the victim is recalled and counted (R246). -/
def makeRoom (s : State) (line : Nat) : State :=
  if (setLines s line).length < 16 then s else
  match victimOf s line with
  | some v =>
    let s1 := recallLine s v
    { s1 with hcnt := { s1.hcnt with victimRecalls := s1.hcnt.victimRecalls + 1 } }
  | none => s

/-- A new directory entry. -/
def newDir (stamp : Nat) : DirEnt :=
  { dstate := .s, openTx := false, owner := 127, csharers := 0, hsharers := 0, eccMark := false, stamp := stamp }

/-- An agent that takes a fresh copy no longer holds a stale one (R245: a copy fetched after the write is current). -/
def unstale (s : State) (a line : Nat) : State :=
  let h := homeOf (line * 64)
  let l := (sget [] s.harn.stale h).map fun e => if e.line = line then { e with agents := e.agents.filter (· ≠ a) } else e
  { s with harn := { s.harn with
      stale := sset [] s.harn.stale h l, pendInv := s.harn.pendInv.filter fun p => !(p.line == line && p.agent == a) } }

/-- A transaction is open on a line (R240): a harness transaction, or an engine's write whose invalidations are not all
acknowledged. -/
def lineOpen (s : State) (line : Nat) : Bool :=
  (s.harn.txns.any fun t => t.line == line) || s.harn.pendInv.any fun p => p.line == line

/-- A line is busy for a newcomer (R243): open, or waited for by an earlier request. -/
def lineBusy (s : State) (line : Nat) : Bool :=
  lineOpen s line || (s.harn.credits.any fun c => c.line == line) || s.harn.holds.any fun q => q.line == line

/-! ### Places in the caches (R231) -/

/-- Sets of an agent's cache of 16 ways: 4 MiB of a cluster, 128 MiB of a host L3. (log 90 DESIGN CHOICE) -/
def cacheSets (a : Nat) : Nat := if a < 96 then 4096 else 131072

/-- A cache gives up a line (R239, R241): a copy in S silently; from M, O or E a notice leaves, and the data of M or O stays in the
write-back buffer. -/
def evictLine (s : State) (a line : Nat) : State :=
  match cached s a line with
  | none => s
  | some c =>
    let s1 := dropCopy s a line
    if c.st = .s then s1 else
    { s1 with harn := { s1.harn with
        puts := s1.harn.puts ++ [(a, line, c.st)],
        wb := if c.dirty then sset none s1.harn.wb (ckey a line) (some c) else s1.harn.wb } }

/-- The line that a full set gives up for a new one: which one is free. (log 90 DESIGN CHOICE) -/
def cacheVictim (s : State) (lines : List Nat) : Option Nat :=
  if lines.length < 16 then none else lines[(Config.freeWord s.free).toNat % lines.length]?

/-- An agent's cache makes room for a line; no line with a transaction open leaves. -/
def fitCache (s : State) (a line : Nat) : State :=
  if (cached s a line).isSome then s else
  let l := (s.harn.lines.map Prod.fst).filter fun k => k / 2 ^ 38 == a && k % 2 ^ 38 % cacheSets a == line % cacheSets a
  match cacheVictim s ((l.map (· % 2 ^ 38)).filter fun v => !lineOpen s v) with
  | some v => evictLine { s with free := s.free + 1 } a v
  | none => s

/-- A cache takes a line. -/
def install (s : State) (a line : Nat) (st : Moesi) (d : List PByte) : State :=
  unstale (setCached (fitCache s a line) a line (some { st := st, data := d.map Prod.fst, poison := d.any Prod.snd })) a line

/-- An agent's copy after a shared read of another (R240): M becomes O, E becomes S, in its L2s too. -/
def shareState (st : Moesi) : Moesi := match st with | .m => .o | .e => .s | x => x

/-- The owner of a line serves a shared read. -/
def shareCopy (s : State) (a line : Nat) : State :=
  let sh (c : CLine) : CLine := { c with st := shareState c.st }
  { s with harn := { s.harn with
      lines := smod none s.harn.lines (ckey a line) fun c => c.map sh,
      wb := smod none s.harn.wb (ckey a line) fun c => c.map sh,
      l2 := smapAll none (fun k st => if k % 2 ^ 38 = line ∧ agentOfCore (k / 2 ^ 38) = a then st.map shareState else st) s.harn.l2 } }

/-- A cacheable read completes (R240 row RS): directory, owner and requester change together. -/
def fillShared (s : State) (a line : Nat) : State :=
  let h := homeOf (line * 64)
  let d := lineData s line
  match dirEnt s line with
  | none =>
    let s1 := makeRoom s line
    install (setDir s1 line (some { newDir s1.stamp with dstate := .x, owner := agentCode s.map h a })) a line .e d
  | some e =>
    let e1 := addSharer s.map h a { e with stamp := s.stamp }
    match e.dstate, ownerOf s line with
    | .x, some o =>
      let s1 := shareCopy s o line
      (match copyOf s o line with
       | some c =>
         if c.st = .m then install (setDir s1 line (some { e1 with dstate := .o })) a line .s d
         else install (setDir s1 line (some { addSharer s.map h o e1 with dstate := .s, owner := 127 })) a line .s d
       | none => install (setDir s1 line (some { e1 with dstate := .s, owner := 127 })) a line .s d)
    | _, _ => install (setDir s line (some e1)) a line .s d

/-- An engine's cluster may hold the line (R204): HBM of its own island, or any LPDDR line. -/
def clusterMayHold (s : State) (a line : Nat) : Bool :=
  let h := homeOf (line * 64)
  isLpHome h || islandStart s.map (h / 4) == islandStart s.map (dieOfCluster a)

/-- A cluster's read may allocate the line (R204, R211): NORMAL or STREAMING, no request before it at the home, and room. -/
def mayFill (s : State) (a line : Nat) : Bool :=
  decide (attrKind s.mem (line * 64) ≤ 1) && clusterMayHold s a line && !lineBusy s line && !putFlies s a line
  && ((dirEnt s line).isSome || hasRoom s line)

/-- The streams of LPDDR homes whose owner and range an access falls under count its bytes (R221). (log 47 DEDUCED) -/
def offCount (s : State) (ctx a n : Nat) : State :=
  let mine (e : Nat × Offload) : Bool :=
    bitAt e.2.ctl.toNat 63 && bits e.2.ctl.toNat 44 33 == ctx && e.1 / 32 == homeOf a
      && rangeCovers s.map (bits e.2.base.toNat 43 21 * mib2) (bits e.2.ctl.toNat 20 0 * mib2) a
  { s with offload := s.offload.map fun e => if mine e then (e.1, { e.2 with bytes := e.2.bytes + BitVec.ofNat 64 n }) else e }

/-- An engine read of one line (R211): of a PMA page in a NORMAL or STREAMING region from the cluster cache when it hits, and
allocating there; else uncached, from the home. -/
def engReadLine (s : State) (ge : Nat) (pma : Bool) (line : Nat) : List PByte × State :=
  let a := clusterOf ge
  let cacheable := pma && decide (attrKind s.mem (line * 64) ≤ 1)
  match (if cacheable then cached s a line else none) with
  | some c => (c.bytes, s)
  | none =>
    let s1 := offCount s (sget {} s.engines ge).seq.context (line * 64) 64
    (lineData s1 line, if cacheable && mayFill s1 a line then fillShared { s1 with stamp := s1.stamp + 1 } a line else s1)

/-- Bytes read at the home, uncached (R239 RNC). -/
def homeRead (s : State) (a n : Nat) : List PByte :=
  (List.range n).map fun i => ((lineData s ((a + i) / 64)).getD ((a + i) % 64) (0, false))

/-- Cuts a physical range at the 4 KiB granules of the alias views (R198 to R200; fuel: granules + 1): the canonical address and
length of each piece, or none where a byte is absent. -/
def physPieces (c : MapCfg) : Nat → Nat → Nat → Option (List (Nat × Nat))
  | 0, _, _ => some []
  | f + 1, pa, n =>
    if n = 0 then some [] else
    let m := min n (4096 - pa % 4096)
    match canon c pa, physPieces c f (pa + m) (n - m) with
    | some a, some l => some ((a, m) :: l)
    | _, _ => none

/-- The pieces of a physical range. -/
def physRange (c : MapCfg) (pa n : Nat) : Option (List (Nat × Nat)) := physPieces c (n / 4096 + 2) pa n

/-- Drains stale-line log entries (R216): the copies are dropped, an entry that no cache holds any more is freed, and the entries
are counted. -/
def drainStale (s : State) (l : List StaleEnt) : State :=
  let s1 := l.foldl (fun t e => tidyDir (e.agents.foldl (fun u a => dropCopy u a e.line) t) e.line) s
  { s1 with hcnt := { s1.hcnt with staleLogDrains := s1.hcnt.staleLogDrains + BitVec.ofNat 64 l.length } }

/-- The log of a full home gives up its oldest 1,024 entries (R216). -/
def drainOldest (s : State) (h : Nat) : State :=
  let l := sget [] s.harn.stale h
  if l.length < 4096 then s else
  let s1 := drainStale s (l.take 1024)
  { s1 with harn := { s1.harn with stale := sset [] s1.harn.stale h (l.drop 1024) } }

/-- Bytes from offset o of a line replaced. -/
def patchLine (l : List PByte) (o : Nat) (d : List PByte) : List PByte := l.take o ++ d ++ l.drop (o + d.length)

/-- A write that is performed while a transaction is open on its line takes effect in the data on its way to the requester, and in
the copy that the requester has already made dirty. -/
def patchTxns (s : State) (a : Nat) (d : List PByte) : State :=
  let put (x : State) (t : Txn) : State :=
    match cached x t.agent (a / 64) with
    | some c =>
      if t.line = a / 64 ∧ c.dirty = true then
        let b := patchLine c.bytes (a % 64) d
        setCached x t.agent (a / 64) (some { c with data := b.map Prod.fst, poison := b.any Prod.snd })
      else x
    | none => x
  let s1 := s.harn.txns.foldl put s
  { s1 with harn := { s1.harn with
      txns := s1.harn.txns.map fun t => if t.line = a / 64 then { t with buf := if t.buf.isEmpty then [] else patchLine t.buf (a % 64) d } else t } }

/-- Load reservations on a line end (R247). -/
def dropResv (s : State) (line : Nat) : State :=
  { s with harn := { s.harn with resv := s.harn.resv.filter fun e => e.2 ≠ line + 1 } }

/-- A write of a context reaches a home (R218). -/
def reach (s : State) (ctx h stamp : Nat) : State :=
  let put (v : Nat) : Nat := if v = 0 then stamp + 1 else min v (stamp + 1)
  { s with harn := { s.harn with reached := smod 0 s.harn.reached (ctx * 64 + h) put } }

/-- The homes that writes of a context before a stamp have reached. -/
def reachedHomes (s : State) (ctx stamp : Nat) : List Nat :=
  (List.range 34).filter fun h => let v := sget 0 s.harn.reached (ctx * 64 + h); v != 0 && decide (v ≤ stamp)

/-- A non-allocating write of bytes of one line (R215, R216, R240 row WNC), complete at its home: the owner is recalled, memory
written, and the copies invalidated by messages or, for a deferring writer on a STREAMING region, logged.
 (log 29 DESIGN CHOICE) -/
def wncNow (s : State) (ctx stamp : Nat) (defer : Bool) (a : Nat) (d : List PByte) : State :=
  let line := a / 64
  let h := homeOf a
  let s1 := recallOwner (offCount (reach s ctx h stamp) ctx a d.length) line
  let s2 := patchTxns (dropResv { s1 with mem := memWrite s1.mem a d } line) a d
  let hs := sharers s2 line
  if defer && attrKind s.mem a == 1 then
    if hs.isEmpty then s2 else
    let s3 := drainOldest s2 h
    let ent : StaleEnt := { line := line, agents := hs, ctx := ctx, stamp := stamp }
    { s3 with harn := { s3.harn with stale := smod [] s3.harn.stale h (· ++ [ent]) } }
  else
    let s3 := if lineOpen s2 line then s2 else setDir s2 line none
    let invs : List PendInv := hs.map fun x =>
      { line := line, agent := x, ctx := ctx, stamp := stamp, hit := (cached s2 x line).isNone }
    { s3 with harn := { s3.harn with pendInv := s3.harn.pendInv ++ invs } }

/-- The context number under which writers that are no context send: its writes are waited on by no context's fence. -/
def noCtx : Nat := 4096

/-- A request of an engine's write waits at its home (R243): refused with a credit at an HBM home of a small island, else held.
 (log 29 DESIGN CHOICE) -/
def holdWrite (s : State) (ctx stamp a : Nat) (d : List PByte) : State :=
  let h := homeOf a
  let q : Held := { home := h, num := s.harn.nextId, agent := 128, line := a / 64, req := .wnc, data := .eng ctx stamp a d }
  let s1 := { s with harn := { s.harn with nextId := s.harn.nextId + 1, holds := s.harn.holds ++ [q] } }
  { s1 with hcnt :=
      if creditMode s.map h then { s1.hcnt with dirRetries := s1.hcnt.dirRetries + 1 }
      else { s1.hcnt with dirHolds := s1.hcnt.dirHolds + 1 } }

/-- A write of one line: an engine's write that meets a busy line, or one that a deferral after an LR keeps, waits (R243, R247); every
other is performed. (log 29 DESIGN CHOICE) -/
def wncLine (s : State) (ctx stamp : Nat) (defer : Bool) (a : Nat) (d : List PByte) : State :=
  if defer && ctx != noCtx && (lineBusy s (a / 64) || lrKeeps s (a / 64)) then holdWrite s ctx stamp a d
  else wncNow s ctx stamp defer a d

/-- Writes bytes at a canonical address, line by line. (log 29 DESIGN CHOICE) -/
def homeWrite (s : State) (ctx stamp : Nat) (defer : Bool) (a : Nat) (d : List PByte) : State :=
  (byGranule 64 d.length a d).foldl (fun t e => wncLine t ctx stamp defer e.1 e.2) s

/-- An agent takes a line in M (R240, row RU): every other copy goes, dirty data with the transfer. -/
def ownLine (s : State) (a line : Nat) : State :=
  let d := lineData s line
  let s1 := if (dirEnt s line).isNone then makeRoom s line else s
  let others := (match ownerOf s1 line with | some o => [o] | none => []) ++ holdersOf s1 line
  let s2 := others.foldl (fun t x => dropCopy t x line) s1
  let s3 := setDir s2 line (some { newDir s2.stamp with dstate := .x, owner := agentCode s.map (homeOf (line * 64)) a })
  install s3 a line .m d

/-- Bytes of a line that an agent holds in M replaced. -/
def patchOwned (s : State) (a pa : Nat) (d : List Byte) : State :=
  match cached s a (pa / 64) with
  | some c => setCached s a (pa / 64) (some { c with data := c.data.take (pa % 64) ++ d ++ c.data.drop (pa % 64 + d.length) })
  | none => s

/-- The writes of a writer become globally visible at once (R216, R218): those that wait are performed, the logs of the homes
they reached are drained, and every cache that the writer's invalidations are bound for has dropped its copy. -/
def settleWrites (s : State) (ctx : Nat) : State :=
  let own (q : Held) : Bool := match q.data with | .eng c _ _ _ => c == ctx | _ => false
  let s0 := { s with harn := { s.harn with holds := s.harn.holds.filter fun q => !own q } }
  let s1 := (s.harn.holds.filter own).foldl (fun t q => match q.data with
    | .eng c st a d => wncNow t c st true a d
    | _ => t) s0
  let hs := reachedHomes s1 ctx s1.stamp
  let at_ (e : Nat × List StaleEnt) : Bool := hs.contains e.1
  let s2 := (s1.harn.stale.filter at_).foldl (fun t h => drainStale t h.2) s1
  let s3 := (s2.harn.pendInv.filter fun p => p.ctx == ctx).foldl (fun t p => dropCopy t p.agent p.line) s2
  { s3 with harn := { s3.harn with
      stale := s3.harn.stale.filter fun e => !at_ e, pendInv := s3.harn.pendInv.filter fun p => p.ctx != ctx } }

end Sys2Proof.Machine
end

