-- ==== Sys2Proof/Machine/Xlate.lean ====
section
/-! DEFINITION. Address translation (R206 to R209). The tables have the layout of the RISC-V IOMMU and privileged
specifications that R206 names (assumption log). -/

namespace Sys2Proof.Machine

/-- Access kinds (R207). -/
inductive AccKind where
  | fetch | read | write
  deriving DecidableEq, Repr

/-- What a stage of a walk gives: the physical address, the leaf PTE with its address and the bytes it spans, the PTEs whose A
or D bit the access sets, and the physical addresses that the walk read. -/
structure Stage where
  pa : Nat
  span : Nat := 4096
  pte : Nat := 0
  pteAddr : Nat := 0
  ups : List (Nat × Nat) := []
  reads : List Nat := []
  deriving DecidableEq, Repr

/-- A stage after an earlier one: what that one read and updates comes first. -/
def Stage.after (g x : Stage) : Stage := { x with ups := g.ups ++ x.ups, reads := g.reads ++ x.reads }

/-- Why a walk fails: a page fault, an access fault, a page fault of the second stage, or a cause of its own number. -/
inductive WalkFail where
  | page | access | guest | cause (n : Nat)
  deriving DecidableEq, Repr

/-- Eight bytes of memory read by the walker at a physical address; none when absent or poisoned (R203, R225). -/
def walkRead (s : State) (pa : Nat) : Option Nat :=
  match canon s.map pa with
  | none => none
  | some a =>
    let d := homeRead s a 8
    if d.any Prod.snd then none else some (leNat (d.map Prod.fst))

/-- A word of a table at a guest-physical address, read through the second stage. -/
def tableRead (s : State) (conv : Nat → Except WalkFail Stage) (a : Nat) : Except WalkFail (Nat × Stage) :=
  match conv a with
  | .error c => .error c
  | .ok g =>
    match walkRead s g.pa with
    | none => .error .access
    | some v => .ok (v, { g with reads := g.reads ++ [g.pa] })

/-- One stage of a walk from level lvl - 1 down; conv gives the physical address of a table address. (log 43 PRESUMED) -/
def walkFrom (s : State) (conv : Nat → Except WalkFail Stage) : Nat → Bool → Nat → Nat → Except WalkFail Stage
  | 0, _, _, _ => .error .page
  | lvl + 1, top, root, va =>
    let sh := 12 + 9 * lvl
    let idx := if top then bits va (sh + 10) sh else bits va (sh + 8) sh
    match tableRead s conv (root + idx * 8) with
    | .error c => .error c
    | .ok (pte, g) =>
      let leaf (pa span : Nat) : Except WalkFail Stage := .ok (g.after { pa := pa, span := span, pte := pte, pteAddr := g.pa })
      let r := bitAt pte 1
      let w := bitAt pte 2
      let x := bitAt pte 3
      let ppn := bits pte 53 10
      if !bitAt pte 0 || (w && !r) || bits pte 60 54 ≠ 0 || bits pte 62 61 = 3 then .error .page
      else if r || x then
        if bitAt pte 63 then
          if lvl = 0 ∧ ppn % 16 = 8 then leaf (ppn / 16 * 65536 + va % 65536) 65536 else .error .page
        else if ppn % 2 ^ (9 * lvl) ≠ 0 then .error .page
        else leaf (ppn * 4096 + va % 2 ^ sh) (2 ^ sh)
      else if bitAt pte 63 || bits pte 62 61 ≠ 0 || bitAt pte 4 || bitAt pte 6 || bitAt pte 7 then .error .page
      else (walkFrom s conv lvl false (ppn * 4096) va).map g.after

/-- Levels of a first-stage mode: Sv39, Sv48, Sv57. -/
def stageLevels (mode : Nat) : Nat := if mode = 8 then 3 else if mode = 9 then 4 else if mode = 10 then 5 else 0

/-- The modes an instance implements (R206): Sv39 and a Bare first stage are the PCIe IOMMUs' alone. -/
def modeOk (inst mode : Nat) (first : Bool) : Bool :=
  mode == 9 || mode == 10 || (mode == 8 && inst != 0) || (mode == 0 && (inst != 0 || !first))

/-- The leaf permits an access in user mode, and the bits A and D it must still set (R207). -/
def leafAllows (pte : Nat) (k : AccKind) : Bool :=
  bitAt pte 4 && match k with
    | .fetch => bitAt pte 1 && bitAt pte 3
    | .read => bitAt pte 1
    | .write => bitAt pte 2

/-- A and D as an access leaves them. -/
def withAD (pte : Nat) (k : AccKind) : Nat :=
  let p := setBit pte 6
  if k = .write then setBit p 7 else p

/-- The checks of a leaf: permission, and A and D, which are set where the update is enabled (R207). -/
def leafDone (upd : Bool) (k : AccKind) (bad : WalkFail) (l : Stage) : Except WalkFail Stage :=
  let p := withAD l.pte k
  if !leafAllows l.pte k then .error bad
  else if p = l.pte then .ok l
  else if upd then .ok { l with ups := l.ups ++ [(l.pteAddr, p)] } else .error bad

/-- The second stage of a device context (R206): a guest-physical address to a physical one. -/
def gStage (s : State) (dc : List W64) (k : AccKind) (gpa : Nat) : Except WalkFail Stage :=
  let w (i : Nat) : Nat := (dc.getD i 0).toNat
  let mode := bits (w 1) 63 60
  if mode = 0 then .ok { pa := gpa } else
  if gpa ≥ 2 ^ (12 + 9 * stageLevels mode + 2) then .error .guest else
  match walkFrom s (fun a => .ok { pa := a }) (stageLevels mode) true (bits (w 1) 43 0 * 4096) gpa with
  | .error c => .error (if c = .page then .guest else c)
  | .ok l => leafDone (bitAt (w 0) 7) k .guest l

/-- The first-stage word of a request: the device context's, or that of a process through the process directory PD8 or PD17
(R206); a request with no process of a device whose directory gives none a default runs with a Bare first stage.
 (log 43 PRESUMED) -/
def procStage (s : State) (dc : List W64) (pid : Option Nat) : Except WalkFail (Nat × Stage) :=
  let w (i : Nat) : Nat := (dc.getD i 0).toNat
  let rd (a : Nat) : Except WalkFail (Nat × Stage) := tableRead s (gStage s dc .read) a
  if !bitAt (w 0) 5 then .ok (w 3, { pa := 0 }) else
  match (match pid with | some p => some p | none => if bitAt (w 0) 9 then some 0 else none) with
  | none => .ok (0, { pa := 0 })
  | some p =>
    let mode := bits (w 3) 63 60
    let root := bits (w 3) 43 0 * 4096
    let dir : Except WalkFail (Nat × Stage) :=
      if mode = 1 then (if 256 ≤ p then .error (.cause 260) else .ok (root, { pa := 0 }))
      else if mode = 2 then
        if 2 ^ 17 ≤ p then .error (.cause 260) else
        match rd (root + p / 256 * 8) with
        | .error _ => .error (.cause 265)
        | .ok (v, g) => if bitAt v 0 then .ok (bits v 53 10 * 4096, g) else .error (.cause 266)
      else .error (.cause 259)
    match dir with
    | .error c => .error c
    | .ok (page, g) =>
      match rd (page + p % 256 * 16), rd (page + p % 256 * 16 + 8) with
      | .ok (ta, g1), .ok (fsc, g2) => if bitAt ta 0 then .ok (fsc, (g.after g1).after g2) else .error (.cause 266)
      | _, _ => .error (.cause 265)

/-- The interrupt file that a device's write goes to through a flat MSI page table, where the address matches (R206); none
where it is no MSI. (log 43 PRESUMED) -/
def msiStage (s : State) (dc : List W64) (k : AccKind) (gpa : Nat) : Option (Except WalkFail Stage) :=
  let w (i : Nat) : Nat := (dc.getD i 0).toNat
  let mask := w 5 % 2 ^ 52
  let n := gpa / 4096
  let idx := ((List.range 52).filter (bitAt mask)).zipIdx.foldl (fun x b => if bitAt n b.1 then x + 2 ^ b.2 else x) 0
  if bits (w 4) 63 60 ≠ 1 ∨ k ≠ .write ∨ (n ||| mask) ≠ (w 6 % 2 ^ 52 ||| mask) then none else
  some (match walkRead s (bits (w 4) 43 0 * 4096 + idx * 16) with
    | none => .error (.cause 261)
    | some v =>
      if !bitAt v 0 then .error (.cause 262) else if bits v 2 1 ≠ 3 then .error (.cause 263)
      else .ok { pa := bits v 53 10 * 4096 + gpa % 4096 })

/-- The translation of an address under device-context words: its PBMT and permissions ride in pte (R207). The span is that
of the first-stage leaf. (log 43 PRESUMED) -/
def walkDc (s : State) (inst : Nat) (dc : List W64) (pid : Option Nat) (va : Nat) (k : AccKind) : Except WalkFail Stage :=
  let w (i : Nat) : Nat := (dc.getD i 0).toNat
  if !bitAt (w 0) 0 then .error (.cause 258) else
  if !modeOk inst (bits (w 1) 63 60) false || (inst == 0 && bitAt (w 0) 5) then .error (.cause 259) else
  match procStage s dc pid with
  | .error c => .error c
  | .ok (fsc, p) =>
    let mode := bits fsc 63 60
    let second (l : Stage) (perms : Nat) : Except WalkFail Stage :=
      match (if inst = 0 then none else msiStage s dc k l.pa) with
      | some x => x.map fun g => { l.after g with span := l.span, pte := perms }
      | none => (gStage s dc k l.pa).map fun g => { l.after g with span := l.span, pte := perms }
    if !modeOk inst mode true then .error (.cause 259)
    else if mode = 0 then second { p with pa := va } 30
    else if va ≥ 2 ^ (11 + 9 * stageLevels mode) then .error .page else
    match walkFrom s (gStage s dc .read) (stageLevels mode) false (bits fsc 43 0 * 4096) va with
    | .error c => .error c
    | .ok l =>
      match leafDone (bitAt (w 0) 8) k .page (p.after l) with
      | .error c => .error c
      | .ok x => second x (bits l.pte 4 1 * 2 + bits l.pte 62 61 * 2 ^ 61)

/-- A register word of a translation agent. -/
def transReg (s : State) (inst o : Nat) : Nat := (sget 0 s.trans.regs (inst * 4096 + o)).toNat

/-- Sets a register word of a translation agent. -/
def setTransReg (s : State) (inst o v : Nat) : State :=
  { s with trans := { s.trans with regs := sset 0 s.trans.regs (inst * 4096 + o) (BitVec.ofNat 64 v) } }

/-- The device directory's entry for a device, 64 bytes in extended format, or its cause: one level of 4,096 entries at the
engine agent, two or three levels of 9, 9 and 6 bits at a PCIe IOMMU (R206). (log 43 PRESUMED) -/
def readDc (s : State) (inst dev : Nat) : Except WalkFail (List W64) :=
  let ddtp := transReg s inst 0x10
  let down (page idx : Nat) : Except WalkFail Nat :=
    match walkRead s (page + idx * 8) with
    | none => .error (.cause 257)
    | some v => if bitAt v 0 then .ok (bits v 53 10 * 4096) else .error (.cause 258)
  let root := bits ddtp 53 10 * 4096
  let page : Except WalkFail Nat :=
    if inst = 0 then (if ddtp % 16 = 2 ∧ dev < 4096 then .ok (root + dev / 64 * 4096) else .error (.cause 256))
    else if ddtp % 16 = 3 then (if dev < 2 ^ 15 then down root (bits dev 14 6) else .error (.cause 260))
    else if ddtp % 16 = 4 then
      (match down root (bits dev 23 15) with | .ok p => down p (bits dev 14 6) | .error c => .error c)
    else .error (.cause 256)
  match page with
  | .error c => .error c
  | .ok p =>
    match (List.range 8).mapM fun i => (walkRead s (p + dev % 64 * 64 + 8 * i)).map (BitVec.ofNat 64) with
    | some l => .ok l
    | none => .error (.cause 257)

/-- The device context used for a device: the cached one, or the one in memory; while they differ, either may be used (R208).
 (log 43 PRESUMED) -/
def useDc (s : State) (inst dev : Nat) : Except WalkFail (List W64) × State :=
  let m := readDc s inst dev
  match s.trans.dcs.find? fun d => d.1 == inst && d.2.1 == dev with
  | some d =>
    if (match m with | .ok w => w == d.2.2 | .error _ => false) then (m, s)
    else if Config.freeBool s.free then (.ok d.2.2, { s with free := s.free + 1 }) else (m, { s with free := s.free + 1 })
  | none =>
    match m with
    | .ok w => (m, { s with trans := { s.trans with dcs := s.trans.dcs ++ [(inst, dev, w)] } })
    | .error _ => (m, s)

/-- The outcome of a translation. -/
inductive XRes where
  | ok (pa pbmt : Nat)
  | fault
  deriving DecidableEq, Repr

/-- The key of a process in the translation cache. -/
def pidKey (pid : Option Nat) : Nat := match pid with | some p => p + 1 | none => 0

/-- A cached translation of a page. -/
def tlbFind (s : State) (inst dev pid vpn : Nat) : Option TlbEnt :=
  s.trans.tlb.find? fun e => e.inst == inst && e.dev == dev && e.pid == pid && e.vpn == vpn

/-- A page-walk read of a cluster's walker allocates in the cluster cache (R231). -/
def walkFill (s : State) (w : Option Nat) (pa : Nat) : State :=
  match w, canon s.map pa with
  | some c, some a => if (cached s c (a / 64)).isNone && mayFill s c (a / 64) then fillShared s c (a / 64) else s
  | _, _ => s

/-- The walker sets A or D in a PTE (R207, R232, R247): an atomic in its cluster cache, which makes the line M; at the home where
the cluster may not hold the line, or for a walk that no cluster makes. -/
def walkSet (s : State) (w : Option Nat) (pa v : Nat) : State :=
  match canon s.map pa with
  | none => s
  | some a =>
    match w with
    | some c =>
      if mayFill s c (a / 64) && !lrKeeps s (a / 64) then patchOwned (ownLine s c (a / 64)) c a (leBytes 8 v)
      else homeWrite s noCtx 0 false a ((leBytes 8 v).map (·, false))
    | none => homeWrite s noCtx 0 false a ((leBytes 8 v).map (·, false))

/-- What a completed walk does to memory and caches. -/
def walkEffects (s : State) (w : Option Nat) (x : Stage) : State :=
  x.ups.foldl (fun t e => walkSet t w e.1 e.2) (x.reads.foldl (fun t a => walkFill t w a) s)

/-- The cause of a fault record (R206: the RISC-V IOMMU specification's numbers). (log 43 PRESUMED) -/
def failCause (k : AccKind) : WalkFail → Nat
  | .page => match k with | .fetch => 12 | .read => 13 | .write => 15
  | .access => match k with | .fetch => 1 | .read => 5 | .write => 7
  | .guest => match k with | .fetch => 20 | .read => 21 | .write => 23
  | .cause n => n

/-- A fault is recorded in the agent's fault queue while that is on (R206): 32 bytes at the tail, or the overflow bit of fqcsr
when it is full, and the pending bit where its interrupt is enabled. (log 43 PRESUMED) -/
def queueFault (s : State) (inst dev : Nat) (pid : Option Nat) (va : Nat) (k : AccKind) (f : WalkFail) : State :=
  let csr := transReg s inst 0x48 / 2 ^ 32
  if !bitAt csr 16 || bitAt csr 9 then s else
  let q := transReg s inst 0x28
  let n := 2 ^ (q % 32 + 1)
  let h := transReg s inst 0x30 % 2 ^ 32
  let t := transReg s inst 0x30 / 2 ^ 32
  let s1 :=
    if (t + 1) % n = h then setTransReg s inst 0x48 (transReg s inst 0x48 + 2 ^ 41)
    else
      let ttyp := match k with | .fetch => 1 | .read => 2 | .write => 3
      let w0 := failCause k f + (pid.getD 0) * 2 ^ 12 + (if pid.isSome then 2 ^ 32 else 0) + ttyp * 2 ^ 34 + dev * 2 ^ 40
      let rec8 := leBytes 8 w0 ++ leBytes 8 0 ++ leBytes 8 va ++ leBytes 8 0
      let s0 := match canon s.map (bits q 53 10 * 4096 + t * 32) with
        | some a => homeWrite s noCtx 0 false a (rec8.map (·, false))
        | none => s
      setTransReg s0 inst 0x30 (h + (t + 1) % n * 2 ^ 32)
  if bitAt csr 1 then setTransReg s1 inst 0x50 (transReg s1 inst 0x50 ||| 2 ^ 33) else s1

/-- Translates an address of a device (R206 to R208), for the walker of a cluster where one makes the access. While a cached
translation differs from the tables, either may be used; which one is free. (log 43 PRESUMED) -/
def xlate (s : State) (w : Option Nat) (inst dev : Nat) (pid : Option Nat) (va : Nat) (k : AccKind) : XRes × State :=
  let u := useDc s inst dev
  let s := u.2
  let fresh : Except WalkFail Stage := match u.1 with
    | .ok dc => walkDc s inst dc pid va k
    | .error c => .error c
  let done (t : State) : XRes × State := match fresh with
    | .ok x =>
      let t1 := walkEffects t w x
      (.ok x.pa (bits x.pte 62 61), { t1 with trans := { t1.trans with tlb :=
        (t1.trans.tlb.filter fun e => !(e.inst == inst && e.dev == dev && e.pid == pidKey pid && e.vpn == va / 4096 && !e.invalidated))
          ++ [{ inst := inst, dev := dev, pid := pidKey pid, vpn := va / 4096, span := x.span, ppn := x.pa / 4096,
                perms := x.pte % 32, pbmt := bits x.pte 62 61, gstage := false, invalidated := false }] } })
    | .error c => (.fault, queueFault t inst dev pid va k c)
  match tlbFind s inst dev (pidKey pid) (va / 4096) with
  | some e =>
    match fresh with
    | .ok x =>
      if (x.pa / 4096, bits x.pte 62 61) = (e.ppn, e.pbmt) then
        (if x.ups.isEmpty then (.ok x.pa e.pbmt, s) else done s)
      else if Config.freeBool s.free then
        (if leafAllows e.perms k then (.ok (e.ppn * 4096 + va % 4096) e.pbmt, { s with free := s.free + 1 })
         else (.fault, { s with free := s.free + 1 }))
      else done { s with free := s.free + 1 }
    | .error _ =>
      if Config.freeBool s.free && leafAllows e.perms k then
        (.ok (e.ppn * 4096 + va % 4096) e.pbmt, { s with free := s.free + 1 })
      else done { s with free := s.free + 1 }
  | none => done s

end Sys2Proof.Machine
end

