-- ==== Sys2Proof/Machine/Ops.lean ====
section
/-! DEFINITION. The named operations over an engine's registers, scratchpad and queues, its accesses to memory, and the one
operation by which a refusal or fault stops a stream (R159 to R172, R182, R206 to R211). -/

namespace Sys2Proof.Machine

/-- An engine. -/
def eng (s : State) (ge : Nat) : Engine := sget {} s.engines ge

/-- Replaces an engine. -/
def setEng (s : State) (ge : Nat) (e : Engine) : State := { s with engines := sset {} s.engines ge e }

/-- Changes an engine. -/
def modEng (s : State) (ge : Nat) (f : Engine → Engine) : State := setEng s ge (f (eng s ge))

/-- A scalar register; s0 reads 0 (R159). -/
def rdS (e : Engine) (n : Nat) : W64 := if n = 0 then 0 else sget 0 e.regs n

/-- Writes a scalar register; writes to s0 are ignored (R159). -/
def wrS (e : Engine) (n : Nat) (v : W64) : Engine := if n = 0 then e else { e with regs := sset 0 e.regs n v }

/-- The eight words of a descriptor register. -/
def rdD (e : Engine) (n : Nat) : List W64 := sgetRun 0 e.desc (8 * n) 8

/-- Writes one word of a descriptor register. -/
def wrDw (e : Engine) (n w : Nat) (v : W64) : Engine := { e with desc := sset 0 e.desc (8 * n + w) v }

/-- Writes all eight words of a descriptor register. -/
def wrD (e : Engine) (n : Nat) (ws : List W64) : Engine := { e with desc := ssetRun 0 e.desc (8 * n) ws }

/-- One array of an engine. -/
def arrOf (e : Engine) (a : Nat) : Arr := sget {} e.arrays a

/-- Replaces one array. -/
def setArr (e : Engine) (a : Nat) (x : Arr) : Engine := { e with arrays := sset {} e.arrays a x }

/-- The accumulator side of one array. -/
def accOf (e : Engine) (a : Nat) : Acc := sget {} e.accs a

/-- Replaces the accumulator side of one array. -/
def setAcc (e : Engine) (a : Nat) (x : Acc) : Engine := { e with accs := sset {} e.accs a x }

/-- The tile table entry of a base slot. -/
def tileOf (x : Acc) (t : Nat) : Tile := sget {} x.tiles t

/-- Replaces a tile table entry. -/
def setTile (x : Acc) (t : Nat) (v : Tile) : Acc := { x with tiles := sset {} x.tiles t v }

/-- A run of n bytes at a context address lies in the binding (R165): within one quarter's valid extent, or across quarters
when the binding covers whole quarters. (log 21 DEDUCED) -/
def spadOk (e : Engine) (a n : Nat) : Bool :=
  decide (a + n ≤ 2 ^ 22) &&
  (decide (a % 2 ^ 20 + n ≤ e.seq.qlen * 65536) || (e.seq.qlen == 16 && decide (a + n ≤ 2 ^ 22)))

/-- The physical scratchpad address of a valid context address (R165). -/
def spadPhys (e : Engine) (a : Nat) : Nat := a / 2 ^ 20 % 4 * 2 ^ 20 + e.seq.qbase * 65536 + a % 2 ^ 20

/-- One physical scratchpad byte: what was written, else +0, else free after a yield point left it unlisted (R188). -/
def spadByte (e : Engine) (p : Nat) : Byte :=
  match sget none e.spad p with
  | some b => b
  | none => if sget 0 e.spadSeed (p / 65536) = 0 then 0 else Config.freeByte (sget 0 e.spadSeed (p / 65536) * 2 ^ 22 + p)

/-- Bytes of the scratchpad with their poison marks. -/
def spadRead (e : Engine) (a n : Nat) : List PByte :=
  (List.range n).map fun i =>
    let p := spadPhys e (a + i)
    (spadByte e p, sget false e.spadPoison (p / 64))

/-- A number of n little-endian bytes in the scratchpad. -/
def spadNat (e : Engine) (a n : Nat) : Nat := leNat ((spadRead e a n).map Prod.fst)

/-- The eight words of a descriptor image in the scratchpad. -/
def spadWords (e : Engine) (a n : Nat) : List W64 :=
  (List.range n).map fun i => BitVec.ofNat 64 (spadNat e (a + 8 * i) 8)

/-- Writes bytes of one 64-byte granule (R226): a poisoned byte marks it, a whole clean granule clears it. -/
def spadPut (e : Engine) (a : Nat) (d : List PByte) : Engine :=
  let p := spadPhys e a
  let e1 := { e with spad := ssetRun none e.spad p (d.map fun x => some x.1) }
  if d.any Prod.snd then { e1 with spadPoison := sset false e1.spadPoison (p / 64) true }
  else if d.length = 64 then { e1 with spadPoison := sset false e1.spadPoison (p / 64) false }
  else e1

/-- Writes bytes to the scratchpad. -/
def spadWrite (e : Engine) (a : Nat) (d : List PByte) : Engine :=
  (byGranule 64 d.length a d).foldl (fun t x => spadPut t x.1 x.2) e

/-- Sequencer codes (R181). -/
def cILLEGAL : Nat := 0x20
def cSPAD : Nat := 0x21
def cALIGN : Nat := 0x22
def cDESC : Nat := 0x23
def cRUNREC : Nat := 0x24
def cOPENCHAIN : Nat := 0x25
def cNOCHAIN : Nat := 0x26
def cFMTLOAD : Nat := 0x27
def cTRANS : Nat := 0x28
def cACCESS : Nat := 0x29
def cCOMBINE : Nat := 0x2A
def cFETCH : Nat := 0x2B
def cYIELDOPEN : Nat := 0x2C
def cLIVE : Nat := 0x2D
def cSOFT : Nat := 0x2E
def cUNREC : Nat := 0x2F

/-- Marks a context FAULTED (R182 step 3). -/
def faultCtx (s : State) (c : Nat) : State :=
  { s with ctxs := smod {} s.ctxs c (fun x => { x with faulted := true }) }

/-- A refusal or context fault stops the stream (R182): the first code, source, array and addresses are kept and later ones
counted; issue stops; PC stays at the instruction; the context becomes FAULTED. -/
def raise (s : State) (ge source arr code : Nat) (pc addr : W64) : State :=
  let e := eng s ge
  if e.seq.state = .faulted then
    setEng s ge { e with seq := { e.seq with moreFaults := satInc 65535 e.seq.moreFaults } }
  else
    let q : Seq := { e.seq with
      state := .faulted, wait := .none, faultCode := code, faultSource := source, faultArray := arr,
      faultPc := pc, faultAddr := addr, pc := pc }
    faultCtx (setEng s ge { e with seq := q }) e.seq.context

/-- A sequencer refusal or fault (SOURCE 0). -/
def raiseSeq (s : State) (ge code : Nat) (t : Tag) (addr : Nat) : State :=
  raise s ge 0 0 code t.pc (BitVec.ofNat 64 addr)

/-- A range entry (R331) covers a canonical address, whatever view it names (R199, R332). -/
def entryCovers (c : MapCfg) (w0 w1 : W64) (a : Nat) : Bool :=
  rangeCovers c (bits w0.toNat 43 21 * mib2) (bits w1.toNat 22 0 * mib2) a

/-- The key of an object. -/
def okey (ix sub : Nat) : Nat := ix * 256 + sub

/-- save_reserve of a compute die, in bytes of each of its stacks (R333, R350). -/
def saveReserve (s : State) (d : Nat) : Nat :=
  match sget none s.dict.val (okey 0x5102 (d + 1)) with
  | some v => leNat v
  | none => 2147483648

/-- A canonical address lies in a save reserve (R333). -/
def inReserve (s : State) (a : Nat) : Bool :=
  decide (a < hbmEnd) && decide (stackBytes - a % stackBytes ≤ saveReserve s (a / stackBytes / 4))

/-- Some valid range entry of the paddock grants the access (R209); no context can address a save reserve (R333). -/
def padGrants (s : State) (p a : Nat) (wr : Bool) : Bool :=
  !inReserve s a && (List.range 64).any fun i =>
    let w0 := sget 0 s.padRanges (p * 128 + 2 * i)
    bitAt w0.toNat 0 && (!wr || bitAt w0.toNat 1) && entryCovers s.map w0 (sget 0 s.padRanges (p * 128 + 2 * i + 1)) a

/-- A context's record. -/
def ctxOf (s : State) (c : Nat) : Ctx := sget {} s.ctxs c

/-- The checks of one translated page piece (R203, R209, R211): the canonical address, or ACCESS. A write meets ACCESS in a
COMBINE region unless it is a combine operation. -/
def pieceCheck (s : State) (ctx pa : Nat) (k : AccKind) (cmb : Bool) : Option Nat :=
  match canon s.map pa with
  | none => none
  | some a =>
    if !padGrants s (ctxOf s ctx).paddock a (k == .write) then none
    else if k = .write ∧ !cmb ∧ attrKind s.mem a = 2 then none
    else some a

/-- One piece of a virtual range after translation: canonical address, length, PMA, and whether its page is named through an
interleaved alias (R198, R200). -/
structure Piece where
  a : Nat
  n : Nat
  pma : Bool
  alias_ : Bool := false
  deriving DecidableEq, Repr

/-- Translates a virtual range page by page (fuel: pages + 1), for the walker of a cluster where one makes the access: the
pieces, or a code and failing address (R168, R203, R207, R209). -/
def vRange (s : State) (w : Option Nat) (ctx : Nat) (k : AccKind) (cmb : Bool) : Nat → Nat → Nat → Except (Nat × Nat) (List Piece) × State
  | 0, _, _ => (.ok [], s)
  | f + 1, va, n =>
    if n = 0 then (.ok [], s) else
    let m := min n (4096 - va % 4096)
    let x := xlate s w 0 ctx none va k
    match x.1 with
    | .fault => (.error (cTRANS, va), x.2)
    | .ok pa pb =>
      match pieceCheck x.2 ctx pa k cmb with
      | none => (.error (cACCESS, va), x.2)
      | some a =>
        match vRange x.2 w ctx k cmb f (va + m) (n - m) with
        | (.ok l, t) => (.ok ({ a := a, n := m, pma := pb == 0, alias_ := pa != a } :: l), t)
        | (.error c, t) => (.error c, t)

/-- The walker of an engine's accesses: that of its cluster (R233). -/
def walker (ge : Nat) : Option Nat := some (clusterOf ge)

/-- The pieces of a virtual range. -/
def vPieces (s : State) (w : Option Nat) (ctx : Nat) (k : AccKind) (va n : Nat) : Except (Nat × Nat) (List Piece) × State :=
  vRange s w ctx k false (n / 4096 + 2) va n

/-- The pieces of a virtual range of combine contributions, or of a region's own areas (R209, R210). -/
def cPieces (s : State) (w : Option Nat) (ctx va n : Nat) : Except (Nat × Nat) (List Piece) × State :=
  vRange s w ctx .write true (n / 4096 + 2) va n

/-- Reads the lines of a piece through the cluster cache (R204, R211). -/
def engReadPiece (s : State) (ge : Nat) (p : Piece) : List PByte × State :=
  let lines := (List.range ((p.a + p.n + 63) / 64 - p.a / 64)).map (p.a / 64 + ·)
  let r := lines.foldl (fun (x : List PByte × State) l => let y := engReadLine x.2 ge p.pma l; (x.1 ++ y.1, y.2)) ([], s)
  ((r.1.drop (p.a % 64)).take p.n, r.2)

/-- Reads translated pieces. -/
def readPieces (s : State) (ge : Nat) (l : List Piece) : List PByte × State :=
  l.foldl (fun x p => let y := engReadPiece x.2 ge p; (x.1 ++ y.1, y.2)) ([], s)

/-- Writes translated pieces at their homes, as an engine write (R215, R216). -/
def writePieces (s : State) (ctx stamp : Nat) : List Piece → List PByte → State
  | [], _ => s
  | p :: r, d => writePieces (homeWrite s ctx stamp true p.a (d.take p.n)) ctx stamp r (d.drop p.n)

/-- Reads n bytes at a virtual address of the engine's context. -/
def vRead (s : State) (ge va n : Nat) : Except (Nat × Nat) (List PByte) × State :=
  match vPieces s (walker ge) (eng s ge).seq.context .read va n with
  | (.ok l, t) => let r := readPieces t ge l; (.ok r.1, r.2)
  | (.error c, t) => (.error c, t)

/-- Writes bytes at a virtual address of the engine's context. -/
def vWrite (s : State) (ge stamp va : Nat) (d : List PByte) : Except (Nat × Nat) Unit × State :=
  match vPieces s (walker ge) (eng s ge).seq.context .write va d.length with
  | (.ok l, t) => (.ok (), writePieces t (eng s ge).seq.context stamp l d)
  | (.error c, t) => (.error c, t)

/-- Writes bytes at a virtual address of a context under the FENCE.FLAG rule of R218: after every earlier write of the writer
given is globally visible. False where translation or access fails. -/
def flagWrite (s : State) (writer ctx va : Nat) (d : List PByte) : Bool × State :=
  match vPieces s none ctx .write va d.length with
  | (.ok l, t) =>
    (true, (l.foldl (fun (x : State × List PByte) p =>
      (homeWrite x.1 writer t.stamp false p.a (x.2.take p.n), x.2.drop p.n)) (settleWrites t writer, d)).1)
  | (.error _, t) => (false, t)

/-- The instruction at PC can be fetched (R164, R173): inside the stream, and its address translates with execute permission;
else the code. (log 15 DESIGN CHOICE) -/
def fetchFault (s : State) (ge : Nat) : Option Nat × State :=
  let q := (eng s ge).seq
  let off := (q.pc - q.streamBase).toNat
  if off % 8 ≠ 0 ∨ q.instrCount * 8 ≤ off then (some cFETCH, s)
  else
    match vPieces s (walker ge) q.context .fetch q.pc.toNat 8 with
    | (.ok _, t) => (none, t)
    | (.error c, t) => (some c.1, t)

/-- The sequencer can issue: its stream runs and no SYN instruction or yield point holds it (R160, R180, R188). -/
def canIssue (e : Engine) : Bool := e.seq.state == .running && e.seq.wait == .none

/-- The waves that pass while the engine's stream is present (R194, R195). (log 121 DESIGN CHOICE) -/
def addWaves (e : Engine) (n : Nat) : Engine :=
  { e with cnt := { e.cnt with streamWaves := e.cnt.streamWaves + BitVec.ofNat 64 n,
                               yieldGap := e.cnt.yieldGap + BitVec.ofNat 64 n } }

/-- One issue wave: ISSUED, STREAM_WAVES and YIELD_GAP advance, and PC goes to the next instruction (R160, R195). -/
def issued (e : Engine) : Engine :=
  let e1 := addWaves e 1
  { e1 with seq := { e1.seq with
      issued := e1.seq.issued + 1, pc := e1.seq.pc + 8, prevYield := e1.seq.lastYield, lastYield := none } }

/-- Every register a list names is free of a pending write (R162). -/
def regsFree (e : Engine) (l : List Nat) : Bool := l.all fun r => r == 0 || !e.units.pendRegs.contains r

/-- The physical slot of a logical engine (R16): cluster * 9 + e. -/
def slotOf (s : State) (ge : Nat) : Nat := ge / 8 * 9 + (sget none s.slots.map ge).getD (ge % 8)

/-- The service state of a slot. -/
def slotState (s : State) (p : Nat) : SlotSt := sget .inService s.slots.st p

/-- A repair record of a kind is due (R472). -/
def repairDue (s : State) (kind : Nat) : State := { s with boot := { s.boot with due := setBit s.boot.due kind } }

/-- The Ostler raises the record of a unit's generation when the unit leaves service (R382): 16 bits. -/
def raiseGen (s : State) (kind unit : Nat) : State :=
  repairDue { s with gens := { s.gens with record := smod 0 s.gens.record (kind * 4096 + unit) fun g => (g + 1) % 65536 } } 3

/-- The data hierarchy has power and its units are in service: no Hobble, sleep, reset or boot is under way. -/
def powered (s : State) : Bool :=
  s.power.hobble == 0 && s.power.sleepState == 0 && !s.lands.inReset && s.lands.stby && s.boot.complete

/-- Sets the service state of a slot; leaving service raises its generation (R382). -/
def setSlot (s : State) (p : Nat) (v : SlotSt) : State :=
  let away (x : SlotSt) : Bool := x == .held || x == .retired
  let s1 := { s with slots := { s.slots with st := sset .inService s.slots.st p v } }
  let s2 := if v == .retired then repairDue s1 1 else s1
  if away v && !away (slotState s p) then raiseGen s2 2 p else s2

/-- The slot of an engine enters HELD (R21). -/
def holdSlot (s : State) (ge : Nat) : State := setSlot s (slotOf s ge) .held

/-- The engine's slot stands still (R21). -/
def slotStopped (s : State) (ge : Nat) : Bool := slotState s (slotOf s ge) == .held || slotState s (slotOf s ge) == .retired

/-- The engine's slot runs instructions: IN_SERVICE, or DRAINING to its pass boundary (R21, R22). -/
def slotRuns (s : State) (ge : Nat) : Bool :=
  slotState s (slotOf s ge) == .inService || slotState s (slotOf s ge) == .draining

/-- Issues one instruction (R160, R162, R173): nothing happens while the sequencer is held or a register it names has a
pending write; a fetch that fails raises its code; otherwise the instruction's work is done in its issue wave. The work
gets the state, the engine as it stands after the issue wave, and the instruction's tag. (log 15 DESIGN CHOICE) -/
def issue (s : State) (ge : Nat) (regs : List Nat) (work : State → Engine → Tag → State) : State :=
  let e := eng s ge
  if !canIssue e || !regsFree e regs || !slotRuns s ge then s else
  let t : Tag := { pc := e.seq.pc, stamp := s.stamp }
  match fetchFault s ge with
  | (some c, s1) => raiseSeq s1 ge c t e.seq.pc.toNat
  | (none, s1) => work { s1 with stamp := s1.stamp + 1 } (issued (eng s1 ge)) t

/-- An ALU instruction: one register is written. -/
def issueAlu (s : State) (ge rd : Nat) (regs : List Nat) (f : Engine → W64) : State :=
  issue s ge (rd :: regs) fun s1 e _ => setEng s1 ge (wrS e rd (f e))

/-- A unit reports an event for the Studbook over the management ring (R448). (log 10 DESIGN CHOICE) -/
def noteUnit (s : State) (area num sev kind unit : Nat) (params : List W64) : State :=
  let ev : Event := { area := area, num := num, sev := sev, kind := kind, unit := unit, params := params }
  { s with raised := s.raised ++ [ev] }

/-- An event of a unit; an engine or array that is named by its logical number is reported by its physical slot (R87, R450).
 (log 10 DESIGN CHOICE) -/
def note (s : State) (area num sev kind unit : Nat) (params : List W64) : State :=
  noteUnit s area num sev kind
    (if kind = 1 then slotOf s (unit / 4) * 4 + unit % 4 else if kind = 2 then slotOf s unit else unit) params

/-- A next state. -/
def ok (s : State) : Host.Outcome State Fault Refusal := .next s

/-- The tile slots a tile of a shape and format occupies (R93). -/
def tileSlots (shape format : Nat) : Nat :=
  let n := if shape = 0 then 1 else if shape = 1 then 2 else 4
  if format = 0 then n else 2 * n

/-- Rows of a tile shape. -/
def tileRows (shape : Nat) : Nat := if shape = 2 then 64 else 32

/-- Columns of a tile shape. -/
def tileCols (shape : Nat) : Nat := if shape = 0 then 32 else 64

end Sys2Proof.Machine
end

