-- ==== Sys2Proof/Machine/Operands.lean ====
section
/-! DEFINITION. Operand forms: tensor descriptors and their walks (R168 to R171), stored codes, scales and format slots
(R30 to R41), and 57-bit addresses in scratchpad or memory. -/

namespace Sys2Proof.Machine

/-- Word i of a descriptor. -/
def dw (d : List W64) (i : Nat) : Nat := (d.getD i 0).toNat
/-- Field BASE. (log 21 DEDUCED) -/
def dBase (d : List W64) : Nat := bits (dw d 0) 56 0
/-- Field SPACE. -/
def dSpace (d : List W64) : Nat := bits (dw d 0) 59 57
/-- Field TYPE. -/
def dType (d : List W64) : Nat := bits (dw d 0) 63 60
/-- Field SLOT. -/
def dSlot (d : List W64) : Nat := bits (dw d 1) 4 0
/-- Field SCALE_CODE. -/
def dScaleCode (d : List W64) : Nat := bits (dw d 1) 12 5
/-- Field ARRAY. -/
def dArray (d : List W64) : Nat := bits (dw d 1) 14 13
/-- Field TILE_SLOT. -/
def dTile (d : List W64) : Nat := bits (dw d 1) 20 15
/-- Field ROW0. -/
def dRow0 (d : List W64) : Nat := bits (dw d 1) 26 21
/-- Field STRIDE1. -/
def dStride1 (d : List W64) : Int := signed 32 (bits (dw d 2) 31 0)
/-- Field KSTEP. -/
def dKstep (d : List W64) : Int := signed 32 (bits (dw d 2) 63 32)
/-- Field SCALE_BASE. -/
def dScaleBase (d : List W64) : Nat := bits (dw d 3) 56 0
/-- Field SCALE_STRIDE1. -/
def dScaleStride1 (d : List W64) : Int := signed 32 (bits (dw d 4) 31 0)
/-- Field SCALE_KSTEP. -/
def dScaleKstep (d : List W64) : Int := signed 32 (bits (dw d 4) 63 32)
/-- Field META_BASE. -/
def dMeta (d : List W64) : Nat := bits (dw d 5) 56 0
/-- Field EXTENT0. -/
def dExt0 (d : List W64) : Nat := bits (dw d 6) 23 0
/-- Field EXTENT1. -/
def dExt1 (d : List W64) : Nat := bits (dw d 6) 47 24
/-- Field CONTRIB. -/
def dContrib (d : List W64) : Nat := bits (dw d 7) 7 0
/-- Field EPOCH. -/
def dEpoch (d : List W64) : Nat := bits (dw d 7) 63 32

/-- A reserved field or encoding of a descriptor is nonzero (R169, R171). -/
def dReserved (d : List W64) : Bool :=
  decide (4 ≤ dSpace d ∨ 5 ≤ dType d ∨ bits (dw d 1) 63 27 ≠ 0 ∨ bits (dw d 3) 63 57 ≠ 0 ∨ bits (dw d 5) 63 57 ≠ 0
    ∨ bits (dw d 6) 63 48 ≠ 0 ∨ (if dSpace d = 3 then bits (dw d 7) 31 8 ≠ 0 else dw d 7 ≠ 0))

/-- An address of 57 bits at a signed distance from a base. -/
def addrAt (b : Nat) (o : Int) : Nat := wrapInt 57 ((b : Int) + o)

/-- Row r of a descriptor walked as MOV walks it (R170): address and bytes. -/
def dRows (d : List W64) : List (Nat × Nat) :=
  (List.range (dExt1 d)).map fun (r : Nat) => (addrAt (dBase d) ((r : Int) * dStride1 d), dExt0 d)

/-- Every row lies in the binding (R165). -/
def rowsInSpad (e : Engine) (rows : List (Nat × Nat)) : Option Nat :=
  (rows.find? fun r => !spadOk e r.1 r.2).map Prod.fst

/-- Checks that every row of a destination may be written (translation and permission, R207 to R211), before any is. -/
def checkRows (s : State) (ge : Nat) (space : Nat) : List (Nat × Nat) → Option (Nat × Nat) × State
  | [] => (none, s)
  | (a, n) :: r =>
    if space = 0 then checkRows s ge space r else
    match vPieces s (walker ge) (eng s ge).seq.context .write a n with
    | (.error c, t) => (some c, t)
    | (.ok _, t) => checkRows t ge space r

/-! ### Format slots and stored codes -/

/-- Code widths, scale modes and EMAX_ELEM of the presets (R35): slots 0 to 5. -/
def presetWidth (i : Nat) : Nat := if i ≤ 1 then 8 else if i ≤ 3 then 6 else 4
/-- Scale mode of a preset: E8M0-32, INT4 per-tensor. -/
def presetScale (i : Nat) : Nat := if i = 5 then 2 else 1
/-- EMAX_ELEM of a preset. -/
def presetEmax (i : Nat) : Int := if i = 0 then 8 else if i = 1 then 15 else if i = 3 then 4 else 2

/-- A slot holds a valid table (R35, R41). -/
def slotValid (e : Engine) (i : Nat) : Bool := decide (i < 6) || (sget {} e.fmt i).valid

/-- CODE_WIDTH of a slot. -/
def slotWidth (e : Engine) (i : Nat) : Nat := if i < 6 then presetWidth i else (sget {} e.fmt i).codeWidth

/-- SCALE_MODE of a slot: 0 none, 1 E8M0-32, 2 per-tensor. -/
def slotScale (e : Engine) (i : Nat) : Nat := if i < 6 then presetScale i else (sget {} e.fmt i).scaleMode

/-- EMAX_ELEM of a slot. -/
def slotEmax (e : Engine) (i : Nat) : Int := if i < 6 then presetEmax i else signed 8 (sget {} e.fmt i).emaxElem

/-- ENCODABLE of a slot; the encode stage may target every preset. -/
def slotEncodable (e : Engine) (i : Nat) : Bool := decide (i < 6) || (sget {} e.fmt i).encodable

/-- The table entry of a code: the O9 operand, and whether the code is UNUSED (R36, R41). -/
def slotEntry (e : Engine) (i c : Nat) : Nat × Bool :=
  if i = 0 then (o9E4M3 c, false)
  else if i = 1 then (o9E5M2 c, false)
  else if i = 2 then (o9E2M3 c, false)
  else if i = 3 then (o9E3M2 c, false)
  else if i = 4 then (o9E2M1 c, false)
  else if i = 5 then (o9Int4 c, false)
  else
    let v := (sget {} e.fmt i).entries.getD c 0
    if bitAt v 9 then (0x0F9, true) else (v % 512, false)

/-- The number a code decodes to, and whether it is UNUSED. -/
def slotDecode (e : Engine) (i c : Nat) : Fx × Bool := let v := slotEntry e i c; (decO9 v.1, v.2)

/-- Bytes of one block of 32 codes of a width (R31). -/
def blockBytes (width : Nat) : Nat := 4 * width

/-- Bytes that n codes of a width occupy, n a multiple of 4 or the width 8. -/
def codesBytes (width n : Nat) : Nat := (n * width + 7) / 8

/-- Code k of packed bytes (R31): little-endian bit packing. -/
def codeAt (width : Nat) (d : List PByte) (k : Nat) : Nat × Bool :=
  let b0 := k * width / 8
  let x := (d.getD b0 (0, false))
  let y := (d.getD (b0 + 1) (0, false))
  let straddles := decide (k * width % 8 + width > 8)
  (bits (x.1.toNat + 256 * y.1.toNat) (k * width % 8 + width - 1) (k * width % 8), x.2 || (straddles && y.2))

/-- Packs codes of a width into bytes (R31): whole groups. -/
def packCodes (width : Nat) (codes : List Nat) : List Byte :=
  let w := (codes.foldr (fun c acc => acc * 2 ^ width + c) 0)
  leBytes (codesBytes width codes.length) w

/-- A scale factor's exponent for codes sa and sw; none when either is 0xFF (R33). -/
def scaleExp (sa sw : Nat) : Option Int := if sa = 255 ∨ sw = 255 then none else some ((sa : Int) + sw - 254)

/-- Marks a value as poison when its location is (R48). -/
def orPoison (p : Bool) (x : Fx) : Fx := if p then .poison else x

/-- The alignment of bases and strides of stored codes of a width (R168). -/
def codeAlign (width : Nat) : Nat := blockBytes width

/-- An integer is a multiple of n. -/
def multOf (n : Nat) (x : Int) : Bool := x % (n : Int) == 0

end Sys2Proof.Machine
end

