-- ==== Sys2Proof/Machine/Flags.lean ====
section
/-! DEFINITION. Flag computations: the tile status word and its sticky bits (R98 to R100), and CHAIN_STATUS (R154). -/

namespace Sys2Proof.Machine

/-- The tile status word (R98); for a statistics tile both ADD_COUNT fields read 0 (R100). -/
def tileStatus (v : Tile) : W64 :=
  if !v.declared then 0 else
  let c0 := if v.format = 0 then v.count0 else 0
  let c1 := if v.format = 0 then v.count1 else 0
  BitVec.ofNat 64 (1 + 2 * v.shape + 8 * v.format + 32 * b2n v.poison + 64 * b2n v.ovf + 128 * b2n v.code
    + 256 * b2n v.longsum + 512 * b2n v.inv + 1024 * b2n v.chain0 + 2048 * b2n v.chain1 + 4096 * b2n v.finished
    + 2 ^ 16 * c0 + 2 ^ 29 * c1 + 2 ^ 42 * v.owner)

/-- A tile table entry restored from a status word: the declaration stays, the status is the image's. -/
def tileFromStatus (v : Tile) (w : Nat) : Tile :=
  { v with poison := bitAt w 5, ovf := bitAt w 6, code := bitAt w 7, longsum := bitAt w 8, inv := bitAt w 9,
           chain0 := false, chain1 := false, finished := bitAt w 12, count0 := bits w 28 16, count1 := bits w 41 29 }

/-- POISON is set (R48): the overwrites counted so far no longer clear it. -/
def tilePoisoned (v : Tile) : Tile := { v with poison := true, over0 := false, over1 := false }

/-- The half's CHAIN bit. -/
def setChain (v : Tile) (half : Nat) (b : Bool) : Tile := if half = 0 then { v with chain0 := b } else { v with chain1 := b }

/-- Both chains end. -/
def endChains (v : Tile) : Tile := { v with chain0 := false, chain1 := false }

/-- ADD_COUNT of a half. -/
def halfCount (v : Tile) (half : Nat) : Nat := if half = 0 then v.count0 else v.count1

/-- Sets ADD_COUNT of a half. -/
def setCount (v : Tile) (half n : Nat) : Tile := if half = 0 then { v with count0 := n } else { v with count1 := n }

/-- One more accumulator addition on a half (R100): saturating at 8,191, LONGSUM at 4,097. -/
def addCount (v : Tile) (half : Nat) : Tile :=
  let n := satInc 8191 (halfCount v half)
  let w := setCount v half n
  { w with longsum := w.longsum || decide (4097 ≤ n) }

/-- A half has been overwritten or zeroed whole since POISON was set; with every half so, POISON clears (R99). -/
def overHalf (v : Tile) (half : Nat) : Tile :=
  let w := if half = 0 then { v with over0 := true } else { v with over1 := true }
  if w.over0 && (w.over1 || w.shape == 0) then { w with poison := false, over0 := false, over1 := false } else w

/-- The status-clear instruction (R99): OVF, CODE, LONGSUM and INV; never POISON. -/
def clearSticky (v : Tile) : Tile := { v with ovf := false, code := false, longsum := false, inv := false }

/-- A fresh declaration (R95). -/
def freshTile (shape format owner : Nat) : Tile := { declared := true, shape := shape, format := format, owner := owner }

/-- The flags that a chain instruction raises (R154). -/
structure CFlags where
  inv : Bool := false
  aovf : Bool := false
  ovf : Bool := false
  satb : Bool := false
  poison : Bool := false
  longsum : Bool := false
  code : Bool := false
  deriving DecidableEq, Repr

/-- Flags together. -/
def CFlags.or (a b : CFlags) : CFlags :=
  { inv := a.inv || b.inv, aovf := a.aovf || b.aovf, ovf := a.ovf || b.ovf, satb := a.satb || b.satb,
    poison := a.poison || b.poison, longsum := a.longsum || b.longsum, code := a.code || b.code }

/-- Raises flags in CHAIN_STATUS. -/
def chainFlags (c : Chain) (f : CFlags) : Chain :=
  { c with inv := c.inv || f.inv, aovf := c.aovf || f.aovf, ovf := c.ovf || f.ovf, satb := c.satb || f.satb,
           poison := c.poison || f.poison, longsum := c.longsum || f.longsum, code := c.code || f.code }

/-- Clears the flags whose bit position is set in a mask of bits [7:1] (R178, R154 W1C). -/
def chainClear (c : Chain) (m : Nat) : Chain :=
  { c with inv := c.inv && !bitAt m 1, aovf := c.aovf && !bitAt m 2, ovf := c.ovf && !bitAt m 3,
           satb := c.satb && !bitAt m 4, poison := c.poison && !bitAt m 5, longsum := c.longsum && !bitAt m 6,
           code := c.code && !bitAt m 7 }

/-- Elements of a chain queue entry. -/
def opCount : ChainOp → Nat
  | .run _ n _ _ _ _ => n
  | _ => 0

/-- The first element of the instruction in progress that is not yet issued (R154). -/
def nextElem (r : ChainRun) : Nat := min (128 * r.entered) (opCount r.op)

/-- CHAIN_STATUS (R154). -/
def chainStatus (c : Chain) : W64 :=
  let ne := match c.cur with | some r => nextElem r | none => 0
  BitVec.ofNat 64 (b2n c.cur.isSome + 2 * b2n c.inv + 4 * b2n c.aovf + 8 * b2n c.ovf + 16 * b2n c.satb + 32 * b2n c.poison
    + 64 * b2n c.longsum + 128 * b2n c.code + 2 ^ 8 * c.faultCode + 2 ^ 16 * ne + 2 ^ 32 * c.instrSeq.toNat)

end Sys2Proof.Machine
end

