-- ==== Sys2Proof/Machine/Combine.lean ====
section
/-! DEFINITION. The combine units beside the HBM homes (R107 to R127, R496). -/

namespace Sys2Proof.Machine

/-- A combine table entry of a home. -/
def cmbEnt (s : State) (h i : Nat) : CmbEntry := sget {} s.cmb.tab (h * 1024 + i)

/-- Replaces an entry. -/
def setCmb (s : State) (h i : Nat) (c : CmbEntry) : State :=
  { s with cmb := { s.cmb with tab := sset {} s.cmb.tab (h * 1024 + i) c } }

/-- Bytes of a region element (R110). -/
def elemBytes (elem : Nat) : Nat := if elem = 1 then 2 else if elem = 3 then 16 else 4

/-- The contribution data type of a region, with the codes of R138 (R110). -/
def contribType (c : CmbEntry) : Nat :=
  if c.elem = 0 then (if c.widen then 1 else 0) else if c.elem = 1 then 1 else if c.elem = 2 then 2 else 4

/-- Bytes of contribution data per region element. -/
def dataBytes (c : CmbEntry) : Nat := if c.widen then 2 else elemBytes c.elem

/-- The entry's combine status word (R120). -/
def cmbStatus (c : CmbEntry) : W64 :=
  let st := match c.state with | .idle => 0 | .opened => 1 | .applying => 2 | .closed => 3
  BitVec.ofNat 64 (st + 4 * b2n c.longsum + 8 * b2n c.ovf + 16 * b2n c.nan + 32 * b2n c.poison + 64 * b2n c.forced
    + 128 * b2n c.duplicate + 2 ^ 8 * c.doneCount + 2 ^ 17 * c.expected + 2 ^ 32 * c.lateCount + 2 ^ 48 * (c.epoch % 65536))

/-- Entries of a home in use (R496), with their indexes. -/
def cmbInUse (s : State) (h : Nat) : List (Nat × CmbEntry) :=
  (s.cmb.tab.filter fun e => e.1 / 1024 == h && e.2.state != .idle).map fun e => (e.1 % 1024, e.2)

/-- A region's extent. -/
def cmbSpan (c : CmbEntry) : Nat × Nat := (c.base, c.size * 64)

/-- A region's count area (R109): 2 bytes a granule, 32 in ordered mode. -/
def cmbCountSpan (c : CmbEntry) : Nat × Nat := (c.countBase, c.size * (if c.ordered then 32 else 2))

/-- Bytes of a staged granule (R122). (log 136 DESIGN CHOICE) -/
def stageGran (c : CmbEntry) : Nat := if c.widen then 32 else 64

/-- A region's staging area (R122); empty in arrival mode. -/
def cmbStageSpan (c : CmbEntry) : Nat × Nat :=
  (c.stageBase, if c.ordered then c.expected * c.size * stageGran c else 0)

/-- The entry in use that holds an address (R110). -/
def cmbFind (s : State) (a : Nat) : Option (Nat × CmbEntry) :=
  (cmbInUse s (homeOf a)).find? fun e => decide (e.2.base ≤ a ∧ a < e.2.base + e.2.size * 64)

/-- An entry whose epoch is OPEN or APPLYING. -/
def cmbBusy (c : CmbEntry) : Bool := c.state == .opened || c.state == .applying

/-- The answer of a home to a sender (R117, R119). -/
inductive CmbRes where
  | accepted | late | early | refused
  deriving DecidableEq, Repr

/-- FP32 of an unsigned 32-bit count. -/
def u2f (n : Nat) : Fx := (round32 (.fin false n 0)).1

/-- Correctly rounded FP32 quotient under IEEE rules. -/
def div32 : Fx → Fx → Fx
  | .poison, _ => .poison
  | _, .poison => .poison
  | .nan, _ => .nan
  | _, .nan => .nan
  | .inf _, .inf _ => .nan
  | .inf s, .fin t _ _ => .inf (s != t)
  | .fin s _ _, .inf t => .fin (s != t) 0 0
  | .fin s m e, .fin t n f =>
    if n = 0 then (if m = 0 then .nan else .inf (s != t))
    else if m = 0 then .fin (s != t) 0 0
    else let q := divMag m n e f; (round32 (.fin (s != t) q.1 q.2)).1

/-- The merge of two statistics triples (R114): count, mean, M2, whether the count saturated (R112), and whether a step of the
arithmetic overflowed (R154). -/
def mergeTriple (na : Nat) (ma qa : Fx) (nb : Nat) (mb qb : Fx) : Nat × Fx × Fx × Bool × Bool :=
  if nb = 0 then (na, ma, qa, false, false)
  else if na = 0 then (nb, mb, qb, false, false)
  else if 2 ^ 32 ≤ na + nb then (2 ^ 32 - 1, ma, qa, true, false)
  else
    let n := na + nb
    let delta := add32 mb (fxNeg ma)
    let step := mul32 delta.1 (div32 (u2f nb) (u2f n))
    let ma' := add32 ma step.1
    let w := div32 (mul32 (u2f na) (u2f nb)).1 (u2f n)
    let both := add32 qa qb
    let sq := mul32 delta.1 delta.1
    let add := mul32 sq.1 w
    let qa' := add32 both.1 add.1
    (n, ma'.1, qa'.1, false, delta.2 || step.2 || ma'.2 || both.2 || sq.2 || add.2 || qa'.2)

/-- The flags an element addition raises: OVF, NAN. -/
abbrev CmbFlags := Bool × Bool

/-- Adds one contribution element to one region element, both as bytes (R112). -/
def cmbElem (c : CmbEntry) (old new : List Byte) : List Byte × CmbFlags :=
  let fl (x : Fx) : CmbFlags := (fxIsInf x, fxIsNan x)
  if c.elem = 2 then
    let a := signed 32 (leNat old)
    let b := signed 32 (leNat new)
    (leBytes 4 (wrapInt 32 (a + b)), (decide (a + b < -(2 ^ 31) ∨ 2 ^ 31 ≤ a + b), false))
  else if c.elem = 1 then
    let r := (roundBf (fxAdd (decBf (leNat old)) (decBf (leNat new)))).1
    (leBytes 2 (encBf r), fl r)
  else if c.elem = 3 then
    let w (l : List Byte) (i : Nat) : Nat := leNat ((l.drop (4 * i)).take 4)
    let f (l : List Byte) (i : Nat) : Fx := dec32 (BitVec.ofNat 32 (w l i))
    let r := mergeTriple (w old 0) (f old 1) (f old 2) (w new 0) (f new 1) (f new 2)
    if w new 0 = 0 then (old, (false, false))
    else if r.2.2.2.1 then (leBytes 4 r.1 ++ old.drop 4, (true, false))
    else (leBytes 4 r.1 ++ leBytes 4 (enc32 r.2.1).toNat ++ leBytes 4 (enc32 r.2.2.1).toNat ++ leBytes 4 0,
     (fxIsInf r.2.1 || fxIsInf r.2.2.1, fxIsNan r.2.1 || fxIsNan r.2.2.1))
  else
    let x := if c.widen then decBf (leNat new) else dec32 (BitVec.ofNat 32 (leNat new))
    let r := (add32 (dec32 (BitVec.ofNat 32 (leNat old))) x).1
    (leBytes 4 (enc32 r).toNat, fl r)

/-- A contribution's elements in order, each with its data where its byte mask covers it (R110). -/
abbrev CmbEls := List (Option (List PByte))

/-- Adds consecutive contribution elements from address a on into one granule; an element that the mask leaves out stays as it
is (R110, R112, R113). -/
def cmbAddElems (c : CmbEntry) : Mem → Nat → CmbEls → Mem × CmbEntry
  | m, _, [] => (m, c)
  | m, a, none :: l => cmbAddElems c m (a + elemBytes c.elem) l
  | m, a, some x :: l =>
    let n := elemBytes c.elem
    let r :=
      if x.any Prod.snd then (poisonGran m a, { c with poison := true })
      else if granPoison m a then (m, { c with poison := true })
      else
        let y := cmbElem c ((memRun m a n).map Prod.fst) (x.map Prod.fst)
        (memPut m a y.1,
         { c with ovf := c.ovf || y.2.1, nan := c.nan || y.2.2 })
    cmbAddElems r.2 r.1 (a + n) l

/-- Applies one arrival-mode piece that lies in one granule, and raises the granule's count (R111). -/
def cmbArrive (s : State) (h i : Nat) (a : Nat) (d : CmbEls) : State :=
  let c := cmbEnt s h i
  let r := cmbAddElems c s.mem a d
  let ca := c.countBase + (a - c.base) / 64 * 2
  let n := leNat ((memRun r.1 ca 2).map Prod.fst)
  let n' := satInc 65535 n
  let m := memPut r.1 ca (leBytes 2 n')
  setCmb { s with mem := m } h i { r.2 with longsum := r.2.longsum || decide (256 < n') }

/-- Stages one piece that lies in one granule (R122). (log 26 DEDUCED) The data of each element that it covers, its bit in the count area.
 (log 26 DEDUCED) -/
def cmbStage (s : State) (h i idx : Nat) (a : Nat) (d : CmbEls) : State :=
  let c := cmbEnt s h i
  let g := (a - c.base) / 64
  let k0 := a % 64 / elemBytes c.elem
  let sa := c.stageBase + idx * c.size * stageGran c + g * stageGran c
  let ma := c.countBase + 32 * g + idx / 8
  let m := d.zipIdx.foldl (fun m x => match x.1 with
    | some y => memWrite m (sa + (k0 + x.2) * dataBytes c) y
    | none => m) s.mem
  let b := (memByte m ma).1
  let s1 := { s with mem := memPut m ma [BitVec.ofNat 8 (setBit b.toNat (idx % 8))] }
  let els := (d.zipIdx.filter fun x => x.1.isSome).map fun x => k0 + x.2
  setCmb s1 h i { c with staged := smod 0 c.staged (g * 256 + idx) (fun k => els.foldl setBit k) }

/-- Puts the data of the covered elements beside the mask's elements. -/
def spreadEls : List Bool → List (List PByte) → CmbEls
  | [], _ => []
  | true :: r, x :: l => some x :: spreadEls r l
  | true :: r, [] => none :: spreadEls r []
  | false :: r, l => none :: spreadEls r l

/-- The elements of a contribution: data of whole elements, and a byte mask of the region bytes from its first element on, empty
where it covers every one (R110). None where the mask or the data splits an element, or the data are not those of the
elements that the mask covers. -/
def cmbEls (c : CmbEntry) (mask : List Bool) (d : List PByte) : Option CmbEls :=
  let k := dataBytes c
  let m := elemBytes c.elem
  let data := chunk k d.length d
  if d.length % k ≠ 0 ∨ mask.length % m ≠ 0 then none
  else if mask.isEmpty then some (data.map some)
  else
    let b := chunk m mask.length mask
    let sel := b.map fun x => x.all id
    if b.any (fun x => x.any id && !x.all id) ∨ (sel.filter id).length ≠ data.length then none
    else some (spreadEls sel data)

/-- The elements granule by granule (fuel: elements): address of the first and the elements. -/
def elsByGranule (eb : Nat) : Nat → Nat → CmbEls → List (Nat × CmbEls)
  | 0, _, _ => []
  | f + 1, a, l =>
    if l.isEmpty then [] else
    let n := (64 - a % 64) / eb
    (a, l.take n) :: elsByGranule eb f (a + n * eb) (l.drop n)

/-- A contribution reaches a home (R110, R111, R119, R122): the canonical address of its first region element, its byte mask, its
data, type, epoch, index, and whether it comes over Relay. -/
def cmbMasked (s : State) (a : Nat) (mask : List Bool) (d : List PByte) (type epoch idx : Nat) (relay : Bool) : CmbRes × State :=
  match cmbFind s a with
  | none => (.early, s)
  | some (i, c) =>
    let h := homeOf a
    match cmbEls c mask d with
    | none => (.refused, s)
    | some l =>
      if type ≠ contribType c ∨ c.expected ≤ idx ∨ (relay ∧ !c.team) ∨ a % elemBytes c.elem ≠ 0
          ∨ c.base + c.size * 64 < a + l.length * elemBytes c.elem then (.refused, s)
      else if c.state ≠ .opened ∨ epoch < c.epoch then
        if c.epoch < epoch then (.early, s)
        else (.late, setCmb s h i { c with lateCount := satInc 65535 c.lateCount })
      else if c.epoch < epoch then (.early, s)
      else
        (.accepted, ((elsByGranule (elemBytes c.elem) l.length a l).filter fun x => x.2.any Option.isSome).foldl (fun t x =>
          if c.ordered then cmbStage t h i idx x.1 x.2 else cmbArrive t h i x.1 x.2) s)

/-- A contribution of consecutive whole elements. -/
def cmbContribute (s : State) (a : Nat) (d : List PByte) (type epoch idx : Nat) (relay : Bool) : CmbRes × State :=
  cmbMasked s a [] d type epoch idx relay

/-- The epoch closes (R118): APPLYING, with FORCED when contributors are missing. -/
def cmbClose (s : State) (h i : Nat) : State :=
  let c := cmbEnt s h i
  if c.state = .opened then
    setCmb s h i { c with state := .applying, forced := c.forced || decide (c.doneCount < c.expected) }
  else s

/-- A DONE marker reaches a home (R117, R118). (log 137 DESIGN CHOICE) -/
def cmbDone (s : State) (a epoch idx : Nat) : CmbRes × State :=
  match cmbFind s a with
  | none => (.early, s)
  | some (i, c) =>
    let h := homeOf a
    if c.epoch < epoch then (.early, s)
    else if c.state ≠ .opened ∨ epoch < c.epoch then (.late, s)
    else if c.expected ≤ idx then (.refused, s)
    else if bitAt c.done idx then (.accepted, setCmb s h i { c with duplicate := true })
    else
      let s1 := setCmb s h i { c with done := setBit c.done idx, doneCount := c.doneCount + 1 }
      (.accepted, if c.doneCount + 1 ≥ c.expected then cmbClose s1 h i else s1)

/-- A close request for the region holding an address, from a context, or from the Relay unit (R118). -/
def cmbCloseReq (s : State) (a : Nat) (owner : Option Nat) : CmbRes × State :=
  match cmbFind s a with
  | none => (.refused, s)
  | some (i, c) =>
    match owner with
    | some o => if c.owner ≠ o then (.refused, s) else (.accepted, cmbClose s (homeOf a) i)
    | none => if c.team then (.accepted, cmbClose s (homeOf a) i) else (.refused, s)

/-- The staged contributions of a granule are applied in contributor order (R123). -/
def cmbApplyGran (c : CmbEntry) (m : Mem) (g : Nat) : Mem × CmbEntry :=
  (List.range c.expected).foldl (fun (x : Mem × CmbEntry) i =>
    let b := (memByte x.1 (c.countBase + 32 * g + i / 8)).1
    if bitAt b.toNat (i % 8) then
      (maskList 32 (sget 0 c.staged (g * 256 + i))).foldl (fun (y : Mem × CmbEntry) k =>
        let d := memRun y.1 (c.stageBase + i * c.size * stageGran c + g * stageGran c + k * dataBytes c) (dataBytes c)
        cmbAddElems y.2 y.1 (c.base + 64 * g + k * elemBytes c.elem) [some d]) x
    else x) (m, c)

/-- Applying ends: staged contributions are in, the region is CLOSED and its completion written (R118, R123).
 (log 26 DEDUCED) -/
def cmbApplied (s : State) (h i : Nat) : State :=
  let c := cmbEnt s h i
  if c.state ≠ .applying then s else
  let r := if c.ordered then
      (List.range c.size).foldl (fun (x : Mem × CmbEntry) g => cmbApplyGran x.2 x.1 g) (s.mem, c)
    else (s.mem, c)
  let c1 := { r.2 with state := .closed, closedAt := s.cmb.closes + 1 }
  let s1 := setCmb { s with mem := r.1, cmb := { s.cmb with closes := s.cmb.closes + 1 } } h i c1
  if c1.flagAddr = 0 then s1
  else homeWrite s1 noCtx 0 false c1.flagAddr ((leBytes 8 (cmbStatus c1).toNat).map (·, false))

/-- The descriptor of eight words (R108), before any epoch. -/
def cmbOfWords (w : List W64) (owner : Nat) : CmbEntry :=
  let n (i : Nat) : Nat := (w.getD i 0).toNat
  { base := bits (n 0) 43 0, size := bits (n 1) 22 0, elem := bits (n 1) 25 23, widen := bitAt (n 1) 26,
    ordered := bitAt (n 1) 27, team := bitAt (n 1) 28, initZero := bitAt (n 1) 29, expected := bits (n 1) 38 30,
    owner := owner, countBase := bits (n 2) 43 0, stageBase := bits (n 3) 43 0, flagAddr := bits (n 4) 43 0,
    epoch := bits (n 5) 31 0 }

/-- A reserved field or encoding of the eight words is nonzero (R109). OWNER is the opening context's and is not read. -/
def cmbReserved (w : List W64) : Bool :=
  let n (i : Nat) : Nat := (w.getD i 0).toNat
  decide (bits (n 0) 63 44 ≠ 0 ∨ 3 < bits (n 1) 25 23 ∨ bits (n 1) 63 51 ≠ 0 ∨ bits (n 2) 63 44 ≠ 0 ∨ bits (n 3) 63 44 ≠ 0
    ∨ bits (n 4) 63 44 ≠ 0 ∨ bits (n 5) 63 32 ≠ 0 ∨ n 6 ≠ 0 ∨ n 7 ≠ 0) || (!bitAt (n 1) 27 && decide (n 3 ≠ 0))

/-- A span lies in the stack of home h. -/
def inStack (h : Nat) (x : Nat × Nat) : Bool := decide (h * stackBytes ≤ x.1 ∧ x.1 + x.2 ≤ (h + 1) * stackBytes)

/-- Every 2 MiB region of a span is of kind COMBINE (R211). -/
def allCombine (m : Mem) (x : Nat × Nat) : Bool :=
  (List.range ((x.1 + x.2 + mib2 - 1) / mib2 - x.1 / mib2)).all fun i => sget 0 m.attr (x.1 / mib2 + i) % 4 == 2

/-- Two spans meet. -/
def spansMeet (x y : Nat × Nat) : Bool := decide (x.1 < y.1 + y.2 ∧ y.1 < x.1 + x.2)

/-- A region, its count area and its staging area. -/
def cmbAreasOf (c : CmbEntry) : List (Nat × Nat) := [cmbSpan c, cmbCountSpan c, cmbStageSpan c]

/-- The 2 MiB regions, by number, that a region, its count area and its staging area touch. -/
def cmbAreas (c : CmbEntry) : List Nat :=
  (cmbAreasOf c).flatMap fun x =>
    if x.2 = 0 then [] else (List.range ((x.1 + x.2 + mib2 - 1) / mib2 - x.1 / mib2)).map (x.1 / mib2 + ·)

/-- The open operation breaks R107, R109 or R211. -/
def cmbOpenBad (s : State) (h : Nat) (c : CmbEntry) : Bool :=
  let busy := (cmbInUse s h).filter fun e => cmbBusy e.2
  let staged := (busy.filter fun e => e.2.ordered).foldl (fun t e => t + (cmbStageSpan e.2).2) 0
  decide (32 ≤ h) || decide (c.base % 64 ≠ 0 ∨ c.countBase % 64 ≠ 0 ∨ c.stageBase % 64 ≠ 0 ∨ c.flagAddr % 8 ≠ 0)
  || (c.widen && decide (c.elem ≠ 0)) || decide (c.expected = 0 ∨ 256 < c.expected ∨ c.size = 0 ∨ 4194304 < c.size)
  || !inStack h (cmbSpan c) || !inStack h (cmbCountSpan c) || (c.ordered && !inStack h (cmbStageSpan c))
  || busy.any (fun e => spansMeet (cmbSpan e.2) (cmbSpan c) || spansMeet (cmbSpan e.2) (cmbCountSpan c)
      || spansMeet (cmbSpan e.2) (cmbStageSpan c))
  || decide (1024 ≤ busy.length) || (c.ordered && decide (2 ^ 34 < staged + (cmbStageSpan c).2))
  || !allCombine s.mem (cmbSpan c) || !allCombine s.mem (cmbCountSpan c) || !allCombine s.mem (cmbStageSpan c)

/-- Zeroes a span of memory and clears its poison. -/
def zeroSpan (m : Mem) (x : Nat × Nat) : Mem :=
  { m with bytes := sclear m.bytes x.1 (x.1 + x.2),
           dirty := ((List.range ((x.1 + x.2 + mib2 - 1) / mib2 - x.1 / mib2)).map (x.1 / mib2 + ·)).foldl
             (fun y r => sset false y r true) m.dirty,
           poison := if x.2 % 64 = 0 ∧ x.1 % 64 = 0 then sclear m.poison (x.1 / 64) ((x.1 + x.2) / 64) else m.poison }

/-- The open writes its descriptor into entry i and starts the epoch (R116 steps 2 to 4). -/
def cmbStart (s : State) (h i : Nat) (c : CmbEntry) : State :=
  let m := zeroSpan s.mem (cmbCountSpan c)
  let m := if c.initZero then zeroSpan m (cmbSpan c) else m
  setCmb { s with mem := m } h i { c with state := .opened }

/-- A decision about a late contribution goes to the step's journal items (R291, R293). -/
def noteLate (s : State) (r : RelayHeld) (decision : Nat) : State :=
  { s with rly := { s.rly with steps := smod {} s.rly.steps r.epoch fun x =>
      { x with items := x.items ++ [JItem.late r.member r.tcls r.data.length decision] } } }

/-- When an epoch of a region opens, the late contributions that the Relay unit holds for it under STALE1 are submitted as new
ones, and those held for an earlier epoch are dropped as STALE_EXPIRED (R291); in ordered mode STALE1 acts as DROP (R122). -/
def cmbStale1 (s : State) (c : CmbEntry) : State :=
  let mine (r : RelayHeld) : Bool := r.late && decide (r.epoch < c.epoch ∧ c.base ≤ r.pa ∧ r.pa < c.base + 64 * c.size)
  let l := s.cmb.relayHeld.filter mine
  let s1 := { s with cmb := { s.cmb with relayHeld := s.cmb.relayHeld.filter fun r => !mine r } }
  l.foldl (fun t r =>
    if r.epoch + 1 < c.epoch then noteLate t r 2
    else if c.ordered then t
    else (cmbMasked t r.pa r.mask r.data r.type c.epoch r.contrib true).2) s1

/-- The open operation (R109, R116, R496): refused, or the epoch starts in the region's own entry, in a free entry, or in the
place of the entry closed longest ago. (log 135 DESIGN CHOICE) -/
def cmbOpen (s : State) (h : Nat) (c : CmbEntry) : CmbRes × State :=
  if cmbOpenBad s h c then (.refused, s) else
  match (cmbInUse s h).find? fun e => e.2.base == c.base && e.2.size == c.size with
  | some (i, o) =>
    if c.epoch ≠ o.epoch + 1 then (.refused, s)
    else (.accepted, cmbStale1 (cmbStart s h i c) c)
  | none =>
    let meets (e : CmbEntry) : Bool :=
      (cmbAreasOf e).any fun x => (cmbAreasOf c).any fun y => spansMeet x y
    let s1 := (cmbInUse s h).foldl (fun t e =>
      if e.2.state = .closed ∧ meets e.2 then setCmb t h e.1 {} else t) s
    match (List.range 1024).find? fun i => (cmbEnt s1 h i).state == .idle with
    | some i => (.accepted, cmbStale1 (cmbStart s1 h i c) c)
    | none =>
      match ((cmbInUse s1 h).filter fun e => e.2.state == .closed).foldl (fun (b : Option (Nat × Nat)) e =>
          match b with
          | none => some (e.1, e.2.closedAt)
          | some (j, t) => if e.2.closedAt < t then some (e.1, e.2.closedAt) else some (j, t)) none with
      | some (j, _) => (.accepted, cmbStale1 (cmbStart s1 h j c) c)
      | none => (.refused, s)

/-- A combine unit's hardware fault (R127): every granule touched in an open epoch becomes poison and the epoch closes
forced; other regions stay. -/
def cmbUnitFault (s : State) (h : Nat) : State :=
  ((cmbInUse s h).filter fun e => cmbBusy e.2).foldl (fun t e =>
    let c := cmbEnt t h e.1
    let touched (g : Nat) : Bool :=
      if c.ordered then (memRun t.mem (c.countBase + 32 * g) 32).any (fun b => b.1 != 0)
      else (memRun t.mem (c.countBase + 2 * g) 2).any (fun b => b.1 != 0)
    let m := ((List.range c.size).filter touched).foldl (fun m g => poisonGran m (c.base + 64 * g)) t.mem
    setCmb { t with mem := m } h e.1 { c with state := .applying, forced := true, poison := true }) s

end Sys2Proof.Machine
end

