-- ==== Sys2Proof/Machine/Prog.lean ====
section
/-! DEFINITION. Chain programs (R137 to R139), and the tiles and combine regions that chain work names (R102, R117). -/

namespace Sys2Proof.Machine

/-! ### The program (R137 to R140) -/

/-- A stream field (R138). -/
structure StreamF where
  dreg : Nat
  kind : Nat
  ty : Nat
  imode : Nat
  r : Nat
  slot : Nat
  resv : Bool
  deriving DecidableEq, Repr

/-- A stage word (R139). -/
structure StageF where
  op : Nat
  dst : Nat
  sa : Nat
  sb : Nat
  sc : Nat
  bImm : Bool
  md : Nat
  imm : W32
  resv : Bool
  deriving DecidableEq, Repr

/-- A chain program (R137). -/
structure ProgF where
  in0 : StreamF
  in1 : StreamF
  in2 : StreamF
  out0 : StreamF
  out1 : StreamF
  src0 : Nat
  src1 : Nat
  inplace : Bool
  tensor : W32
  index : Nat
  step : Nat
  tally : Nat
  tcont : Bool
  stages : List StageF
  resv : Bool
  deriving DecidableEq, Repr

/-- Reads a stream field. -/
def streamF (w : Nat) : StreamF :=
  { dreg := bits w 3 0, kind := bits w 6 4, ty := bits w 10 7, imode := bits w 12 11, r := bits w 16 13, slot := bits w 21 17,
    resv := bits w 31 22 ≠ 0 || bits w 6 4 == 7 || decide (5 ≤ bits w 10 7) || bits w 12 11 == 3 || decide (13 < bits w 16 13) }

/-- Reads a stage word. -/
def stageF (w : Nat) : StageF :=
  { op := bits w 5 0, dst := bits w 8 6, sa := bits w 11 9, sb := bits w 14 12, sc := bits w 17 15, bImm := bitAt w 18,
    md := bits w 28 20, imm := BitVec.ofNat 32 (bits w 63 32), resv := bitAt w 19 || bits w 31 29 ≠ 0 }

/-- Reads a program of sixteen words. -/
def progF (l : List W64) : ProgF :=
  let w (i : Nat) : Nat := (l.getD i 0).toNat
  { in0 := streamF (bits (w 0) 31 0), in1 := streamF (bits (w 0) 63 32), in2 := streamF (bits (w 1) 31 0),
    out0 := streamF (bits (w 1) 63 32), out1 := streamF (bits (w 2) 31 0), src0 := bits (w 2) 34 32, src1 := bits (w 2) 37 35,
    inplace := bitAt (w 2) 38, tensor := BitVec.ofNat 32 (bits (w 3) 31 0), index := bits (w 3) 36 32,
    step := bits (w 3) 41 37, tally := bits (w 3) 46 42, tcont := bitAt (w 3) 47,
    stages := (List.range 8).map fun i => stageF (w (4 + i)),
    resv := bits (w 2) 63 39 ≠ 0 || bits (w 3) 63 48 ≠ 0 || (List.range 4).any fun i => w (12 + i) != 0 }

/-- Stages with an operation. -/
def stagesOf (p : ProgF) (o : Nat) : List StageF := p.stages.filter fun g => g.op == o

/-- The sixteen words at a program address, where they can be read. -/
def progWords (e : Engine) (a : Nat) : Option (List W64) :=
  if a % 128 = 0 ∧ spadOk e a 128 then some (spadWords e a 16) else none

/-! ### The tiles that chain work names (R102) -/

/-- The tiles that the inputs of a program read, as array and base slot. -/
def tilesRead (p : ProgF) (ds : Nat → List W64) : List (Nat × Nat) :=
  ([p.in0, p.in1, p.in2].filter fun f => f.kind != 0 && f.kind != 1).map fun f => (dArray (ds f.dreg), dTile (ds f.dreg))

/-- The tiles that its outputs write. -/
def tilesWritten (p : ProgF) (ds : Nat → List W64) : List (Nat × Nat) :=
  ([p.out0, p.out1].filter fun f => f.kind == 3 || f.kind == 4).map fun f => (dArray (ds f.dreg), dTile (ds f.dreg))

/-- The tiles that a chain queue entry names, with its place in the order of issue. A program that cannot be read names none:
it is refused. -/
def chainTiles (e : Engine) : ChainOp → List (Nat × Nat) × Nat
  | .run a _ descs _ _ t =>
    match progWords e a with
    | none => ([], t.stamp)
    | some w => (tilesRead (progF w) (fun i => descs.getD i []) ++ tilesWritten (progF w) (fun i => descs.getD i []), t.stamp)
  | _ => ([], 0)

/-- A chain instruction issued before an operation still has to read or write a tile (R102, R138). -/
def chainNames (e : Engine) (a t stamp : Nat) : Bool :=
  (e.chain.queue ++ (match e.chain.cur with | some r => [r.op] | none => [])).any fun o =>
    decide ((chainTiles e o).2 < stamp) && (chainTiles e o).1.contains (a, t)

/-- The regions that the combine outputs of queued or running chain instructions issued before an operation write into, as the
virtual addresses of their streams (R117). -/
def chainCmb (e : Engine) (stamp : Nat) : List Nat :=
  (e.chain.queue ++ (match e.chain.cur with | some r => [r.op] | none => [])).flatMap fun o => match o with
    | .run a _ descs _ _ t =>
      if stamp ≤ t.stamp then [] else
      match progWords e a with
      | none => []
      | some w =>
        ([(progF w).out0, (progF w).out1].filter fun f => f.kind == 6).map fun f => dBase (descs.getD f.dreg [])
    | _ => []

end Sys2Proof.Machine
end

