-- ==== Sys2Proof/Machine/Race.lean ====
section
/-! DEFINITION. What an engine's units write while others read: the pairs of operations that R162 leaves unordered, and the
undefined bytes that they see (R11, R161, R162). -/

namespace Sys2Proof.Machine

/-! ### The bytes that operations write -/

/-- The queue entries of queue q. -/
def movq (e : Engine) (q : Nat) : List MovOp := sget [] e.units.mq q

/-- Replaces queue q. -/
def setMovq (e : Engine) (q : Nat) (l : List MovOp) : Engine := { e with units := { e.units with mq := sset [] e.units.mq q l } }

/-- The tag of a move entry. -/
def movTag : MovOp → Tag
  | .copy _ _ t => t
  | .fill _ _ t => t
  | .cmb _ _ _ _ t => t
  | .cdone _ _ _ t => t
  | .copen _ t => t
  | .cclose _ t => t

/-- Words of a tile: one per element, two in a statistics tile. -/
def tileWords (v : Tile) : Nat := tileRows v.shape * tileCols v.shape * (if v.format = 0 then 1 else 2)

/-- Bytes of a tile image (R175): elements, status word, and a statistics tile's row counts. -/
def tileImageBytes (v : Tile) : Nat := 4 * tileWords v + 8 + (if v.format = 0 then 0 else 4 * tileRows v.shape)

/-- The tag of an array queue entry. -/
def arrTag : ArrOp → Tag
  | .run _ t => t
  | .tdecl _ _ _ t => t
  | .trel _ t => t
  | .tzero _ t => t
  | .tclr _ t => t
  | .tsave _ _ t => t
  | .trest _ _ t => t
  | .tstat _ _ t => t

/-- Two row lists overlap. -/
def rowsMeet (x y : List (Nat × Nat)) : Bool := x.any fun a => y.any fun b => rangesMeet a b
where rangesMeet (x y : Nat × Nat) : Bool := decide (x.1 < y.1 + y.2 ∧ y.1 < x.1 + x.2)

/-- Descriptors of a copy that DESCRIPTOR refuses (R171, R174). -/
def copyBad (ds dd : List W64) : Bool :=
  dReserved ds || dReserved dd || decide (1 < dSpace ds ∨ 1 < dSpace dd ∨ dExt0 ds = 0 ∨ dExt1 ds = 0)
  || dExt0 ds != dExt0 dd || dExt1 ds != dExt1 dd || (dSpace ds == dSpace dd && rowsMeet (dRows ds) (dRows dd))

/-- The descriptor of a fill that DESCRIPTOR refuses (R171, R174). -/
def fillBad (dd : List W64) : Bool :=
  dReserved dd || decide (1 < dSpace dd ∨ dExt0 dd = 0 ∨ dExt1 dd = 0 ∨ dExt0 dd % 8 ≠ 0)

/-- The form of STAT in a program: 0 Welford, 1 sum of squares, 2 row merge, 3 none. -/
def statForm (p : ProgF) : Nat := match stagesOf p 0x30 with | g :: _ => g.md % 4 | [] => 3

/-- The ENC stage. (log 33 DEDUCED) -/
def encStage (p : ProgF) : Option StageF := (stagesOf p 0x38).head?

/-- ENC targets BF16. -/
def encIsBf (g : StageF) : Bool := bitAt g.md 5

/-- Position that element i reads (R138). (log 32 DEDUCED) -/
def streamPos (f : StreamF) (i : Nat) : Nat :=
  if f.imode = 1 then i / 2 ^ f.r else if f.imode = 2 then i % 2 ^ f.r else i

/-- Bytes of one element of a type that is not stored codes. -/
def typeBytes (ty : Nat) : Nat := if ty = 1 then 2 else if ty = 4 then 16 else 4

/-- Address of the element at position p: E elements a row, m bytes apart. -/
def elemAddr (d : List W64) (el m p : Nat) : Nat := addrAt (dBase d) (((p / el : Nat) : Int) * dStride1 d + ((p % el * m : Nat) : Int))

/-- E of a stored-code stream: EXTENT0 bytes hold so many codes (R169, R170). (log 32 DEDUCED) -/
def rowCodes (d : List W64) (width : Nat) : Nat := dExt0 d * 8 / width

/-- Address of the code block that holds position p, and of its scale byte (R170). -/
def blockAddr (d : List W64) (width p : Nat) : Nat × Nat :=
  let el := rowCodes d width
  let row := p / el
  let b := p % el / 32
  (addrAt (dBase d) ((row : Int) * dStride1 d + ((b * blockBytes width : Nat) : Int)),
   addrAt (dScaleBase d) ((row : Int) * dScaleStride1 d + (b : Int)))

/-- Highest position that a stream reaches over n elements. -/
def lastPos (f : StreamF) (n : Nat) : Nat :=
  if f.imode = 1 then (n - 1) / 2 ^ f.r else if f.imode = 2 then min (n - 1) (2 ^ f.r - 1) else n - 1

/-- Scratchpad ranges that an input stream reads. -/
def inRanges (e : Engine) (f : StreamF) (d : List W64) (n : Nat) : List (Nat × Nat) :=
  if f.kind ≠ 1 then []
  else if f.ty = 3 then
    (List.range (lastPos f n / 32 + 1)).flatMap fun b =>
      let x := blockAddr d (slotWidth e f.slot) (32 * b)
      (x.1, blockBytes (slotWidth e f.slot)) :: (if slotScale e f.slot = 1 then [(x.2, 1)] else [])
  else
    let m := typeBytes f.ty
    (List.range (lastPos f n + 1)).map fun p => (elemAddr d (dExt0 d / m) m p, m)

/-- The unit codes of R162's pairs: move queues 0 to 3, then the chain, the arrays, the sequencer, the Relay unit, and the path that
loads format slots. -/
def uChain : Nat := 4
/-- Array a. -/
def uArr (a : Nat) : Nat := 5 + a
/-- The sequencer. -/
def uSeq : Nat := 9
/-- The Relay unit. -/
def uRly : Nat := 10
/-- Format slot loads. -/
def uFmt : Nat := 11

/-- Rows as spans of a unit. -/
def spansOf (u stamp : Nat) (mem : Bool) (l : List (Nat × Nat)) : List Span :=
  l.map fun r => { unit := u, mem := mem, a := r.1, n := r.2, stamp := stamp }

/-- What a move entry writes. -/
def movSpans (q : Nat) : MovOp → List Span
  | .copy ds dd t => if copyBad ds dd then [] else spansOf q t.stamp (dSpace dd == 1) (dRows dd)
  | .fill dd _ t => if fillBad dd then [] else spansOf q t.stamp (dSpace dd == 1) (dRows dd)
  | _ => []

/-- Elements 0 to n - 1 of a stream, m bytes each. -/
def elemSpans (d : List W64) (m n : Nat) : List (Nat × Nat) := (List.range n).map fun i => (elemAddr d (dExt0 d / m) m i, m)

/-- What a program's output stream writes: the codes of an encode, its scale bytes, the rows of a merge, or lanes (R138, R151). -/
def outSpans (e : Engine) (p : ProgF) (f : StreamF) (one : Bool) (d : List W64) (n : Nat) : List (Nat × Nat) :=
  match encStage p with
  | some g =>
    if encIsBf g then elemSpans d (typeBytes f.ty) n
    else if one then
      (if slotScale e (g.md % 32) = 1 then (List.range ((n + 31) / 32)).map fun b => (elemAddr d (dExt0 d) 1 b, 1)
        else elemSpans d (typeBytes f.ty) n)
    else
      let w := slotWidth e (g.md % 32)
      (List.range ((n + 31) / 32)).map fun b => ((blockAddr d w (32 * b)).1, blockBytes w)
  | none => elemSpans d (typeBytes f.ty) n

/-- What a chain queue entry is going to write, as its program in the scratchpad says. -/
def chainSpans (e : Engine) : ChainOp → List Span
  | .run a n descs _ _ t =>
    match progWords e a with
    | none => []
    | some w =>
      let p := progF w
      [(p.out0, false), (p.out1, true)].flatMap fun f =>
        if f.1.kind = 1 ∨ f.1.kind = 5 then
          spansOf uChain t.stamp (f.1.kind == 5) (outSpans e p f.1 f.2 (descs.getD f.1.dreg []) n)
        else []
  | _ => []

/-- What the outputs of the groups from g to h - 1 write. -/
def groupSpans (stamp g h : Nat) (l : List (Nat × ChainOut)) : List Span :=
  (l.filter fun o => decide (g ≤ o.1 ∧ o.1 < h)).flatMap fun o => match o.2 with
    | .spad a d => spansOf uChain stamp false [(a, d.length)]
    | .mem a d => spansOf uChain stamp true [(a, d.length)]
    | _ => []

/-- The tag and pending tally register of a chain entry. -/
def chainTag : ChainOp → Tag × Nat
  | .run _ _ _ _ p t => (t, p)
  | .curve _ _ t => (t, 0)
  | .cclr _ => ({ pc := 0, stamp := 0 }, 0)
  | .cstat rd => ({ pc := 0, stamp := 0 }, rd)

/-- What an array's queued tile saves write. -/
def saveSpans (e : Engine) (a : Nat) : List Span :=
  (arrOf e a).queue.flatMap fun o => match o with
    | .tsave t d g => spansOf (uArr a) g.stamp (dSpace d == 1) [(dBase d, tileImageBytes (tileOf (accOf e a) t))]
    | _ => []

/-- Everything that issued operations of the engine have still to write, of what lies in the binding. -/
def pendingSpans (e : Engine) : List Span :=
  (((List.range 4).flatMap fun q => (movq e q).flatMap (movSpans q))
    ++ e.chain.queue.flatMap (chainSpans e)
    ++ (match e.chain.cur with | some r => groupSpans (chainTag r.op).1.stamp r.entered r.groups r.outs | none => [])
    ++ (List.range 4).flatMap (saveSpans e)).filter fun w => w.mem || spadOk e w.a w.n

/-! ### The races -/

/-- The writes that R162 leaves unordered against an operation of unit u issued at a place in the order: those of other units that
are not complete, or were not when the operation issued. (log 122 DEDUCED) -/
def raced (e : Engine) (u stamp : Nat) : List Span :=
  (pendingSpans e).filter (fun w => w.unit != u)
  ++ (e.units.landed.filter fun w => w.1.unit != u && decide (stamp < w.2)).map Prod.fst

/-- The undefined byte that an operation sees at an address of a race (R11): free. -/
def raceByte (stamp : Nat) (mem : Bool) (a : Nat) : Byte := Config.freeByte (2 ^ 90 + (2 * stamp + b2n mem) * 2 ^ 57 + a)

/-- Bytes from an address, free where one of the spans lies. -/
def raceOver (l : List Span) (stamp : Nat) (mem : Bool) (a : Nat) (d : List PByte) : List PByte :=
  d.zipIdx.map fun x =>
    if l.any (fun w => w.mem == mem && decide (w.a ≤ a + x.2 ∧ a + x.2 < w.a + w.n)) then (raceByte stamp mem (a + x.2), x.1.2)
    else x.1

/-- Bytes from an address as an operation of a unit reads or writes them: free where its pair is unordered.
 (log 122 DEDUCED) -/
def raceBytes (e : Engine) (u stamp : Nat) (mem : Bool) (a : Nat) (d : List PByte) : List PByte :=
  match raced e u stamp with
  | [] => d
  | l => raceOver l stamp mem a d

/-- The engine with the scratchpad as an operation of a unit reads it: free where its pair is unordered. -/
def view (e : Engine) (u stamp : Nat) : Engine :=
  match (raced e u stamp).filter fun w => !w.mem with
  | [] => e
  | l => { e with spad := l.foldl (fun m w =>
      (List.range w.n).foldl (fun m i => sset none m (spadPhys e (w.a + i)) (some (raceByte stamp false (w.a + i)))) m) e.spad }

/-- The places in the order of issue of the operations that are not complete, a matrix operation's records until it closes
(R161). -/
def flightStamps (e : Engine) : List Nat :=
  ((List.range 4).flatMap fun q => (movq e q).map fun m => (movTag m).stamp)
  ++ (e.chain.queue.map fun o => (chainTag o).1.stamp)
  ++ (match e.chain.cur with | some r => [(chainTag r.op).1.stamp] | none => [])
  ++ ((List.range 4).flatMap fun a =>
    (arrOf e a).queue.map (fun o => (arrTag o).stamp)
    ++ (match (arrOf e a).run with | some r => [r.tag.stamp] | none => [])
    ++ (match (arrOf e a).pass with | some p => [p.stamp] | none => [])
    ++ (accOf e a).reexecQ.map (fun r => r.2.stamp)
    ++ (accOf e a).log.flatMap fun o => if o.opened then o.records.map fun r => r.2.stamp else [])
  ++ (e.units.fmtLoads.map fun l => l.2.2.stamp)

/-- Writes end: they are kept while an operation that was issued before their end is in flight. -/
def land (e : Engine) (now : Nat) (l : List Span) : Engine :=
  let f := flightStamps e
  { e with units := { e.units with
      landed := (e.units.landed ++ l.map (·, now)).filter fun w => f.any fun t => decide (t < w.2) } }

/-- A write of the scratchpad by a unit, undefined where its pair is unordered. (log 122 DEDUCED) -/
def raceWrite (e : Engine) (u stamp a : Nat) (d : List PByte) : Engine := spadWrite e a (raceBytes e u stamp false a d)

/-- Bytes read through a space: the scratchpad (0) or memory (1), row after row, by an operation of a unit. -/
def readRows (s : State) (ge u stamp : Nat) (space : Nat) : List (Nat × Nat) → Except (Nat × Nat) (List (List PByte)) × State
  | [] => (.ok [], s)
  | (a, n) :: r =>
    if space = 0 then
      match readRows s ge u stamp space r with
      | (.ok l, t) => (.ok (raceBytes (eng s ge) u stamp false a (spadRead (eng s ge) a n) :: l), t)
      | (.error c, t) => (.error c, t)
    else
      match vRead s ge a n with
      | (.error c, t) => (.error c, t)
      | (.ok d, t) =>
        match readRows t ge u stamp space r with
        | (.ok l, v) => (.ok (raceBytes (eng s ge) u stamp true a d :: l), v)
        | (.error c, v) => (.error c, v)

/-- Writes rows to a space. -/
def writeRows (s : State) (ge u stamp : Nat) (space : Nat) : List (Nat × List PByte) → State
  | [] => s
  | (a, d) :: r =>
    if space = 0 then writeRows (modEng s ge fun e => raceWrite e u stamp a d) ge u stamp space r
    else writeRows (vWrite s ge stamp a (raceBytes (eng s ge) u stamp true a d)).2 ge u stamp space r

end Sys2Proof.Machine
end

