-- ==== Sys2Proof/Machine/Mov.lean ====
section
/-! DEFINITION. The move unit (R174, R183) and the order that fences impose on completion (R217, R218). -/

namespace Sys2Proof.Machine

/-- Issue stamps of an engine's operations that write memory and are not complete (R217). -/
def writeStamps (e : Engine) : List Nat :=
  ((List.range 4).flatMap fun q => (movq e q).map fun m => (movTag m).stamp)
  ++ (e.chain.queue.filterMap fun c => match c with | .run _ _ _ _ _ t => some t.stamp | _ => none)
  ++ (match e.chain.cur with | some c => (match c.op with | .run _ _ _ _ _ t => [t.stamp] | _ => []) | none => [])
  ++ ((List.range 4).flatMap fun a => (arrOf e a).queue.filterMap fun o => match o with | .tsave _ _ t => some t.stamp | _ => none)

/-- Engines that run a context. -/
def enginesOf (s : State) (ctx : Nat) : List Engine :=
  (s.engines.filter fun e => e.2.seq.context == ctx && (e.2.seq.state != .idle || e.2.seq.qlen != 0)).map Prod.snd

/-- A write of the context issued before a stamp is not yet complete: its operation is not, or it waits at its home. -/
def earlierWrites (s : State) (ctx stamp : Nat) : Bool :=
  let waits (q : Held) : Bool := match q.data with | .eng c t _ _ => c == ctx && decide (t < stamp) | _ => false
  ((enginesOf s ctx).any fun e => (writeStamps e).any fun t => decide (t < stamp)) || s.harn.holds.any waits

/-- A fence issued before an operation holds it: some write issued before the fence is not home-visible yet (R217; a
FENCE.FLAG orders later writes in the same way, R218). -/
def fenceHolds (s : State) (ctx stamp : Nat) : Bool :=
  s.harn.fences.any fun f => f.ctx == ctx && decide (f.stamp < stamp) && earlierWrites s ctx f.stamp

/-- Enters an instruction into move queue q; with 64 entries in it issue waits (R160). -/
def issueMov (s : State) (ge q : Nat) (regs : List Nat) (op : Engine → Tag → MovOp) (bad : Bool) : State :=
  if 64 ≤ (movq (eng s ge) q).length then s else
  issue s ge regs fun s1 e t => if bad then raiseSeq s1 ge cILLEGAL t 0 else setEng s1 ge (setMovq e q (movq e q ++ [op e t]))

/-- mov.copy. -/
def execMovCopy (ge q ds dd : Nat) (s : State) : Host.Outcome State Fault Refusal :=
  ok (issueMov s ge q [] (fun e t => .copy (rdD e ds) (rdD e dd) t) false)

/-- mov.fill. -/
def execMovFill (ge q dd ra : Nat) (s : State) : Host.Outcome State Fault Refusal :=
  ok (issueMov s ge q [ra] (fun e t => .fill (rdD e dd) (rdS e ra) t) false)

/-- mov.cmb: contributor IMM[7:0]; IMM[31:8] must be 0. -/
def execMovCmb (ge q ds dd ra : Nat) (imm : W32) (s : State) : Host.Outcome State Fault Refusal :=
  ok (issueMov s ge q [ra] (fun e t => .cmb (rdD e ds) (rdD e dd) (imm.toNat % 256) ((rdS e ra).toNat % 2 ^ 32) t)
    (decide (256 ≤ imm.toNat)))

/-- mov.cdone. -/
def execMovCdone (ge q dd ra : Nat) (imm : W32) (s : State) : Host.Outcome State Fault Refusal :=
  ok (issueMov s ge q [ra] (fun e t => .cdone (rdD e dd) (imm.toNat % 256) ((rdS e ra).toNat % 2 ^ 32) t)
    (decide (256 ≤ imm.toNat)))

/-- mov.copen. -/
def execMovCopen (ge q ds : Nat) (s : State) : Host.Outcome State Fault Refusal :=
  ok (issueMov s ge q [] (fun e t => .copen (rdD e ds) t) false)

/-- mov.cclose. -/
def execMovCclose (ge q dd : Nat) (s : State) : Host.Outcome State Fault Refusal :=
  ok (issueMov s ge q [] (fun e t => .cclose (rdD e dd) t) false)

/-- The outcome of a move: done, with the state; or a code and address. -/
abbrev MovRes := Except (Nat × Nat) State

/-- mov.copy runs (R170, R171, R174, R225). (log 23 DEDUCED) -/
def runCopy (s : State) (ge u stamp : Nat) (ds dd : List W64) : MovRes × State :=
  if copyBad ds dd then (.error (cDESC, 0), s) else
  let bad (d : List W64) : Option Nat := if dSpace d = 0 then rowsInSpad (eng s ge) (dRows d) else none
  match bad ds, bad dd with
  | some a, _ => (.error (cSPAD, a), s)
  | none, some a => (.error (cSPAD, a), s)
  | none, none =>
    match readRows s ge u stamp (dSpace ds) (dRows ds) with
    | (.error c, t) => (.error c, t)
    | (.ok rows, t) =>
      match checkRows t ge (dSpace dd) (dRows dd) with
      | (some c, w) => (.error c, w)
      | (none, w) =>
        let v := writeRows w ge u stamp (dSpace dd) (((dRows dd).map Prod.fst).zip rows)
        (.ok v, v)

/-- n bytes of the repeated 8-byte pattern. -/
def fillBytes (v : W64) (n : Nat) : List PByte :=
  let p := leBytes 8 v.toNat
  (List.range n).map fun i => (p.getD (i % 8) 0, false)

/-- mov.fill runs: the pattern starts at each row's first byte. (log 23 DEDUCED) -/
def runFill (s : State) (ge u stamp : Nat) (dd : List W64) (v : W64) : MovRes × State :=
  if fillBad dd then (.error (cDESC, 0), s) else
  match (if dSpace dd = 0 then rowsInSpad (eng s ge) (dRows dd) else none) with
  | some a => (.error (cSPAD, a), s)
  | none =>
    match checkRows s ge (dSpace dd) (dRows dd) with
    | (some c, w) => (.error c, w)
    | (none, w) =>
      let t := writeRows w ge u stamp (dSpace dd) ((dRows dd).map fun r => (r.1, fillBytes v r.2))
      (.ok t, t)

/-- The region entry at a virtual address of the engine's context. -/
def cmbAt (s : State) (ge va : Nat) : Except (Nat × Nat) (Nat × Option CmbEntry) × State :=
  match cPieces s (walker ge) (eng s ge).seq.context va 1 with
  | (.error c, t) => (.error c, t)
  | (.ok l, t) =>
    match l with
    | p :: _ => (.ok (p.a, (cmbFind t p.a).map Prod.snd), t)
    | [] => (.error (cTRANS, va), t)

/-- Sends contribution data piece by piece (R209, R210); the first refusal is kept. data bytes correspond to region bytes
one to one, or one to two in a WIDEN region. -/
def sendPieces (s : State) (type epoch idx : Nat) (widen : Bool) : List Piece → List PByte → Bool → Bool × State
  | [], _, bad => (bad, s)
  | p :: r, d, bad =>
    let k := if widen then p.n / 2 else p.n
    let x := cmbContribute s p.a (d.take k) type epoch idx false
    sendPieces x.2 type epoch idx widen r (d.drop k) (bad || x.1 != .accepted)

/-- One row of contributions at a virtual address: whether the home refused some of it. -/
def sendRow (s : State) (ge va : Nat) (d : List PByte) (type epoch idx : Nat) : Except (Nat × Nat) Bool × State :=
  match cmbAt s ge va with
  | (.error c, t) => (.error c, t)
  | (.ok (_, none), t) => (.ok true, t)
  | (.ok (_, some c), t) =>
    let n := if c.widen then 2 * d.length else d.length
    match cPieces t (walker ge) (eng t ge).seq.context va n with
    | (.error e, u) => (.error e, u)
    | (.ok l, u) => let r := sendPieces u type epoch idx c.widen l d false; (.ok r.1, r.2)

/-- Rows of contributions; a refusal by a home is COMBINE (R174). -/
def sendRows (s : State) (ge : Nat) (type epoch idx : Nat) : List (Nat × List PByte) → MovRes × State
  | [] => (.ok s, s)
  | (va, d) :: r =>
    match sendRow s ge va d type epoch idx with
    | (.error c, t) => (.error c, t)
    | (.ok true, t) => (.error (cCOMBINE, va), t)
    | (.ok false, t) => sendRows t ge type epoch idx r

/-- mov.cmb runs: the rows of the scratchpad tensor go to the region at DD.BASE + r * STRIDE1, every
byte as poison after a fault of the queue (R183). (log 23 DEDUCED; log 138 DEDUCED) -/
def runCmb (s : State) (ge u stamp : Nat) (ds dd : List W64) (contrib epoch : Nat) (allPoison : Bool) : MovRes × State :=
  if dReserved ds ∨ dReserved dd ∨ dSpace ds ≠ 0 ∨ dSpace dd ≠ 3 ∨ dExt0 ds = 0 ∨ dExt1 ds = 0 then (.error (cDESC, 0), s) else
  match cmbAt s ge (dBase dd) with
  | (.error c, t) => (.error c, t)
  | (.ok (_, none), t) => (.error (cCOMBINE, dBase dd), t)
  | (.ok (_, some c), t) =>
    let k := dataBytes c
    let m := elemBytes c.elem
    if dBase ds % k ≠ 0 ∨ !multOf k (dStride1 ds) ∨ dBase dd % m ≠ 0 ∨ !multOf m (dStride1 dd) then
      (.error (cALIGN, dBase ds), t) else
    match rowsInSpad (eng t ge) (dRows ds) with
    | some a => (.error (cSPAD, a), t)
    | none =>
      let rows := (dRows ds).map fun r => (spadRead (view (eng t ge) u stamp) r.1 r.2).map fun b => (b.1, b.2 || allPoison)
      let dst := (List.range (dExt1 ds)).map fun (r : Nat) => addrAt (dBase dd) ((r : Int) * dStride1 dd)
      sendRows t ge (dType ds) epoch contrib (dst.zip rows)

/-- A virtual span of a region descriptor as one physical span (R210): every page translates, contiguously, in one stack, and to
no interleaved alias (R107). -/
def physSpan (s : State) (w : Option Nat) (ctx va n : Nat) : Option Nat × State :=
  if n = 0 then (some 0, s) else
  match cPieces s w ctx va n with
  | (.error _, t) => (none, t)
  | (.ok l, t) =>
    let rec chain : List Piece → Bool
      | a :: b :: r => decide (a.a + a.n = b.a) && chain (b :: r)
      | _ => true
    match l with
    | p :: _ => (if chain l && !l.any Piece.alias_ then some p.a else none, t)
    | [] => (none, t)

/-- mov.copen runs (R109, R116, R210, R211): every refusal is COMBINE. -/
def runCopen (s : State) (ge u stamp : Nat) (ds : List W64) : MovRes × State :=
  if dReserved ds ∨ dSpace ds ≠ 0 then (.error (cDESC, 0), s)
  else if dBase ds % 64 ≠ 0 then (.error (cALIGN, dBase ds), s)
  else if !spadOk (eng s ge) (dBase ds) 64 then (.error (cSPAD, dBase ds), s) else
  let w := spadWords (view (eng s ge) u stamp) (dBase ds) 8
  let ctx := (eng s ge).seq.context
  let v := cmbOfWords w ctx
  let fail (t : State) : MovRes × State := (.error (cCOMBINE, dBase ds), t)
  if cmbReserved w then fail s else
  match physSpan s (walker ge) ctx v.base (v.size * 64) with
  | (none, t) => fail t
  | (some b, t) =>
    match physSpan t (walker ge) ctx v.countBase (cmbCountSpan v).2 with
    | (none, u) => fail u
    | (some cb, u) =>
      match physSpan u (walker ge) ctx v.stageBase (cmbStageSpan v).2 with
      | (none, x) => fail x
      | (some sb, x) =>
        match (if v.flagAddr = 0 then (some 0, x) else physSpan x (walker ge) ctx v.flagAddr 8) with
        | (none, y) => fail y
        | (some fl, y) =>
          let c := { v with base := b, countBase := cb, stageBase := sb, flagAddr := fl }
          let flagBad := decide (fl ≠ 0) && (attrKind y.mem fl == 1 || attrKind y.mem fl == 2)
          let changing := (cmbAreas c).any fun r => attrChanging y.map y.attrCmd r
          if flagBad || changing then fail y else
          match cmbOpen y (homeOf b) c with
          | (.accepted, z) => (.ok z, z)
          | (_, z) => fail z

/-- mov.cdone runs (R117). (log 24 DEDUCED) -/
def runCdone (s : State) (ge : Nat) (dd : List W64) (contrib epoch : Nat) : MovRes × State :=
  if dReserved dd ∨ dSpace dd ≠ 3 then (.error (cDESC, 0), s) else
  match cmbAt s ge (dBase dd) with
  | (.error c, t) => (.error c, t)
  | (.ok (a, _), t) =>
    match cmbDone t a epoch contrib with
    | (.accepted, u) => (.ok u, u)
    | (_, u) => (.error (cCOMBINE, dBase dd), u)

/-- mov.cclose runs (R118). -/
def runCclose (s : State) (ge : Nat) (dd : List W64) : MovRes × State :=
  if dReserved dd ∨ dSpace dd ≠ 3 then (.error (cDESC, 0), s) else
  match cmbAt s ge (dBase dd) with
  | (.error c, t) => (.error c, t)
  | (.ok (a, _), t) =>
    match cmbCloseReq t a (some (eng t ge).seq.context) with
    | (.accepted, u) => (.ok u, u)
    | (_, u) => (.error (cCOMBINE, dBase dd), u)

/-- Runs one entry of move queue q. -/
def runMov (s : State) (ge q : Nat) : MovOp → MovRes × State
  | .copy ds dd t => runCopy s ge q t.stamp ds dd
  | .fill dd v t => runFill s ge q t.stamp dd v
  | .cmb ds dd c e t => runCmb s ge q t.stamp ds dd c e false
  | .cdone dd c e _ => runCdone s ge dd c e
  | .copen ds t => runCopen s ge q t.stamp ds
  | .cclose dd _ => runCclose s ge dd

/-- Removes the front entry of queue q and the mark of a fault on that entry. (log 142 DEDUCED) -/
def popMov (e : Engine) (q : Nat) : Engine :=
  let e1 := setMovq e q (movq e q).tail
  { e1 with units := { e1.units with mqFault := sset false e1.units.mqFault (4 + q) false } }

/-- The region that a virtual address of the engine's context names: home and entry (R110), none where there is none.
 (log 24 DEDUCED) -/
def regionAt (s : State) (ge va : Nat) : Option (Nat × Nat) :=
  match cPieces s (walker ge) (eng s ge).seq.context va 1 with
  | (.ok (p :: _), t) => (cmbFind t p.a).map fun e => (homeOf p.a, e.1)
  | _ => none

/-- A DONE marker waits for every earlier contribution of the engine to its region: a mov.cmb of any queue, or a combine output of
the chain (R117, R174). (log 24 DEDUCED) -/
def doneHeld (s : State) (ge : Nat) (dd : List W64) (stamp : Nat) : Bool :=
  ((chainCmb (eng s ge) stamp).any fun va => regionAt s ge va == regionAt s ge (dBase dd))
  || (List.range 4).any fun q => (movq (eng s ge) q).any fun m => match m with
    | .cmb _ d _ _ t => decide (t.stamp < stamp) && regionAt s ge (dBase d) == regionAt s ge (dBase dd)
    | _ => false

/-- The front entry of queue q cannot finish yet: a fence, or earlier contributions, hold it. -/
def movHeld (s : State) (ge : Nat) (m : MovOp) : Bool :=
  fenceHolds s (eng s ge).seq.context (movTag m).stamp
  || match m with
    | .cdone dd _ _ t => doneHeld s ge dd t.stamp
    | _ => false

/-- A move queue entry finishes (R174): its work is done whole, or its refusal raised, and the entry frees. -/
def execMovTransferComplete (ge q : Nat) (s : State) : Host.Outcome State Fault Refusal :=
  ok (
    match movq (eng s ge) q with
    | [] => s
    | m :: _ =>
      if slotStopped s ge || movHeld s ge m then s else
      match runMov s ge q m with
      | (.ok _, t) => modEng t ge fun e => land (popMov e q) t.stamp (movSpans q m)
      | (.error c, t) => raiseSeq (modEng t ge fun e => popMov e q) ge c.1 (movTag m) c.2)

/-- The engine escalates to HELD (R183): its slot is named to the Groom by an event; the Groom's report follows. -/
def noteEngine (s : State) (ge code sev : Nat) : State := note s 3 code sev 2 ge []

end Sys2Proof.Machine
end

