-- ==== Sys2Proof/Machine/Mtx.lean ====
section
/-! DEFINITION. Accumulator tiles, the array queues, run records, matrix operations and format slot loads
(R35 to R41, R93 to R103, R175 to R177, R184). -/

namespace Sys2Proof.Machine

/-- An array refusal (SOURCE 1): the code is also left in ARRAY_STATUS (R88, R91). -/
def raiseArr (s : State) (ge a code : Nat) (t : Tag) : State :=
  let s1 := modEng s ge fun e => setArr e a { arrOf e a with faultCode := code }
  raise s1 ge 1 a code t.pc 0

/-! ### Elements -/

/-- An accumulator element: what was written, else +0, else free after a yield point (R94, R188). -/
def elemAt (x : Acc) (k : Nat) : W32 :=
  match sget none x.elems k with
  | some v => v
  | none => if sget 0 x.elemSeed (k / 1024) = 0 then 0
            else (Config.freeWord (sget 0 x.elemSeed (k / 1024) * 2 ^ 18 + k)).truncate 32

/-- Its number, with its poison. -/
def elemFx (x : Acc) (k : Nat) : Fx := if sget false x.poison k then .poison else dec32 (elemAt x k)

/-- Writes an element with its poison mark. -/
def putElem (x : Acc) (k : Nat) (v : W32) (p : Bool) : Acc :=
  { x with elems := sset none x.elems k (some v), poison := sset false x.poison k p }

/-- The key of element (r, c) of an FP32 tile (R97). -/
def elemKey (t : Nat) (v : Tile) (r c : Nat) : Nat := t * 1024 + r * tileCols v.shape + c

/-- +0 in every element of a span of slots, with seeds and poison cleared. -/
def zeroSlots (x : Acc) (t n : Nat) : Acc :=
  { x with elems := sclear x.elems (t * 1024) ((t + n) * 1024), elemSeed := sclear x.elemSeed t (t + n),
           poison := sclear x.poison (t * 1024) ((t + n) * 1024) }

/-- Zeroes a tile: elements and statistics counts (R99). -/
def zeroTile (x : Acc) (t : Nat) (v : Tile) : Acc :=
  let y := zeroSlots x t (tileSlots v.shape v.format)
  { y with counts := sclear y.counts (32 * t) (32 * t + 32 * tileSlots v.shape v.format) }

/-- Elements of one half of an FP32 tile. -/
def halfKeys (t : Nat) (v : Tile) (half : Nat) : List Nat :=
  (List.range (tileRows v.shape)).flatMap fun r => (List.range 32).map fun c => elemKey t v r (32 * half + c)

/-- No element of the half is poison. -/
def halfClean (x : Acc) (t : Nat) (v : Tile) (half : Nat) : Bool := (halfKeys t v half).all fun k => !sget false x.poison k

/-- Marks every element of a tile as poison, and POISON (R87). -/
def poisonTile (x : Acc) (t : Nat) : Acc :=
  let v := tileOf x t
  let y := { x with poison := ssetMany false x.poison ((List.range (tileWords v)).map fun i => (t * 1024 + i, true)) }
  setTile y t (tilePoisoned v)

/-! ### Tiles, operations and the scoreboard -/

/-- A row slot is a filler row. -/
def isFiller (r : RowSlot) : Bool := r.kind == .filler

/-- The passes open, in the grid or in the drain. -/
def livePasses (x : Arr) : List Pass :=
  (match x.pass with | some p => [p] | none => []) ++ x.fed ++ ((x.rows.filter fun r => !isFiller r).map RowSlot.pass)
    ++ x.drain.map DrainEntry.pass

/-- A pass's results for a tile are still on their way (R102). -/
def inFlight (x : Arr) (t : Nat) : Bool := (livePasses x).any fun p => p.tile == t

/-- The same for one half. -/
def inFlightHalf (x : Arr) (t h : Nat) : Bool := (livePasses x).any fun p => p.tile == t && p.half == h

/-- A pass marked as the tile's last is among them. -/
def closing (x : Arr) (t : Nat) : Bool := (livePasses x).any fun p => p.tile == t && p.last

/-- A finished tile's descriptor waits to be raised (R128). -/
def awaitsRaise (x : Arr) (t : Nat) : Bool := x.held.any fun y => y.1 == t

/-- Declared tiles whose slots meet a span of slots. -/
def tilesMeeting (x : Acc) (t n : Nat) : List (Nat × Tile) :=
  x.tiles.filter fun e => e.2.declared && decide (e.1 < t + n ∧ t < e.1 + tileSlots e.2.shape e.2.format)

/-- Every operation of a tile closes and its chains end (R184, R101). -/
def closeOps (x : Acc) (t : Nat) : Acc :=
  let y := { x with log := x.log.map fun o => if o.tile = t then { o with opened := false } else o }
  setTile y t (endChains (tileOf y t))

/-- A tile of another context, undeclared, or beyond the store (R96). -/
def tileBad (x : Acc) (t ctx : Nat) : Bool := !(tileOf x t).declared || (tileOf x t).owner != ctx

/-- The image of a tile (R97, R175). -/
def tileImage (x : Acc) (t : Nat) : List PByte :=
  let v := tileOf x t
  ((List.range (tileWords v)).flatMap fun i =>
      (leBytes 4 (elemAt x (t * 1024 + i)).toNat).map (·, sget false x.poison (t * 1024 + i)))
  ++ (leBytes 8 (tileStatus v).toNat).map (·, false)
  ++ (if v.format = 0 then [] else (List.range (tileRows v.shape)).flatMap fun r =>
      (leBytes 4 (sget 0 x.counts (32 * t + r)).toNat).map (·, false))

/-- Restores a tile from its image. -/
def tileRestore (x : Acc) (t : Nat) (d : List PByte) : Acc :=
  let v := tileOf x t
  let w (o : Nat) : List PByte := (d.drop o).take 4
  let y := (List.range (tileWords v)).foldl (fun a i =>
    putElem a (t * 1024 + i) (BitVec.ofNat 32 (leNat ((w (4 * i)).map Prod.fst))) ((w (4 * i)).any Prod.snd)) x
  let st := leNat (((d.drop (4 * tileWords v)).take 8).map Prod.fst)
  let z := if v.format = 0 then y else (List.range (tileRows v.shape)).foldl (fun a r =>
    let cv : W32 := BitVec.ofNat 32 (leNat ((w (4 * tileWords v + 8 + 4 * r)).map Prod.fst))
    { a with counts := sset 0 a.counts (32 * t + r) cv }) y
  setTile z t (tileFromStatus (tileOf z t) st)

/-- The SHAPE and FORMAT bits of an image's status word match the declared tile (R175). -/
def imageMatches (v : Tile) (d : List PByte) : Bool :=
  let st := leNat (((d.drop (4 * tileWords v)).take 8).map Prod.fst)
  bits st 2 1 == v.shape && bits st 4 3 == v.format

/-! ### Tile instructions -/

/-- Clears a pending register write (R162). -/
def unpend (e : Engine) (r : Nat) : Engine := { e with units := { e.units with pendRegs := e.units.pendRegs.erase r } }

/-- The tile that a queue entry names as a writer or reader. -/
def opTile : ArrOp → Nat
  | .run _ _ => 0
  | .tdecl t _ _ _ => t
  | .trel t _ => t
  | .tzero t _ => t
  | .tclr t _ => t
  | .tsave t _ _ => t
  | .trest t _ _ => t
  | .tstat t _ _ => t

/-- No finished-tile read of a tile is outstanding: no descriptor is queued, being read or still to be raised (R102 rule 2). -/
def unread (x : Arr) (c : Acc) (t : Nat) : Bool := !(tileOf c t).finished && !awaitsRaise x t

/-- A tile instruction at the head of the queue may take effect (R102 rules 2 and 5, R138): the passes on the tile have written
their last results, the chain is done with it as far as earlier instructions go, and for a writer no finished-tile read is
outstanding. A declaration waits for every tile it displaces. -/
def tileOpReady (s : State) (ge a : Nat) (op : ArrOp) : Bool :=
  let e := eng s ge
  let x := arrOf e a
  let c := accOf e a
  let free (t : Nat) (tg : Tag) : Bool := !inFlight x t && !chainNames e a t tg.stamp
  let writer (t : Nat) (tg : Tag) : Bool := free t tg && (unread x c t || tileBad c t e.seq.context)
  match op with
  | .run _ _ => false
  | .tdecl t sh f tg =>
    (tilesMeeting c t (tileSlots sh f)).all fun v => free v.1 tg && (v.2.owner != e.seq.context || unread x c v.1)
  | .tsave t _ tg => free t tg && !fenceHolds s e.seq.context tg.stamp
  | .tstat t _ tg => free t tg
  | .trel t tg => writer t tg
  | .tzero t tg => writer t tg
  | .tclr t tg => writer t tg
  | .trest t _ tg => writer t tg

/-- Changes the accumulator side of array a of an engine. -/
def modAcc (s : State) (ge a : Nat) (f : Acc → Acc) : State := modEng s ge fun e => setAcc e a (f (accOf e a))

/-- Changes array a of an engine. -/
def modArr (s : State) (ge a : Nat) (f : Arr → Arr) : State := modEng s ge fun e => setArr e a (f (arrOf e a))

/-- The check of an image descriptor (R171, R168). -/
def imageDescFault (e : Engine) (d : List W64) (n : Nat) : Option (Nat × Nat) :=
  if dReserved d ∨ 1 < dSpace d then some (cDESC, 0)
  else if dBase d % 8 ≠ 0 then some (cALIGN, dBase d)
  else if dSpace d = 0 ∧ !spadOk e (dBase d) n then some (cSPAD, dBase d)
  else none

/-- A tile instruction takes effect (R95, R99, R175). (log 20 DEDUCED) -/
def runTileOp (s : State) (ge a : Nat) (op : ArrOp) : State :=
  let e := eng s ge
  let c := accOf e a
  let ctx := e.seq.context
  match op with
  | .run _ _ => s
  | .tdecl t sh f tg =>
    let n := tileSlots sh f
    let hit := tilesMeeting c t n
    if t % n ≠ 0 ∨ hit.any (fun v => v.2.owner != ctx) then raiseArr s ge a 0x25 tg
    else modAcc s ge a fun x =>
      let y := hit.foldl (fun z v => { setTile z v.1 {} with log := z.log.filter fun o => o.tile ≠ v.1 }) x
      let y := zeroSlots y t n
      let y := { y with counts := sclear y.counts (32 * t) (32 * t + 32 * n), log := y.log.filter fun o => o.tile ≠ t }
      setTile y t (freshTile sh f ctx)
  | .trel t tg =>
    if tileBad c t ctx then raiseArr s ge a 0x25 tg
    else modAcc s ge a fun x => { setTile x t {} with log := x.log.filter fun o => o.tile ≠ t }
  | .tzero t tg =>
    if tileBad c t ctx then raiseArr s ge a 0x25 tg
    else modAcc s ge a fun x =>
      let y := closeOps (zeroTile x t (tileOf x t)) t
      setTile y t { tileOf y t with poison := false, over0 := false, over1 := false, count0 := 0, count1 := 0 }
  | .tclr t tg =>
    if tileBad c t ctx then raiseArr s ge a 0x25 tg
    else modAcc s ge a fun x => let y := closeOps x t; setTile y t (clearSticky (tileOf y t))
  | .tsave t d tg =>
    if tileBad c t ctx then raiseArr s ge a 0x25 tg else
    let img := tileImage c t
    match imageDescFault e d img.length with
    | some f => raiseSeq s ge f.1 tg f.2
    | none =>
      match checkRows s ge (dSpace d) [(dBase d, img.length)] with
      | (some f, u) => raiseSeq u ge f.1 tg f.2
      | (none, u) =>
        let w := writeRows u ge (uArr a) tg.stamp (dSpace d) [(dBase d, img)]
        modEng (modAcc w ge a fun x => closeOps x t) ge fun y =>
          land y w.stamp (spansOf (uArr a) tg.stamp (dSpace d == 1) [(dBase d, img.length)])
  | .trest t d tg =>
    if tileBad c t ctx then raiseArr s ge a 0x25 tg else
    let n := tileImageBytes (tileOf c t)
    match imageDescFault e d n with
    | some f => raiseSeq s ge f.1 tg f.2
    | none =>
      match readRows s ge (uArr a) tg.stamp (dSpace d) [(dBase d, n)] with
      | (.error f, u) => raiseSeq u ge f.1 tg f.2
      | (.ok l, u) =>
        let img := l.flatten
        if imageMatches (tileOf c t) img then modAcc u ge a fun x => tileRestore (closeOps x t) t img
        else raiseArr u ge a 0x25 tg
  | .tstat t rd tg =>
    let s1 := modEng s ge fun x => unpend x rd
    if tileBad c t ctx then raiseArr s1 ge a 0x25 tg
    else modEng s1 ge fun x => wrS x rd (tileStatus (tileOf c t))

/-! ### Run records -/

/-- Word i of a run record. -/
def rw (w : List W64) (i : Nat) : Nat := (w.getD i 0).toNat
def rTile (w : List W64) : Nat := bits (rw w 0) 5 0
def rHalf (w : List W64) : Nat := bits (rw w 0) 6 6
def rMode (w : List W64) : Nat := bits (rw w 0) 8 7
def rX3 (w : List W64) : Bool := bitAt (rw w 0) 9
def rWslot (w : List W64) : Nat := bits (rw w 0) 14 10
def rAslot (w : List W64) : Nat := bits (rw w 0) 19 15
def rPasses (w : List W64) : Nat := bits (rw w 0) 32 20
def rFirstOvw (w : List W64) : Bool := bitAt (rw w 0) 33
def rPolFirst (w : List W64) : Bool := bitAt (rw w 0) 34
def rPolRest (w : List W64) : Bool := bitAt (rw w 0) 35
def rTileLast (w : List W64) : Bool := bitAt (rw w 0) 36
def rReuse (w : List W64) : Bool := bitAt (rw w 0) 37
def rCont (w : List W64) : Bool := bitAt (rw w 0) 38
def rRowlist (w : List W64) : Bool := bitAt (rw w 0) 39
def rRows (w : List W64) : Nat := bits (rw w 0) 46 40
def rBitmapEn (w : List W64) : Bool := bitAt (rw w 0) 47
def rRowlistAddr (w : List W64) : Nat := bits (rw w 1) 21 0
def rBitmapAddr (w : List W64) : Nat := bits (rw w 1) 43 22
def rBitmapIndex (w : List W64) : Nat := bits (rw w 1) 63 44
/-- The weight descriptor of a record. -/
def rWdesc (w : List W64) : List W64 := (w.drop 8).take 8
/-- The activation descriptor of a record. -/
def rAdesc (w : List W64) : List W64 := (w.drop 16).take 8

/-- A record breaks R177 (the tile's height taken from its entry when declared). (log 20 DEDUCED) -/
def runRecordBad (w : List W64) (v : Tile) : Bool :=
  decide (bits (rw w 0) 63 48 ≠ 0) || (List.range 6).any (fun i => rw w (2 + i) ≠ 0)
  || decide (rPasses w = 0 ∨ 4096 < rPasses w ∨ 64 < rRows w) || (v.declared && decide (tileRows v.shape < rRows w))
  || (rX3 w && decide (rMode w ≠ 3)) || (rReuse w && (decide (rPasses w ≠ 1) || rCont w)) || (rCont w == rFirstOvw w)

/-- Bases and strides of a matrix operand meet R168 for its type and slot width. -/
def operandAligned (e : Engine) (d : List W64) : Bool :=
  let n := if dType d = 3 then codeAlign (slotWidth e (dSlot d)) else if dType d = 1 then 64 else 128
  decide (n = 0) || (decide (dBase d % n = 0) && multOf n (dStride1 d) && multOf n (dKstep d))

/-- What a record's addresses break (R165, R168, R171), before any pass. (log 20 DEDUCED) -/
def runAddrFault (e : Engine) (w : List W64) : Option Nat :=
  let wd := rWdesc w
  let ad := rAdesc w
  if dReserved wd ∨ dReserved ad ∨ dSpace wd ≠ 0 ∨ dSpace ad ≠ 0 then some cDESC
  else if (rRowlist w ∧ rRowlistAddr w % 64 ≠ 0) ∨ (rBitmapEn w ∧ rBitmapAddr w % 64 ≠ 0)
      ∨ !operandAligned e wd ∨ !operandAligned e ad ∨ ((rMode w = 1 ∨ rMode w = 2) ∧ dMeta wd % 1024 ≠ 0) then some cALIGN
  else if rRowlist w ∧ !spadOk e (rRowlistAddr w) 64 then some cSPAD
  else none

/-- The open operation on a half. (log 28 DEDUCED) -/
def openOp (x : Acc) (t h : Nat) : Option MatOp := x.log.find? fun o => o.tile == t && o.half == h && o.opened

/-- Records an accepted run in the log (R184): a new operation, which replaces the half's closed one, or one more record. -/
def logRun (x : Acc) (t h : Nat) (cont : Bool) (rec : Nat × Tag) : Acc :=
  if cont then { x with log := x.log.map fun o =>
      if o.tile = t ∧ o.half = h ∧ o.opened then { o with records := o.records ++ [rec] } else o }
  else
    let o : MatOp := { tile := t, half := h, records := [rec], opened := true }
    { x with log := (x.log.filter fun o => !(o.tile == t && o.half == h)) ++ [o] }

/-- The unit reads a run record and begins it, or refuses it (R96, R161, R177, R181). -/
def beginRun (s : State) (ge a addr : Nat) (tg : Tag) (re : Bool) : State :=
  let e := eng s ge
  let c := accOf e a
  if addr % 64 ≠ 0 then raiseSeq s ge cALIGN tg addr
  else if !spadOk e addr 192 then raiseSeq s ge cSPAD tg addr else
  let w := spadWords (view e (uArr a) tg.stamp) addr 24
  let t := rTile w
  let h := rHalf w
  let v := tileOf c t
  let start (s : State) : State := modArr s ge a fun x =>
    { x with run := some { addr := addr, tag := tg, words := w, kpass := 0, sub := if rX3 w then 1 else 0, reexec := re,
                           fresh := !re } }
  if re then start s
  else if runRecordBad w v then raiseSeq s ge cRUNREC tg addr else
  match runAddrFault e w with
  | some f => raiseSeq s ge f tg addr
  | none =>
    if tileBad c t e.seq.context ∨ v.format ≠ 0 ∨ (h = 1 ∧ v.shape = 0) then raiseArr s ge a 0x25 tg else start s

/-- What a run's first pass finds of its half's operation (R181, R184): the refusal it meets, if any. An operation whose
tile's last pass is on its way closes before any later RUN on it. -/
def openRefusal (x : Arr) (c : Acc) (w : List W64) : Option Nat :=
  match openOp c (rTile w) (rHalf w) with
  | some o =>
    if !rCont w then some cOPENCHAIN
    else if 4 ≤ o.records.length || closing x (rTile w) then some cNOCHAIN
    else none
  | none => if rCont w then some cNOCHAIN else none

/-- A format load issued before a run and naming one of its slots holds the run (R38). -/
def loadHolds (e : Engine) (addr stamp : Nat) : Bool :=
  let w0 := spadNat e addr 8
  e.units.fmtLoads.any fun l => decide (l.2.2.stamp < stamp) && (l.1 == bits w0 14 10 || l.1 == bits w0 19 15)

/-- An array with no pass, no run, an empty grid and nothing queued is idle: the set of its last pass counts no more for REUSE
(R65). -/
def restIdle (x : Arr) : Arr :=
  if x.pass.isNone && x.run.isNone && x.drain.isEmpty && x.queue.isEmpty && x.rows.all isFiller
  then { x with lastSrc := none } else x

/-- The array takes work from its queue while it can (R160): re-executed records first (R186), then the entry at the head.
fuel bounds the entries taken at once. -/
def advance : Nat → State → Nat → Nat → State
  | 0, s, _, _ => s
  | f + 1, s, ge, a =>
    let e := eng s ge
    let x := arrOf e a
    if x.run.isSome || x.stop != .free then s else
    match (accOf e a).reexecQ with
    | (addr, tg) :: r => beginRun (modAcc s ge a fun c => { c with reexecQ := r }) ge a addr tg true
    | [] =>
      match x.queue with
      | [] => modArr s ge a restIdle
      | .run addr tg :: q =>
        if loadHolds e addr tg.stamp then s
        else advance f (beginRun (modArr s ge a fun y => { y with queue := q }) ge a addr tg false) ge a
      | op :: q =>
        if tileOpReady s ge a op then advance f (runTileOp (modArr s ge a fun y => { y with queue := q }) ge a op) ge a
        else s

/-- Entries of an array's queue, those in progress included (R160, R195): a RUN counts until its last pass is fed.
 (log 93 DEDUCED) -/
def arrayDepth (x : Arr) : Nat :=
  x.queue.length + b2n x.run.isSome + (match x.pass with | some p => b2n p.final | none => 0)

/-- Enters an operation into an array's queue; with four in it, the one in progress included, issue waits (R160). -/
def issueMtx (s : State) (ge a : Nat) (regs : List Nat) (bad : Bool) (op : Engine → Tag → ArrOp) (pend : List Nat) : State :=
  if 4 ≤ arrayDepth (arrOf (eng s ge) a) then s else
  issue s ge regs fun s1 e t =>
    if bad then raiseSeq s1 ge cILLEGAL t 0 else
    let e1 := setArr e a { arrOf e a with queue := (arrOf e a).queue ++ [op e t] }
    let e2 := { e1 with units := { e1.units with pendRegs := e1.units.pendRegs ++ pend } }
    advance 5 (setEng s1 ge e2) ge a

/-- mtx.run. -/
def execMtxRun (ge arr rb : Nat) (imm : W32) (s : State) : Host.Outcome State Fault Refusal :=
  ok (issueMtx s ge arr [rb] false (fun e t => .run (spadAddr e rb imm) t) [])
where spadAddr (e : Engine) (r : Nat) (i : W32) : Nat := (rdS e r + sext32 i).toNat

/-- mtx.tdecl: SHAPE 3, FORMAT 3 and IMM[31:10] raise ILLEGAL. -/
def execMtxTdecl (ge arr : Nat) (imm : W32) (s : State) : Host.Outcome State Fault Refusal :=
  let n := imm.toNat
  ok (issueMtx s ge arr [] (decide (1024 ≤ n ∨ bits n 7 6 = 3 ∨ bits n 9 8 = 3))
    (fun _ t => .tdecl (n % 64) (bits n 7 6) (bits n 9 8) t) [])

/-- mtx.trel. -/
def execMtxTrel (ge arr : Nat) (imm : W32) (s : State) : Host.Outcome State Fault Refusal :=
  ok (issueMtx s ge arr [] (decide (64 ≤ imm.toNat)) (fun _ t => .trel (imm.toNat % 64) t) [])

/-- mtx.tzero. -/
def execMtxTzero (ge arr : Nat) (imm : W32) (s : State) : Host.Outcome State Fault Refusal :=
  ok (issueMtx s ge arr [] (decide (64 ≤ imm.toNat)) (fun _ t => .tzero (imm.toNat % 64) t) [])

/-- mtx.tclr. -/
def execMtxTclr (ge arr : Nat) (imm : W32) (s : State) : Host.Outcome State Fault Refusal :=
  ok (issueMtx s ge arr [] (decide (64 ≤ imm.toNat)) (fun _ t => .tclr (imm.toNat % 64) t) [])

/-- mtx.tsave. -/
def execMtxTsave (ge arr dr : Nat) (imm : W32) (s : State) : Host.Outcome State Fault Refusal :=
  ok (issueMtx s ge arr [] (decide (64 ≤ imm.toNat)) (fun e t => .tsave (imm.toNat % 64) (rdD e dr) t) [])

/-- mtx.trest. -/
def execMtxTrest (ge arr dr : Nat) (imm : W32) (s : State) : Host.Outcome State Fault Refusal :=
  ok (issueMtx s ge arr [] (decide (64 ≤ imm.toNat)) (fun e t => .trest (imm.toNat % 64) (rdD e dr) t) [])

/-- mtx.tstat: sRD takes the status word after every earlier writer of the tile (R162). -/
def execMtxTstat (ge arr rd : Nat) (imm : W32) (s : State) : Host.Outcome State Fault Refusal :=
  ok (issueMtx s ge arr [rd] (decide (64 ≤ imm.toNat)) (fun _ t => .tstat (imm.toNat % 64) rd t) [rd])

/-- mtx.fmtld: two loads may be outstanding (R160). -/
def execMtxFmtld (ge dr : Nat) (imm : W32) (s : State) : Host.Outcome State Fault Refusal :=
  ok (
    if 2 ≤ (eng s ge).units.fmtLoads.length then s else
    issue s ge [] fun s1 e t =>
      if 32 ≤ imm.toNat then raiseSeq s1 ge cILLEGAL t 0
      else setEng s1 ge { e with units := { e.units with fmtLoads := e.units.fmtLoads ++ [(imm.toNat % 32, rdD e dr, t)] } })

/-! ### Format slot loads -/

/-- CRC-64 of R148, one bit of a byte at a time. -/
def crcStep (r : Nat) (b : Bool) : Nat :=
  let top := bitAt r 63 != b
  let sh := r * 2 % 2 ^ 64
  if top then sh ^^^ 0x42F0E1EBA9EA3693 else sh

/-- CRC-64 (ECMA-182) continued from r over bytes, most significant bit first (R148). -/
def crc64 : Nat → List Byte → Nat
  | r, [] => r
  | r, b :: l => crc64 ([7, 6, 5, 4, 3, 2, 1, 0].foldl (fun x i => crcStep x (bitAt b.toNat i)) r) l

/-- Entry c of a slot image. -/
def imgEntry (d : List Byte) (c : Nat) : Nat := leNat ((d.drop (0x40 + 2 * c)).take 2)

/-- The value class of a used entry for the check of R37: NaNs are one, poisons one, zeros by sign. -/
def entryClass (v : Nat) : Nat × Fx :=
  let o := v % 512
  match decO9 o with
  | .nan => (1, .nan)
  | .poison => (2, .poison)
  | .fin s m _ => if m = 0 then (if s then 3 else 4, fxZero) else (0, decO9 o)
  | x => (0, x)

/-- Two used entries decode to one value. -/
def sameEntry (x y : Nat × Fx) : Bool :=
  x.1 == y.1 && (x.1 != 0 || (match x.2, y.2 with
    | .inf s, .inf t => s == t
    | .fin _ _ _, .fin _ _ _ => fxEq x.2 y.2
    | _, _ => false))

/-- A slot image breaks R37. -/
def fmtImageBad (slot : Nat) (d : List Byte) : Bool :=
  let h0 := leNat (d.take 8)
  let cw := h0 % 16
  let n := 2 ^ cw
  decide (slot < 6) || decide (cw ≠ 4 ∧ cw ≠ 6 ∧ cw ≠ 8) || decide (bits h0 5 4 = 3) || bitAt h0 7 || decide (bits h0 63 32 ≠ 0)
  || ((d.drop 0x10).take 0x30).any (· != 0)
  || (List.range 256).any (fun c => if n ≤ c then decide (imgEntry d c ≠ 0) else decide (1024 ≤ imgEntry d c))
  || decide (leNat ((d.drop 8).take 8) ≠ crc64 0 ((d.drop 0x40).take (2 * n)))
  || (bitAt h0 6 && anyPair sameEntry (((List.range n).filter fun c => !bitAt (imgEntry d c) 9).map fun c => entryClass (imgEntry d c)))
where anyPair (r : (Nat × Fx) → (Nat × Fx) → Bool) : List (Nat × Fx) → Bool
  | [] => false
  | x :: l => l.any (r x) || anyPair r l

/-- The slot that an accepted image gives. -/
def fmtOfImage (d : List Byte) : FmtSlot :=
  let h0 := leNat (d.take 8)
  { valid := true, loaded := true, codeWidth := h0 % 16, scaleMode := bits h0 5 4, encodable := bitAt h0 6,
    emaxElem := bits h0 15 8, formatId := bits h0 31 16, entries := (List.range (2 ^ (h0 % 16))).map (imgEntry d) }

/-- Issued work that names a format slot and was issued before the load (R38, R158). -/
def slotBusy (e : Engine) (slot stamp : Nat) : Bool :=
  let names (w0 : Nat) : Bool := bits w0 14 10 == slot || bits w0 19 15 == slot
  (List.range 4).any (fun a =>
    (match (arrOf e a).run with | some r => decide (r.tag.stamp < stamp) && names (rw r.words 0) | none => false)
    || (match (arrOf e a).pass with | some p => p.wslot == slot || p.aslot == slot | none => false)
    || (accOf e a).reexecQ.any (fun r => decide (r.2.stamp < stamp) && names (spadNat e r.1 8))
    || (arrOf e a).queue.any (fun o => match o with
        | .run addr t => decide (t.stamp < stamp) && names (spadNat e addr 8)
        | _ => false))
  || e.chain.cur.isSome
  || e.chain.queue.any (fun o => match o with | .run _ _ _ _ _ t => decide (t.stamp < stamp) | _ => false)

/-- A format slot load takes place once earlier work has done with the slot (R37, R38): the slot is replaced whole, or
FORMAT_LOAD is raised and the slot left as it was. (log 127 DEDUCED) -/
def execFormatSlotLoad (ge : Nat) (s : State) : Host.Outcome State Fault Refusal :=
  ok (
    let e := eng s ge
    match e.units.fmtLoads with
    | [] => s
    | (slot, d, tg) :: r =>
      if slotStopped s ge || slotBusy e slot tg.stamp then s else
      let s1 := setEng s ge { e with units := { e.units with fmtLoads := r } }
      let fin (t : State) : State := (List.range 4).foldl (fun u a => advance 5 u ge a) t
      if dReserved d ∨ dSpace d ≠ 1 then fin (raiseSeq s1 ge cDESC tg 0) else
      match vRead s1 ge (dBase d) 576 with
      | (.error c, t) => fin (raiseSeq t ge c.1 tg c.2)
      | (.ok img, t) =>
        let b := (raceBytes e uFmt tg.stamp true (dBase d) img).map Prod.fst
        if img.any Prod.snd || fmtImageBad slot b then fin (raiseSeq t ge cFMTLOAD tg (dBase d))
        else fin (modEng t ge fun x => { x with fmt := sset {} x.fmt slot (fmtOfImage b) }))

end Sys2Proof.Machine
end

