-- ==== Sys2Proof/Machine/Array.lean ====
section
/-! DEFINITION. The matrix arrays: weight sets and their loads, passes, the wave, the drain and stops (R57 to R92, R100 to R103,
R128, R184 to R186). -/

namespace Sys2Proof.Machine

/-! ### Operands of a pass -/

/-- Logical K positions of a pass by mode (R58). -/
def modeK (mode : Nat) : Nat := if mode = 1 then 256 else if mode = 2 then 512 else if mode = 3 then 32 else 128

/-- Activation operands per grid-row datum (R58). (log 28 DEDUCED) -/
def modeOps (mode : Nat) : Nat := if mode = 1 then 8 else if mode = 2 then 16 else if mode = 3 then 1 else 4

/-- The scale block of grid row i (R58). -/
def rowBlock (mode i : Nat) : Nat := if mode = 1 then i / 4 else if mode = 2 then i / 2 else i / 8

/-- Scale bytes of one column or row of a pass. -/
def modeScales (mode : Nat) : Nat := if mode = 3 then 0 else modeK mode / 32

/-- BF16(x) and BF16(x - hi) of three-pass FP32 (R43). -/
def splitHi (x : Fx) : Fx := match x with
  | .fin _ _ _ => (roundBf x).1
  | y => y

/-- The low part of the split; +0 for an infinite or NaN operand. -/
def splitLo (x : Fx) : Fx := match x with
  | .fin _ _ _ => (roundBf (fxAdd x (fxNeg (splitHi x)))).1
  | .poison => .poison
  | _ => fxZero

/-- A BF16 or FP32 matrix operand at index k of its bytes: which is 0 for BF16, 1 for the high part of FP32, 2 for the low. -/
def wideOperand (d : List PByte) (which k : Nat) : Fx :=
  if which = 0 then
    let b := (d.drop (2 * k)).take 2
    orPoison (b.any Prod.snd) (decBf (leNat (b.map Prod.fst)))
  else
    let b := (d.drop (4 * k)).take 4
    let x := orPoison (b.any Prod.snd) (dec32 (BitVec.ofNat 32 (leNat (b.map Prod.fst))))
    if which = 1 then splitHi x else splitLo x

/-- Which part of the weight operand a sub-pass uses (R43): A_hi W_hi, A_lo W_hi, A_hi W_lo. -/
def subW (sub : Nat) : Nat := if sub = 3 then 2 else if sub = 0 then 0 else 1
/-- Which part of the activation operand. -/
def subA (sub : Nat) : Nat := if sub = 2 then 2 else if sub = 0 then 0 else 1

/-- Bytes of one column (or row) of a pass's operand. -/
def vecBytes (e : Engine) (slot mode sub n : Nat) : Nat :=
  if mode = 3 then (if sub = 0 then 64 else 128) else codesBytes (slotWidth e slot) n

/-- Addresses of vector v (a column j or a row r) of an operand in K-pass k: codes and scales (R170). -/
def vecAddr (d : List W64) (v k : Nat) : Nat × Nat :=
  (addrAt (dBase d) ((v : Int) * dStride1 d + (k : Int) * dKstep d),
   addrAt (dScaleBase d) ((v : Int) * dScaleStride1 d + (k : Int) * dScaleKstep d))

/-- The scale code of block b of a vector: its byte in mode E8M0-32, the descriptor's code in mode per-tensor, 127 (a factor
of 1) otherwise; and whether the byte is poison (R32, R33, R153). -/
def vecScale (e : Engine) (d : List W64) (slot mode sa b : Nat) : Nat × Bool :=
  if mode = 3 then (127, false)
  else if slotScale e slot = 1 then
    match spadRead e (sa + b) 1 with
    | x :: _ => (x.1.toNat, x.2)
    | [] => (127, false)
  else if slotScale e slot = 2 then (dScaleCode d, false)
  else (127, false)

/-- The address of the first vector of an operand that leaves the binding (R165). -/
def operandFault (e : Engine) (d : List W64) (slot mode sub n k : Nat) (vs : List Nat) : Option Nat :=
  let bad (v : Nat) : Bool :=
    !spadOk e (vecAddr d v k).1 (vecBytes e slot mode sub n)
    || (mode != 3 && slotScale e slot == 1 && !spadOk e (vecAddr d v k).2 (modeScales mode))
  (vs.find? bad).map fun v => (vecAddr d v k).1

/-- One decoded code of a vector, with its scale block's poison; and whether it is UNUSED. (log 131 DESIGN CHOICE) -/
def vecCode (e : Engine) (slot : Nat) (bytes : List PByte) (scp : Bool) (k : Nat) : Fx × Bool :=
  let c := codeAt (slotWidth e slot) bytes k
  let v := slotDecode e slot c.1
  (orPoison (c.2 || scp) v.1, v.2)

/-- Column j of a weight set (R58, R73): one cell per grid row. -/
def weightColumn (e : Engine) (w : List W64) (k sub j : Nat) : List (WCell × Bool) :=
  let d := rWdesc w
  let slot := rWslot w
  let mode := rMode w
  let a := vecAddr d j k
  let bytes := spadRead e a.1 (vecBytes e slot mode sub 128)
  (List.range 32).map fun i =>
    if mode = 3 then ({ w := [wideOperand bytes (subW sub) i], sw := 127, meta8 := 0 }, false)
    else
      let sc := vecScale e d slot mode a.2 (rowBlock mode i)
      let cs := (List.range 4).map fun q => vecCode e slot bytes sc.2 (4 * i + q)
      let mt := if mode = 0 then 0 else spadNat e (dMeta d + 1024 * k + 32 * j + i) 1
      ({ w := cs.map Prod.fst, sw := sc.1, meta8 := mt }, cs.any Prod.snd)

/-- What identifies a weight set for REUSE (R65): its addresses in the K-pass, slot, mode, scale mode and part.
 (log 132 DESIGN CHOICE) -/
def setSrc (e : Engine) (w : List W64) (k sub : Nat) : List W64 × Nat × Nat × Nat × Nat :=
  let d := rWdesc w
  ([BitVec.ofNat 64 (vecAddr d 0 k).1, BitVec.ofNat 64 (vecAddr d 0 k).2, BitVec.ofNat 64 (dMeta d + 1024 * k),
    BitVec.ofInt 64 (dStride1 d), BitVec.ofInt 64 (dScaleStride1 d), BitVec.ofNat 64 (dType d), BitVec.ofNat 64 (dScaleCode d)],
   rWslot w, rMode w, slotScale e (rWslot w), subW sub)

/-- The weight set of a K-pass (R62, R64). -/
def weightSet (e : Engine) (w : List W64) (k sub : Nat) : WSet :=
  let cols := (List.range 32).map fun j => weightColumn e w k sub j
  { cells := (List.range 32).map fun i => cols.map fun c => (c.getD i ({ w := [], sw := 127, meta8 := 0 }, false)).1,
    code := cols.any fun c => c.any Prod.snd,
    src := setSrc e w k sub }

/-- A 2:4 metadata nibble is valid: IDX_LO < IDX_HI (R73). -/
def nibbleOk (n : Nat) : Bool := decide (n % 4 < n / 4)

/-- Some metadata of the set is invalid (R74). -/
def metaFault (x : WSet) (mode : Nat) : Bool :=
  decide (mode = 1) && x.cells.any fun r => r.any fun c => !nibbleOk (c.meta8 % 16) || !nibbleOk (c.meta8 / 16)

/-- The datum of one activation row for each of the 32 grid rows: operands and scale codes; and whether a code is UNUSED. -/
def activationRow (e : Engine) (p : Pass) (r : Nat) : List (List Fx) × List Nat × Bool :=
  let d := rAdesc p.words
  let a := vecAddr d r p.kpass
  let n := modeOps p.mode
  let bytes := spadRead e a.1 (vecBytes e p.aslot p.mode p.sub (modeK p.mode))
  if p.mode = 3 then ((List.range 32).map fun i => [wideOperand bytes (subA p.sub) i], List.replicate 32 127, false)
  else
    let sc := (List.range 32).map fun i => vecScale e d p.aslot p.mode a.2 (rowBlock p.mode i)
    let ops := (List.range 32).map fun i =>
      (List.range n).map fun q => vecCode e p.aslot bytes ((sc.getD i (127, false)).2) (n * i + q)
    (ops.map fun l => l.map Prod.fst, sc.map Prod.fst, ops.any fun l => l.any Prod.snd)

/-! ### One cell in one wave (R59) -/

/-- The activation operands that a cell's weights meet (R73). -/
def selectOps (mode mt : Nat) (ops : List Fx) : List Fx :=
  if mode = 1 then
    [ops.getD (bits mt 1 0) fxZero, ops.getD (bits mt 3 2) fxZero,
     ops.getD (4 + bits mt 5 4) fxZero, ops.getD (4 + bits mt 7 6) fxZero]
  else if mode = 2 then (List.range 4).map fun g => ops.getD (4 * g + bits mt (2 * g + 1) (2 * g)) fxZero
  else ops

/-- The exact sum of products (R47): no product but those given enters it, so that products of -0 alone sum to -0. -/
def dotExact (x y : List Fx) : Fx :=
  match List.zipWith fxMul x y with
  | [] => fxZero
  | v :: l => l.foldl fxAdd v

/-- A scaled sum (R33): NaN when a scale code is 0xFF, and an infinity with OVF when it reaches 2^128 (R45). -/
def scaleSum (x : Fx) (sa sw : Nat) : Fx × Bool :=
  match scaleExp sa sw with
  | none => (if fxIsPoison x then .poison else .nan, false)
  | some k =>
    match fxScale k x with
    | .fin s m e => if magGe m e 128 then (.inf s, true) else (.fin s m e, false)
    | y => (y, false)

/-- Steps 3 to 5 of R59 in one cell: the new partial sum and whether it overflowed. (log 17 DEDUCED) -/
def cellStep (mode : Nat) (c : WCell) (ops : List Fx) (sa : Nat) (partial_ : Fx) : Fx × Bool :=
  let x := scaleSum (dotExact (selectOps mode c.meta8 ops) c.w) sa c.sw
  let r := roundCol (fxAdd partial_ x.1)
  (r.1, x.2 || r.2)

/-- The cell (i, j) of a bank. -/
def bankCell (b : Option WSet) (i j : Nat) : WCell :=
  match b with
  | some x => (x.cells.getD i []).getD j { w := [], sw := 127, meta8 := 0 }
  | none => { w := [], sw := 127, meta8 := 0 }

/-- One wave of one row slot in a grid of n × n cells, 32 in an array and 16 in a quadrant (R61, R79): at age t its datum is at
cell (t - j, j) of every column j; the sums, and whether one overflowed. Only a valid row has sums. -/
def rowWave (n : Nat) (bank : Option WSet) (r : RowSlot) : RowSlot × Bool :=
  if r.kind != .valid then ({ r with age := r.age + 1 }, false) else
  let res := (List.range n).map fun j =>
    let old := r.sums.getD j fxZero
    if j ≤ r.age ∧ r.age - j < n then
      let i := r.age - j
      cellStep r.pass.mode (bankCell bank i j) (r.ops.getD i []) (r.sa.getD i 127) old
    else (old, false)
  ({ r with age := r.age + 1, sums := res.map Prod.fst }, res.any Prod.snd)

/-- What a row slot hands to the drain in a wave: column j's result after n + j + 1 waves (R61); fillers hand over nothing. -/
def rowLeaves (n : Nat) (r : RowSlot) : List DrainEntry :=
  if r.age < n + 1 then [] else
  let j := r.age - (n + 1)
  match r.kind with
  | .filler => []
  | .zeros rows => [{ col := j, zeros := some rows, value := fxZero, pass := r.pass }]
  | .valid => [{ col := j, tileRow := r.tileRow, value := r.sums.getD j fxZero, pass := r.pass }]

/-- Moves every row slot of a grid one wave on: the row slots still in it, the results that leave it, and the tiles in which a sum
overflowed (R45, R59, R61). -/
def gridStep (n : Nat) (b0 b1 : Option WSet) (rows : List RowSlot) : List RowSlot × List DrainEntry × List Nat :=
  let step := rows.map fun r => rowWave n (if r.bank = 0 then b0 else b1) r
  ((step.map Prod.fst).filter fun r => decide (r.age < 2 * n), (step.map Prod.fst).flatMap (rowLeaves n),
   (step.filter fun y => y.2).map fun y => y.1.pass.tile)

/-! ### The drain (R46, R68) -/

/-- A result enters an accumulator element: rounded to FP32, stored or added (R46); whether it is poison, and whether it
overflowed. -/
def drainElem (c : Acc) (k : Nat) (overwrite : Bool) (x : Fx) : Acc × Bool × Bool :=
  let r := round32 x
  let y := if overwrite then r else let y := add32 (elemFx c k) r.1; (y.1, y.2 || r.2)
  let p := fxIsPoison y.1
  (putElem c k (if p then elemAt c k else enc32 y.1) p, p, y.2)

/-- One drain buffer entry is written, with its flags in the tile; zeros clear the elements of their rows (R75, R78). -/
def drainOne (c : Acc) (d : DrainEntry) : Acc :=
  let t := d.pass.tile
  let v := tileOf c t
  let key (r : Nat) : Nat := elemKey t v r (32 * d.pass.half + d.col)
  match d.zeros with
  | some rows => rows.foldl (fun a r => putElem a (key r) 0 false) c
  | none =>
    let y := drainElem c (key d.tileRow) d.pass.overwrite d.value
    let v1 := { v with ovf := v.ovf || y.2.2 }
    setTile y.1 t (if y.2.1 then tilePoisoned v1 else v1)

/-- A pass has no result on its way. -/
def passSettled (x : Arr) (p : Pass) : Bool :=
  !x.rows.any (fun r => !isFiller r && r.pass.seqNo == p.seqNo) && !x.drain.any (fun d => d.pass.seqNo == p.seqNo)

/-- The pass wrote or zeroed every row of its half (R78, R99). -/
def passWhole (c : Acc) (p : Pass) : Bool :=
  (p.overwrite && (p.zero || p.rows.length == tileRows (tileOf c p.tile).shape)) || (p.zero && p.rows.isEmpty)

/-- A pass's last result is written: a whole overwrite or zeroing counts toward clearing POISON (R99), and the tile's last pass
closes its operations and waits for a queue entry (R128, R184). -/
def settleOne (xc : Arr × Acc) (p : Pass) : Arr × Acc :=
  let x := xc.1
  let c := xc.2
  if !passSettled x p then xc else
  let x1 := { x with fed := x.fed.filter fun q => q.seqNo ≠ p.seqNo }
  let v := tileOf c p.tile
  let c1 := if passWhole c p && halfClean c p.tile v p.half then setTile c p.tile (overHalf v p.half) else c
  if p.last then ({ x1 with held := x1.held ++ [(p.tile, p.seqNo)] }, closeOps c1 p.tile) else (x1, c1)

/-- Settles every fed pass that is done, oldest first. -/
def settle (x : Arr) (c : Acc) : Arr × Acc := x.fed.foldl settleOne (x, c)

/-- The drain writes its buffered results (R68): a credit returns with column 31 of each row. -/
def drainAll (x : Arr) (c : Acc) : Arr × Acc :=
  let c1 := x.drain.foldl drainOne c
  let back := (x.drain.filter fun d => d.col == 31 && d.zeros.isNone).length
  settle { x with drain := [], credits := min 64 (x.credits + back) } c1

/-! ### Runs and their positions -/

/-- The next pass of the run takes a new weight set. -/
def needsLoad (r : RunState) : Bool := !rReuse r.words && r.sub != 2

/-- The position after a K-pass. -/
def nextK (r : RunState) : Option RunState :=
  if r.kpass + 1 < rPasses r.words then
    some { r with kpass := r.kpass + 1, sub := if rX3 r.words then 1 else 0, fresh := false }
  else none

/-- The position after a pass: the next of three passes, or the next K-pass (R43). -/
def nextPos (r : RunState) : Option RunState :=
  if 1 ≤ r.sub ∧ r.sub < 3 then some { r with sub := r.sub + 1, fresh := false } else nextK r

/-- The occupancy bitmap bit of the run's next K-pass (R75): none outside the binding. -/
def bitmapBit (e : Engine) (r : RunState) : Option Bool :=
  if !rBitmapEn r.words then some true else
  let i := rBitmapIndex r.words + r.kpass
  let a := rBitmapAddr r.words + i / 8
  if spadOk e a 1 then some (bitAt (spadNat e a 1) (i % 8)) else none

/-- The position whose weight set comes after the next n that the run still takes (fuel: positions). (log 18 DEDUCED) -/
def loadPos (e : Engine) : Nat → Nat → RunState → Option RunState
  | 0, _, _ => none
  | f + 1, n, r =>
    match bitmapBit e r with
    | none => none
    | some false => match nextK r with | some q => loadPos e f n q | none => none
    | some true =>
      if needsLoad r && n == 0 then some r else
      match nextPos r with
      | some q => loadPos e f (if needsLoad r then n - 1 else n) q
      | none => none

/-! ### Banks and load buffers (R63, R64, R66) -/

/-- A bank. -/
def bankOf (x : Arr) (b : Nat) : Option WSet := if b = 0 then x.bank0 else x.bank1
/-- Sets a bank. -/
def setBank (x : Arr) (b : Nat) (v : Option WSet) : Arr := if b = 0 then { x with bank0 := v } else { x with bank1 := v }

/-- Both banks become invalid and both load buffers empty (R66). -/
def dropBanks (x : Arr) : Arr := { x with loads := [], bank0 := none, bank1 := none, lastSrc := none }

/-- The sets that no pass has taken yet. -/
def waitingLoads (x : Arr) : List Load := x.loads.filter fun l => !l.taken

/-- The bank that the next set is bound for (R63): the one that the pass before it does not use. -/
def loadBank (x : Arr) : Nat := match (waitingLoads x).getLast? with | some l => 1 - l.bank | none => 1 - x.lastBank

/-- Grid row i of a set stands in the bank. -/
def putGridRow (b : Option WSet) (v : WSet) (i : Nat) : WSet :=
  let old := match b with | some o => o.cells | none => List.replicate 32 []
  { v with cells := old.set i (v.cells.getD i []) }

/-- The read under way moves one grid row on. -/
def arriveWave : List Load → List Load
  | [] => []
  | l :: r => if l.arrived < 32 then { l with arrived := l.arrived + 1 } :: r else l :: arriveWave r

/-- A load writes a grid row in this wave: its whole set is in the buffer and its write has begun. -/
def writesNow (l : Load) : Bool := l.writing && l.arrived == 32 && decide (l.written < 32)

/-- The write under way moves one grid row on. -/
def writeWave : List Load → List Load
  | [] => []
  | l :: r => if writesNow l then { l with written := l.written + 1 } :: r else l :: writeWave r

/-- One wave of the shadow-load path (R64): one grid row into a buffer, one grid row out of a buffer into its bank. -/
def loadWave (x : Arr) : Arr :=
  let l := arriveWave x.loads
  let y := match l.find? writesNow with
    | some w => setBank x w.bank (some (putGridRow (bankOf x w.bank) w.set w.written))
    | none => x
  { y with loads := (writeWave l).filter fun w => !(w.taken && w.written == 32) }

/-- The sets loaded for a run that has ended without using them go; a bank that one was being written into is invalid. -/
def dropLoads (x : Arr) : Arr :=
  (waitingLoads x).foldl (fun y l => if 0 < l.written ∧ l.written < 32 then setBank y l.bank none else y)
    { x with loads := x.loads.filter Load.taken }

/-- The bank of the open pass has no grid row of its set yet: a pass resumed after a full save waits for its reload (R86). -/
def bankPending (x : Arr) (b : Nat) : Bool := x.loads.any fun l => l.taken && l.bank == b && l.written == 0

/-! ### Holds -/

/-- Rein at every sixteenth, or the slot's state, keeps new passes off the engine (R21, R22, R85). -/
def heldOff (s : State) (ge : Nat) : Bool := slotState s (slotOf s ge) != .inService || decide (16 ≤ sget 0 s.rein (dieOfGe ge))

/-- Rein or the slot's state holds new work off the engine (R21, R22, R85, R157): a duty of 16 sixteenths always, a duty
between for part of the interval, which part being open. -/
def issueHeld (s : State) (ge : Nat) : Bool × State :=
  if heldOff s ge then (true, s)
  else if sget 0 s.rein (dieOfGe ge) = 0 then (false, s)
  else (Config.freeBool s.free, { s with free := s.free + 1 })

/-- The scoreboard holds the run's first pass (R102, R185): a chain instruction issued earlier names its tile; or, without CONT, a
pass on the half has results on their way or a finished-tile read of the tile is outstanding. -/
def scoreHeld (e : Engine) (a : Nat) (r : RunState) : Bool :=
  let x := arrOf e a
  let t := rTile r.words
  r.fresh && (chainNames e a t r.tag.stamp
    || (!rCont r.words && (inFlightHalf x t (rHalf r.words) || !unread x (accOf e a) t)))

/-- The next pass of the run waits for its weight set (R64). -/
def loadWaits (e : Engine) (x : Arr) (r : RunState) : Bool :=
  needsLoad r && bitmapBit e r == some true && !((waitingLoads x).head?.any fun l => decide (1 ≤ l.written))

/-! ### Feeding -/

/-- The array's own reexecution, for REEXEC_WAVES (R186). -/
def arrReexec (e : Engine) (a : Nat) : Bool :=
  let x := arrOf e a
  (match x.run with | some r => r.reexec | none => false) || (match x.pass with | some p => p.reexec | none => false)

/-- The array is the lowest-numbered one that re-executes, so that a wave counts once for the engine (R186). -/
def reexecLead (e : Engine) (a : Nat) : Bool := arrReexec e a && !(List.range a).any fun b => arrReexec e b

/-- A wave in which arrays re-execute: REEXEC_WAVES, and the note of it beside a re-executed chain instruction (R186). -/
def reexecWave (e : Engine) : Engine :=
  { e with
    cnt := { e.cnt with reexecWaves := e.cnt.reexecWaves + 1 }
    chain := match e.chain.cur with
      | some r => if r.reexec then { e.chain with cur := some { r with shared := r.shared + 1 } } else e.chain
      | none => e.chain }

/-- The pass's last row has been fed: the pass boundary (R61). -/
def passBoundary (x : Arr) : Arr :=
  match x.pass with
  | none => x
  | some p => if p.nextRow < p.rows.length then x else { x with pass := none, fed := x.fed ++ [p] }

/-- The feeder sends the next row of the open pass (R59, R63, R76): it spends a credit. -/
def feedRow (e : Engine) (a : Nat) (x : Arr) (c : Acc) (p : Pass) : Arr × Acc :=
  let tr := p.rows.getD p.nextRow 0
  let d := activationRow (view e (uArr a) p.stamp) p tr
  let p1 := { p with nextRow := p.nextRow + 1 }
  let row : RowSlot := {
    slot := p.nextRow % 64, tileRow := tr, bank := p.bank, sa := d.2.1, ops := d.1, sums := List.replicate 32 fxZero, pass := p1 }
  let v := tileOf c p.tile
  let c1 := if d.2.2 then setTile c p.tile { v with code := true } else c
  (passBoundary { x with rows := x.rows ++ [row], pass := some p1, credits := x.credits - 1, liveBank := p.bank }, c1)

/-- A filler row (R71) on the live bank, or on the fixed pattern: it computes and is discarded, so it carries no sum and takes no
credit. (log 141 DEDUCED) -/
def fillerRow (x : Arr) : Arr := { x with rows := x.rows ++ [{ kind := .filler, bank := x.liveBank }] }

/-- Why the feeder sends no valid row in this wave (R69). -/
inductive Bubble where
  | none | dry | drain | load | idle
  deriving DecidableEq, Repr

/-- The feeder's choice in a wave: off says that rein or the slot's state holds the next pass.
 (log 30 DESIGN CHOICE; log 141 DEDUCED) -/
def feederChoice (e : Engine) (a : Nat) (dry off : Bool) : Bubble :=
  let x := arrOf e a
  match x.pass with
  | some p => if bankPending x p.bank then .load else if x.credits == 0 then .drain else if dry then .dry else .none
  | none => match x.run with
    | some r => if off then .idle else if scoreHeld e a r then .drain else if loadWaits e x r then .load else .idle
    | none => .idle

/-- Counts the wave (R92). -/
def countWave (c : Acc) (b : Bubble) (fill : Bool) : Acc :=
  match b with
  | .none => { c with validWaves := c.validWaves + 1 }
  | .load => { c with bubbleLoad := c.bubbleLoad + 1 }
  | .dry => { c with bubbleDry := c.bubbleDry + 1 }
  | .drain => if fill then { c with bubbleDry := c.bubbleDry + 1 } else { c with bubbleDrain := c.bubbleDrain + 1 }
  | .idle => if fill then { c with bubbleDry := c.bubbleDry + 1 } else c

/-- Moves every row slot one wave on, and the shadow-load path with them (R59, R61, R64): results that leave the grid enter the
drain buffers. Overflow sets OVF in its tile. (log 17 DEDUCED) -/
def gridWave (x : Arr) (c : Acc) : Arr × Acc :=
  let g := gridStep 32 x.bank0 x.bank1 x.rows
  (loadWave { x with rows := g.1, drain := x.drain ++ g.2.1 },
   g.2.2.foldl (fun c t => setTile c t { tileOf c t with ovf := true }) c)

/-- The finished-tile queue has 16 entries (R128). -/
def ftqFree (e : Engine) : Option Nat := (List.range 16).find? fun q => (sget none e.ftq q).isNone

/-- The array advances (R70): a pass is open, the grid or the drain holds something, or a run that nothing holds off waits. -/
def arrActive (x : Arr) (off : Bool) : Bool :=
  x.stop == .free && (x.pass.isSome || !x.rows.isEmpty || !x.drain.isEmpty || (x.run.isSome && !off))

/-- The governor has filler rows run on an engine's die (R71, R435, R444): asked for, and the die not reined. -/
def fillWanted (s : State) (ge : Nat) : Bool :=
  (sget {} s.power.dies (dieOfGe ge)).fill && sget 0 s.rein (dieOfGe ge) == 0

/-- One wave of an active array: the feeder, every cell, and the drain, which the write port's other work (busy) or a finished
tile without a queue entry (R128) holds. -/
def activeWave (s : State) (ge arr : Nat) (dry busy fill off : Bool) : State :=
  let e := eng s ge
  let x := arrOf e arr
  let c := accOf e arr
  let b := feederChoice e arr dry off
  let f : Arr × Acc := match x.pass, b with
    | some p, .none => feedRow e arr x c p
    | _, _ => (if fill then fillerRow x else x, c)
  let g := gridWave f.1 (countWave f.2 b fill)
  let d := if busy || (!g.1.held.isEmpty && (ftqFree e).isNone) then g else drainAll g.1 g.2
  let e1 := setAcc (setArr e arr d.1) arr d.2
  advance 5 (setEng s ge (if reexecLead e arr then reexecWave e1 else e1)) ge arr

/-! ### Shadow loads (R64) -/

/-- The weight operand's format conditions hold, so that it can be decoded (R39). -/
def weightFormatOk (e : Engine) (w : List W64) : Bool :=
  let d := rWdesc w
  if rMode w = 3 then decide (dType d = if rX3 w then 0 else 1) && decide (rWslot w = 0)
  else decide (dType d = 3) && slotValid e (rWslot w) && slotValid e (dSlot d) && slotWidth e (dSlot d) == slotWidth e (rWslot w)

/-- The address at which the weight set of a position leaves the binding (R165), if it does. -/
def weightFault (e : Engine) (r : RunState) : Option Nat :=
  match operandFault e (rWdesc r.words) (rWslot r.words) (rMode r.words) r.sub 128 r.kpass (List.range 32) with
  | some a => some a
  | none =>
    let m := dMeta (rWdesc r.words) + 1024 * r.kpass
    if decide (rMode r.words = 1 ∨ rMode r.words = 2) && !spadOk e m 1024 then some m else none

/-- The shadow-load path begins to read the next weight set that the run takes into the load buffer of the bank it is bound for,
decoding and checking it (R62, R64, R74); one set at a time, into an empty buffer. Under rein no new load starts (R85).
 (log 18 DEDUCED) -/
def execShadowLoadRead (ge arr : Nat) (s : State) : Host.Outcome State Fault Refusal :=
  ok (
    let h := issueHeld s ge
    let s := h.2
    let e := eng s ge
    let x := arrOf e arr
    match x.run with
    | none => s
    | some r =>
      let e := view e (uArr arr) r.tag.stamp
      let b := loadBank x
      if h.1 || x.stop != .free || x.loads.any (fun l => decide (l.arrived < 32) || l.bad || (l.bank == b && decide (l.written < 32)))
      then s else
      match loadPos e (3 * rPasses r.words + 1) (waitingLoads x).length r with
      | none => s
      | some q =>
        if !weightFormatOk e q.words || (weightFault e q).isSome then s else
        let v := weightSet e q.words q.kpass q.sub
        modArr s ge arr fun y => { y with loads := y.loads ++ [{ bank := b, set := v, bad := metaFault v (rMode q.words) }] })

/-- A set in its buffer may begin to go into its bank (R64): its last grid row arrives in the next wave at the latest, its bank
holds no other set for a pass to come, no open pass uses the bank, and every datum that names it has left grid row 0.
 (log 141 DEDUCED) -/
def bankWriteReady (x : Arr) (before : List Load) (l : Load) : Bool :=
  !l.writing && !l.bad && decide (31 ≤ l.arrived) && !before.any (fun y => y.bank == l.bank)
  && !(match x.pass with | some p => p.bank == l.bank | none => false)
  && x.rows.all fun r => r.kind != .valid || r.bank != l.bank || decide (32 ≤ r.age)

/-- Marks the first load that may begin its write. -/
def beginWrite (x : Arr) : List Load → List Load → List Load
  | _, [] => []
  | before, l :: r => if bankWriteReady x before l then { l with writing := true } :: r else l :: beginWrite x (before ++ [l]) r

/-- Once no datum names the bank, the buffered set goes into it, one grid row in each wave from the next on (R64).
 (log 18 DEDUCED) -/
def execShadowLoadBankWrite (ge arr : Nat) (s : State) : Host.Outcome State Fault Refusal :=
  ok (modArr s ge arr fun x => { x with loads := beginWrite x [] x.loads })

/-! ### Passes -/

/-- The rows a pass feeds: the row list's entries, or rows 0 to count - 1 (R76). -/
def passRows (e : Engine) (w : List W64) : List Nat :=
  if rRowlist w then (List.range (rRows w)).map fun i => spadNat e (rRowlistAddr w + i) 1
  else List.range (rRows w)

/-- A row list breaks R77. -/
def rowListBad (rows : List Nat) (height : Nat) : Bool :=
  rows.any (fun r => decide (64 ≤ r ∨ height ≤ r)) || !(rows.zip rows.tail).all fun p => decide (p.1 < p.2)

/-- The array refusal that the next pass of a run meets before its first wave (R39, R42, R65, R72, R75, R77), if any.
 (log 130 DESIGN CHOICE) -/
def passRefusal (e : Engine) (x : Arr) (c : Acc) (r : RunState) : Option Nat :=
  let w := r.words
  let ad := rAdesc w
  let wd := rWdesc w
  let v := tileOf c (rTile w)
  if (rMode w = 1 ∨ rMode w = 2) ∧ (dType wd ≠ 3 ∨ dType ad ≠ 3) then some 0x21
  else if !weightFormatOk e w ∨ !(if rMode w = 3 then decide (dType ad = if rX3 w then 0 else 1) && decide (rAslot w = 0)
      else decide (dType ad = 3) && slotValid e (rAslot w) && slotValid e (dSlot ad)
        && slotWidth e (dSlot ad) == slotWidth e (rAslot w)) then some 0x20
  else if needsLoad r && (waitingLoads x).head?.any Load.bad then some 0x22
  else if rowListBad (passRows e w) (tileRows v.shape) then some 0x23
  else if rReuse w ∧ x.lastSrc ≠ some (setSrc e w r.kpass r.sub) then some 0x24
  else if (bitmapBit e r).isNone then some 0x26
  else none

/-- The address at which an operand of the next pass leaves the binding (R165), if one does. -/
def passFault (e : Engine) (r : RunState) : Option Nat :=
  if bitmapBit e r != some true then none else
  match (if needsLoad r then weightFault e r else none) with
  | some a => some a
  | none => operandFault e (rAdesc r.words) (rAslot r.words) (rMode r.words) r.sub (modeK (rMode r.words)) r.kpass (passRows e r.words)

/-- Rows of the tile that the pass does not feed. (log 19 DEDUCED) -/
def absentRows (v : Tile) (rows : List Nat) : List Nat := (List.range (tileRows v.shape)).filter fun r => !rows.contains r

/-- +0 into rows of a half. (log 19 DEDUCED) -/
def zeroRows (c : Acc) (t h : Nat) (rows : List Nat) : Acc :=
  let v := tileOf c t
  rows.foldl (fun a r => (List.range 32).foldl (fun b j => putElem b (elemKey t v r (32 * h + j)) 0 false) a) c

/-- The drain zeroes rows for a pass (R75, R78) behind every earlier result of the half and ahead of every later one, without a
wave of its own: at once where no earlier result is on its way, else behind the youngest of them. (log 19 DEDUCED) -/
def zeroBehind (x : Arr) (c : Acc) (p : Pass) (rows : List Nat) : Arr × Acc :=
  if rows.isEmpty then (x, c)
  else if !inFlightHalf x p.tile p.half then (x, zeroRows c p.tile p.half rows)
  else
    match (x.rows.filter fun r => !isFiller r && r.pass.tile == p.tile && r.pass.half == p.half).getLast? with
    | some r => ({ x with rows := x.rows ++ [{ kind := .zeros rows, age := r.age, pass := p }] }, c)
    | none =>
      ({ x with drain := x.drain ++ (List.range 32).map fun j => { col := j, zeros := some rows, value := fxZero, pass := p } }, c)

/-- ADD_COUNT as a pass changes it (R100). -/
def countPass (v : Tile) (half : Nat) (overwrite whole : Bool) : Tile :=
  if overwrite then (if whole then setCount v half 0 else v) else addCount v half

/-- The pass at a run's position. -/
def passOf (e : Engine) (x : Arr) (r : RunState) (skip : Bool) : Pass :=
  let w := r.words
  let first := r.kpass == 0 && r.sub ≤ 1
  let final := decide (r.kpass + 1 = rPasses w) && (skip || r.sub == 0 || r.sub == 3)
  let rows := passRows e w
  { seqNo := (x.passSeq + 1).toNat, tile := rTile w, half := rHalf w, mode := rMode w, sub := r.sub, wslot := rWslot w,
    aslot := rAslot w, overwrite := first && rFirstOvw w, zero := if first then rPolFirst w else rPolRest w,
    last := rTileLast w && final, final := final, rows := rows, nextRow := if skip then rows.length else 0, words := w,
    kpass := r.kpass, reexec := r.reexec, stamp := r.tag.stamp,
    bank := match needsLoad r && !skip, (waitingLoads x).head? with | true, some l => l.bank | _, _ => x.lastBank }

/-- The first set that no pass has taken is taken. -/
def takeLoad : List Load → List Load
  | [] => []
  | l :: r => if l.taken then l :: takeLoad r else { l with taken := true } :: r

/-- The tile after a pass has begun: its chain is open, its additions counted (R100), and CODE set where the weight set decoded an
UNUSED code (R41). A skipped accumulating pass counts nothing (R75). -/
def passTile (v : Tile) (p : Pass) (skip code : Bool) : Tile :=
  let v1 := setChain v p.half true
  let v2 := if skip && !p.overwrite then v1 else countPass v1 p.half p.overwrite (p.zero || p.rows.length == tileRows v.shape)
  { v2 with code := v2.code || code }

/-- A pass begins: its zeros, its tile, its weight set, and the run's next position; a pass with no row to feed is at its boundary
at once. (log 133 DESIGN CHOICE) -/
def beginPass (e : Engine) (x : Arr) (c : Acc) (r : RunState) (skip : Bool) : Arr × Acc :=
  let p := passOf e x r skip
  let c0 := if r.fresh then logRun c p.tile p.half (rCont r.words) (r.addr, r.tag) else c
  let v := tileOf c p.tile
  let zeros := if skip then (if p.overwrite then p.rows ++ (if p.zero then absentRows v p.rows else []) else [])
    else if p.zero then absentRows v p.rows else []
  let z := zeroBehind x (setTile c0 p.tile (passTile v p skip false)) p zeros
  let y := { z.1 with passSeq := x.passSeq + 1, run := if skip then nextK r else nextPos r }
  if skip then settle { y with fed := y.fed ++ [p] } z.2
  else
    let code := match needsLoad r, (waitingLoads x).head? with
      | true, some l => l.set.code
      | _, _ => (match bankOf x p.bank with | some b => b.code | none => false)
    let v1 := tileOf z.2 p.tile
    let y1 := { y with
      pass := some p, lastBank := p.bank, lastSrc := some (setSrc e r.words r.kpass r.sub), modeBits := p.mode,
      loads := if needsLoad r then (takeLoad y.loads).filter (fun w => !(w.taken && w.written == 32)) else y.loads }
    settle (passBoundary y1) (setTile z.2 p.tile { v1 with code := v1.code || code })

/-- The run in progress ends without its further passes. -/
def dropRun (s : State) (ge arr : Nat) : State := modArr s ge arr fun y => { dropLoads y with run := none }

/-- The next pass of the run in progress begins feeding, is skipped under its bitmap, or is refused (R39, R64, R65, R75, R78,
R100 to R102, R184, R185). It waits for its weight set, for the scoreboard, and while rein or the slot's state holds issue.
 (log 133 DESIGN CHOICE) -/
def execPassStart (ge arr : Nat) (s : State) : Host.Outcome State Fault Refusal :=
  ok (
    let h := issueHeld s ge
    let s := h.2
    let e := eng s ge
    let x := arrOf e arr
    let c := accOf e arr
    match x.run, x.pass with
    | some r, none =>
      if h.1 || x.stop != .free || scoreHeld e arr r then s else
      let v := view e (uArr arr) r.tag.stamp
      match (if r.fresh then openRefusal x c r.words else none), passRefusal v x c r, passFault v r with
      | some code, _, _ => advance 5 (raiseSeq (dropRun s ge arr) ge code r.tag r.addr) ge arr
      | none, some code, _ => advance 5 (raiseArr (dropRun s ge arr) ge arr code r.tag) ge arr
      | none, none, some a => advance 5 (raiseSeq (dropRun s ge arr) ge cSPAD r.tag a) ge arr
      | none, none, none =>
        if loadWaits v x r then s else
        let y := beginPass v x c r (bitmapBit v r == some false)
        advance 5 (setEng s ge (setAcc (setArr e arr y.1) arr y.2)) ge arr
    | _, _ => s)

/-! ### Finished tiles (R128) -/

/-- The finished-tile descriptor of a tile. -/
def ftDescriptor (a t : Nat) (v : Tile) (seqNo : Nat) : W64 :=
  BitVec.ofNat 64 (a + 4 * t + 2 ^ 8 * v.shape + 2 ^ 10 * b2n v.poison + 2 ^ 11 * b2n v.ovf + 2 ^ 12 * b2n v.code
    + 2 ^ 13 * b2n v.longsum + 2 ^ 14 * max v.count0 v.count1 + 2 ^ 27 * v.owner + 2 ^ 39 * (seqNo % 2 ^ 25))

/-- A finished tile's descriptor enters the queue once every earlier pass on it has written its results (R102 rule 4) and an
entry is free; FINISHED is set. -/
def execFinishedTileRaise (ge arr tile : Nat) (s : State) : Host.Outcome State Fault Refusal :=
  ok (
    let e := eng s ge
    let x := arrOf e arr
    match x.held.find? fun y => y.1 == tile, ftqFree e with
    | some y, some q =>
      if inFlight x tile || x.stop != .free || slotStopped s ge then s else
      let c := accOf e arr
      let v := tileOf c tile
      let e1 := setAcc (setArr e arr { x with held := x.held.filter fun z => z.1 ≠ tile }) arr (setTile c tile { v with finished := true })
      setEng s ge { e1 with ftq := sset none e1.ftq q (some (ftDescriptor arr tile v y.2)) }
    | _, _ => s)

/-! ### Full-save stops (R86) -/

/-- The grid empties into the accumulator without feeding (R86): n waves. -/
def emptyGrid : Nat → Arr → Acc → Arr × Acc
  | 0, x, c => (x, c)
  | n + 1, x, c => let g := gridWave x c; let d := drainAll g.1 g.2; emptyGrid n d.1 d.2

/-- One array at a full-save stop: rows in the grid reach the accumulator, the pass keeps its position NEXT_ROW, banks and
buffers empty; finished descriptors of the context are raised again on restore (R86, R131). -/
def stopArray (e : Engine) (a : Nat) : Engine :=
  let d := emptyGrid 65 (arrOf e a) (accOf e a)
  setAcc (setArr e a { dropBanks d.1 with stop := .stopped }) a d.2

/-- Takes a context's unread descriptors off the queue, to be raised again (R131). -/
def holdFinished (e : Engine) (ctx : Nat) : Engine :=
  (List.range 16).foldl (fun t q =>
    match sget none t.ftq q with
    | some w =>
      if bits w.toNat 38 27 = ctx then
        let a := bits w.toNat 1 0
        let x := arrOf t a
        { setArr t a { x with held := x.held ++ [(bits w.toNat 7 2, bits w.toNat 63 39)] } with ftq := sset none t.ftq q none }
      else t
    | none => t) e

/-- A weight set that a pass under way had taken is read into its bank again; feeding waits for it. -/
def loadAgain (e : Engine) (x : Arr) (b : Nat) (w : List W64) (k sub : Nat) : Arr :=
  { x with loads := [{ bank := b, set := weightSet e w k sub, writing := true, taken := true }], lastBank := b,
           lastSrc := some (setSrc e w k sub) }

/-- The weight set that a run which goes on still needs from before its banks were lost: that of the suspended pass (R86), or,
between the first two of three passes, the one that both use. -/
def reloadBank (e : Engine) (a : Nat) (x : Arr) : Arr :=
  match x.pass, x.run with
  | some p, _ => loadAgain (view e (uArr a) p.stamp) x p.bank p.words p.kpass p.sub
  | none, some r => if r.sub = 2 then loadAgain (view e (uArr a) r.tag.stamp) x x.lastBank r.words r.kpass 1 else x
  | none, none => x

/-- A stopped array goes on: its weight set is read again (R86). -/
def reloadArray (e : Engine) (a : Nat) : Engine :=
  setArr e a { reloadBank e a (arrOf e a) with stop := .free }

/-! ### The wave -/

/-- One advance of an array (R59). A HELD or RETIRED slot's arrays stand still (R21); on an array that does not advance, only a
shadow load under way goes on (R70, R85); a packed array advances its quadrants (R79). -/
def arrayWave (s : State) (ge arr : Nat) (dry busy fill : Bool) : State :=
  let off := heldOff s ge
  if slotStopped s ge then s
  else if arrActive (arrOf (eng s ge) arr) off then activeWave s ge arr dry busy (fill && fillWanted s ge) off
  else modArr s ge arr fun x => if x.stop == .free then loadWave x else x

end Sys2Proof.Machine
end

