-- ==== Sys2Proof/Machine/Crypto.lean ====
section
/-! DEFINITION. Philox-4x32 (R149) and SHA-256, the published functions that the manual names. CRC-64 stands beside the
format loads that first use it. -/

namespace Sys2Proof.Machine

/-- One round of Philox-4x32 on counter words under key words. -/
def philoxRound (c : W32 × W32 × W32 × W32) (k0 k1 : W32) : W32 × W32 × W32 × W32 :=
  let p0 := 0xD2511F53 * c.1.toNat
  let p1 := 0xCD9E8D57 * c.2.2.1.toNat
  let hi (p : Nat) : W32 := BitVec.ofNat 32 (p / 2 ^ 32)
  let lo (p : Nat) : W32 := BitVec.ofNat 32 p
  (hi p1 ^^^ c.2.1 ^^^ k0, lo p1, hi p0 ^^^ c.2.2.2 ^^^ k1, lo p0)

/-- Rounds with key increments. -/
def philoxGo : Nat → (W32 × W32 × W32 × W32) → W32 → W32 → W32 × W32 × W32 × W32
  | 0, c, _, _ => c
  | n + 1, c, k0, k1 => philoxGo n (philoxRound c k0 k1) (k0 + 0x9E3779B9) (k1 + 0xBB67AE85)

/-- Philox-4x32-10: the output word r (0 to 3) for a seed, element index, step and tensor (R149). -/
def philox (seed index : W64) (step tensor : W32) (r : Nat) : W32 :=
  let x := philoxGo 10 (index.truncate 32, (index >>> 32).truncate 32, step, tensor) (seed.truncate 32) ((seed >>> 32).truncate 32)
  if r = 0 then x.1 else if r = 1 then x.2.1 else if r = 2 then x.2.2.1 else x.2.2.2

/-- The first 32 bits of the fractional part of the k-th root of a number under 512 (fuel: the bits of the scaled root still open):
the greatest x whose k-th power does not exceed the number scaled by 2^32k, found from its top bit down. -/
def rootBits (k p : Nat) : Nat → Nat → Nat
  | 0, x => x
  | n + 1, x => rootBits k p n (if (x + 2 ^ n) ^ k ≤ p * 2 ^ (32 * k) then x + 2 ^ n else x)

/-- The first 64 primes. -/
def primes64 : List Nat :=
  (List.range 312).filter fun n => decide (2 ≤ n) && (List.range n).all fun d => decide (d < 2) || n % d != 0

/-- The constants of SHA-256 as FIPS 180-4 defines them: of the cube roots of the first 64 primes one for each round, and of the
square roots of the first eight the initial chaining value. -/
def shaK : List W32 := primes64.map fun p => BitVec.ofNat 32 (rootBits 3 p 36 0)
def shaInit : List W32 := (primes64.take 8).map fun p => BitVec.ofNat 32 (rootBits 2 p 38 0)

/-- The exclusive or of a word turned right by several distances. -/
def turns (x : W32) (l : List Nat) : W32 := l.foldl (fun a n => a ^^^ x.rotateRight n) 0

/-- The chaining value during a block: the last four words of each of the two lines it feeds back, newest first. -/
structure ShaLines where
  a : List W32
  e : List W32

/-- The rounds whose constants are left, with the sixteen message words to come: each round consumes the oldest word and
makes the one that enters sixteen rounds later. -/
def shaRounds : List W32 → List W32 → ShaLines → ShaLines
  | [], _, v => v
  | k :: ks, m, v =>
    let at_ (l : List W32) (i : Nat) : W32 := l.getD i 0
    let pick := at_ v.e 2 ^^^ (at_ v.e 0 &&& (at_ v.e 1 ^^^ at_ v.e 2))
    let most := (at_ v.a 0 &&& at_ v.a 1) ||| (at_ v.a 2 &&& (at_ v.a 0 ||| at_ v.a 1))
    let sum := at_ v.e 3 + turns (at_ v.e 0) [6, 11, 25] + pick + k + at_ m 0
    let low := turns (at_ m 1) [7, 18] ^^^ at_ m 1 >>> 3
    let high := turns (at_ m 14) [17, 19] ^^^ at_ m 14 >>> 10
    shaRounds ks (m.drop 1 ++ [at_ m 0 + low + at_ m 9 + high])
      { a := (sum + turns (at_ v.a 0) [2, 13, 22] + most) :: v.a.take 3, e := (at_ v.a 3 + sum) :: v.e.take 3 }

/-- The big-endian bytes of a number. -/
def beBytes (n x : Nat) : List Byte := (leBytes n x).reverse

/-- The chaining value after a block of 64 bytes. -/
def shaBlock (h : List W32) (b : List Byte) : List W32 :=
  let v := shaRounds shaK ((chunk 4 16 b).map fun l => BitVec.ofNat 32 (leNat l.reverse)) { a := h.take 4, e := h.drop 4 }
  (h.zip (v.a ++ v.e)).map fun x => x.1 + x.2

/-- SHA-256 of a message: 32 bytes. The message is filled with a 1 bit and zeros to 8 bytes short of a block, and its length in bits
follows. -/
def sha256 (m : List Byte) : List Byte :=
  let fill := 0x80 :: List.replicate (63 - (m.length + 8) % 64) 0
  let whole := m ++ fill ++ beBytes 8 (8 * m.length)
  ((chunk 64 (whole.length / 64) whole).foldl shaBlock shaInit).flatMap fun w => beBytes 4 w.toNat

/-- HMAC-SHA-256 of RFC 2104. -/
def hmac256 (key m : List Byte) : List Byte :=
  let k := if 64 < key.length then sha256 key else key
  let pad (x : Byte) : List Byte := (k ++ List.replicate (64 - k.length) 0).map (x ^^^ ·)
  sha256 (pad 0x5C ++ sha256 (pad 0x36 ++ m))

end Sys2Proof.Machine
end

