-- ==== Sys2Proof/Machine/ChainOps.lean ====
section
/-! DEFINITION. The arithmetic of the vector chain: stage operations (R141, R142), curves (R144), statistics folds (R105,
R147), random draws (R149), and the encode stage (R50 to R54, R151 to R153). -/

namespace Sys2Proof.Machine

/-- A lane register: 32 bits and a poison mark (R141). -/
abbrev Lane := W32 × Bool

/-- The number in a lane register. -/
def laneFx (x : Lane) : Fx := if x.2 then .poison else dec32 x.1

/-- The lane of a rounded number. -/
def fxLane (x : Fx) : Lane := (enc32 x, fxIsPoison x)

/-- A result with its flags. -/
abbrev LaneRes := Lane × CFlags

/-- An arithmetic result: AOVF when a finite result overflowed, INV when NaN came from operands that are not NaN. -/
def arith (r : Fx × Bool) (ops : List Fx) : LaneRes :=
  (fxLane r.1, { aovf := r.2, inv := fxIsNan r.1 && !ops.any fxIsNan })

/-- The canonical NaN as a lane. -/
def nanLane : Lane := (0x7FC00000, false)

/-- 1.0 or +0. -/
def boolLane (b : Bool) : Lane := (if b then 0x3F800000 else 0, false)

/-- The largest finite FP32 value with a sign (R142). -/
def maxfLane (neg : Bool) : Lane := (if neg then 0xFF7FFFFF else 0x7F7FFFFF, false)

/-- MAX and MIN (R141): -0 < +0. -/
def pickMax (mx : Bool) (a b : Lane) : Lane :=
  let x := laneFx a
  let y := laneFx b
  if fxIsNan x || fxIsNan y then nanLane else
  let less := fxLt x y || (fxEq x y && fxSign x && !fxSign y)
  if less == mx then b else a

/-- CMP by condition code (R141). -/
def cmpHolds (cond : Nat) (x y : Fx) : Bool :=
  if fxIsNan x || fxIsNan y then cond == 1 || cond == 6
  else match cond with
    | 0 => fxEq x y
    | 1 => !fxEq x y
    | 2 => fxLt x y
    | 3 => fxLt x y || fxEq x y
    | 4 => fxLt y x
    | 5 => fxLt y x || fxEq x y
    | _ => false

/-- F2I (R141): nearest even, saturating with INV; NaN gives 0 with INV. -/
def toInt32 (x : Fx) : LaneRes :=
  let sat (s : Bool) : LaneRes := ((if s then 0x80000000 else 0x7FFFFFFF, false), { inv := true })
  match x with
  | .poison => ((0, true), {})
  | .nan => ((0, false), { inv := true })
  | .inf s => sat s
  | .fin s m e =>
    if magGe m e 33 then sat s else
    let v := if e ≥ 0 then m * 2 ^ e.toNat else rshiftNE m (-e).toNat
    let i : Int := if s then -(v : Int) else v
    if i < -(2 ^ 31) ∨ 2 ^ 31 ≤ i then sat s else ((BitVec.ofInt 32 i, false), {})

/-- Quotients with the results of R142. -/
def divLane (a b : Lane) : LaneRes :=
  let x := laneFx a
  let y := laneFx b
  match x, y with
  | .fin s _ _, .fin t n f =>
    if n = 0 then (maxfLane (s != t), { inv := true })
    else if fxIsZero x then (((if s != t then 0x80000000 else 0), false), {})
    else
      match x with
      | .fin _ m e => let q := divMag m n e f; arith (round32 (.fin (s != t) q.1 q.2)) [x, y]
      | _ => (nanLane, {})
  | .inf s, .fin t _ _ => (fxLane (.inf (s != t)), {})
  | _, _ => arith (div32 x y, false) [x, y]

/-- RSQRT (R141, R142). -/
def rsqrtLane (a : Lane) : LaneRes :=
  match laneFx a with
  | .fin s m e =>
    if m = 0 then (maxfLane s, { inv := true })
    else if s then (maxfLane false, { inv := true })
    else (fxLane (rsqrt32 a.1 m e), {})
  | .inf s => if s then (maxfLane false, { inv := true }) else ((0, false), {})
  | .nan => (nanLane, {})
  | .poison => ((0, true), {})

/-- SQRT (R142). -/
def sqrtLane (a : Lane) : LaneRes :=
  match laneFx a with
  | .fin s m e =>
    if m = 0 then (a, {})
    else if s then ((0, false), { inv := true })
    else let r := sqrtMag m e; (fxLane (round32 (.fin false r.1 r.2)).1, {})
  | .inf s => if s then ((0, false), { inv := true }) else (a, {})
  | .nan => (nanLane, {})
  | .poison => ((0, true), {})

/-- The curve segment for x: the last with X_LO ≤ x, or segment 0 (R144). -/
def curveSeg (l : List CurveSeg) (x : Fx) : CurveSeg :=
  let start : CurveSeg := l.headD { xlo := 0, c0 := 0, c1 := 0, c2 := 0 }
  l.foldl (fun b g => if fxLt x (dec32 g.xlo) then b else g) start

/-- The polynomial of a segment, and whether one of its three roundings overflowed (R144 step 4, R154). -/
def curvePoly (l : List CurveSeg) (x : Fx) : Fx × Bool :=
  let g := curveSeg l x
  let t := add32 x (fxNeg (dec32 g.xlo))
  let u := fma32 (dec32 g.c2) t.1 (dec32 g.c1)
  let v := fma32 u.1 t.1 (dec32 g.c0)
  (v.1, t.2 || u.2 || v.2)

/-- CURVE at a lane (R144). -/
def curveLane (c : CurveSlot) (a : Lane) : LaneRes :=
  let x := laneFx a
  let core (y : Fx) : Fx × Bool := match y with
    | .inf s => (if s then dec32 c.yNegInf else dec32 c.yPosInf, false)
    | z => curvePoly c.segs z
  match x with
  | .poison => ((0, true), {})
  | .nan => (nanLane, {})
  | _ =>
    if c.sym = 0 then arith (core x) [x]
    else
      let y := core (fxAbs x)
      let z := if c.sym = 1 ∧ fxSign x then fxNeg y.1 else y.1
      arith (z, y.2) [x]

/-- A random draw of the form MOD[3:2] from word MOD[1:0] (R149). -/
def randLane (md : Nat) (imm : W32) (r : W32) : Lane :=
  let u := r.toNat / 256
  match md / 4 % 4 with
  | 0 => (r, false)
  | 1 => fxLane (.fin false u (-24))
  | _ => boolLane (fxLt (.fin false u (-24)) (dec32 imm))

/-- An element-wise stage operation (R141). The operands that an operation does not read do not poison it. -/
def stageOp (op md : Nat) (imm : W32) (bImm : Bool) (curve : CurveSlot) (rnd : W32) (a b c : Lane) : LaneRes :=
  let x := laneFx a
  let y := laneFx b
  let z := laneFx c
  let sh := b.1.toNat % 32
  let used : List Lane :=
    if op = 0x01 then (if bImm then [] else [a])
    else if op = 0x28 then []
    else if op = 0x05 ∨ op = 0x0B ∨ op = 0x0C then [a, b, c]
    else if op = 0x08 ∨ op = 0x09 ∨ op = 0x10 ∨ op = 0x12 ∨ op = 0x13 ∨ op = 0x14 ∨ op = 0x18 ∨ op = 0x19 ∨ op = 0x1A then [a]
    else [a, b]
  if used.any Prod.snd then ((0, true), { poison := true }) else
  match op with
  | 0x01 => (if bImm then (imm, false) else a, {})
  | 0x02 => arith (add32 x y) [x, y]
  | 0x03 => arith (add32 x (fxNeg y)) [x, y]
  | 0x04 => arith (mul32 x y) [x, y]
  | 0x05 => arith (fma32 x y z) [x, y, z]
  | 0x06 => (pickMax true a b, {})
  | 0x07 => (pickMax false a b, {})
  | 0x08 => ((a.1 &&& 0x7FFFFFFF, false), {})
  | 0x09 => ((a.1 ^^^ 0x80000000, false), {})
  | 0x0A => (boolLane (cmpHolds (md % 8) x y), {})
  | 0x0B => (if !fxIsNan z && !fxIsZero z then a else b, {})
  | 0x0C => (pickMax false (pickMax true a b) c, {})
  | 0x10 => divLane (0x3F800000, false) a
  | 0x11 => divLane a b
  | 0x12 => rsqrtLane a
  | 0x13 => sqrtLane a
  | 0x14 => curveLane curve a
  | 0x18 => toInt32 x
  | 0x19 => (let i := a.1.toInt; (fxLane (round32 (.fin (decide (i < 0)) i.natAbs 0)).1, {}))
  | 0x1A => (let r := roundBf x; arith r [x])
  | 0x1B => (let k := max (-1000) (min 1000 b.1.toInt); arith (round32 (fxScale k x)) [x])
  | 0x1C => ((a.1 + b.1, false), {})
  | 0x1D => ((a.1 &&& b.1, false), {})
  | 0x1E => ((a.1 ||| b.1, false), {})
  | 0x1F => ((a.1 ^^^ b.1, false), {})
  | 0x20 => ((a.1 <<< sh, false), {})
  | 0x21 => ((a.1 >>> sh, false), {})
  | 0x28 => (randLane md imm rnd, {})
  | _ => (a, {})

/-! ### Statistics (R105, R106, R147) -/

/-- One Welford fold of x into (m, M2) with the new count n, and whether a step overflowed (R105, R154). -/
def welford (m q x : Fx) (n : Nat) : Fx × Fx × Bool :=
  let delta := add32 x (fxNeg m)
  let m1 := add32 m (div32 delta.1 (u2f n))
  let dev := add32 x (fxNeg m1.1)
  let sq := mul32 delta.1 dev.1
  let q1 := add32 q sq.1
  (m1.1, q1.1, delta.2 || m1.2 || dev.2 || sq.2 || q1.2)

/-- One sum-of-squares fold, and whether a step overflowed (R105, R154). -/
def sumsq (u q x : Fx) : Fx × Fx × Bool :=
  let a := add32 u x
  let b := fma32 x x q
  (a.1, b.1, a.2 || b.2)

/-! ### The encode stage -/

/-- The usable codes of a slot with their values, in code order. -/
def slotCodes (e : Engine) (slot : Nat) : List (Nat × Fx) :=
  ((List.range (2 ^ slotWidth e slot)).filter fun c => !(slotEntry e slot c).2).map fun c => (c, (slotDecode e slot c).1)

/-- Codes with finite values. -/
def finiteCodes (l : List (Nat × Fx)) : List (Nat × Fx) := l.filter fun c => match c.2 with | .fin _ _ _ => true | _ => false

/-- NaN codes of a slot. -/
def nanCodes (l : List (Nat × Fx)) : List Nat := (l.filter fun c => fxIsNan c.2).map Prod.fst

/-- The code of a zero with a sign, or of the other zero (R54). (log 129 DESIGN CHOICE) -/
def zeroCode (l : List (Nat × Fx)) (neg : Bool) : Option Nat :=
  match l.find? fun c => fxIsZero c.2 && fxSign c.2 == neg with
  | some c => some c.1
  | none => (l.find? fun c => fxIsZero c.2).map Prod.fst

/-- Distance of two finite values. -/
def fxDist (a b : Fx) : Fx := fxAbs (fxAdd a (fxNeg b))

/-- The nearest code (R54): a tie goes to the value of smaller magnitude. (log 34 DEDUCED; log 129 DESIGN CHOICE) -/
def nearestCode (l : List (Nat × Fx)) (x : Fx) : Nat × Fx :=
  l.foldl (fun b c =>
    if fxLt (fxDist x c.2) (fxDist x b.2) ∨ (fxEq (fxDist x c.2) (fxDist x b.2) ∧ fxLt (fxAbs c.2) (fxAbs b.2)) then c else b)
    (l.headD (0, fxZero))

/-- The largest value at or below x, and the smallest above it. -/
def bracket (l : List (Nat × Fx)) (x : Fx) : Option (Nat × Fx) × Option (Nat × Fx) :=
  l.foldl (fun b c =>
    if fxLt x c.2 then (b.1, match b.2 with | some u => if fxLt c.2 u.2 then some c else b.2 | none => some c)
    else (match b.1 with | some u => if fxLt u.2 c.2 then some c else b.1 | none => some c, b.2)) (none, none)

/-- floor((x - a) / (b - a) * 2^24) for a ≤ x < b (R50). -/
def srFraction (a b x : Fx) : Nat :=
  match fxAdd x (fxNeg a), fxAdd b (fxNeg a) with
  | .fin _ m e, .fin _ n f =>
    let q := min e f
    (m * 2 ^ (e - q).toNat * 2 ^ 24) / (max 1 (n * 2 ^ (f - q).toNat))
  | _, _ => 0

/-- A finite value in range to a code: RNE, or SR with word r3 (R50, R54). A zero keeps its sign where it can. -/
def encFinite (l : List (Nat × Fx)) (x : Fx) (sr : Bool) (r3 : W32) : Nat :=
  let pick (c : Nat × Fx) : Nat := if fxIsZero c.2 then (zeroCode l (fxSign x)).getD c.1 else c.1
  if sr then
    match bracket l x with
    | (some a, some b) => if r3.toNat / 256 < srFraction a.2 b.2 x then pick b else pick a
    | (some a, none) => pick a
    | (none, some b) => pick b
    | (none, none) => 0
  else pick (nearestCode l x)

/-- The finite code of largest magnitude on a side, or of that side's extreme. -/
def maxCode (l : List (Nat × Fx)) (neg : Bool) : Nat × Fx :=
  l.foldl (fun b c => if neg then (if fxLt c.2 b.2 then c else b) else (if fxLt b.2 c.2 then c else b)) (l.headD (0, fxZero))

/-- The code of an infinity of a sign. -/
def infCode (l : List (Nat × Fx)) (neg : Bool) : Option Nat := (l.find? fun c => c.2 == .inf neg).map Prod.fst

/-- One element of a table target after scaling: its code and flags; blockScaled says that saturation is SATB (R51 to R53).
 (log 129 DESIGN CHOICE) -/
def encElem (l : List (Nat × Fx)) (slot : Nat) (x : Fx) (sr infOn blockScaled ovfBlock : Bool) (r3 : W32) : Nat × CFlags :=
  let fin := finiteCodes l
  let outOfRange (s : Bool) : Nat × CFlags :=
    let m := (maxCode fin s).1
    let c := if infOn ∧ slot = 1 then (infCode l s).getD m else m
    (c, { ovf := true })
  match x with
  | .poison => (0, { poison := true })
  | .nan =>
    let cs := nanCodes l
    let z := (zeroCode l false).getD 0
    (if cs.isEmpty then z else cs.getD (Config.nanPick slot % cs.length) z, { inv := true })
  | .inf s => outOfRange s
  | .fin s _ _ =>
    let top := maxCode fin s
    let beyond := if s then fxLt x top.2 else fxLt top.2 x
    if beyond then
      if blockScaled && !ovfBlock then (top.1, { satb := true })
      else outOfRange s
    else (encFinite fin x sr r3, {})

/-- The BF16 code of an FP32 lane (R50, R52, R53). -/
def encBf16 (a : Lane) (sr infOn : Bool) (r3 : W32) : Nat × CFlags :=
  let outOfRange (s : Bool) : Nat × CFlags := ((if infOn then 0x7F80 else 0x7F7F) + (if s then 0x8000 else 0), { ovf := true })
  match laneFx a with
  | .poison => (0, { poison := true })
  | .nan => (0x7FC0, { inv := true })
  | .inf s => outOfRange s
  | .fin s m e =>
    if fxLt (.fin false 255 120) (.fin false m e) then outOfRange s
    else if sr then
      let mag := a.1.toNat % 2 ^ 31
      ((mag + r3.toNat / 2 ^ 16) / 2 ^ 16 + (if s then 0x8000 else 0), {})
    else (encBf (roundBf (.fin s m e)).1, {})

/-- floor(log2) of a finite nonzero magnitude. -/
def fxLog2 : Fx → Int
  | .fin _ m e => (bitLen m : Int) - 1 + e
  | _ => 0

/-- The scale exponent of a block (R51): the code, whether it clamped above (R52), from the block's values.
 (log 128 DESIGN CHOICE) -/
def blockScale (emax : Int) (xs : List Fx) : Nat × Bool :=
  let amax := xs.foldl (fun b x => match x with | .fin _ _ _ => if fxLt b (fxAbs x) then fxAbs x else b | _ => b) fxZero
  if fxIsZero amax then (0, false) else
  let k := fxLog2 amax - emax
  if k < -127 then (0, false) else if 127 < k then (254, true) else ((k + 127).toNat, false)

/-- A block of 32 values to a table target: codes with poison, the scale byte with poison, and flags (R51 to R53, R152,
R153). (log 33 DEDUCED) -/
def encBlock (e : Engine) (slot : Nat) (perTensor : Nat) (xs : List Lane) (sr infOn : Bool) (rs : List W32) :
    List (Nat × Bool) × (Nat × Bool) × CFlags :=
  let l := slotCodes e slot
  let vs := xs.map laneFx
  let scaled := slotScale e slot == 1
  if scaled && vs.any fxIsNan then
    (xs.map fun x => (0, x.2), (255, xs.any Prod.snd), { inv := true, ovf := vs.any fxIsInf, poison := xs.any Prod.snd })
  else
    let sc := if scaled then blockScale (slotEmax e slot) vs else (perTensor, false)
    let k : Int := if slotScale e slot = 0 then 0 else 127 - (sc.1 : Int)
    let r := (vs.zip (xs.zip (rs ++ List.replicate 32 0))).map fun v =>
      let y := encElem l slot (fxScale k v.1) sr infOn scaled sc.2 v.2.2
      ((y.1, v.2.1.2), y.2)
    (r.map Prod.fst, (sc.1, xs.any Prod.snd), r.foldl (fun f y => f.or y.2) { ovf := scaled && sc.2 })

end Sys2Proof.Machine
end

