-- ==== Sys2Proof/Machine/Chain.lean ====
section
/-! DEFINITION. The vector chain's instructions: issue, curve slot loads, the program and its checks, the computation of an
instruction's outputs, completion and hardware faults (R128 to R158, R178). -/

namespace Sys2Proof.Machine

/-! ### Checks of a program (R140) -/

/-- Operations of R141. -/
def opDefined (o : Nat) : Bool :=
  decide (o ≤ 0x0C ∨ (0x10 ≤ o ∧ o ≤ 0x14) ∨ (0x18 ≤ o ∧ o ≤ 0x21) ∨ o = 0x28 ∨ o = 0x30 ∨ o = 0x31 ∨ o = 0x38)

/-- The modifiers that an operation defines (R141, R147 to R149, R151); an operation without one has MOD 0. -/
def modDefined (op md : Nat) : Bool :=
  if op = 0x0A then decide (md ≤ 6)
  else if op = 0x14 then decide (md < 32)
  else if op = 0x28 then decide (md < 12)
  else if op = 0x30 then decide (md ≤ 2)
  else if op = 0x31 then decide (md ≤ 1)
  else if op = 0x38 then decide (md < 256)
  else md == 0

/-- A stage uses a reserved field, operation or modifier encoding. -/
def stageBad (g : StageF) : Bool := g.resv || !opDefined g.op || !modDefined g.op g.md

/-- What stands after ENC may only be NOP or HASH with source 1; HASH with source 1 needs an earlier ENC (R140).
 (log 31 DEDUCED) -/
def orderBad : Bool → List StageF → Bool
  | _, [] => false
  | enc, g :: r =>
    let h1 := g.op == 0x31 && bitAt g.md 0
    (if enc then !(g.op == 0 || h1) else h1) || orderBad (enc || g.op == 0x38) r

/-- An input's kind and type fit. -/
def inFits (f : StreamF) : Bool :=
  match f.kind with
  | 0 => true
  | 1 => decide (f.ty ≤ 3)
  | 2 => f.ty == 0
  | 3 => f.ty == 0
  | 4 => f.ty == 4
  | _ => false

/-- An output's kind and type fit. -/
def outFits (f : StreamF) : Bool :=
  match f.kind with
  | 0 => true
  | 1 => true
  | 3 => f.ty == 0
  | 4 => f.ty == 4
  | 5 => true
  | 6 => decide (f.ty ≤ 2)
  | _ => false

/-- A program is refused with PROGRAM for its own words (R140, R151). (log 31 DEDUCED) -/
def progBad (p : ProgF) : Bool :=
  let sf := statForm p
  let merge := sf == 2
  let fold := decide (sf < 2)
  p.resv || p.stages.any stageBad
  || [p.in0, p.in1, p.in2, p.out0, p.out1].any (fun f => f.resv)
  || !(inFits p.in0 && inFits p.in1 && inFits p.in2 && outFits p.out0 && outFits p.out1)
  || decide (1 < (stagesOf p 0x38).length ∨ 1 < (stagesOf p 0x30).length ∨ 1 < (stagesOf p 0x31).length)
  || ((encStage p).isSome && sf != 3)
  || orderBad false p.stages
  || p.in1.kind == 4 || p.in2.kind == 4 || p.out1.kind == 4
  || ((p.in0.kind == 4) != merge) || ((p.out0.kind == 4) != fold)
  || (p.out1.kind != 0 && decide (3 ≤ p.out1.ty))
  || (p.out0.kind != 0 && p.out0.kind != 4 && (p.out0.ty == 4) != merge)
  || (merge && (!(p.out0.kind == 1 || p.out0.kind == 5) || decide (1 < (p.stages.filter fun g => g.op != 0).length)))
  || (match encStage p with
      | none => p.out0.kind != 0 && p.out0.ty == 3
      | some g => if encIsBf g then p.out0.ty != 1 else p.out0.ty != 3)

/-! ### Issue (R178, R187) -/

/-- Scalar registers that a program names: index base, step, and the tally register if it hashes. -/
def progRegs (e : Engine) (a : Nat) : List Nat × Nat × Bool :=
  match progWords e a with
  | some w => let p := progF w; ([p.index, p.step], if (stagesOf p 0x31).isEmpty then 0 else p.tally, p.tcont)
  | none => ([], 0, false)

/-- Chain tallies pending into a register. (log 38 DEDUCED) -/
def talliesInto (e : Engine) (r : Nat) : Nat :=
  let f (o : ChainOp) : Nat := match o with | .run _ _ _ _ p _ => if p = r then 1 else 0 | _ => 0
  (e.chain.queue.map f).sum + (match e.chain.cur with | some c => f c.op | none => 0)

/-- The tally register holds issue (R162), except that a continued tally goes straight on (R163). (log 38 DEDUCED) -/
def tallyHeld (e : Engine) (r : Nat) (cont : Bool) : Bool :=
  r != 0 && (if cont then decide (talliesInto e r < e.units.pendRegs.count r) else e.units.pendRegs.contains r)

/-- Changes the chain. -/
def modChain (e : Engine) (f : Chain → Chain) : Engine := { e with chain := f e.chain }

/-- Entries of the chain's queue, the one in progress included (R160). -/
def chainDepth (e : Engine) : Nat := e.chain.queue.length + b2n e.chain.cur.isSome

/-- Status clears and reads at the head of the queue take effect once no instruction is in progress (fuel: queue length). -/
def advanceChain : Nat → Engine → Engine
  | 0, e => e
  | f + 1, e =>
    if e.chain.cur.isSome then e else
    match e.chain.queue with
    | .cclr m :: r => advanceChain f { e with chain := { chainClear e.chain m with queue := r } }
    | .cstat rd :: r =>
      let v := BitVec.ofNat 64 (bits (chainStatus e.chain).toNat 7 0)
      advanceChain f (unpend (wrS (modChain e fun c => { c with queue := r }) rd v) rd)
    | _ => e

/-- Enters an operation into the chain's queue. -/
def enqueueChain (e : Engine) (o : ChainOp) (pend : Nat) : Engine :=
  let e1 := modChain e fun c => { c with queue := c.queue ++ [o] }
  let e2 := if pend = 0 then e1 else { e1 with units := { e1.units with pendRegs := e1.units.pendRegs ++ [pend] } }
  advanceChain 4 e2

/-- Issues a chain operation; with four in the queue, the one in progress included, issue waits. -/
def issueVch (s : State) (ge : Nat) (regs : List Nat) (bad : Bool) (op : Engine → Tag → ChainOp) (pend : Nat) : State :=
  if 4 ≤ chainDepth (eng s ge) then s else
  issue s ge regs fun s1 e t => if bad then raiseSeq s1 ge cILLEGAL t 0 else setEng s1 ge (enqueueChain e (op e t) pend)

/-- vch.run: the program at sRP over sRC elements, or IMM[13:0] with RC 0 (R178). -/
def execVchRun (ge rp rc : Nat) (imm : W32) (s : State) : Host.Outcome State Fault Refusal :=
  ok (
    let e := eng s ge
    let a := (rdS e rp).toNat
    let pr := progRegs e a
    let bad := decide (2 ^ 14 ≤ imm.toNat) || (rc != 0 && imm != 0)
    if tallyHeld e pr.2.1 pr.2.2 then s else
    issueVch s ge (rp :: rc :: pr.1) bad
      (fun x t => .run a (if rc = 0 then imm.toNat else (rdS x rc).toNat) ((List.range 16).map (rdD x))
        ((List.range 32).map (rdS x)) pr.2.1 t) pr.2.1)

/-- vch.crvld: curve slot IMM[4:0] (R178). -/
def execVchCrvld (ge dr : Nat) (imm : W32) (s : State) : Host.Outcome State Fault Refusal :=
  ok (issueVch s ge [] (decide (32 ≤ imm.toNat)) (fun e t => .curve imm.toNat (rdD e dr) t) 0)

/-- vch.cclr: the flags of IMM[7:1]; IMM[0] and IMM[31:8] must be 0. -/
def execVchCclr (ge : Nat) (imm : W32) (s : State) : Host.Outcome State Fault Refusal :=
  ok (issueVch s ge [] (decide (256 ≤ imm.toNat) || bitAt imm.toNat 0) (fun _ _ => .cclr imm.toNat) 0)

/-- vch.cstat: sRD takes CHAIN_STATUS[7:0] after every earlier chain instruction. -/
def execVchCstat (ge rd : Nat) (s : State) : Host.Outcome State Fault Refusal :=
  ok (issueVch s ge [rd] false (fun _ _ => .cstat rd) rd)

/-! ### Refusals and curve loads -/

/-- A chain refusal (SOURCE 2): the code is also left in CHAIN_STATUS (R155). -/
def raiseChain (s : State) (ge code : Nat) (t : Tag) (addr : Nat) : State :=
  raise (modEng s ge fun e => modChain e fun c => { c with faultCode := code }) ge 2 0 code t.pc (BitVec.ofNat 64 addr)

/-- Number n of the curve image, 4 bytes. -/
def imgW32 (d : List Byte) (o : Nat) : W32 := BitVec.ofNat 32 (leNat ((d.drop o).take 4))

/-- Segment records of a curve image. -/
def imgSegs (d : List Byte) (n : Nat) : List CurveSeg :=
  (List.range n).map fun i =>
    { xlo := imgW32 d (0x40 + 16 * i), c0 := imgW32 d (0x44 + 16 * i), c1 := imgW32 d (0x48 + 16 * i), c2 := imgW32 d (0x4C + 16 * i) }

/-- FP32 bits that are NaN or an infinity. -/
def notFinite (w : W32) : Bool := (w >>> 23) &&& 0xFF == 0xFF

/-- Breakpoints are not strictly increasing. -/
def notRising : List CurveSeg → Bool
  | a :: b :: r => !fxLt (dec32 a.xlo) (dec32 b.xlo) || notRising (b :: r)
  | _ => false

/-- A curve image breaks R145. -/
def curveImageBad (d : List Byte) : Bool :=
  let h := leNat (d.take 8)
  let n := bits h 6 0
  let segs := imgSegs d n
  n == 0 || decide (64 < n) || bits h 8 7 == 3 || bits h 15 9 != 0 || bits h 63 32 != 0
  || (((d.drop 0x18).take 0x28).any fun b => b != 0) || (((d.drop (0x40 + 16 * n)).take (16 * (64 - n))).any fun b => b != 0)
  || notRising segs
  || segs.any (fun g => notFinite g.xlo || notFinite g.c0 || notFinite g.c1 || notFinite g.c2)
  || notFinite (imgW32 d 8) || notFinite (imgW32 d 12)
  || leNat ((d.drop 16).take 8) != crc64 0 ((d.drop 0x40).take (16 * n))

/-- The slot that an accepted image gives (R143, R146). -/
def curveOfImage (d : List Byte) : CurveSlot :=
  let h := leNat (d.take 8)
  { valid := true, loaded := true, sym := bits h 8 7, curveId := bits h 31 16, yNegInf := imgW32 d 8, yPosInf := imgW32 d 12,
    tally := BitVec.ofNat 64 (leNat ((d.drop 16).take 8)), segs := imgSegs d (bits h 6 0) }

/-- Takes the head entry off the chain's queue, and what follows it that can take effect. -/
def popChain (e : Engine) : Engine := advanceChain 4 (modChain e fun c => { c with queue := c.queue.tail })

/-- A curve load at the head of the queue, with every earlier chain instruction done, reads its image: the slot is replaced
whole, or CURVE_LOAD is raised and the slot left as it was (R145). -/
def execCurveSlotLoad (ge : Nat) (s : State) : Host.Outcome State Fault Refusal :=
  ok (
    let e := eng s ge
    match e.chain.cur, e.chain.queue with
    | none, .curve slot d tg :: _ =>
      if slotStopped s ge then s else
      let pop (t : State) : State := modEng t ge popChain
      if dReserved d ∨ dSpace d ≠ 1 then pop (raiseSeq s ge cDESC tg 0) else
      match vRead s ge (dBase d) 1088 with
      | (.error c, t) => pop (raiseSeq t ge c.1 tg c.2)
      | (.ok img, t) =>
        let b := (raceBytes e uChain tg.stamp true (dBase d) img).map Prod.fst
        if img.any Prod.snd || curveImageBad b then pop (raiseChain t ge 0x27 tg (dBase d))
        else pop (modEng t ge fun x => { x with curves := sset {} x.curves slot (curveOfImage b) })
    | _, _ => s)

/-! ### Streams (R138, R168, R170) -/

/-- A refusal before the start: source, code, address. -/
abbrev ChainRef := Nat × Nat × Nat

/-- The SPACE that a stream kind needs (R171). -/
def kindSpace (k : Nat) : Nat := if k = 1 then 0 else if k = 5 then 1 else if k = 6 then 3 else 2

/-- What a memory-like stream's descriptor breaks: m is the bytes between elements, or 0 for stored codes of a width.
 (log 32 DEDUCED) -/
def plainStreamBad (d : List W64) (kind m width : Nat) : Option ChainRef :=
  if dReserved d ∨ dSpace d ≠ kindSpace kind ∨ dExt0 d = 0 then some (0, cDESC, 0)
  else if m = 0 then
    if dExt0 d % blockBytes width ≠ 0 ∨ dBase d % blockBytes width ≠ 0 ∨ !multOf (blockBytes width) (dStride1 d) then some (2, 0x22, dBase d)
    else none
  else if dBase d % m ≠ 0 ∨ !multOf m (dStride1 d) ∨ dExt0 d < m then some (2, 0x22, dBase d)
  else none

/-- The tile stream of a descriptor breaks R96 or walks past the tile (kind 2 or 3), or names a statistics tile of another
format (kind 4: form 0 or 2 Welford, 1 sum of squares). last is the highest position. (log 32 DEDUCED) -/
def tileStreamBad (e : Engine) (d : List W64) (kind form last : Nat) : Option ChainRef :=
  if dReserved d ∨ dSpace d ≠ 2 then some (0, cDESC, 0) else
  let c := accOf e (dArray d)
  let v := tileOf c (dTile d)
  if tileBad c (dTile d) e.seq.context then some (2, 0x25, 0)
  else if kind = 4 then (if v.format ≠ (if form = 1 then 2 else 1) then some (2, 0x25, 0) else none)
  else if v.format ≠ 0 ∨ tileRows v.shape * tileCols v.shape ≤ last then some (2, 0x25, 0)
  else none

/-- What an input stream breaks. -/
def inputBad (e : Engine) (f : StreamF) (d : List W64) (form n : Nat) : Option ChainRef :=
  if f.kind = 0 then none
  else if f.kind = 1 then
    if f.ty = 3 ∧ !slotValid e f.slot then some (2, 0x22, 0)
    else match plainStreamBad d 1 (if f.ty = 3 then 0 else typeBytes f.ty) (slotWidth e f.slot) with
      | some x => some x
      | none => (rowsInSpad e (inRanges e f d n)).map fun a => (2, 0x22, a)
  else tileStreamBad e d f.kind form (if f.kind = 4 then 0 else lastPos f n)

/-- One element of an FP32, BF16 or INT32 stream. -/
def readPlain (ty : Nat) (b : List PByte) : Lane :=
  let w := leNat (b.map Prod.fst)
  (BitVec.ofNat 32 (if ty = 1 then w * 2 ^ 16 else w), b.any Prod.snd)

/-- One stored code under its scale (R138): its lane and flags. -/
def readCode (e : Engine) (slot : Nat) (code : Nat × Bool) (scale : Nat × Bool) : LaneRes :=
  let x := slotDecode e slot code.1
  if code.2 || scale.2 || fxIsPoison x.1 then ((0, true), { poison := true })
  else if x.2 then (nanLane, { code := true })
  else if fxIsNan x.1 || scale.1 == 255 then (nanLane, {})
  else let y := round32 (fxScale ((scale.1 : Int) - 127) x.1); (fxLane y.1, { aovf := y.2 })

/-- The lanes of an input stream and the flags its read raises. -/
def readStream (e : Engine) (f : StreamF) (d : List W64) (n : Nat) : List Lane × CFlags :=
  let ps := (List.range n).map (streamPos f)
  if f.kind = 0 ∨ f.kind = 4 then (List.replicate n (0, false), {})
  else if f.kind = 1 ∧ f.ty = 3 then
    let w := slotWidth e f.slot
    let r := ps.map fun p =>
      let x := blockAddr d w p
      let sc : Nat × Bool := match slotScale e f.slot with
        | 1 => (match spadRead e x.2 1 with | b :: _ => (b.1.toNat, b.2) | [] => (127, false))
        | 2 => (dScaleCode d, false)
        | _ => (127, false)
      readCode e f.slot (codeAt w (spadRead e x.1 (blockBytes w)) (p % 32)) sc
    (r.map Prod.fst, r.foldl (fun a x => a.or x.2) {})
  else
    let l : List Lane :=
      if f.kind = 1 then
        let m := typeBytes f.ty
        ps.map fun p => readPlain f.ty (spadRead e (elemAddr d (dExt0 d / m) m p) m)
      else
        let c := accOf e (dArray d)
        ps.map fun p => (elemAt c (dTile d * 1024 + p), sget false c.poison (dTile d * 1024 + p))
    (l, { poison := l.any Prod.snd })

/-! ### The stages -/

/-- The lanes and results of a program under way: registers v0 to v7 as lists over the elements, flags, the operands that
ENC, STAT and HASH took. -/
structure Flow where
  v : List (List Lane)
  flags : CFlags
  enc : Option (StageF × List Lane)
  stat : Option (Nat × List Lane)
  hash : Option (List Lane)
  deriving DecidableEq, Repr

/-- What the random stage of an instruction draws from (R149). -/
structure Draw where
  seed : W64
  index : W64
  step : W32
  tensor : W32
  deriving DecidableEq, Repr

/-- Word r of element i. -/
def drawAt (r : Draw) (i w : Nat) : W32 := philox r.seed (r.index + BitVec.ofNat 64 i) r.step r.tensor w

/-- One stage over every element (R132, R141). -/
def runStage (e : Engine) (dr : Draw) (n : Nat) (x : Flow) (g : StageF) : Flow :=
  let reg (i : Nat) : List Lane := x.v.getD i []
  if g.op = 0 then x
  else if g.op = 0x38 then { x with enc := some (g, reg g.sa) }
  else if g.op = 0x30 then { x with stat := some (g.md % 4, reg g.sa) }
  else if g.op = 0x31 then { x with hash := some (reg g.sa) }
  else
    let cv := sget {} e.curves (g.md % 32)
    let bs := if g.bImm then List.replicate n (g.imm, false) else reg g.sb
    let r := ((reg g.sa).zip (bs.zip (reg g.sc))).zipIdx.map fun y =>
      let rnd := if g.op = 0x28 then drawAt dr y.2 (g.md % 4) else 0
      stageOp g.op g.md g.imm g.bImm cv rnd y.1.1 y.1.2.1 y.1.2.2
    { x with v := x.v.set g.dst (r.map Prod.fst), flags := r.foldl (fun a y => a.or y.2) x.flags }

/-- The registers after the eight stages. -/
def runStages (e : Engine) (dr : Draw) (n : Nat) (p : ProgF) (ins : List (List Lane)) (f : CFlags) : Flow :=
  let z := List.replicate n ((0 : W32), false)
  p.stages.foldl (runStage e dr n) { v := ins ++ List.replicate 5 z, flags := f, enc := none, stat := none, hash := none }

/-! ### Outputs -/

/-- Bytes at an address, by group: what one piece of an output writes. -/
abbrev OutBytes := Nat × Nat × List PByte

/-- Joins neighbouring pieces of one group (k region bytes for each m data bytes). -/
def joinOut (k m : Nat) : List OutBytes → List OutBytes
  | [] => []
  | x :: r =>
    match joinOut k m r with
    | y :: t => if x.1 = y.1 ∧ y.2.1 = x.2.1 + x.2.2.length / m * k then (x.1, x.2.1, x.2.2 ++ y.2.2) :: t else x :: y :: t
    | [] => [x]

/-- The region's element size at a combine stream's base, or the type's own (R170). -/
def cmbStep (s : State) (ge : Nat) (f : StreamF) (d : List W64) : Except ChainRef Nat × State :=
  match cmbAt s ge (dBase d) with
  | (.error _, t) => (.error (2, 0x22, dBase d), t)
  | (.ok (_, some c), t) => (.ok (elemBytes c.elem), t)
  | (.ok (_, none), t) => (.ok (typeBytes f.ty), t)

/-- Pieces of a lane output of FP32, BF16 or INT32 to a memory-like stream; the flags of BF16 rounding. -/
def laneBytes (f : StreamF) (d : List W64) (step : Nat) (l : List Lane) : List OutBytes × CFlags :=
  let r := l.zipIdx.map fun x =>
    let a := elemAddr d (dExt0 d / step) step x.2
    if f.ty = 1 then
      let y := roundBf (laneFx x.1)
      ((x.2 / 128, a, (leBytes 2 (encBf y.1)).map (·, x.1.2)), y.2)
    else ((x.2 / 128, a, (leBytes 4 x.1.1.toNat).map (·, x.1.2)), false)
  (r.map Prod.fst, { aovf := r.any Prod.snd })

/-- Writes of lanes to an FP32 tile (R138, R158). (log 35 DEDUCED) -/
def laneTile (d : List W64) (l : List Lane) : List (Nat × ChainOut) × CFlags :=
  let nan := l.any fun x => !x.2 && fxIsNan (dec32 x.1)
  let p := l.any Prod.snd
  (l.zipIdx.map (fun x => (x.2 / 128, .tileEl (dArray d) (dTile d * 1024 + x.2) x.1.1 x.1.2))
    ++ [((l.length - 1) / 128, .tflag (dArray d) (dTile d) p nan false false)], { inv := nan })

/-- The pieces of ENC (R151 to R153): OUT0, the scale bytes by block, and flags. (log 33 DEDUCED) -/
def encPieces (e : Engine) (dr : Draw) (g : StageF) (d : List W64) (st : Nat) (l : List Lane) : List OutBytes × List PByte × CFlags :=
  let sr := bitAt g.md 6
  let io := bitAt g.md 7
  if encIsBf g then
    let r := l.zipIdx.map fun x =>
      let y := encBf16 x.1 sr io (if sr then drawAt dr x.2 3 else 0)
      ((x.2 / 128, elemAddr d (dExt0 d / st) st x.2, (leBytes 2 y.1).map (·, x.1.2)), y.2)
    (r.map Prod.fst, [], r.foldl (fun a x => a.or x.2) {})
  else
    let slot := g.md % 32
    let w := slotWidth e slot
    let blocks := (chunk 32 l.length l).zipIdx
    let r := blocks.map fun x =>
      let xs := x.1 ++ List.replicate (32 - x.1.length) ((0 : W32), false)
      let rs := if sr then (List.range x.1.length).map fun i => drawAt dr (32 * x.2 + i) 3 else []
      let y := encBlock e slot (g.imm.toNat % 256) xs sr io rs
      let bytes := packCodes w (y.1.map Prod.fst)
      let pz (i : Nat) : Bool := y.1.zipIdx.any fun c => c.1.2 && decide (c.2 * w / 8 ≤ i ∧ i ≤ (c.2 * w + w - 1) / 8)
      ((x.2 / 4, (blockAddr d w (32 * x.2)).1, bytes.zipIdx.map fun b => (b.1, pz b.2)),
       (BitVec.ofNat 8 y.2.1.1, y.2.1.2), y.2.2)
    (r.map Prod.fst, r.map fun x => x.2.1, r.foldl (fun a x => a.or x.2.2) {})

/-- Inserts a piece by address. -/
def insPiece (x : OutBytes) : List OutBytes → List OutBytes
  | [] => [x]
  | y :: r => if x.2.1 < y.2.1 then x :: y :: r else y :: insPiece x r

/-- A piece as an output of a stream's kind. -/
def pieceOut (f : StreamF) (d : List W64) (x : OutBytes) : Nat × ChainOut :=
  (x.1, if f.kind = 1 then .spad x.2.1 x.2.2 else if f.kind = 5 then .mem x.2.1 x.2.2
        else .cmb x.2.1 (dContrib d) (dEpoch d) f.ty x.2.2)

/-- Folds of STAT (R105, R106): each element into the pair of its row and column, in element order. (log 35 DEDUCED) -/
def statFold (e : Engine) (form : Nat) (d : List W64) (l : List Lane) : List (Nat × ChainOut) × CFlags :=
  let a := dArray d
  let t := dTile d
  let c := accOf e a
  let w := tileCols (tileOf c t).shape
  let rows := (chunk w l.length l).zipIdx
  let r := rows.map fun x =>
    let row := dRow0 d + x.2
    let n0 := (sget 0 c.counts (32 * t + row)).toNat
    let full := n0 == 2 ^ 32 - 1
    let n1 := if full then n0 else n0 + 1
    let els := x.1.zipIdx.map fun y =>
      let k := t * 1024 + 2 * (row * w + y.2)
      let m := elemFx c k
      let q := elemFx c (k + 1)
      let v := laneFx y.1
      let f := if full then (m, q, false) else if form = 0 then welford m q v n1 else sumsq m q v
      let p := fxIsPoison m || fxIsPoison q || (fxIsPoison v && !full)
      ((k, f, p), !p && !full && (fxIsNan v || fxIsInf v || fxIsNan f.1 || fxIsNan f.2.1), fxIsPoison v)
    let g := (x.2 * w + w - 1) / 128
    let inv := els.any fun y => y.2.1
    let pz := els.any fun y => y.1.2.2
    let long := decide (n1 = 4097) && !full
    ((els.flatMap fun y => [(g, ChainOut.tileEl a y.1.1 (enc32 y.1.2.1.1) y.1.2.2), (g, ChainOut.tileEl a (y.1.1 + 1) (enc32 y.1.2.1.2.1) y.1.2.2)])
      ++ [(g, .count a (32 * t + row) (BitVec.ofNat 32 n1)), (g, .tflag a t pz inv long full)],
     ({ inv := inv, aovf := els.any (fun y => y.1.2.1.2.2 && !y.1.2.2), poison := els.any (fun y => y.2.2), longsum := long } : CFlags))
  (r.flatMap Prod.fst, r.foldl (fun b x => b.or x.2) {})

/-- The merged triple of a row (R147): its 16 bytes and whether it is poison or gives NaN from other values.
 (log 35 DEDUCED) -/
def mergeRow (e : Engine) (d : List W64) (row : Nat) : List PByte × CFlags :=
  let c := accOf e (dArray d)
  let t := dTile d
  let w := tileCols (tileOf c t).shape
  let n := (sget 0 c.counts (32 * t + row)).toNat
  let ps := (List.range w).map fun j => let k := t * 1024 + 2 * (row * w + j); (elemFx c k, elemFx c (k + 1))
  let p := ps.any fun x => fxIsPoison x.1 || fxIsPoison x.2
  let r := ps.foldl (fun (a : Nat × Fx × Fx × Bool) x =>
    let y := mergeTriple a.1 a.2.1 a.2.2.1 n x.1 x.2
    (y.1, y.2.1, y.2.2.1, a.2.2.2 || y.2.2.2.2)) (0, fxZero, fxZero, false)
  let inv := !p && (fxIsNan r.2.1 || fxIsNan r.2.2.1) && !ps.any fun x => fxIsNan x.1 || fxIsNan x.2
  ((leBytes 4 r.1 ++ leBytes 4 (enc32 r.2.1).toNat ++ leBytes 4 (enc32 r.2.2.1).toNat ++ leBytes 4 0).map (·, p),
   { poison := p, inv := inv, aovf := !p && r.2.2.2 })

/-! ### The start (R129, R130, R134, R135, R140, R155) -/

/-- The tile that a run record at a scratchpad address names. -/
def recTile (e : Engine) (a : Nat) : Nat := bits (spadNat e a 8) 5 0

/-- An earlier operation still names a tile: queued, running, to be re-executed, or with results on their way (R102). -/
def earlierTileOp (e : Engine) (a t stamp : Nat) : Bool :=
  let x := arrOf e a
  let c := accOf e a
  let names (o : ArrOp) : Bool := match o with | .run r _ => recTile e r == t | o => opTile o == t
  x.queue.any (fun o => decide ((arrTag o).stamp < stamp) && names o)
  || (match x.run with | some r => rTile r.words == t && decide (r.tag.stamp < stamp) | none => false)
  || c.reexecQ.any (fun r => recTile e r.1 == t)
  || inFlight x t

/-- The queue entry of a finished tile of the running context (R129). -/
def ftFind (e : Engine) (a t : Nat) : Option Nat :=
  (List.range 16).find? fun q => match sget none e.ftq q with
    | some w => bits w.toNat 1 0 == a && bits w.toNat 7 2 == t && bits w.toNat 38 27 == e.seq.context
    | none => false

/-- Whether a tile stream is ready. (log 139 DEDUCED) -/
inductive TileWait where
  | ready | wait | deadlock
  deriving DecidableEq, Repr

/-- A finished-tile read waits for its descriptor, a plain read and a write for every earlier writer, and a write also for
any outstanding finished-tile read that this instruction does not make itself (R102, R129, R130).
 (log 36 DEDUCED; log 139 DEDUCED) -/
def tileWait (e : Engine) (plain : Bool) (own : List (Nat × Nat)) (stamp : Nat) (out : Bool) (f : StreamF) (d : List W64) : TileWait :=
  if !(f.kind == 2 || f.kind == 3 || f.kind == 4) || dReserved d || dSpace d != 2 then .ready else
  let a := dArray d
  let t := dTile d
  let c := accOf e a
  let held := (arrOf e a).held.any fun y => y.1 == t
  if !out && f.kind == 2 && !plain then
    if (ftFind e a t).isSome then .ready
    else if earlierTileOp e a t stamp then .wait
    else if held then (if (ftqFree e).isNone then .deadlock else .wait)
    else if tileBad c t e.seq.context || (tileOf c t).format != 0 then .ready else .wait
  else if earlierTileOp e a t stamp then .wait
  else if plain && held then (if (ftqFree e).isNone then .deadlock else .wait)
  else if out && (tileOf c t).finished && !own.contains (a, t) && !tileBad c t e.seq.context then .wait
  else .ready

/-- The first of several refusals. -/
def firstBad (l : List (Option ChainRef)) : Option ChainRef := l.findSome? id

/-- Bytes between elements of OUT1's scale stream, or of a lane output. -/
def outStep (f : StreamF) (scales : Bool) : Nat := if scales then 1 else typeBytes f.ty

/-- Everything the instruction is about to do: outputs by group, flags, and its tally. -/
abbrev ChainWork := List (Nat × ChainOut) × CFlags × Option (Nat × W64)

/-- Region bytes that n bytes of contribution data cover from a virtual address (R110, R170). -/
def outSpan (s : State) (ge va n : Nat) : Nat × State :=
  match cmbAt s ge va with
  | (.ok (_, some c), t) => (n / dataBytes c * elemBytes c.elem, t)
  | (_, t) => (n, t)

/-- The outputs of the two streams' address ranges must be mapped (memory and combine) and lie in the binding (R140). -/
def outsMapped (ge : Nat) : List (Nat × ChainOut) → State → Option ChainRef × State
  | [], s => (none, s)
  | (_, .spad a d) :: r, s => if spadOk (eng s ge) a d.length then outsMapped ge r s else (some (2, 0x22, a), s)
  | (_, .mem a d) :: r, s =>
    match vPieces s (walker ge) (eng s ge).seq.context .write a d.length with
    | (.error c, t) => (some (2, 0x22, c.2), t)
    | (.ok _, t) => outsMapped ge r t
  | (_, .cmb a _ _ _ d) :: r, s =>
    let x := outSpan s ge a d.length
    match cPieces x.2 (walker ge) (eng s ge).seq.context a x.1 with
    | (.error c, t) => (some (2, 0x22, c.2), t)
    | (.ok _, t) => outsMapped ge r t
  | _ :: r, s => outsMapped ge r s

/-- Scratchpad ranges of outputs. -/
def outRanges (l : List (Nat × ChainOut)) : List (Nat × Nat) :=
  l.filterMap fun x => match x.2 with | .spad a d => some (a, d.length) | _ => none

/-- The checks of a program over its streams, in the order program, count, curves, encode target, streams (R134, R140, R146,
R147, R151). (log 31 DEDUCED) -/
def startBad (e : Engine) (p : ProgF) (n : Nat) (ds : Nat → List W64) : Option ChainRef :=
  let form := statForm p
  let g := encStage p
  let badEnc := match g with
    | some g => !encIsBf g && (!slotValid e (g.md % 32) || !slotEncodable e (g.md % 32))
    | none => false
  let e8 := match g with | some g => !encIsBf g && slotScale e (g.md % 32) == 1 | none => false
  let badCurve := p.stages.any fun x => x.op == 0x14 && !(sget {} e.curves (x.md % 32)).valid
  if n = 0 ∨ 8192 < n then some (2, 0x21, 0)
  else if badCurve then some (2, 0x23, 0)
  else if badEnc then some (2, 0x24, 0)
  else if e8 ∧ !(p.out1.kind == 1 || p.out1.kind == 5) then some (2, 0x20, 0)
  else
    let rowsOf (f : StreamF) : Nat × Nat :=
      let v := tileOf (accOf e (dArray (ds f.dreg))) (dTile (ds f.dreg)); (tileRows v.shape, tileCols v.shape)
    let outBad (f : StreamF) (one : Bool) : Option ChainRef :=
      if f.kind = 0 ∨ f.kind = 6 then none
      else if f.kind = 1 ∨ f.kind = 5 then
        let codes := !one && f.ty == 3
        if codes && !slotValid e f.slot then some (2, 0x22, 0)
        else plainStreamBad (ds f.dreg) f.kind (if codes then 0 else outStep f (one && e8))
          (match g with | some g => slotWidth e (g.md % 32) | none => 8)
      else tileStreamBad e (ds f.dreg) f.kind form (if f.kind = 4 then 0 else n - 1)
    let foldBad : Option ChainRef :=
      if form < 2 then
        let rc := rowsOf p.out0
        if n % rc.2 ≠ 0 ∨ rc.1 < dRow0 (ds p.out0.dreg) + n / rc.2 then some (2, 0x21, 0) else none
      else if form = 2 then
        if 64 < n ∨ (rowsOf p.in0).1 < dRow0 (ds p.in0.dreg) + n then some (2, 0x21, 0) else none
      else none
    firstBad [inputBad e p.in0 (ds p.in0.dreg) form n, inputBad e p.in1 (ds p.in1.dreg) form n,
      inputBad e p.in2 (ds p.in2.dreg) form n, outBad p.out0 false, outBad p.out1 true, foldBad]

/-- The step of a combine output, with its descriptor's checks; for other kinds 0. -/
def combineStep (s : State) (ge : Nat) (f : StreamF) (d : List W64) : Except ChainRef Nat × State :=
  if f.kind ≠ 6 then (.ok 0, s)
  else if dReserved d ∨ dSpace d ≠ 3 ∨ dExt0 d = 0 then (.error (0, cDESC, 0), s)
  else
    match cmbStep s ge f d with
    | (.error c, t) => (.error c, t)
    | (.ok m, t) => match plainStreamBad d 6 m 8 with | some c => (.error c, t) | none => (.ok m, t)

/-- A lane output of a stream: its pieces and flags. -/
def laneOut (f : StreamF) (d : List W64) (cstep : Nat) (l : List Lane) : List (Nat × ChainOut) × CFlags :=
  if f.kind = 0 then ([], {})
  else if f.kind = 3 then laneTile d l
  else
    let step := if f.kind = 6 then cstep else typeBytes f.ty
    let r := laneBytes f d step l
    ((joinOut step (typeBytes f.ty) r.1).map (pieceOut f d), r.2)

/-- The tally (R148): the bytes hashed from the start value, or all ones where an element is poison. (log 38 DEDUCED) -/
def tallyOf (start : W64) (b : List PByte) : W64 :=
  if b.any Prod.snd then 0xFFFFFFFFFFFFFFFF else BitVec.ofNat 64 (crc64 start.toNat (b.map Prod.fst))

/-- What a checked program does over n elements (R132, R141, R147 to R153). -/
def chainCompute (e : Engine) (seed : W64) (p : ProgF) (n : Nat) (ds : Nat → List W64) (regs : List W64) (c0 c1 : Nat) : ChainWork :=
  let dr : Draw := { seed := seed, index := regs.getD p.index 0, step := (regs.getD p.step 0).truncate 32, tensor := p.tensor }
  let rd (f : StreamF) : List Lane × CFlags := readStream e f (ds f.dreg) n
  let i0 := rd p.in0
  let i1 := rd p.in1
  let i2 := rd p.in2
  let x := runStages e dr n p [i0.1, i1.1, i2.1] ((i0.2.or i1.2).or i2.2)
  let d0 := ds p.out0.dreg
  let d1 := ds p.out1.dreg
  let reg (i : Nat) : List Lane := x.v.getD i []
  let out1 := laneOut p.out1 d1 c1 (reg p.src1)
  let r : List (Nat × ChainOut) × CFlags × List PByte :=
    match x.enc with
    | some (g, l) =>
      let m := if p.out0.kind = 6 then c0 else 2
      let y := encPieces e dr g d0 m l
      let k := if encIsBf g then (m, 2) else (1, 1)
      let o0 := if p.out0.kind = 0 then [] else (joinOut k.1 k.2 y.1).map (pieceOut p.out0 d0)
      let hb := (y.1.foldr insPiece []).flatMap fun z => z.2.2
      if !encIsBf g && slotScale e (g.md % 32) == 1 then
        let o1 := joinOut 1 1 (y.2.1.zipIdx.map fun b => (b.2 / 4, elemAddr d1 (dExt0 d1) 1 b.2, [b.1]))
        (o0 ++ o1.map (pieceOut p.out1 d1), y.2.2, hb)
      else (o0 ++ out1.1, y.2.2.or out1.2, hb)
    | none =>
      match x.stat with
      | some (2, _) =>
        let di := ds p.in0.dreg
        let rows := (List.range n).map fun i => (i, mergeRow e di (dRow0 di + i))
        let o0 := joinOut 16 16 (rows.map fun z => (z.1 / 128, elemAddr d0 (dExt0 d0 / 16) 16 z.1, z.2.1))
        (o0.map (pieceOut p.out0 d0) ++ out1.1, (rows.foldl (fun (a : CFlags) z => a.or z.2.2) {}).or out1.2, [])
      | some (form, l) => let y := statFold e form d0 l; (y.1 ++ out1.1, y.2.or out1.2, [])
      | none => let y := laneOut p.out0 d0 c0 (reg p.src0); (y.1 ++ out1.1, y.2.or out1.2, [])
  let hg := (stagesOf p 0x31).head?
  let tally : Option (Nat × List PByte) := match hg, x.hash with
    | some g, some l => some (p.tally, if bitAt g.md 0 then r.2.2 else l.flatMap fun z => (leBytes 4 z.1.toNat).map (·, z.2))
    | _, _ => none
  let t0 := if p.tcont then rdS e p.tally else 0
  (r.1, (x.flags.or r.2.1).or { poison := match tally with | some y => y.2.any Prod.snd | none => false },
   tally.map fun y => (y.1, tallyOf t0 y.2))

/-- Takes the entry out of the queue with its refusal (R155): nothing is read, written or consumed. -/
def refuseChain (s : State) (ge : Nat) (pend : Nat) (tg : Tag) (r : ChainRef) : State :=
  let s1 := modEng s ge fun e => popChain (unpend (modChain e fun c => { c with reexec := false, plainRead := false }) pend)
  if r.1 = 0 then raiseSeq s1 ge r.2.1 tg r.2.2 else raiseChain s1 ge r.2.1 tg r.2.2

/-- The engine takes over what a started instruction computed: its outputs wait for their groups, and the operations on the tiles
it writes close (R184). -/
def chainTake (s : State) (ge n : Nat) (op : ChainOp) (reads own tilesOut : List (Nat × Nat)) (inplace : Bool)
    (w : ChainWork) : State :=
  modEng s ge fun x =>
    let y := tilesOut.foldl (fun z b => setAcc z b.1 (closeOps (accOf z b.1) b.2)) x
    let c := chainFlags y.chain w.2.1
    let run : ChainRun := { op := op, reads := reads, start := s.stamp, own := own, outs := w.1, tally := w.2.2, inplace := inplace,
                            groups := (n + 127) / 128, entered := 0, reexec := c.reexec, shared := 0 }
    { y with chain := { c with queue := c.queue.tail, cur := some run, instrSeq := c.instrSeq + 1,
                               reexec := false, plainRead := false } }

/-- The outputs are computed, and checked against their ranges and against the inputs (R140). -/
def chainOutputs (s : State) (ge a n : Nat) (descs : List (List W64)) (regs : List W64) (pend : Nat) (tg : Tag) (p : ProgF)
    (own : List (Nat × Nat)) (c0 c1 : Nat) : State :=
  let ds (i : Nat) : List W64 := descs.getD i []
  let e := eng s ge
  let reads := [p.in0, p.in1, p.in2].flatMap fun f => inRanges e f (ds f.dreg) n
  let w := chainCompute (view e uChain tg.stamp) (ctxOf s e.seq.context).seed p n ds regs c0 c1
  match outsMapped ge w.1 s with
  | (some r, v) => refuseChain v ge pend tg r
  | (none, v) =>
    let meet := (tilesRead p ds).any (tilesWritten p ds).contains
      || rowsMeet reads (outRanges w.1)
    if meet && !p.inplace then refuseChain v ge pend tg (2, 0x28, 0)
    else chainTake v ge n (.run a n descs regs pend tg) reads own (tilesWritten p ds) p.inplace w

/-- The combine outputs find their regions, and the outputs follow. -/
def chainRegions (s : State) (ge a n : Nat) (descs : List (List W64)) (regs : List W64) (pend : Nat) (tg : Tag) (p : ProgF)
    (own : List (Nat × Nat)) : State :=
  let ds (i : Nat) : List W64 := descs.getD i []
  match combineStep s ge p.out0 (ds p.out0.dreg) with
  | (.error r, t) => refuseChain t ge pend tg r
  | (.ok c0, t) =>
    match combineStep t ge p.out1 (ds p.out1.dreg) with
    | (.error r, u) => refuseChain u ge pend tg r
    | (.ok c1, u) => chainOutputs u ge a n descs regs pend tg p own c0 c1

/-- A chain program is read and checked, waits for its tiles, and runs; e is the engine as it stood when the instruction came to
the head of the queue. -/
def chainProgram (s : State) (ge : Nat) (e : Engine) (a n : Nat) (descs : List (List W64)) (regs : List W64) (pend : Nat)
    (tg : Tag) : State :=
  if a % 128 ≠ 0 then refuseChain s ge pend tg (0, cALIGN, a)
  else if !spadOk e a 128 then refuseChain s ge pend tg (0, cSPAD, a) else
  let p := progF (spadWords (view e uChain tg.stamp) a 16)
  if progBad p then refuseChain s ge pend tg (2, 0x20, 0) else
  let ds (i : Nat) : List W64 := descs.getD i []
  let own := (([p.in0, p.in1, p.in2].filter fun f => f.kind == 2).map fun f => (dArray (ds f.dreg), dTile (ds f.dreg))).eraseDups
  let ws := ([p.in0, p.in1, p.in2].map fun f => tileWait e e.chain.plainRead own tg.stamp false f (ds f.dreg))
    ++ ([p.out0, p.out1].map fun f => tileWait e e.chain.plainRead own tg.stamp true f (ds f.dreg))
  if ws.contains .deadlock then refuseChain s ge pend tg (2, 0x26, 0)
  else if ws.contains .wait then s
  else
    match startBad e p n ds with
    | some r => refuseChain s ge pend tg r
    | none => chainRegions s ge a n descs regs pend tg p own

/-- The chain instruction at the head of the queue starts (R135): its program is read and checked, its tiles awaited and its work
computed; or it is refused before it starts. After a full-save stop none starts (R157). (log 25 DEDUCED; log 37 DEDUCED) -/
def execChainInstrStart (ge : Nat) (s : State) : Host.Outcome State Fault Refusal :=
  ok (
    let e := eng s ge
    match e.chain.cur, e.chain.queue with
    | none, .run a n descs regs pend tg :: _ =>
      let hold := issueHeld s ge
      if hold.1 || e.chain.stopped then hold.2
      else if e.units.fmtLoads.any (fun l => decide (l.2.2.stamp < tg.stamp)) then hold.2
      else chainProgram hold.2 ge e a n descs regs pend tg
    | _, _ => s)

/-! ### Completion and hardware faults (R132, R148, R156, R163) -/

/-- Writes one output; bad makes its data poison (R156). A combine refusal raises COMBINE. -/
def writeOut (s : State) (ge : Nat) (tg : Tag) (bad : Bool) (o : ChainOut) : State :=
  let pz (d : List PByte) : List PByte := if bad then d.map fun b => (b.1, true) else d
  match o with
  | .spad a d => modEng s ge fun e => raceWrite e uChain tg.stamp a (pz d)
  | .mem a d =>
    match vWrite s ge tg.stamp a (raceBytes (eng s ge) uChain tg.stamp true a (pz d)) with
    | (.ok _, t) => t
    | (.error c, t) => raiseSeq t ge c.1 tg c.2
  | .tileEl a k v p => modAcc s ge a fun x => putElem x k v (p || bad)
  | .count a k v => if bad then s else modAcc s ge a fun x => { x with counts := sset 0 x.counts k v }
  | .tflag a t p i l f => modAcc s ge a fun x =>
      let v := tileOf x t
      let v1 := if p || bad then tilePoisoned v else v
      setTile x t (if bad then v1 else { v1 with inv := v1.inv || i, longsum := v1.longsum || l, ovf := v1.ovf || f })
  | .cmb a i ep ty d =>
    match sendRow s ge a (pz d) ty ep i with
    | (.ok false, t) => t
    | (.ok true, t) => raiseSeq t ge cCOMBINE tg a
    | (.error c, t) => raiseSeq t ge c.1 tg c.2

/-- A write that was issued after a chain instruction had started meets what it reads: the pair is unordered, and the
instruction's inputs were undefined (R11, R162). (log 122 DEDUCED) -/
def lateRace (e : Engine) (r : ChainRun) : Bool :=
  (raced e uChain (chainTag r.op).1.stamp).any fun w => !w.mem && decide (r.start ≤ w.stamp) && rowsMeet [(w.a, w.n)] r.reads

/-- Bytes computed from undefined inputs: free. -/
def freeBytes (stamp k : Nat) (d : List PByte) : List PByte :=
  d.zipIdx.map fun x => (Config.freeByte (2 ^ 91 + ((stamp * 2 ^ 20 + k) * 2 ^ 20 + x.2)), x.1.2)

/-- Output k of an instruction whose inputs were undefined. -/
def freeOut (stamp k : Nat) (o : ChainOut) : ChainOut :=
  match o with
  | .spad a d => .spad a (freeBytes stamp k d)
  | .mem a d => .mem a (freeBytes stamp k d)
  | .cmb a i ep ty d => .cmb a i ep ty (freeBytes stamp k d)
  | .tileEl a key _ p => .tileEl a key ((Config.freeWord (2 ^ 91 + (stamp * 2 ^ 20 + k))).truncate 32) p
  | o => o

/-- The outputs and the tally of an instruction whose inputs a later write met. -/
def freeRun (r : ChainRun) : ChainRun :=
  let t := (chainTag r.op).1.stamp
  { r with outs := r.outs.zipIdx.map (fun o => (o.1.1, freeOut t o.2 o.1.2)),
           tally := r.tally.map fun y => (y.1, Config.freeWord (2 ^ 92 + t)) }

/-- Writes the outputs of the groups from g to h - 1. -/
def writeOuts (s : State) (ge : Nat) (tg : Tag) (bad : Bool) (g h : Nat) (l : List (Nat × ChainOut)) : State :=
  (l.filter fun o => decide (g ≤ o.1 ∧ o.1 < h)).foldl (fun t o => writeOut t ge tg bad o.2) s

/-- The reads of finished tiles have taken their last elements: their entries are free and FINISHED is clear (R129).
 (log 36 DEDUCED) -/
def consumeFt (e : Engine) (l : List (Nat × Nat)) : Engine :=
  l.foldl (fun x at_ =>
    match ftFind x at_.1 at_.2 with
    | some q =>
      let c := accOf x at_.1
      let y := setAcc x at_.1 (setTile c at_.2 { tileOf c at_.2 with finished := false })
      { y with ftq := sset none y.ftq q none }
    | none => x) e

/-- The next k groups of the instruction in progress have entered the chain, with dry bubbles between them (R132, R136, R154): the
wave counters, REEXEC_WAVES less the waves in which an array re-executed as well (R186), and NEXT_ELEM.
 (log 121 DESIGN CHOICE) -/
def chainEnter (e : Engine) (r : ChainRun) (k dry : Nat) : Engine :=
  let w := k + dry + (if r.entered + k = r.groups then 31 else 0)
  let m := min w r.shared
  { e with
    cnt := if r.reexec then { e.cnt with reexecWaves := e.cnt.reexecWaves + BitVec.ofNat 64 (w - m) } else e.cnt
    chain := { e.chain with
      cur := some { r with entered := r.entered + k, shared := r.shared - m }
      issueWaves := e.chain.issueWaves + BitVec.ofNat 64 k
      chainDry := e.chain.chainDry + BitVec.ofNat 64 dry } }

/-- The instruction in progress is done: its tally reaches the register, its finished tiles are free, and what follows it in the
queue takes effect (R129, R148). (log 36 DEDUCED) -/
def chainDone (e : Engine) (r : ChainRun) : Engine :=
  let y := match r.tally with | some t => wrS e t.1 t.2 | none => e
  advanceChain 4 (unpend (consumeFt (modChain y fun c => { c with cur := none }) r.own) (chainTag r.op).2)

/-- Groups of the chain instruction in progress enter the chain and their outputs are written (R132); with the last of them the
instruction is done. After a full-save stop no group enters (R157). (log 25 DEDUCED) -/
def execChainInstrComplete (ge : Nat) (p : ChainGroups) (s : State) : Host.Outcome State Fault Refusal :=
  ok (
    let e := eng s ge
    match e.chain.cur with
    | none => s
    | some r0 =>
      let tg := (chainTag r0.op).1
      let r := if lateRace e r0 then freeRun r0 else r0
      if e.chain.stopped || slotStopped s ge || fenceHolds s e.seq.context tg.stamp then s else
      let k := min p.groups (r.groups - r.entered)
      let s1 := writeOuts (modEng s ge fun x => chainEnter x r k p.dry) ge tg false r.entered (r.entered + k) r.outs
      let out := groupSpans tg.stamp r.entered (r.entered + k) r.outs
      modEng s1 ge fun x => land (if r.entered + k = r.groups then chainDone x r else x) s1.stamp out)

end Sys2Proof.Machine
end

