-- ==== Sys2Proof/Machine/Ctl.lean ====
section
/-! DEFINITION. The CTL instructions (R172, R173), yield points and stream end (R188 to R191), and the sequencer's own
events (R183, R194). -/

namespace Sys2Proof.Machine

/-- ctl nop. -/
def execCtlNop (ge : Nat) (s : State) : Host.Outcome State Fault Refusal :=
  ok (issue s ge [] fun s1 e _ => setEng s1 ge e)

/-- ctl li. -/
def execCtlLi (ge rd : Nat) (imm : W32) (s : State) : Host.Outcome State Fault Refusal :=
  ok (issueAlu s ge rd [] fun _ => sext32 imm)

/-- ctl lih: the upper half; bits [31:0] unchanged. -/
def execCtlLih (ge rd : Nat) (imm : W32) (s : State) : Host.Outcome State Fault Refusal :=
  ok (issueAlu s ge rd [] fun e => imm ++ (rdS e rd).truncate 32)

/-- ctl add. -/
def execCtlAdd (ge rd ra rb : Nat) (s : State) : Host.Outcome State Fault Refusal :=
  ok (issueAlu s ge rd [ra, rb] fun e => rdS e ra + rdS e rb)

/-- ctl sub. -/
def execCtlSub (ge rd ra rb : Nat) (s : State) : Host.Outcome State Fault Refusal :=
  ok (issueAlu s ge rd [ra, rb] fun e => rdS e ra - rdS e rb)

/-- ctl mul: the low 64 bits. -/
def execCtlMul (ge rd ra rb : Nat) (s : State) : Host.Outcome State Fault Refusal :=
  ok (issueAlu s ge rd [ra, rb] fun e => rdS e ra * rdS e rb)

/-- ctl and. -/
def execCtlAnd (ge rd ra rb : Nat) (s : State) : Host.Outcome State Fault Refusal :=
  ok (issueAlu s ge rd [ra, rb] fun e => rdS e ra &&& rdS e rb)

/-- ctl or. -/
def execCtlOr (ge rd ra rb : Nat) (s : State) : Host.Outcome State Fault Refusal :=
  ok (issueAlu s ge rd [ra, rb] fun e => rdS e ra ||| rdS e rb)

/-- ctl xor. -/
def execCtlXor (ge rd ra rb : Nat) (s : State) : Host.Outcome State Fault Refusal :=
  ok (issueAlu s ge rd [ra, rb] fun e => rdS e ra ^^^ rdS e rb)

/-- ctl addi. -/
def execCtlAddi (ge rd ra : Nat) (imm : W32) (s : State) : Host.Outcome State Fault Refusal :=
  ok (issueAlu s ge rd [ra] fun e => rdS e ra + sext32 imm)

/-- ctl andi. -/
def execCtlAndi (ge rd ra : Nat) (imm : W32) (s : State) : Host.Outcome State Fault Refusal :=
  ok (issueAlu s ge rd [ra] fun e => rdS e ra &&& sext32 imm)

/-- An instruction whose reserved bits are set raises ILLEGAL and is not executed (R172). -/
def illegalIf (bad : Bool) (s : State) (ge : Nat) (t : Tag) (k : State) : State :=
  if bad then raiseSeq s ge cILLEGAL t 0 else k

/-- A shift by IMM[5:0]; IMM[31:6] must be 0. -/
def ctlShift (s : State) (ge rd ra : Nat) (imm : W32) (f : W64 → Nat → W64) : State :=
  issue s ge [rd, ra] fun s1 e t =>
    illegalIf (decide (64 ≤ imm.toNat)) s1 ge t (setEng s1 ge (wrS e rd (f (rdS e ra) (imm.toNat % 64))))

/-- ctl slli. -/
def execCtlSlli (ge rd ra : Nat) (imm : W32) (s : State) : Host.Outcome State Fault Refusal :=
  ok (ctlShift s ge rd ra imm fun v n => v <<< n)

/-- ctl srli. -/
def execCtlSrli (ge rd ra : Nat) (imm : W32) (s : State) : Host.Outcome State Fault Refusal :=
  ok (ctlShift s ge rd ra imm fun v n => v >>> n)

/-- ctl srai. -/
def execCtlSrai (ge rd ra : Nat) (imm : W32) (s : State) : Host.Outcome State Fault Refusal :=
  ok (ctlShift s ge rd ra imm fun v n => v.sshiftRight n)

/-- A target lies in the stream (R173). -/
def inStream (q : Seq) (tgt : W64) : Bool :=
  decide ((tgt - q.streamBase).toNat % 8 = 0 ∧ (tgt - q.streamBase).toNat < q.instrCount * 8)

/-- PC goes to a target; outside the stream it raises FETCH_RANGE against the branch (R173). (log 22 DEDUCED) -/
def jumpTo (s : State) (ge : Nat) (e : Engine) (t : Tag) (tgt : W64) : State :=
  if inStream e.seq tgt then setEng s ge { e with seq := { e.seq with pc := tgt } }
  else raiseSeq s ge cFETCH t tgt.toNat

/-- A branch offset in instructions, from the branch itself (R173). -/
def branchTarget (t : Tag) (imm : W32) : W64 := t.pc + 8 * sext32 imm

/-- A conditional branch. -/
def ctlBranch (s : State) (ge ra rb : Nat) (imm : W32) (c : W64 → W64 → Bool) : State :=
  issue s ge [ra, rb] fun s1 e t =>
    if c (rdS e ra) (rdS e rb) then jumpTo s1 ge e t (branchTarget t imm) else setEng s1 ge e

/-- ctl beq. -/
def execCtlBeq (ge ra rb : Nat) (imm : W32) (s : State) : Host.Outcome State Fault Refusal :=
  ok (ctlBranch s ge ra rb imm fun a b => a == b)

/-- ctl bne. -/
def execCtlBne (ge ra rb : Nat) (imm : W32) (s : State) : Host.Outcome State Fault Refusal :=
  ok (ctlBranch s ge ra rb imm fun a b => a != b)

/-- ctl blt. -/
def execCtlBlt (ge ra rb : Nat) (imm : W32) (s : State) : Host.Outcome State Fault Refusal :=
  ok (ctlBranch s ge ra rb imm fun a b => a.slt b)

/-- ctl bge. -/
def execCtlBge (ge ra rb : Nat) (imm : W32) (s : State) : Host.Outcome State Fault Refusal :=
  ok (ctlBranch s ge ra rb imm fun a b => !a.slt b)

/-- ctl bltu. -/
def execCtlBltu (ge ra rb : Nat) (imm : W32) (s : State) : Host.Outcome State Fault Refusal :=
  ok (ctlBranch s ge ra rb imm fun a b => a.ult b)

/-- ctl bgeu. -/
def execCtlBgeu (ge ra rb : Nat) (imm : W32) (s : State) : Host.Outcome State Fault Refusal :=
  ok (ctlBranch s ge ra rb imm fun a b => !a.ult b)

/-- ctl jal: sRD takes the byte offset of the next instruction from the stream base. A target outside the stream raises
FETCH_RANGE and leaves sRD as it was. -/
def execCtlJal (ge rd : Nat) (imm : W32) (s : State) : Host.Outcome State Fault Refusal :=
  ok (issue s ge [rd] fun s1 e t =>
    jumpTo s1 ge (wrS e rd (t.pc + 8 - e.seq.streamBase)) t (branchTarget t imm))

/-- ctl jr. (log 22 DEDUCED) -/
def execCtlJr (ge ra : Nat) (s : State) : Host.Outcome State Fault Refusal :=
  ok (issue s ge [ra] fun s1 e t => jumpTo s1 ge e t (e.seq.streamBase + rdS e ra))

/-- A scratchpad access of n bytes by the sequencer at a 64-bit address: ALIGN, then SPAD_RANGE (R165, R168), before any
effect. -/
def spadAccess (s : State) (ge : Nat) (e : Engine) (t : Tag) (a n : Nat) (k : State) : State :=
  if a % n ≠ 0 then raiseSeq s ge cALIGN t a
  else if !spadOk e a n then raiseSeq s ge cSPAD t a
  else k

/-- The address sRA + sext(IMM). -/
def spadAddr (e : Engine) (ra : Nat) (imm : W32) : Nat := (rdS e ra + sext32 imm).toNat

/-- ctl lds (R162): poisoned bytes leave an undefined register value, since a scalar register carries no poison.
 (log 27 DEDUCED) -/
def execCtlLds (ge rd ra : Nat) (imm : W32) (s : State) : Host.Outcome State Fault Refusal :=
  ok (issue s ge [rd, ra] fun s1 e t =>
    let a := spadAddr e ra imm
    spadAccess s1 ge e t a 8 (
      let v := view e uSeq t.stamp
      if (spadRead e a 8).any Prod.snd then
        setEng { s1 with free := s1.free + 1 } ge (wrS e rd (Config.freeWord s1.free))
      else setEng s1 ge (wrS e rd (BitVec.ofNat 64 (spadNat v a 8)))))

/-- The sequencer writes the scratchpad (R162). -/
def seqWrite (e : Engine) (t : Tag) (a : Nat) (d : List PByte) : Engine :=
  land (raceWrite e uSeq t.stamp a d) (t.stamp + 1) (spansOf uSeq t.stamp false [(a, d.length)])

/-- ctl sts. -/
def execCtlSts (ge ra rb : Nat) (imm : W32) (s : State) : Host.Outcome State Fault Refusal :=
  ok (issue s ge [ra, rb] fun s1 e t =>
    let a := spadAddr e ra imm
    spadAccess s1 ge e t a 8 (setEng s1 ge (seqWrite e t a ((leBytes 8 (rdS e rb).toNat).map (·, false)))))

/-- ctl dld: RD[3:0] names the descriptor and RD[4] must be 0. (log 27 DEDUCED) -/
def execCtlDld (ge rd ra : Nat) (imm : W32) (s : State) : Host.Outcome State Fault Refusal :=
  ok (issue s ge [ra] fun s1 e t => illegalIf (decide (16 ≤ rd)) s1 ge t (
    let a := spadAddr e ra imm
    spadAccess s1 ge e t a 64 (
      if (spadRead e a 64).any Prod.snd then
        setEng { s1 with free := s1.free + 8 } ge (wrD e rd ((List.range 8).map fun i => Config.freeWord (s1.free + i)))
      else setEng s1 ge (wrD e rd (spadWords (view e uSeq t.stamp) a 8)))))

/-- ctl dst: RB[3:0] names the descriptor and RB[4] must be 0. -/
def execCtlDst (ge ra rb : Nat) (imm : W32) (s : State) : Host.Outcome State Fault Refusal :=
  ok (issue s ge [ra] fun s1 e t => illegalIf (decide (16 ≤ rb)) s1 ge t (
    let a := spadAddr e ra imm
    spadAccess s1 ge e t a 64 (
      setEng s1 ge (seqWrite e t a ((rdD e rb).flatMap fun w => (leBytes 8 w.toNat).map (·, false))))))

/-- ctl dsetw: word IMM[2:0]; IMM[31:3] and RD[4] must be 0. -/
def execCtlDsetw (ge rd ra : Nat) (imm : W32) (s : State) : Host.Outcome State Fault Refusal :=
  ok (issue s ge [ra] fun s1 e t => illegalIf (decide (16 ≤ rd ∨ 8 ≤ imm.toNat)) s1 ge t (
    setEng s1 ge (wrDw e rd (imm.toNat % 8) (rdS e ra))))

/-- ctl daddw. -/
def execCtlDaddw (ge rd ra : Nat) (imm : W32) (s : State) : Host.Outcome State Fault Refusal :=
  ok (issue s ge [ra] fun s1 e t => illegalIf (decide (16 ≤ rd ∨ 8 ≤ imm.toNat)) s1 ge t (
    setEng s1 ge (wrDw e rd (imm.toNat % 8) (sget 0 e.desc (8 * rd + imm.toNat % 8) + rdS e ra))))

/-- ctl rds: items 0 to 3; other items are reserved. -/
def execCtlRds (ge rd : Nat) (imm : W32) (s : State) : Host.Outcome State Fault Refusal :=
  ok (issue s ge [rd] fun s1 e t => illegalIf (decide (4 ≤ imm.toNat)) s1 ge t (
    setEng s1 ge (wrS e rd (
      if imm.toNat = 0 then BitVec.ofNat 64 ge
      else if imm.toNat = 1 then BitVec.ofNat 64 e.seq.context
      else if imm.toNat = 2 then e.cnt.streamWaves
      else e.cnt.yieldGap))))

/-- ctl fault: SOFTWARE, with IMM in SEQ_FAULT_ADDR. -/
def execCtlFault (ge : Nat) (imm : W32) (s : State) : Host.Outcome State Fault Refusal :=
  ok (issue s ge [] fun s1 _ t => raiseSeq s1 ge cSOFT t imm.toNat)

/-- A matrix operation of the engine is open (R184). -/
def anyOpen (e : Engine) : Bool := (List.range 4).any fun a => (accOf e a).log.any fun o => o.opened

/-- The ranges of a live-range descriptor at a scratchpad address: start and length. -/
def liveRanges (e : Engine) (a : Nat) : List (Nat × Nat) :=
  (List.range (spadNat e a 8 % 128)).map fun i =>
    let w := spadNat e (a + 64 + 8 * i) 8
    (bits w 21 0, bits w 44 22)

/-- Two ranges overlap. -/
def rangesMeet (x y : Nat × Nat) : Bool := decide (x.1 < y.1 + y.2 ∧ y.1 < x.1 + x.2)

/-- Some two members of a list are related. -/
def anyPair {α : Type} (r : α → α → Bool) : List α → Bool
  | [] => false
  | x :: l => l.any (r x) || anyPair r l

/-- The tile slots named live for array a. -/
def liveTiles (e : Engine) (a arr : Nat) : List Nat := maskList 64 (spadNat e (a + 8 * (1 + arr)) 8)

/-- A live-range descriptor breaks R189. -/
def liveBad (e : Engine) (a : Nat) : Bool :=
  let w0 := spadNat e a 8
  let n := w0 % 128
  decide (128 ≤ w0 ∨ 120 < n)
  || (List.range 3).any (fun i => spadNat e (a + 40 + 8 * i) 8 ≠ 0)
  || (List.range n).any (fun i =>
      let w := spadNat e (a + 64 + 8 * i) 8
      let st := bits w 21 0
      let ln := bits w 44 22
      decide (bits w 63 45 ≠ 0 ∨ st % 64 ≠ 0 ∨ ln % 64 ≠ 0 ∨ ln < 64 ∨ 1048576 < ln
        ∨ st % 2 ^ 20 + ln > e.seq.qlen * 65536))
  || anyPair rangesMeet (liveRanges e a)
  || (List.range 4).any (fun r => (liveTiles e a r).any fun t =>
      !(tileOf (accOf e r) t).declared || (tileOf (accOf e r) t).owner != e.seq.context)

/-- Bytes of a live-range descriptor, its entries included where their number is one that R189 allows (R165). -/
def liveBytes (e : Engine) (a : Nat) : Nat :=
  if spadOk e a 64 ∧ spadNat e a 8 ≤ 120 then 64 + 8 * spadNat e a 8 else 64

/-- The check that a yield point or end makes of its IMM (R188): reserved bits raise ILLEGAL. -/
def yieldImmBad (imm : Nat) : Bool := decide (2 ^ 23 ≤ imm ∨ (bitAt imm 22 = true ∧ imm % 2 ^ 22 ≠ 0))

/-- The refusal a yield point meets (R188 step 1, R168, R165): its code and failing address. -/
def yieldFault (e : Engine) (imm : Nat) : Option (Nat × Nat) :=
  if anyOpen e then some (cYIELDOPEN, 0)
  else if bitAt imm 22 then none
  else if imm % 64 ≠ 0 then some (cALIGN, imm % 2 ^ 22)
  else if !spadOk e (imm % 2 ^ 22) (liveBytes e (imm % 2 ^ 22)) then some (cSPAD, imm % 2 ^ 22)
  else if liveBad e (imm % 2 ^ 22) then some (cLIVE, imm % 2 ^ 22)
  else none

/-- The live ranges and, per array, the live tiles that an IMM names. (log 16 DEDUCED) -/
def liveOf (e : Engine) (imm : Nat) : List (Nat × Nat) × (Nat → List Nat) :=
  if bitAt imm 22 then ([], fun _ => []) else (liveRanges e (imm % 2 ^ 22), fun r => liveTiles e (imm % 2 ^ 22) r)

/-- Slots of a tile. -/
def slotsOf (t : Nat) (v : Tile) : List Nat := (List.range (tileSlots v.shape v.format)).map (t + ·)

/-- After a yield point the scratchpad bytes of the binding outside the live ranges, and the elements of the context's tiles
that are not live, are free (R188). seed distinguishes this yield point from others. (log 16 DEDUCED) -/
def scramble (e : Engine) (seed imm : Nat) : Engine :=
  let lv := liveOf e imm
  let keep : List (Nat × Option Byte) := lv.1.flatMap fun r =>
    (List.range r.2).map fun i => (spadPhys e (r.1 + i), some (spadByte e (spadPhys e (r.1 + i))))
  let inBind (p : Nat) : Bool := decide (e.seq.qbase * 65536 ≤ p % 2 ^ 20 ∧ p % 2 ^ 20 < (e.seq.qbase + e.seq.qlen) * 65536)
  let units := (List.range 64).filter fun u => inBind (u * 65536)
  let e1 := { e with
    spad := ssetMany none (e.spad.filter fun x => !inBind x.1) keep
    spadSeed := ssetMany 0 e.spadSeed (units.map (·, seed + 1)) }
  (List.range 4).foldl (fun t a =>
    let x := accOf t a
    let dead := x.tiles.flatMap fun v =>
      if v.2.declared && v.2.owner == e.seq.context && !(lv.2 a).contains v.1 then slotsOf v.1 v.2 else []
    setAcc t a { x with
      elems := x.elems.filter fun v => !dead.contains (v.1 / 1024)
      elemSeed := ssetMany 0 x.elemSeed (dead.map (·, seed + 1)) }) e1

/-- A yield point passes (R188 steps 2 and 3): YIELD_GAP restarts, and what is not live becomes free. -/
def passYield (s : State) (ge : Nat) (e : Engine) (imm : Nat) : State :=
  let e1 := scramble e s.free imm
  setEng { s with free := s.free + 1 } ge { e1 with
    cnt := { e1.cnt with yieldGap := 0 }, seq := { e1.seq with lastYield := some imm } }

/-- ctl yieldpt (R188). (log 16 DEDUCED) -/
def execCtlYieldpt (ge : Nat) (imm : W32) (s : State) : Host.Outcome State Fault Refusal :=
  ok (issue s ge [] fun s1 e t => illegalIf (yieldImmBad imm.toNat) s1 ge t (
    match yieldFault (view e uSeq t.stamp) imm.toNat with
    | some c => raiseSeq s1 ge c.1 t c.2
    | none =>
      if e.seq.preemptReq then
        setEng s1 ge { e with cnt := { e.cnt with yieldGap := 0 },
                              seq := { e.seq with state := .yielding, wait := .yieldPt imm.toNat } }
      else passYield s1 ge e imm.toNat))

/-- ctl end (R190): a yield point that always waits. -/
def execCtlEnd (ge : Nat) (imm : W32) (s : State) : Host.Outcome State Fault Refusal :=
  ok (issue s ge [] fun s1 e t => illegalIf (yieldImmBad imm.toNat) s1 ge t (
    match yieldFault (view e uSeq t.stamp) imm.toNat with
    | some c => raiseSeq s1 ge c.1 t c.2
    | none => setEng s1 ge { e with cnt := { e.cnt with yieldGap := 0 },
                                    seq := { e.seq with state := .yielding, wait := .endPt imm.toNat } }))

/-- An operand of a decoded instruction that its OP does not allow: ILLEGAL where it issues (R173 to R175, R178, R180, R188). -/
def operandIllegal (i : Instr) : Bool :=
  match i with
  | .ctlSlli _ _ _ imm | .ctlSrli _ _ _ imm | .ctlSrai _ _ _ imm => decide (64 ≤ imm.toNat)
  | .ctlDld _ rd _ _ => decide (16 ≤ rd)
  | .ctlDst _ _ rb _ => decide (16 ≤ rb)
  | .ctlDsetw _ rd _ imm | .ctlDaddw _ rd _ imm => decide (16 ≤ rd ∨ 8 ≤ imm.toNat)
  | .ctlRds _ _ imm => decide (4 ≤ imm.toNat)
  | .ctlYieldpt _ imm | .ctlEnd _ imm => yieldImmBad imm.toNat
  | .movCmb _ _ _ _ _ imm | .movCdone _ _ _ _ imm => decide (256 ≤ imm.toNat)
  | .mtxTdecl _ _ imm => decide (1024 ≤ imm.toNat ∨ bits imm.toNat 7 6 = 3 ∨ bits imm.toNat 9 8 = 3)
  | .mtxTrel _ _ imm | .mtxTzero _ _ imm | .mtxTclr _ _ imm | .mtxTsave _ _ _ imm | .mtxTrest _ _ _ imm
  | .mtxTstat _ _ _ imm => decide (64 ≤ imm.toNat)
  | .mtxFmtld _ _ imm | .vchCrvld _ _ imm => decide (32 ≤ imm.toNat)
  | .vchRun _ _ rc imm => decide (2 ^ 14 ≤ imm.toNat ∨ (rc ≠ 0 ∧ imm ≠ 0))
  | .vchCclr _ imm => decide (256 ≤ imm.toNat ∨ imm.toNat % 2 = 1)
  | .synWait _ cond _ _ _ imm => decide (6 < cond ∨ (cond ≠ 5 ∧ bits imm.toNat 31 16 ≠ 0))
  | _ => false

/-- The word is no instruction (R172), or one with an operand that its OP does not allow. (log 146 DEDUCED) -/
def wordIllegal (w : Nat) : Bool := (decodeTheser 0 w).all operandIllegal

/-- An instruction word that breaks R172 reaches issue: ILLEGAL. A word that breaks no rule is another command's.
 (log 15 DESIGN CHOICE) -/
def execIllegalInstruction (ge : Nat) (word : W64) (s : State) : Host.Outcome State Fault Refusal :=
  ok (if wordIllegal word.toNat then issue s ge [] fun s1 _ t => raiseSeq s1 ge cILLEGAL t 0 else s)

/-- The array has no work and its grid is empty (R70, R180). -/
def arrEmpty (x : Arr) : Bool := x.queue.isEmpty && x.run.isNone && x.pass.isNone && x.rows.isEmpty && x.drain.isEmpty

/-- Every array of the engine is empty, with no operation to re-execute. -/
def arraysEmpty (e : Engine) : Bool := (List.range 4).all fun a => arrEmpty (arrOf e a) && (accOf e a).reexecQ.isEmpty

/-- The chain has no work. -/
def chainEmpty (e : Engine) : Bool := e.chain.queue.isEmpty && e.chain.cur.isNone

/-- The OWNER field of a finished-tile descriptor (R128). -/
def ftOwner (w : W64) : Nat := bits w.toNat 38 27

/-- The queue holds an unread descriptor of the context (R131). -/
def ftOwned (e : Engine) (c : Nat) : Bool := e.ftq.any fun x => match x.2 with | some w => ftOwner w == c | none => false

/-- Every move queue is empty. -/
def movEmpty (e : Engine) : Bool := (List.range 4).all fun q => (sget [] e.units.mq q).isEmpty

/-- A dispatch, send or return is outstanding (R188). -/
def rlyHeld (e : Engine) : Bool := e.units.rly.any fun o => o.holds

/-- No finished tile waits for its descriptor to be raised (R128, R131). -/
def raisedAll (e : Engine) : Bool := (List.range 4).all fun a => (arrOf e a).held.isEmpty

/-- The wait of R188 step 4 is over. -/
def unitsIdle (e : Engine) : Bool :=
  arraysEmpty e && chainEmpty e && raisedAll e && !ftOwned e e.seq.context && movEmpty e && !rlyHeld e && e.units.fmtLoads.isEmpty

/-- The engine waits in COND 4 or COND 5 directly after a yield point, so that it may be stopped there (R340): the yield
point's IMM. -/
def waitYield (e : Engine) : Option Nat :=
  match e.seq.wait with
  | .cond c _ _ _ _ _ => if c = 4 ∨ c = 5 then e.seq.prevYield else none
  | _ => none

/-- The yield point's wait is over: the live state is saved and the engine is free for the swap (R188 step 4, R66, R40). A
context that waits under R340 is saved with PC at the wait. -/
def execYieldSave (ge waves : Nat) (s : State) : Host.Outcome State Fault Refusal :=
  ok (
    let e := eng s ge
    match e.seq.wait with
    | .yieldPt imm =>
      if unitsIdle e then
        let e1 := scramble (addWaves e waves) s.free imm
        setEng { s with free := s.free + 1 } ge
          { e1 with seq := { e1.seq with state := .saved, wait := .none, preemptReq := false } }
      else s
    | _ =>
      match waitYield e with
      | some imm =>
        if e.seq.preemptReq && unitsIdle e then
          let e1 := scramble (addWaves e waves) s.free imm
          setEng { s with free := s.free + 1 } ge
            { e1 with seq := { e1.seq with state := .saved, wait := .none, preemptReq := false, pc := e1.seq.pc - 8 } }
        else s
      | none => s)

/-- The wait of ctl.end is over and the stream ends (R190). (log 121 DESIGN CHOICE) -/
def execStreamEnd (ge waves : Nat) (s : State) : Host.Outcome State Fault Refusal :=
  ok (
    let e := eng s ge
    match e.seq.wait with
    | .endPt imm =>
      if unitsIdle e then
        let e1 := scramble (addWaves e waves) s.free imm
        setEng { s with free := s.free + 1 } ge { e1 with seq := { e1.seq with state := .idle, wait := .none } }
      else s
    | _ => s)

/-- YIELD_GAP has passed MAX_YIELD_GAP: YIELD_LATE and one record per stream (R191). -/
def execYieldGapExceeded (ge : Nat) (s : State) : Host.Outcome State Fault Refusal :=
  ok (
    let e := eng s ge
    if decide (e.seq.maxYieldGap < e.cnt.yieldGap.toNat) then
      let s1 := setEng s ge { e with seq := { e.seq with yieldLate := true }, cnt := { e.cnt with lateRecorded := true } }
      if e.cnt.lateRecorded then s1 else note s1 3 1 1 2 ge [e.cnt.yieldGap]
    else s)

/-- The waves that count against WORST_WAVES (R194). (log 121 DESIGN CHOICE) -/
def countedWaves (e : Engine) : Int :=
  (e.cnt.streamWaves.toNat : Int) - e.cnt.extwaitWaves.toNat - e.cnt.reexecWaves.toNat - e.cnt.stoppedWaves.toNat

/-- The stream has passed WORST_WAVES: OVERRUN and one record; the stream runs on (R194). (log 121 DESIGN CHOICE) -/
def execOverrun (ge : Nat) (s : State) : Host.Outcome State Fault Refusal :=
  ok (
    let e := eng s ge
    if decide ((e.seq.worstWaves.toNat : Int) < countedWaves e) then
      let s1 := setEng s ge { e with seq := { e.seq with overrun := true }, cnt := { e.cnt with overrunRecorded := true } }
      if e.cnt.overrunRecorded then s1 else note s1 3 2 1 2 ge [e.cnt.streamWaves]
    else s)

end Sys2Proof.Machine
end

