-- ==== Sys2Proof/Machine/Fence.lean ====
section
/-! DEFINITION. SYN instructions and the fences at the homes (R180, R214 to R220). -/

namespace Sys2Proof.Machine

/-- Fences that still order something: flags not written, and data fences with an earlier write under way. -/
def liveFences (s : State) : List Fence :=
  s.harn.fences.filter fun f => f.flag.isSome || earlierWrites s f.ctx f.stamp

/-- Adds a fence. (log 41 DEDUCED) -/
def addFence (s : State) (f : Fence) : State :=
  { s with harn := { s.harn with fences := liveFences s ++ [f] } }

/-- syn.fence.data (R217): issue goes on; the order is kept on the write paths. -/
def execSynFenceData (ge : Nat) (s : State) : Host.Outcome State Fault Refusal :=
  ok (issue s ge [] fun s1 e t => addFence (setEng s1 ge e) { ctx := e.seq.context, stamp := t.stamp, flag := none })

/-- syn.fence.flag (R218): a misaligned flag is ALIGN, a flag in a STREAMING or COMBINE region or in MMIO is ACCESS, and no
marker is sent; otherwise the flag waits for every earlier write of the context. -/
def execSynFenceFlag (ge ra rb : Nat) (s : State) : Host.Outcome State Fault Refusal :=
  ok (issue s ge [ra, rb] fun s1 e t =>
    let va := (rdS e ra).toNat
    let s2 := setEng s1 ge e
    if va % 8 ≠ 0 then raiseSeq s2 ge cALIGN t va else
    match vPieces s2 (walker ge) e.seq.context .write va 8 with
    | (.error c, u) => raiseSeq u ge c.1 t c.2
    | (.ok l, u) =>
      match l with
      | p :: _ =>
        if attrKind u.mem p.a = 1 ∨ attrKind u.mem p.a = 2 then raiseSeq u ge cACCESS t va
        else addFence u { ctx := e.seq.context, stamp := t.stamp, flag := some (p.a, rdS e rb) }
      | [] => raiseSeq u ge cTRANS t va)

/-- syn.wait: the sequencer waits until the condition holds (R180). Reserved conditions, and a timeout with any condition but
5, raise ILLEGAL. (log 40 DEDUCED) -/
def execSynWait (ge cond ra rb rd : Nat) (imm : W32) (s : State) : Host.Outcome State Fault Refusal :=
  ok (issue s ge [ra, rb, rd] fun s1 e t =>
    if 6 < cond ∨ (cond ≠ 5 ∧ bits imm.toNat 31 16 ≠ 0) then raiseSeq s1 ge cILLEGAL t 0
    else
      let q : Seq := { e.seq with state := .waiting, wait := .cond cond imm.toNat (rdS e ra) (rdS e rb) rd 0 }
      setEng s1 ge { e with seq := q })

/-- A condition that the engine's own units decide (R180); condition 5 is decided by memory. -/
def condHolds (e : Engine) (cond imm : Nat) : Bool :=
  let mov (q n : Nat) : Bool := decide ((movq e q).length ≤ n)
  let arr (a : Nat) : Bool := arrEmpty (arrOf e a) && (accOf e a).reexecQ.isEmpty
  let rly (n : Nat) : Bool := decide (e.units.rly.length ≤ n)
  match cond with
  | 0 => mov (imm % 4) (bits imm 15 8)
  | 1 => arr (imm % 4)
  | 2 => arraysEmpty e
  | 3 => chainEmpty e
  | 4 => rly (bits imm 15 8)
  | _ => ((List.range 4).all fun q => mov q 0) && arraysEmpty e && chainEmpty e && rly 0

/-- The wait ends: sRD takes the answer and issue resumes. -/
def endWait (e : Engine) (rd : Nat) (v : W64) : Engine :=
  wrS { e with seq := { e.seq with state := .running, wait := .none } } rd v

/-- Waves pass in a wait of condition 4 or 5, or in another (R180, R195). -/
def waitWaves (e : Engine) (cond n : Nat) : Engine :=
  let e1 := addWaves e n
  if cond = 4 ∨ cond = 5 then { e1 with cnt := { e1.cnt with extwaitWaves := e1.cnt.extwaitWaves + BitVec.ofNat 64 n } } else e1

/-- After the given number of waves the condition of a syn.wait is looked at: where it holds, sRD takes 1 and issue
resumes (R180, R219); where not, the wait goes on. (log 40 DEDUCED) -/
def execSynWaitSatisfied (ge waves : Nat) (s : State) : Host.Outcome State Fault Refusal :=
  ok (
    match (eng s ge).seq.wait with
    | .cond cond imm ra rb rd n =>
      let s1 := modEng s ge fun e => waitWaves e cond waves
      let go (t : State) (b : Bool) : State :=
        modEng t ge fun e => if b then endWait e rd 1 else
          { e with seq := { e.seq with wait := .cond cond imm ra rb rd (n + waves) } }
      if cond ≠ 5 then go s1 (condHolds (eng s1 ge) cond imm) else
      match vRead s1 ge ra.toNat 8 with
      | (.error c, t) => raiseSeq t ge c.1 { pc := (eng t ge).seq.pc - 8, stamp := t.stamp } c.2
      | (.ok d, t) => go t (decide (rb.toNat ≤ leNat (d.map Prod.fst)))
    | _ => s)

/-- After the given number of waves a condition 5 wait has lasted its timeout of IMM[31:16] times 1,024 waves: sRD takes 0
and issue resumes (R180); before that, or with no timeout, the wait goes on. (log 40 DEDUCED) -/
def execSynWaitTimeout (ge waves : Nat) (s : State) : Host.Outcome State Fault Refusal :=
  ok (
    match (eng s ge).seq.wait with
    | .cond cond imm ra rb rd n =>
      let lim := bits imm 31 16
      modEng s ge fun e =>
        let x := waitWaves e cond waves
        if cond = 5 ∧ lim ≠ 0 ∧ lim * 1024 ≤ n + waves then endWait x rd 0
        else { x with seq := { x.seq with wait := .cond cond imm ra rb rd (n + waves) } }
    | _ => s)

/-- Every write of the context issued before a stamp is globally visible (R214, R218): complete, its invalidations
acknowledged, and the stale-line entries of the homes they reached drained, from any context. (log 41 DEDUCED) -/
def ctxVisible (s : State) (ctx stamp : Nat) : Bool :=
  !earlierWrites s ctx stamp
  && !(s.harn.pendInv.any fun p => p.ctx == ctx && decide (p.stamp < stamp))
  && !((reachedHomes s ctx stamp).any fun h => (sget [] s.harn.stale h).any fun e => decide (e.stamp < stamp))

/-- A marker of a context's FENCE.FLAG reaches a home, which drains every entry logged before it, from any context (R216). -/
def execFenceFlagMarker (home ctx : Nat) (s : State) : Host.Outcome State Fault Refusal :=
  ok (
    if s.harn.fences.any (fun f => f.ctx == ctx && f.flag.isSome) then
      let s1 := drainStale s (sget [] s.harn.stale home)
      { s1 with harn := { s1.harn with stale := sset [] s1.harn.stale home [] } }
    else s)

/-- The oldest FENCE.FLAG of a context whose earlier writes are all globally visible writes its flag (R218).
 (log 41 DEDUCED) -/
def execFenceFlagWrite (ctx : Nat) (s : State) : Host.Outcome State Fault Refusal :=
  ok (
    match s.harn.fences.find? fun f => f.ctx == ctx && f.flag.isSome with
    | some f =>
      match f.flag with
      | some (a, v) =>
        if ctxVisible s ctx f.stamp && !lineBusy s (a / 64) then
          let s1 := homeWrite s ctx f.stamp false a ((leBytes 8 v.toNat).map (·, false))
          { s1 with harn := { s1.harn with fences := s1.harn.fences.erase f } }
        else s
      | none => s
    | none => s)

/-- A full stale-line log drains its oldest 1,024 entries (R216). -/
def execStaleLogOverflow (home : Nat) (s : State) : Host.Outcome State Fault Refusal :=
  ok (drainOldest s home)

end Sys2Proof.Machine
end

