-- ==== Sys2Proof/Machine/Agents.lean ====
section
/-! DEFINITION. Region attribute commands (R211 to R213), offload streams (R221, R222), the commands of the translation
agents (R206, R208), and the combine units' own commands (R116 to R119, R127). -/

namespace Sys2Proof.Machine

/-! ### Region attributes -/

/-- The check of a command: the RESULT code of the first check that fails, or the regions (R213). (log 42 DEDUCED) -/
def attrCheck (s : State) (w0 w1 : W64) : Except Nat (List Nat) :=
  if bits w0.toNat 20 0 ≠ 0 ∨ bits w0.toNat 63 44 ≠ 0 ∨ bits w1.toNat 62 24 ≠ 0 then .error 1
  else if attrCount w1 = 0 ∨ 1179648 < attrCount w1 then .error 5
  else
    match attrRegions s.map (attrBase w0) (attrCount w1) with
    | .error c => .error c
    | .ok l =>
      let open_ (r : Nat) : Bool := s.cmb.tab.any fun e => cmbBusy e.2 && spansMeet (cmbSpan e.2) (r * mib2, mib2)
      if bits w1.toNat 22 21 ≠ 2 ∧ l.any (fun r => sget 0 s.mem.attr r % 4 == 2 && open_ r) then .error 4 else .ok l

/-- A GO write (R213): the fields take the values written; an idle unit checks the command whole and starts it, or answers
its RESULT code. (log 42 DEDUCED) -/
def execRegionAttrGo (w1 : W64) (s : State) : Host.Outcome State Fault Refusal :=
  let f := w1 &&& 0x7FFFFFFFFFFFFFFF
  let c := s.attrCmd
  ok (
    if c.busy ∨ !bitAt w1.toNat 63 then { s with attrCmd := { c with w1 := f } } else
    match attrCheck s c.w0 f with
    | .error r => { s with attrCmd := { c with w1 := f, result := r, done := 0 } }
    | .ok _ => { s with attrCmd := { c with w1 := f, run := (c.w0, f), busy := true, result := 0, done := 0 } })

/-- Lines of a region that some cache or directory entry names. -/
def regionLines (s : State) (r : Nat) : List Nat :=
  let inR (l : Nat) : Bool := l / (mib2 / 64) == r
  ((s.harn.puts.map fun p => p.2.1).filter inR ++ (s.harn.dir.map Prod.fst).filter inR ++ (s.harn.lines.map fun e => e.1 % 2 ^ 38).filter inR).eraseDups

/-- One region takes its new attribute (R213 steps 2 to 4). -/
def attrApply (s : State) (kind : Nat) (zero : Bool) (r : Nat) : State :=
  let h := homeOf (r * mib2)
  let log := sget [] s.harn.stale h
  let mine := log.filter fun e => e.line / (mib2 / 64) == r
  let s1 := drainStale s mine
  let s2 := { s1 with harn := { s1.harn with stale := sset [] s1.harn.stale h (log.filter fun e => e.line / (mib2 / 64) != r) } }
  let ls := regionLines s2 r
  let s3 := ls.foldl recallLine s2
  let s4 := { s3 with harn := { s3.harn with
      lines := s3.harn.lines.filter fun e => !ls.contains (e.1 % 2 ^ 38),
      wb := s3.harn.wb.filter fun e => !ls.contains (e.1 % 2 ^ 38),
      l2 := s3.harn.l2.filter fun e => !ls.contains (e.1 % 2 ^ 38) } }
  let old := sget 0 s4.mem.attr r
  let m := if zero then zeroSpan s4.mem (r * mib2, mib2) else s4.mem
  { s4 with mem := { m with attr := sset 0 m.attr r (kind + if zero then 0 else old / 4 % 2 * 4) } }

/-- A transaction is open on a line of a region, or a deferral after an LR keeps one (R245, R247). -/
def regionOpen (s : State) (r : Nat) : Bool :=
  let inR (l : Nat) : Bool := l / (mib2 / 64) == r
  (s.harn.txns.any fun t => inR t.line) || (s.harn.pendInv.any fun p => inR p.line)
    || s.harn.lrDefer.any fun d => d.2 != 0 && inR (d.2 - 1)

/-- The command's regions in order, each once no transaction is open in it (R213, R245): the first that must wait stops it.
 (log 42 DEDUCED) -/
def attrRun (w : Nat) : List Nat → State → State
  | [], s => s
  | r :: l, s =>
    if regionOpen s r then s else
    let s1 := attrApply s (bits w 22 21) (bitAt w 23) r
    attrRun w l { s1 with attrCmd := { s1.attrCmd with done := s1.attrCmd.done + 1 } }

/-! ### Offload streams -/

/-- The key of stream st of LPDDR home 32 or 33. -/
def offKey (home stream : Nat) : Nat := home * 32 + stream

/-- RESERVE of a stream that is enabled. -/
def offReserve (o : Offload) : Nat := if bitAt o.ctl.toNat 63 then bits o.ctl.toNat 30 21 else 0

/-- The range of a stream is absent at a home (R222): a region of it lies outside the LPDDR views, or belongs to no interface
of this home. -/
def offAbsent (c : MapCfg) (home base n : Nat) : Bool :=
  (List.range n).any fun i =>
    let pa := base + i * mib2
    match canon c pa with
    | none => true
    | some a => decide (pa < lpBase ∨ hbmAlias ≤ pa) || (decide (pa < lpAlias) && homeOf a != home)

/-- A write of a stream's control word (R221, R222). (log 47 DEDUCED) -/
def execOffloadStreamEnable (home stream : Nat) (w1 : W64) (s : State) : Host.Outcome State Fault Refusal :=
  let k := offKey home stream
  let o := sget {} s.offload k
  let f := w1 &&& 0xBFFFFFFFFFFFFFFF
  let n := bits w1.toNat 20 0
  let others := ((List.range 32).map fun i => if i = stream then 0 else offReserve (sget {} s.offload (offKey home i))).sum
  let bad := bits o.base.toNat 20 0 != 0 || bits o.base.toNat 63 44 != 0 || bits w1.toNat 61 45 != 0 || bits w1.toNat 32 31 == 3
    || decide (n = 0 ∨ 1048576 < n) || offAbsent s.map home (bits o.base.toNat 43 21 * mib2) n
    || decide (512 < others + bits w1.toNat 30 21)
  ok (
    let v : W64 := if !bitAt w1.toNat 63 then f ||| (o.ctl &&& 0x4000000000000000) else if bad then (f &&& 0x7FFFFFFFFFFFFFFF) ||| 0x4000000000000000 else f
    { s with offload := sset {} s.offload k { o with ctl := v } })

/-- A 1 µs interval of a stream ends (R221): of the bytes counted and not yet carried, those it received; SHORT where it had demand
and they fall below RESERVE. (log 47 DEDUCED) -/
def execOffloadShortInterval (home stream carried : Nat) (demand : Bool) (s : State) : Host.Outcome State Fault Refusal :=
  let k := offKey home stream
  let o := sget {} s.offload k
  let got := min carried (o.bytes - o.mark).toNat
  let short := bitAt o.ctl.toNat 63 && demand && decide (got < bits o.ctl.toNat 30 21 * 1000)
  ok { s with offload := sset {} s.offload k { o with mark := o.mark + BitVec.ofNat 64 got, short := o.short + (if short then 1 else 0) } }

/-! ### Translation agents -/

/-- Marks cached translations as invalidated; they may still be used until IOFENCE.C completes (R208). -/
def invalTlb (s : State) (p : TlbEnt → Bool) : State :=
  { s with trans := { s.trans with tlb := s.trans.tlb.map fun e => if p e then { e with invalidated := true } else e } }

/-- An agent has taken the command at the head of its command queue, while that is on (R206). (log 43 PRESUMED) -/
def cmdTaken (s : State) (inst : Nat) : State :=
  let q := transReg s inst 0x20
  let h := q % 2 ^ 32
  if !bitAt (transReg s inst 0x48) 16 || h == q / 2 ^ 32 then s
  else setTransReg s inst 0x20 ((h + 1) % 2 ^ (transReg s inst 0x18 % 32 + 1) + q / 2 ^ 32 * 2 ^ 32)

/-- IOTINVAL.VMA: the entries of a device under the first-stage leaf of a page, a superpage or 64 KiB leaf whole, or all of a
device's. -/
def execIotinvalVma (inst dev : Nat) (all : Bool) (va : Nat) (s : State) : Host.Outcome State Fault Refusal :=
  ok (invalTlb (cmdTaken s inst) fun e =>
    e.inst == inst && e.dev == dev && (all || e.vpn * 4096 / e.span == va / e.span))

/-- IOTINVAL.GVMA: a second-stage entry lies under many first-stage pages, so every entry of the device is invalidated,
whatever the address. -/
def execIotinvalGvma (inst dev : Nat) (all : Bool) (va : Nat) (s : State) : Host.Outcome State Fault Refusal :=
  ok (invalTlb (cmdTaken s inst) fun e => e.inst == inst && e.dev == dev && (all || decide (va < 2 ^ 57)))

/-- IODIR.INVAL_DDT: the cached context of a device, or of every device. -/
def execIodirInvalDdt (inst dev : Nat) (all : Bool) (s : State) : Host.Outcome State Fault Refusal :=
  let ds := (s.trans.dcs.filter fun d => d.1 == inst && (all || d.2.1 == dev)).map fun d => (d.1, d.2.1)
  let s1 := invalTlb (cmdTaken s inst) fun e => e.inst == inst && (all || e.dev == dev)
  ok { s1 with trans := { s1.trans with dcInval := (s1.trans.dcInval ++ ds).eraseDups } }

/-- IODIR.INVAL_PDT: a PCIe IOMMU drops what it cached for a process of the device; the engine translation agent has no process
directory and no such command (R206), which its command queue status shows, and takes no further command. -/
def execIodirInvalPdt (inst dev pid : Nat) (s : State) : Host.Outcome State Fault Refusal :=
  ok (
    if inst = 0 then setTransReg s 0 0x48 (transReg s 0 0x48 ||| 0x400)
    else invalTlb (cmdTaken s inst) fun e => e.inst == inst && e.dev == dev && e.pid == pid + 1)

/-- IOFENCE.C is taken by an agent, with the flag it writes at its completion. (log 43 PRESUMED) -/
def execIofenceC (inst : Nat) (flag : Option (Nat × W32)) (s : State) : Host.Outcome State Fault Refusal :=
  let s1 := cmdTaken s inst
  ok { s1 with trans := { s1.trans with fences := s1.trans.fences ++ [(inst, flag)] } }

/-- An engine's write that has been translated waits for its line, and is not home-visible (R208). -/
def engHeld (s : State) : Bool := s.harn.holds.any fun q => match q.data with | .eng _ _ _ _ => true | _ => false

/-- The oldest IOFENCE.C of an agent completes (R208): invalidated entries and contexts are gone, and its flag is written. That of
the engine translation agent waits until every translated engine write is home-visible. -/
def execIofenceCComplete (inst : Nat) (s : State) : Host.Outcome State Fault Refusal :=
  ok (
    match s.trans.fences.find? fun f => f.1 == inst with
    | none => s
    | some f =>
      if inst = 0 ∧ engHeld s = true then s else
      let t := s.trans
      let t1 : Trans := { t with
        tlb := t.tlb.filter fun e => !(e.inst == inst && e.invalidated),
        dcs := t.dcs.filter fun d => !(d.1 == inst && t.dcInval.contains (d.1, d.2.1)),
        dcInval := t.dcInval.filter fun d => d.1 != inst,
        fences := t.fences.erase f }
      let s1 := { s with trans := t1 }
      match f.2 with
      | none => s1
      | some (pa, v) =>
        match canon s1.map pa with
        | some a => homeWrite s1 noCtx 0 false (a / 4 * 4) ((leBytes 4 v.toNat).map (·, false))
        | none => s1)

end Sys2Proof.Machine
end

