-- ==== Sys2Proof/Machine/Keys.lean ====
section
/-! DEFINITION. The package secret, the keys derived from it, and the configuration base that holds one of them (R465, R466). -/

namespace Sys2Proof.Machine

/-- The package secret. -/
def packageSecret : List Byte := (List.range 32).map Config.secretByte

/-- The keys: HMAC-SHA-256 under the secret over a label's ASCII bytes. -/
def labelKey (label : List Byte) : List Byte := hmac256 packageSecret label
/-- Seed and identifier of the attestation key: "hss". -/
def hssKey : List Byte := labelKey [0x68, 0x73, 0x73]
/-- The RPMC root key: "rpmc". -/
def rpmcKey : List Byte := labelKey [0x72, 0x70, 0x6D, 0x63]
/-- The binding value: "bind" and the serial number. -/
def bindKey : List Byte := labelKey ([0x62, 0x69, 0x6E, 0x64] ++ leBytes 8 Config.serial.toNat)

/-- Byte i of the configuration base: the header that manufacture wrote (R466, R474), with the serial number and the binding value,
and what else it holds. -/
def baseByte (i : Nat) : Byte :=
  let head := leBytes 4 0x5A565149 ++ leBytes 4 1 ++ leBytes 4 2 ++ leBytes 4 1
  if i < 16 then head.getD i 0
  else if 32 ≤ i ∧ i < 40 then (leBytes 8 Config.serial.toNat).getD (i - 32) 0
  else if 40 ≤ i ∧ i < 72 then bindKey.getD (i - 40) 0
  else if 472 ≤ i ∧ i < 512 then 0
  else Config.configByte i

end Sys2Proof.Machine
end

