-- ==== Sys2Proof/Machine/Harness.lean ====
section
/-! DEFINITION. The harness, message by message: requests at the homes, forwards, invalidations, data, acknowledgements,
credits and hold queues, the host L2s, and failures (R231 to R252). -/

namespace Sys2Proof.Machine

/-- Changes the harness. -/
def modHarn (s : State) (f : Harness → Harness) : State := { s with harn := f s.harn }

/-- Sends a message. (log 50 DESIGN CHOICE) -/
def sendMsg (s : State) (m : HMsg) : State := modHarn s fun h => { h with msgs := h.msgs ++ [m] }

/-- Answers an agent. -/
def reply (s : State) (r : HReply) : State := modHarn s fun h => { h with replies := h.replies ++ [r] }

/-- Sixty-four bytes of a line in memory. -/
def memLine (s : State) (line : Nat) : List PByte := memRun s.mem (line * 64) 64

/-- A host die, the one kind of agent whose cores take access faults. -/
def isHost (agent : Nat) : Bool := agent == 96 || agent == 97

/-- An agent gets the bytes it loads; a host core that loads poison takes an access fault, and the Groom records the address
(R225). -/
def loaded (s : State) (agent pa : Nat) (d : List PByte) : State :=
  if isHost agent && d.any Prod.snd then note (reply s (.fault agent pa)) 4 6 1 5 (agent - 96) [BitVec.ofNat 64 pa]
  else reply s (.data agent pa d)

/-! ### The L2 caches of a host die (R231, R232) -/

/-- The state in which a core's L2 holds a line. -/
def l2Of (s : State) (core line : Nat) : Option Moesi := sget none s.harn.l2 (ckey core line)

/-- A core's L2, of 2,048 sets of 16 ways, makes room for a line; the die keeps what it gives up. (log 90 DESIGN CHOICE) -/
def fitL2 (s : State) (core line : Nat) : State :=
  if (l2Of s core line).isSome then s else
  let l := (s.harn.l2.map Prod.fst).filter fun k => k / 2 ^ 38 == core && k % 2 ^ 38 % 2048 == line % 2048
  match cacheVictim s (l.map (· % 2 ^ 38)) with
  | some v => modHarn { s with free := s.free + 1 } fun h => { h with l2 := sset none h.l2 (ckey core v) none }
  | none => s

/-- The L2 entries of a line in a core's own die, other than the core's. -/
def l2Others (s : State) (core line : Nat) : List Nat :=
  (s.harn.l2.map Prod.fst).filter fun k => k % 2 ^ 38 == line && k / 2 ^ 38 / 48 == core / 48 && k / 2 ^ 38 != core

/-- The L3 resolves a core's load among the L2s of its die (R232): a dirty line stays owned by the core that wrote it; a line that
no other core holds comes in E where the die owns it. -/
def l2Load (s : State) (core line : Nat) : State :=
  if (l2Of s core line).isSome then s else
  let s1 := fitL2 s core line
  let others := l2Others s1 core line
  let own := match cached s1 (agentOfCore core) line with | some c => c.st == .e || c.st == .m | none => false
  modHarn s1 fun h =>
    let l := others.foldl (fun m k => smod none m k fun st => st.map shareState) h.l2
    { h with l2 := sset none l (ckey core line) (some (if others.isEmpty && own then .e else .s)) }

/-- A core of the die takes a line in M; no other core keeps it. -/
def l2Own (s : State) (core line : Nat) : State :=
  let s1 := fitL2 s core line
  let others := l2Others s1 core line
  modHarn s1 fun h =>
    let l := others.foldl (fun m k => sset none m k none) h.l2
    { h with l2 := sset none l (ckey core line) (some .m) }

/-! ### What a core does in its cache (R247) -/

/-- The operation with an AMO number. -/
def amoOf (n : Nat) : Amo :=
  match n with
  | 0 => .swap | 1 => .add | 2 => .xor | 3 => .and | 4 => .or | 5 => .min | 6 => .max | 7 => .minu | _ => .maxu

/-- The new value of an atomic of w bytes. -/
def amoValue (w : Nat) (op : Amo) (old v : Nat) : Nat :=
  let m := 2 ^ (8 * w)
  match op with
  | .swap => v % m
  | .add => (old + v) % m
  | .xor => (old ^^^ v) % m
  | .and => (old &&& v) % m
  | .or => (old ||| v) % m
  | .min => if signed (8 * w) old < signed (8 * w) v then old else v % m
  | .max => if signed (8 * w) old < signed (8 * w) v then v % m else old
  | .minu => if old < v % m then old else v % m
  | .maxu => if old < v % m then v % m else old

/-- An access lies in one line and, for an atomic, is naturally aligned (R247). (log 50 DESIGN CHOICE) -/
def actFits (pa : Nat) : CoreAct → Bool
  | .none => true
  | .store d => decide (pa % 64 + d.length ≤ 64)
  | .amo w _ _ => (w == 4 || w == 8) && pa % w == 0
  | .lr => pa % 4 == 0
  | .sc d => (d.length == 4 || d.length == 8) && pa % d.length == 0

/-- What a cluster does with a line it owns is its walker's A and D update (R232, R247): bits 6 and 7 of a PTE. -/
def walkerAct : CoreAct → Bool
  | .amo w op v => w == 8 && op == 4 && v &&& 0xC0 == v
  | _ => false

/-- What the requester does with the line it holds in M: the line's bytes, poison, and its answers. A store of part of a
poisoned line leaves it poisoned (R225). -/
def useLine (s : State) (agent line core pa : Nat) (act : CoreAct) : State :=
  match cached s agent line with
  | none => s
  | some c =>
    let put (t : State) (b : List Byte) : State :=
      let data := c.data.take (pa % 64) ++ b ++ c.data.drop (pa % 64 + b.length)
      let t1 := setCached t agent line (some { c with st := .m, data := data, poison := c.poison && decide (b.length < 64) })
      dropResv (if isHost agent then l2Own t1 core line else t1) line
    let keep (t : State) : State := if isHost agent then l2Own t core line else t
    match act with
    | .none => keep (loaded s agent pa c.bytes)
    | .store b => put s b
    | .amo w op v =>
      let old := (c.data.drop (pa % 64)).take w
      let t := loaded s agent pa (old.map (·, c.poison))
      if c.poison then keep t else put t (leBytes w (amoValue w (amoOf op) (leNat old) v.toNat))
    | .lr =>
      let t := keep (loaded (setCached s agent line (some { c with st := .m })) agent pa c.bytes)
      if c.poison then t else
      modHarn t fun h => { h with resv := sset 0 h.resv core (line + 1), lrDefer := sset 0 h.lrDefer core (line + 1) }
    | .sc b =>
      let held := sget 0 s.harn.resv core == line + 1
      let t := modHarn (reply s (.sc core held)) fun h =>
        { h with resv := sset 0 h.resv core 0, lrDefer := sset 0 h.lrDefer core 0 }
      if held then put t b else t

/-- An agent serves a load from the line it holds. -/
def loadLine (s : State) (agent line core pa : Nat) : State :=
  match cached s agent line with
  | some c => loaded (if isHost agent then l2Load s core line else s) agent pa c.bytes
  | none => s

/-- What a request for a line is for, once its agent holds the line in the state asked for. -/
def useData (s : State) (agent line : Nat) (req : Req) : ReqData → State
  | .act core pa .none => if req = .rs then loadLine s agent line core pa else useLine s agent line core pa .none
  | .act core pa a => useLine s agent line core pa a
  | _ => s

/-! ### Accepting requests (R233, R243, R246) -/

/-- Open ways of a line's set: entries with a transaction, and ways reserved by granted credits. -/
def openWays (s : State) (line : Nat) : Nat :=
  (setLines s line).countP (fun e => e.2.openTx) + s.harn.credits.countP (fun c => c.granted && sameSet c.line line)

/-- Open transactions of a home, with slots reserved by granted credits. -/
def homeTxns (s : State) (h : Nat) : Nat :=
  s.harn.txns.countP (fun t => homeOf (t.line * 64) == h) + s.harn.credits.countP (fun c => c.granted && c.home == h)

/-- A set recall is under way in the line's set (R251). -/
def setRecalling (s : State) (line : Nat) : Bool :=
  s.harn.recalls.any fun r => r.1 == homeOf (line * 64) && r.2.1 == dirSet line

/-- The line is free and the home has room (R243, R246, R247). -/
def canOpen (s : State) (line : Nat) : Bool :=
  !lineOpen s line && decide (openWays s line < 12) && !setRecalling s line && ((dirEnt s line).isSome || hasRoom s line)
  && decide (homeTxns s (homeOf (line * 64)) < if isLpHome (homeOf (line * 64)) then 1024 else 256)

/-- An agent's requests outstanding at a home: open, held and refused (R233). -/
def outstanding (s : State) (agent h : Nat) : Nat :=
  s.harn.txns.countP (fun t => t.agent == agent && homeOf (t.line * 64) == h)
  + s.harn.holds.countP (fun t => t.agent == agent && t.home == h)
  + s.harn.credits.countP (fun t => t.agent == agent && t.home == h)

/-- Sends a forward to the owner. -/
def sendForward (s : State) (t : Txn) (o : Nat) (inval sd : Bool) : State := sendMsg s (.forward t.id t.line o inval sd)

/-- Sends invalidations. -/
def sendInvals (s : State) (t : Txn) (l : List Nat) : State := l.foldl (fun u a => sendMsg u (.inval t.id t.line a)) s

/-- Replaces a transaction. -/
def setTxn (s : State) (t : Txn) : State :=
  modHarn s fun h => { h with txns := h.txns.map fun x => if x.id = t.id then t else x }

/-- A transaction by its number. -/
def txnOf (s : State) (id : Nat) : Option Txn := s.harn.txns.find? fun t => t.id == id

/-- Pins or unpins an entry. -/
def pin (s : State) (line : Nat) (b : Bool) : State :=
  match dirEnt s line with
  | some e => setDir s line (some { e with openTx := b })
  | none => s

/-- The home's work on a transaction whose forwards and acknowledgements are in: a write or atomic is performed, and data and
grant go to the requester (R240). A write's invalidations go out when it is performed. -/
def progress (s : State) (id : Nat) : State :=
  match txnOf s id with
  | none => s
  | some t =>
    if t.fwd.isSome || !t.acks.isEmpty || t.granted then s else
    let send (u : State) (x : Txn) : State := sendMsg (setTxn u { x with granted := true }) (.data x.id x.line x.agent)
    match t.req with
    | .wnc =>
      match t.data with
      | .write pa d df =>
        let s1 := dropResv { s with mem := memWrite s.mem pa d } t.line
        let hs := sharers s1 t.line
        if df && attrKind s.mem pa == 1 then
          if hs.isEmpty then send s1 t else
          let h := homeOf pa
          let s2 := drainOldest s1 h
          let ent : StaleEnt := { line := t.line, agents := hs, ctx := noCtx, stamp := 0 }
          send (modHarn s2 fun x => { x with stale := smod [] x.stale h (· ++ [ent]) }) t
        else send (sendInvals s1 t hs) { t with acks := hs }
      | _ => send s t
    | .anc =>
      match t.data with
      | .amo pa w op v =>
        let old := memRun s.mem pa w
        let nv := leBytes w (amoValue w op (leNat (old.map Prod.fst)) v.toNat)
        let s1 := if old.any Prod.snd then s
          else { s with mem := memPut s.mem pa nv }
        send (dropResv s1 t.line) { t with buf := old }
      | _ => send s t
    | _ => send s (if t.buf.isEmpty then { t with buf := memLine s t.line } else t)

/-- Opens a transaction for a request (R240); a line that its agent has come to hold in the state asked for is used at once. -/
def openTxn (s : State) (agent line : Nat) (req : Req) (data : ReqData) : State :=
  let has := cached s agent line
  let mine := match has with | some c => c.st == .m || c.st == .e | none => false
  if req = .rs ∧ has.isSome then useData s agent line .rs data
  else if (req = .ru ∨ req = .upg) ∧ mine = true then useData s agent line .ru data else
  let id := s.harn.nextId
  let s0 := modHarn { s with stamp := s.stamp + 1 } fun h => { h with nextId := h.nextId + 1 }
  let req := if req = .upg ∧ has.isNone then .ru else if req = .ru ∧ has.isSome then .upg else req
  let t : Txn := { id := id, line := line, agent := agent, req := req, data := data, acks := [], fwd := none, granted := false,
                   lost := false, result := none, buf := [], wasDirty := false }
  let add (u : State) (x : Txn) : State := modHarn u fun h => { h with txns := h.txns ++ [x] }
  let caching := req == .rs || req == .ru || req == .upg
  let owner := match ownerOf s line with | some o => if caching && o == agent then none else some o | none => none
  let others := (sharers s line).filter fun a => !(caching && a == agent)
  let h := homeOf (line * 64)
  let go (u : State) : State := progress u id
  let fresh (u : State) : State :=
    let v := makeRoom u line
    setDir v line (some { newDir v.stamp with dstate := .x, owner := agentCode s.map h agent, openTx := true })
  let forward (inval sd : Bool) (x : Txn) : State :=
    match owner with
    | some o => let y := { x with fwd := some o }; sendForward (add (pin s0 line true) y) y o inval sd
    | none => go (add (pin s0 line true) x)
  match req with
  | .rs =>
    (match dirEnt s0 line with
     | none => go (add (fresh s0) { t with result := some .e })
     | some _ => forward false true { t with result := some .s })
  | .rnc => forward false true t
  | .wnc => forward true true t
  | _ =>
    -- ANC, RU and UPG
    let s1 := if req != .anc && (dirEnt s0 line).isNone then fresh s0 else pin s0 line true
    let x := { t with fwd := owner, acks := others, result := if req == .anc then none else some .m }
    let s2 := sendInvals (add s1 x) x others
    match owner with
    | some o => sendForward s2 x o true (req != .upg)
    | none => go s2

/-- A request that the home refuses or holds (R243). -/
def meetBusy (s : State) (agent line : Nat) (req : Req) (data : ReqData) : State :=
  let h := homeOf (line * 64)
  let num := s.harn.nextId
  let s0 := modHarn s fun x => { x with nextId := x.nextId + 1 }
  if creditMode s.map h then
    let c : Credit := { home := h, num := num, agent := agent, line := line, req := req, data := data, granted := false }
    let s1 := modHarn s0 fun x => { x with credits := x.credits ++ [c], msgs := x.msgs ++ [.retry line agent num] }
    { s1 with hcnt := { s1.hcnt with dirRetries := s1.hcnt.dirRetries + 1 } }
  else
    let q : Held := { home := h, num := num, agent := agent, line := line, req := req, data := data }
    let s1 := modHarn s0 fun x => { x with holds := x.holds ++ [q] }
    { s1 with hcnt := { s1.hcnt with dirHolds := s1.hcnt.dirHolds + 1 } }

/-- A request reaches its home: a reissue with a granted credit is accepted; a newcomer opens where the line is not busy, and else
waits; a requester sends nothing while its refused or held request waits (R243). -/
def request (s : State) (agent line : Nat) (req : Req) (data : ReqData) : State :=
  let same (c : Credit) : Bool := c.agent == agent && c.line == line && c.req == req && c.data == data
  match s.harn.credits.find? same with
  | some c =>
    if c.granted then openTxn (modHarn s fun h => { h with credits := h.credits.erase c }) agent line req data else s
  | none =>
    if s.harn.holds.any (fun c => c.agent == agent && c.line == line && c.req == req && c.data == data) then s
    else if canOpen s line && !lineBusy s line then openTxn s agent line req data
    else meetBusy s agent line req data

/-- A line's region is the next that a region attribute command changes: its home holds new accesses (R213, R245). -/
def attrHolds (s : State) (line : Nat) : Bool := (attrLeft s.map s.attrCmd).head? == some (line / (mib2 / 64))

/-- A posted write of an edge die that is not yet globally visible (R220). (log 144 DEDUCED) -/
def postedOpen (s : State) (agent : Nat) : Bool :=
  (s.harn.txns.any fun t => t.agent == agent && t.req == .wnc) || (s.harn.holds.any fun t => t.agent == agent && t.req == .wnc)
    || s.harn.credits.any fun t => t.agent == agent && t.req == .wnc

/-- A write follows the earlier posted writes of its root port (R220): a PCIe write without Relaxed Ordering. -/
def inOrder (io : Option IoReq) : Bool := match io with | some x => !x.relaxed | none => false

/-- An agent may send a request (R233, R213, R220, R241): fewer than 8 outstanding at the home, no notice of its own on its way, no
region change, and for an ordered posted write none before it. (log 50 DESIGN CHOICE; log 144 DEDUCED) -/
def maySend (s : State) (agent line : Nat) (ordered : Bool) : Bool :=
  decide (outstanding s agent (homeOf (line * 64)) < 8) && !putFlies s agent line && !attrHolds s line
    && !(ordered && postedOpen s agent)

/-- An agent has a request to send: it is sent, or the agent holds it (R233). (log 50 DESIGN CHOICE) -/
def sendReq (s : State) (agent line : Nat) (req : Req) (data : ReqData) (ordered : Bool) : State :=
  let q : Held := { home := homeOf (line * 64), ordered := ordered, agent := agent, line := line, req := req, data := data }
  if s.harn.queued.contains q then s
  else if s.harn.credits.any (fun c => c.agent == agent && c.line == line && c.req == req && c.data == data) then
    request s agent line req data
  else if maySend s agent line ordered && !(ordered && s.harn.queued.any fun x => x.agent == agent && x.ordered) then
    request s agent line req data
  else modHarn s fun h => { h with queued := h.queued ++ [q] }

/-- An earlier request of the line waits at its home before one with a number. -/
def waitsBefore (s : State) (line num : Nat) : Bool :=
  (s.harn.holds.any fun q => q.line == line && decide (q.num < num)) || s.harn.credits.any fun c => c.line == line && decide (c.num < num)

/-- The held requests that can now open do so, oldest first (R243); an engine's write is performed whole. (log 51 DEDUCED) -/
def takeHeld (s : State) : State :=
  s.harn.holds.foldl (fun t q =>
    if waitsBefore t q.line q.num then t else
    let u := modHarn t fun h => { h with holds := h.holds.erase q }
    match q.data with
    | .eng ctx stamp a d => if lineOpen t q.line || lrKeeps t q.line then t else wncNow u ctx stamp true a d
    | _ => if canOpen t q.line then openTxn u q.agent q.line q.req q.data else t) s

/-- The requests that agents hold are sent as soon as they may be, in order. -/
def sendQueued (s : State) : State :=
  s.harn.queued.foldl (fun t q =>
    let before := (t.harn.queued.takeWhile fun x => x ≠ q).any fun x => x.agent == q.agent && x.ordered && q.ordered
    if maySend t q.agent q.line q.ordered && !before then
      request (modHarn t fun h => { h with queued := h.queued.erase q }) q.agent q.line q.req q.data
    else t) s

/-- What waits at the homes and at the agents goes on. -/
def settleHarn (s : State) : State := sendQueued (takeHeld s)

/-- An access of an agent to a physical address, or to one that its PCIe IOMMU translates (R206): the canonical address, or an
access fault (R203). (log 50 DESIGN CHOICE) -/
def agentAccess (s : State) (agent pa : Nat) (io : Option IoReq) (k : AccKind) (go : State → Nat → State) : State :=
  if !powered s then s else
  let x : XRes × State := match io with
    | some r => if agent = 106 ∨ agent = 107 then xlate s none (agent - 105) r.dev r.pid pa k else (.ok pa 0, s)
    | none => (.ok pa 0, s)
  match x.1 with
  | .fault => reply x.2 (.fault agent pa)
  | .ok p _ =>
    match canon s.map p with
    | none => reply x.2 (.fault agent pa)
    | some a => go x.2 a

/-- A cache may keep lines of a region (R204, R211): NORMAL or STREAMING, and for a cluster of its own island or LPDDR. -/
def mayCache (s : State) (agent a : Nat) : Bool :=
  decide (attrKind s.mem a ≤ 1) && (isHost agent || (decide (agent < 96) && clusterMayHold s agent (a / 64)))

/-- A home's read of memory meets an uncorrectable error: the granule becomes poison, and the home reports it (R223, R224).
 (log 52 DESIGN CHOICE) -/
def readError (s : State) (a : Nat) : State :=
  note { s with mem := poisonGran s.mem a } 4 3 3 10 (homeOf a) [BitVec.ofNat 64 (a / 64 * 64)]

/-- The home answers a read of a line from memory when no cache owns it; an error that it meets there comes first.
 (log 52 DESIGN CHOICE) -/
def readMeets (s : State) (err : Bool) (a : Nat) : State := if err && (ownerOf s (a / 64)).isNone then readError s a else s

/-- A write of the agent is refused with an access fault (R107, R211): to a COMBINE region, always for a deferring writer, and
for others while an epoch is OPEN or APPLYING in a region, count area or staging area there. -/
def writeRefused (s : State) (a : Nat) (defer : Bool) : Bool :=
  attrKind s.mem a == 2 && (defer || s.cmb.tab.any fun e => cmbBusy e.2 && (cmbAreasOf e.2).any fun r => decide (r.1 ≤ a ∧ a < r.1 + r.2))

/-- RS: a cacheable read; the agent's own copy is a hit. Where the line may not be cached the read goes uncached (R211).
 (log 52 DESIGN CHOICE) -/
def execRs (agent pa core : Nat) (err : Bool) (s : State) : Host.Outcome State Fault Refusal :=
  ok (agentAccess s agent pa none .read fun t a =>
    if !mayCache t agent a then sendReq (readMeets t err a) agent (a / 64) .rnc (.act core pa .none) false else
    match cached t agent (a / 64) with
    | some _ => loadLine t agent (a / 64) core pa
    | none => sendReq (readMeets t err a) agent (a / 64) .rs (.act core pa .none) false)

/-- What an agent does where a line may not be cached, or to a page of PBMT NC or IO (R107, R211, R248): a store is a write at the
home, an atomic one at the home, and a load-reserved or store-conditional an access fault. -/
def uncachedAct (s : State) (agent pa a : Nat) (act : CoreAct) : State :=
  match act with
  | .none => s
  | .store d => if writeRefused s a false then reply s (.fault agent pa)
      else sendReq s agent (a / 64) .wnc (.write a (d.map (·, false)) false) false
  | .amo w op v => if attrKind s.mem a = 2 then reply s (.fault agent pa)
      else sendReq s agent (a / 64) .anc (.amo a w (amoOf op) v) false
  | _ => reply s (.fault agent pa)

/-- RU: a read for ownership; a line that the agent owns takes the store or atomic at once.
 (log 48 DEDUCED; log 52 DESIGN CHOICE) -/
def execRu (agent pa : Nat) (u : OwnUse) (s : State) : Host.Outcome State Fault Refusal :=
  ok (agentAccess s agent pa none .write fun t a =>
    let line := a / 64
    if !actFits a u.act || (!isHost agent && !walkerAct u.act) then t
    else if u.nc || !mayCache t agent a then uncachedAct t agent pa a u.act else
    match cached t agent line with
    | some c =>
      if c.st = .m ∨ c.st = .e then settleHarn (useLine (setCached t agent line (some { c with st := .m })) agent line u.core a u.act)
      else sendReq t agent line .upg (.act u.core a u.act) false
    | none => sendReq (readMeets t u.err a) agent line .ru (.act u.core a u.act) false)

/-- UPG: a holder in S or O asks for ownership. (log 48 DEDUCED) -/
def execUpg (agent pa : Nat) (u : CoreUse) (s : State) : Host.Outcome State Fault Refusal :=
  ok (agentAccess s agent pa none .write fun t a =>
    let line := a / 64
    if !actFits a u.act || (!isHost agent && !walkerAct u.act) then t
    else if !mayCache t agent a then uncachedAct t agent pa a u.act else
    let waits := t.harn.credits.any fun c => c.agent == agent && c.line == line && c.req == .upg
    match cached t agent line with
    | some c => if c.st = .s ∨ c.st = .o then sendReq t agent line .upg (.act u.core a u.act) false else t
    | none => if waits then sendReq t agent line .upg (.act u.core a u.act) false else t)

/-- RNC: an uncached read of n bytes of one line. (log 52 DESIGN CHOICE) -/
def execRnc (agent pa n : Nat) (r : ReadCase) (s : State) : Host.Outcome State Fault Refusal :=
  ok (agentAccess s agent pa r.io .read fun t a =>
    if 64 < a % 64 + n then t else sendReq (readMeets t r.err a) agent (a / 64) .rnc .none false)

/-- WNC: a write that does not allocate. -/
def execWnc (agent pa : Nat) (data : List (Byte × Bool)) (w : WriteCase) (s : State) :
    Host.Outcome State Fault Refusal :=
  ok (agentAccess s agent pa w.io .write fun t a =>
    if 64 < a % 64 + data.length ∨ data.isEmpty then t
    else if writeRefused t a w.defer then reply t (.fault agent pa)
    else sendReq t agent (a / 64) .wnc (.write a data w.defer) (inOrder w.io))

/-- ANC: an atomic at the home; to a COMBINE region it is an access fault (R248). (log 52 DESIGN CHOICE) -/
def execAnc (agent pa width op : Nat) (x : AmoCase) (s : State) : Host.Outcome State Fault Refusal :=
  ok (agentAccess s agent pa none .write fun t a =>
    if !(width == 4 || width == 8) || a % width != 0 then t
    else if attrKind t.mem a = 2 then reply t (.fault agent pa)
    else sendReq (readMeets t x.err a) agent (a / 64) .anc (.amo a width (amoOf op) x.v) false)

/-! ### Eviction notices (R240, R241) -/

/-- A cache evicts a line in a state; PUTE also stands for the silent drop of a copy in S (R239). No line with a transaction open
leaves. -/
def evict (s : State) (agent pa : Nat) (want : List Moesi) : State :=
  match canon s.map pa with
  | none => s
  | some a =>
    match cached s agent (a / 64) with
    | some c => if want.contains c.st && !lineOpen s (a / 64) then evictLine s agent (a / 64) else s
    | none => s

/-- PUTM. (log 49 DEDUCED) -/
def execPutm (agent pa : Nat) (s : State) : Host.Outcome State Fault Refusal := ok (evict s agent pa [.m])

/-- PUTO. (log 49 DEDUCED) -/
def execPuto (agent pa : Nat) (s : State) : Host.Outcome State Fault Refusal := ok (evict s agent pa [.o])

/-- PUTE. (log 49 DEDUCED) -/
def execPute (agent pa : Nat) (s : State) : Host.Outcome State Fault Refusal := ok (evict s agent pa [.e, .s])

/-- The home takes a notice, whatever is open on the line: memory takes the data of the agent that is still the owner, and the
entry is freed or kept with its sharers; from any other agent nothing is written (R240, R241). (log 49 DEDUCED) -/
def handlePut (s : State) (agent line : Nat) (st : Moesi) : State :=
  if ownerOf s line ≠ some agent then s else
  match dirEnt s line with
  | none => s
  | some e =>
    let s1 := match (if st = .e then none else sget none s.harn.wb (ckey agent line)) with
      | some c => { s with mem := memWrite s.mem (line * 64) c.bytes }
      | none => s
    setDir s1 line (if e.csharers = 0 ∧ e.hsharers = 0 ∧ !e.openTx then none else some { e with dstate := .s, owner := 127 })

/-- PUT_ACK: the home has taken an agent's notice and acknowledges it, and the write-back buffer is freed. (log 49 DEDUCED) -/
def execPutAck (agent pa : Nat) (s : State) : Host.Outcome State Fault Refusal :=
  ok (match canon s.map pa with
    | none => s
    | some a =>
      match s.harn.puts.find? fun p => p.1 == agent && p.2.1 == a / 64 with
      | some p =>
        let s1 := handlePut s agent (a / 64) p.2.2
        settleHarn (modHarn s1 fun h => { h with puts := h.puts.erase p, wb := sset none h.wb (ckey agent (a / 64)) none })
      | none => s)

/-! ### Messages -/

/-- A core of the agent defers messages for the line (R247). -/
def lrHolds (s : State) (agent line : Nat) : Bool :=
  s.harn.lrDefer.any fun d => d.2 == line + 1 && agentOfCore d.1 == agent

/-- A forward is served at the owner's cache, or from its write-back buffer (R240, R241): data goes to the requester, or for a
write or atomic back to memory; M becomes O and E becomes S under a shared read; an invalidating forward drops the copy. -/
def serveForward (s : State) (id line agent : Nat) (inval sd : Bool) : State :=
  match txnOf s id with
  | none => s
  | some t =>
    let c := copyOf s agent line
    let data := match c with | some x => x.bytes | none => memLine s line
    let dirty := match c with | some x => x.dirty | none => false
    let home := t.req == .wnc || t.req == .anc
    let s1 := if inval then dropCopy s agent line else if t.req = .rs then shareCopy s agent line else s
    let s2 := if home && dirty then { s1 with mem := memWrite s1.mem (line * 64) data } else s1
    let s3 := if inval then
        (match dirEnt s2 line with
         | some e => setDir s2 line (some { e with dstate := .s, owner := 127 })
         | none => s2)
      else s2
    progress (setTxn s3 { t with fwd := none, buf := if sd && !home then data else t.buf, wasDirty := dirty }) id

/-- An invalidation is served at a cache (R240, R247): the copy and a reservation on it go, and the acknowledgement leaves. A
cluster that holds no copy acknowledges as well (R236). -/
def serveInval (s : State) (id line agent : Nat) : State := sendMsg (dropCopy s agent line) (.invAck id line agent)

/-- Takes a message out of the fabric. -/
def takeMsg (s : State) (m : HMsg) : State := modHarn s fun h => { h with msgs := h.msgs.erase m }

/-- The requester takes what it was granted: a cache installs the line and uses it; an uncached reader gets its bytes. -/
def deliver (s : State) (t : Txn) : State :=
  match t.result with
  | some st =>
    let d := if t.buf.isEmpty then memLine s t.line else t.buf
    let s1 := match cached s t.agent t.line with
      | some c => if t.req = .upg then unstale (setCached s t.agent t.line (some { c with st := st })) t.agent t.line
          else install s t.agent t.line st d
      | none => install s t.agent t.line st d
    useData s1 t.agent t.line t.req t.data
  | none =>
    match t.req, t.data with
    | .rnc, .act _ pa _ => loaded s t.agent pa t.buf
    | .rnc, _ => loaded s t.agent (t.line * 64) t.buf
    | .anc, _ => loaded s t.agent (t.line * 64) t.buf
    | _, _ => s

/-- DATA_RESPONSE: data and grant reach a requester, which acknowledges completion. -/
def execDataResponse (agent pa : Nat) (s : State) : Host.Outcome State Fault Refusal :=
  ok (match canon s.map pa with
    | none => s
    | some a =>
      let line := a / 64
      match s.harn.msgs.find? fun m => match m with | .data _ l x => l == line && x == agent | _ => false with
      | some (.data id l x) =>
        let s1 := takeMsg s (.data id l x)
        (match txnOf s1 id with
         | some t => sendMsg (deliver s1 t) (.compAck id line agent)
         | none => s1)
      | _ => s)

/-- The directory after a transaction (R240). (log 51 DEDUCED) -/
def closeDir (s : State) (t : Txn) : State :=
  let h := homeOf (t.line * 64)
  let code := agentCode s.map h t.agent
  let own : DirEnt := { newDir s.stamp with dstate := .x, owner := code }
  match t.req with
  | .rs =>
    (match dirEnt s t.line with
     | none => setDir s t.line (some own)
     | some e =>
       if t.result = some .e then setDir s t.line (some { own with stamp := s.stamp }) else
       let e1 := addSharer s.map h t.agent { e with openTx := false, stamp := s.stamp }
       match ownerOf s t.line with
       | some o =>
         if t.wasDirty then setDir s t.line (some { e1 with dstate := .o })
         else setDir s t.line (some { addSharer s.map h o e1 with dstate := .s, owner := 127 })
       | none => setDir s t.line (some e1))
  | .rnc => pin s t.line false
  | .wnc =>
    (match t.data with
     | .write pa _ df =>
       if df && attrKind s.mem pa == 1 && !(sharers s t.line).isEmpty then pin s t.line false else setDir s t.line none
     | _ => pin s t.line false)
  | .anc => setDir s t.line none
  | _ => setDir s t.line (some own)

/-- A transaction closes: its entry is unpinned, and what waited goes on. (log 51 DEDUCED) -/
def closeTxn (s : State) (t : Txn) : State :=
  settleHarn (closeDir (modHarn s fun h => { h with txns := h.txns.filter fun x => x.id != t.id }) t)

/-- One line's entry after an agent is lost (R249): dirty lines become poison in memory, and the agent leaves the entry. -/
def loseLine (s : State) (agent line : Nat) : State :=
  match dirEnt s line with
  | none => s
  | some e =>
    let h := homeOf (line * 64)
    let dirty := match copyOf s agent line with | some c => c.dirty | none => false
    let own := ownerOf s line == some agent
    let s1 := if own && dirty then note { s with mem := poisonGran s.mem (line * 64) } 5 2 1 10 h [BitVec.ofNat 64 (line * 64)] else s
    let e1 := if own then { e with dstate := .s, owner := 127 } else e
    let e2 := if 96 ≤ agent then { e1 with hsharers := clrBit e1.hsharers (agent - 96) } else
      let g := agentCode s.map h agent / groupSize s.map h
      if ((sharersOf s.map h e1).any fun a => a != agent && decide (a < 96) && agentCode s.map h a / groupSize s.map h == g
          && (cached s a line).isSome) then e1 else { e1 with csharers := clrBit e1.csharers g }
    setDir s1 line (if e2.dstate = .s ∧ e2.csharers = 0 ∧ e2.hsharers = 0 ∧ !e2.openTx then none else some e2)

/-- A transaction whose requester is lost closes once its forward and acknowledgements are in (R249); dirty data on its way to the
lost requester is lost, and its line becomes poison. (log 147 DEDUCED) -/
def finishLost (s : State) (id : Nat) : State :=
  match txnOf s id with
  | none => s
  | some t =>
    if !t.lost || t.fwd.isSome || !t.acks.isEmpty then s else
    let gone := t.wasDirty && t.result == some .m
    let s1 := if gone then note { s with mem := poisonGran s.mem (t.line * 64) } 5 2 1 10 (homeOf (t.line * 64)) [BitVec.ofNat 64 (t.line * 64)]
      else s
    settleHarn (loseLine (closeDir (modHarn s1 fun h => { h with
      txns := h.txns.filter (fun x => x.id != id), msgs := h.msgs.filter fun m => m != .data id t.line t.agent }) t) t.agent t.line)

/-- FORWARD: a forward for a line reaches an owner cache, which serves it, or defers it after an LR. -/
def execForward (agent pa : Nat) (s : State) : Host.Outcome State Fault Refusal :=
  ok (match canon s.map pa with
    | none => s
    | some a =>
      let line := a / 64
      match s.harn.msgs.find? fun m => match m with | .forward _ l x _ _ => l == line && x == agent | _ => false with
      | some (.forward id l x iv sd) =>
        let m : HMsg := .forward id l x iv sd
        if lrHolds s agent line then modHarn (takeMsg s m) fun h => { h with deferred := h.deferred ++ [m] }
        else finishLost (serveForward (takeMsg s m) id line agent iv sd) id
      | _ => s)

/-- INVALIDATION: an invalidation of a transaction, or one that an engine's write sent (R215), reaches a cache. -/
def execInvalidation (agent pa : Nat) (s : State) : Host.Outcome State Fault Refusal :=
  ok (match canon s.map pa with
    | none => s
    | some a =>
      let line := a / 64
      match s.harn.msgs.find? fun m => match m with | .inval _ l x => l == line && x == agent | _ => false with
      | some (.inval id l x) =>
        let m : HMsg := .inval id l x
        if lrHolds s agent line then modHarn (takeMsg s m) fun h => { h with deferred := h.deferred ++ [m] }
        else serveInval (takeMsg s m) id line agent
      | _ =>
        if s.harn.pendInv.any (fun p => p.line == line && p.agent == agent && !p.hit) && !lrHolds s agent line then
          modHarn (dropCopy s agent line) fun h =>
            { h with pendInv := h.pendInv.map fun p => if p.line = line ∧ p.agent = agent then { p with hit := true } else p }
        else s)

/-- INVALIDATION_ACK: an acknowledgement reaches the home; the transaction goes on, or an engine's write becomes globally
visible there, and with the last one its line is free. -/
def execInvalidationAck (agent pa : Nat) (s : State) : Host.Outcome State Fault Refusal :=
  ok (match canon s.map pa with
    | none => s
    | some a =>
      let line := a / 64
      match s.harn.msgs.find? fun m => match m with | .invAck _ l x => l == line && x == agent | _ => false with
      | some (.invAck id l x) =>
        let s1 := takeMsg s (.invAck id l x)
        (match txnOf s1 id with
         | some t => finishLost (progress (setTxn s1 { t with acks := t.acks.erase agent }) id) id
         | none => s1)
      | _ => settleHarn (modHarn s fun h => { h with pendInv := h.pendInv.filter fun p => !(p.line == line && p.agent == agent && p.hit) }))

/-- COMPLETION_ACK: the requester's acknowledgement closes the transaction, once every other one is in. -/
def execCompletionAck (agent pa : Nat) (s : State) : Host.Outcome State Fault Refusal :=
  ok (match canon s.map pa with
    | none => s
    | some a =>
      let line := a / 64
      match s.harn.msgs.find? fun m => match m with | .compAck _ l x => l == line && x == agent | _ => false with
      | some (.compAck id l x) =>
        (match txnOf s id with
         | some t => if t.acks.isEmpty then closeTxn (takeMsg s (.compAck id l x)) t else s
         | none => takeMsg s (.compAck id l x))
      | _ => s)

/-! ### Credits (R243, R244) -/

/-- RETRY reaches the requester, which keeps the request and sends nothing for it. -/
def execRetry (agent pa : Nat) (s : State) : Host.Outcome State Fault Refusal :=
  ok (match canon s.map pa with
    | none => s
    | some a =>
      match s.harn.msgs.find? fun m => match m with | .retry l x _ => l == a / 64 && x == agent | _ => false with
      | some m => takeMsg s m
      | none => s)

/-- The home grants the oldest credit whose line is not open, in the order of refusal among requests to one line, and for which a
slot and a way can be reserved. -/
def grantNext (s : State) (home : Nat) : State :=
  match s.harn.credits.find? fun c => c.home == home && !c.granted && canOpen s c.line && !waitsBefore s c.line c.num with
  | some c => modHarn s fun h => { h with credits := h.credits.map fun d => if d = c then { d with granted := true } else d }
  | none => s

/-- GRANT. -/
def execGrant (home : Nat) (s : State) : Host.Outcome State Fault Refusal := ok (grantNext s home)

/-- RELEASE: the requester gives a granted credit back. -/
def execRelease (home num agent : Nat) (s : State) : Host.Outcome State Fault Refusal :=
  ok (settleHarn (modHarn s fun h => { h with
    credits := h.credits.filter fun c => !(c.home == home && c.num == num && c.agent == agent && c.granted) }))

/-- A granted credit lapses after 4,096 waves (R244): counted, and the next credit is granted. -/
def execCreditLapse (home num : Nat) (s : State) : Host.Outcome State Fault Refusal :=
  ok (if s.harn.credits.any (fun c => c.home == home && c.num == num && c.granted) then
      let s1 := modHarn s fun h => { h with credits := h.credits.filter fun c => !(c.home == home && c.num == num) }
      grantNext (settleHarn { s1 with hcnt := { s1.hcnt with creditLapses := s1.hcnt.creditLapses + 1 } }) home
    else s)

/-- The line of a forward or invalidation for an agent. -/
def msgFor (m : HMsg) (agent : Nat) : Option Nat :=
  match m with
  | .forward _ l x _ _ => if x = agent then some l else none
  | .inval _ l x => if x = agent then some l else none
  | _ => none

/-- The deferral after an LR ends (R247): the messages deferred at the core's die that no other core's deferral keeps are served. -/
def execLrDeferEnd (core : Nat) (s : State) : Host.Outcome State Fault Refusal :=
  let agent := agentOfCore core
  let s0 := modHarn s fun h => { h with lrDefer := sset 0 h.lrDefer core 0 }
  let mine (m : HMsg) : Bool := match msgFor m agent with | some l => !lrHolds s0 agent l | none => false
  let s1 := modHarn s0 fun h => { h with deferred := h.deferred.filter fun m => !mine m }
  ok (settleHarn ((s.harn.deferred.filter mine).foldl (fun t m => match m with
    | .forward id ln x iv sd => finishLost (serveForward t id ln x iv sd) id
    | .inval id ln x => serveInval t id ln x
    | _ => t) s1))

/-! ### Failures (R249 to R251) -/

/-- Messages that do not name an agent. -/
def notOf (agent : Nat) (m : HMsg) : Bool :=
  match m with
  | .forward _ _ x _ _ => x != agent | .inval _ _ x => x != agent | .data _ _ x => x != agent | .compAck _ _ x => x != agent
  | .retry _ x _ => x != agent | .invAck _ _ x => x != agent

/-- Every home completes a lost agent's business (R249). (log 147 DEDUCED) -/
def loseAgent (s : State) (agent : Nat) : State :=
  let s1 := (s.harn.dir.map Prod.fst).foldl (fun t l => loseLine t agent l) s
  let mine (l : SMap (Option CLine)) : SMap (Option CLine) := l.filter fun e => e.1 / 2 ^ 38 != agent
  let s2 := modHarn s1 fun h => { h with
    lines := mine h.lines, wb := mine h.wb, l2 := h.l2.filter fun e => agentOfCore (e.1 / 2 ^ 38) != agent,
    credits := h.credits.filter fun c => c.agent != agent, holds := h.holds.filter fun c => c.agent != agent,
    queued := h.queued.filter fun c => c.agent != agent,
    puts := h.puts.filter fun p => p.1 != agent, pendInv := h.pendInv.filter fun p => p.agent != agent,
    recalls := h.recalls.map fun r => (r.1, r.2.1, r.2.2.filter fun a => a != agent),
    resv := h.resv.filter fun r => agentOfCore r.1 != agent, lrDefer := h.lrDefer.filter fun r => agentOfCore r.1 != agent,
    deferred := h.deferred.filter (notOf agent), msgs := h.msgs.filter (notOf agent) }
  -- its messages under way carry a generation that is no longer current: discarded and counted (R384)
  let sent := (s1.harn.msgs.filter fun m => match m with | .invAck _ _ x => x == agent | _ => false).length
  let s2 := { s2 with gens := { s2.gens with stale := s2.gens.stale + BitVec.ofNat 64 sent } }
  let ids := s2.harn.txns.map fun t => t.id
  settleHarn (ids.foldl (fun t id =>
    match txnOf t id with
    | none => t
    | some x =>
      let y := { x with fwd := if x.fwd = some agent then none else x.fwd, acks := x.acks.filter fun a => a != agent,
                        lost := x.lost || x.agent == agent }
      finishLost (if y.lost then setTxn t y else progress (setTxn t y) id) id) s2)

/-- A Groom reports a cache agent lost. -/
def execCacheAgentLost (agent : Nat) (s : State) : Host.Outcome State Fault Refusal := ok (loseAgent s agent)

/-- The caching agents that a home tracks. -/
def trackedAgents (c : MapCfg) (h : Nat) : List Nat := ((List.range (homeClusters c h)).map (codeAgent c h)) ++ [96, 97]

/-- An error in an entry was corrected (R251): it is counted, and the Groom sets ECC_MARK. -/
def dirCorrected (s : State) (line : Nat) : State :=
  let s1 := { s with hcnt := { s.hcnt with dirEntryErrors := s.hcnt.dirEntryErrors + 1 } }
  match dirEnt s1 line with
  | some e => setDir s1 line (some { e with eccMark := true })
  | none => s1

/-- An uncorrectable directory entry error (R251): the set is recalled, and the transactions open in it whose data has not been
sent are restarted from their requests; dirty data that such a one already took goes back to memory. -/
def dirUncorrectable (s : State) (home set : Nat) : State :=
  let inSet (l : Nat) : Bool := homeOf (l * 64) == home && dirSet l == set
  let again (t : Txn) : Bool := inSet t.line && !t.granted
  let ts := s.harn.txns.filter again
  let live (id : Nat) : Bool := !(ts.map fun t => t.id).contains id
  let keep (m : HMsg) : Bool := match m with
    | .forward id _ _ _ _ => live id | .inval id _ _ => live id | .invAck id _ _ => live id | .data id _ _ => live id
    | .compAck id _ _ => live id | _ => true
  let s1 := ts.foldl (fun u t => if t.wasDirty && !t.buf.isEmpty then { u with mem := memWrite u.mem (t.line * 64) t.buf } else u) s
  let s2 := modHarn s1 fun h => { h with
    txns := h.txns.filter fun t => !again t, msgs := h.msgs.filter keep, deferred := h.deferred.filter keep,
    recalls := h.recalls ++ [(home, set, trackedAgents s.map home)], hwPending := sset false h.hwPending home true }
  if creditMode s.map home then
    let cs : List Credit := (ts.filter fun t => !t.lost).map fun t =>
      { home := home, num := t.id, agent := t.agent, line := t.line, req := t.req, data := t.data, granted := false }
    let s3 := modHarn s2 fun h => { h with credits := cs ++ h.credits, msgs := h.msgs ++ cs.map fun c => .retry c.line c.agent c.num }
    { s3 with hcnt := { s3.hcnt with dirRetries := s3.hcnt.dirRetries + BitVec.ofNat 64 cs.length } }
  else
    let hs : List Held := (ts.filter fun t => !t.lost).map fun t =>
      { home := home, num := t.id, agent := t.agent, line := t.line, req := t.req, data := t.data }
    modHarn s2 fun h => { h with holds := hs ++ h.holds }

/-- A set recall reaches an agent, which writes back and invalidates its lines of the set, those in its write-back buffer too; with
the last agent, the home frees every way of the set and goes on with what waits (R251). A deferral after an LR puts it off. -/
def execSetRecall (agent home set : Nat) (s : State) : Host.Outcome State Fault Refusal :=
  ok (match s.harn.recalls.find? fun r => r.1 == home && r.2.1 == set && r.2.2.contains agent with
    | none => s
    | some r =>
      let inSet (l : Nat) : Bool := homeOf (l * 64) == home && dirSet l == set
      let of (m : SMap (Option CLine)) : List Nat :=
        (m.filter fun e => e.1 / 2 ^ 38 == agent && inSet (e.1 % 2 ^ 38)).map fun e => e.1 % 2 ^ 38
      let mine := (of s.harn.lines ++ of s.harn.wb).eraseDups
      if mine.any (lrHolds s agent) then s else
      let s1 := mine.foldl (fun t l => dropCopy (writeBack t agent l) agent l) s
      let s2 := modHarn s1 fun h => { h with
        wb := h.wb.filter fun e => !(e.1 / 2 ^ 38 == agent && inSet (e.1 % 2 ^ 38)),
        puts := h.puts.filter fun p => !(p.1 == agent && inSet p.2.1) }
      let rest := r.2.2.filter fun a => a != agent
      if rest.isEmpty then
        settleHarn (modHarn s2 fun h => { h with
          recalls := h.recalls.filter fun x => !(x.1 == home && x.2.1 == set), dir := h.dir.filter fun e => !inSet e.1 })
      else modHarn s2 fun h => { h with
          recalls := h.recalls.map fun x => if x.1 = home ∧ x.2.1 = set then (home, set, rest) else x })

/-! ### Region attributes -/

/-- The command in progress goes on with its next region; with its last one BUSY clears (R213). (log 42 DEDUCED) -/
def execRegionAttrDone (s : State) : Host.Outcome State Fault Refusal :=
  ok (
    if !s.attrCmd.busy then s else
    let s1 := attrRun s.attrCmd.run.2.toNat ((attrLeft s.map s.attrCmd).take 1) s
    settleHarn (if (attrLeft s1.map s1.attrCmd).isEmpty then { s1 with attrCmd := { s1.attrCmd with busy := false, result := 0 } } else s1))


end Sys2Proof.Machine
end

