-- ==== Sys2Proof/Machine/Objects.lean ====
section
/-! DEFINITION. The object tables of the manual's chapters (R230, R252, R296, R326, R350, R375, R405, R424, R445, R462, R482)
and the values they hold: defaults, values in effect, and the configuration digest (R411 to R414, R422, R423). Objects of the
tables whose value another unit's state gives are read from that state where the dictionary is read. -/

namespace Sys2Proof.Machine

/-- Objects 0x1000 to 0x1FFF. -/
def objsId : List Obj := [
  ⟨0x1000, 1, 1, .ostr 16, .const, .none, 0, 0, 0, false, false⟩, -- order_code
  ⟨0x1000, 2, 2, .u 1, .const, .none, 161, 0, 255, false, false⟩, -- stepping
  ⟨0x1000, 3, 3, .ostr 16, .const, .none, 0, 0, 0, false, false⟩, -- lot_code
  ⟨0x1000, 4, 4, .u 8, .const, .none, 0, 0, 18446744073709551615, false, false⟩, -- serial_number
  ⟨0x1000, 5, 5, .bool, .ro, .none, 0, 0, 1, false, false⟩, -- degraded
  ⟨0x1000, 6, 6, .u 1, .ro, .none, 255, 0, 255, false, false⟩, -- retired_die
  ⟨0x1000, 7, 7, .u 4, .const, .none, 49637, 0, 4294967295, false, false⟩, -- vendor_iana
  ⟨0x1001, 1, 1, .u 8, .ro, .none, 0, 0, 18446744073709551615, false, false⟩, -- ostler_time
  ⟨0x1001, 2, 2, .u 8, .ro, .none, 0, 0, 18446744073709551615, false, false⟩, -- warm_resets
  ⟨0x1001, 5, 5, .u 8, .ro, .none, 0, 0, 18446744073709551615, false, false⟩, -- boot_id
  ⟨0x1100, 1, 1, .ostr 16, .rw, .reboot, 0, 0, 0, true, false⟩, -- mgmt_ipv6
  ⟨0x1100, 2, 2, .u 2, .rw, .reboot, 49321, 1024, 65535, true, false⟩, -- odp_udp_port
  ⟨0x1100, 3, 3, .ostr 32, .wo, .immediate, 0, 0, 0, true, false⟩, -- odp_key
  ⟨0x1100, 4, 4, .u 1, .rw, .reboot, 48, 8, 119, true, false⟩, -- i3c_static_address
  ⟨0x1100, 5, 5, .u 1, .ro, .none, 0, 0, 255, false, false⟩, -- mctp_eid
  ⟨0x1100, 6, 6, .u 8, .ro, .none, 0, 0, 18446744073709551615, false, false⟩, -- odp_requests
  ⟨0x1100, 7, 7, .u 8, .ro, .none, 0, 0, 18446744073709551615, false, false⟩, -- odp_auth_failures
  ⟨0x1200, 1, 1, .u 8, .rw, .quiescent, 0, 0, 18446744073709551615, false, false⟩, -- ring_table_base
  ⟨0x1200, 2, 2, .u 2, .ro, .none, 0, 0, 65535, false, false⟩, -- rings_enabled
  ⟨0x1201, 1, 1, .u 8, .ro, .none, 0, 0, 18446744073709551615, false, false⟩, -- cp_commands
  ⟨0x1201, 2, 2, .u 8, .ro, .none, 0, 0, 18446744073709551615, false, false⟩, -- irq_dropped
  ⟨0x1201, 3, 3, .u 8, .ro, .none, 0, 0, 18446744073709551615, false, false⟩, -- tail_errors
  ⟨0x1300, 1, 4, .u 1, .rw, .reboot, 0, 0, 1, true, false⟩ ] -- pcie_bifurcation

/-- Objects 0x2000 to 0x2FFF. -/
def objsUnits : List Obj := [
  ⟨0x2001, 1, 1, .u 1, .ro, .none, 0, 0, 255, false, false⟩, -- ostler_active
  ⟨0x2001, 2, 2, .u 1, .ro, .none, 0, 0, 255, false, false⟩, -- standby_state
  ⟨0x2001, 3, 3, .bool, .wo, .immediate, 0, 0, 1, false, false⟩, -- handover_request
  ⟨0x2001, 4, 4, .u 4, .ro, .none, 0, 0, 4294967295, false, false⟩, -- role_epoch
  ⟨0x2001, 5, 5, .u 8, .ro, .none, 0, 0, 18446744073709551615, false, false⟩, -- handovers
  ⟨0x2001, 6, 6, .u 8, .ro, .none, 0, 0, 18446744073709551615, false, false⟩, -- stale_role_commands
  ⟨0x2100, 1, 12, .u 1, .ro, .none, 0, 0, 255, false, false⟩, -- groom_state
  ⟨0x2101, 1, 12, .u 4, .ro, .none, 0, 0, 4294967295, false, false⟩, -- groom_fw_version
  ⟨0x2102, 1, 1, .u 8, .ro, .none, 0, 0, 18446744073709551615, false, false⟩, -- groom_restarts
  ⟨0x2210, 1, 1, .u 1, .wo, .immediate, 0, 0, 1, false, false⟩, -- host_die_reset
  ⟨0x2210, 2, 2, .u 1, .wo, .immediate, 0, 0, 95, false, false⟩, -- host_core_reset
  ⟨0x2300, 1, 1, .u 1, .ro, .none, 0, 0, 255, false, false⟩, -- containment_active
  ⟨0x2300, 2, 2, .u 2, .ro, .none, 0, 0, 65535, false, false⟩, -- containment_queued
  ⟨0x2300, 3, 3, .u 8, .ro, .none, 0, 0, 18446744073709551615, false, false⟩, -- escalations
  ⟨0x2300, 4, 4, .u 8, .ro, .none, 0, 0, 18446744073709551615, false, false⟩, -- absorbed_errors
  ⟨0x2301, 1, 1, .u 4, .rw, .immediate, 86400, 3600, 604800, true, false⟩, -- spare_test_interval
  ⟨0x2302, 1, 1, .u 2, .rw, .immediate, 0, 0, 65535, false, false⟩, -- unit_select
  ⟨0x2302, 2, 2, .u 2, .ro, .none, 0, 0, 65535, false, false⟩, -- unit_generation
  ⟨0x2302, 3, 3, .u 8, .ro, .none, 0, 0, 18446744073709551615, false, false⟩ ] -- stale_traffic

/-- Objects 0x3000 to 0x3FFF. -/
def objsPower : List Obj := [
  ⟨0x3000, 1, 1, .u 4, .rw, .immediate, 8000, 1000, 8000, true, false⟩, -- package_power_cap
  ⟨0x3001, 1, 8, .u 2, .rw, .immediate, 780, 200, 780, true, false⟩, -- die_power_cap
  ⟨0x3002, 1, 1, .u 4, .rw, .immediate, 2000, 100, 4000, true, false⟩, -- power_slew
  ⟨0x3003, 1, 1, .u 4, .const, .none, 1600, 0, 4294967295, false, false⟩, -- rate_floor
  ⟨0x3003, 2, 2, .bool, .ro, .none, 0, 0, 1, false, false⟩, -- floor_breach
  ⟨0x3004, 1, 1, .i 2, .const, .none, 105, (-32768), 32767, false, false⟩, -- slow_temperature
  ⟨0x3004, 2, 2, .i 2, .const, .none, 115, (-32768), 32767, false, false⟩, -- hobble_temperature
  ⟨0x3005, 1, 1, .u 4, .ro, .none, 0, 0, 4294967295, false, false⟩, -- coolant_demand
  ⟨0x3006, 1, 1, .u 4, .rw, .immediate, 0, 0, 4294967295, false, false⟩, -- load_floor
  ⟨0x3006, 2, 2, .u 8, .ro, .none, 0, 0, 18446744073709551615, false, false⟩, -- floor_shortfall_ms
  ⟨0x3007, 1, 8, .u 4, .ro, .none, 0, 0, 4294967295, false, false⟩, -- die_gait
  ⟨0x3008, 1, 1, .u 1, .ro, .none, 0, 0, 255, false, false⟩, -- hobble_state
  ⟨0x3008, 2, 2, .u 1, .ro, .none, 0, 0, 255, false, false⟩, -- hobble_cause
  ⟨0x3008, 3, 3, .bool, .wo, .immediate, 0, 0, 1, false, false⟩, -- hobble_request
  ⟨0x3008, 4, 4, .bool, .wo, .immediate, 0, 0, 1, false, false⟩, -- hobble_exit
  ⟨0x3008, 5, 5, .bool, .rw, .immediate, 0, 0, 1, true, false⟩, -- hobble_auto_exit
  ⟨0x3009, 1, 1, .bool, .wo, .immediate, 0, 0, 1, false, false⟩, -- sleep_request
  ⟨0x3009, 2, 2, .u 1, .ro, .none, 0, 0, 255, false, false⟩, -- power_state
  ⟨0x3009, 3, 3, .u 1, .rw, .immediate, 7, 0, 7, true, false⟩, -- wake_sources
  ⟨0x3010, 1, 96, .u 4, .ro, .none, 0, 0, 4294967295, false, false⟩, -- cluster_gait
  ⟨0x3011, 1, 8, .u 2, .ro, .none, 0, 0, 65535, false, false⟩, -- die_vddc
  ⟨0x3012, 1, 8, .u 4, .ro, .none, 0, 0, 4294967295, false, false⟩, -- die_power
  ⟨0x3012, 9, 9, .u 4, .ro, .none, 0, 0, 4294967295, false, false⟩, -- package_power
  ⟨0x3013, 1, 8, .u 1, .ro, .none, 0, 0, 255, false, false⟩, -- die_rein_duty
  ⟨0x3014, 1, 1, .u 1, .ro, .none, 0, 0, 255, false, false⟩, -- floor_breach_cause
  ⟨0x3014, 2, 2, .u 8, .ro, .none, 0, 0, 18446744073709551615, false, false⟩, -- floor_breaches
  ⟨0x3014, 3, 3, .u 1, .ro, .none, 0, 0, 255, false, false⟩, -- breach_die_mask
  ⟨0x3015, 1, 12, .i 2, .ro, .none, 0, (-32768), 32767, false, false⟩, -- die_temperature
  ⟨0x3016, 1, 32, .i 2, .ro, .none, 0, (-32768), 32767, false, false⟩, -- hbm_temperature
  ⟨0x3017, 1, 1, .u 2, .ro, .none, 0, 0, 65535, false, false⟩, -- suspect_sensors
  ⟨0x3018, 1, 1, .u 2, .rw, .immediate, 3600, 800, 3600, true, false⟩, -- host_frequency_max
  ⟨0x3019, 1, 1, .u 4, .rw, .immediate, 100, 10, 10000, true, false⟩, -- eye_retrain_interval
  ⟨0x3020, 1, 1, .u 8, .ro, .none, 0, 0, 18446744073709551615, false, false⟩, -- power_brake_events
  ⟨0x3020, 2, 2, .u 2, .ro, .none, 0, 0, 65535, false, false⟩, -- power_good
  ⟨0x3020, 3, 3, .u 1, .ro, .none, 0, 0, 255, false, false⟩ ] -- straps

/-- Objects 0x4000 to 0x4FFF. -/
def objsMemory : List Obj := [
  ⟨0x4010, 1, 1, .bool, .rw, .reboot, 1, 0, 1, true, false⟩, -- lpddr_alias_enable
  ⟨0x4010, 2, 2, .u 8, .ro, .none, 0, 0, 18446744073709551615, false, false⟩, -- lpddr_alias_size
  ⟨0x4011, 1, 16, .u 2, .ro, .none, 0, 0, 65535, false, false⟩, -- lp_capacity
  ⟨0x4020, 1, 1, .u 8, .rw, .reboot, 0, 0, 18446744073709551615, true, false⟩, -- preserve_base
  ⟨0x4020, 2, 2, .u 8, .rw, .reboot, 0, 0, 18446744073709551615, true, false⟩, -- preserve_length
  ⟨0x4020, 3, 3, .u 8, .rw, .immediate, 0, 0, 18446744073709551615, true, false⟩, -- preserve_descriptor
  ⟨0x4020, 4, 4, .u 1, .ro, .none, 0, 0, 255, false, false⟩, -- preserve_status
  ⟨0x4030, 1, 1, .u 8, .ro, .none, 0, 0, 18446744073709551615, false, false⟩, -- stale_log_drains
  ⟨0x4031, 1, 1, .u 8, .ro, .none, 0, 0, 18446744073709551615, false, false⟩, -- poison_granules_hbm
  ⟨0x4031, 2, 2, .u 8, .ro, .none, 0, 0, 18446744073709551615, false, false⟩, -- poison_granules_lpddr
  ⟨0x4031, 3, 3, .u 8, .ro, .none, 0, 0, 18446744073709551615, false, false⟩, -- poison_regions_lpddr
  ⟨0x4040, 1, 1, .u 1, .rw, .reboot, 1, 1, 8, true, false⟩, -- coherence_islands
  ⟨0x4040, 2, 2, .u 1, .ro, .none, 0, 0, 255, false, false⟩, -- hbm_race_mode
  ⟨0x4041, 1, 1, .u 8, .ro, .none, 0, 0, 18446744073709551615, false, false⟩, -- dir_retries
  ⟨0x4041, 2, 2, .u 8, .ro, .none, 0, 0, 18446744073709551615, false, false⟩, -- dir_holds
  ⟨0x4041, 3, 3, .u 8, .ro, .none, 0, 0, 18446744073709551615, false, false⟩, -- dir_victim_recalls
  ⟨0x4041, 4, 4, .u 8, .ro, .none, 0, 0, 18446744073709551615, false, false⟩, -- credit_lapses
  ⟨0x4041, 5, 5, .u 8, .ro, .none, 0, 0, 18446744073709551615, false, false⟩ ] -- dir_entry_errors

/-- Objects 0x5000 to 0x5FFF. -/
def objsPaddock : List Obj := [
  ⟨0x5001, 1, 1, .u 8, .rw, .quiescent, 0, 0, 18446744073709551615, false, false⟩, -- acct_table_base
  ⟨0x5100, 1, 1, .u 1, .rw, .immediate, 0, 0, 95, false, false⟩, -- paddock_select
  ⟨0x5100, 2, 2, .u 8, .rws, .quiescent, 0, 0, 18446744073709551615, true, false⟩, -- paddock_clusters_lo
  ⟨0x5100, 3, 3, .u 4, .rws, .quiescent, 0, 0, 4294967295, true, false⟩, -- paddock_clusters_hi
  ⟨0x5100, 4, 4, .u 1, .rw, .immediate, 0, 1, 2, false, false⟩, -- paddock_state
  ⟨0x5100, 5, 5, .u 2, .rws, .quiescent, 0, 0, 65535, true, false⟩, -- ring_first
  ⟨0x5100, 6, 6, .u 2, .rws, .quiescent, 0, 0, 32768, true, false⟩, -- ring_count
  ⟨0x5100, 9, 9, .u 1, .rw, .immediate, 16, 1, 16, false, false⟩, -- max_resident
  ⟨0x5102, 1, 8, .u 8, .rws, .quiescent, 2147483648, 0, 38654705664, true, false⟩, -- save_reserve
  ⟨0x5110, 1, 1, .u 4, .rw, .quiescent, 262144, 4096, 16777216, true, false⟩, -- max_yield_gap
  ⟨0x5110, 2, 2, .u 4, .rw, .quiescent, 4194304, 65536, 67108864, true, false⟩, -- slice_waves
  ⟨0x5110, 3, 3, .u 4, .rw, .immediate, 65536, 1024, 16777216, false, false⟩, -- block_threshold
  ⟨0x5110, 4, 4, .u 4, .rw, .quiescent, 524288, 65536, 16777216, true, false⟩, -- switch_waves
  ⟨0x5120, 1, 1, .u 2, .rw, .immediate, 0, 0, 4095, false, false⟩, -- context_select
  ⟨0x5120, 2, 2, .u 1, .ro, .none, 0, 0, 255, false, false⟩, -- context_paddock
  ⟨0x5120, 3, 3, .u 2, .rw, .immediate, 0, 1, 65535, false, false⟩, -- share_weight
  ⟨0x5120, 4, 4, .u 1, .ro, .none, 0, 0, 255, false, false⟩, -- context_class
  ⟨0x5120, 5, 5, .u 1, .ro, .none, 0, 0, 255, false, false⟩, -- context_state
  ⟨0x5120, 6, 6, .u 8, .ro, .none, 0, 0, 18446744073709551615, false, false⟩, -- billed_waves
  ⟨0x5120, 7, 7, .u 8, .ro, .none, 0, 0, 18446744073709551615, false, false⟩, -- budget_left
  ⟨0x5120, 8, 8, .i 8, .ro, .none, 0, (-9223372036854775808), 9223372036854775807, false, false⟩, -- deficit
  ⟨0x5120, 9, 9, .u 1, .ro, .none, 0, 0, 255, false, false⟩ ] -- guarantee_state

/-- Objects 0x6000 to 0x6FFF. -/
def objsRelay : List Obj := [
  ⟨0x6001, 1, 1, .u 4, .rw, .quiescent, 0, 0, 4294967295, true, false⟩, -- team_id
  ⟨0x6001, 2, 2, .u 2, .rw, .quiescent, 0, 0, 16384, false, true⟩, -- team_size
  ⟨0x6001, 3, 3, .u 2, .rw, .quiescent, 0, 0, 16383, false, false⟩, -- member_number
  ⟨0x6002, 1, 1, .u 8, .rw, .quiescent, 0, 0, 18446744073709551615, false, false⟩, -- member_table_base
  ⟨0x6003, 1, 1, .u 2, .wo, .immediate, 0, 0, 65535, false, false⟩, -- declare_lost
  ⟨0x6003, 2, 2, .ostr 2048, .ro, .none, 0, 0, 0, false, false⟩, -- member_suspect
  ⟨0x6003, 3, 3, .u 4, .rw, .immediate, 10000000, 1000000, 1000000000, false, false⟩, -- suspect_time
  ⟨0x6004, 1, 1, .digest, .ro, .none, 0, 0, 0, false, false⟩, -- config_digest
  ⟨0x6004, 2, 2, .u 4, .ro, .none, 0, 0, 4294967295, false, false⟩, -- digest_step_from
  ⟨0x6004, 3, 3, .digest, .ro, .none, 0, 0, 0, false, false⟩, -- config_digest_prev
  ⟨0x6005, 1, 1, .u 8, .rw, .stepBoundary, 0, 0, 18446744073709551615, false, true⟩, -- job_config_tally
  ⟨0x6010, 1, 1, .u 8, .rw, .stepBoundary, 0, 0, 18446744073709551615, false, false⟩, -- placement_base
  ⟨0x6010, 2, 2, .u 4, .rw, .stepBoundary, 0, 0, 1048576, false, false⟩, -- placement_entries
  ⟨0x6010, 3, 3, .u 8, .rw, .stepBoundary, 0, 0, 18446744073709551615, false, true⟩, -- placement_tally
  ⟨0x6020, 1, 1, .u 8, .rw, .stepBoundary, 67108864, 65536, 4294967296, false, true⟩, -- step_deadline
  ⟨0x6020, 2, 2, .u 2, .rw, .stepBoundary, 1000, 1, 1000, false, true⟩, -- quorum_permille
  ⟨0x6021, 1, 1, .bool, .rw, .stepBoundary, 0, 0, 1, false, false⟩, -- replay_mode
  ⟨0x6022, 1, 16, .u 1, .rw, .stepBoundary, 0, 0, 1, false, true⟩, -- late_policy
  ⟨0x6022, 17, 17, .u 8, .rw, .quiescent, 0, 0, 18446744073709551615, false, false⟩, -- late_buffer_base
  ⟨0x6030, 1, 1, .u 2, .rw, .quiescent, 49320, 0, 65535, false, true⟩, -- udp_port
  ⟨0x6030, 2, 2, .u 2, .rw, .quiescent, 4096, 0, 65535, false, true⟩, -- payload_max
  ⟨0x6030, 3, 3, .u 2, .rw, .quiescent, 0, 0, 65535, false, false⟩, -- vlan_tag
  ⟨0x6031, 1, 18, .u 1, .rws, .quiescent, 0, 0, 2, true, false⟩, -- port_mode
  ⟨0x6032, 1, 18, .u 8, .rw, .immediate, 0, 0, 18446744073709551615, false, false⟩, -- next_hop_mac
  ⟨0x6033, 1, 18, .u 4, .ro, .none, 0x76543210, 0, 4294967295, true, false⟩, -- port_lane_map
  ⟨0x6034, 1, 6, .u 1, .rw, .immediate, 0, 0, 255, false, false⟩, -- class_dscp
  ⟨0x6035, 1, 1, .u 1, .rw, .quiescent, 0, 0, 255, false, false⟩, -- stream_unit_rule
  ⟨0x6036, 1, 1, .u 4, .rw, .immediate, 100000, 10000, 1000000, false, false⟩, -- rto_initial
  ⟨0x6040, 1, 1, .record 64, .rw, .immediate, 0, 0, 0, false, false⟩, -- stream_query
  ⟨0x6040, 2, 2, .u 2, .wo, .immediate, 0, 0, 65535, false, false⟩, -- stream_close
  ⟨0x6050, 1, 1, .u 8, .ro, .none, 0, 0, 18446744073709551615, false, false⟩, -- digest_refusals
  ⟨0x6050, 2, 2, .u 8, .ro, .none, 0, 0, 18446744073709551615, false, false⟩, -- retransmits
  ⟨0x6050, 3, 3, .u 8, .ro, .none, 0, 0, 18446744073709551615, false, false⟩, -- frames_discarded
  ⟨0x6050, 4, 4, .u 8, .ro, .none, 0, 0, 18446744073709551615, false, false⟩, -- late_returns
  ⟨0x6050, 5, 5, .u 8, .ro, .none, 0, 0, 18446744073709551615, false, false⟩ ] -- stream_table_waits

/-- Objects 0x7000 to 0x7FFF. -/
def objsStudbook : List Obj := [
  ⟨0x7000, 1, 1, .u 8, .ro, .none, 0, 0, 18446744073709551615, false, false⟩, -- studbook_sequence
  ⟨0x7000, 2, 2, .u 8, .rw, .immediate, 0, 0, 18446744073709551615, false, false⟩, -- studbook_cursor
  ⟨0x7000, 3, 3, .record 256, .ro, .none, 0, 0, 0, false, false⟩, -- studbook_record
  ⟨0x7000, 4, 4, .u 8, .ro, .none, 0, 0, 18446744073709551615, false, false⟩, -- studbook_oldest
  ⟨0x7000, 5, 5, .u 2, .ro, .none, 0, 0, 65535, false, false⟩, -- studbook_held
  ⟨0x7001, 1, 1, .bool, .rw, .immediate, 0, 0, 1, true, false⟩, -- qva_records
  ⟨0x7001, 2, 2, .u 2, .rw, .immediate, 0, 0, 8191, false, false⟩, -- qva_cursor
  ⟨0x7001, 3, 3, .record 32, .ro, .none, 0, 0, 0, false, false⟩, -- qva_record
  ⟨0x7002, 1, 8, .u 8, .ro, .none, 0, 0, 18446744073709551615, false, false⟩, -- drop_count
  ⟨0x7003, 1, 1, .u 1, .rw, .immediate, 0, 0, 255, false, false⟩, -- trigger_select
  ⟨0x7003, 2, 2, .record 256, .rw, .immediate, 0, 0, 0, true, false⟩, -- trigger_entry
  ⟨0x7005, 1, 1, .u 2, .rw, .immediate, 64, 1, 10000, true, false⟩, -- rate_per_second
  ⟨0x7005, 2, 2, .u 2, .rw, .immediate, 16, 1, 1024, true, false⟩, -- rate_burst
  ⟨0x7005, 3, 3, .u 8, .ro, .none, 0, 0, 18446744073709551615, false, false⟩, -- suppressed_total
  ⟨0x7006, 1, 1, .u 1, .rw, .immediate, 0, 0, 1, false, false⟩, -- hobble_copy_select
  ⟨0x7006, 2, 2, .u 2, .rw, .immediate, 0, 0, 255, false, false⟩, -- hobble_copy_index
  ⟨0x7006, 3, 3, .record 40, .ro, .none, 0, 0, 0, false, false⟩, -- hobble_copy_header
  ⟨0x7006, 4, 4, .record 256, .ro, .none, 0, 0, 0, false, false⟩, -- hobble_copy_record
  ⟨0x7007, 1, 1, .record 72, .wo, .immediate, 0, 0, 0, false, false⟩ ] -- sw_record

/-- Objects 0x8000 to 0x8FFF. -/
def objsParam : List Obj := [
  ⟨0x8010, 1, 1, .u 8, .rw, .stepBoundary, 0, 0, 18446744073709551615, false, false⟩, -- touch_binding_base
  ⟨0x8010, 2, 2, .u 2, .rw, .stepBoundary, 0, 0, 4096, false, false⟩, -- touch_binding_count
  ⟨0x8010, 3, 3, .u 8, .rw, .quiescent, 0, 0, 18446744073709551615, false, false⟩, -- touched_list_base
  ⟨0x8010, 4, 4, .u 4, .rw, .quiescent, 0, 0, 4194304, false, false⟩, -- touched_list_capacity
  ⟨0x8011, 1, 1, .u 8, .rw, .quiescent, 0, 0, 18446744073709551615, false, false⟩, -- block_table_base
  ⟨0x8011, 2, 2, .u 4, .rw, .quiescent, 0, 0, 4194304, false, false⟩, -- block_table_entries
  ⟨0x8012, 1, 1, .u 8, .rw, .quiescent, 0, 0, 18446744073709551615, false, false⟩, -- pending_base
  ⟨0x8012, 2, 2, .u 4, .rw, .quiescent, 0, 0, 65536, false, false⟩, -- pending_entries
  ⟨0x8012, 3, 3, .u 1, .rw, .stepBoundary, 8, 1, 15, false, true⟩, -- cold_delay
  ⟨0x8020, 1, 1, .i 1, .ro, .none, 0, (-128), 127, false, false⟩, -- ls_exp
  ⟨0x8020, 2, 2, .i 1, .rw, .quiescent, 16, (-24), 32, true, true⟩, -- ls_exp_initial
  ⟨0x8020, 3, 3, .u 2, .rw, .stepBoundary, 2000, 1, 65535, false, true⟩, -- clean_run
  ⟨0x8020, 4, 4, .u 2, .ro, .none, 0, 0, 65535, false, false⟩, -- clean_count
  ⟨0x8020, 5, 5, .u 4, .rw, .stepBoundary, 2000000, 100000, 100000000, false, true⟩, -- verdict_wait
  ⟨0x8020, 6, 6, .u 8, .ro, .none, 0, 0, 18446744073709551615, false, false⟩, -- halvings
  ⟨0x8021, 1, 1, .u 8, .rw, .stepBoundary, 67108864, 65536, 4294967296, false, true⟩, -- commit_deadline
  ⟨0x8030, 1, 1, .u 4, .rw, .stepBoundary, 500, 0, 4294967295, false, true⟩, -- ckpt_interval
  ⟨0x8030, 2, 2, .u 2, .rw, .stepBoundary, 16, 1, 1024, false, true⟩, -- ckpt_full_every
  ⟨0x8030, 3, 3, .u 8, .rw, .quiescent, 0, 0, 18446744073709551615, false, false⟩, -- ckpt_range_base
  ⟨0x8030, 4, 4, .u 2, .rw, .quiescent, 0, 0, 256, false, false⟩, -- ckpt_range_count
  ⟨0x8030, 5, 5, .u 8, .rw, .quiescent, 0, 0, 18446744073709551615, false, false⟩, -- ckpt_staging_base
  ⟨0x8030, 6, 6, .u 8, .rw, .quiescent, 0, 0, 18446744073709551615, false, false⟩, -- ckpt_staging_length
  ⟨0x8030, 7, 7, .u 1, .rw, .stepBoundary, 0, 0, 2, false, false⟩, -- ckpt_destination
  ⟨0x8030, 8, 8, .u 2, .rw, .stepBoundary, 0, 0, 65535, false, false⟩, -- ckpt_peer
  ⟨0x8030, 9, 9, .u 8, .rw, .quiescent, 0, 0, 18446744073709551615, false, false⟩, -- ckpt_store_first_lba
  ⟨0x8030, 10, 10, .u 8, .rw, .quiescent, 0, 0, 18446744073709551615, false, false⟩, -- ckpt_store_lbas
  ⟨0x8030, 11, 11, .u 1, .rw, .quiescent, 0, 0, 255, false, false⟩, -- ckpt_store_ctrl
  ⟨0x8030, 12, 12, .u 8, .rw, .quiescent, 0, 0, 18446744073709551615, false, false⟩, -- ckpt_settle_addr
  ⟨0x8030, 13, 13, .u 4, .ro, .none, 0, 0, 4294967295, false, false⟩, -- ckpt_last_step
  ⟨0x8030, 14, 14, .u 8, .ro, .none, 0, 0, 18446744073709551615, false, false⟩, -- ckpt_postponed
  ⟨0x8031, 1, 1, .u 8, .rw, .quiescent, 0, 0, 18446744073709551615, false, false⟩, -- journal_base
  ⟨0x8031, 2, 2, .u 8, .rw, .quiescent, 0, 0, 18446744073709551615, false, false⟩, -- journal_length
  ⟨0x8031, 3, 3, .u 8, .rw, .quiescent, 0, 0, 18446744073709551615, false, false⟩, -- journal_sw_base
  ⟨0x8031, 4, 4, .u 4, .ro, .none, 0, 0, 4294967295, false, false⟩, -- journal_last_step
  ⟨0x8031, 5, 5, .u 8, .ro, .none, 0, 0, 18446744073709551615, false, false⟩, -- journal_gaps
  ⟨0x8032, 1, 1, .u 8, .rw, .stepBoundary, 0, 0, 18446744073709551615, false, false⟩, -- replica_table_base
  ⟨0x8032, 2, 2, .u 4, .rw, .stepBoundary, 0, 0, 65536, false, false⟩, -- replica_groups
  ⟨0x8032, 3, 3, .u 4, .rw, .stepBoundary, 1024, 0, 65536, false, false⟩, -- replica_scrub_blocks
  ⟨0x8032, 4, 4, .u 8, .ro, .none, 0, 0, 18446744073709551615, false, false⟩, -- replica_mismatches
  ⟨0x8032, 5, 5, .u 8, .ro, .none, 0, 0, 18446744073709551615, false, false⟩, -- replica_repairs
  ⟨0x8032, 6, 6, .u 8, .ro, .none, 0, 0, 18446744073709551615, false, false⟩, -- tally_faults
  ⟨0x8033, 1, 1, .u 1, .ro, .none, 0, 0, 255, false, false⟩, -- replay_status
  ⟨0x8040, 1, 1, .u 8, .rws, .quiescent, 0, 0, 18446744073709551615, false, false⟩, -- lend_base
  ⟨0x8040, 2, 2, .u 8, .rws, .quiescent, 0, 0, 18446744073709551615, false, false⟩, -- lend_length
  ⟨0x8040, 3, 3, .u 2, .rws, .quiescent, 0, 0, 65535, false, false⟩, -- lend_borrower
  ⟨0x8040, 4, 4, .bool, .rw, .immediate, 0, 0, 1, false, false⟩, -- lend_enable
  ⟨0x8040, 5, 5, .u 2, .rw, .stepBoundary, 100, 1, 65535, false, false⟩, -- lend_notice
  ⟨0x8050, 1, 16, .u 4, .rws, .quiescent, 0, 0, 4294967295, true, false⟩, -- nvme_controller
  ⟨0x8051, 1, 2, .u 8, .rw, .quiescent, 0, 0, 18446744073709551615, false, false⟩, -- nvme_ring_base
  ⟨0x8051, 3, 3, .u 8, .ro, .none, 0, 0, 18446744073709551615, false, false⟩, -- nvme_commands
  ⟨0x8051, 4, 4, .u 8, .ro, .none, 0, 0, 18446744073709551615, false, false⟩ ] -- nvme_errors

/-- Objects 0x9000 to 0x9FFF. -/
def objsBoot : List Obj := [
  ⟨0x9000, 1, 1, .u 1, .ro, .none, 0, 0, 255, false, false⟩, -- active_image
  ⟨0x9000, 2, 2, .u 4, .ro, .none, 0, 0, 4294967295, false, false⟩, -- image_svn
  ⟨0x9000, 3, 3, .u 4, .ro, .none, 0, 0, 4294967295, false, false⟩, -- rollback_counter
  ⟨0x9000, 4, 4, .u 1, .ro, .none, 0, 0, 255, false, false⟩, -- boot_slot_preferred
  ⟨0x9000, 5, 5, .u 8, .ro, .none, 0, 0, 18446744073709551615, true, false⟩, -- boot_fallbacks
  ⟨0x9001, 1, 1, .u 8, .rw, .immediate, 0, 0, 18446744073709551615, false, false⟩, -- update_source
  ⟨0x9001, 2, 2, .u 4, .rw, .immediate, 0, 4096, 16777216, false, false⟩, -- update_length
  ⟨0x9001, 3, 3, .u 1, .wo, .immediate, 0, 0, 255, false, false⟩, -- update_command
  ⟨0x9001, 4, 4, .u 4, .ro, .none, 0, 0, 4294967295, false, false⟩, -- update_status
  ⟨0x9002, 1, 2, .u 4, .ro, .none, 0, 0, 4294967295, false, false⟩, -- slot_version
  ⟨0x9002, 3, 4, .u 4, .ro, .none, 0, 0, 4294967295, false, false⟩, -- slot_svn
  ⟨0x9010, 1, 1, .u 1, .rw, .immediate, 0, 0, 3, false, false⟩, -- config_chunk_select
  ⟨0x9010, 2, 2, .ostr 1024, .ro, .none, 0, 0, 0, false, false⟩, -- config_header_chunk
  ⟨0x9011, 1, 1, .ostr 60, .const, .none, 0, 0, 0, false, false⟩, -- attest_public_key
  ⟨0x9020, 1, 1, .ostr 32, .wo, .immediate, 0, 0, 0, false, false⟩, -- attest_nonce
  ⟨0x9020, 2, 2, .u 1, .rw, .immediate, 0, 0, 3, false, false⟩, -- attest_chunk_select
  ⟨0x9020, 3, 3, .ostr 1024, .ro, .none, 0, 0, 0, false, false⟩, -- attest_evidence_chunk
  ⟨0x9020, 4, 4, .u 4, .ro, .none, 0, 0, 4294967295, false, false⟩, -- attest_leaves_left
  ⟨0x9020, 5, 5, .u 8, .ro, .none, 0, 0, 18446744073709551615, true, false⟩, -- attest_signatures
  ⟨0x9021, 1, 1, .u 4, .ro, .none, 0, 0, 4294967295, false, false⟩ ] -- repair_records

/-- Every object of the dictionary, in ascending order of index and subindex. -/
def objTable : List Obj :=
  objsId ++ objsUnits ++ objsPower ++ objsMemory ++ objsPaddock ++ objsRelay ++ objsStudbook ++ objsParam ++ objsBoot

/-- The row of an object. -/
def objRow (ix sub : Nat) : Option Obj := objTable.find? fun o => o.ix == ix && decide (o.lo ≤ sub ∧ sub ≤ o.hi)

/-- The index is defined by some chapter (R424). -/
def objIndex (ix : Nat) : Bool := objTable.any fun o => o.ix == ix

/-- Subindex 0 of an index: the highest subindex. -/
def objHighest (ix : Nat) : Nat := (objTable.filter fun o => o.ix == ix).foldl (fun m o => max m o.hi) 0

/-- The length of a type in bytes; for a byte string its greatest length (R411). -/
def tyLen : OType → Nat
  | .bool => 1
  | .u n => n
  | .i n => n
  | .f32 => 4
  | .ostr n => n
  | .digest => 32
  | .record n => n

/-- The type code (R411). -/
def tyCode : OType → Nat
  | .bool => 1
  | .u n => if n = 1 then 2 else if n = 2 then 3 else if n = 4 then 4 else 5
  | .i n => if n = 1 then 6 else if n = 2 then 7 else if n = 4 then 8 else 9
  | .f32 => 10
  | .ostr _ => 11
  | .digest => 12
  | .record _ => 13

/-- The default of an object, as bytes; numbers lie in their low bytes. -/
def objDefault (o : Obj) : List Byte := leBytes (tyLen o.ty) o.dflt

/-- The value in effect of an object that the dictionary holds. -/
def odBytes (s : State) (ix sub : Nat) : List Byte :=
  match sget none s.dict.val (okey ix sub) with
  | some v => v
  | none => match objRow ix sub with | some o => objDefault o | none => []

/-- The value in effect as a number. -/
def od (s : State) (ix sub : Nat) : Nat := leNat (odBytes s ix sub)

/-- The value in effect as a signed number. -/
def odI (s : State) (ix sub : Nat) : Int := let v := odBytes s ix sub; signed (8 * v.length) (leNat v)

/-- Puts a value in effect; the default removes the entry. -/
def odPut (s : State) (k : Nat) (v : List Byte) : State :=
  let x := match objRow (k / 256) (k % 256) with
    | some o => if objDefault o = v then none else some v
    | none => some v
  { s with dict := { s.dict with val := sset none s.dict.val k x } }

/-- The canonical encoding of the team-consistent objects (R422). -/
def digestText (s : State) : List Byte :=
  (objTable.filter fun o => o.team).flatMap fun o =>
    (List.range (o.hi + 1 - o.lo)).flatMap fun j =>
      let v := odBytes s o.ix (o.lo + j)
      leBytes 2 o.ix ++ leBytes 1 (o.lo + j) ++ leBytes 1 (tyCode o.ty) ++ leBytes 2 v.length ++ v

/-- DIGEST_CUR (R422). -/
def digestCur (s : State) : List Byte := sha256 (digestText s)

/-- DIGEST_PREV (R423). -/
def digestPrev (s : State) : List Byte := match s.dict.prev with | some d => d | none => digestCur s

/-- The first 64 bits of a digest, as the big-endian fields of a frame hold them. -/
def digest64 (d : List Byte) : Nat := leNat (d.take 8).reverse

/-- The digest in effect for a step (R280, R288). -/
def digestFor (s : State) (step : Nat) : Nat := digest64 (if step < s.dict.stepFrom then digestPrev s else digestCur s)

/-- Values change together at the start of step `step`, and a change of the digest sets DIGEST_PREV and STEP_FROM (R423).
 (log 71 DEDUCED) -/
def putAtStep (s : State) (step : Nat) (l : List (Nat × List Byte)) : State :=
  let old := digestText s
  let s1 := l.foldl (fun t x => odPut t x.1 x.2) s
  if digestText s1 = old then s1
  else { s1 with dict := { s1.dict with prev := some (sha256 old), stepFrom := step } }

/-- A value changes outside a step boundary: both digests become the new one when it is team-consistent (R423). -/
def putNow (s : State) (k : Nat) (v : List Byte) : State :=
  let s1 := odPut s k v
  match objRow (k / 256) (k % 256) with
  | some o => if o.team then { s1 with dict := { s1.dict with prev := none, stepFrom := 0 } } else s1
  | none => s1

/-- Places a staged value behind those of its own and of earlier steps. (log 71 DEDUCED) -/
def insStep (x : Nat × Nat × List Byte) : List (Nat × Nat × List Byte) → List (Nat × Nat × List Byte)
  | [] => [x]
  | y :: r => if x.1 < y.1 then x :: y :: r else y :: insStep x r

/-- What is staged takes effect for a step whose timer starts: everything staged for it or for an earlier step, by step and
then in the order of staging, so that the last write of an object wins (R413). (log 71 DEDUCED) -/
def takeStaged (s : State) (step : Nat) : State :=
  let now := (s.dict.staged.filter fun x => decide (x.1 ≤ step)).foldl
    (fun (l : List (Nat × Nat × List Byte)) x => insStep x l) []
  let s1 := { s with dict := { s.dict with staged := s.dict.staged.filter fun x => !decide (x.1 ≤ step) } }
  if now.isEmpty then s1 else putAtStep s1 step (now.map fun x => (x.2.1, x.2.2))

end Sys2Proof.Machine
end

