-- ==== Sys2Proof/Machine/Relay.lean ====
section
/-! DEFINITION. The named operations of the Relay units: the team's members, contexts' memory as a unit reaches it, streams
and their messages, frames sent, and the completion of operations (R253 to R296). -/

namespace Sys2Proof.Machine

/-! ### Members and settings -/

/-- The team's size. -/
def teamSize (s : State) : Nat := od s 0x6001 2

/-- The package's own member number. -/
def selfNo (s : State) : Nat := od s 0x6001 3

/-- The canonical address of a member's table entry (R255). -/
def memberAt (s : State) (m : Nat) : Option Nat := canon s.map (od s 0x6002 1 + 32 * m)

/-- Bits [135:128] of a member's entry. -/
def memberBits (s : State) (m : Nat) : Nat :=
  match memberAt s m with
  | some a => leNat ((homeRead s (a + 16) 1).map Prod.fst)
  | none => 0

/-- ADDR_BASE of a member's entry (R255). -/
def memberAddr (s : State) (m : Nat) : Nat :=
  match memberAt s m with
  | some a => leNat ((homeRead s a 16).map Prod.fst)
  | none => 0

/-- VALID of a member. -/
def memberValid (s : State) (m : Nat) : Bool := bitAt (memberBits s m) 0

/-- LOST of a member. -/
def memberLost (s : State) (m : Nat) : Bool := bitAt (memberBits s m) 1

/-- The package is no member of a team (R255, R273 NO_TEAM), or refuses to join (R391). -/
def noTeam (s : State) : Bool := teamSize s == 0 || decide (teamSize s ≤ selfNo s) || !memberValid s (selfNo s) || s.ckpt.joinRefused

/-- What is held about a step. -/
def stepOf (s : State) (step : Nat) : StepSt := sget {} s.rly.steps step

/-- Changes what is held about a step. -/
def modStep (s : State) (step : Nat) (f : StepSt → StepSt) : State :=
  { s with rly := { s.rly with steps := smod {} s.rly.steps step f } }

/-- Adds a decision to a step's journal items (R293). -/
def addItem (s : State) (step : Nat) (i : JItem) : State := modStep s step fun x => { x with items := x.items ++ [i] }

/-- replay_mode is in effect (R266). -/
def replaying (s : State) : Bool := od s 0x6021 1 == 1

/-! ### Memory as the unit reaches it -/

/-- Reads a context's memory; none where translation or access fails (R207, R209). -/
def uRead (s : State) (ctx va n : Nat) : Option (List PByte) × State :=
  match vPieces s none ctx .read va n with
  | (.ok l, t) => (some (l.flatMap fun p => homeRead t p.a p.n), t)
  | (.error _, t) => (none, t)

/-- Writes a context's memory at its homes; false where translation or access fails. -/
def uWrite (s : State) (ctx va : Nat) (d : List PByte) : Bool × State :=
  match vPieces s none ctx .write va d.length with
  | (.ok l, t) => (true, writePieces t ctx t.stamp l d)
  | (.error _, t) => (false, t)

/-- Reads n bytes of a context's scratchpad (space 0) or memory for a Relay operation (R162), or gives the sequencer code of the failure.
 (log 57 DEDUCED) -/
def uReadSpace (s : State) (ge ctx stamp space va n : Nat) : Except Nat (List PByte) × State :=
  let see (mem : Bool) (d : List PByte) : List PByte := raceBytes (eng s ge) uRly stamp mem va d
  if space = 0 then (if spadOk (eng s ge) va n then .ok (see false (spadRead (eng s ge) va n)) else .error cSPAD, s)
  else match vPieces s none ctx .read va n with
    | (.ok l, t) => (.ok (see true (l.flatMap fun p => homeRead t p.a p.n)), t)
    | (.error c, t) => (.error c.1, t)

/-- Reads one run of bytes for each address and length given. -/
def uReadAll (s : State) (ge ctx stamp space : Nat) : List (Nat × Nat) → Except (Nat × Nat) (List (List PByte)) × State
  | [] => (.ok [], s)
  | (a, n) :: r =>
    match uReadSpace s ge ctx stamp space a n with
    | (.error c, t) => (.error (c, a), t)
    | (.ok d, t) =>
      match uReadAll t ge ctx stamp space r with
      | (.ok l, u) => (.ok (d :: l), u)
      | (.error c, u) => (.error c, u)

/-- Bytes at a physical address, in any view (R199), read at their homes; an absent range reads as poison. -/
def physRead (s : State) (pa n : Nat) : List PByte :=
  match physRange s.map pa n with
  | some l => l.flatMap fun p => homeRead s p.1 p.2
  | none => (List.range n).map fun _ => (0, true)

/-- A number in memory at a physical address. -/
def physNat (s : State) (pa n : Nat) : Nat := leNat ((physRead s pa n).map Prod.fst)

/-- Bytes written with their poison at a physical address, in any view (R199), at their homes; an absent range takes none. -/
def physPut (s : State) (pa : Nat) (d : List PByte) : State :=
  match physRange s.map pa d.length with
  | some l => (l.foldl (fun (x : State × List PByte) p =>
      (homeWrite x.1 noCtx 0 false p.1 (x.2.take p.2), x.2.drop p.2)) (s, d)).1
  | none => s

/-- Bytes written at a physical address. -/
def physWrite (s : State) (pa : Nat) (d : List Byte) : State := physPut s pa (d.map (·, false))

/-! ### Streams -/

/-- A stream by number (R497). -/
def strm (s : State) (k : Nat) : Stream := sget {} s.rly.streams k

/-- Replaces a stream. -/
def setStrm (s : State) (k : Nat) (v : Stream) : State := { s with rly := { s.rly with streams := sset {} s.rly.streams k v } }

/-- Changes a stream. -/
def modStrm (s : State) (k : Nat) (f : Stream → Stream) : State := setStrm s k (f (strm s k))

/-- The receiving side of a stream. -/
def srx (s : State) (k : Nat) : StreamRx := sget {} s.rly.rx k

/-- Replaces the receiving side of a stream. -/
def setSrx (s : State) (k : Nat) (v : StreamRx) : State := { s with rly := { s.rly with rx := sset {} s.rly.rx k v } }

/-- Changes the receiving side of a stream. -/
def modSrx (s : State) (k : Nat) (f : StreamRx → StreamRx) : State := setSrx s k (f (srx s k))

/-- The unit of a stream number. -/
def unitOf (k : Nat) : Nat := k / 8192

/-- The unit that holds the streams to a peer (R274). -/
def streamUnit (s : State) (peer : Nat) : Nat :=
  if od s 0x6035 1 = 0 then (selfNo s + peer) % 2 else if od s 0x6035 1 = 1 then 0 else 1

/-- The stream to a peer of a class, if one is not CLOSED. -/
def findStream (s : State) (peer cls : Nat) : Option Nat :=
  (s.rly.streams.find? fun e =>
    e.2.st != .closed && e.2.peer == peer && e.2.cls == cls && unitOf e.1 == streamUnit s peer).map Prod.fst

/-- Class of message credits (R274). -/
def msgClass (cls : Nat) : Bool := cls == 0 || cls == 3 || cls == 4

/-- A posting takes messages of a stream. (log 59 DEDUCED) -/
def postFits (p : Posting) (peer cls : Nat) : Bool := p.cls == cls && (p.peer == peer || p.peer == 0x3FFF)

/-- Buffers posted for a stream that no message has taken. -/
def freeBufs (s : State) (peer cls : Nat) : Nat :=
  ((s.rly.posts.filter fun p => postFits p peer cls).map fun p => p.bufs.length).sum

/-- The lender serves BULK messages of its borrower (R323). -/
def lendPeer (s : State) (peer cls : Nat) : Bool := s.team.lending && cls == 4 && od s 0x8040 3 == peer

/-- Nothing unacknowledged and nothing posted (R277). -/
def streamIdle (s : State) (k : Nat) : Bool :=
  let x := strm s k
  x.st == .opened && x.unacked.isEmpty && x.tx.isEmpty && !(s.rly.posts.any fun p => p.cls == x.cls && p.peer == x.peer)

/-- Ports of a unit that carry traffic (R253, R254). -/
def upPorts (s : State) (unit : Nat) : List Nat :=
  ((List.range 9).map (9 * unit + ·)).filter fun p =>
    let x := sget {} s.rly.ports p
    x.up && !x.sparing

/-- A fresh entropy value of a path (R283): free. (log 62 DEDUCED) -/
def freshEntropy (s : State) : Nat × State := ((Config.freeWord s.free).toNat % 2 ^ 20, { s with free := s.free + 1 })

/-- The number of paths, over all streams, that use a port. -/
def portLoad (s : State) (p : Nat) : Nat :=
  (s.rly.streams.map fun e => (e.2.paths.filter fun x => match x.2 with | some y => y.port == p | none => false).length).sum

/-- The least loaded port of a list, the lowest number on a tie. -/
def leastPort (s : State) : List Nat → Option Nat
  | [] => none
  | p :: r =>
    match leastPort s r with
    | some q => if portLoad s q < portLoad s p then some q else some p
    | none => some p

/-- Gives a stream paths where it has fewer than 16 and a port of its unit is up (R283). (log 62 DEDUCED) -/
def fillPaths (s : State) (k : Nat) : State :=
  (List.range 16).foldl (fun t i =>
    match sget none (strm t k).paths i, leastPort t (upPorts t (unitOf k)) with
    | none, some p =>
      let e := freshEntropy t
      modStrm e.2 k fun x => { x with paths := sset none x.paths i (some { port := p, entropy := e.1 }) }
    | _, _ => t) s

/-! ### Frames sent -/

/-- The step header of a frame for a step (R280, R292). (log 55 DEDUCED) -/
def stepHdr (s : State) (step : Nat) : StepHdr :=
  let x := stepOf s step
  { team := od s 0x6001 1, step := step, member := selfNo s, lsExp := s.team.lsExp, halve := x.halve, ovf := x.ovf,
    inv := x.inv, poison := x.poison, digest64 := digestFor s step }

/-- Puts a frame on a port, addressed as R256 says. -/
def emitOn (s : State) (port entropy member : Nat) (f : RFrame) : State :=
  let w : Wire := {
    port := port, member := member,
    mac := (if (sget {} s.rly.ports port).mode = 2 then (sget {} s.rly.ports port).peerMac
      else BitVec.ofNat 64 (od s 0x6032 (port + 1) % 2 ^ 48)),
    src := memberAddr s (selfNo s) + port, dst := memberAddr s member + port, flow := entropy,
    ecn := (if f.type = 0 then 2 else 0), sport := 0xC000 + entropy % 2 ^ 14, dscp := od s 0x6034 (f.cls + 1), vlan := od s 0x6030 3, udp := od s 0x6030 1, frame := f }
  { s with rly := { s.rly with out := s.rly.out ++ [w] } }

/-- Sends a control frame of a stream on its first path, or on the first port that is up. (log 62 DEDUCED) -/
def emitCtl (s : State) (k type : Nat) (step : Option StepHdr) (body : RBody) : State :=
  let x := strm s k
  let f : RFrame := { type := type, cls := x.cls, dst := x.peerEntry, src := k, tstamp := s.ost.time % 2 ^ 32,
                      step := step, body := body }
  match x.paths.findSome? fun e => e.2 with
  | some p => emitOn s p.port p.entropy x.peer f
  | none =>
    match upPorts s (unitOf k) with
    | p :: _ => emitOn s p 0 x.peer f
    | [] => s

/-- The step that OPEN and PROBE frames name: the one whose timer last started. (log 55 DEDUCED) -/
def curStep (s : State) : Nat := s.rly.lastStep.getD 0

/-! ### Completion of operations -/

/-- An operation is complete: the engine counts one fewer outstanding (R179). -/
def finishOp (s : State) (id : Nat) : State :=
  match s.rly.ops.find? fun o => o.id == id with
  | none => s
  | some o =>
    let s1 := { s with rly := { s.rly with ops := s.rly.ops.filter fun p => p.id != id } }
    modEng s1 o.ge fun e => { e with units := { e.units with rly := e.units.rly.filter fun r => r.id != id } }

/-- One part of an operation is done; the last one completes it. -/
def partDone (s : State) (id : Nat) : State :=
  match s.rly.ops.find? fun o => o.id == id with
  | none => s
  | some o =>
    if o.left ≤ 1 then finishOp s id
    else { s with rly := { s.rly with ops := s.rly.ops.map fun p => if p.id = id then { p with left := p.left - 1 } else p } }

/-- An operation gains n more parts. -/
def addParts (s : State) (id n : Nat) : State :=
  { s with rly := { s.rly with ops := s.rly.ops.map fun p => if p.id = id then { p with left := p.left + n } else p } }

/-- A completion record (R272). (log 57 DEDUCED) -/
def complRecord (bytes status step : Nat) : List PByte :=
  (leBytes 8 (bytes % 2 ^ 32 + status * 2 ^ 32 + step % 2 ^ 24 * 2 ^ 40)).map (·, false)

/-- Writes a completion record at a context's flag address under the FENCE.FLAG rule of R218; 0 means none. -/
def putRecord (s : State) (ctx flag bytes status step : Nat) : State :=
  if flag = 0 then s else (flagWrite s ctx ctx flag (complRecord bytes status step)).2

/-- A posting by number. -/
def postOf (s : State) (id : Nat) : Option Posting := s.rly.posts.find? fun p => p.id == id

/-- One buffer of a posting is complete (R271, R272): its record, the i-th buffer's at flag + 8 i, and the posting's end with
its last buffer. -/
def bufferDone (s : State) (id bytes status step : Nat) : State :=
  match postOf s id with
  | none => s
  | some p =>
    let i := (s.rly.ops.find? fun o => o.id == p.op).map fun o => o.status
    let s1 := if p.spad then s else
      putRecord s p.ctx (if p.flag = 0 then 0 else p.flag + 8 * i.getD 0) bytes status step
    let s2 := { s1 with rly := { s1.rly with
      ops := s1.rly.ops.map fun o => if o.id = p.op then { o with status := o.status + 1 } else o,
      posts := if p.left ≤ 1 then s1.rly.posts.filter fun q => q.id != id
        else s1.rly.posts.map fun q => if q.id = id then { q with left := q.left - 1 } else q } }
    partDone s2 p.op

/-! ### Opening streams and queueing messages -/

/-- Message credits that the receiver may give a stream now: up to two of the buffers posted for it (R285). -/
def creditRoom (s : State) (k : Nat) : Nat :=
  let x := strm s k
  let r := srx s k
  if !msgClass x.cls then 0
  else if lendPeer s x.peer x.cls then 2 - r.granted
  else min (2 - r.granted) (freeBufs s x.peer x.cls -
    ((s.rly.rx.map fun e => if (strm s e.1).cls = x.cls then e.2.granted else 0).sum))

/-- Packets that a receiver grants beyond CUM_PSN (R285). -/
def packetLimit (s : State) (k : Nat) : Nat :=
  let x := strm s k
  let r := srx s k
  let held := x.cls == 2 && (s.rly.posts.any fun p => postFits p x.peer 2 &&
    (match cmbFind s p.region with | some (_, c) => c.state == .applying | none => false))
  if held then r.limit else r.cum + 256

/-- Gives message credits, or a fresh packet limit, in a CREDIT frame. -/
def giveCredit (s : State) (k : Nat) : State :=
  let x := strm s k
  if x.st ≠ .opened then s
  else if msgClass x.cls then
    let n := creditRoom s k
    if n = 0 then s else
    let s1 := modSrx s k fun r => { r with granted := r.granted + n }
    if x.peer = selfNo s then modStrm s1 k fun y => { y with msgCredits := y.msgCredits + n, demanded := false }
    else emitCtl s1 k 3 none (.credit none n 0)
  else
    let l := packetLimit s k
    if l ≤ (srx s k).limit then s else
    let s1 := modSrx s k fun r => { r with limit := l }
    if x.peer = selfNo s then modStrm s1 k fun y => { y with limit := l } else emitCtl s1 k 3 none (.credit (some l) 0 0)

/-- Credits at opening: the packet limit, or message credits. -/
def openCredits (s : State) (k : Nat) : Nat × State :=
  if msgClass (strm s k).cls then
    let n := creditRoom s k
    (n, modSrx s k fun r => { r with granted := r.granted + n })
  else (256, s)

/-- Sends the OPEN frame of a stream (R275, R281). (log 63 DEDUCED) -/
def sendOpen (s : State) (k : Nat) : State :=
  let c := openCredits s k
  emitCtl c.2 k 4 (some (stepHdr c.2 (curStep c.2))) (.opening (strm s k).cls c.1)

/-- Starts a stream in a free entry (R275): OPENING with an OPEN sent; the stream to the package's own member is open at once
(R262). -/
def startStream (s : State) (k peer cls : Nat) : State :=
  let s1 := setSrx (setStrm s k { st := .opening, peer := peer, cls := cls, lastUse := s.stamp }) k {}
  let s2 := fillPaths { s1 with stamp := s1.stamp + 1 } k
  if peer = selfNo s then
    giveCredit (modStrm s2 k fun x => { x with st := .opened, peerEntry := k, limit := 256 }) k
  else sendOpen s2 k

/-- The least recently used idle stream of a unit. -/
def lruIdle (s : State) (unit : Nat) : Option Nat :=
  (((s.rly.streams.map Prod.fst).filter fun k => unitOf k == unit && streamIdle s k).foldl (fun (b : Option (Nat × Nat)) k =>
    match b with
    | none => some (k, (strm s k).lastUse)
    | some (j, t) => if (strm s k).lastUse < t then some (k, (strm s k).lastUse) else some (j, t)) none).map Prod.fst

/-- A free entry of a unit's table. -/
def freeEntry (s : State) (unit : Nat) : Option Nat :=
  ((List.range 8192).find? fun i => (strm s (unit * 8192 + i)).st == .closed).map (unit * 8192 + ·)

/-- The stream to a peer of a class, opened if need be; with the table full and no idle stream to close, none (R277). -/
def useStream (s : State) (peer cls : Nat) : Option Nat × State :=
  match findStream s peer cls with
  | some k => (some k, s)
  | none =>
    let u := streamUnit s peer
    match freeEntry s u with
    | some k => (some k, startStream s k peer cls)
    | none =>
      match lruIdle s u with
      | some k =>
        let s1 := modStrm (emitCtl s k 7 none .plain) k fun x => { x with st := .closing }
        (none, { s1 with rly := { s1.rly with cnt := { s1.rly.cnt with tableWaits := s1.rly.cnt.tableWaits + 1 } } })
      | none => (none, { s with rly := { s.rly with cnt := { s.rly.cnt with tableWaits := s.rly.cnt.tableWaits + 1 } } })

/-- Puts a message on a stream. -/
def pushMsg (s : State) (k : Nat) (m : TxMsg) : State :=
  modStrm s k fun x => { x with tx := x.tx ++ [{ m with id := x.nextMsg }], nextMsg := x.nextMsg + 1 }

/-- A message cannot reach its peer: it is LOST, or the stream has FAILED (R276). -/
def unreachable (s : State) (peer cls : Nat) : Bool :=
  memberLost s peer || (match findStream s peer cls with | some k => (strm s k).st == .failed | none => false)

/-- Queues a message for a peer, which waits when the stream table is full (R277). (log 63 DEDUCED) -/
def queueMsg (s : State) (peer cls : Nat) (m : TxMsg) : State :=
  match useStream s peer cls with
  | (some k, t) => pushMsg t k m
  | (none, t) => { t with rly := { t.rly with waiting := t.rly.waiting ++ [(peer, cls, m)] } }

/-- Messages that waited for a stream entry try again. -/
def retryWaiting (s : State) : State :=
  let w := s.rly.waiting
  w.foldl (fun t x =>
    match useStream t x.1 x.2.1 with
    | (some k, u) => pushMsg u k x.2.2
    | (none, u) => { u with rly := { u.rly with waiting := u.rly.waiting ++ [x] } })
    { s with rly := { s.rly with waiting := [] } }

/-! ### Dispatch: entries, bundles, refused rows (R257 to R265, R402) -/

/-- The placement table in effect for a step: its base and entries (R259, R295). (log 145 DEDUCED) -/
def tableFor (s : State) (step : Nat) : Nat × Nat := if step < s.rly.ptabFrom then s.rly.ptabPrev else s.rly.ptab

/-- The two words of a placement entry of a table at a physical base. -/
def placeEnt (s : State) (base e : Nat) : Nat × Nat := (physNat s (base + 16 * e) 8, physNat s (base + 16 * e + 8) 8)

/-- NREP of an entry. -/
def entReps (w0 : Nat) : Nat := bits w0 57 56

/-- The holder at a rank: HOME, REP1, REP2, REP3 (R258). -/
def entHolder (w0 rank : Nat) : Nat := bits w0 (14 * rank + 13) (14 * rank)

/-- A gated combine by number. -/
def combOf (s : State) (id : Nat) : Option GComb := s.rly.combs.find? fun c => c.id == id

/-- Changes a gated combine. -/
def modComb (s : State) (id : Nat) (f : GComb → GComb) : State :=
  { s with rly := { s.rly with combs := s.rly.combs.map fun c => if c.id = id then f c else c } }

/-- CODE_BYTES, SCALE_BYTES, STAGE_BASE, OUT_BASE, OUT_STRIDE, OUT_BF16, OUT_ELEMS, STATUS_BASE and FLAG_ADDR (R261). -/
def cbCode (c : List W64) : Nat := bits (dw c 0) 47 32
def cbScale (c : List W64) : Nat := bits (dw c 0) 63 48
def cbStage (c : List W64) : Nat := bits (dw c 1) 56 0
def cbOut (c : List W64) : Nat := bits (dw c 2) 56 0
def cbStride (c : List W64) : Nat := bits (dw c 3) 31 0
def cbBf16 (c : List W64) : Bool := bitAt (dw c 3) 32
def cbElems (c : List W64) : Nat := bits (dw c 3) 63 48
def cbStatus (c : List W64) : Nat := bits (dw c 4) 56 0
def cbFlag (c : List W64) : Nat := bits (dw c 5) 56 0

/-- The control block breaks R261. -/
def cbBad (c : List W64) : Bool :=
  decide (cbCode c < 64 ∨ 16384 < cbCode c ∨ cbCode c % 64 ≠ 0 ∨ 512 < cbScale c ∨ cbElems c = 0 ∨ 16384 < cbElems c
    ∨ bits (dw c 1) 63 57 ≠ 0 ∨ bits (dw c 2) 63 57 ≠ 0 ∨ bits (dw c 3) 47 33 ≠ 0 ∨ bits (dw c 4) 63 57 ≠ 0
    ∨ bits (dw c 5) 63 57 ≠ 0 ∨ dw c 6 ≠ 0 ∨ dw c 7 ≠ 0)

/-- K of a router record (R260). (log 56 DEDUCED) -/
def rrK (r : List Byte) : Nat := leNat ((r.drop 4).take 1)
/-- The record is padding and is not dispatched (R260). (log 56 DEDUCED) -/
def rrSkip (r : List Byte) : Bool := bitAt (leNat ((r.drop 5).take 1)) 0
/-- Expert i of a record (R260). -/
def rrExpert (r : List Byte) (i : Nat) : Nat := leNat ((r.drop (8 + 4 * i)).take 4)
/-- Gate i of a record (R260). -/
def rrGate (r : List Byte) (i : Nat) : W32 := BitVec.ofNat 32 (leNat ((r.drop (16 + 4 * i)).take 4))

/-- A record breaks R260. (log 56 DEDUCED; log 59 DEDUCED) -/
def rrBad (r : List Byte) : Bool :=
  decide (rrK r = 0 ∨ 4 < rrK r ∨ 2 ≤ leNat ((r.drop 5).take 1) ∨ leNat ((r.drop 6).take 2) ≠ 0)

/-- The header of a bundle or return message: BUNDLE_ID, STEP, ENTRY, SENDER, ROWS, HOLDER_RANK and the row entries, padded
to a multiple of 64 (R263, R267). (log 58 DEDUCED) -/
def rowHeader (bundle step entry sender rows rank : Nat) (refs : List RowRef) : List Byte :=
  let h := leBytes 4 bundle ++ leBytes 4 step ++ leBytes 4 entry ++ leBytes 2 sender ++ leBytes 1 rows ++ leBytes 1 rank
    ++ leBytes 48 0 ++ refs.flatMap fun r => leBytes 8 (r.1 + r.2 * 2 ^ 32)
  h ++ leBytes ((64 - h.length % 64) % 64) 0

/-- Bytes of a row header. -/
def rowHeaderBytes (n : Nat) : Nat := (64 + 8 * n + 63) / 64 * 64

/-- The status halfword of a record. (log 60 DEDUCED) -/
def recStatus (c : GComb) (r : Nat) : Nat := sget 0 c.status r

/-- Writes a record's status to memory (R270). -/
def putStatus (s : State) (c : GComb) (r : Nat) : State :=
  (uWrite s c.ctx (cbStatus c.cb + 2 * r) ((leBytes 2 (recStatus c r)).map (·, false))).2

/-- Sets bits of a record's status, in the unit and in memory. (log 60 DEDUCED) -/
def orStatus (s : State) (id r b : Nat) : State :=
  let s1 := modComb s id fun c => { c with status := smod 0 c.status r (· ||| b) }
  match combOf s1 id with
  | some c => putStatus s1 c r
  | none => s1

/-- One slot of a record is decided (accepted or dropped). -/
def slotDecided (s : State) (id r : Nat) : State :=
  modComb s id fun c => { c with pendingRows := smod 0 c.pendingRows r (· - 1) }

/-- The bytes of n copies' rows: codes of every row, then scales of every row (R263). (log 58 DEDUCED) -/
def bundleData (c : GComb) (rows : List RowRef) : List PByte :=
  let d := rows.map fun r => sget [] c.rowBytes r.1
  (d.flatMap fun x => x.take (cbCode c.cb)) ++ d.flatMap fun x => x.drop (cbCode c.cb)

/-- The rank after one that has refused a row, wrapping past the last replica to HOME, that has not refused it this step
(R265). -/
def nextRank (w0 refused rank : Nat) : Option Nat :=
  let n := entReps w0 + 1
  ((List.range n).map fun i => (rank + 1 + i) % n).find? fun j => !bitAt refused j

/-- A recorded decision of the journal for a row, in replay (R266): the holder it went to, or none for a drop. -/
def replayRow (s : State) (step r slot : Nat) : Option (Option Nat) :=
  if !replaying s then none else
  (stepOf s step).items.findSome? fun i => match i with
    | .reroute a b h => if a = r ∧ b = slot then some h else none
    | _ => none

/-- Drops a row (R265, R270). -/
def dropRow (s : State) (id step : Nat) (r : RowRef) : State :=
  let s1 := slotDecided (orStatus s id r.1 (2 ^ (8 + r.2))) id r.1
  if replaying s then s1 else addItem s1 step (.reroute r.1 r.2 none)

/-- Sends rows of one entry to the holder of a rank, as bundles of up to 64 rows; where the holder cannot be reached its rows
are refused (R402) and go on as R265 says. The fuel is the number of holders left to try. -/
def sendBundles : Nat → State → Nat → Nat → Nat → List RowRef → State
  | 0, s, id, _, _, rows =>
    match combOf s id with
    | some c => rows.foldl (fun t r => dropRow t id c.step r) s
    | none => s
  | f + 1, s, id, entry, rank, rows =>
    match combOf s id with
    | none => s
    | some c =>
      if rows.isEmpty then s else
      let w0 := (placeEnt s c.tabBase entry).1
      let m := entHolder w0 rank
      if unreachable s m 0 then
        -- every row is refused by this holder
        rows.foldl (fun t r =>
          let k := r.1 * 4 + r.2
          let t1 := modComb t id fun c => { c with refused := smod 0 c.refused k (setBit · rank) }
          match (combOf t1 id).map (fun c => sget 0 c.refused k) with
          | none => t1
          | some rf =>
            match (if bitAt w0 60 then nextRank w0 rf rank else none) with
            | none => dropRow t1 id c.step r
            | some j => sendBundles f (addItem t1 c.step (.reroute r.1 r.2 (some (entHolder w0 j)))) id entry j [r]) s
      else
        (chunk 64 rows.length rows).foldl (fun t b =>
          let num := sget 0 (stepOf t c.step).bundleNo m
          let t1 := modStep t c.step fun x => { x with bundleNo := smod 0 x.bundleNo m (· + 1) }
          let head := rowHeader num c.step entry (selfNo t) b.length rank b
          let msg : TxMsg := {
            id := 0, op := some c.op, tcls := 0, step := c.step,
            data := head.map (·, false) ++ bundleData c b, body := .bundle (cbCode c.cb) (cbScale c.cb),
            bundle := some (id, num) }
          let sb : SentBundle := { member := m, num := num, entry := entry, rank := rank, rows := b }
          let t2 := modComb t1 id fun x => { x with bundles := x.bundles ++ [sb] }
          queueMsg (addParts t2 c.op 1) m 0 msg) s

/-- Rows that a holder refused go on under the entry's OVF_POLICY (R265). -/
def refuseRows (s : State) (id entry rank : Nat) (rows : List RowRef) : State :=
  match combOf s id with
  | none => s
  | some c =>
    let w0 := (placeEnt s c.tabBase entry).1
    let mark (m : SMap Nat) : SMap Nat := rows.foldl (fun m r => smod 0 m (r.1 * 4 + r.2) (setBit · rank)) m
    let s1 := modComb s id fun c => { c with refused := mark c.refused }
    let tgt (r : RowRef) : Option Nat :=
      match replayRow s c.step r.1 r.2 with
      | some (some h) => (List.range 4).find? fun j => decide (j ≤ entReps w0) && entHolder w0 j == h
      | some none => none
      | none =>
        match combOf s1 id with
        | some x => if bitAt w0 60 then nextRank w0 (sget 0 x.refused (r.1 * 4 + r.2)) rank else none
        | none => none
    let s2 := (rows.filter fun r => (tgt r).isNone).foldl (fun t r => dropRow t id c.step r) s1
    (List.range 4).foldl (fun t j =>
      let l := rows.filter fun r => tgt r == some j
      let t1 := if replaying t then t else
        l.foldl (fun u r => addItem u c.step (.reroute r.1 r.2 (some (entHolder w0 j)))) t
      sendBundles 4 t1 id entry j l) s2

/-! ### The gated combine (R267 to R270) -/

/-- Every slot of a record is accepted or dropped, and every accepted one has arrived. -/
def recReady (c : GComb) (r : Nat) : Bool :=
  let st := recStatus c r
  sget 0 c.pendingRows r == 0 && bits st 3 0 == bits st 7 4

/-- One element of the output (R268). -/
def gateElem (l : List (W32 × PByte × PByte)) : Fx :=
  l.foldl (fun y x =>
    let o := orPoison (x.2.1.2 || x.2.2.2) (decBf (x.2.1.1.toNat + 256 * x.2.2.1.toNat))
    (fma32 (dec32 x.1) o y).1) (.fin false 0 0)

/-- A number as its output element, with its poison mark. -/
def outElem (bf : Bool) (y : Fx) : List PByte :=
  let p := fxIsPoison y
  if bf then (leBytes 2 (encBf (roundBf y).1)).map (·, p) else (leBytes 4 (enc32 y).toNat).map (·, p)

/-- Forms the output of a record from the slots that have arrived and writes it (R268, R269): gates and K are read now. -/
def formRecord (s : State) (id r : Nat) (missing : Bool) : State :=
  match combOf s id with
  | none => s
  | some c =>
    let rd := uReadSpace s c.ge c.ctx c.stamp c.rspace (c.rbase + 32 * r) 32
    let rec_ : List Byte := match rd.1 with | .ok d => d.map Prod.fst | .error _ => c.routers.getD r []
    let s0 := rd.2
    let n := cbElems c.cb
    let st := recStatus c r
    let slots := (List.range 4).filter fun i => decide (i < rrK rec_) && bitAt st (4 + i)
    let rows := slots.map fun i => (uRead s0 c.ctx (cbStage c.cb + r * 8 * n + i * 2 * n) (2 * n)).1.getD []
    let gates := slots.map (rrGate rec_)
    let out := (List.range n).map fun e =>
      gateElem ((gates.zip rows).map fun x => (x.1, x.2.getD (2 * e) (0, false), x.2.getD (2 * e + 1) (0, false)))
    let d := out.flatMap (outElem (cbBf16 c.cb))
    let s1 := (uWrite s0 c.ctx (cbOut c.cb + r * cbStride c.cb) d).2
    orStatus s1 id r (2 ^ 14 + (if out.any fxIsPoison then 2 ^ 12 else 0) + (if missing then 2 ^ 13 else 0))

/-- A combine whose records are all DONE, or whose step has closed, writes its completion record and ends (R270, R272). -/
def endComb (s : State) (id status : Nat) : State :=
  match combOf s id with
  | none => s
  | some c =>
    let row := cbElems c.cb * (if cbBf16 c.cb then 2 else 4)
    let poison := (List.range c.n).any fun r => bitAt (recStatus c r) 12
    let missing := ((List.range c.n).filter fun r => bitAt (recStatus c r) 13).length
    let code := if status ≠ 0 then status else if 0 < missing then 5 else if poison then 3 else 0
    let s1 := putRecord s c.ctx (cbFlag c.cb) (c.n * row) code c.step
    modStep { s1 with rly := { s1.rly with combs := s1.rly.combs.filter fun x => x.id != id } } c.step
      fun x => { x with missing := x.missing + missing }

/-- Forms the records that have become ready, and ends the combine after the last. -/
def settleComb (s : State) (id : Nat) (recs : List Nat) : State :=
  let s1 := recs.eraseDups.foldl (fun t r =>
    match combOf t id with
    | some c => if !bitAt (recStatus c r) 14 && recReady c r then formRecord t id r false else t
    | none => t) s
  match combOf s1 id with
  | some c => if (List.range c.n).all fun r => bitAt (recStatus c r) 14 then endComb s1 id 0 else s1
  | none => s1

/-- A holder has answered a bundle: its first a rows are accepted, the rest refused (R264, R265). -/
def bundleAnswered (s : State) (id num peer a : Nat) : State :=
  match combOf s id with
  | none => s
  | some c =>
    match c.bundles.find? fun b => b.num == num && b.member == peer with
    | none => s
    | some b =>
      let s1 := (b.rows.take a).foldl (fun t r => slotDecided (orStatus t id r.1 (2 ^ r.2)) id r.1) s
      let s2 := refuseRows s1 id b.entry b.rank (b.rows.drop a)
      settleComb s2 id (b.rows.map Prod.fst)

/-- A message ends with no more to send: it leaves its stream and its operation has one part fewer. Bundles that could not be
delivered count as refused (R402). -/
def msgLost (s : State) (peer : Nat) (m : TxMsg) : State :=
  let s1 := match m.bundle with
    | some (id, num) => bundleAnswered s id num peer 0
    | none => s
  match m.op with
  | some o => partDone s1 o
  | none => s1

/-- A stream fails (R276): what it carries ends with PEER_LOST. -/
def failStream (s : State) (k : Nat) : State :=
  let x := strm s k
  let s1 := modStrm s k fun y => { y with st := .failed, tx := [], unacked := [] }
  (x.tx.filter fun m => !m.complete).foldl (fun t m => msgLost t x.peer m) s1

end Sys2Proof.Machine
end

