-- ==== Sys2Proof/Machine/Nvme.lean ====
section
/-! DEFINITION. The NVMe initiators of the edge dies: request rings in memory, requests, commands to the controllers and
completion records (R324, R325). -/

namespace Sys2Proof.Machine

/-- Word i of a request. (log 76 DESIGN CHOICE) -/
def nvW (r : NvReq) (i : Nat) : Nat := (r.words.getD i 0).toNat

/-- Fields of a request (R325). -/
def nvOp (r : NvReq) : Nat := bits (nvW r 0) 3 0
def nvCtrl (r : NvReq) : Nat := bits (nvW r 0) 6 4
def nvNs (r : NvReq) : Nat := bits (nvW r 0) 8 7
def nvSlba (r : NvReq) : Nat := nvW r 1
def nvNlb (r : NvReq) : Nat := bits (nvW r 2) 6 0
def nvBuf (r : NvReq) : Nat := bits (nvW r 3) 56 0
def nvCtx (r : NvReq) : Nat := bits (nvW r 4) 11 0
def nvRecord (r : NvReq) : Nat := bits (nvW r 5) 56 0

/-- A reserved field or encoding of a request: OP, the fields outside the table, NLB outside 1 to 64, a buffer that is not 4 KiB
aligned. (log 77 DEDUCED) -/
def nvBad (r : NvReq) : Bool :=
  decide (5 < nvOp r) || bits (nvW r 0) 63 9 != 0 || bits (nvW r 2) 63 7 != 0 || nvNlb r == 0 || decide (64 < nvNlb r)
    || bits (nvW r 3) 63 57 != 0 || nvBuf r % 4096 != 0 || bits (nvW r 4) 63 12 != 0 || bits (nvW r 5) 63 57 != 0
    || nvW r 7 != 0

/-- The key of a request's controller. (log 76 DESIGN CHOICE) -/
def nvKey (r : NvReq) : Nat := r.unit * 8 + nvCtrl r

/-- The controller of a request is assigned and enabled. -/
def nvEnabled (s : State) (k : Nat) : Bool := bitAt (od s 0x8050 (k + 1)) 17

/-- Bytes written by the initiator at a context's virtual address (R211: deferring on a STREAMING region). -/
def dmaWrite (s : State) (ctx va : Nat) (d : List PByte) : Bool × State :=
  match vPieces s none ctx .write va d.length with
  | (.ok l, t) =>
    (true, (l.foldl (fun (x : State × List PByte) p =>
      (homeWrite x.1 noCtx 0 true p.a (x.2.take p.n), x.2.drop p.n)) (t, d)).1)
  | (.error _, t) => (false, t)

/-- A request completes: its 8-byte record is written, with the controller's status or the initiator error in bit 15. -/
def nvFinish (s : State) (r : NvReq) (status : Nat) (err : Bool) : State :=
  let v := status % 2 ^ 15 + 2 ^ 15 * b2n err + 2 ^ 32 * (nvW r 6 % 2 ^ 32)
  let s1 := (flagWrite s noCtx (nvCtx r) (nvRecord r) ((leBytes 8 v).map (·, false))).2
  { s1 with nvme := { s1.nvme with
      reqs := s1.nvme.reqs.filter fun x => x.id != r.id,
      commands := s1.nvme.commands + 1,
      errors := if err || status % 2 ^ 15 != 0 then s1.nvme.errors + 1 else s1.nvme.errors } }

/-- The initiator is held in reset by its containment, or RETIRED (R377, R383). -/
def nvOut (s : State) (unit : Nat) : Bool :=
  sget false s.contain.out (17 * 4096 + unit) || sget false s.contain.retired (17 * 4096 + unit)

/-- A command goes to a controller. -/
def nvEmit (s : State) (c : NvCmd) : State := { s with nvme := { s.nvme with out := s.nvme.out ++ [c] } }

/-- The address of a ring's control granule: 64 bytes, then 256 entries of 64 bytes. (log 76 DESIGN CHOICE) -/
def nvRingAt (s : State) (unit ring : Nat) : Nat := od s 0x8051 (unit + 1) + ring * (64 + 256 * 64)

/-- Takes one entry of a ring. (log 76 DESIGN CHOICE) -/
def nvTake (unit : Nat) (s : State) (addr : Nat) : State :=
  let r : NvReq := { id := s.nvme.nextId, unit := unit, words := (List.range 8).map fun i => BitVec.ofNat 64 (physNat s (addr + 8 * i) 8) }
  let poisoned := (physRead s addr 64).any Prod.snd
  let s1 := { s with nvme := { s.nvme with nextId := s.nvme.nextId + 1, reqs := s.nvme.reqs ++ [r] } }
  if nvBad r || poisoned then nvFinish s1 r 0 true else s1

/-- NVME_RING_POLL: the entries between HEAD and TAIL are taken, and HEAD is written. -/
def execNvmeRingPoll (unit ring : Nat) (s : State) : Host.Outcome State Fault Refusal :=
  ok (
    let b := nvRingAt s unit ring
    if od s 0x8051 (unit + 1) = 0 ∨ 2 ≤ unit ∨ 64 ≤ ring ∨ !powered s ∨ nvOut s unit then s else
    let tail := physNat s b 4
    let head := physNat s (b + 4) 4
    let n := min 256 ((tail + 2 ^ 32 - head) % 2 ^ 32)
    let s1 := ((List.range n).map fun i => b + 64 + 64 * ((head + i) % 256)).foldl (nvTake unit) s
    if n = 0 then s else physWrite s1 (b + 4) (leBytes 4 (head + n)))

/-- The first request of an operation that an initiator has not sent yet. -/
def nvNext (s : State) (unit op : Nat) : Option NvReq :=
  if nvOut s unit then none else s.nvme.reqs.find? fun r => r.unit == unit && nvOp r == op && !r.sent

/-- A request goes to its controller with the data given, or ends with an initiator error: its controller is not enabled or has
failed. (log 77 DEDUCED) -/
def nvSend (s : State) (r : NvReq) (d : List PByte) : State :=
  if !nvEnabled s (nvKey r) || sget false s.nvme.failed (nvKey r) then nvFinish s r 0 true else
  let s1 := { s with nvme := { s.nvme with reqs := s.nvme.reqs.map fun x => if x.id = r.id then { x with sent := true } else x } }
  nvEmit s1 { unit := r.unit, ctrl := nvCtrl r, id := r.id, op := nvOp r, ns := nvNs r, slba := nvSlba r, nlb := nvNlb r, data := d }

/-- A request without data. -/
def nvPlain (s : State) (unit op : Nat) : State :=
  match nvNext s unit op with
  | some r => nvSend s r []
  | none => s

/-- A request that writes the buffer's blocks: the buffer is read under the context's translation and ranges; poison is an
initiator error (R225). -/
def nvWriteReq (s : State) (unit op : Nat) : State :=
  match nvNext s unit op with
  | none => s
  | some r =>
    match uRead s (nvCtx r) (nvBuf r) (nvNlb r * 4096) with
    | (none, t) => nvFinish t r 0 true
    | (some d, t) => if d.any Prod.snd then nvFinish t r 0 true else nvSend t r d

/-- NVME_READ: the buffer must be writable under the context's translation and ranges. -/
def execNvmeRead (unit : Nat) (s : State) : Host.Outcome State Fault Refusal :=
  ok (
    match nvNext s unit 0 with
    | none => s
    | some r =>
      match vPieces s none (nvCtx r) .write (nvBuf r) (nvNlb r * 4096) with
      | (.error _, t) => nvFinish t r 0 true
      | (.ok _, t) => nvSend t r [])

/-- NVME_WRITE. -/
def execNvmeWrite (unit : Nat) (s : State) : Host.Outcome State Fault Refusal := ok (nvWriteReq s unit 1)

/-- NVME_WRITE_FUA. -/
def execNvmeWriteFua (unit : Nat) (s : State) : Host.Outcome State Fault Refusal := ok (nvWriteReq s unit 2)

/-- NVME_FLUSH. -/
def execNvmeFlush (unit : Nat) (s : State) : Host.Outcome State Fault Refusal := ok (nvPlain s unit 3)

/-- NVME_DEALLOCATE. -/
def execNvmeDeallocate (unit : Nat) (s : State) : Host.Outcome State Fault Refusal := ok (nvPlain s unit 4)

/-- NVME_WRITE_ZEROES. -/
def execNvmeWriteZeroes (unit : Nat) (s : State) : Host.Outcome State Fault Refusal := ok (nvPlain s unit 5)

/-- A failed command is sent again, with the data that its buffer holds now. (log 77 DEDUCED) -/
def nvResend (s : State) (r : NvReq) : State :=
  if nvOp r = 1 ∨ nvOp r = 2 then
    match uRead s (nvCtx r) (nvBuf r) (nvNlb r * 4096) with
    | (none, t) => nvFinish t r 0 true
    | (some d, t) => if d.any Prod.snd then nvFinish t r 0 true else nvSend t r d
  else nvSend s r []

/-- NVME_COMPLETION: a failure is retried three times, then the controller is reset once, and a further failure marks it failed
(R324); a success of a READ writes the buffer. -/
def execNvmeCompletion (unit id status : Nat) (data : List Byte) (s : State) : Host.Outcome State Fault Refusal :=
  ok (
    match s.nvme.reqs.find? fun r => r.unit == unit && r.id == id && r.sent with
    | none => s
    | some r =>
      if status % 2 ^ 15 = 0 then
        if nvOp r = 0 then
          let w := dmaWrite s (nvCtx r) (nvBuf r) ((data.take (nvNlb r * 4096)).map (·, false))
          nvFinish w.2 r 0 (!w.1)
        else nvFinish s r 0 false
      else
        let again (t : State) : State :=
          let r1 := { r with retries := r.retries + 1 }
          nvResend { t with nvme := { t.nvme with reqs := t.nvme.reqs.map fun x => if x.id = r.id then r1 else x } } r1
        if r.retries < 3 then again s
        else if r.retries = 3 ∧ !sget false s.nvme.wasReset (nvKey r) then
          again { s with nvme := { s.nvme with
            wasReset := sset false s.nvme.wasReset (nvKey r) true, resets := s.nvme.resets ++ [nvKey r] } }
        else
          let s1 := nvFinish s r status true
          note { s1 with nvme := { s1.nvme with failed := sset false s1.nvme.failed (nvKey r) true } } 5 9 3 6 unit
            [BitVec.ofNat 64 (nvCtrl r), BitVec.ofNat 64 status])

end Sys2Proof.Machine
end

