-- ==== Sys2Proof/Machine/EngFault.lean ====
section
/-! DEFINITION. Hardware faults of an engine: in an array, in the chain, in a move queue and in its registers and logs, what each
abandons, and the engine's way into HELD (R22, R87 to R90, R155, R156, R158, R181 to R187, R378, R380). -/

namespace Sys2Proof.Machine

/-! ### What is abandoned -/

/-- The tiles that an array's passes on their way write. -/
def abandonedTiles (x : Arr) : List Nat := ((livePasses x).map Pass.tile).eraseDups

/-- The records of every operation in the log, open or closed, of the tiles given (R186). -/
def redoRecords (c : Acc) (tiles : List Nat) : List (Nat × Tag) :=
  (c.log.filter fun o => tiles.contains o.tile).flatMap MatOp.records

/-- The accumulator side of an abandonment (R87, R186): the tiles become poison, and their operations' records are to be re-issued
ahead of everything else. -/
def abandonAcc (c : Acc) (tiles : List Nat) : Acc :=
  let redo := redoRecords c tiles
  let c1 := tiles.foldl poisonTile c
  { c1 with reexecQ := redo ++ c1.reexecQ.filter fun r => !redo.any fun q => q.1 == r.1 && q.2.stamp == r.2.stamp }

/-- The run in progress after an abandonment: one that has begun no pass goes back to the head of the queue, one whose tile is
poisoned is re-executed from the log, and any other goes on (R186). -/
def abandonRun (x : Arr) (tiles : List Nat) : Arr :=
  match x.run with
  | none => x
  | some r =>
    if r.fresh then { x with run := none, queue := .run r.addr r.tag :: x.queue }
    else if tiles.contains (rTile r.words) then { x with run := none }
    else x

/-- An array abandons its passes (R87): every datum, partial sum and drain result is discarded, the banks are invalid, and no
finished-tile descriptor of those tiles is raised. -/
def abandonArr (e : Engine) (a : Nat) : Engine :=
  let x := arrOf e a
  let tiles := abandonedTiles x
  let x1 := abandonRun { dropBanks x with
    rows := [], drain := [], fed := [], pass := none, credits := 64, held := x.held.filter fun y => !tiles.contains y.1 } tiles
  let e1 := setAcc e a (abandonAcc (accOf e a) tiles)
  setArr e1 a (reloadBank e1 a x1)

/-- An array whose passes have been abandoned notes its re-executions (R186), if any, and goes on; e is the engine before. -/
def afterAbandon (e : Engine) (s : State) (ge a : Nat) : State :=
  let s1 := if (redoRecords (accOf e a) (abandonedTiles (arrOf e a))).isEmpty then s else note s 3 5 1 2 ge [BitVec.ofNat 64 a]
  advance 5 s1 ge a

/-- Raises UNRECOVERABLE on an engine, and marks its context UNRECOVERABLE (R156, R181, R183). (log 39 DEDUCED) -/
def raiseUnrec (s : State) (ge : Nat) (t : Tag) : State :=
  raiseSeq { s with ctxs := smod {} s.ctxs (eng s ge).seq.context fun x => { x with unrec := true } } ge cUNREC t 0

/-- The chain abandons its instruction (R156): its whole output range becomes poison, a finished tile that it was consuming is
free, and it is re-executed from its record; with INPLACE the context has failed. -/
def abandonChain (s : State) (ge : Nat) : State :=
  match (eng s ge).chain.cur with
  | none => s
  | some r =>
    let t := chainTag r.op
    let w := modEng (writeOuts s ge t.1 true 0 r.groups r.outs) ge fun x =>
      consumeFt (modChain x fun c => { c with cur := none }) r.own
    if r.inplace then raiseUnrec (modEng w ge fun x => advanceChain 4 (unpend x t.2)) ge t.1
    else modEng w ge fun x => modChain x fun c => { c with queue := r.op :: c.queue, reexec := true, plainRead := true }

/-- The engine's slot enters HELD (R21, R22, R380): its work stops, and the passes and the chain instruction in progress are
abandoned, to be re-executed. -/
def holdEngine (s : State) (ge : Nat) : State :=
  if slotState s (slotOf s ge) == .held then s else
  let s1 := abandonChain (modEng s ge fun e => (List.range 4).foldl abandonArr e) ge
  holdSlot ((List.range 4).foldl (fun t a => afterAbandon (eng s ge) t ge a) s1) ge

/-- A fault puts the slot in HELD when it is the unit's second before the first is cleared (R89, R156, R183, R378), or meets a
drain request (R22). -/
def escalate (s : State) (ge : Nat) (second : Bool) : State :=
  if second || slotState s (slotOf s ge) == .draining then holdEngine s ge else s

/-! ### Arrays (R87) -/

/-- The pass that a fault is reported for: the open one, or the youngest in the grid. -/
def faultPass (x : Arr) : Option Pass := match x.pass with | some p => some p | none => x.fed.getLast?

/-- A hardware fault in an array (R87 to R90): the Groom is told the code, the slot, the array, the pass sequence number and the
FORMAT_ID of both slots; the passes are abandoned. -/
def arrayFault (s : State) (ge a code : Nat) : State :=
  let e := eng s ge
  let x := arrOf e a
  let fmtId (f : Pass → Nat) : W64 := match faultPass x with
    | some p => BitVec.ofNat 64 (sget {} e.fmt (f p)).formatId
    | none => 0
  let seqNo : W64 := match faultPass x with | some p => BitVec.ofNat 64 p.seqNo | none => x.passSeq.setWidth 64
  let s1 := note s 1 code 2 1 (ge * 4 + a) [seqNo, fmtId Pass.wslot, fmtId Pass.aslot]
  let s2 := modEng s1 ge fun y =>
    let z := abandonArr y a
    setArr z a { arrOf z a with faultCode := code, hwPending := true }
  escalate (afterAbandon e s2 ge a) ge x.hwPending

/-- An array hardware fault is detected (R88: codes 0x01 to 0x07). -/
def execArrayHwFault (ge arr code : Nat) (s : State) : Host.Outcome State Fault Refusal :=
  ok (arrayFault s ge arr code)

/-! ### The chain (R156) -/

/-- A hardware fault in the chain (R155, R156): the Groom is told the code, the slot and INSTR_SEQ; the instruction in progress is
abandoned. -/
def chainFault (s : State) (ge code : Nat) : State :=
  let e := eng s ge
  let s1 := note (modEng s ge fun x => modChain x fun c => { c with faultCode := code, hwPending := true })
    2 code 2 2 ge [e.chain.instrSeq.setWidth 64]
  escalate (abandonChain s1 ge) ge e.chain.hwPending

/-- A chain hardware fault is detected (R155: codes 0x01 to 0x04). -/
def execChainHwFault (ge code : Nat) (s : State) : Host.Outcome State Fault Refusal :=
  ok (chainFault s ge code)

/-- The Groom's watchdog finds a stage of array unit, or of the chain (unit 4), incomplete after 10 µs (R88, R155). -/
def execHandshakeTimeout (ge unit : Nat) (s : State) : Host.Outcome State Fault Refusal :=
  ok (if unit < 4 then arrayFault s ge unit 3 else chainFault s ge 3)

/-! ### The sequencer and the move queues (R183) -/

/-- An uncorrectable register or log error (R183): the slot enters HELD and the context is unrecoverable. (log 39 DEDUCED) -/
def execRegEccError (ge : Nat) (s : State) : Host.Outcome State Fault Refusal :=
  ok (
    let t : Tag := { pc := (eng s ge).seq.pc, stamp := s.stamp }
    raiseUnrec (holdEngine (noteEngine s ge 2 3) ge) ge t)

/-- Marks a fault of a move queue, until the Groom clears it, and of its entry in progress, until the entry is done. -/
def markMov (e : Engine) (q : Nat) : Engine :=
  let m := sset false e.units.mqFault q true
  { e with units := { e.units with mqFault := if (movq e q).isEmpty then m else sset false m (4 + q) true } }

/-- The queue or its entry in progress has faulted before. -/
def movFaulted (e : Engine) (q : Nat) : Bool := sget false e.units.mqFault q || sget false e.units.mqFault (4 + q)

/-- A fault inside a move queue (R183, R378): a copy or fill starts again, a combine operation that the home has not accepted is
issued again, the rest of a mov.cmb goes as poisoned contributions, and a second fault of the queue or of its entry escalates to
the engine. (log 142 DEDUCED) -/
def execMoveUnitFault (ge q : Nat) (s : State) : Host.Outcome State Fault Refusal :=
  ok (
    let e := eng s ge
    let second := movFaulted e q
    let s1 := modEng (noteEngine s ge (if second then 4 else 3) (if second then 3 else 2)) ge fun x => markMov x q
    let s2 := match movq e q with
      | .cmb ds dd c ep tg :: _ =>
        match runCmb s1 ge q tg.stamp ds dd c ep true with
        | (.ok _, t) => modEng t ge fun x => popMov x q
        | (.error er, t) => raiseSeq (modEng t ge fun x => popMov x q) ge er.1 tg er.2
      | _ => s1
    if second then holdEngine s2 ge else s2)

end Sys2Proof.Machine
end

