-- ==== Sys2Proof/Machine/Journal.lean ====
section
/-! DEFINITION. The step journal (R392, R393): records and their sections in memory, written, found and read back for replay
(R394). The bytes of an item follow the order in which R393 names its fields (assumption log). -/

namespace Sys2Proof.Machine

/-- TYPE of the section that holds an item (R393). -/
def jType : JItem → Nat
  | .regionClose _ _ _ _ _ _ _ => 0x10
  | .late _ _ _ _ => 0x11
  | .admission _ _ _ _ => 0x12
  | .reroute _ _ _ => 0x13
  | .closeCounts _ _ => 0x14
  | .skip _ _ _ => 0x20
  | .groupTally _ _ => 0x22
  | .repair _ _ _ _ => 0x23
  | .unitEvent _ _ => 0x30

/-- The bytes of an item. -/
def jBytes : JItem → List Byte
  | .regionClose h e ep m f o l =>
    leBytes 2 h ++ leBytes 2 e ++ leBytes 4 ep ++ leBytes 32 m ++ leBytes 1 (b2n f) ++ leBytes 1 (b2n o) ++ leBytes 2 l
  | .late m c b d => leBytes 2 m ++ leBytes 1 c ++ leBytes 1 d ++ leBytes 4 b
  | .admission e snd b a => leBytes 4 e ++ leBytes 2 snd ++ leBytes 2 a ++ leBytes 4 b
  | .reroute r sl h => leBytes 4 r ++ leBytes 1 sl ++ leBytes 1 (b2n h.isNone) ++ leBytes 2 (h.getD 0)
  | .closeCounts m r => leBytes 4 m ++ leBytes 4 r
  | .skip f c r => leBytes 4 f ++ leBytes 4 c ++ leBytes 4 r
  | .groupTally i t => leBytes 4 i ++ leBytes 8 t.toNat
  | .repair g h m r => leBytes 4 g ++ leBytes 4 h ++ leBytes 2 m ++ leBytes 2 r
  | .unitEvent u g => leBytes 2 u ++ leBytes 2 g

/-- Bytes of an item of a section type; 0 for a type that the units do not read back. -/
def jSize (ty : Nat) : Nat :=
  if ty = 0x10 then 44 else if ty = 0x11 then 8 else if ty = 0x12 then 12 else if ty = 0x13 then 8
  else if ty = 0x14 then 8 else if ty = 0x20 then 12 else if ty = 0x22 then 12 else if ty = 0x23 then 12
  else if ty = 0x30 then 4 else 0

/-- An item read back. (log 67 DESIGN CHOICE) -/
def jItem (ty : Nat) (b : List Byte) : Option JItem :=
  let n (o k : Nat) : Nat := leNat ((b.drop o).take k)
  if ty = 0x10 then some (.regionClose (n 0 2) (n 2 2) (n 4 4) (n 8 32) (n 40 1 == 1) (n 41 1 == 1) (n 42 2))
  else if ty = 0x11 then some (.late (n 0 2) (n 2 1) (n 4 4) (n 3 1))
  else if ty = 0x12 then some (.admission (n 0 4) (n 4 2) (n 8 4) (n 6 2))
  else if ty = 0x13 then some (.reroute (n 0 4) (n 4 1) (if n 5 1 = 1 then none else some (n 6 2)))
  else if ty = 0x14 then some (.closeCounts (n 0 4) (n 4 4))
  else if ty = 0x20 then some (.skip (n 0 4) (n 4 4) (n 8 4))
  else if ty = 0x22 then some (.groupTally (n 0 4) (BitVec.ofNat 64 (n 4 8)))
  else if ty = 0x23 then some (.repair (n 0 4) (n 4 4) (n 8 2) (n 10 2))
  else if ty = 0x30 then some (.unitEvent (n 0 2) (n 2 2))
  else none

/-- Zero bytes that pad a length to a multiple of n. -/
def padTo (n len : Nat) : List Byte := leBytes ((n - len % n) % n) 0

/-- A section: head and bytes, padded to 8 (R393). (log 67 DESIGN CHOICE) -/
def jSection (ty : Nat) (b : List Byte) : List Byte := leBytes 2 ty ++ leBytes 2 b.length ++ b ++ padTo 8 (b.length + 4)

/-- The sections of a step's items, at most 32 KiB each. -/
def jSections (items : List JItem) : List (List Byte) :=
  [0x10, 0x11, 0x12, 0x13, 0x14, 0x20, 0x22, 0x23, 0x30].flatMap fun ty =>
    let l := items.filter fun i => jType i == ty
    (chunk (32768 / jSize ty) l.length l).map fun c => jSection ty (c.flatMap jBytes)

/-- The sections in a run of bytes, with their types (fuel: the number of bytes). -/
def cutSections : Nat → List Byte → List (Nat × List Byte)
  | 0, _ => []
  | f + 1, b =>
    if b.length < 4 then [] else
    let ty := leNat (b.take 2)
    let n := leNat ((b.drop 2).take 2)
    let whole := (4 + n + 7) / 8 * 8
    (ty, (b.drop 4).take n) :: cutSections f (b.drop whole)

/-- Sections packed into the bodies of records of at most 65,536 bytes. -/
def packSections (l : List (List Byte)) : List (Nat × List Byte) :=
  let r := l.foldl (fun (x : List (Nat × List Byte) × (Nat × List Byte)) s =>
    if 65536 - 64 < x.2.2.length + s.length ∧ 0 < x.2.1 then (x.1 ++ [x.2], (1, s))
    else (x.1, (x.2.1 + 1, x.2.2 ++ s))) ([], (0, []))
  r.1 ++ [r.2]

/-- The job seed's check word of R392. -/
def seedCheck (seed : W64) : List Byte :=
  leBytes 4 (philox seed 0 0 0 0).toNat ++ leBytes 4 (philox seed 0 0 0 1).toNat

/-- One record (R392). (log 67 DESIGN CHOICE) -/
def jRecord (step digest : Nat) (ls : Int) (vflags clean n : Nat) (seed : W64) (body : List Byte) : List Byte :=
  let b := body ++ padTo 64 body.length
  leBytes 4 step ++ leBytes 4 (64 + b.length) ++ (leBytes 8 digest).reverse ++ leBytes 1 (wrapInt 8 ls) ++ leBytes 1 vflags
    ++ leBytes 2 clean ++ leBytes 4 n ++ seedCheck seed ++ leBytes 8 (crc64 0 b) ++ leBytes 16 0
    ++ leBytes 8 (step + 2 ^ 63) ++ b

/-- Puts one record in the ring (R392): what it overwrites that is newer than the newest valid checkpoint is a gap. -/
def putRecordAt (s : State) (step : Nat) (r : List Byte) : State :=
  let base := od s 0x8031 1
  let len := od s 0x8031 2
  if len < r.length then s else
  let at_ := if len < s.team.journalAt + r.length then 0 else s.team.journalAt
  let hit (x : Nat × Nat × Nat) : Bool := spansMeet (x.1, x.2.1) (at_, r.length)
  let gone := s.team.journalRecs.filter hit
  let gap := gone.any fun x => decide (s.team.ckptLast < x.2.2)
  let s1 := physWrite s (base + at_) r
  let s2 := if gap then note s1 7 2 2 0 0 [BitVec.ofNat 64 step] else s1
  { s2 with team := { s2.team with
      journalAt := at_ + r.length, journalLast := step,
      journalGaps := s2.team.journalGaps + (if gap then 1 else 0),
      journalRecs := (s.team.journalRecs.filter fun x => !hit x) ++ [(at_, r.length, step)] } }

/-- The sections that the job has written for a step (R393). -/
def softSections (s : State) (step : Nat) : List (List Byte) :=
  let base := od s 0x8031 3 + step % 2 * 4096
  if od s 0x8031 3 = 0 then [] else
  let n := min 4088 (physNat s base 8)
  (cutSections n ((physRead s (base + 8) n).map Prod.fst)).map fun x => jSection x.1 x.2

/-- Items of a step as journaled: admissions only of entries that reached CAPACITY (R393), and the counts of R293. -/
def jItems (x : StepSt) : List JItem :=
  (x.items.filter fun i => match i with | .admission e _ _ _ => x.full.contains e | .closeCounts _ _ => false | _ => true)
    ++ [.closeCounts x.missing x.refusals]

/-- SKIP items with reason 3 (R403): one for each member that is LOST, or suspected, when the record is written; its number
stands in place of a handle. -/
def lostItems (s : State) : List JItem :=
  ((List.range (teamSize s)).filter fun m => memberLost s m || sget false s.team.suspect m).map fun m => .skip m 0 3

/-- The writing unit writes the record of a step (R392). (log 68 DEDUCED) -/
def writeJournal (s : State) (step : Nat) : State :=
  let x := stepOf s step
  if x.journaled then s else
  let v := x.verdict.getD { halve := false, incomplete := true, lsNext := s.team.lsExp, clean := s.team.clean }
  let ordered := x.items.all fun i => match i with | .regionClose _ _ _ _ _ o _ => o | _ => true
  let fl := b2n v.halve + 2 * b2n v.incomplete + 4 * b2n (replaying s) + 16 * b2n ordered
  let seed := ((s.ctxs.map fun c => c.2.seed).head?).getD 0
  let recs := packSections (softSections s step ++ jSections (jItems x ++ lostItems s))
  let s1 := recs.zipIdx.foldl (fun t r =>
    putRecordAt t step (jRecord step (digestFor s step) s.team.lsExp (fl + if r.2 = 0 then 0 else 8) v.clean r.1.1 seed r.1.2)) s
  modStep s1 step fun y => { y with journaled := true }

/-- The offsets in the ring of a step's valid records (R392). -/
def findRecords (s : State) (base len step : Nat) : List Nat :=
  ((List.range (len / 64)).map (64 * ·)).filter fun o =>
    physNat s (base + o) 4 == step && physNat s (base + o + 56) 8 == step + 2 ^ 63

/-- CONT of the record at an address. (log 73 DESIGN CHOICE) -/
def recCont (s : State) (a : Nat) : Bool := bitAt (physNat s (a + 17) 1) 3

/-- The items of the record at an address. (log 67 DESIGN CHOICE) -/
def recItems (s : State) (a : Nat) : List JItem :=
  let n := physNat s (a + 4) 4
  let body := (physRead s (a + 64) (n - 64)).map Prod.fst
  ((cutSections n body).take (physNat s (a + 20) 4)).flatMap fun x =>
    if jSize x.1 = 0 then [] else (chunk (jSize x.1) x.2.length x.2).filterMap fun b =>
      if b.length = jSize x.1 then jItem x.1 b else none

/-- In replay, a step takes its decisions and verdict from its records (R394). LS_EXP for the next step follows R309 from what
the record holds. -/
def loadReplay (s : State) (step : Nat) : State :=
  let base := od s 0x8031 1
  let offs := findRecords s base (od s 0x8031 2) step
  match offs.find? fun o => !recCont s (base + o) with
  | none => s
  | some o =>
    let a := base + o
    let rest := offs.filter fun x => recCont s (base + x)
    let items := recItems s a ++ rest.flatMap fun x => recItems s (base + x)
    let fl := physNat s (a + 17) 1
    let halve := bitAt fl 0
    let ls := signed 8 (physNat s (a + 16) 1)
    let clean := physNat s (a + 18) 2
    let next := if halve then max (ls - 1) (-24) else if clean = 0 then min (ls + 1) 32 else ls
    let v : Verdict := { halve := halve, incomplete := bitAt fl 1, lsNext := next, clean := clean }
    modStep { s with team := { s.team with lsExp := ls } } step fun x => { x with items := items, recorded := some v }

/-- A decision that is known only after the step's record is written goes into a further record with CONT set (R392).
 (log 73 DESIGN CHOICE) -/
def lateItem (s : State) (step : Nat) (i : JItem) : State :=
  let x := stepOf s step
  if !x.journaled then addItem s step i else
  let v := x.verdict.getD { halve := false, incomplete := true, lsNext := s.team.lsExp, clean := s.team.clean }
  let fl := b2n v.halve + 2 * b2n v.incomplete + 4 * b2n (replaying s) + 8
  let seed := ((s.ctxs.map fun c => c.2.seed).head?).getD 0
  putRecordAt s step (jRecord step (digestFor s step) s.team.lsExp fl v.clean 1 seed (jSection (jType i) (jBytes i)))

/-- A Remount, die retirement or port loss of the step in progress, with the unit and its generation (R393). -/
def unitEvent (s : State) (kind unit : Nat) : State :=
  match s.rly.lastStep with
  | some step => lateItem s step (.unitEvent (kind * 4096 + unit) (sget 0 s.gens.record (kind * 4096 + unit)))
  | none => s

end Sys2Proof.Machine
end

