-- ==== Sys2Proof/Machine/RelayOps.lean ====
section
/-! DEFINITION. The Relay instructions (R179, R271, R273), and what starts with a step's timer (R259, R289, R305, R413). -/

namespace Sys2Proof.Machine

/-- Relay codes (R273). -/
def rUNITFAULT : Nat := 0x01
def rOPERAND : Nat := 0x20
def rPLACEMENT : Nat := 0x21
def rCONTROL : Nat := 0x22
def rPOOL : Nat := 0x23
def rNOTEAM : Nat := 0x24
def rBUNDLE : Nat := 0x25

/-- A Relay refusal (SOURCE 3). -/
def raiseRly (s : State) (ge code : Nat) (t : Tag) (addr : Nat) : State := raise s ge 3 0 code t.pc (BitVec.ofNat 64 addr)

/-- Issues a Relay instruction; with 256 operations outstanding issue waits (R160). -/
def issueRly (s : State) (ge : Nat) (regs : List Nat) (work : State → Engine → Tag → State) : State :=
  if 256 ≤ (eng s ge).units.rly.length ∨ fenceHolds s (eng s ge).seq.context s.stamp then s else
  issue s ge regs fun s1 e t => work (setEng s1 ge e) e t

/-- A new operation with n parts, counted at the engine. -/
def newOp (s : State) (ge step n : Nat) (holds pins : Bool) : Nat × State :=
  let id := s.rly.nextId
  let o : RelOp := { id := id, ge := ge, ctx := (eng s ge).seq.context, step := step, left := n, status := 0 }
  let s1 := { s with rly := { s.rly with nextId := id + 1, ops := s.rly.ops ++ [o] } }
  (id, modEng s1 ge fun e =>
    { e with units := { e.units with rly := e.units.rly ++ [{ id := id, holds := holds, pins := pins }] } })

/-! ### Step start -/

/-- A table named by a placement base, count and tally holds (R259). -/
def placementOk (s : State) (base n tally : Nat) : Bool :=
  crc64 0 ((physRead s base (16 * n)).map Prod.fst) == tally

/-- The fields of a touch binding (R305). -/
def bindWords (s : State) (base i : Nat) : Nat × Nat := (physNat s (base + 16 * i) 8, physNat s (base + 16 * i + 8) 8)
def bindKind (w : Nat × Nat) : Nat := bits w.1 1 0
def bindFirst (w : Nat × Nat) : Nat := bits w.1 23 2
def bindCount (w : Nat × Nat) : Nat := bits w.1 46 24

/-- A set of touch bindings is refused (R305). -/
def bindingsBad (s : State) (base n : Nat) : Bool :=
  let l := (List.range n).map (bindWords s base)
  l.any (fun w => decide (bits w.1 63 47 ≠ 0 ∨ 1 < bindKind w ∨ bindCount w = 0 ∨ 4194304 < bindCount w
    ∨ (if bindKind w = 0 then bits w.2 63 44 ≠ 0 else bits w.2 63 20 ≠ 0)))
  || anyPair (fun x y => spansMeet (bindFirst x, bindCount x) (bindFirst y, bindCount y)) l
  || decide (od s 0x8010 4 < (l.map bindCount).sum)

/-- Values of step-boundary class that name tables are checked as they take effect: the placement table by its tally, and the
touch bindings (R259, R305); what fails keeps the old set and is recorded. (log 145 DEDUCED) -/
def afterBoundary (s : State) (step : Nat) (keys : List Nat) : State :=
  let s1 := if !(keys.any fun k => k / 256 == 0x6010) then s else
    if placementOk s (od s 0x6010 1) (od s 0x6010 2) (od s 0x6010 3) then
      { s with rly := { s.rly with placementBad := false, ptab := (od s 0x6010 1, od s 0x6010 2), ptabPrev := s.rly.ptab, ptabFrom := step } }
    else note { s with rly := { s.rly with placementBad := true } } 6 1 2 0 0 [BitVec.ofNat 64 (od s 0x6010 3)]
  if !(keys.any fun k => k == okey 0x8010 1 || k == okey 0x8010 2) then s1 else
    if bindingsBad s1 (od s1 0x8010 1) (od s1 0x8010 2) then note s1 7 1 2 0 0 [BitVec.ofNat 64 (od s1 0x8010 1)]
    else { s1 with rly := { s1.rly with bindings := (od s1 0x8010 1, od s1 0x8010 2) } }

/-- The step timer of a step starts (R289): what is staged for it takes effect (R413), and the unit of ed0, once in service again,
writes the touched lists again (R306). (log 71 DEDUCED) -/
def startStep (s : State) (step : Nat) : State :=
  if (stepOf s step).timer then s else
  let keys := (s.dict.staged.filter fun x => decide (x.1 ≤ step)).map fun x => x.2.1
  let s0 := if bitAt s.rly.outOfService 0 then s else { s with team := { s.team with writer := 0 } }
  let s1 := modStep s0 step fun x => { x with timer := true }
  let s2 := afterBoundary (takeStaged { s1 with rly := { s1.rly with lastStep := some step } } step) step keys
  if replaying s2 then
    loadReplay { s2 with team := { s2.team with replayStatus := if s2.team.replayStatus = 0 then 1 else s2.team.replayStatus } } step
  else { s2 with team := { s2.team with replayStatus := if s2.team.replayStatus = 1 then 0 else s2.team.replayStatus } }

/-! ### Credits for postings -/

/-- Buffers newly posted are credited (R285): up to two per open stream, then one each to streams with a DEMAND, in order. -/
def offerCredits (s : State) (cls : Nat) : State :=
  let ks := (s.rly.streams.filter fun e => e.2.st == .opened && e.2.cls == cls).map Prod.fst
  let s1 := ks.foldl giveCredit s
  s1.rly.demands.foldl (fun t k =>
    let x := strm t k
    let r := srx t k
    let used := ((t.rly.rx.map fun e => if (strm t e.1).cls = x.cls then e.2.granted else 0).sum)
    if x.cls ≠ cls ∨ freeBufs t x.peer x.cls ≤ used then t else
    let t1 := setSrx t k { r with granted := r.granted + 1, demand := r.demand - 1 }
    let t2 := { t1 with rly := { t1.rly with demands := if r.demand ≤ 1 then t1.rly.demands.erase k else t1.rly.demands } }
    if x.peer = selfNo t then modStrm t2 k fun y => { y with msgCredits := y.msgCredits + 1, demanded := false }
    else emitCtl t2 k 3 none (.credit none 1 0)) s1

/-! ### The instructions -/

/-- Fields of a stream key (R271). -/
def keyPeer (k : Nat) : Nat := bits k 13 0
def keyClass (k : Nat) : Nat := bits k 16 14
def keyTensor (k : Nat) : Nat := bits k 20 17

/-- A stream key has a bad class or a nonzero reserved bit. -/
def keyBad (k : Nat) : Bool := decide (2 ^ 21 ≤ k ∨ 5 < keyClass k)

/-- The slots of the router output in dispatch order, with the entry and first rank of each (R258, R262). (log 59 DEDUCED) -/
def dispatchRows (s : State) (tab layer : Nat) (recs : List (List Byte)) : List (Nat × Nat × RowRef) :=
  (recs.zipIdx).flatMap fun x =>
    if rrSkip x.1 then [] else
    (List.range (rrK x.1)).map fun i =>
      let e := layer + rrExpert x.1 i
      let w0 := (placeEnt s tab e).1
      (e, if bitAt w0 59 then x.2 % (entReps w0 + 1) else 0, (x.2, i))

/-- Some record breaks R260 or names an entry that is out of range or not VALID (R262). -/
def placementFault (s : State) (tab entries layer : Nat) (recs : List (List Byte)) : Bool :=
  recs.any fun r => rrBad r || (!rrSkip r && (List.range (rrK r)).any fun i =>
    let e := layer + rrExpert r i
    decide (entries ≤ e) || !bitAt (placeEnt s tab e).1 58)

/-- Places rows into bundles and sends each as it fills, and the open ones at the end (R262). -/
def placeRows (s : State) (id : Nat) (rows : List (Nat × Nat × RowRef)) : State :=
  let r := rows.foldl (fun (x : List (Nat × Nat × List RowRef) × State) w =>
    match x.1.find? fun b => b.1 == w.1 && b.2.1 == w.2.1 with
    | none => (x.1 ++ [(w.1, w.2.1, [w.2.2])], x.2)
    | some b =>
      if b.2.2.length = 63 then
        (x.1.filter fun c => !(c.1 == w.1 && c.2.1 == w.2.1), sendBundles 4 x.2 id w.1 w.2.1 (b.2.2 ++ [w.2.2]))
      else (x.1.map fun c => if c.1 = w.1 ∧ c.2.1 = w.2.1 then (c.1, c.2.1, c.2.2 ++ [w.2.2]) else c, x.2)) ([], s)
  r.1.foldl (fun t b => sendBundles 4 t id b.1 b.2.1 b.2.2) r.2

/-- The code and scale bytes of the rows to be sent, by record. -/
def readActRows (s : State) (ge ctx stamp : Nat) (d cb : List W64) : List Nat → Except (Nat × Nat) (SMap (List PByte)) × State
  | [] => (.ok [], s)
  | r :: l =>
    let c := addrAt (dBase d) ((r : Int) * dStride1 d)
    let k := addrAt (dScaleBase d) ((r : Int) * dScaleStride1 d)
    match uReadAll s ge ctx stamp (dSpace d) ((c, cbCode cb) :: if cbScale cb = 0 then [] else [(k, cbScale cb)]) with
    | (.error e, t) => (.error e, t)
    | (.ok x, t) =>
      match readActRows t ge ctx stamp d cb l with
      | (.error e, u) => (.error e, u)
      | (.ok m, u) => (.ok ((r, x.flatten) :: m), u)

/-- rly.dispatch starts: records and entries are checked, and every row goes into a bundle (R262). (log 54 DEDUCED) -/
def startDispatch (s : State) (ge : Nat) (t : Tag) (cb adesc : List W64) (rspace rbase n layer : Nat) : State :=
  let ctx := (eng s ge).seq.context
  match uReadSpace s ge ctx t.stamp rspace rbase (32 * n) with
  | (.error c, s1) => raiseSeq s1 ge c t rbase
  | (.ok d, s1) =>
    let recs := chunk 32 d.length (d.map Prod.fst)
    let tab := tableFor s1 (bits (dw cb 0) 31 0)
    if s1.rly.placementBad || placementFault s1 tab.1 tab.2 layer recs then raiseRly s1 ge rPLACEMENT t rbase else
    let live := (recs.zipIdx.filter fun x => !rrSkip x.1).map Prod.snd
    match readActRows s1 ge ctx t.stamp adesc cb live with
    | (.error c, s2) => raiseSeq s2 ge c.1 t c.2
    | (.ok rows, s2) =>
      let step := bits (dw cb 0) 31 0
      let o := newOp s2 ge step 1 true false
      let id := o.2.rly.nextId
      let c : GComb := {
        id := id, op := o.1, ge := ge, ctx := ctx, pc := t.pc, stamp := t.stamp, step := step, cb := cb, routers := recs, rspace := rspace,
        rbase := rbase, n := n, tabBase := tab.1, rowBytes := rows, status := [], refused := [],
        pendingRows := recs.zipIdx.filterMap fun x => if rrSkip x.1 then none else some (x.2, rrK x.1),
        bundles := [], complete := false }
      let s3 := { o.2 with rly := { o.2.rly with nextId := id + 1, combs := o.2.rly.combs ++ [c] } }
      let s4 := (List.range n).foldl (fun u r => putStatus u c r) s3
      let s5 := (recs.zipIdx.filter fun x => rrSkip x.1).foldl (fun u x => formRecord u id x.2 false) s4
      let s6 := placeRows s5 id (dispatchRows s5 tab.1 layer recs)
      partDone (settleComb s6 id (List.range n)) o.1

/-- The alignment that R168 asks of a tensor by its TYPE: a block of stored codes, or an element. -/
def tensorAlign (e : Engine) (d : List W64) : Nat :=
  if dType d = 3 then codeAlign (slotWidth e (dSlot d)) else if dType d = 1 then 2 else if dType d = 4 then 16 else 4

/-- A Relay operation's tensor breaks R168. (log 54 DEDUCED) -/
def tensorMisaligned (e : Engine) (d : List W64) : Bool :=
  tensorAlign e d != 0 && !(decide (dBase d % tensorAlign e d = 0) && multOf (tensorAlign e d) (dStride1 d))

/-- What rly.dispatch's activation descriptor breaks (R168, R171). -/
def actBad (e : Engine) (d : List W64) : Option (Nat × Nat) :=
  if dReserved d ∨ 1 < dSpace d then some (cDESC, 0)
  else if tensorMisaligned e d then some (cALIGN, dBase d)
  else none

/-- rly.dispatch. (log 56 DEDUCED) -/
def execRlyDispatch (ge ds dd ra rb : Nat) (imm : W32) (s : State) : Host.Outcome State Fault Refusal :=
  ok (issueRly s ge [ra, rb] fun s1 e t =>
    let n := imm.toNat
    let d := rdD e dd
    if n = 0 ∨ 65535 < n then raiseRly s1 ge rOPERAND t 0
    else if noTeam s1 then raiseRly s1 ge rNOTEAM t 0
    else if dReserved d ∨ 1 < dSpace d ∨ dReserved (rdD e ds) ∨ 1 < dSpace (rdD e ds) then raiseSeq s1 ge cDESC t 0 else
    match actBad e (rdD e ((rdS e rb).toNat % 16)) with
    | some f => raiseSeq s1 ge f.1 t f.2
    | none =>
    match uReadSpace s1 ge e.seq.context t.stamp (dSpace d) (dBase d) 64 with
    | (.error c, s2) => raiseSeq s2 ge c t (dBase d)
    | (.ok b, s2) =>
      let cb := (chunk 8 64 (b.map Prod.fst)).map fun w => BitVec.ofNat 64 (leNat w)
      if cbBad cb then raiseRly s2 ge rCONTROL t (dBase d)
      else startDispatch s2 ge t cb (rdD e ((rdS e rb).toNat % 16)) (dSpace (rdD e ds)) (dBase (rdD e ds)) n
        (bits (rdS e ra).toNat 19 0))

/-- rly.send: the tensor's bytes become one message of the stream (R271). (log 54 DEDUCED) -/
def execRlySend (ge ds ra rb : Nat) (imm : W32) (s : State) : Host.Outcome State Fault Refusal :=
  ok (issueRly s ge [ra, rb] fun s1 e t =>
    let k := (rdS e ra).toNat
    let d := rdD e ds
    let grad := keyClass k == 2
    if keyBad k || decide (if grad then 512 ≤ imm.toNat else imm.toNat ≠ 0 ∨ rdS e rb ≠ 0) then raiseRly s1 ge rOPERAND t 0
    else if noTeam s1 then raiseRly s1 ge rNOTEAM t 0
    else if teamSize s1 ≤ keyPeer k then raiseRly s1 ge rOPERAND t 0
    else if dReserved d ∨ 1 < dSpace d ∨ dExt0 d = 0 ∨ dExt1 d = 0 then raiseSeq s1 ge cDESC t 0
    else if tensorMisaligned e d then raiseSeq s1 ge cALIGN t (dBase d) else
    match uReadAll s1 ge e.seq.context t.stamp (dSpace d) (dRows d) with
    | (.error c, s2) => raiseSeq s2 ge c.1 t c.2
    | (.ok l, s2) =>
      if unreachable s2 (keyPeer k) (keyClass k) then s2 else
      let step := curStep s2
      let o := newOp s2 ge step 1 true false
      let m : TxMsg := {
        id := 0, op := some o.1, tcls := keyTensor k, step := step, data := l.flatten, bundle := none,
        body := if grad then .grad (rdS e rb).toNat (imm.toNat % 256) (bitAt imm.toNat 8) else .plain }
      queueMsg o.2 (keyPeer k) (keyClass k) m)

/-- rly.postrx: receive buffers, or a TEAM combine region, are posted for a stream (R271). (log 54 DEDUCED) -/
def execRlyPostrx (ge dd ra rb : Nat) (imm : W32) (s : State) : Host.Outcome State Fault Refusal :=
  ok (issueRly s ge [ra, rb] fun s1 e t =>
    let k := (rdS e ra).toNat
    let d := rdD e dd
    let ctx := e.seq.context
    let post (s2 : State) (spad : Bool) (bufs : List Nat) (n size region : Nat) (c : CmbEntry) : State :=
      let o := newOp s2 ge (curStep s2) n false spad
      let p : Posting := {
        id := o.2.rly.nextId, op := o.1, ge := ge, ctx := ctx, pc := t.pc, peer := keyPeer k, cls := keyClass k,
        tcls := keyTensor k, spad := spad, bufs := bufs, left := n, size := size, flag := (rdS e rb).toNat % 2 ^ 57,
        region := region, ctype := contribType c, widen := c.widen }
      offerCredits { o.2 with rly := { o.2.rly with nextId := o.2.rly.nextId + 1, posts := o.2.rly.posts ++ [p] } } p.cls
    if keyBad k || imm != 0 then raiseRly s1 ge rOPERAND t 0
    else if noTeam s1 then raiseRly s1 ge rNOTEAM t 0
    else if keyClass k = 2 then
      if dReserved d ∨ dSpace d ≠ 3 then raiseRly s1 ge rPOOL t (dBase d) else
      match cmbAt s1 ge (dBase d) with
      | (.error c, s2) => raiseSeq s2 ge c.1 t c.2
      | (.ok (_, none), s2) => raiseRly s2 ge rPOOL t (dBase d)
      | (.ok (_, some c), s2) =>
        if dBase d % elemBytes c.elem ≠ 0 then raiseSeq s2 ge cALIGN t (dBase d)
        else if c.team then post s2 false [] 1 (c.size * 64) c.base c else raiseRly s2 ge rPOOL t (dBase d)
    else if dReserved d ∨ 1 < dSpace d ∨ dExt0 d = 0 ∨ dExt1 d = 0 then raiseSeq s1 ge cDESC t 0
    else if tensorMisaligned e d then raiseSeq s1 ge cALIGN t (dBase d)
    else if keyClass k = 0 ∧ dExt0 d < 1024 + 64 * 64 then raiseRly s1 ge rPOOL t (dBase d)
    else
      let bufs := (dRows d).map Prod.fst
      if dSpace d = 0 then
        match rowsInSpad e (dRows d) with
        | some a => raiseSeq s1 ge cSPAD t a
        | none => post s1 true bufs bufs.length (dExt0 d) 0 {}
      else
        match checkRows s1 ge 1 (dRows d) with
        | (some c, s2) => raiseSeq s2 ge c.1 t c.2
        | (none, s2) => post s2 false bufs bufs.length (dExt0 d) 0 {})

/-- The header words of a bundle as received: BUNDLE_ID, STEP, ENTRY, SENDER, ROWS, HOLDER_RANK (R263). -/
def hdBundle (h : List Byte) : Nat := leNat (h.take 4)
def hdStep (h : List Byte) : Nat := leNat ((h.drop 4).take 4)
def hdEntry (h : List Byte) : Nat := leNat ((h.drop 8).take 4)
def hdSender (h : List Byte) : Nat := leNat ((h.drop 12).take 2)
def hdRows (h : List Byte) : Nat := leNat ((h.drop 14).take 1)
def hdRank (h : List Byte) : Nat := leNat ((h.drop 15).take 1)

/-- Row entry j: record and slot. -/
def hdRef (h : List Byte) (j : Nat) : RowRef :=
  let w := leNat ((h.drop (64 + 8 * j)).take 8)
  (bits w 31 0, bits w 33 32)

/-- The bytes are no header of a received bundle (R263). -/
def hdBad (h : List Byte) : Bool :=
  decide (2 ^ 20 ≤ hdEntry h ∨ 2 ^ 14 ≤ hdSender h ∨ hdRows h = 0 ∨ 64 < hdRows h ∨ 3 < hdRank h
    ∨ leNat ((h.drop 16).take 48) ≠ 0)
  || (List.range (hdRows h)).any fun j => decide (leNat ((h.drop (64 + 8 * j)).take 8) / 2 ^ 34 ≠ 0)

/-- rly.return: rows of expert output go back to the bundle's sender (R267). (log 54 DEDUCED; log 57 DEDUCED) -/
def execRlyReturn (ge ds dd ra : Nat) (imm : W32) (s : State) : Host.Outcome State Fault Refusal :=
  ok (issueRly s ge [ra] fun s1 e t =>
    let n := imm.toNat
    let d := rdD e ds
    let l := rdD e dd
    let va := (rdS e ra).toNat % 2 ^ 57
    let sp := if va < 2 ^ 22 then 0 else 1
    let ctx := e.seq.context
    if 64 < n then raiseRly s1 ge rOPERAND t 0
    else if noTeam s1 then raiseRly s1 ge rNOTEAM t 0
    else if dReserved d ∨ 1 < dSpace d ∨ dExt0 d = 0 ∨ dExt0 d % 2 ≠ 0 ∨ dReserved l ∨ dSpace l ≠ 0 then
      raiseSeq s1 ge cDESC t 0
    else if dBase l % 64 ≠ 0 then raiseSeq s1 ge cALIGN t (dBase l)
    else if tensorMisaligned e d then raiseSeq s1 ge cALIGN t (dBase d)
    else if !spadOk e (dBase l) 64 then raiseSeq s1 ge cSPAD t (dBase l) else
    match uReadSpace s1 ge ctx t.stamp sp va 576 with
    | (.error c, s2) => raiseSeq s2 ge c t va
    | (.ok hb, s2) =>
      let h := hb.map Prod.fst
      let rows := (List.range n).map fun i => spadNat (view e uRly t.stamp) (dBase l + i) 1
      if hdBad h || rows.any (fun r => decide (hdRows h ≤ r)) then raiseRly s2 ge rBUNDLE t va else
      match uReadAll s2 ge ctx t.stamp (dSpace d) (rows.map fun (r : Nat) => (addrAt (dBase d) ((r : Int) * dStride1 d), dExt0 d)) with
      | (.error c, s3) => raiseSeq s3 ge c.1 t c.2
      | (.ok out, s3) =>
        if unreachable s3 (hdSender h) 1 then s3 else
        let o := newOp s3 ge (hdStep h) 1 true false
        let head := rowHeader (hdBundle h) (hdStep h) (hdEntry h) (selfNo s3) n 0 (rows.map (hdRef h))
        let m : TxMsg := {
          id := 0, op := some o.1, tcls := 0, step := hdStep h, data := head.map (·, false) ++ out.flatten,
          body := .plain, bundle := none }
        queueMsg o.2 (hdSender h) 1 m)

/-- rly.stepflags: the selected flags of the context's chain go to the step's headers, and the step timer may start (R271,
R289, R292). -/
def execRlyStepflags (ge ra : Nat) (imm : W32) (s : State) : Host.Outcome State Fault Refusal :=
  ok (issueRly s ge [ra] fun s1 e t =>
    let i := imm.toNat
    let step := (rdS e ra).toNat % 2 ^ 32
    -- INV, OVF and POISON are bits 1, 3 and 5 of CHAIN_STATUS (R154)
    if (i ||| 0x12A) != 0x12A then raiseRly s1 ge rOPERAND t 0
    else if noTeam s1 then raiseRly s1 ge rNOTEAM t 0 else
    let s2 := startStep s1 step
    let ovf := bitAt i 3 && e.chain.ovf
    modStep s2 step fun x => { x with
      ovf := x.ovf || ovf, halve := x.halve || ovf, inv := x.inv || (bitAt i 1 && e.chain.inv),
      poison := x.poison || (bitAt i 5 && e.chain.poison),
      ended := if bitAt i 8 && !x.ended.contains e.seq.context then x.ended ++ [e.seq.context] else x.ended })

/-- Withdraws a posting (R271, R295): every buffer not complete ends CANCELLED, one partly filled with its byte count.
 (log 60 DEDUCED) -/
def cancelPost (s : State) (p : Posting) : State :=
  let ms := s.rly.rx.flatMap fun e => (e.2.msgs.filter fun m => m.posting == some p.id).map fun m => m.got
  let cut (m : RxMsg) : RxMsg := if m.posting = some p.id then { m with posting := none, drop := true } else m
  let s1 := { s with rly := { s.rly with rx := smapAll {} (fun _ r => { r with msgs := r.msgs.map cut }) s.rly.rx } }
  let counts := ms ++ (List.range (p.left - ms.length)).map fun _ => 0
  counts.foldl (fun t n => bufferDone t p.id n 1 (curStep t)) s1

/-- rly.cancelrx. (log 60 DEDUCED) -/
def execRlyCancelrx (ge ra : Nat) (imm : W32) (s : State) : Host.Outcome State Fault Refusal :=
  ok (issueRly s ge [ra] fun s1 e t =>
    let k := (rdS e ra).toNat
    if keyBad k || imm != 0 then raiseRly s1 ge rOPERAND t 0
    else if noTeam s1 then raiseRly s1 ge rNOTEAM t 0 else
    let mine : List Posting := s1.rly.posts.filter fun p =>
      p.ctx == e.seq.context && p.peer == keyPeer k && p.cls == keyClass k && p.tcls == keyTensor k
    mine.foldl cancelPost s1)

end Sys2Proof.Machine
end

