-- ==== Sys2Proof/Machine/RelayRx.lean ====
section
/-! DEFINITION. Frames of the Relay units as they are sent, received, acknowledged and retransmitted (R253, R254, R275 to
R288), and the landing of messages: bundles, returns, tensors, contributions and lent memory (R263, R264, R267, R285 to R287,
R323). -/

namespace Sys2Proof.Machine

/-! ### The sender's side -/

/-- A path of a stream. -/
def pathOf (x : Stream) (i : Nat) : Option Path := sget none x.paths i

/-- Changes a path. -/
def modPath (x : Stream) (i : Nat) (f : Path → Path) : Stream :=
  match pathOf x i with
  | some p => { x with paths := sset none x.paths i (some (f p)) }
  | none => x

/-- Packets in flight on a path. -/
def inFlightOn (x : Stream) (i : Nat) : Nat := (x.unacked.filter fun p => p.path == i && !p.resend).length

/-- One packet of a path has been acknowledged: the window grows by one packet per round trip (R283). -/
def ackPath (x : Stream) (i : Nat) : Stream :=
  modPath x i fun p => if p.cwnd ≤ p.acked + 1 then { p with cwnd := p.cwnd + 1, acked := 0 } else { p with acked := p.acked + 1 }

/-- The window halves, with a minimum of 1 (R283). (log 62 DEDUCED) -/
def halvePath (x : Stream) (i : Nat) : Stream := modPath x i fun p => { p with cwnd := max 1 (p.cwnd / 2), acked := 0 }

/-- A loss on a path: its window halves, and the third within 1 ms retires it for a new entropy value on the least loaded port
(R283). -/
def pathLoss (s : State) (k i now : Nat) : State :=
  let x := halvePath (strm s k) i
  match pathOf x i with
  | none => s
  | some p =>
    let l := now :: p.losses.filter fun t => decide (now < t + 1000000)
    if l.length < 3 then setStrm s k (modPath x i fun q => { q with losses := l }) else
    let s1 := note s 6 0x00B 1 9 p.port [BitVec.ofNat 64 k, BitVec.ofNat 64 i]
    match leastPort s1 (upPorts s1 (unitOf k)) with
    | none => setStrm s1 k { x with paths := sset none x.paths i none }
    | some q =>
      let e := freshEntropy s1
      setStrm e.2 k { x with paths := sset none x.paths i (some { port := q, entropy := e.1 }) }

/-- Messages of a stream that are whole at the peer leave it: sent, with no packet unacknowledged and, for a bundle, its
accepted count reported (R281, R282). -/
def reapMsgs (s : State) (k : Nat) (done : List (Nat × Nat)) : State :=
  let x := strm s k
  let whole (m : TxMsg) : Bool := m.started && decide (m.data.length ≤ m.sent) && !(x.unacked.any fun p => p.msgId == m.id)
  let report (m : TxMsg) : Option Nat := (done.find? fun d => d.1 == m.id).map Prod.snd
  let gone (m : TxMsg) : Bool := whole m && (m.bundle.isNone || (report m).isSome)
  let s1 := setStrm s k { x with tx := x.tx.filter fun m => !gone m }
  (x.tx.filter gone).foldl (fun t m =>
    let t1 := match m.bundle with
      | some (id, num) => bundleAnswered t id num x.peer ((report m).getD 0)
      | none => t
    match m.op with
    | some o => partDone t1 o
    | none => t1) s1

/-- An acknowledgement reaches the sender (R281 to R284). -/
def ackStream (s : State) (k cum map : Nat) (done : List (Nat × Nat)) (ce : Option Nat) : State :=
  let x := strm s k
  if x.st = .closing then retryWaiting (setSrx (setStrm s k {}) k {}) else
  let gone (p : Pkt) : Bool := decide (p.psn < cum) || (decide (cum < p.psn) && bitAt map (p.psn - cum - 1))
  let acked := x.unacked.filter gone
  let x1 := acked.foldl (fun y p => ackPath y p.path) x
  let x2 := match ce with | some i => halvePath x1 i | none => x1
  reapMsgs (setStrm s k { x2 with
    unacked := x.unacked.filter fun p => !gone p, cum := max x.cum cum,
    expiries := if acked.isEmpty then x.expiries else 0 }) k done

/-- Marks packets to be sent again. -/
def resendPkts (s : State) (k : Nat) (f : Pkt → Bool) : State :=
  modStrm s k fun x => { x with unacked := x.unacked.map fun p => if f p then { p with resend := true } else p }

/-- A NACK reaches the sender (R281, R284, R286, R288). -/
def nackStream (s : State) (k reason : Nat) (pairs : List (Nat × Nat)) (now : Nat) : State :=
  let named (p : Pkt) : Bool := pairs.any fun q => q.1 == p.path && q.2 == p.pathSeq
  match reason with
  | 0 =>
    let s1 := resendPkts s k named
    (((strm s k).unacked.filter fun p => named p && !p.resend).map fun p => p.path).foldl (fun t i => pathLoss t k i now) s1
  | 3 =>
    let x := strm s k
    let lost (m : TxMsg) : Bool := x.unacked.any fun p => named p && p.msgId == m.id
    let gone := x.tx.filter lost
    let s1 := setStrm s k { x with
      tx := x.tx.filter fun m => !lost m, unacked := x.unacked.filter fun p => !(gone.any fun m => m.id == p.msgId) }
    let s2 := if gone.isEmpty then s1 else note s1 6 2 2 14 x.peer [BitVec.ofNat 64 k]
    gone.foldl (fun t m => msgLost t x.peer m) s2
  | 4 => resendPkts s k named
  | _ => if (strm s k).st = .opened then modStrm s k fun x => { x with st := .mismatch } else s

/-! ### Answers of the receiver -/

/-- Sends an ACK of all that has arrived (R281). -/
def sendAck (s : State) (k : Nat) : State :=
  let r := srx s k
  let map := (List.range 256).foldl (fun m i => if r.have_.contains (r.cum + 1 + i) then setBit m i else m) 0
  let s1 := setSrx s k { r with sinceAck := 0, done := [] }
  if (strm s k).peer = selfNo s then ackStream s1 k r.cum map r.done none
  else emitCtl s1 k 1 none (.ack r.cum map r.done)

/-- Answers a frame with a NACK. -/
def sendNack (s : State) (k reason : Nat) (pairs : List (Nat × Nat)) : State :=
  if (strm s k).peer = selfNo s then nackStream s k reason pairs s.ost.time
  else emitCtl s k 2 none (.nack reason pairs)

/-- A frame is discarded and counted (R256, R278, R279). -/
def discardFrame (s : State) : State :=
  { s with rly := { s.rly with cnt := { s.rly.cnt with framesDiscarded := s.rly.cnt.framesDiscarded + 1 } } }

/-- A frame breaks R256, R278 or R279. (log 53 DESIGN CHOICE) -/
def frameBad (s : State) (a : Arrival) (f : RFrame) (type : Nat) : Bool :=
  let tag := od s 0x6030 3
  !a.good || !((sget {} s.rly.ports a.port).up) || (if tag = 0 then a.vid.isSome else a.vid != some (tag % 4096))
  || decide (f.resv ≠ 0 ∨ f.type ≠ type ∨ 5 < f.cls ∨ 2 ^ 14 ≤ f.dst ∨ od s 0x6030 2 < f.payload.length)
  || ((type == 0 || type == 4 || type == 8) && f.step.isNone)

/-- The tag of a message is not its unit's generation (R384). -/
def staleTag (s : State) (kind unit gen : Nat) : Bool := sget 0 s.gens.record (kind * 4096 + unit) % 16 != gen

/-- A message with a stale tag is discarded and counted (R384). -/
def countStale (s : State) : State := { s with gens := { s.gens with stale := s.gens.stale + 1 } }

/-- The checks that every frame of a type passes first. -/
def frameGate (s : State) (a : Arrival) (f : RFrame) (type : Nat) (work : State → State) : State :=
  if staleTag s 9 a.port a.gen then countStale s
  else if frameBad s a f type then discardFrame s
  else work s

/-- The team and digest of a frame's step header (R288): none accepted, or the NACK reason. -/
def digestFault (s : State) (h : StepHdr) : Option Nat :=
  if h.team ≠ od s 0x6001 1 then some 2
  else if h.digest64 = digest64 (digestCur s) ∨ (h.step < s.dict.stepFrom ∧ h.digest64 = digest64 (digestPrev s)) then none
  else some 1

/-- A frame refused by R288: NACK, MISMATCH, a record and the count. -/
def refuseDigest (s : State) (k reason : Nat) (h : StepHdr) : State :=
  let s1 := sendNack s k reason []
  let s2 := modStrm s1 k fun x => { x with st := .mismatch }
  let s3 := note s2 6 3 1 14 h.member [BitVec.ofNat 64 h.digest64, BitVec.ofNat 64 (digest64 (digestCur s)),
    BitVec.ofNat 64 h.member, BitVec.ofNat 64 h.step]
  let s4 := modStep s3 (curStep s) fun x => { x with refusals := x.refusals + 1 }
  { s4 with rly := { s4.rly with cnt := { s4.rly.cnt with digestRefusals := s4.rly.cnt.digestRefusals + 1 } } }

/-! ### Landing -/

/-- A frame's payload with its poison (R287). -/
def payloadOf (f : RFrame) : List PByte := f.payload.zipIdx.map fun x => (x.1, bitAt f.pmask (x.2 / 64))

/-- Writes bytes at offset o of a posted buffer, cut at its end (R286). (log 59 DEDUCED) -/
def bufPut (s : State) (p : Posting) (addr size o : Nat) (d : List PByte) : State :=
  let d1 := d.take (size - o)
  if d1.isEmpty then s
  else if p.spad then
    modEng s p.ge fun e => land (raceWrite e uRly s.stamp (addr + o) d1) s.stamp (spansOf uRly s.stamp false [(addr + o, d1.length)])
  else
    match vPieces s none p.ctx .write (addr + o) d1.length with
    | (.ok l, t) => writePieces t p.ctx t.stamp l d1
    | (.error c, t) => raise t p.ge 0 0 c.1 p.pc (BitVec.ofNat 64 c.2)

/-- The part of a payload at message offset o that falls in [lo, lo + n), with the offset in the segment where it starts. -/
def cutSeg (o : Nat) (d : List PByte) (lo n : Nat) : Nat × List PByte :=
  let b := max o lo
  let e := min (o + d.length) (lo + n)
  (b - lo, (d.drop (b - o)).take (e - b))

/-- Writes a payload of a bundle into its buffer: header, code plane and scale plane, accepted rows only (R263, R264). The
ROWS field of the header as stored is the number of rows accepted. (log 58 DEDUCED) -/
def putBundle (s : State) (p : Posting) (m : RxMsg) (o : Nat) (d : List PByte) (cb sb : Nat) : State :=
  let h := rowHeaderBytes m.rows
  let x := cutSeg o d 0 h
  let y := cutSeg o d h (m.accepted * cb)
  let z := cutSeg o d (h + m.rows * cb) (m.accepted * sb)
  let s1 := bufPut s p m.addr m.size x.1 x.2
  let s2 := if x.1 ≤ 14 ∧ 14 < x.1 + x.2.length then bufPut s1 p m.addr m.size 14 [(BitVec.ofNat 8 m.accepted, false)] else s1
  let s3 := bufPut s2 p m.addr m.size (1024 + y.1) y.2
  bufPut s3 p m.addr m.size (1024 + 64 * cb + z.1) z.2

/-- Rows that a holder admits of a bundle (R264), or in replay the recorded number (R266, R393: an entry that reached no
capacity has none recorded, and every row is admitted). (log 58 DEDUCED; log 68 DEDUCED) -/
def admitRows (s : State) (step entry sender bundle rows : Nat) : Nat × State :=
  let cap := bits (placeEnt s (tableFor s step).1 entry).2 31 0
  let x := stepOf s step
  let recorded := x.items.filterMap fun i => match i with
    | .admission e snd b a => if e = entry then some (snd, b, a) else none
    | _ => none
  let n := sget 0 x.counts entry
  let a :=
    if replaying s then
      (if recorded.isEmpty then rows else
        ((recorded.find? fun r => r.1 == sender && r.2.1 == bundle).map fun r => r.2.2).getD 0)
    else if cap = 0 then rows else min rows (cap - n)
  let s1 := modStep s step fun y => { y with
    counts := sset 0 y.counts entry (n + a),
    full := if cap ≠ 0 ∧ cap ≤ n + a ∧ !y.full.contains entry then y.full ++ [entry] else y.full }
  (a, if replaying s then s1 else addItem s1 step (.admission entry sender bundle a))

/-- The whole bytes of a message that the unit itself reads. (log 58 DEDUCED) -/
def assemble (parts : List (Nat × List PByte)) : Nat → Nat → List PByte
  | 0, _ => []
  | f + 1, o =>
    match parts.find? fun p => p.1 == o with
    | some p => if p.2.isEmpty then [] else p.2 ++ assemble parts f (o + p.2.length)
    | none => []

/-- A RETURN message is whole (R267, R270): its rows go to the staging slots that its entries name; a row of a record already
DONE, or of a combine that has closed, is discarded and counted. -/
def landReturn (s : State) (peer : Nat) (d : List PByte) : State :=
  let h := d.map Prod.fst
  let n := hdRows h
  let late (t : State) (j : Nat) : State :=
    { t with rly := { t.rly with cnt := { t.rly.cnt with lateReturns := t.rly.cnt.lateReturns + BitVec.ofNat 64 j } } }
  match s.rly.combs.find? fun c => c.step == hdStep h && c.bundles.any fun b => b.num == hdBundle h && b.member == peer with
  | none => late s n
  | some c =>
    let el := cbElems c.cb
    let s1 := (List.range n).foldl (fun t j =>
      let r := hdRef h j
      match combOf t c.id with
      | none => late t 1
      | some c1 =>
        if c1.n ≤ r.1 ∨ bitAt (recStatus c1 r.1) 14 then late t 1 else
        let row := (d.drop (rowHeaderBytes n + j * 2 * el)).take (2 * el)
        let t1 := (uWrite t c.ctx (cbStage c.cb + r.1 * 8 * el + r.2 * 2 * el) row).2
        orStatus t1 c.id r.1 (2 ^ (4 + r.2))) s
    settleComb s1 c.id ((List.range n).map fun j => (hdRef h j).1)

/-- A lend request of the borrower (R323): WRITE applies its payload, READ is answered with a BULK message. False: outside the
window, or refused after notice. (log 63 DEDUCED; log 72 DEDUCED) -/
def serveLend (s : State) (peer op off len : Nat) (d : List PByte) : Bool × State :=
  let base := od s 0x8040 1
  if !s.team.lending || od s 0x8040 3 != peer || decide (od s 0x8040 2 < off + len) then (false, s)
  else if op = 1 then
    if (physRange s.map (base + off) len).isSome then (true, physPut s (base + off) (d.take len)) else (false, s)
  else
    let m : TxMsg := {
      id := 0, op := none, tcls := 0, step := curStep s, data := physRead s (base + off) len, body := .plain, bundle := none }
    (true, queueMsg s peer 4 m)

/-- The first 64 bytes of a message form a lend header (R323). -/
def isLendHdr (h : List Byte) : Bool :=
  decide (leNat (h.take 4) ≤ 1 ∧ leNat ((h.drop 4).take 4) = 0 ∧ leNat ((h.drop 24).take 40) = 0 ∧ 64 ≤ h.length)

/-- A refusal by a home of a contribution that came over Relay goes back to the unit (R119). -/
def relayRefused (s : State) (r : RelayHeld) : State :=
  { s with cmb := { s.cmb with refusals := s.cmb.refusals ++ [(none, r)] } }

/-- DONE_COUNT that closes a TEAM region (R290): the quorum, at least 1. -/
def quorum (s : State) (expected : Nat) : Nat := max 1 ((expected * od s 0x6020 2 + 999) / 1000)

/-- The done mask recorded for a region's epoch, in replay (R394). -/
def replayMask (s : State) (home entry epoch : Nat) : Option Nat :=
  (stepOf s epoch).items.findSome? fun i => match i with
    | .regionClose h e ep m _ _ _ => if h = home ∧ e = entry ∧ ep = epoch then some m else none
    | _ => none

/-- A TEAM region closes at its quorum, or in replay when every recorded contributor has sent DONE (R290, R394). -/
def teamClose (s : State) (a : Nat) : State :=
  match cmbFind s a with
  | none => s
  | some (i, c) =>
    if !c.team || c.state != .opened then s
    else if replaying s then
      match replayMask s (homeOf a) i c.epoch with
      | some m => if c.done &&& m = m then cmbClose s (homeOf a) i else s
      | none => s
    else if quorum s c.expected ≤ c.doneCount then cmbClose s (homeOf a) i
    else s

/-- The GRAD posting that a packet of a stream falls in. (log 61 DEDUCED) -/
def gradPost (s : State) (peer tcls : Nat) : Option Posting :=
  s.rly.posts.find? fun p => postFits p peer 2 && p.tcls == tcls

/-- A GRAD payload at a message offset goes to the posted region (R110, R286, R291); none: outside it. A region freed since is one
that the home does not know: early (R110, R119). (log 61 DEDUCED) -/
def landGrad (s : State) (peer : Nat) (f : RFrame) (step off contrib : Nat) : Option State :=
  match gradPost s peer f.tcls with
  | none => none
  | some p =>
    let o := off + (if p.widen then 2 * f.msgOff else f.msgOff)
    let n := if p.widen then 2 * f.payload.length else f.payload.length
    if p.size < o + n then none else
    let a := p.region + o
    let d := payloadOf f
    let x := cmbContribute s a d p.ctype step contrib true
    let held : RelayHeld := {
      pa := a, contrib := contrib, epoch := step, type := p.ctype, done := false, data := d,
      late := x.1 == .late, tcls := f.tcls, member := peer }
    some (if x.1 = .accepted then x.2 else relayRefused x.2 held)

/-- A contributor's DONE follows its last data (R117, R271). -/
def landDone (s : State) (peer tcls step contrib : Nat) : State :=
  match gradPost s peer tcls with
  | none => s
  | some p =>
    let x := cmbDone s p.region step contrib
    let held : RelayHeld := {
      pa := p.region, contrib := contrib, epoch := step, type := 0, done := true, data := [],
      late := x.1 == .late, tcls := tcls, member := peer }
    if x.1 = .accepted then teamClose x.2 p.region else relayRefused x.2 held

/-- A message that lands in a buffer, or that the unit reads, is whole. -/
def msgWhole (s : State) (k : Nat) (m : RxMsg) (f : RFrame) : State :=
  let x := strm s k
  let n := m.total.getD 0
  let s1 := modSrx s k fun r => { r with
    msgs := r.msgs.filter fun y => y.id != m.id, done := r.done ++ [(m.id, m.accepted)] }
  let st := if m.poison then 3 else 0
  let s2 := match m.posting with
    | some p =>
      let b := match f.body with
        | .bundle cb sb => rowHeaderBytes m.rows + m.accepted * (cb + sb)
        | _ => n
      bufferDone s1 p (min b m.size) st m.step
    | none => s1
  if m.drop then s2
  else
    let d := assemble m.parts (m.parts.length + 1) 0
    let h := d.map Prod.fst
    if x.cls = 1 then landReturn s2 x.peer d
    else if x.cls = 5 then { s2 with team := { s2.team with controlIn := s2.team.controlIn ++ [(x.peer, m.step, d)] } }
    else if x.cls = 4 ∧ m.posting.isNone then
      let r := serveLend s2 x.peer (leNat (h.take 4)) (leNat ((h.drop 8).take 8)) (leNat ((h.drop 16).take 8)) (d.drop 64)
      if r.1 then r.2 else sendNack r.2 k 3 [(f.path, f.pathSeq)]
    else match f.body with
      | .grad _ contrib true => landDone s2 x.peer f.tcls m.step contrib
      | _ => s2

/-- The payload of one frame of a message that has begun lands. -/
def landPart (s : State) (k : Nat) (m : RxMsg) (f : RFrame) : State :=
  let d := payloadOf f
  let x := strm s k
  let m1 : RxMsg := { m with
    got := m.got + d.length, poison := m.poison || d.any Prod.snd,
    total := if f.last then some (f.msgOff + d.length) else m.total,
    parts := if m.posting.isNone && !m.drop && (x.cls == 1 || x.cls == 5 || x.cls == 4) then m.parts ++ [(f.msgOff, d)]
      else m.parts }
  let s1 := match m.posting.bind (postOf s) with
    | some p =>
      match f.body with
      | .bundle cb sb => putBundle s p m f.msgOff d cb sb
      | _ => bufPut s p m.addr m.size f.msgOff d
    | none => s
  let s2 := modSrx s1 k fun r => { r with msgs := (r.msgs.filter fun y => y.id != m.id) ++ [m1] }
  if m1.total == some m1.got then msgWhole s2 k m1 f else s2

/-- Takes the next buffer posted for a stream. -/
def takeBuf (s : State) (peer cls : Nat) : Option (Posting × Nat) × State :=
  match s.rly.posts.find? fun p => postFits p peer cls && !p.bufs.isEmpty with
  | none => (none, s)
  | some p =>
    let cut (q : Posting) : Posting := if q.id = p.id then { q with bufs := q.bufs.tail } else q
    (some (p, p.bufs.headD 0), { s with rly := { s.rly with posts := s.rly.posts.map cut } })

/-- A message begins (R264, R285): a bundle is admitted, a buffer taken; with none left its packets are discarded. -/
def beginMsg (s : State) (k : Nat) (f : RFrame) (step : Nat) : RxMsg × State :=
  let x := strm s k
  let s := modSrx s k fun r => { r with granted := r.granted - 1 }
  let m : RxMsg := { id := f.msgId, posting := none, step := step }
  if x.cls = 1 ∨ x.cls = 2 ∨ x.cls = 5 then (m, s)
  else if lendPeer s x.peer x.cls && isLendHdr f.payload then (m, s)
  else
    let a := match f.body with
      | .bundle _ _ =>
        admitRows s (hdStep f.payload) (hdEntry f.payload) x.peer (hdBundle f.payload) (hdRows f.payload)
      | _ => (0, s)
    let m1 := { m with rows := hdRows f.payload, accepted := a.1 }
    let isB := match f.body with | .bundle _ _ => true | _ => false
    if isB && a.1 == 0 then ({ m1 with drop := true }, a.2)
    else
      match takeBuf a.2 x.peer x.cls with
      | (none, t) => ({ m1 with drop := true }, t)
      | (some (p, b), t) =>
        ({ m1 with posting := some p.id, addr := b, size := p.size, rows := if isB then m1.rows else 0,
                   accepted := if isB then a.1 else 0 }, t)

/-- A frame in the window lands (R282). A message of a kind whose first packet says where it goes keeps earlier arrivals until
that packet comes. -/
def landFrame (s : State) (k : Nat) (f : RFrame) (step : Nat) : State :=
  let x := strm s k
  let needFirst := x.cls == 0 || (x.cls == 4 && s.team.lending)
  match (srx s k).msgs.find? fun m => m.id == f.msgId with
  | some m =>
    if m.rows = 0 ∧ !m.early.isEmpty ∧ !f.first ∧ needFirst then
      modSrx s k fun r => { r with msgs := r.msgs.map fun y => if y.id = f.msgId then { y with early := y.early ++ [f] } else y }
    else if f.first ∧ !m.early.isEmpty then
      let b := beginMsg (modSrx s k fun r => { r with msgs := r.msgs.filter fun y => y.id != f.msgId }) k f step
      let s1 := landPart b.2 k b.1 f
      m.early.foldl (fun t g =>
        match (srx t k).msgs.find? fun y => y.id == f.msgId with
        | some y => landPart t k y g
        | none => t) s1
    else landPart s k m f
  | none =>
    if needFirst && !f.first then
      let m : RxMsg := { id := f.msgId, posting := none, step := step, early := [f] }
      modSrx s k fun r => { r with msgs := r.msgs ++ [m] }
    else
      let b := beginMsg s k f step
      landPart b.2 k b.1 f

/-- HALVE of a header is latched for its step, a different LS_EXP recorded, and the step's timer started (R289, R292). -/
def seeHeader (s : State) (h : StepHdr) : State :=
  let s1 := startStep s h.step
  let s2 := if h.halve then modStep s1 h.step fun x => { x with halve := true } else s1
  if h.lsExp ≠ s2.team.lsExp ∧ s2.rly.lastStep = some h.step then
    note s2 6 4 1 14 h.member [BitVec.ofInt 64 h.lsExp, BitVec.ofInt 64 s2.team.lsExp] else s2

/-- The receiving side of a stream has taken a PSN: CUM advances past every PSN held (R281, R282). -/
def tookPsn (r : StreamRx) (psn : Nat) : StreamRx :=
  let l := psn :: r.have_
  let c := (List.range 257).foldl (fun c _ => if l.contains c then c + 1 else c) r.cum
  { r with cum := c, have_ := l.filter fun p => decide (c ≤ p), sinceAck := r.sinceAck + 1 }

/-- Records a PSN that has arrived. -/
def recordPsn (s : State) (k psn : Nat) : State := modSrx s k fun r => tookPsn r psn

/-- Credit that has become free goes out, and an acknowledgement after every 16 packets (R282, R285). -/
def ackDue (s : State) (k : Nat) : State :=
  let t := giveCredit s k
  if 16 ≤ (srx t k).sinceAck ∨ (strm t k).peer = selfNo t then sendAck t k else t

/-- A DATA frame of an open stream (R282, R284, R285, R288). -/
def recvData (s : State) (k : Nat) (f : RFrame) (h : StepHdr) : State :=
  match digestFault s h with
  | some reason => refuseDigest s k reason h
  | none =>
    let x := strm s k
    let r := srx s k
    let e := sget 0 r.pathSeq f.path
    let s0 := if f.pathSeq ≤ e then s else
      sendNack s k 0 ((List.range (min 16 (f.pathSeq - e))).map fun i => (f.path, e + i))
    let s1 := modSrx s0 k fun y => { y with pathSeq := sset 0 y.pathSeq f.path (max e (f.pathSeq + 1)), tstamp := f.tstamp }
    if f.psn < r.cum ∨ r.have_.contains f.psn then sendAck s1 k
    else
      let fresh := !(r.msgs.any fun m => m.id == f.msgId)
      let beyond := decide (r.cum + 256 ≤ f.psn) || (if msgClass x.cls then fresh && r.granted == 0 && !f.retx
        else decide (r.limit ≤ f.psn))
      if beyond then sendNack s1 k 4 [(f.path, f.pathSeq)] else
      let s2 := seeHeader s1 h
      let landed : Option State := match f.body with
        | .grad off contrib _ => (landGrad s2 x.peer f h.step off contrib).map fun t => landFrame t k f h.step
        | _ => some (landFrame s2 k f h.step)
      match landed with
      | none =>
        sendNack (note s2 6 2 2 14 x.peer [BitVec.ofNat 64 k]) k 3 [(f.path, f.pathSeq)]
      | some t => ackDue (recordPsn t k f.psn) k

/-- The stream that a frame names at the receiver: open to it, and from the entry that the peer uses. -/
def frameStream (s : State) (a : Arrival) (f : RFrame) : Bool :=
  unitOf f.dst == a.port / 9 && (strm s f.dst).st != .closed && (strm s f.dst).peerEntry == f.src

/-- FRAME_DATA. -/
def execFrameData (a : Arrival) (f : RFrame) (s : State) : Host.Outcome State Fault Refusal :=
  ok (frameGate s a f 0 fun s =>
    match f.step with
    | none => discardFrame s
    | some h =>
      if !frameStream s a f ∨ (strm s f.dst).cls ≠ f.cls ∨ ((strm s f.dst).st ≠ .opened ∧ (strm s f.dst).st ≠ .mismatch) then
        discardFrame s
      else recvData s f.dst f h)

/-- FRAME_ACK. -/
def execFrameAck (a : Arrival) (f : RFrame) (s : State) : Host.Outcome State Fault Refusal :=
  ok (frameGate s a f 1 fun s =>
    if !frameStream s a f then discardFrame s else
    match f.body with
    | .ack cum map done => ackStream s f.dst cum map done (if a.ce then some f.path else none)
    | _ => discardFrame s)

/-- FRAME_NACK. -/
def execFrameNack (a : Arrival) (f : RFrame) (now : Nat) (s : State) : Host.Outcome State Fault Refusal :=
  ok (frameGate s a f 2 fun s =>
    if !frameStream s a f then discardFrame s else
    match f.body with
    | .nack r pairs => if r ≤ 4 ∧ pairs.length ≤ 16 then nackStream s f.dst r pairs now else discardFrame s
    | _ => discardFrame s)

/-- FRAME_CREDIT: a packet limit, message credits, or a DEMAND (R281, R285). -/
def execFrameCredit (a : Arrival) (f : RFrame) (s : State) : Host.Outcome State Fault Refusal :=
  ok (frameGate s a f 3 fun s =>
    if !frameStream s a f then discardFrame s else
    match f.body with
    | .credit limit msgs demand =>
      let s1 := modStrm s f.dst fun x => { x with
        limit := max x.limit (limit.getD 0), msgCredits := x.msgCredits + msgs,
        demanded := if msgs = 0 then x.demanded else false }
      if demand = 0 then s1 else
      let s2 := modSrx s1 f.dst fun r => { r with demand := demand }
      let s3 := if s2.rly.demands.contains f.dst then s2
        else { s2 with rly := { s2.rly with demands := s2.rly.demands ++ [f.dst] } }
      offerCredits s3 (strm s3 f.dst).cls
    | _ => discardFrame s)

/-- FRAME_OPEN: answered with OPEN_ACK, with OPEN_NACK BUSY when the table is full, or refused for its digest (R275, R277,
R288). -/
def execFrameOpen (a : Arrival) (f : RFrame) (s : State) : Host.Outcome State Fault Refusal :=
  ok (frameGate s a f 4 fun s =>
    match f.step, f.body with
    | some h, .opening cls credits =>
      let u := a.port / 9
      let there := findStream s h.member cls
      match (match there with | some k => some k | none => freeEntry s u) with
      | none =>
        let busy : RFrame := { type := 6, cls := cls, dst := f.src, src := 0 }
        let s1 := emitOn s a.port 0 h.member busy
        { s1 with rly := { s1.rly with cnt := { s1.rly.cnt with tableWaits := s1.rly.cnt.tableWaits + 1 } } }
      | some k =>
        let s1 := if there.isSome then modStrm s k fun x => { x with peerEntry := f.src } else
          fillPaths (setSrx (setStrm s k { st := .opening, peer := h.member, cls := cls, peerEntry := f.src,
                                           lastUse := s.stamp }) k {}) k
        match digestFault s h with
        | some r => refuseDigest s1 k r h
        | none =>
          let cr := openCredits (modStrm s1 k fun x => { x with
            st := .opened, limit := if msgClass cls then 0 else credits, msgCredits := if msgClass cls then credits else 0 }) k
          emitCtl cr.2 k 5 none (.opening cls cr.1)
    | _, _ => discardFrame s)

/-- FRAME_OPEN_ACK: the stream is OPEN (R275). -/
def execFrameOpenAck (a : Arrival) (f : RFrame) (s : State) : Host.Outcome State Fault Refusal :=
  ok (frameGate s a f 5 fun s =>
    match f.body with
    | .opening cls credits =>
      if (strm s f.dst).st ≠ .opening ∨ unitOf f.dst ≠ a.port / 9 then discardFrame s else
      modStrm s f.dst fun x => { x with
        st := .opened, peerEntry := f.src, retries := 0, limit := if msgClass cls then 0 else credits,
        msgCredits := if msgClass cls then credits else 0 }
    | _ => discardFrame s)

/-- FRAME_OPEN_NACK: BUSY leaves the stream OPENING, to be tried again by its timer (R275). -/
def execFrameOpenNack (a : Arrival) (f : RFrame) (s : State) : Host.Outcome State Fault Refusal :=
  ok (frameGate s a f 6 fun s =>
    if (strm s f.dst).st ≠ .opening ∨ unitOf f.dst ≠ a.port / 9 then discardFrame s
    else modStrm s f.dst fun x => { x with backoff := if x.backoff = 0 then 10 else min 1000 (2 * x.backoff) })

/-- FRAME_CLOSE: an idle stream is released, and the CLOSE acknowledged (R275). -/
def execFrameClose (a : Arrival) (f : RFrame) (s : State) : Host.Outcome State Fault Refusal :=
  ok (frameGate s a f 7 fun s =>
    if !frameStream s a f then discardFrame s
    else if !streamIdle s f.dst && (strm s f.dst).st == .opened then s
    else retryWaiting (let s1 := sendAck s f.dst; setSrx (setStrm s1 f.dst {}) f.dst {}))

/-- FRAME_PROBE (R288). -/
def execFrameProbe (a : Arrival) (f : RFrame) (s : State) : Host.Outcome State Fault Refusal :=
  ok (frameGate s a f 8 fun s =>
    match f.step with
    | none => discardFrame s
    | some h =>
      if !frameStream s a f then discardFrame s else
      match digestFault s h with
      | some r => refuseDigest s f.dst r h
      | none =>
        let s1 := modStrm s f.dst fun x => { x with st := if x.st = .mismatch then .opened else x.st }
        emitCtl s1 f.dst 9 none .plain)

/-- FRAME_PROBE_ACK: a MISMATCH stream is OPEN again (R288). -/
def execFrameProbeAck (a : Arrival) (f : RFrame) (s : State) : Host.Outcome State Fault Refusal :=
  ok (frameGate s a f 9 fun s =>
    if !frameStream s a f then discardFrame s
    else modStrm s f.dst fun x => { x with st := if x.st = .mismatch then .opened else x.st })

/-! ### Sending and timers -/

/-- The path of a stream with the most free window, the lowest number on a tie; other than the one given where another has
room (R283, R284). (log 62 DEDUCED) -/
def bestPath (x : Stream) (avoid : Option Nat) : Option Nat :=
  let free (i : Nat) : Nat := match pathOf x i with | some p => p.cwnd - inFlightOn x i | none => 0
  let best (l : List Nat) : Option Nat :=
    (l.foldl (fun (b : Option Nat) i => match b with
      | none => if 0 < free i then some i else none
      | some j => if free j < free i then some i else some j) none)
  match best ((List.range 16).filter fun i => some i != avoid) with
  | some i => some i
  | none => best (List.range 16)

/-- A stream whose peer is marked LOST fails at once (R276, R295); with any other the work goes on. -/
def lostFirst (s : State) (k : Nat) (work : State) : State :=
  let x := strm s k
  if x.st ≠ .closed ∧ x.st ≠ .failed ∧ x.peer ≠ selfNo s ∧ memberLost s x.peer = true then failStream s k else work

/-- The next packet to send: one to be sent again, or the next of the oldest message not fully sent: its message, offset,
length and PSN. -/
def nextPkt (s : State) (x : Stream) : Option (TxMsg × Nat × Nat × Nat × Option Pkt) :=
  match x.unacked.find? fun p => p.resend with
  | some p => (x.tx.find? fun m => m.id == p.msgId).map fun m => (m, p.off, p.len, p.psn, some p)
  | none =>
    match x.tx.find? fun m => !m.started || decide (m.sent < m.data.length) with
    | none => none
    | some m => some (m, m.sent, min (od s 0x6030 2) (m.data.length - m.sent), x.nextPsn, none)

/-- The poison mask of a payload (R287). -/
def poisonMask (d : List PByte) : Nat :=
  (d.zipIdx.filter fun x => x.1.2).foldl (fun m x => setBit m (x.2 / 64)) 0

/-- A Relay unit sends a DATA packet of a stream, credit and window allowing; a stream whose next message lacks a message
credit sends a DEMAND once (R282, R283, R285). -/
def execPacketTransmit (stream : Nat) (s : State) : Host.Outcome State Fault Refusal :=
  ok (
    let x := strm s stream
    lostFirst s stream (if x.st ≠ .opened then s else
    match nextPkt s x with
    | none => s
    | some (m, off, len, psn, old) =>
      let starts := old.isNone && !m.started
      if old.isNone && (decide (256 ≤ x.unacked.length) || (!msgClass x.cls && decide (x.limit ≤ psn))) then s
      else if starts && msgClass x.cls && x.msgCredits == 0 then
        if x.demanded then s else
        let n := (x.tx.filter fun y => !y.started).length
        emitCtl (modStrm s stream fun y => { y with demanded := true }) stream 3 none (.credit none 0 n)
      else
        let self := x.peer == selfNo s
        match (if self then some 0 else bestPath x (old.map fun p => p.path)) with
        | none => s
        | some i =>
          let pt := (pathOf x i).getD { port := 9 * unitOf stream, entropy := 0 }
          let d := (m.data.drop off).take len
          let f : RFrame := {
            type := 0, cls := x.cls, retx := old.isSome, first := off == 0, last := decide (m.data.length ≤ off + len),
            dst := x.peerEntry, src := stream, path := i, tcls := m.tcls, psn := psn, pathSeq := pt.nextSeq, msgId := m.id,
            msgOff := off, tstamp := s.ost.time % 2 ^ 32, step := some (stepHdr s m.step), pmask := poisonMask d,
            payload := d.map Prod.fst, body := m.body }
          let pk : Pkt := {
            psn := psn, path := i, pathSeq := pt.nextSeq, msgId := m.id, off := off, len := len, resend := false,
            rto := match old with | some p => p.rto | none => od s 0x6036 1 }
          let x1 := modPath x i fun p => { p with nextSeq := p.nextSeq + 1 }
          let x2 : Stream := { x1 with
            unacked := (x1.unacked.filter fun p => p.psn != psn) ++ [pk],
            nextPsn := if old.isNone then x.nextPsn + 1 else x.nextPsn,
            msgCredits := if starts && msgClass x.cls then x.msgCredits - 1 else x.msgCredits,
            retransmits := if old.isSome then x.retransmits + 1 else x.retransmits,
            lastUse := s.stamp,
            tx := x1.tx.map fun y => if y.id = m.id && old.isNone then { y with started := true, sent := off + len } else y }
          let s1 := setStrm { s with stamp := s.stamp + 1 } stream x2
          let s2 := if old.isSome then
            { s1 with rly := { s1.rly with cnt := { s1.rly.cnt with retransmits := s1.rly.cnt.retransmits + 1 } } } else s1
          if self then recvData s2 stream f (stepHdr s m.step)
          else emitOn s2 pt.port pt.entropy x.peer f))

/-- The backoff timer of an OPENING stream expires: OPEN goes again, and after eight retries the stream fails (R275). -/
def execOpenRetryTimer (stream : Nat) (s : State) : Host.Outcome State Fault Refusal :=
  ok (
    let x := strm s stream
    lostFirst s stream (if x.st ≠ .opening then s
      else if 8 ≤ x.retries then failStream s stream
      else sendOpen (modStrm s stream fun y => { y with retries := y.retries + 1 }) stream))

/-- A packet's retransmission timer expires (R284): it goes again on another path with its timer doubled up to 6.4 ms; the
eighth expiry in a row fails the stream. -/
def execRetransmitTimeout (stream psn now : Nat) (s : State) : Host.Outcome State Fault Refusal :=
  ok (
    let x := strm s stream
    lostFirst s stream (match x.unacked.find? fun p => p.psn == psn with
    | none => s
    | some p =>
      if 7 ≤ x.expiries then failStream s stream else
      let s1 := modStrm s stream fun y => { y with
        expiries := y.expiries + 1,
        unacked := y.unacked.map fun q => if q.psn = psn then { q with resend := true, rto := min 6400000 (2 * q.rto) } else q }
      pathLoss s1 stream p.path now))

/-- A stream with no path to its peer for 10 ms fails (R276). -/
def execNoPathTimeout (stream : Nat) (s : State) : Host.Outcome State Fault Refusal :=
  ok (
    let x := strm s stream
    if x.st = .closed ∨ x.st = .failed ∨ x.peer = selfNo s ∨ !(upPorts s (unitOf stream)).isEmpty then s
    else failStream s stream)

/-- Packets have arrived for 2 µs without an acknowledgement (R282); credit that has become free goes out too (R285). -/
def execAckTimer (stream : Nat) (s : State) : Host.Outcome State Fault Refusal :=
  ok (lostFirst s stream (giveCredit (if (srx s stream).sinceAck = 0 then s else sendAck s stream) stream))

/-- Every 1 ms a stream in MISMATCH sends a PROBE (R288). -/
def execProbeTimer (stream : Nat) (s : State) : Host.Outcome State Fault Refusal :=
  ok (lostFirst s stream
    (if (strm s stream).st = .mismatch then emitCtl s stream 8 (some (stepHdr s (curStep s))) .plain else s))

/-! ### Ports -/

/-- Changes a port. -/
def modPort (s : State) (p : Nat) (f : Port → Port) : State :=
  { s with rly := { s.rly with ports := smod {} s.rly.ports p f } }

/-- A port completes link training in the mode selected for it and comes up (R253), in NATIVE mode with its peer's MAC learned
(R256); OFF comes up never. Streams of its unit get paths on it where they lack some. -/
def execPortLinkUp (p : PortPeer) (s : State) : Host.Outcome State Fault Refusal :=
  ok (
    let port := p.port
    let mac := p.mac
    let mode := od s 0x6031 (port + 1)
    let x := sget {} s.rly.ports port
    if x.up ∨ mode = 0 ∨ !powered s ∨ sget false s.contain.retired (9 * 4096 + port) = true then s else
    let s1 := modPort s port fun p => { p with
      up := true, mode := mode, sparing := false, peerMac := if mode = 2 then BitVec.ofNat 64 mac else p.peerMac }
    ((s1.rly.streams.filter fun e => unitOf e.1 == port / 9 && e.2.st != .failed && e.2.peer != selfNo s1).map Prod.fst).foldl
      fillPaths s1)

/-- A port goes down: its paths are retired at once, and what was in flight on them is sent again (R254, R283). -/
def portDown (s : State) (port : Nat) : State :=
  let s1 := modPort s port fun p => { p with up := false, sparing := false }
  let on (x : Stream) (i : Nat) : Bool := match pathOf x i with | some p => p.port == port | none => false
  { s1 with rly := { s1.rly with streams := smapAll {} (fun _ x => { x with
    unacked := x.unacked.map fun p => if on x p.path then { p with resend := true } else p,
    paths := x.paths.filter fun q => !on x q.1 }) s1.rly.streams } }

/-- The physical lane that carries a PCS lane. -/
def laneOf (m : W32) (n : Nat) : Nat := bits m.toNat (4 * n + 3) (4 * n)

/-- The physical lane, of L0 to L8, that no PCS lane uses. -/
def spareLane (m : W32) : Nat := ((List.range 9).find? fun l => (List.range 8).all fun n => laneOf m n != l).getD 8

/-- A lane is declared failed (R254): a NATIVE port whose spare is free and sound stops sending and spares the lane; otherwise
the port goes down and its generation rises (R382). A lane not in use only leaves the port without a spare. -/
def execLaneFailure (port lane : Nat) (s : State) : Host.Outcome State Fault Refusal :=
  ok (
    let x := sget {} s.rly.ports port
    if !x.up ∨ 8 < lane ∨ bitAt x.failed lane then s else
    let s1 := modPort s port fun p => { p with failed := setBit p.failed lane }
    let used := (List.range 8).any fun n => laneOf x.laneMap n == lane
    if !used then s1
    else if x.mode = 2 ∧ !x.sparing ∧ !bitAt x.failed (spareLane x.laneMap) ∧ spareLane x.laneMap = 8 then
      note (modPort s1 port fun p => { p with sparing := true }) 6 5 2 9 port [BitVec.ofNat 64 lane]
    else
      let s2 := portDown s1 port
      note (unitEvent (raiseGen s2 9 port) 9 port) 6 6 4 9 port [BitVec.ofNat 64 lane])

/-- Both ends install the new map (R254): the failed lane's PCS lane moves to the spare, and traffic resumes. -/
def execLaneSpareComplete (port : Nat) (s : State) : Host.Outcome State Fault Refusal :=
  ok (
    let x := sget {} s.rly.ports port
    if !x.sparing then s else
    let m := (List.range 8).foldl (fun w n =>
      w + (if bitAt x.failed (laneOf x.laneMap n) then 8 else laneOf x.laneMap n) * 16 ^ n) 0
    let s1 := modPort s port fun p => { p with sparing := false, spareUsed := true, laneMap := BitVec.ofNat 32 m }
    note (repairDue s1 2) 6 7 1 9 port [BitVec.ofNat 64 m])

end Sys2Proof.Machine
end

