-- ==== Sys2Proof/Machine/RelaySteps.lean ====
section
/-! DEFINITION. Contributions that homes refuse, the closing of a step, the loss-scale verdict, the touched list, and the
combine units' commands as they meet the Relay units (R116 to R127, R288 to R294, R305 to R310). -/

namespace Sys2Proof.Machine

/-! ### Combine commands (R111 to R127) -/

/-- An engine that runs a context. -/
def engineOfCtx (s : State) (ctx : Nat) : Option Nat :=
  (s.engines.find? fun e => e.2.taken && e.2.seq.context == ctx).map Prod.fst

/-- A refused combine message on its way back. -/
def refusedMsg (s : State) (src : Option Nat) (r : RelayHeld) : State :=
  { s with cmb := { s.cmb with refusals := s.cmb.refusals ++ [(src, r)] } }

/-- A new epoch is open: GRAD streams of postings in it may be credited again (R285). -/
def regionOpened (s : State) : State :=
  ((s.rly.streams.filter fun e => e.2.cls == 2 && e.2.st == .opened).map Prod.fst).foldl giveCredit s

/-- COMBINE_OPEN: a home takes an open operation with the eight descriptor words, addresses physical (R109, R116). -/
def execCombineOpen (home : Nat) (words : List W64) (owner : Nat) (s : State) : Host.Outcome State Fault Refusal :=
  ok (
    let v := cmbOfWords words owner
    let changing := (cmbAreas v).any fun r => attrChanging s.map s.attrCmd r
    let held : RelayHeld := {
      pa := v.base, contrib := 0, epoch := v.epoch, type := 0, done := false, data := [], late := false }
    let refuse (t : State) : State := match engineOfCtx t owner with
      | some ge => refusedMsg t (some ge) held
      | none => t
    if cmbReserved words || changing || words.length != 8 then refuse s else
    match cmbOpen s home v with
    | (.accepted, t) => regionOpened t
    | (_, t) => refuse t)

/-- COMBINE_CONTRIBUTION: accepted, or refused back to its sender (R111, R119). -/
def execCombineContribution (pa type epoch contrib : Nat) (d : MaskedData) (src : Option Nat) (s : State) :
    Host.Outcome State Fault Refusal :=
  ok (
    let a := (canon s.map pa).getD pa
    let x := cmbMasked s a d.mask d.data type epoch contrib src.isNone
    let held : RelayHeld := {
      pa := a, contrib := contrib, epoch := epoch, type := type, done := false, data := d.data, mask := d.mask, late := x.1 == .late }
    if x.1 = .accepted then x.2 else refusedMsg x.2 src held)

/-- COMBINE_DONE: the done mask takes the contributor; the epoch closes at EXPECTED or, for a TEAM region, at quorum (R117,
R118, R290). -/
def execCombineDone (pa epoch contrib : Nat) (src : Option Nat) (s : State) : Host.Outcome State Fault Refusal :=
  ok (
    let a := (canon s.map pa).getD pa
    let x := cmbDone s a epoch contrib
    let held : RelayHeld := {
      pa := a, contrib := contrib, epoch := epoch, type := 0, done := true, data := [], late := x.1 == .late }
    if x.1 = .accepted then teamClose x.2 a else refusedMsg x.2 src held)

/-- COMBINE_CLOSE: the owner's close request, or the Relay unit's (R118). -/
def execCombineClose (pa : Nat) (owner : Option Nat) (s : State) : Host.Outcome State Fault Refusal :=
  ok (
    let a := (canon s.map pa).getD pa
    let held : RelayHeld := {
      pa := a, contrib := 0, epoch := 0, type := 0, done := false, data := [], late := false }
    match cmbCloseReq s a owner with
    | (.accepted, t) => t
    | (_, t) => match owner.bind (engineOfCtx t) with
      | some ge => refusedMsg t (some ge) held
      | none => t)

/-- A region is CLOSED: a GRAD posting of it is filled (R271). (log 61 DEDUCED) -/
def regionClosed (s : State) (base : Nat) : State :=
  (s.rly.posts.filter fun p => p.cls == 2 && p.region == base).foldl (fun t p => bufferDone t p.id 0 0 (curStep t)) s

/-- COMBINE_APPLY_COMPLETE: the region of an address becomes CLOSED (R118, R123). -/
def execCombineApplyComplete (pa : Nat) (s : State) : Host.Outcome State Fault Refusal :=
  ok (
    let a := (canon s.map pa).getD pa
    match cmbFind s a with
    | none => s
    | some (i, c) => if c.state = .applying then regionClosed (cmbApplied s (homeOf a) i) c.base else s)

/-- Bytes held in the late buffer (R291). (log 64 DEDUCED) -/
def lateBytes (s : State) : Nat := ((s.cmb.relayHeld.filter fun r => r.late).map fun r => r.data.length).sum

/-- The decision recorded for a late contribution, in replay (R394). -/
def replayLate (s : State) (r : RelayHeld) : Option Nat :=
  if !replaying s then none else
  (stepOf s r.epoch).items.findSome? fun i => match i with
    | .late m c b d => if m = r.member ∧ c = r.tcls ∧ b = r.data.length then some d else none
    | _ => none

/-- The unit handles a contribution refused as late (R291): submitted to the next epoch, held for it, or dropped.
 (log 64 DEDUCED) -/
def lateContribution (s : State) (r : RelayHeld) : State :=
  let reg := cmbFind s r.pa
  let ordered := match reg with | some (_, c) => c.ordered | none => false
  let now := match reg with | some (_, c) => if c.state = .opened then some c.epoch else none | none => none
  let drop := match replayLate s r with
    | some d => d != 0
    | none => ordered || od s 0x6022 (r.tcls + 1) == 1
  if r.done then s
  else if drop then noteLate s r 1
  else if 2 ^ 28 < lateBytes s + r.data.length then noteLate s r 3
  else if now = some (r.epoch + 1) then (cmbMasked (noteLate s r 0) r.pa r.mask r.data r.type (r.epoch + 1) r.contrib true).2
  else if (now.getD 0) > r.epoch + 1 then noteLate s r 2
  else
    let s1 := noteLate s r 0
    { s1 with cmb := { s1.cmb with relayHeld := s1.cmb.relayHeld ++ [{ r with late := true }] } }

/-- COMBINE_REFUSAL: the oldest refusal reaches its sender: COMBINE in the engine's context, or the Relay unit's rules (R119,
R291). (log 64 DEDUCED) -/
def execCombineRefusal (s : State) : Host.Outcome State Fault Refusal :=
  ok (
    match s.cmb.refusals with
    | [] => s
    | (src, r) :: rest =>
      let s1 := { s with cmb := { s.cmb with refusals := rest } }
      match src with
      | some ge => raiseSeq s1 ge cCOMBINE { pc := (eng s1 ge).seq.pc, stamp := 0 } r.pa
      | none =>
        if r.late then lateContribution s1 r
        else { s1 with cmb := { s1.cmb with relayHeld := s1.cmb.relayHeld ++ [r] } })

/-- COMBINE_UNIT_FAULT (R127); a second fault before the Groom clears the first escalates to the die (R378). -/
def execCombineUnitFault (home : Nat) (s : State) : Host.Outcome State Fault Refusal :=
  ok (
    let second := sget false s.cmb.hwPending home
    let s1 := cmbUnitFault s home
    let s2 := { s1 with cmb := { s1.cmb with hwPending := sset false s1.cmb.hwPending home true } }
    note s2 4 1 (if second then 5 else 4) 10 home [])

/-- EARLY_RETRY: the oldest contribution held as early is submitted again; still early, it is dropped and recorded (R291).
 (log 64 DEDUCED) -/
def execEarlyRetry (s : State) : Host.Outcome State Fault Refusal :=
  ok (
    match s.cmb.relayHeld.find? fun r => !r.late with
    | none => s
    | some r =>
      let s1 := { s with cmb := { s.cmb with relayHeld := s.cmb.relayHeld.erase r } }
      let x := if r.done then cmbDone s1 r.pa r.epoch r.contrib
        else cmbMasked s1 r.pa r.mask r.data r.type r.epoch r.contrib true
      if x.1 = .accepted then (if r.done then teamClose x.2 r.pa else x.2)
      else if x.1 = .late then lateContribution x.2 { r with late := true }
      else note (noteLate x.2 r 5) 6 8 1 14 r.member [BitVec.ofNat 64 r.pa])

/-! ### The step's end (R289, R290, R293) -/

/-- TEAM regions of a step: home, entry and descriptor. -/
def teamRegions (s : State) (step : Nat) : List (Nat × Nat × CmbEntry) :=
  (s.cmb.tab.filter fun e => e.2.team && e.2.epoch == step && e.2.state != .idle).map
    fun e => (e.1 / 1024, e.1 % 1024, e.2)

/-- Operations that wait on a stream in MISMATCH end with DIGEST at the deadline (R288). (log 65 DEDUCED) -/
def endMismatch (s : State) (step : Nat) : State :=
  (s.rly.streams.filter fun e => e.2.st == .mismatch).foldl (fun t e =>
    let x := strm t e.1
    let gone := x.tx.filter fun m => decide (m.step ≤ step)
    let t1 := setStrm t e.1 { x with
      tx := x.tx.filter fun m => !decide (m.step ≤ step),
      unacked := x.unacked.filter fun p => !(gone.any fun m => m.id == p.msgId) }
    gone.foldl (fun u m => msgLost u x.peer m) t1) s

/-- Operations that wait for a stream entry end with TABLE_FULL (R277). (log 65 DEDUCED) -/
def endWaiting (s : State) (step : Nat) : State :=
  let gone := s.rly.waiting.filter fun w => decide (w.2.2.step ≤ step)
  gone.foldl (fun t w => msgLost t w.1 w.2.2)
    { s with rly := { s.rly with waiting := s.rly.waiting.filter fun w => !decide (w.2.2.step ≤ step) } }

/-- STEP_DEADLINE: TEAM regions of the step close forced, and its combines complete with what has arrived (R290). In replay the
deadline closes nothing (R394). (log 65 DEDUCED) -/
def execStepDeadline (step : Nat) (s : State) : Host.Outcome State Fault Refusal :=
  ok (
    let x := stepOf s step
    if !x.timer || x.expired then s else
    let s0 := modStep s step fun y => { y with expired := true }
    if replaying s then s0 else
    let s1 := (teamRegions s0 step).foldl (fun t r => cmbClose t r.1 r.2.1) s0
    let waiting (c : GComb) : Bool := c.bundles.any fun b =>
      match findStream s b.member 0 with | some k => (strm s k).st == .mismatch && (strm s k).tx.any fun m => m.bundle == some (c.id, b.num) | none => false
    let digest := (s1.rly.combs.filter fun c => c.step == step && waiting c).map fun c => c.id
    let full := (s1.rly.combs.filter fun c => c.step == step &&
      s1.rly.waiting.any fun w => match w.2.2.bundle with | some b => b.1 == c.id | none => false).map fun c => c.id
    let s2 := endWaiting (endMismatch s1 step) step
    (s2.rly.combs.filter fun c => c.step == step).foldl (fun t c =>
      let t1 := (List.range c.n).foldl (fun u r =>
        match combOf u c.id with
        | some d =>
          let st := recStatus d r
          if bitAt st 14 then u else formRecord u c.id r (bits st 3 0 != bits st 7 4)
        | none => u) t
      endComb t1 c.id (if digest.contains c.id then 4 else if full.contains c.id then 6 else 0)) s2)

/-- Granules of a region that the closed epoch touched (R111, R122). -/
def granTouched (s : State) (c : CmbEntry) (g : Nat) : Bool :=
  if c.ordered then (memRun s.mem (c.countBase + 32 * g) 32).any (fun b => b.1 != 0)
  else (memRun s.mem (c.countBase + 2 * g) 2).any (fun b => b.1 != 0)

/-- The blocks that a binding shows as touched in a step (R305). -/
def bindTouched (s : State) (step : Nat) (w : Nat × Nat) : List Nat :=
  if bindKind w = 1 then
    (if 0 < sget 0 (stepOf s step).counts (bits w.2 19 0) then (List.range (bindCount w)).map (bindFirst w + ·) else [])
  else
    match (teamRegions s step).find? fun r => r.2.2.base == bits w.2 43 0 with
    | none => []
    | some (_, _, c) =>
      ((List.range (bindCount w)).filter fun k =>
        (List.range 256).any fun g => decide (256 * k + g < c.size) && granTouched s c (256 * k + g)).map (bindFirst w + ·)

/-- Handles in ascending order without repetition. -/
def sortHandles (l : List Nat) : List Nat := (l.foldl (fun (m : SMap Bool) h => sset false m h true) []).map Prod.fst

/-- The touched blocks of a step, by the bindings in effect (R305, R306). (log 70 DEDUCED) -/
def touchedBlocks (s : State) (step : Nat) : List Nat :=
  sortHandles ((List.range s.rly.bindings.2).flatMap fun i => bindTouched s step (bindWords s s.rly.bindings.1 i))

/-! ### The verdict tree (R308, R309) -/

/-- The root: the lowest-numbered member that is not LOST. -/
def rootMember (s : State) : Nat := ((List.range (teamSize s)).find? fun m => !memberLost s m).getD 0

/-- The member that a member reports to: its nearest ancestor that is not LOST, or the root (fuel: the tree's depth). -/
def parentOf (s : State) : Nat → Nat → Nat
  | 0, _ => rootMember s
  | f + 1, m =>
    if m = 0 then rootMember s else
    let p := (m - 1) / 16
    if memberLost s p then parentOf s f p else p

/-- The members that report to this one. -/
def childrenOf (s : State) : List Nat :=
  (List.range (teamSize s)).filter fun m =>
    m != selfNo s && m != rootMember s && memberValid s m && !memberLost s m && parentOf s 5 m == selfNo s

/-- Every child that is not LOST has reported a step. -/
def allReported (s : State) (step : Nat) : Bool :=
  (childrenOf s).all fun m => (stepOf s step).reports.any fun r => r.1 == m

/-- The touched list of a step is written into its buffer: entries, then word 1, then word 0 (R306). (log 70 DEDUCED) -/
def putTouched (s : State) (step : Nat) (v : Verdict) : State :=
  let x := stepOf s step
  let cap := od s 0x8010 4
  let base := od s 0x8010 3 + step % 2 * (64 + 4 * cap)
  if od s 0x8010 3 = 0 ∨ x.listed then s else
  let l := x.touched.take cap
  let w0 := step % 2 ^ 32 + 2 ^ 32 * b2n v.halve + 2 ^ 33 * b2n v.incomplete + 2 ^ 40 * wrapInt 8 v.lsNext
    + 2 ^ 48 * (v.clean % 65536)
  let s1 := physWrite s (base + 64) (l.flatMap (leBytes 4))
  let s2 := physWrite s1 (base + 8) (leBytes 8 l.length)
  modStep (physWrite (settleWrites s2 noCtx) base (leBytes 8 w0)) step fun y => { y with listed := true }

/-- The list of a step goes out unless a checkpoint copy or a repair withholds it (R387, R400). (log 70 DEDUCED) -/
def releaseList (s : State) (step : Nat) : State :=
  match (stepOf s step).verdict with
  | some v => if s.team.gate.isEmpty then putTouched s step v else s
  | none => s

/-- Every list that was withheld goes out when nothing withholds it any more. -/
def releaseLists (s : State) : State := (s.rly.steps.map Prod.fst).foldl releaseList s

/-- A member adopts the verdict of a step and forwards it (R308 to R310). After the commit deadline it sets only LS_EXP and
the clean count (R318). -/
def adoptVerdict (s : State) (step : Nat) (v : Verdict) : State :=
  let x := stepOf s step
  if x.verdict.isSome then s else
  let fwd := (childrenOf s).map fun m => (m, step, v)
  let dropped := if v.halve then s.cmb.relayHeld.filter fun r => r.late && r.epoch == step else []
  let s1 := dropped.foldl (fun t r => noteLate t r 4)
    { s with cmb := { s.cmb with relayHeld := s.cmb.relayHeld.filter fun r => !dropped.contains r } }
  let s2 := modStep s1 step fun y => { y with verdict := some v }
  let s3 := writeJournal s2 step
  let s4 := { s3 with team := { s3.team with
    lsExp := v.lsNext, clean := v.clean, verdictsOut := s3.team.verdictsOut ++ fwd,
    halvings := if v.halve then s3.team.halvings + 1 else s3.team.halvings } }
  if x.skipped then s4 else releaseList s4 step

/-- The verdict that the root forms from the reports (R309). -/
def formVerdict (s : State) (halve incomplete : Bool) : Verdict :=
  let ls := s.team.lsExp
  if halve || incomplete then { halve := true, incomplete := incomplete, lsNext := max (ls - 1) (-24), clean := 0 }
  else if od s 0x8020 3 ≤ s.team.clean + 1 then { halve := false, incomplete := false, lsNext := min (ls + 1) 32, clean := 0 }
  else { halve := false, incomplete := false, lsNext := ls, clean := s.team.clean + 1 }

/-- A member sends its report, or as the root forms the verdict (R308). missing: some child has not reported.
 (log 69 DEDUCED) -/
def sendReport (s : State) (step : Nat) (missing : Bool) : State :=
  let x := stepOf s step
  if x.reported then s else
  let halve := x.halve || x.reports.any fun r => r.2.1
  let inc := missing || x.reports.any fun r => r.2.2
  let s1 := modStep s step fun y => { y with reported := true }
  if selfNo s = rootMember s then adoptVerdict s1 step (formVerdict s1 halve inc)
  else { s1 with team := { s1.team with reportsOut := s1.team.reportsOut ++ [(parentOf s 5 (selfNo s), step, halve, inc)] } }

/-- STEP_CLOSE_RECORD: with every TEAM region and combine of the step closed, its decisions and touched blocks are kept, and
the member reports once its children have (R293, R308); in replay it takes the recorded verdict (R394). -/
def execStepCloseRecord (step : Nat) (s : State) : Host.Outcome State Fault Refusal :=
  ok (
    let x := stepOf s step
    let open_ := (teamRegions s step).any fun r => cmbBusy r.2.2
    if !x.timer || x.closed || open_ || s.rly.combs.any (fun c => c.step == step) then s else
    let items := (teamRegions s step).map fun r =>
      JItem.regionClose r.1 r.2.1 r.2.2.epoch r.2.2.done r.2.2.forced r.2.2.ordered r.2.2.lateCount
    let t := touchedBlocks s step
    let s1 := modStep s step fun y => { y with
      closed := true, touched := t, items := if replaying s then y.items else y.items ++ items }
    match (stepOf s1 step).recorded with
    | some v => if replaying s1 then adoptVerdict s1 step v else if allReported s1 step then sendReport s1 step false else s1
    | none => if allReported s1 step then sendReport s1 step false else s1)

/-- VERDICT_REPORT: a child's report arrives; the last one lets a closed member send its own (R308). (log 69 DEDUCED) -/
def execVerdictReport (member step : Nat) (halve incomplete : Bool) (s : State) : Host.Outcome State Fault Refusal :=
  ok (
    if !(childrenOf s).contains member ∨ (stepOf s step).reports.any (fun r => r.1 == member) then s else
    let s1 := modStep s step fun x => { x with reports := x.reports ++ [(member, halve, incomplete)] }
    if (stepOf s1 step).closed && allReported s1 step then sendReport s1 step false else s1)

/-- VERDICT_WAIT_EXPIRY: a closed member whose children have not all reported goes on without them (R308). -/
def execVerdictWaitExpiry (step : Nat) (s : State) : Host.Outcome State Fault Refusal :=
  ok (if (stepOf s step).closed && !(stepOf s step).reported then sendReport s step true else s)

/-- VERDICT_RECEIVE. (log 69 DEDUCED) -/
def execVerdictReceive (step : Nat) (halve incomplete : Bool) (lsNext : Int) (clean : Nat) (s : State) :
    Host.Outcome State Fault Refusal :=
  ok (adoptVerdict s step { halve := halve, incomplete := incomplete, lsNext := lsNext, clean := clean })

/-! ### Lent memory (R323) -/

/-- A lend request outside the window, or refused, ends at the borrower with PEER_LOST. (log 72 DEDUCED) -/
def refuseLend (s : State) (member : Nat) : State :=
  match findStream s member 4 with
  | some k => sendNack s k 3 []
  | none => s

/-- LEND_WRITE_REQUEST. (log 72 DEDUCED) -/
def execLendWriteRequest (member off : Nat) (data : List (Byte × Bool)) (s : State) : Host.Outcome State Fault Refusal :=
  let r := serveLend s member 1 off data.length data
  ok (if r.1 then r.2 else refuseLend r.2 member)

/-- LEND_READ_REQUEST. (log 72 DEDUCED) -/
def execLendReadRequest (member off len : Nat) (s : State) : Host.Outcome State Fault Refusal :=
  let r := serveLend s member 0 off len []
  ok (if r.1 then r.2 else refuseLend r.2 member)

/-- lend_notice steps have passed since notice was given: lend requests are refused. -/
def execLendNoticeExpiry (s : State) : Host.Outcome State Fault Refusal :=
  ok (
    match s.team.notice with
    | some n => if curStep s < n then s else { s with team := { s.team with notice := none, lending := false } }
    | none => s)

/-- The effect of writing lend_enable: memory is granted, or notice given. -/
def setLend (s : State) (v : Nat) : State :=
  let s1 := putNow s (okey 0x8040 4) (leBytes 1 v)
  if v = 1 then { s1 with team := { s1.team with lending := true, notice := none } }
  else if s.team.lending && s.team.notice.isNone then
    { s1 with team := { s1.team with notice := some (curStep s + od s 0x8040 5) } }
  else s1

/-! ### Unit faults, selections (R294, R497) -/

/-- A stream of a faulted unit is reset, and reopened where it has unacknowledged traffic (R294): messages go again from their
first unacknowledged byte, contributions as poison. (log 66 DEDUCED) -/
def resetStream (s : State) (k : Nat) : State :=
  let x := strm s k
  if x.st = .closed ∨ x.st = .failed then s else
  let back (m : TxMsg) : TxMsg :=
    let o := (x.unacked.filter fun p => p.msgId == m.id).foldl (fun a p => min a p.off) m.sent
    let data := match m.body with
      | .grad _ _ _ => m.data.take o ++ (m.data.drop o).map fun b => (b.1, true)
      | _ => m.data
    match m.body with
    | .grad _ _ _ => { m with sent := o, data := data }
    | _ => { m with sent := 0, started := false }
  if x.tx.isEmpty then setSrx (setStrm s k {}) k {}
  else
    let s1 := setSrx (setStrm s k { st := .opening, peer := x.peer, cls := x.cls, tx := x.tx.map back, nextMsg := x.nextMsg,
                                    lastUse := x.lastUse }) k {}
    let s2 := fillPaths s1 k
    if x.peer = selfNo s then giveCredit (modStrm s2 k fun y => { y with st := .opened, peerEntry := k, limit := 256 }) k
    else sendOpen s2 k

/-- A message that was being received into a buffer cannot come again whole: the buffer completes with STATUS 2, and a context
that waits on Relay operations takes UNIT_FAULT (R294). (log 66 DEDUCED) -/
def abandonRx (s : State) (k : Nat) : State :=
  (srx s k).msgs.foldl (fun t m =>
    match m.posting.bind (postOf t) with
    | none => t
    | some p =>
      let t1 := bufferDone t p.id m.got 2 m.step
      match (eng t1 p.ge).seq.wait with
      | .cond c _ _ _ _ _ => if c = 4 ∨ c = 6 then raise t1 p.ge 3 0 rUNITFAULT (eng t1 p.ge).seq.pc 0 else t1
      | _ => t1) s

/-- A fault of a Relay unit (R294, R306): contained at the unit, or at the die when the first fault is not cleared.
 (log 66 DEDUCED) -/
def relayUnitFault (s : State) (unit : Nat) : State :=
    let second := bitAt s.rly.faulted unit
    let ks := (s.rly.streams.filter fun e => unitOf e.1 == unit).map Prod.fst
    let s1 := ks.foldl (fun t k => resetStream (abandonRx t k) k) s
    let s2 := { s1 with
      rly := { s1.rly with faulted := setBit s1.rly.faulted unit, outOfService := setBit s1.rly.outOfService unit },
      team := { s1.team with writer := if unit = 0 then 1 else s1.team.writer } }
    note s2 6 9 (if second then 5 else 4) 6 unit []

/-- RELAY_UNIT_FAULT. -/
def execRelayUnitFault (unit : Nat) (s : State) : Host.Outcome State Fault Refusal := ok (relayUnitFault s unit)

/-- The abort code of a command that writes an object of its own. -/
def abortWith (s : State) (code : Nat) : State := { s with dict := { s.dict with abort := code } }

/-- Abort codes (R417). -/
def aNONE : Nat := 0
def aNOOBJECT : Nat := 0x00010001
def aNOSUB : Nat := 0x00010002
def aREADONLY : Nat := 0x00020001
def aWRITEONLY : Nat := 0x00020002
def aRUNNING : Nat := 0x00020003
def aTYPELEN : Nat := 0x00030001
def aRANGE : Nat := 0x00030002
def aSTATE : Nat := 0x00030003
def aSTAGESTEP : Nat := 0x00030004
def aSTAGEFULL : Nat := 0x00030005
def aAUTH : Nat := 0x00040001
def aBUSY : Nat := 0x00050001
def aPERSIST : Nat := 0x00050002
def aBADFRAME : Nat := 0x00060001
def aSEQUENCE : Nat := 0x00060002

/-- A reader's own selection of an object (R457, R497). (log 96 DEDUCED) -/
def selOf (s : State) (reader ix sub : Nat) : Option (List Byte) := sget none s.dict.sel (reader * 2 ^ 24 + okey ix sub)

/-- Sets a reader's selection. (log 96 DEDUCED) -/
def setSel (s : State) (reader ix sub : Nat) (v : List Byte) : State :=
  { s with dict := { s.dict with sel := sset none s.dict.sel (reader * 2 ^ 24 + okey ix sub) (some v) } }

/-- A write of stream_query (R497): the abort code, or the state with the selection. -/
def writeStreamQuery (s : State) (reader : Nat) (d : List Byte) : Except Nat State :=
  if d.length ≠ 64 then .error aTYPELEN
  else if 2 ^ 14 ≤ leNat d then .error aRANGE
  else .ok (setSel s reader 0x6040 1 d)

/-- STREAM_QUERY_SELECT. -/
def execStreamQuerySelect (reader : Nat) (data : List Byte) (s : State) : Host.Outcome State Fault Refusal :=
  ok (match writeStreamQuery s reader data with
    | .ok t => abortWith t aNONE
    | .error c => abortWith s c)

/-- The 64 bytes that a read of stream_query returns (R497). -/
def readStreamQuery (s : State) (n : Nat) : List Byte :=
  let x := strm s n
  if x.st = .closed then leBytes 64 n else
  let st := match x.st with
    | .closed => 0 | .opening => 1 | .opened => 2 | .closing => 3 | .mismatch => 4 | .failed => 5
  leBytes 2 n ++ leBytes 1 st ++ leBytes 1 x.cls ++ leBytes 2 x.peer ++ leBytes 1 x.paths.length ++ leBytes 1 0
    ++ leBytes 4 x.cum ++ leBytes 4 x.limit ++ leBytes 2 x.msgCredits ++ leBytes 2 x.unacked.length ++ leBytes 4 0
    ++ leBytes 8 x.retransmits.toNat ++ leBytes 32 0

/-- A write of stream_close (R296): a FAILED stream is released, an idle one closes. (log 119 DEDUCED) -/
def writeStreamClose (s : State) (n : Nat) : Except Nat State :=
  if 2 ^ 14 ≤ n then .error aRANGE
  else if (strm s n).st = .failed then .ok (retryWaiting (setSrx (setStrm s n {}) n {}))
  else if streamIdle s n then
    if (strm s n).peer = selfNo s then .ok (retryWaiting (setSrx (setStrm s n {}) n {}))
    else .ok (modStrm (emitCtl s n 7 none .plain) n fun x => { x with st := .closing })
  else .error aSTATE

/-- STREAM_CLOSE. -/
def execStreamClose (stream : Nat) (s : State) : Host.Outcome State Fault Refusal :=
  ok (match writeStreamClose s stream with
    | .ok t => abortWith t aNONE
    | .error c => abortWith s c)

/-- LEND_ENABLE_WRITE. -/
def execLendEnableWrite (v : Nat) (s : State) : Host.Outcome State Fault Refusal :=
  ok (if 1 < v then abortWith s aRANGE else abortWith (setLend s v) aNONE)

end Sys2Proof.Machine
end

