-- ==== Sys2Proof/Machine/Replicas.lean ====
section
/-! DEFINITION. Parameter blocks as the Relay unit and the replica checks read and write them, the commit deadline, replay's
stall, replica groups and their repair, and members suspected or lost (R297 to R318, R394 to R404). -/

namespace Sys2Proof.Machine

/-! ### Blocks (R297 to R304) -/

/-- The context through which the unit reaches the job's blocks: the first that ended the step's layers, else the first of
the package. -/
def jobCtx (s : State) (step : Nat) : Nat :=
  match (stepOf s step).ended with
  | c :: _ => c
  | [] => ((s.ctxs.map Prod.fst).head?).getD 0

/-- A block table entry's words (R304). -/
def blkEntry (s : State) (h : Nat) : Nat × Nat :=
  (physNat s (od s 0x8011 1 + 16 * h) 8, physNat s (od s 0x8011 1 + 16 * h + 8) 8)

/-- The virtual address of a block that lies in HBM or LPDDR5X. -/
def blkAddr (s : State) (h : Nat) : Option Nat :=
  let w := (blkEntry s h).1
  if od s 0x8011 2 ≤ h ∨ !bitAt w 59 ∨ 2 ≤ bits w 58 57 then none else some (bits w 56 0)

/-- Fields of the commit word (R299). -/
def cwSlot (w : Nat) : Nat := bits w 0 0
def cwInit (w : Nat) : Bool := bitAt w 1
def cwTier (w : Nat) : Nat := bits w 3 2
def cwKind (w : Nat) : Nat := bits w 4 4
def cwSkip (w : Nat) : Nat := bits w 19 8
def cwLate (w : Nat) : Nat := bits w 31 20
def cwEpoch (w : Nat) : Nat := bits w 63 32

/-- A commit word from its fields. -/
def commitWord (slot : Nat) (init : Bool) (tier kind skip late epoch : Nat) : Nat :=
  slot + 2 * b2n init + 4 * tier + 16 * kind + 2 ^ 8 * skip + 2 ^ 20 * late + 2 ^ 32 * (epoch % 2 ^ 32)

/-- Bytes of a slot body (R297). -/
def bodyLen (kind : Nat) : Nat := if kind = 0 then 12928 else 16640

/-- The address of a slot's body. -/
def bodyAt (base kind slot : Nat) : Nat := base + 64 + slot * bodyLen kind

/-- A number of n bytes in a context's memory. -/
def uNat (s : State) (ctx va n : Nat) : Option Nat := ((uRead s ctx va n).1).map fun d => leNat (d.map Prod.fst)

/-- A block's state that replicas compare (R397): TALLY, N_UPD and EPOCH of the current slot, or none while the block is absent. -/
def blkTriple (s : State) (ctx h : Nat) : Option (Nat × Nat × Nat) := do
  let a ← blkAddr s h
  let w ← uNat s ctx a 8
  let n ← uNat s ctx (a + 0x10 + 0x10 * cwSlot w) 4
  let t ← uNat s ctx (a + 0x18 + 0x10 * cwSlot w) 8
  if cwInit w then some (t, n, cwEpoch w) else none

/-- The body of the current slot matches its stored tally (R302). -/
def blkBodyOk (s : State) (ctx h : Nat) : Bool :=
  match blkAddr s h with
  | none => true
  | some a =>
    match uNat s ctx a 8 with
    | none => true
    | some w =>
      match (uRead s ctx (bodyAt a (cwKind w) (cwSlot w)) (bodyLen (cwKind w))).1, uNat s ctx (a + 0x18 + 0x10 * cwSlot w) 8 with
      | some d, some t => !cwInit w || crc64 0 (d.map Prod.fst) == t
      | _, _ => true

/-- A skip record (R315): EPOCH s and SKIP_COUNT raised by 1, saturating; SLOT unchanged. A block that has settled the step, or
is absent, is left alone. (log 74 DEDUCED) -/
def skipBlock (s : State) (ctx step h : Nat) : State :=
  match blkAddr s h with
  | none => s
  | some a =>
    match uNat s ctx a 8 with
    | none => s
    | some w =>
      if !cwInit w ∨ step ≤ cwEpoch w then s else
      let v := commitWord (cwSlot w) true (cwTier w) (cwKind w) (satInc 4095 (cwSkip w)) (cwLate w) step
      (uWrite s ctx a ((leBytes 8 v).map (·, false))).2

/-- Handles in runs: first and count. -/
def handleRuns (l : List Nat) : List (Nat × Nat) :=
  l.foldr (fun h r => match r with
    | (f, n) :: t => if h + 1 = f then (h, n + 1) :: t else (h, 1) :: r
    | [] => [(h, 1)]) []

/-- Records blocks as skipped for a step, with a reason (R393). (log 74 DEDUCED) -/
def skipBlocks (s : State) (step reason : Nat) (l : List Nat) : State :=
  let s1 := l.foldl (fun t h => skipBlock t (jobCtx s step) step h) s
  (handleRuns l).foldl (fun t r => lateItem t step (.skip r.1 r.2 reason)) s1

/-- The handles that a step's record names as skipped (R394); those of reason 3 name members. -/
def recordedSkips (s : State) (step : Nat) : List Nat :=
  (stepOf s step).items.flatMap fun i => match i with
    | .skip f n r => if r = 3 then [] else (List.range n).map (f + ·)
    | _ => []

/-- COMMIT_DEADLINE of a step: without a verdict its touched blocks are recorded as skipped (R309); with one, a repair that is
not installed lets the touched list go, and its block is recorded as skipped (R400). In replay exactly the handles of the step's
record are settled as skipped (R394). (log 68 DEDUCED) -/
def execCommitDeadline (step : Nat) (s : State) : Host.Outcome State Fault Refusal :=
  ok (
    let x := stepOf s step
    if !x.closed || x.skipped then s
    else if replaying s then
      (recordedSkips s step).foldl (fun t h => skipBlock t (jobCtx s step) step h) (modStep s step fun y => { y with skipped := true })
    else if x.verdict.isNone then
      let s1 := skipBlocks (modStep s step fun y => { y with skipped := true }) step 1 x.touched
      note (writeJournal s1 step) 7 3 3 14 (selfNo s) [BitVec.ofNat 64 step]
    else if x.listed then s
    else
      let held := (s.team.gate.filter fun g => g != 0).map fun g => g - 1
      let s1 := skipBlocks s step 1 held
      releaseLists { s1 with team := { s1.team with gate := s1.team.gate.filter fun g => g == 0 } })

/-! ### Replay (R394, R396) -/

/-- REPLAY_STALL_TIMEOUT: a contributor of a recorded done mask has not reached DONE in time (R394). -/
def execReplayStallTimeout (step : Nat) (s : State) : Host.Outcome State Fault Refusal :=
  ok (
    let x := stepOf s step
    let open_ := (teamRegions s step).any fun r => cmbBusy r.2.2
    if !replaying s || !x.timer || !open_ then s
    else { s with team := { s.team with replayStatus := 3 } })

/-! ### Replica groups (R397 to R400) -/

/-- A replica group: first handle, blocks, holders and GROUP_ID. -/
structure RepGroup where
  first : Nat
  count : Nat
  holders : List Nat
  id : Nat
  deriving DecidableEq, Repr

/-- Entry i of the replica table. -/
def repGroup (s : State) (i : Nat) : RepGroup :=
  let a := od s 0x8032 1 + 32 * i
  let w0 := physNat s a 8
  let w1 := physNat s (a + 8) 8
  { first := bits w0 21 0, count := bits w0 38 22,
    holders := (List.range (bits w1 57 56 + 2)).map fun j => bits w1 (14 * j + 13) (14 * j),
    id := physNat s (a + 16) 4 }

/-- The group of a GROUP_ID. -/
def repFind (s : State) (id : Nat) : Option RepGroup :=
  ((List.range (od s 0x8032 2)).map (repGroup s)).find? fun g => g.id == id

/-- Every block of a group has settled a step at this member. -/
def groupSettled (s : State) (ctx step : Nat) (g : RepGroup) : Bool :=
  (List.range g.count).all fun j => match blkTriple s ctx (g.first + j) with
    | some (_, _, e) => decide (step ≤ e)
    | none => true

/-- The group tally of this member's copies (R397). (log 75 DEDUCED) -/
def groupTally (s : State) (ctx : Nat) (g : RepGroup) : W64 :=
  BitVec.ofNat 64 (crc64 0 ((List.range g.count).flatMap fun j =>
    match blkTriple s ctx (g.first + j) with
    | some (t, n, e) => leBytes 8 t ++ leBytes 4 n ++ leBytes 4 e
    | none => leBytes 16 0))

/-- The tallies of a group are compared once every holder that is not LOST has reported (R397). -/
def compareGroup (s : State) (step : Nat) (g : RepGroup) : State :=
  let live := g.holders.filter fun m => !memberLost s m
  let reps := s.team.groupReps.filter fun r => r.1 == step && r.2.1 == g.id
  if !live.all (fun m => reps.any fun r => r.2.2.1 == m) then s else
  let s1 := { s with team := { s.team with groupReps := s.team.groupReps.filter fun r => !(r.1 == step && r.2.1 == g.id) } }
  let ts := (reps.filter fun r => live.contains r.2.2.1).map fun r => r.2.2.2
  if ts.all (fun t => ts.head? == some t) then s1
  else
    { s1 with team := { s1.team with unequal := s1.team.unequal ++ [(step, g.id)], mismatches := s1.team.mismatches + 1 } }

/-- In replay, a group's own tally that differs from the recorded one shows that the replay diverged (R396). -/
def replayCompare (s : State) (step id : Nat) (t : W64) : State :=
  let differs := (stepOf s step).items.any fun i => match i with
    | .groupTally j u => j == id && u != t
    | _ => false
  if !replaying s || !differs || s.team.replayStatus == 2 then s
  else note { s with team := { s.team with replayStatus := 2 } } 7 4 3 14 (selfNo s) [BitVec.ofNat 64 step, BitVec.ofNat 64 id]

/-- GROUP_TALLY_REPORT: a holder's tally of a group for a step; this member's own is computed from its blocks, once they have
settled the step, sent to the other holders, and journaled. (log 75 DEDUCED) -/
def execGroupTallyReport (member step group : Nat) (tally : W64) (s : State) : Host.Outcome State Fault Refusal :=
  ok (
    match repFind s group with
    | none => s
    | some g =>
      let ctx := jobCtx s step
      if !g.holders.contains member || s.team.groupReps.any (fun r => r.1 == step && r.2.1 == group && r.2.2.1 == member) then s
      else if member = selfNo s then
        if !groupSettled s ctx step g then s else
        let t := groupTally s ctx g
        let dest := g.holders.filter fun m => m != selfNo s
        let s1 := { s with team := { s.team with
          groupReps := s.team.groupReps ++ [(step, group, member, t)],
          talliesOut := s.team.talliesOut ++ dest.map fun m => (m, step, group, t) } }
        compareGroup (lateItem (replayCompare s1 step group t) step (.groupTally group t)) step g
      else
        compareGroup { s with team := { s.team with groupReps := s.team.groupReps ++ [(step, group, member, tally)] } } step g)

/-- One copy of a block in the exchange of R399: holder, TALLY, N_UPD, EPOCH, and whether its body matches its tally. -/
abbrev Copy := Nat × W64 × Nat × Nat × Bool

/-- Two copies agree. -/
def sameCopy (x y : Copy) : Bool := x.2.1 == y.2.1 && x.2.2.1 == y.2.2.1 && x.2.2.2.1 == y.2.2.2.1

/-- How a block is settled (R399): the winning holders and the rule (0 majority, 1 body tally), or none, and then every copy
comes from the newest valid checkpoint (2). A copy whose body does not match its own tally (R398) never wins.
 (log 75 DEDUCED) -/
def settleCopies (l : List Copy) : Option (List Nat × Nat) :=
  let agree (c : Copy) : List Copy := l.filter (sameCopy c)
  let whole (c : List Copy) : List Copy := c.filter fun d => d.2.2.2.2
  match (if 3 ≤ l.length then l.find? fun c => decide (l.length < 2 * (agree c).length) && !(whole (agree c)).isEmpty else none) with
  | some c => some ((whole (agree c)).map Prod.fst, 0)
  | none =>
    match whole l with
    | [] => none
    | c :: r =>
      if r.length + 2 = l.length ∧ r.all (sameCopy c) = true then some ((c :: r).map Prod.fst, 1) else none

/-- A block's repair is pending: the next touched list is withheld (R400). -/
def needRepair (s : State) (h : Nat) (src : Option Nat) (rule : Nat) : State :=
  { s with team := { s.team with
      repairs := s.team.repairs ++ [(h, src, rule)],
      gate := if s.team.gate.contains (h + 1) then s.team.gate else s.team.gate ++ [h + 1] } }

/-- The message by which this member sends its copy (R400): 64 bytes with the commit word, INFO and TALLY words, then the body.
 (log 73 DESIGN CHOICE) -/
def repairMessage (s : State) (ctx h : Nat) : Option (List PByte) := do
  let a ← blkAddr s h
  let w ← uNat s ctx a 8
  let info ← (uRead s ctx (a + 0x10 + 0x10 * cwSlot w) 16).1
  let d ← (uRead s ctx (bodyAt a (cwKind w) (cwSlot w)) (bodyLen (cwKind w))).1
  some ((leBytes 8 w).map (·, false) ++ info ++ (leBytes 40 0).map (·, false) ++ d)

/-- Sends this member's copy of a block to another holder over BULK. (log 75 DEDUCED) -/
def sendRepair (s : State) (ctx step h member : Nat) : State :=
  match repairMessage s ctx h with
  | none => s
  | some d => queueMsg s member 4 { id := 0, op := none, tcls := 0, step := step, data := d, body := .plain, bundle := none }

/-- REPLICA_TRIPLE_EXCHANGE: one block of an unequal group is settled from the triples of the other holders and this member's
own (R399). -/
def execReplicaTripleExchange (group handle step : Nat) (triples : List (Nat × W64 × Nat × Nat × Bool)) (s : State) :
    Host.Outcome State Fault Refusal :=
  ok (
    match repFind s group with
    | none => s
    | some g =>
      let ctx := jobCtx s step
      if !(s.team.unequal.contains (step, group)) || handle < g.first || g.first + g.count ≤ handle then s else
      match blkTriple s ctx handle with
      | none => s
      | some (t, n, e) =>
        let own : Copy := (selfNo s, BitVec.ofNat 64 t, n, e, blkBodyOk s ctx handle)
        let all := own :: triples.filter fun c => c.1 != selfNo s && g.holders.contains c.1
        if all.all (sameCopy own) && all.all (fun c => c.2.2.2.2) then s else
        match settleCopies all with
        | some (win, rule) =>
          if win.contains (selfNo s) then
            let lose := (all.map Prod.fst).filter fun m => !win.contains m
            if (win.all fun m => decide (selfNo s ≤ m)) = true then lose.foldl (fun u m => sendRepair u ctx step handle m) s else s
          else needRepair s handle (win.head?) rule
        | none => needRepair s handle none 2)

/-- The bytes of a repair, with the block's new commit word, as a commit (R400): body, INFO and TALLY into the slot that is not
current, then the commit word. A copy from a checkpoint gets EPOCH s and a SKIP_COUNT raised by the steps it lost (R399). -/
def installRepair (s : State) (ctx h step : Nat) (ckpt : Bool) (data : List Byte) : Option State := do
  let a ← blkAddr s h
  let w ← uNat s ctx a 8
  let src := leNat (data.take 8)
  if data.length ≠ 64 + bodyLen (cwKind w) then none else
  let t := 1 - cwSlot w
  let lost := step - cwEpoch src
  let skip := if ckpt then min 4095 (cwSkip src + lost) else cwSkip src
  let epoch := if ckpt then step else cwEpoch src
  let v := commitWord t true (cwTier w) (cwKind w) skip (cwLate src) epoch
  let pb (l : List Byte) : List PByte := l.map (·, false)
  let s1 := (uWrite s ctx (bodyAt a (cwKind w) t) (pb (data.drop 64))).2
  let s2 := (uWrite s1 ctx (a + 0x10 + 0x10 * t) (pb ((data.drop 8).take 16))).2
  some (uWrite s2 ctx a (pb (leBytes 8 v))).2

/-- REPLICA_REPAIR_INSTALL: a replacement arrives, from a holder or from the newest valid checkpoint. -/
def execReplicaRepairInstall (group handle step : Nat) (data : List Byte) (s : State) : Host.Outcome State Fault Refusal :=
  ok (
    match s.team.repairs.find? fun r => r.1 == handle with
    | none => s
    | some r =>
      match installRepair s (jobCtx s step) handle step r.2.1.isNone data with
      | none => s
      | some s1 =>
        let s2 := lateItem s1 step (.repair group handle (r.2.1.getD 0x3FFF) r.2.2)
        releaseLists { s2 with team := { s2.team with
          repairs := s2.team.repairs.filter fun x => x.1 != handle,
          gate := s2.team.gate.filter fun x => x != handle + 1,
          repairsDone := s2.team.repairsDone + 1 } })

/-- Replica groups that hold a handle. -/
def groupsOf (s : State) (h : Nat) : List RepGroup :=
  ((List.range (od s 0x8032 2)).map (repGroup s)).filter fun g => decide (g.first ≤ h ∧ h < g.first + g.count)

/-- One block of the scrub (R398): a tally fault is counted; a replicated block goes to the exchange, another one to the newest
valid checkpoint. -/
def scrubBlock (s : State) (step h : Nat) : State :=
  if blkBodyOk s (jobCtx s step) h then s else
  let s1 := { s with team := { s.team with tallyFaults := s.team.tallyFaults + 1 } }
  match groupsOf s h with
  | [] => needRepair s1 h none 2
  | g :: _ =>
    if s1.team.unequal.contains (step, g.id) then s1
    else { s1 with team := { s1.team with unequal := s1.team.unequal ++ [(step, g.id)] } }

/-- REPLICA_SCRUB: the step's blocks, round-robin over the block table. -/
def execReplicaScrub (step : Nat) (s : State) : Host.Outcome State Fault Refusal :=
  ok (
    let n := od s 0x8011 2
    let k := min (od s 0x8032 3) n
    let s1 := (List.range k).foldl (fun t i => scrubBlock t step ((s.team.scrubAt + i) % n)) s
    { s1 with team := { s1.team with scrubAt := if n = 0 then 0 else (s.team.scrubAt + k) % n } })

/-! ### Losing a member (R401, R402) -/

/-- MEMBER_SUSPECT: every stream of some unit to a member has been FAILED for suspect_time. -/
def execMemberSuspect (member : Nat) (s : State) : Host.Outcome State Fault Refusal :=
  ok (
    let ks := (s.rly.streams.filter fun e => e.2.peer == member && e.2.st != .closed).map Prod.fst
    let all (u : Nat) : Bool := ks.any (fun k => unitOf k == u) && ks.all fun k => unitOf k != u || (strm s k).st == .failed
    if sget false s.team.suspect member || !(all 0 || all 1) then s
    else note { s with team := { s.team with suspect := sset false s.team.suspect member true } } 6 10 3 14 member [])

/-- A write of declare_lost: LOST is set in the member table at once, streams to the member fail, and the root or a parent may
have changed (R308, R401, R402). -/
def declareLost (s : State) (m : Nat) : Except Nat State :=
  if teamSize s ≤ m then .error aRANGE else
  match memberAt s m with
  | none => .error aSTATE
  | some a =>
    let s1 := homeWrite s noCtx 0 false (a + 16) [(BitVec.ofNat 8 (memberBits s m ||| 2), false)]
    let ks := (s1.rly.streams.filter fun e => e.2.peer == m && e.2.st != .closed && e.2.st != .failed).map Prod.fst
    let s2 := ks.foldl failStream s1
    let ready := (s2.rly.steps.filter fun e => e.2.closed && !e.2.reported && e.2.verdict.isNone).map Prod.fst
    .ok (ready.foldl (fun t k => if allReported t k then sendReport t k false else t) s2)

/-- DECLARE_LOST. (log 74 DEDUCED) -/
def execDeclareLost (member : Nat) (s : State) : Host.Outcome State Fault Refusal :=
  ok (match declareLost s member with
    | .ok t => abortWith t aNONE
    | .error c => abortWith s c)

end Sys2Proof.Machine
end

