-- ==== Sys2Proof/Machine/Paddock.lean ====
section
/-! DEFINITION. Paddocks, contexts, their gangs, residency and switching, shares and admission (R327 to R349). -/

namespace Sys2Proof.Machine

/-! ### The persistent store (R414) -/

/-- The key of a persistent value; values kept for a selected unit carry the selection. -/
def storeKey (sel ix sub : Nat) : Nat := sel * 2 ^ 24 + okey ix sub

/-- A persistent write is committed, at most 16 in a second; a later one is BUSY, one that the flash fails PERSIST_FAIL (R414). -/
def commitStore (s : State) (k : Nat) (v : List Byte) : Except Nat State :=
  let sec := s.ost.time / 1000000000
  let n := if s.dict.commitSec = sec then s.dict.commits else 0
  if 16 ≤ n then .error aBUSY
  else if s.dict.norFail then .error aPERSIST
  else .ok { s with dict := { s.dict with store := sset none s.dict.store k (some v), commits := n + 1, commitSec := sec } }

/-- The abort code of a write that an own row makes, or its new state. -/
def ownWrite (s : State) (r : Except Nat State) : State :=
  match r with
  | .ok t => abortWith t aNONE
  | .error c => abortWith s c

/-! ### Contexts and gangs -/

/-- Changes a context. -/
def modCtx (s : State) (c : Nat) (f : Ctx → Ctx) : State := { s with ctxs := smod {} s.ctxs c f }

/-- A paddock. -/
def padOf (s : State) (p : Nat) : Pad := sget {} s.pads p

/-- Changes a paddock. -/
def modPad (s : State) (p : Nat) (f : Pad → Pad) : State := { s with pads := smod {} s.pads p f }

/-- The engines of a gang (R334). -/
def gang (x : Ctx) : List Nat :=
  (maskList 96 x.sched.clusters).flatMap fun k => (maskList 8 x.sched.leMask).map (k * 8 + ·)

/-- n_c (R334). -/
def gangSize (x : Ctx) : Nat := popCount 96 x.sched.clusters * popCount 8 x.sched.leMask

/-- Two gangs meet. -/
def gangsMeet (x y : Ctx) : Bool := x.sched.clusters &&& y.sched.clusters != 0 && x.sched.leMask &&& y.sched.leMask != 0

/-- The admitted contexts, by number. -/
def admitted (s : State) : List (Nat × Ctx) := s.ctxs.filter fun e => e.2.admitted

/-- The admitted contexts of a paddock. -/
def padCtxs (s : State) (p : Nat) : List (Nat × Ctx) := (admitted s).filter fun e => e.2.paddock == p

/-- A context is pinned: a posting into its scratchpad is not complete (R338). -/
def pinned (s : State) (c : Nat) : Bool := s.rly.posts.any fun p => p.ctx == c && p.spad

/-- The context that has an engine. -/
def occupant (s : State) (ge : Nat) : Option Nat :=
  ((admitted s).find? fun e => e.2.onGang && (gang e.2).contains ge).map Prod.fst

/-- The state of a context stands on an engine. -/
def holds (e : Engine) (c : Nat) : Bool := e.taken && e.seq.context == c

/-- The context's stream has stopped on an engine: saved, ended or faulted. -/
def engStopped (s : State) (c ge : Nat) : Bool :=
  let q := (eng s ge).seq
  !holds (eng s ge) c || q.state == .saved || q.state == .idle || q.state == .faulted

/-- The stream is stopped on every engine of the gang. -/
def gangStopped (s : State) (c : Nat) : Bool := (gang (ctxOf s c)).all (engStopped s c)

/-- Some engine of the gang is saved, so that the stream goes on later. -/
def gangSaved (s : State) (c : Nat) : Bool :=
  (gang (ctxOf s c)).any fun ge => holds (eng s ge) c && (eng s ge).seq.state == .saved

/-- An engine is in an external wait (R336: COND 4 or COND 5). -/
def extWait (e : Engine) : Bool :=
  match e.seq.wait with
  | .cond c _ _ _ _ _ => c == 4 || c == 5
  | _ => false

/-- The context may be moved off its engines (R340): stopped, idle, waiting under R340 or of the full-save class; not pinned. -/
def evictable (s : State) (c : Nat) : Bool :=
  let x := ctxOf s c
  !pinned s c && (x.sched.fullSave || !x.onGang || (gang x).all fun ge =>
    engStopped s c ge || ((waitYield (eng s ge)).isSome && unitsIdle (eng s ge)))

/-! ### Switching an engine between contexts (R335, R339) -/

/-- A context's arrays on an engine that it takes: what belongs to the hardware stays, and the banks are invalid (R66). -/
def mergeArr (cur sv : Arr) : Arr :=
  { dropBanks sv with faultCode := cur.faultCode, hwPending := cur.hwPending, passSeq := cur.passSeq,
                      stop := if cur.stop = .packed ∨ cur.stop = .faulted then cur.stop else sv.stop }

/-- A context's tiles on an engine that it takes; the wave counters belong to the hardware. -/
def mergeAcc (cur sv : Acc) : Acc :=
  { sv with validWaves := cur.validWaves, bubbleDry := cur.bubbleDry, bubbleDrain := cur.bubbleDrain,
            bubbleLoad := cur.bubbleLoad }

/-- The engine as a context finds it: its saved state, on the hardware as it stands. (log 80 DESIGN CHOICE) -/
def mergeEngine (cur sv : Engine) (c qbase qlen : Nat) : Engine :=
  let arrs := (List.range 4).foldl (fun (m : SMap Arr) a => sset {} m a (mergeArr (arrOf cur a) (arrOf sv a))) []
  let accs := (List.range 4).foldl (fun (m : SMap Acc) a => sset {} m a (mergeAcc (accOf cur a) (accOf sv a))) []
  { sv with
    taken := true
    seq := { sv.seq with context := c, qbase := qbase, qlen := qlen }
    spad := cur.spad
    spadSeed := cur.spadSeed
    spadPoison := cur.spadPoison
    arrays := arrs
    accs := accs
    chain := { sv.chain with
      faultCode := cur.chain.faultCode, hwPending := cur.chain.hwPending, instrSeq := cur.chain.instrSeq,
      issueWaves := cur.chain.issueWaves, chainDry := cur.chain.chainDry }
    ftq := cur.ftq
    units := { sv.units with rly := cur.units.rly, mqFault := cur.units.mqFault } }

/-- An engine on which no context's state stands: what belongs to the hardware stays. -/
def clearEngine (e : Engine) : Engine := { mergeEngine e {} 0 0 0 with taken := false }

/-- Puts a context on an engine, and away what the engine held of the context before it, whose unread finished tiles are raised
again when it returns (R131). (log 80 DESIGN CHOICE) -/
def loadEngine (s : State) (c ge : Nat) : State :=
  let x := ctxOf s c
  let e := eng s ge
  let old := e.seq.context
  let q := x.resident.getD 0
  if holds e c then setEng s ge { e with seq := { e.seq with qbase := q, qlen := x.sched.qlen } }
  else
    let e1 := if e.taken then holdFinished e old else e
    let s1 := if e.taken && (ctxOf s old).admitted then modCtx s old fun y => { y with saved := sset {} y.saved ge e1 } else s
    setEng s1 ge (mergeEngine e1 (sget {} x.saved ge) c q x.sched.qlen)

/-- A stream begins on an engine (R159, R195, R363): PC at its header + 64, s1 to s8 from the command; status cleared. -/
def beginStream (s : State) (c ge hdr : Nat) (args : List W64) : State :=
  let h := (uRead s c hdr 64).1.getD []
  let hw (i n : Nat) : Nat := leNat (((h.drop i).take n).map Prod.fst)
  let e := eng s ge
  let q : Seq := { e.seq with
    state := .running, wait := .none, overrun := false, yieldLate := false, preemptReq := false, context := c, issued := 0,
    pc := BitVec.ofNat 64 (hdr + 64), faultCode := 0, faultSource := 0, faultArray := 0, moreFaults := 0, faultPc := 0,
    faultAddr := 0, streamBase := BitVec.ofNat 64 (hdr + 64), instrCount := hw 4 4, worstWaves := BitVec.ofNat 64 (hw 8 8),
    maxYieldGap := hw 16 4, lastYield := none, prevYield := none }
  let e1 := { e with seq := q, cnt := {}, chain := { e.chain with stopped := false } }
  setEng s ge ((args.zipIdx).foldl (fun t a => wrS t (a.2 + 1) a.1) e1)

/-- A stopped stream goes on where it was saved. (log 81 DEDUCED) -/
def resumeEngine (s : State) (ge : Nat) : State :=
  modEng s ge fun e =>
    if e.seq.state = .saved then
      { e with chain := { e.chain with stopped := false }, seq := { e.seq with state := match e.seq.wait with
          | .none => .running
          | .cond _ _ _ _ _ _ => .waiting
          | _ => .yielding } }
    else e

/-- The work issued on an engine is done (R182), or kept by a full save (R86): its state may be put away. (log 143 DEDUCED) -/
def quiet (e : Engine) : Bool :=
  !e.taken || e.seq.state == .saved || (arraysEmpty e && chainEmpty e && movEmpty e && e.units.fmtLoads.isEmpty)

/-- Every engine of the gang is free for a context (R335, R342): its slot runs, no context has it, the work issued on it is done,
and no other claims it. (log 143 DEDUCED) -/
def gangFree (s : State) (c : Nat) : Bool :=
  (gang (ctxOf s c)).all fun ge =>
    slotState s (slotOf s ge) == .inService && (occupant s ge).isNone && quiet (eng s ge)
      && (sget 0 s.claims ge == 0 || sget 0 s.claims ge == c + 1)

/-- Dispatches a context (R335, R363): each engine of the gang takes it; a LAUNCH that waited begins its streams, else they go
on. Claims of the context end. (log 81 DEDUCED) -/
def dispatch (s : State) (c : Nat) : State :=
  let x := ctxOf s c
  let s1 := (gang x).foldl (fun t ge => loadEngine t c ge) s
  let s2 := match x.launch with
    | some l =>
      if l.started then (gang x).foldl resumeEngine s1
      else (gang x).foldl (fun t ge => beginStream t c ge (l.hdrs.getD (ge % 8) 0) l.args) s1
    | none => s1
  let s3 := modCtx s2 c fun y => { y with
    st := .running, onGang := true, acct := { y.acct with slice := 0 },
    launch := y.launch.map fun l => { l with started := true } }
  { s3 with claims := s3.claims.filter fun e => e.2 != c + 1 }

/-- A context can be dispatched: it waits to run, is resident, and its whole gang is free. -/
def canDispatch (s : State) (c : Nat) : Bool :=
  let x := ctxOf s c
  powered s && x.admitted && x.st == .runnable && x.resident.isSome && x.swap == .none && (padOf s x.paddock).st == .running && gangFree s c

/-- CONTEXT_DISPATCH. -/
def execContextDispatch (ctx : Nat) (s : State) : Host.Outcome State Fault Refusal :=
  ok (if canDispatch s ctx then dispatch s ctx else s)

/-- Requests the pre-emption of a context on every engine of its gang (R335, R341). -/
def preempt (s : State) (c : Nat) : State :=
  let x := ctxOf s c
  if !x.onGang || x.st == .stopping then s else
  let s1 := (gang x).foldl (fun t ge => modEng t ge fun e =>
    if holds e c then { e with seq := { e.seq with preemptReq := true } } else e) s
  modCtx s1 c fun y => { y with st := .stopping }

/-- STATE of the accounting entry (R344). -/
def stCode (x : Ctx) : Nat :=
  if x.faulted then 5 else match x.st with
  | .idle => 0 | .runnable => 1 | .running => 2 | .blocked => 3 | .stopping => 4 | .faulted => 5 | .stranded => 6

/-- Writes a context's accounting entry (R344): word 0 with SEQ odd, words 1 to 7, then word 0 with SEQ even. -/
def writeAccount (s : State) (c : Nat) : State :=
  let base := od s 0x5001 1
  if base = 0 then s else
  let x := ctxOf s c
  let a := x.acct
  let w0 (q : W32) : List Byte := leBytes 8 (q.toNat + 2 ^ 32 * stCode x + 2 ^ 36 * b2n x.resident.isSome
    + 2 ^ 37 * b2n (pinned s c) + 2 ^ 38 * a.guar)
  let at_ := base + 64 * c
  let body := leBytes 8 a.billed.toNat ++ leBytes 8 a.switchW.toNat ++ leBytes 8 a.reexecW.toNat ++ leBytes 8 a.reinW.toNat
    ++ leBytes 4 a.switches.toNat ++ leBytes 4 a.swapIns.toNat ++ leBytes 8 (wrapInt 64 a.deficit) ++ leBytes 8 a.budget
  let s1 := physWrite (physWrite s at_ (w0 (a.seq + 1))) (at_ + 8) body
  modCtx (physWrite (settleWrites s1 noCtx) at_ (w0 (a.seq + 2))) c fun y => { y with acct := { y.acct with seq := y.acct.seq + 2 } }

/-- A context whose streams have stopped on its whole gang leaves it: RUNNABLE when its stream goes on, else IDLE, FAULTED.
 (log 81 DEDUCED) -/
def leaveGang (s : State) (c : Nat) : State :=
  let x := ctxOf s c
  let next : SchedSt := if x.st == .stranded then .stranded else if x.faulted then .faulted
    else if gangSaved s c || x.launch.isSome then .runnable else .idle
  writeAccount (modCtx s c fun y => { y with
    onGang := false, st := next, acct := { y.acct with switches := y.acct.switches + 1 } }) c

/-! ### Residency (R337, R339) -/

/-- Residents of a paddock, less those given. -/
def residents (s : State) (p : Nat) (but : List Nat) : List (Nat × Ctx) :=
  (padCtxs s p).filter fun e => e.2.resident.isSome && !but.contains e.1

/-- The binding of a context overlaps [q, q + n). -/
def bindsOver (x : Ctx) (q n : Nat) : Bool :=
  match x.resident with
  | some b => decide (b < q + n ∧ q < b + x.sched.qlen)
  | none => match x.swap with
    | .into b => decide (b < q + n ∧ q < b + x.sched.qlen)
    | _ => false

/-- The lowest QBASE that leaves room for a context on every engine of its gang, once the contexts given are gone (R337). -/
def fitBase (s : State) (c : Nat) (gone : List Nat) : Option Nat :=
  let x := ctxOf s c
  let others := (admitted s).filter fun e => e.1 != c && !gone.contains e.1 && gangsMeet x e.2
  (List.range (17 - x.sched.qlen)).find? fun q => !others.any fun e => bindsOver e.2 q x.sched.qlen

/-- The scratchpad bytes of a binding move to another base: physical keys of the quarters' units. -/
def rebase {α : Type} (unit : Nat) (m : SMap α) (old new len : Nat) : List (Nat × α) :=
  (m.filter fun e => decide (old * (65536 / unit) ≤ e.1 % (2 ^ 20 / unit) ∧ e.1 % (2 ^ 20 / unit) < (old + len) * (65536 / unit))).map
    fun e => (e.1 - old * (65536 / unit) + new * (65536 / unit), e.2)

/-- Takes the binding's scratchpad off an engine into an image at base 0. -/
def cutSpad (e : Engine) (q len : Nat) : Engine × Engine :=
  let inB (unit k : Nat) : Bool :=
    decide (q * (65536 / unit) ≤ k % (2 ^ 20 / unit) ∧ k % (2 ^ 20 / unit) < (q + len) * (65536 / unit))
  ({ e with spad := e.spad.filter fun x => !inB 1 x.1
            spadSeed := e.spadSeed.filter fun x => !inB 65536 x.1
            spadPoison := e.spadPoison.filter fun x => !inB 64 x.1 },
   { e with spad := rebase 1 e.spad q 0 len
            spadSeed := rebase 65536 e.spadSeed q 0 len
            spadPoison := rebase 64 e.spadPoison q 0 len })

/-- Puts a scratchpad image at base 0 into a binding. -/
def pasteSpad (e img : Engine) (q len : Nat) : Engine :=
  { e with spad := ssetMany none e.spad (rebase 1 img.spad 0 q len)
           spadSeed := ssetMany 0 e.spadSeed (rebase 65536 img.spadSeed 0 q len)
           spadPoison := ssetMany false e.spadPoison (rebase 64 img.spadPoison 0 q len) }

/-- One engine's part of a swap-out: the state and the scratchpad go to the save area. (log 80 DESIGN CHOICE) -/
def swapOutEngine (s : State) (c ge : Nat) : State :=
  let x := ctxOf s c
  let e := if holds (eng s ge) c then holdFinished (eng s ge) c else eng s ge
  let cut := cutSpad e (x.resident.getD 0) x.sched.qlen
  let sv := if holds e c then e else sget {} x.saved ge
  let img := { sv with spad := cut.2.spad, spadSeed := cut.2.spadSeed, spadPoison := cut.2.spadPoison }
  modCtx (setEng s ge (if holds e c then clearEngine cut.1 else cut.1)) c fun y => { y with saved := sset {} y.saved ge img }

/-- A context is out: its live state is in its save area and its binding is free (R339). -/
def swapOut (s : State) (c : Nat) : State :=
  let x := ctxOf s c
  let s0 := if x.onGang then leaveGang s c else s
  let s1 := (gang x).foldl (fun t ge => swapOutEngine t c ge) s0
  let s2 := modCtx s1 c fun y => { y with resident := none, swap := .none }
  modPad (writeAccount s2 c) x.paddock fun p => { p with swapOuts := p.swapOuts + 1 }

/-- SWAP_OUT_COMPLETE: a save that the scheduler started is complete; a slot that is HELD waits for its Remount (R348).
 (log 143 DEDUCED) -/
def execSwapOutComplete (ctx : Nat) (s : State) : Host.Outcome State Fault Refusal :=
  ok (
    let x := ctxOf s ctx
    if !powered s || x.swap != .out || x.resident.isNone || pinned s ctx || !gangStopped s ctx
      || (gang x).any (fun ge => slotState s (slotOf s ge) == .held || (holds (eng s ge) ctx && !quiet (eng s ge))) then s
    else swapOut s ctx)

/-- A context is resident at a base (R337): its scratchpad stands in its binding. -/
def swapIn (s : State) (c q : Nat) : State :=
  let x := ctxOf s c
  let s1 := (gang x).foldl (fun t ge => modEng t ge fun e => pasteSpad e (sget {} x.saved ge) q x.sched.qlen) s
  let s2 := modCtx s1 c fun y => { y with
    resident := some q, swap := .none, acct := { y.acct with swapIns := y.acct.swapIns + 1 } }
  modPad s2 x.paddock fun p => { p with swapIns := p.swapIns + 1 }

/-- SWAP_IN_COMPLETE: the restore is complete, and no other resident holds the binding. -/
def execSwapInComplete (ctx : Nat) (s : State) : Host.Outcome State Fault Refusal :=
  ok (
    let x := ctxOf s ctx
    match x.swap with
    | .into q =>
      if !powered s || (admitted s).any (fun e => e.1 != ctx && gangsMeet x e.2 && e.2.resident.isSome && bindsOver e.2 q x.sched.qlen) then s
      else swapIn s ctx q
    | _ => s)

/-! ### Decisions (R341 to R344) -/

/-- A context counts for shares: RUNNABLE, RUNNING or STOPPING. -/
def wants (x : Ctx) : Bool := x.st == .runnable || x.st == .running || x.st == .stopping

/-- What a decision was told of a context: waves billed, spent switching, not billed for re-execution and for rein.
 (log 82 DEDUCED) -/
def billOf (bills : List (Nat × Nat × Nat × Nat × Nat)) (c : Nat) : Nat × Nat × Nat × Nat :=
  ((bills.find? fun b => b.1 == c).map Prod.snd).getD (0, 0, 0, 0)

/-- The deficit of a context after a decision (R341). (log 82 DEDUCED) -/
def nextDeficit (s : State) (l : List (Nat × Ctx)) (delta : Nat) (x : Ctx) (billed : Nat) : Int :=
  let used : Int := if gangSize x = 0 then 0 else (billed / gangSize x : Nat)
  let w := ((l.filter fun e => wants e.2 && gangsMeet x e.2).map fun e => e.2.sched.weight).sum
  let gain : Int := if wants x && w != 0 then (delta * x.sched.weight / w : Nat) else 0
  let lim : Int := 4 * od s 0x5110 2
  max (-lim) (min lim (x.acct.deficit + gain - used))

/-- Every context's account and deficit at a decision. (log 82 DEDUCED) -/
def billAll (s : State) (p delta : Nat) (bills : List (Nat × Nat × Nat × Nat × Nat)) : State :=
  let l := padCtxs s p
  l.foldl (fun t e =>
    let b := billOf bills e.1
    modCtx t e.1 fun y => { y with acct := { y.acct with
      deficit := nextDeficit s l delta e.2 b.1,
      billed := y.acct.billed + BitVec.ofNat 64 b.1,
      switchW := y.acct.switchW + BitVec.ofNat 64 b.2.1,
      reexecW := y.acct.reexecW + BitVec.ofNat 64 b.2.2.1,
      reinW := y.acct.reinW + BitVec.ofNat 64 b.2.2.2,
      slice := if y.onGang then y.acct.slice + (if gangSize y = 0 then 0 else b.1 / gangSize y) else y.acct.slice } }) s

/-- The order of service (R342, R348): by descending deficit, equal deficits by number. -/
def byDeficit (l : List (Nat × Ctx)) : List (Nat × Ctx) :=
  l.foldl (fun acc e =>
    (acc.takeWhile fun x => decide (e.2.acct.deficit ≤ x.2.acct.deficit)) ++ [e]
      ++ acc.dropWhile fun x => decide (e.2.acct.deficit ≤ x.2.acct.deficit)) []

/-- A slice ends (R341): a new slice, unless a RUNNABLE context whose gang meets this one has a higher deficit. -/
def endSlice (s : State) (c : Nat) : State :=
  let x := ctxOf s c
  let rival := (padCtxs s x.paddock).any fun e =>
    e.1 != c && e.2.st == .runnable && gangsMeet x e.2 && decide (x.acct.deficit < e.2.acct.deficit)
  if rival then preempt s c else modCtx s c fun y => { y with acct := { y.acct with slice := 0 } }

/-- SLICE_END: a running context has been billed a whole slice per engine since its dispatch. -/
def execSliceEnd (ctx : Nat) (s : State) : Host.Outcome State Fault Refusal :=
  ok (
    let x := ctxOf s ctx
    if x.admitted && x.onGang && decide (od s 0x5110 2 ≤ x.acct.slice) then endSlice s ctx else s)

/-- BLOCK_THRESHOLD_REACHED: a running context has been in an external wait, or an idle one has had Relay operations
outstanding, for longer than block_threshold (R336). -/
def execBlockThresholdReached (ctx : Nat) (s : State) : Host.Outcome State Fault Refusal :=
  ok (
    let x := ctxOf s ctx
    let waits := (gang x).any fun ge => holds (eng s ge) ctx && extWait (eng s ge)
    let relay := s.rly.ops.any fun o => o.ctx == ctx
    if x.admitted && ((x.st == .running && waits) || (x.st == .idle && relay)) then modCtx s ctx fun y => { y with st := .blocked }
    else s)

/-- Stops that have come to an end, and waits that are over, since the last decision. -/
def settleStops (s : State) (p : Nat) : State :=
  (padCtxs s p).foldl (fun t e =>
    let x := ctxOf t e.1
    if x.onGang && x.st == .stopping && gangStopped t e.1 then leaveGang t e.1
    else if x.st == .blocked && x.onGang && !((gang x).any fun ge => extWait (eng t ge)) then
      modCtx t e.1 fun y => { y with st := .running }
    else if x.st == .blocked && !x.onGang && !(t.rly.ops.any fun o => o.ctx == e.1) then
      modCtx t e.1 fun y => { y with st := if y.launch.isSome then .runnable else .idle }
    else t) s

/-- The save of a context begins: a running one is pre-empted first. -/
def startSwapOut (s : State) (c : Nat) : State := preempt (modCtx s c fun y => { y with swap := .out }) c

/-- The restore of a context begins. -/
def startSwapIn (s : State) (c q : Nat) : State := modCtx s c fun y => { y with swap := .into q }

/-- Swapped-out contexts that want to run, in the order of service. -/
def outsiders (s : State) (p : Nat) : List (Nat × Ctx) :=
  byDeficit ((padCtxs s p).filter fun e => e.2.st == .runnable && e.2.resident.isNone && e.2.swap == .none)

/-- Victims until a context fits (R344): those taken and the base, if any. -/
def takeVictims (s : State) (c : Nat) : List Nat → List Nat → List Nat × Option Nat
  | gone, [] => (gone, fitBase s c gone)
  | gone, v :: r =>
    match fitBase s c (gone ++ [v]) with
    | some q => (gone ++ [v], some q)
    | none => takeVictims s c (gone ++ [v]) r

/-- Eviction while every resident is BLOCKED (R344). -/
def evictBlocked (s : State) (p : Nat) : State :=
  let res := residents s p []
  let free := modPad s p fun y => { y with pinHold := false }
  match outsiders s p with
  | [] => free
  | (c, _) :: _ =>
    if res.isEmpty || res.any (fun e => e.2.st != .blocked) then free else
    let vs := ((byDeficit (res.filter fun e => evictable s e.1)).map Prod.fst).reverse
    match vs with
    | [] =>
      let s1 := modPad s p fun y => { y with pinHold := true, pinHolds := if y.pinHold then y.pinHolds else y.pinHolds + 1 }
      if (padOf s p).pinHold then s1 else note s1 8 1 3 13 p []
    | _ =>
      let r := takeVictims s c [] vs
      let s1 := r.1.foldl startSwapOut s
      let s2 := modPad s1 p fun y => { y with evictions := y.evictions + BitVec.ofNat 64 r.1.length, pinHold := false }
      match r.2 with
      | some q => startSwapIn s2 c q
      | none => note s2 8 2 2 13 p [BitVec.ofNat 64 c]

/-- A swapped-out context takes free room, or the place of an evictable resident that stands a slice below it (R344). -/
def placeOutsider (s : State) (p c : Nat) : State :=
  let full := decide ((padOf s p).maxResident ≤ (residents s p []).length
    + ((padCtxs s p).filter fun e => match e.2.swap with | .into _ => true | _ => false).length)
  match (if full then none else fitBase s c []) with
  | some q => startSwapIn s c q
  | none =>
    let d := (ctxOf s c).acct.deficit
    let cand := (residents s p []).filter fun e =>
      e.2.swap == .none && !e.2.onGang && evictable s e.1 && decide (e.2.acct.deficit + od s 0x5110 2 < d)
    match (byDeficit cand).getLast? with
    | some v => startSwapOut s v.1
    | none => s

/-- Claims and dispatches in the order of service (R342). -/
def serveGangs (s : State) (p : Nat) : State :=
  let l := byDeficit ((padCtxs s p).filter fun e => e.2.st == .runnable && e.2.resident.isSome && e.2.swap == .none)
  let s0 := { s with claims := s.claims.filter fun e => (ctxOf s (e.2 - 1)).paddock != p }
  l.foldl (fun t e =>
    if canDispatch t e.1 then dispatch t e.1
    else { t with claims := (gang e.2).foldl (fun (m : SMap Nat) ge => if sget 0 m ge = 0 then sset 0 m ge (e.1 + 1) else m) t.claims }) s0

/-- Engines of a paddock held idle for a claim. -/
def claimedIdle (s : State) (p : Nat) : Nat :=
  (s.claims.filter fun e => (ctxOf s (e.2 - 1)).paddock == p && (occupant s e.1).isNone).length

/-- A draining paddock (R330): running contexts are pre-empted and residents swapped out; a pinned one holds it. -/
def drainPad (s : State) (p : Nat) : State :=
  let s1 := (residents s p []).foldl (fun t e => if pinned t e.1 then preempt t e.1 else startSwapOut t e.1) s
  let held := (residents s1 p []).any fun e => pinned s1 e.1
  let was := (padOf s p).pinHold
  let s2 := modPad s1 p fun y => { y with pinHold := held, pinHolds := if held && !was then y.pinHolds + 1 else y.pinHolds }
  if held && !was then note s2 8 3 2 13 p [] else s2

/-- SCHEDULER_DECISION. (log 82 DEDUCED) -/
def execSchedulerDecision (p delta : Nat) (bills : List (Nat × Nat × Nat × Nat × Nat)) (s : State) :
    Host.Outcome State Fault Refusal :=
  ok (
    if !powered s then s else
    let idle := claimedIdle s p * delta
    let s1 := settleStops (billAll s p delta bills) p
    let s2 := modPad s1 p fun y => { y with decisions := y.decisions + 1, claimIdle := y.claimIdle + BitVec.ofNat 64 idle }
    let s3 :=
      if (padOf s2 p).st == .draining then drainPad s2 p
      else if (padOf s2 p).st == .running then
        let t1 := (padCtxs s2 p).foldl (fun t e =>
          if e.2.onGang && e.2.st == .running && decide (od t 0x5110 2 ≤ e.2.acct.slice) then endSlice t e.1 else t) s2
        let t2 := evictBlocked t1 p
        let t3 := (outsiders t2 p).foldl (fun t e => placeOutsider t p e.1) t2
        serveGangs t3 p
      else s2
    (padCtxs s3 p).foldl (fun t e => if e.2.onGang then writeAccount t e.1 else t) s3)

/-! ### Full saves (R86, R157, R339) -/

/-- One engine at a full-save stop: the grids empty, the chain takes no further group, and unread finished tiles are raised again
on restore (R86, R131, R157). (log 85 DESIGN CHOICE) -/
def stopEngine (e : Engine) (ctx : Nat) : Engine :=
  let e1 := holdFinished ((List.range 4).foldl stopArray e) ctx
  let e2 := modChain e1 fun c => { c with stopped := true }
  if e2.seq.state = .idle ∨ e2.seq.state = .faulted then e2
  else { e2 with seq := { e2.seq with state := .saved, preemptReq := false } }

/-- FULL_SAVE_STOP: a full-save context whose pre-emption is requested stops at a wave boundary on its whole gang; positions are
kept, and the context goes to its save area. (log 85 DESIGN CHOICE) -/
def execFullSaveStop (ctx waves : Nat) (s : State) : Host.Outcome State Fault Refusal :=
  ok (
    let x := ctxOf s ctx
    if !(x.admitted && x.onGang && x.sched.fullSave && x.st == .stopping) then s else
    let s1 := (gang x).foldl (fun t ge => modEng t ge fun e => if holds e ctx then stopEngine (addWaves e waves) ctx else e) s
    let s2 := modPad (leaveGang s1 ctx) x.paddock fun p => { p with fullSaves := p.fullSaves + 1 }
    modCtx s2 ctx fun y => { y with swap := .out })

/-- FULL_SAVE_RESUME: one array of a restored context reloads its weight set and feeds on at NEXT_ROW (R86). -/
def execFullSaveResume (ge arr : Nat) (s : State) : Host.Outcome State Fault Refusal :=
  ok (
    let e := eng s ge
    if (arrOf e arr).stop = .stopped ∧ (e.seq.state = .running ∨ e.seq.state = .waiting ∨ e.seq.state = .yielding) then
      modEng s ge fun x => reloadArray x arr
    else s)

/-! ### Admission (R345, R346) -/

/-- A floor breach is recorded (R433). -/
def floorBreach (s : State) : Bool := !s.power.breaches.isEmpty

/-- R345 holds for a context among the contexts given. -/
def guaranteeOk (s : State) (l : List (Nat × Ctx)) (x : Ctx) : Bool :=
  if x.acct.guar != 1 then true else
  let o := (l.filter fun e => gangsMeet x e.2).map Prod.snd
  let w := (o.map fun y => y.sched.weight).sum
  let lag := o.length * (od s 0x5110 2 + od s 0x5110 1 + od s 0x5110 4)
  let t := x.acct.budget * w + x.sched.weight * lag
  decide (x.acct.admittedAt + x.sched.deadline ≥ s.ost.time
    ∧ t * 5 ≤ x.sched.weight * (x.acct.admittedAt + x.sched.deadline - s.ost.time) * 8)

/-- R345 holds for every guaranteed context. -/
def allGuarantees (s : State) (l : List (Nat × Ctx)) : Bool := l.all fun e => guaranteeOk s l e.2

/-- Bytes of a context's save area on each engine (R339). (log 80 DESIGN CHOICE) -/
def saveArea (x : Ctx) : Nat := 65536 + 2 ^ 20 + x.sched.qlen * 262144

/-- Engines of a context's gang on a die. -/
def gangOnDie (x : Ctx) (d : Nat) : Nat := ((gang x).filter fun ge => dieOfGe ge == d).length

/-- Every die's save reserve has room for the contexts given (R333). -/
def saveRoom (s : State) (l : List (Nat × Ctx)) : Bool :=
  (List.range 8).all fun d => decide ((l.map fun e => gangOnDie e.2 d * saveArea e.2).sum ≤ 4 * od s 0x5102 (d + 1))

/-- The guarantees of a paddock are void (R346): a floor breach, PIN_HOLD, or an OVERRUN on an engine of one of its contexts. -/
def guaranteeVoid (s : State) (p : Nat) : Bool :=
  floorBreach s || (padOf s p).pinHold
    || (padCtxs s p).any fun e => (gang e.2).any fun ge => holds (eng s ge) e.1 && (eng s ge).seq.overrun

/-- A write of share_weight (R345). -/
def writeWeight (s : State) (c v : Nat) : Except Nat State :=
  if !(ctxOf s c).admitted then .error aNOOBJECT
  else if v = 0 ∨ 65535 < v then .error aRANGE
  else
    let s1 := modCtx s c fun y => { y with sched := { y.sched with weight := v } }
    if allGuarantees s1 (admitted s1) then .ok s1 else .error aSTATE

/-- SHARE_WEIGHT_WRITE. -/
def execShareWeightWrite (ctx v : Nat) (s : State) : Host.Outcome State Fault Refusal := ok (ownWrite s (writeWeight s ctx v))

/-! ### Paddocks (R329 to R333) -/

/-- The paddock holds some valid range. -/
def padHasRange (s : State) (p : Nat) : Bool := (List.range 64).any fun i => bitAt (sget 0 s.padRanges (p * 128 + 2 * i)).toNat 0

/-- A start of a paddock (R330, R345). -/
def startPad (s : State) (p : Nat) : Except Nat State :=
  let x := padOf s p
  match x.st with
  | .unused => .error aSTATE
  | .draining => .error aSTATE
  | .running => .ok s
  | .stopped =>
    if !padHasRange s p || x.ringCount == 0 || !allGuarantees s (admitted s) then .error aSTATE
    else .ok (modPad s p fun y => { y with st := .running })

/-- A stop of a paddock (R330). -/
def stopPad (s : State) (p : Nat) : State :=
  if (padOf s p).st = .running then drainPad (modPad s p fun y => { y with st := .draining }) p else s

/-- PADDOCK_START. -/
def execPaddockStart (p : Nat) (s : State) : Host.Outcome State Fault Refusal := ok (ownWrite s (startPad s p))

/-- PADDOCK_STOP. -/
def execPaddockStop (p : Nat) (s : State) : Host.Outcome State Fault Refusal := ok (abortWith (stopPad s p) aNONE)

/-- PADDOCK_DRAIN_COMPLETE: no context of the paddock runs or is resident. -/
def execPaddockDrainComplete (p : Nat) (s : State) : Host.Outcome State Fault Refusal :=
  ok (
    if (padOf s p).st = .draining ∧ ((padCtxs s p).all fun e => !e.2.onGang && e.2.resident.isNone) = true then
      modPad s p fun y => { y with st := .stopped, pinHold := false }
    else s)

/-- The paddock can be configured: UNUSED or STOPPED (R329). -/
def padIdle (s : State) (p : Nat) : Bool := (padOf s p).st == .unused || (padOf s p).st == .stopped

/-- A write of a paddock's cluster mask (R329, R330). -/
def writeClusters (s : State) (p : Nat) (hi : Bool) (v : Nat) : Except Nat State :=
  let x := padOf s p
  let m := if hi then x.mask % 2 ^ 64 + v % 2 ^ 32 * 2 ^ 64 else x.mask / 2 ^ 64 * 2 ^ 64 + v % 2 ^ 64
  if !padIdle s p then .error aRUNNING
  else if (maskList 96 m).any (fun k => sget false s.contain.clOut k || dieRetired s.map (k / 12)) then .error aRANGE
  else if s.pads.any (fun e => e.1 != p && e.2.mask &&& m != 0) then .error aRANGE
  else
    match commitStore s (storeKey p 0x5100 (if hi then 3 else 2)) (leBytes 8 v) with
    | .error c => .error c
    | .ok t =>
      .ok (modPad t p fun y =>
        let z := if y.st = .unused ∧ m ≠ 0 then
          { y with st := .stopped, decisions := 0, swapOuts := 0, swapIns := 0, fullSaves := 0, evictions := 0, pinHolds := 0,
                   claimIdle := 0 } else y
        { z with mask := m, st := if m = 0 then .unused else z.st })

/-- PADDOCK_CLUSTERS_WRITE. -/
def execPaddockClustersWrite (p : Nat) (hi : Bool) (v : Nat) (s : State) : Host.Outcome State Fault Refusal :=
  ok (ownWrite s (writeClusters s p hi v))

/-- A write of ring_first or ring_count (R329). -/
def writeRingRange (s : State) (p : Nat) (count : Bool) (v : Nat) : Except Nat State :=
  let x := padOf s p
  let f := if count then x.ringFirst else v
  let n := if count then v else x.ringCount
  let meets (y : Pad) : Bool := decide (0 < n ∧ 0 < y.ringCount ∧ f < y.ringFirst + y.ringCount ∧ y.ringFirst < f + n)
  if !padIdle s p then .error aRUNNING
  else if 32768 < f + n then .error aRANGE
  else if s.pads.any (fun e => e.1 != p && meets e.2) then .error aRANGE
  else
    match commitStore s (storeKey p 0x5100 (if count then 6 else 5)) (leBytes 2 v) with
    | .error c => .error c
    | .ok t => .ok (modPad t p fun y => { y with ringFirst := f, ringCount := n })

/-- RING_RANGE_WRITE. -/
def execRingRangeWrite (p : Nat) (count : Bool) (v : Nat) (s : State) : Host.Outcome State Fault Refusal :=
  ok (ownWrite s (writeRingRange s p count v))

/-- First address and length in bytes of a range entry (R331). -/
def rangeBase (w0 : W64) : Nat := bits w0.toNat 43 21 * mib2
def rangeLen (w1 : W64) : Nat := bits w1.toNat 22 0 * mib2

/-- A run of addresses lies in one backed view of R196. -/
def inBackedView (c : MapCfg) (b n : Nat) : Bool :=
  let v (lo hi : Nat) : Bool := decide (lo ≤ b ∧ b + n ≤ hi)
  v 0 hbmEnd || v lpBase (lpBase + 16 * lpSpan) || (aliasOn c && v lpAlias (lpAlias + 16 * lpBytes c 0)) || v hbmAlias hbmAliasEnd

/-- A run lies in a view of stack-local or per-interface addresses. -/
def plainView (b : Nat) : Bool := decide (b < hbmEnd) || decide (lpBase ≤ b ∧ b < lpAlias)

/-- Some granule of a range satisfies a condition on its stack-local or per-interface address: 2 MiB granules in those views,
4 KiB in an alias. -/
def someGranule (c : MapCfg) (w0 w1 : W64) (f : Nat → Bool) : Bool :=
  let b := rangeBase w0
  let g := if plainView b then mib2 else 4096
  (List.range (rangeLen w1 / g)).any fun i => match canon c (b + g * i) with | some a => f a | none => false

/-- Two ranges overlap, compared by stack-local and per-interface addresses (R332). -/
def rangesOverlap (c : MapCfg) (w0 w1 v0 v1 : W64) : Bool :=
  if plainView (rangeBase w0) && plainView (rangeBase v0) then
    decide (rangeBase w0 < rangeBase v0 + rangeLen v1 ∧ rangeBase v0 < rangeBase w0 + rangeLen w1)
  else someGranule c w0 w1 (entryCovers c v0 v1) || someGranule c v0 v1 (entryCovers c w0 w1)

/-- An entry that a paddock may not have (R332). (log 84 DEDUCED) -/
def rangeBad (s : State) (p : Nat) (w0 w1 : W64) : Bool :=
  let wr := bitAt w0.toNat 1
  let clash (q i : Nat) : Bool :=
    let v0 := sget 0 s.padRanges (q * 128 + 2 * i)
    bitAt v0.toNat 0 && (wr || bitAt v0.toNat 1) && rangesOverlap s.map w0 w1 v0 (sget 0 s.padRanges (q * 128 + 2 * i + 1))
  bits w0.toNat 20 2 != 0 || bits w0.toNat 63 44 != 0 || bits w1.toNat 63 23 != 0 || rangeLen w1 == 0
    || !inBackedView s.map (rangeBase w0) (rangeLen w1)
    || (List.range 96).any (fun q => q != p && (List.range 64).any (clash q))
    || someGranule s.map w0 w1 (inReserve s)

/-- PADDOCK_RANGE_WRITE: a write of a word of a range entry (R332). (log 84 DEDUCED) -/
def execPaddockRangeWrite (p entry word : Nat) (v : W64) (s : State) : Host.Outcome State Fault Refusal :=
  ok (
    let k := p * 128 + 2 * entry
    let o0 := sget 0 s.padRanges k
    let o1 := sget 0 s.padRanges (k + 1)
    let n0 := if word = 0 then v else o0
    let n1 := if word = 0 then o1 else v
    let was := bitAt o0.toNat 0
    let moved := rangeBase n0 != rangeBase o0 || bitAt n0.toNat 1 != bitAt o0.toNat 1 || rangeLen n1 != rangeLen o1
    if 96 ≤ p ∨ 64 ≤ entry ∨ 2 ≤ word then s
    else if bitAt n0.toNat 0 && (!was || moved) && rangeBad s p n0 n1 then modPad s p fun y => { y with rangeError := true }
    else { s with padRanges := sset 0 (sset 0 s.padRanges k n0) (k + 1) n1 })

end Sys2Proof.Machine
end

