-- ==== Sys2Proof/Machine/Rings.lean ====
section
/-! DEFINITION. Command rings, commands and their completions, and the resets of host dies (R351 to R372). -/

namespace Sys2Proof.Machine

/-- A ring. -/
def ringOf (s : State) (r : Nat) : Ring := sget {} s.rings r

/-- Changes a ring. -/
def modRing (s : State) (r : Nat) (f : Ring → Ring) : State := { s with rings := smod {} s.rings r f }

/-- The command processor of a user ring: that of the die holding the lowest cluster of its context's paddock (R328). -/
def schedDie (s : State) (ctx : Nat) : Nat :=
  (((maskList 96 (padOf s (ctxOf s ctx).paddock).mask).head?).getD 0) / 12

/-- The die whose command processor serves a ring (R355). -/
def ringDie (s : State) (r : Nat) : Nat := let x := ringOf s r; if x.priv then x.die else schedDie s x.ctx

/-- Changes a command processor's registers. -/
def modCtl (s : State) (d : Nat) (f : RingCtl → RingCtl) : State :=
  { s with hosts := { s.hosts with ctl := smod {} s.hosts.ctl d f } }

/-- A hart is held in reset. -/
def hartReset (s : State) (h : Nat) : Bool := sget false s.hosts.dieReset (h / 48) || sget false s.hosts.coreReset h

/-- Delivers an interrupt target (R354). -/
def deliverIrq (s : State) (t : Nat) : State :=
  if bits t 21 11 = 0 then s
  else if hartReset s (bits t 7 0) then { s with hosts := { s.hosts with irqDropped := s.hosts.irqDropped + 1 } }
  else { s with hosts := { s.hosts with irqs := s.hosts.irqs ++ [t] } }

/-- Word i of a command. -/
def cW (c : RingCmd) (i : Nat) : Nat := (c.words.getD i 0).toNat

/-- Fields of a header (R360). -/
def cOp (c : RingCmd) : Nat := bits (cW c 0) 7 0
def cChain (c : RingCmd) : Nat := bits (cW c 0) 9 8
def cFence (c : RingCmd) : Nat := bits (cW c 0) 11 10
def cComp (c : RingCmd) : Nat := bits (cW c 1) 56 0

/-- The payload bytes of WRITE and CMB: W4 to W7, then the chained blocks. -/
def cPayload (c : RingCmd) : List Byte := (c.words.drop 4).flatMap fun w => leBytes 8 w.toNat

/-- A command's bytes at an address of its ring's space: virtual of the context, or physical on a privileged ring (R360). -/
def cpRead (s : State) (x : Ring) (a n : Nat) : Option (List PByte) × State :=
  if x.priv then ((physRange s.map a n).map fun l => l.flatMap fun p => homeRead s p.1 p.2, s) else uRead s x.ctx a n

/-- The canonical pieces that a command writes, or none where a check fails (R360). -/
def cpPieces (s : State) (x : Ring) (a n : Nat) : Option (List Piece) × State :=
  if x.priv then
    match physRange s.map a n with
    | some l => (if l.any fun p => attrKind s.mem p.1 == 2 then none else some (l.map fun p => { a := p.1, n := p.2, pma := true }), s)
    | none => (none, s)
  else match vPieces s none x.ctx .write a n with
    | (.ok l, t) => (some l, t)
    | (.error _, t) => (none, t)

/-- Writes pieces as a command processor does: other copies are invalidated at the write (R211). -/
def cpWrite (s : State) (x : Ring) (l : List Piece) (d : List PByte) : State :=
  (l.foldl (fun (y : State × List PByte) p =>
    (homeWrite y.1 (if x.priv then noCtx else x.ctx) s.stamp false p.a (y.2.take p.n), y.2.drop p.n)) (s, d)).1

/-- The record of a command can be written: a NORMAL or UNCACHED location (R367). (log 87 DEDUCED) -/
def compOk (s : State) (x : Ring) (c : RingCmd) : Bool :=
  if cComp c = 0 then true else
  match (cpPieces s x (cComp c) 16).1 with
  | some l => l.all fun p => attrKind s.mem p.a == 0 || attrKind s.mem p.a == 3
  | none => false

/-- A command completes (R359, R367): its record under its fence, the ring's halt on a STATUS other than OK, the interrupt.
 (log 41 DEDUCED; log 87 DEDUCED) -/
def complete (s : State) (r status detail ctxNo result : Nat) : State :=
  let x := ringOf s r
  match x.cur with
  | none => s
  | some c =>
    let w0 := bits (cW c 0) 63 32 + 2 ^ 32 * status + 2 ^ 40 * detail + 2 ^ 48 * ctxNo + 2 ^ 63
    let s1 := if cFence c = 2 then settleWrites s (if x.priv then noCtx else x.ctx) else s
    let s2 := if cComp c = 0 then s1 else
      match cpPieces s1 x (cComp c) 16 with
      | (some l, t) => cpWrite t x l ((leBytes 8 w0 ++ leBytes 8 result).map (·, false))
      | (none, t) => t
    let s3 := modRing s2 r fun y => { y with
      cur := none, disabling := false,
      st := if y.disabling then .disabled else if status = 0 then y.st else .halted,
      haltIndex := if status = 0 then y.haltIndex else c.idx, haltStatus := if status = 0 then y.haltStatus else status }
    let s4 := modCtl { s3 with hosts := { s3.hosts with cpCommands := s3.hosts.cpCommands + 1 } } (ringDie s r)
      fun y => { y with commands := y.commands + 1 }
    if bitAt (cW c 0) 12 then deliverIrq s4 x.irq else s4

/-- The address of block n of a ring (R358). -/
def blockAt (x : Ring) (n : Nat) : Nat := x.base + 64 * (n % 2 ^ x.log2)

/-- The bytes of block n as memory holds them. -/
def blockBytes64 (s : State) (x : Ring) (n : Nat) : List PByte := physRead s (blockAt x n) 64

/-- The eight words of a block and whether it is poison. A block written to since its doorbell gives the undefined results of R11:
its words are free (R358). -/
def blockWords (s : State) (r : Nat) (x : Ring) (n : Nat) : List W64 × Bool :=
  let d := blockBytes64 s x n
  if x.seen.any fun b => b.1 == n % 2 ^ 32 && b.2 != d.map Prod.fst then
    ((List.range 8).map fun i => Config.freeWord (2 ^ 93 + ((r * 2 ^ 32 + n % 2 ^ 32) * 8 + i)), false)
  else ((chunk 8 8 d).map fun l => BitVec.ofNat 64 (leNat (l.map Prod.fst)), d.any Prod.snd)

/-- What the blocks between HEAD and a new TAIL hold when the doorbell is accepted: those below the last TAIL as they were seen
then. (log 123 DEDUCED) -/
def seeBlocks (s : State) (x : Ring) (tail : Nat) : List (Nat × List Byte) :=
  (List.range ((tail + 2 ^ 32 - x.head) % 2 ^ 32)).map fun i =>
    let n := (x.head + i) % 2 ^ 32
    match x.seen.find? fun b => b.1 == n with
    | some b => b
    | none => (n, (blockBytes64 s x n).map Prod.fst)

/-- Blocks between HEAD and TAIL. -/
def ringLen (x : Ring) : Nat := (x.tail + 2 ^ 32 - x.head) % 2 ^ 32

/-- The command at HEAD of a ring, whole below TAIL (R359), and whether a block of it is poison. -/
def headCmd (s : State) (r : Nat) : Option (RingCmd × Bool) :=
  let x := ringOf s r
  if x.st != .active || x.cur.isSome || ringLen x == 0 || !powered s then none else
  let h := blockWords s r x x.head
  let chain := if h.2 then 0 else bits ((h.1.getD 0 0).toNat) 9 8
  if ringLen x < 1 + chain then none else
  let bs := (List.range (1 + chain)).map fun i => blockWords s r x (x.head + i)
  some ({ idx := x.head, words := bs.flatMap Prod.fst }, bs.any Prod.snd)

/-- A ring has a command in progress, or blocks to serve. -/
def ringPending (x : Ring) : Bool := x.st == .active && (x.cur.isSome || ringLen x != 0)

/-- The place in the order of doorbells of the oldest one that a ring has not served. (log 124 DEDUCED) -/
def doorOrder (x : Ring) : Nat := match x.doors with | d :: _ => d.2 | [] => 0

/-- A command processor is held in reset by its containment, or RETIRED (R20, R377). -/
def cpOut (s : State) (d : Nat) : Bool := sget false s.contain.out (11 * 4096 + d) || sget false s.contain.retired (11 * 4096 + d)

/-- The ring is in service (R369): its processor keeps 256 rings in service at once, those with a command in progress and then the
rings with the oldest doorbells; further ones wait. (log 124 DEDUCED) -/
def ringServed (s : State) (r : Nat) : Bool :=
  let x := ringOf s r
  !cpOut s (ringDie s r) && decide (((s.rings.filter fun e => e.1 != r && ringPending e.2 && ringDie s e.1 == ringDie s r
    && (e.2.cur.isSome || decide (doorOrder e.2 < doorOrder x))).length) < 256)

/-- The next command that a ring in service starts. (log 123 DEDUCED; log 124 DEDUCED) -/
def nextCmd (s : State) (r : Nat) : Option (RingCmd × Bool) := if ringServed s r then headCmd s r else none

/-- The processor has copied a command: HEAD goes past it and is written to HEAD_ADDR (R355, R358). -/
def takeCmd (s : State) (r : Nat) (c : RingCmd) : State :=
  let h := (c.idx + c.words.length / 8) % 2 ^ 32
  let s1 := modRing s r fun y => { y with
    head := h, cur := some c,
    doors := y.doors.filter fun d => decide ((d.1 + 2 ^ 32 - h) % 2 ^ 32 ≤ 2 ^ 16 ∧ d.1 ≠ h)
    seen := y.seen.filter fun b => decide ((b.1 + 2 ^ 32 - h) % 2 ^ 32 < 2 ^ 16) }
  let x := ringOf s r
  if x.headAddr = 0 then s1 else physWrite s1 x.headAddr (leBytes 8 h)

/-- The CHAIN that an opcode requires is there (R361). -/
def chainOk (c : RingCmd) : Bool :=
  let n := bits (cW c 3) 7 0
  if cOp c = 1 then decide (cChain c ≤ 1)
  else if cOp c = 2 ∨ cOp c = 3 then cChain c == (n - 32 + 63) / 64
  else cChain c == 0

/-- Fields that every command reserves (R360). -/
def headBad (c : RingCmd) : Bool :=
  bits (cW c 0) 31 14 != 0 || cFence c == 3 || (bitAt (cW c 0) 13 && cOp c != 1) || bits (cW c 1) 63 57 != 0 || cComp c % 16 != 0

/-- A command waits for earlier writes of its context: a completion under FLAG for all of them (R218), an inline payload for
those before a fence (R217). A LAUNCH completes later. -/
def cmdWaits (s : State) (r : Nat) (c : RingCmd) : Bool :=
  let x := ringOf s r
  !x.priv && ((cFence c == 2 && cOp c != 1 && earlierWrites s x.ctx s.stamp)
    || ((cOp c == 2 || cOp c == 3) && fenceHolds s x.ctx s.stamp))

/-- Runs the command at the head of a ring when it is the given opcode with the CHAIN stated: poison, reserved fields and the
record's place are checked before the command's own work. -/
def runCmd (s : State) (r op : Nat) (work : State → Ring → RingCmd → State) : State :=
  match nextCmd s r with
  | none => s
  | some (c, true) => complete (takeCmd s r c) r 9 0 (ringOf s r).ctx 0
  | some (c, false) =>
    if cOp c ≠ op ∨ !chainOk c ∨ cmdWaits s r c then s else
    let s1 := takeCmd s r c
    let x := ringOf s1 r
    if headBad c then complete s1 r 1 0 x.ctx 0
    else if !compOk s1 x c then complete (modRing s1 r fun y => { y with cur := some { c with words := c.words.set 1 0 } }) r 7 0 x.ctx 0
    else work s1 x c

/-- Operand words that are not the opcode's are reserved. -/
def wordsZero (c : RingCmd) (l : List Nat) : Bool := l.all fun i => cW c i == 0

/-- CMD_NOP. -/
def execCmdNop (ring : Nat) (s : State) : Host.Outcome State Fault Refusal :=
  ok (runCmd s ring 0 fun t x c =>
    if wordsZero c [2, 3, 4, 5, 6, 7] then complete t ring 0 0 x.ctx 0 else complete t ring 1 0 x.ctx 0)

/-- CMD_UNKNOWN_OPCODE: an opcode that is not listed, or a CHAIN that is not the one stated. -/
def execCmdUnknownOpcode (ring : Nat) (s : State) : Host.Outcome State Fault Refusal :=
  ok (match nextCmd s ring with
    | some (c, false) =>
      if 6 < cOp c ∨ !chainOk c then complete (takeCmd s ring c) ring 1 0 (ringOf s ring).ctx 0 else s
    | _ => s)

/-! ### LAUNCH (R362, R363) -/

/-- The header of a stream is refused (R192). (log 86 DEDUCED) -/
def headerBad (s : State) (x : Ctx) (h : List Byte) (code : List Byte) : Bool :=
  let n (o k : Nat) : Nat := leNat ((h.drop o).take k)
  n 0 2 != 1 || n 2 2 != 0 || n 4 4 == 0 || decide (2 ^ 24 < n 4 4) || n 24 1 % 32 == 0 || decide (16 < n 24 1 % 32)
    || bits (n 24 8) 63 6 != 0 || n 40 24 != 0 || n 32 8 != crc64 0 code || decide (od s 0x5110 1 < n 16 4)
    || decide (x.sched.qlen < n 24 1 % 32) || (bitAt (n 24 1) 5 && !x.sched.fullSave)

/-- One stream's header is checked: STREAM, ACCESS, or its WORST_WAVES. (log 86 DEDUCED) -/
def checkHeader (s : State) (c hdr : Nat) : Except Nat Nat × State :=
  if hdr % 64 ≠ 0 then (.error 4, s) else
  match uRead s c hdr 64 with
  | (none, t) => (.error 7, t)
  | (some d, t) =>
    let h := d.map Prod.fst
    let n := leNat ((h.drop 4).take 4)
    if d.any Prod.snd || n == 0 || decide (2 ^ 24 < n) then (.error 4, t) else
    match uRead t c (hdr + 64) (8 * n) with
    | (none, u) => (.error 7, u)
    | (some code, u) =>
      if code.any Prod.snd || headerBad u (ctxOf u c) h (code.map Prod.fst) then (.error 4, u)
      else (.ok (leNat ((h.drop 8).take 8)), u)

/-- The headers of the logical engines of a gang: the largest WORST_WAVES, or the status and the logical engine refused. -/
def checkHeaders (s : State) (c : Nat) (hdrs : List Nat) : List Nat → Except (Nat × Nat) Nat × State
  | [] => (.ok 0, s)
  | le :: r =>
    match checkHeader s c (hdrs.getD le 0) with
    | (.error st, t) => (.error (st, le), t)
    | (.ok w, t) =>
      match checkHeaders t c hdrs r with
      | (.ok v, u) => (.ok (max w v), u)
      | (.error e, u) => (.error e, u)

/-- Offsets from HEAD at which the LAUNCHes that a ring holds end (fuel: its blocks). (log 86 DEDUCED) -/
def launchEnds (s : State) (r : Nat) (x : Ring) : Nat → Nat → List Nat
  | 0, _ => []
  | f + 1, o =>
    if ringLen x ≤ o then [] else
    let h := blockWords s r x (x.head + o)
    let n := if h.2 then 1 else 1 + bits ((h.1.getD 0 0).toNat) 9 8
    let rest := launchEnds s r x f (o + n)
    if !h.2 && bits ((h.1.getD 0 0).toNat) 7 0 == 1 && decide (o + n ≤ ringLen x) then (o + n) :: rest else rest

/-- The place in the order of doorbells of the one that covered blocks up to an offset from HEAD. -/
def coverOf (x : Ring) (off : Nat) : Option Nat :=
  (x.doors.find? fun d => decide (off ≤ (d.1 + 2 ^ 32 - x.head) % 2 ^ 32)).map Prod.snd

/-- No other ring of the context holds a LAUNCH whose doorbell was accepted earlier (R362). (log 88 DEDUCED) -/
def launchTurn (s : State) (r : Nat) : Bool :=
  let x := ringOf s r
  let c := headCmd s r
  match coverOf x (match c with | some (y, _) => y.words.length / 8 | none => 1) with
  | none => true
  | some me =>
    !(s.rings.any fun e => e.1 != r && !e.2.priv && e.2.ctx == x.ctx && e.2.st == .active && e.2.cur.isNone
      && (launchEnds s e.1 e.2 (ringLen e.2) 0).any fun o => match coverOf e.2 o with | some k => decide (k < me) | none => false)

/-- CMD_LAUNCH: waits while the paddock is STOPPED or another LAUNCH has the context; else headers are checked, the budget is
debited, and the context becomes RUNNABLE. (log 86 DEDUCED) -/
def execCmdLaunch (ring : Nat) (s : State) : Host.Outcome State Fault Refusal :=
  ok (
    let x0 := ringOf s ring
    let k := ctxOf s x0.ctx
    if !x0.priv && k.admitted && ((padOf s k.paddock).st == .stopped || k.launch.isSome || !launchTurn s ring) then s else
    runCmd s ring 1 fun t x c =>
      let k := ctxOf t x.ctx
      let clear := bitAt (cW c 0) 13
      if x.priv || bits (cW c 2) 63 57 != 0 || bits (cW c 3) 63 1 != 0 || (cChain c == 1 && !wordsZero c [12, 13, 14, 15]) then
        complete t ring 1 0 x.ctx 0
      else if !k.admitted then complete t ring 3 3 x.ctx 0
      else if k.st == .stranded then complete t ring 3 2 x.ctx 0
      else if k.faulted && !clear then complete t ring 3 1 x.ctx 0
      else
        let table := bitAt (cW c 3) 0
        let kern := bits (cW c 2) 56 0
        match (if table then uRead t x.ctx kern 64 else (some [], t)) with
        | (none, u) => complete u ring 7 0 x.ctx 0
        | (some d, u) =>
          let hdrs := (List.range 8).map fun i => if table then leNat (((d.drop (8 * i)).take 8).map Prod.fst) else kern
          match checkHeaders u x.ctx hdrs (maskList 8 k.sched.leMask) with
          | (.error (st, le), v) => complete v ring st (if st = 4 then le else 0) x.ctx 0
          | (.ok worst, v) =>
            let args := (List.range 4).map (fun i => c.words.getD (4 + i) 0)
              ++ (List.range 4).map fun i => if cChain c = 1 then c.words.getD (8 + i) 0 else 0
            let short := k.acct.guar = 1 ∧ k.acct.budget < worst
            let v1 := modCtx v x.ctx fun y => { y with
              faulted := false, unrec := false, st := .runnable,
              acct := if y.acct.guar != 1 then y.acct
                else if y.acct.budget < worst then { y.acct with guar := 2 }
                else { y.acct with budget := y.acct.budget - worst },
              launch := some { ring := ring, hdrs := hdrs, args := args, billed0 := y.acct.billed } }
            if short then note v1 8 4 2 12 x.ctx [BitVec.ofNat 64 worst] else v1)

/-- Ends a context's streams on its gang: engines that still run are stopped. (log 89 DEDUCED) -/
def endStreams (s : State) (c : Nat) : State :=
  (gang (ctxOf s c)).foldl (fun t ge => modEng t ge fun e =>
    if holds e c ∧ e.seq.state ≠ .faulted then
      { e with seq := { e.seq with state := .idle, wait := .none, preemptReq := false } } else e) s

/-- The first engine of the gang that is faulted, with its CODE and SOURCE, as RESULT gives them (R367). (log 89 DEDUCED) -/
def faultResult (s : State) (c : Nat) : Nat :=
  match (gang (ctxOf s c)).find? fun ge => holds (eng s ge) c && (eng s ge).seq.state == .faulted with
  | some ge => ge + 2 ^ 10 * (eng s ge).seq.faultCode + 2 ^ 18 * (eng s ge).seq.faultSource
  | none => 0

/-- A context's LAUNCH ends with a status; the context leaves its gang. (log 89 DEDUCED) -/
def finishLaunch (s : State) (c status detail result : Nat) : State :=
  match (ctxOf s c).launch with
  | none => s
  | some l =>
    let s1 := modCtx s c fun y => { y with launch := none }
    let s2 := if (ctxOf s c).onGang then leaveGang s1 c else
      modCtx s1 c fun y => { y with st := if y.st == .stranded then .stranded else if y.faulted then .faulted else .idle }
    complete s2 l.ring status detail c result

/-- The LAUNCH of a ring completes under FLAG, and an earlier write of its context is not complete (R218). -/
def flagWaits (s : State) (ctx r : Nat) : Bool :=
  match (ringOf s r).cur with
  | some c => cFence c == 2 && earlierWrites s ctx s.stamp
  | none => false

/-- LAUNCH_COMPLETE: every engine of the gang has ended its stream, or the context has faulted (R182, R363). -/
def execLaunchComplete (ctx : Nat) (s : State) : Host.Outcome State Fault Refusal :=
  ok (
    let x := ctxOf s ctx
    match x.launch with
    | none => s
    | some l =>
      if !powered s || flagWaits s ctx l.ring then s
      else if x.faulted then finishLaunch (endStreams s ctx) ctx 5 0 (faultResult s ctx)
      else if l.started && x.onGang && (gang x).all (fun ge => (eng s ge).seq.state == .idle) then
        finishLaunch s ctx 0 0 (x.acct.billed - l.billed0).toNat
      else s)

/-! ### WRITE, CMB, WAIT (R364, R365) -/

/-- The payload beyond LENGTH is zero. -/
def tailZero (c : RingCmd) (n : Nat) : Bool := ((cPayload c).drop n).all fun b => b == 0

/-- CMD_WRITE. -/
def execCmdWrite (ring : Nat) (s : State) : Host.Outcome State Fault Refusal :=
  ok (runCmd s ring 2 fun t x c =>
    let n := bits (cW c 3) 7 0
    if n = 0 ∨ 224 < n ∨ bits (cW c 3) 63 8 ≠ 0 ∨ bits (cW c 2) 63 57 ≠ 0 ∨ !tailZero c n then complete t ring 1 0 x.ctx 0
    else match cpPieces t x (bits (cW c 2) 56 0) n with
      | (none, u) => complete u ring 7 0 x.ctx 0
      | (some l, u) => complete (cpWrite u x l (((cPayload c).take n).map (·, false))) ring 0 0 x.ctx 0)

/-- The refusal of a home as DETAIL gives it (R364). -/
def cmbDetail (r : CmbRes) : Nat := match r with | .late => 1 | .early => 2 | _ => 3

/-- Every piece lies in one region, or none in any: a payload that leaves its region is refused before any of it is applied (R110,
R360). (log 138 DEDUCED) -/
def oneRegion (s : State) (l : List Piece) : Bool :=
  l.all fun p => (cmbFind s p.a).map Prod.fst == (l.head?.bind fun q => cmbFind s q.a).map Prod.fst
    && l.all fun q => homeOf p.a == homeOf q.a

/-- Sends a payload as a contribution, piece by piece; the first refusal ends it. -/
def cpContribute (s : State) (l : List Piece) (d : List PByte) (epoch idx : Nat) : CmbRes × State :=
  match l with
  | [] => (.accepted, s)
  | p :: r =>
    match cmbFind s p.a with
    | none => (.early, s)
    | some (_, c) =>
      let k := if c.widen then p.n / 2 else p.n
      let x := cmbContribute s p.a (d.take k) (contribType c) epoch idx false
      if x.1 = .accepted then cpContribute x.2 r (d.drop k) epoch idx else x

/-- CMD_CMB. (log 138 DEDUCED) -/
def execCmdCmb (ring : Nat) (s : State) : Host.Outcome State Fault Refusal :=
  ok (runCmd s ring 3 fun t x c =>
    let n := bits (cW c 3) 7 0
    let dest := bits (cW c 2) 56 0
    let epoch := bits (cW c 3) 63 32
    let idx := bits (cW c 3) 15 8
    if x.priv || decide (n < 4 ∨ 224 < n) || bits (cW c 3) 31 17 != 0 || bits (cW c 2) 63 57 != 0 || !tailZero c n then
      complete t ring 1 0 x.ctx 0
    else
      match cPieces t none x.ctx dest 1 with
      | (.ok [p], u) =>
        let widen := match cmbFind u p.a with | some (_, e) => e.widen | none => false
        (match cPieces u none x.ctx dest (if widen then 2 * n else n) with
         | (.ok l, v) =>
           let y := if oneRegion v l then cpContribute v l (((cPayload c).take n).map (·, false)) epoch idx else (.refused, v)
           if y.1 ≠ .accepted then complete y.2 ring 8 (cmbDetail y.1) x.ctx 0
           else if bitAt (cW c 3) 16 then
             let z := cmbDone y.2 p.a epoch idx
             if z.1 = .accepted then complete (teamClose z.2 p.a) ring 0 0 x.ctx 0
             else complete z.2 ring 8 (cmbDetail z.1) x.ctx 0
           else complete y.2 ring 0 0 x.ctx 0
         | (.error _, v) => complete v ring 7 0 x.ctx 0)
      | (_, u) => complete u ring 7 0 x.ctx 0)

/-- The location of a WAIT as it reads now. -/
def waitValue (s : State) (x : Ring) (c : RingCmd) : Option (List PByte) × State := cpRead s x (bits (cW c 2) 56 0) 8

/-- CMD_WAIT: polling starts. -/
def execCmdWait (ring : Nat) (s : State) : Host.Outcome State Fault Refusal :=
  ok (runCmd s ring 4 fun t x c =>
    if bits (cW c 2) 63 57 ≠ 0 ∨ cW c 2 % 8 ≠ 0 ∨ bits (cW c 4) 63 32 ≠ 0 ∨ !wordsZero c [5, 6, 7] then complete t ring 1 0 x.ctx 0
    else match waitValue t x c with
      | (none, u) => complete u ring 7 0 x.ctx 0
      | (some _, u) => u)

/-- The WAIT that a ring has in progress. -/
def waiting (s : State) (r : Nat) : Option RingCmd :=
  match (ringOf s r).cur with
  | some c => if cOp c = 4 then some c else none
  | none => none

/-- CMD_WAIT_POLL. -/
def execCmdWaitPoll (ring : Nat) (s : State) : Host.Outcome State Fault Refusal :=
  ok (match waiting s ring with
    | none => s
    | some c =>
      match waitValue s (ringOf s ring) c with
      | (some d, t) =>
        if !d.any Prod.snd && decide (cW c 3 ≤ leNat (d.map Prod.fst)) then complete t ring 0 0 (ringOf s ring).ctx 0 else t
      | (none, t) => complete t ring 7 0 (ringOf s ring).ctx 0)

/-- CMD_WAIT_TIMEOUT. -/
def execCmdWaitTimeout (ring : Nat) (s : State) : Host.Outcome State Fault Refusal :=
  ok (match waiting s ring with
    | none => s
    | some c => if bits (cW c 4) 31 0 = 0 then s else complete s ring 10 0 (ringOf s ring).ctx 0)

/-! ### CREATE and DESTROY (R345, R347, R366) -/

/-- The context that a scheduling block describes. -/
def ctxOfBlock (s : State) (w : List W64) (seed : W64) : Ctx :=
  let v (i : Nat) : Nat := (w.getD i 0).toNat
  let g := bitAt (v 3) 16
  { seed := seed, paddock := bits (v 0) 6 0, admitted := true,
    sched := { paddock := bits (v 0) 6 0, fullSave := bitAt (v 0) 7, qlen := bits (v 0) 12 8, leMask := bits (v 0) 20 13,
               clusters := v 1 + 2 ^ 64 * bits (v 2) 31 0, weight := bits (v 3) 15 0, deadline := v 5 },
    acct := { guar := if g then 1 else 0, budget := v 4, admittedAt := s.ost.time } }

/-- The admission result of a scheduling block (R347), checked in the order of its table. (log 83 DEDUCED) -/
def admission (s : State) (w : List W64) (x : Ctx) : Nat :=
  let v (i : Nat) : Nat := (w.getD i 0).toNat
  let pad := padOf s x.paddock
  let all := admitted s ++ [(4096, x)]
  if bits (v 0) 63 21 ≠ 0 ∨ bits (v 2) 63 32 ≠ 0 ∨ bits (v 3) 63 17 ≠ 0 ∨ v 6 ≠ 0 ∨ v 7 ≠ 0 ∨ 95 < x.paddock ∨ x.sched.qlen = 0
      ∨ 16 < x.sched.qlen ∨ x.sched.weight = 0 ∨ (x.acct.guar = 0 ∧ (v 4 ≠ 0 ∨ v 5 ≠ 0)) then 1
  else if x.sched.leMask = 0 ∨ x.sched.clusters = 0 ∨ x.sched.clusters &&& pad.mask ≠ x.sched.clusters then 2
  else if x.sched.fullSave ∧ (x.sched.qlen ≠ 16 ∨ 2 ≤ ((padCtxs s x.paddock).filter fun e => e.2.sched.fullSave).length) then 3
  else if !allGuarantees s all then 4
  else if x.acct.guar = 1 ∧ floorBreach s then 5
  else if pad.st = .unused ∨ pad.st = .draining then 6
  else if !saveRoom s all then 7
  else if 4096 ≤ (admitted s).length then 8
  else 0

/-- The lowest free context number. -/
def freeCtx (s : State) : Nat := ((List.range 4096).find? fun c => !(ctxOf s c).admitted).getD 0

/-- The valid device context that memory holds for a context number has a Bare first stage, or one the engine translation agent
does not implement (R206). -/
def bareDc (s : State) (c : Nat) : Bool :=
  match readDc s 0 c with
  | .ok w => bitAt (w.getD 0 0).toNat 0 && !modeOk 0 (bits (w.getD 3 0).toNat 63 60) true
  | .error _ => false

/-- CMD_CREATE: the context is admitted IDLE and not resident. (log 83 DEDUCED) -/
def execCmdCreate (ring : Nat) (s : State) : Host.Outcome State Fault Refusal :=
  ok (runCmd s ring 5 fun t x c =>
    let a := bits (cW c 2) 43 0
    if !x.priv then complete t ring 2 0 x.ctx 0
    else if bits (cW c 2) 63 44 ≠ 0 ∨ a % 64 ≠ 0 ∨ !wordsZero c [4, 5, 6, 7] then complete t ring 1 0 0 0
    else if (canon t.map a).isNone then complete t ring 7 0 0 0
    else
      let d := physRead t a 64
      let w := (chunk 8 8 d).map fun l => BitVec.ofNat 64 (leNat (l.map Prod.fst))
      let k := ctxOfBlock t w (c.words.getD 3 0)
      let res := if d.any Prod.snd then 1 else if admission t w k ≠ 0 then admission t w k else if bareDc t (freeCtx t) then 1 else 0
      if res ≠ 0 then complete t ring 6 res 0 0
      else
        let n := freeCtx t
        let seq := (ctxOf t n).acct.seq
        let u := { t with ctxs := sset {} t.ctxs n { k with acct := { k.acct with seq := seq } } }
        complete (writeAccount u n) ring 0 0 n n)

/-- Completes with CANCELLED the LAUNCHes of a context that have not started or run. -/
def cancelLaunches (s : State) (c : Nat) : State :=
  let s1 := match (ctxOf s c).launch with
    | some l => complete (modCtx (endStreams s c) c fun y => { y with launch := none }) l.ring 11 0 c 0
    | none => s
  ((s1.rings.filter fun e => !e.2.priv && e.2.ctx == c).map Prod.fst).foldl (fun t r =>
    match headCmd t r with
    | some (k, false) => if cOp k = 1 then complete (takeCmd t r k) r 11 0 c 0 else t
    | _ => t) s1

/-- Destroys a context (R366): launches cancelled, postings withdrawn, engines, save areas and rings released.
 (log 88 DEDUCED) -/
def destroyCtx (s : State) (c : Nat) : State :=
  let s1 := cancelLaunches s c
  let s2 := (s1.rly.posts.filter fun p => p.ctx == c).foldl cancelPost s1
  let x := ctxOf s2 c
  let s3 := writeAccount s2 c
  let s4 := (gang x).foldl (fun t ge =>
    let e := eng t ge
    let e1 := match x.resident with | some q => (cutSpad e q x.sched.qlen).1 | none => e
    let e2 := if holds e c then { clearEngine e1 with ftq := (holdFinished e1 c).ftq } else e1
    setEng t ge e2) s3
  let s5 := { s4 with
    rings := smapAll {} (fun _ r => if !r.priv && r.ctx == c then { r with st := .disabled, cur := none } else r) s4.rings,
    claims := s4.claims.filter fun (e : Nat × Nat) => e.2 != c + 1,
    harn := { s4.harn with reached := s4.harn.reached.filter fun e => e.1 / 64 != c } }
  { s5 with ctxs := sset {} s5.ctxs c { acct := { seq := (ctxOf s5 c).acct.seq } } }

/-- The context that a ring's next command destroys, where its streams have not stopped yet. (log 88 DEDUCED) -/
def destroyRuns (s : State) (r : Nat) : Option Nat :=
  match nextCmd s r with
  | some (c, false) =>
    let n := bits (cW c 2) 11 0
    let x := ctxOf s n
    if cOp c = 6 ∧ (ringOf s r).priv = true ∧ x.admitted = true ∧ x.onGang = true
        ∧ ((gang x).any fun ge => !engStopped s n ge || (holds (eng s ge) n && !quiet (eng s ge))) = true then some n else none
  | _ => none

/-- CMD_DESTROY: streams that run are stopped first as at a paddock stop, and the command waits for that (R348, R366).
 (log 88 DEDUCED) -/
def execCmdDestroy (ring : Nat) (s : State) : Host.Outcome State Fault Refusal :=
  ok (match destroyRuns s ring with
  | some n => preempt s n
  | none => runCmd s ring 6 fun t x c =>
    let n := bits (cW c 2) 11 0
    if !x.priv then complete t ring 2 0 x.ctx 0
    else if bits (cW c 2) 63 12 ≠ 0 ∨ !wordsZero c [3, 4, 5, 6, 7] then complete t ring 1 0 0 0
    else if !(ctxOf t n).admitted then complete t ring 3 3 n 0
    else complete (destroyCtx t n) ring 0 0 n 0)

/-! ### Rings (R355 to R359) -/

/-- The address of a ring's doorbell granule (R357). -/
def doorAddr (r : Nat) : Nat := 0xF0100000000 + 0x1000 * r

/-- The reserved half of a doorbell keeps what an 8-byte write leaves there (R10, R357). -/
def doorKeep (s : State) (ring width : Nat) (w : W64) : State :=
  if width = 8 then { s with mmio := { s.mmio with store := sset 0 s.mmio.store (doorAddr ring) (w &&& 0xFFFFFFFF00000000) } } else s

/-- DOORBELL: a write of TAIL, of 4 or 8 bytes (R358). -/
def execDoorbell (ring : Nat) (d : WriteWord) (s : State) : Host.Outcome State Fault Refusal :=
  ok (
    let x := ringOf s ring
    let v := d.v.toNat % 2 ^ 32
    if x.st = .disabled ∨ x.disabling then s else
    let s := doorKeep s ring d.width d.v
    if (v + 2 ^ 32 - x.head) % 2 ^ 32 ≤ 2 ^ x.log2 then
      let s1 := modRing { s with stamp := s.stamp + 1 } ring fun y =>
        { y with tail := v, doors := y.doors ++ [(v, s.stamp)], seen := seeBlocks s x v }
      modCtl s1 (ringDie s ring) fun y => { y with doorbells := y.doorbells + 1 }
    else
      let s1 := modRing s ring fun y => { y with tailError := true }
      note { s1 with hosts := { s1.hosts with tailErrors := s1.hosts.tailErrors + 1 } } 9 1 1 11 (ringDie s ring)
        [BitVec.ofNat 64 ring, BitVec.ofNat 64 v])

/-- DOORBELL_CONTINUE. -/
def execDoorbellContinue (ring : Nat) (s : State) : Host.Outcome State Fault Refusal :=
  ok (if (ringOf s ring).st = .halted then modRing s ring fun y => { y with st := .active, tailError := false } else s)

/-- The RESET operation (R356): HEAD is TAIL, and the ring is ACTIVE; a command in progress completes. -/
def resetRing (s : State) (r : Nat) : State :=
  modRing s r fun y => { y with head := y.tail, tailError := false, st := .active, doors := [], seen := [] }

/-- DOORBELL_RESET. -/
def execDoorbellReset (ring : Nat) (s : State) : Host.Outcome State Fault Refusal :=
  ok (if (ringOf s ring).st = .disabled then s else resetRing s ring)

/-- RING and OP of a RING_CTL word, its reserved fields. -/
def ctlRing (w : W64) : Nat := bits w.toNat 14 0
def ctlOp (w : W64) : Nat := bits w.toNat 17 16
def ctlBad (w : W64) : Bool := bitAt w.toNat 15 || bits w.toNat 62 18 != 0

/-- A RING_CTL operation: its RESULT and state, when the word is written with GO and its OP is the given one. -/
def ringOp (s : State) (die op : Nat) (w : W64) (f : State → Nat → Nat × State) : State :=
  if !bitAt w.toNat 63 || ctlOp w != op then s else
  let s0 := modCtl s die fun y => { y with word := w &&& 0x7FFFFFFFFFFFFFFF }
  let r := if ctlBad w then (1, s0) else f s0 (ctlRing w)
  modCtl r.2 die fun y => { y with result := r.1 }

/-- The words of a ring's table entry (R355). -/
def ringEntry (s : State) (r : Nat) : List Nat := (List.range 8).map fun i => physNat s (od s 0x1200 1 + 64 * r + 8 * i) 8

/-- RING_ENABLE. -/
def execRingEnable (die : Nat) (w : W64) (s : State) : Host.Outcome State Fault Refusal :=
  ok (ringOp s die 1 w fun t r =>
    if od t 0x1200 1 = 0 then (5, t) else
    let e := ringEntry t r
    let v (i : Nat) : Nat := e.getD i 0
    let priv := bitAt (v 0) 49
    let lg := bits (v 0) 48 44
    let c := bits (v 1) 11 0
    let pad := padOf t (ctxOf t c).paddock
    let inPad (p : Pad) : Bool := decide (p.ringFirst ≤ r ∧ r < p.ringFirst + p.ringCount)
    if bits (v 0) 63 50 ≠ 0 ∨ bits (v 0) 11 0 ≠ 0 ∨ bits (v 1) 63 15 ≠ 0 ∨ bits (v 2) 63 44 ≠ 0 ∨ v 2 % 8 ≠ 0 ∨ bits (v 3) 63 22 ≠ 0
        ∨ v 4 ≠ 0 ∨ v 5 ≠ 0 ∨ v 6 ≠ 0 ∨ v 7 ≠ 0 ∨ lg < 4 ∨ 16 < lg then (2, t)
    else if (ringOf t r).st ≠ .disabled then (4, t)
    else if !priv && (!(ctxOf t c).admitted || !inPad pad) then (3, t)
    else if priv && (t.pads.any (fun p => inPad p.2) || dieRetired t.map (bits (v 1) 14 12)) then (3, t)
    else
      let x : Ring := {
        st := .active, base := bits (v 0) 43 0, log2 := lg, priv := priv, ctx := c, die := bits (v 1) 14 12,
        headAddr := bits (v 2) 43 0, irq := bits (v 3) 31 0 }
      (0, { t with rings := sset {} t.rings r x }))

/-- RING_DISABLE: with a command in progress the ring is DISABLED when it completes. -/
def execRingDisable (die : Nat) (w : W64) (s : State) : Host.Outcome State Fault Refusal :=
  ok (ringOp s die 2 w fun t r =>
    let x := ringOf t r
    if x.st = .disabled then (4, t)
    else if x.cur.isSome then (0, modRing t r fun y => { y with disabling := true, head := y.tail, doors := [], seen := [] })
    else (0, modRing t r fun y => { y with st := .disabled, head := y.tail, doors := [], seen := [] }))

/-- RING_CTL_RESET. -/
def execRingCtlReset (die : Nat) (w : W64) (s : State) : Host.Outcome State Fault Refusal :=
  ok (ringOp s die 3 w fun t r => if (ringOf t r).st = .disabled then (4, t) else (0, resetRing t r))

/-! ### Host dies (R228, R352, R371) -/

/-- An agent's lines leave its caches and its write-back buffers: written back, or lost and then poison (R228).
 (log 90 DESIGN CHOICE) -/
def flushAgent (s : State) (a : Nat) (lost : List Nat) : State :=
  let keys := ((s.harn.lines.map Prod.fst) ++ s.harn.wb.map Prod.fst).eraseDups
  (keys.filter fun k => k / 2 ^ 38 == a).foldl (fun t k =>
    let l := k % 2 ^ 38
    let gone (u : State) : State := modHarn (dropCopy u a l) fun h => { h with
      wb := sset none h.wb (ckey a l) none, puts := h.puts.filter fun p => !(p.1 == a && p.2.1 == l) }
    if lost.contains l then gone (loseLine t a l) else loseLine (gone (writeBack t a l)) a l) s

/-- A host die enters reset (R228, R352). (log 90 DESIGN CHOICE) -/
def resetHostDie (s : State) (d : Nat) (lost : List Nat) : State :=
  let s1 := loseAgent (flushAgent s (96 + d) lost) (96 + d)
  note { s1 with hosts := { s1.hosts with dieReset := sset false s1.hosts.dieReset d true } } 14 1 3 5 d []

/-- HOST_DIE_RESET: a write of host_die_reset. -/
def execHostDieReset (die : Nat) (lost : List Nat) (s : State) : Host.Outcome State Fault Refusal :=
  ok (if 1 < die then abortWith s aRANGE else abortWith (resetHostDie s die lost) aNONE)

/-- A line leaves a core's L2 (R228): its dirty data is written back, or lost and then poison; the die keeps the line where another of
its cores holds it. (log 90 DESIGN CHOICE) -/
def leaveL2 (s : State) (core line : Nat) (lost : List Nat) : State :=
  let a := agentOfCore core
  let dirty := l2Of s core line == some .m || l2Of s core line == some .o
  let others := !(l2Others s core line).isEmpty
  let s1 := modHarn s fun h => { h with l2 := sset none h.l2 (ckey core line) none }
  if dirty && lost.contains line then dropCopy (loseLine s1 a line) a line
  else
    let s2 := if dirty then writeBack s1 a line else s1
    if !others then loseLine (dropCopy s2 a line) a line
    else if !dirty then s2
    else
      let clean (c : CLine) : CLine := { c with st := if c.st = .m then .e else .s }
      let s3 := modHarn s2 fun h => { h with lines := smod none h.lines (ckey a line) fun c => c.map clean }
      match dirEnt s3 line with
      | some e => if e.dstate = .o then setDir s3 line (some (addSharer s3.map (homeOf (line * 64)) a { e with dstate := .s, owner := 127 })) else s3
      | none => s3

/-- A host core resets: its L2 is written back, and it starts at the host boot path. (log 90 DESIGN CHOICE) -/
def resetHostCore (s : State) (h : Nat) (lost : List Nat) : State :=
  let mine := ((s.harn.l2.map Prod.fst).filter fun k => k / 2 ^ 38 == h).map (· % 2 ^ 38)
  let s1 := mine.foldl (fun t l => leaveL2 t h l lost) s
  let s2 := modHarn s1 fun x => { x with resv := x.resv.filter fun r => r.1 != h, lrDefer := x.lrDefer.filter fun r => r.1 != h }
  note s2 14 2 2 5 (h / 48) [BitVec.ofNat 64 h]

/-- HOST_CORE_RESET: a write of host_core_reset. What is not written back in time is lost as what fails is (R228). -/
def execHostCoreReset (hart : Nat) (late failed : List Nat) (s : State) : Host.Outcome State Fault Refusal :=
  ok (if 95 < hart then abortWith s aRANGE else abortWith (resetHostCore s hart (late ++ failed)) aNONE)

/-- preserve_status of the descriptor in memory (R371). -/
def preserveStatus (s : State) : Nat :=
  let a := od s 0x4020 3
  if a = 0 then 0 else
  let d := physRead s a 64
  let w (i : Nat) : Nat := leNat (((d.drop (8 * i)).take 8).map Prod.fst)
  let n := bits (w 3) 12 0
  let ents := physRead s (a + 64) (32 * n)
  let entBad (b : List PByte) : Bool :=
    let v (i : Nat) : Nat := leNat (((b.drop (8 * i)).take 8).map Prod.fst)
    bits (v 0) 63 43 != 0 || bits (v 2) 63 57 != 0 || v 3 != 0
  if d.any Prod.snd || ents.any Prod.snd || !bitAt (w 7) 63 || bits (w 7) 62 32 != 0 || w 0 != 1 || bits (w 2) 63 44 != 0
      || bits (w 3) 63 13 != 0 || decide (4096 < n) || w 5 != 0 || w 6 != 0 || w 4 != crc64 0 (ents.map Prod.fst)
      || (chunk 32 n ents).any entBad then 3
  else if w 1 = s.boot.bootId.toNat then 1
  else 2

/-- A host die leaves reset (R371, R471): the Ostler checks the preservation descriptor and reports. -/
def exitHostDie (s : State) (d : Nat) : State :=
  let p := preserveStatus s
  note { s with hosts := { s.hosts with
      dieReset := sset false s.hosts.dieReset d false,
      coreReset := s.hosts.coreReset.filter fun e => e.1 / 48 != d, preserve := p } } 14 3 1 5 d [BitVec.ofNat 64 p]

/-- HOST_DIE_RESET_EXIT. -/
def execHostDieResetExit (die : Nat) (s : State) : Host.Outcome State Fault Refusal :=
  ok (if sget false s.hosts.dieReset die then exitHostDie s die else s)

end Sys2Proof.Machine
end

