-- ==== Sys2Proof/Machine/Registers.lean ====
section
/-! DEFINITION. The records that the Studbook holds (R446, R450, R457, R459), and the registers of MMIO as a host core reads and
writes them (R10, R92, R201, R202). -/

namespace Sys2Proof.Machine

/-! ### Records -/

/-- The primary recorder (R446). -/
def primary (s : State) : Nat := if bitAt s.book.failed s.ost.active then 1 - s.ost.active else s.ost.active

/-- The record in a slot of a recorder. -/
def recAt (s : State) (rc slot : Nat) : Option Rec := sget none s.book.ring (rc * 16384 + slot)

/-- The records that the primary holds, by ascending SEQ. -/
def heldRecs (s : State) : List Rec :=
  ((s.book.ring.filter fun e => e.1 / 16384 == primary s).foldl (fun (m : SMap (Option Rec)) e =>
    match e.2 with | some r => sset none m r.seq (some r) | none => m) []).filterMap Prod.snd

/-- SEQ of the newest record held, and of the oldest; 0 with none. -/
def newestSeq (s : State) : Nat := ((heldRecs s).getLast?.map Rec.seq).getD 0
def oldestSeq (s : State) : Nat := ((heldRecs s).head?.map Rec.seq).getD 0

/-- The record that a reader at a cursor is given (R457). -/
def recFrom (s : State) (cursor : Nat) : Option Rec := (heldRecs s).find? fun r => decide (cursor ≤ r.seq)

/-- A record as bytes (R450). -/
def recBytes (r : Rec) : List Byte :=
  leBytes 8 r.seq ++ leBytes 8 r.time ++ leBytes 2 r.code ++ leBytes 1 r.sev ++ leBytes 1 r.words.length
    ++ leBytes 2 (r.unit % 4096 + 4096 * r.kind) ++ leBytes 2 r.suppressed ++ leBytes 4 r.step ++ leBytes 2 r.gen
    ++ leBytes 1 r.flags ++ leBytes 1 0x5A ++ (r.words.flatMap fun w => leBytes 8 w.toNat) ++ leBytes (8 * (28 - r.words.length)) 0

/-- A QVA-400 record (R459). -/
def qvaBytes (r : Rec) : List Byte :=
  leBytes 2 r.code ++ leBytes 1 r.sev ++ leBytes 1 1 ++ leBytes 4 (r.time / 1000)
    ++ (List.range 3).flatMap fun i => leBytes 8 (r.words.getD i 0).toNat

/-! ### Registers of an engine's control window -/

/-- What a read of a register gives: an access fault, a value that the manual does not state, or a word. -/
inductive RegRead where
  | absent
  | unstated
  | word (w : W64)
  deriving DecidableEq, Repr

/-- A word from a number. (log 91 DEDUCED) -/
def regN (n : Nat) : RegRead := .word (BitVec.ofNat 64 n)

/-- Something of the engine re-executes (R186, R187). (log 93 DEDUCED) -/
def reexecuting (e : Engine) : Bool := (List.range 4).any (arrReexec e) || e.chain.reexec
  || (match e.chain.cur with | some r => r.reexec | none => false)

/-- SEQ_STATUS (R195). (log 93 DEDUCED) -/
def seqStatus (e : Engine) : Nat :=
  let q := e.seq
  let st := match q.state with
    | .idle => 0 | .running => if reexecuting e then 6 else 1 | .waiting => if reexecuting e then 6 else 2
    | .yielding => if reexecuting e then 6 else 3 | .saved => 4 | .faulted => 5
  st + 8 * b2n q.overrun + 16 * b2n q.yieldLate + 32 * b2n q.preemptReq + 2 ^ 16 * q.context + 2 ^ 32 * q.issued.toNat

/-- QUEUE_STATUS (R195). (log 93 DEDUCED) -/
def queueStatus (e : Engine) : Nat :=
  ((List.range 4).map fun a => 8 ^ a * arrayDepth (arrOf e a)).sum + 2 ^ 12 * chainDepth e
    + 2 ^ 16 * ((List.range 4).map fun q => 128 ^ q * (sget [] e.units.mq q).length).sum + 2 ^ 44 * e.units.rly.length

/-- A bank holds a set whole: none is being written into it (R91). -/
def bankValid (x : Arr) (b : Nat) : Bool :=
  (bankOf x b).isSome && !x.loads.any fun l => l.bank == b && decide (0 < l.written ∧ l.written < 32)

/-- ARRAY_STATUS (R91). (log 134 DESIGN CHOICE) -/
def arrayStatus (s : State) (ge a : Nat) : Nat :=
  let x := arrOf (eng s ge) a
  let st := if x.hwPending then 6 else if x.stop = .packed then 5 else if x.stop = .stopped then 3
    else if x.pass.isSome || (x.run.isSome && !heldOff s ge) then 1 else if !x.rows.isEmpty || !x.drain.isEmpty then 2
    else if 0 < sget 0 s.rein (dieOfGe ge) then 4 else 0
  st + 8 * x.liveBank + 16 * b2n (bankValid x 0) + 32 * b2n (bankValid x 1) + 64 * x.modeBits + 2 ^ 8 * x.faultCode
    + 2 ^ 16 * (match x.pass with | some p => p.nextRow | none => 0) + 2 ^ 32 * x.passSeq.toNat

/-- A bit per slot that satisfies a condition. -/
def slotBits (n : Nat) (f : Nat → Bool) : Nat := ((List.range n).map fun i => if f i then 2 ^ i else 0).sum

/-- FORMAT_SLOT_STATUS (R41) and the curve slots' register (R146). -/
def formatStatus (e : Engine) : Nat := slotBits 32 (slotValid e) + 2 ^ 32 * slotBits 32 fun i => (sget {} e.fmt i).loaded
def curveStatus (e : Engine) : Nat :=
  slotBits 32 (fun i => (sget {} e.curves i).valid) + 2 ^ 32 * slotBits 32 fun i => (sget {} e.curves i).loaded

/-- The wave counters of an array (R92). -/
def arrCounter (c : Acc) (i : Nat) : W64 :=
  if i = 0 then c.validWaves else if i = 1 then c.bubbleDry else if i = 2 then c.bubbleDrain else c.bubbleLoad

/-- A register of an engine's control window. -/
def engineReg (s : State) (ge o : Nat) : RegRead :=
  let e := eng s ge
  let q := e.seq
  let shown := q.state == .idle || q.state == .saved || q.state == .faulted
  if o = 0x1000 then regN (seqStatus e)
  else if o = 0x1008 then .word q.pc
  else if o = 0x1010 then regN (q.faultCode + 2 ^ 8 * q.faultSource + 2 ^ 10 * q.faultArray + 2 ^ 16 * q.moreFaults)
  else if o = 0x1018 then .word q.faultPc
  else if o = 0x1020 then .word q.faultAddr
  else if o = 0x1028 then regN (q.qbase + 16 * q.qlen)
  else if o = 0x1030 then regN (queueStatus e)
  else if o = 0x1040 then .word e.cnt.streamWaves
  else if o = 0x1048 then .word e.cnt.extwaitWaves
  else if o = 0x1050 then .word e.cnt.reexecWaves
  else if o = 0x1058 then .word e.cnt.yieldGap
  else if 0x1100 ≤ o ∧ o < 0x1200 then .word (if shown then rdS e ((o - 0x1100) / 8) else 0)
  else if 0x1200 ≤ o ∧ o < 0x1A00 then .word (if shown then sget 0 e.desc ((o - 0x1200) / 8) else 0)
  else if o = 0x1C00 then regN (formatStatus e)
  else if 0x1D00 ≤ o ∧ o < 0x1E00 ∧ o % 0x40 = 0 then regN (arrayStatus s ge ((o - 0x1D00) / 0x40))
  else if 0x1E00 ≤ o ∧ o < 0x1E80 then .word (arrCounter (accOf e ((o - 0x1E00) / 0x20)) (o % 0x20 / 8))
  else if o = 0x1F00 then .word (chainStatus e.chain)
  else if o = 0x1F08 then regN (curveStatus e)
  else if o = 0x1F10 then .word e.chain.issueWaves
  else if o = 0x1F18 then .word e.chain.chainDry
  else if o = 0x1F20 then
    let v := slotBits 16 fun i => (sget none e.ftq i).isSome
    regN (popCount 16 v + 32 * v)
  else if 0x1F80 ≤ o ∧ o < 0x2000 then .word ((sget none e.ftq ((o - 0x1F80) / 8)).getD 0)
  else if 0x2000 ≤ o ∧ o < 0x2800 then .word (tileStatus (tileOf (accOf e ((o - 0x2000) / 0x200)) (o % 0x200 / 8)))
  else if 0x3000 ≤ o ∧ o < 0xB000 then
    let c := accOf e ((o - 0x3000) / 0x2000)
    let k := (o - 0x3000) % 0x2000 / 4
    regN ((sget 0 c.counts k).toNat + 2 ^ 32 * (sget 0 c.counts (k + 1)).toNat)
  else .unstated

/-! ### The other windows (R201) -/

/-- A register of a doorbell granule (R357); the rest of the page reads 0. -/
def doorReg (s : State) (pa r o : Nat) : RegRead :=
  let x := ringOf s r
  let st := match x.st with | .disabled => 0 | .active => 1 | .halted => 2
  if o = 0 then regN (x.tail + (sget 0 s.mmio.store pa).toNat / 2 ^ 32 * 2 ^ 32)
  else if o = 8 then regN x.head
  else if o = 0x10 then regN (st + 4 * b2n x.tailError)
  else if o = 0x18 then regN (x.haltIndex + 2 ^ 32 * x.haltStatus)
  else .word 0

/-- Bytes i to i + 7 of a buffer, as a number. -/
def bufWord (d : List Byte) (i : Nat) : Nat := leNat ((d.drop i).take 8)

/-- A register of a mailbox channel (R373). -/
def mailReg (s : State) (pa c o : Nat) : RegRead :=
  let x := sget {} s.dict.mail c
  if o = 0 then regN (2 * b2n x.busy + 4 * b2n x.done + bits (sget 0 s.mmio.store pa).toNat 15 3 * 8 + 2 ^ 16 * x.reqLen + 2 ^ 32 * x.respLen)
  else if o = 8 then regN (x.abort + 2 ^ 32 * (x.served % 2 ^ 32))
  else if o = 0x10 then regN x.irqTarget
  else if 0x100 ≤ o ∧ o < 0x800 then regN (bufWord x.req (o - 0x100))
  else if 0x800 ≤ o then regN (bufWord x.resp (o - 0x800))
  else .unstated

/-- A register of the Studbook window (R457). -/
def bookReg (s : State) (o : Nat) : RegRead :=
  if o = 0 then .word s.book.cursor
  else if o = 8 then regN (newestSeq s)
  else if o = 0x10 then regN (oldestSeq s)
  else if o = 0x18 then regN ((heldRecs s).length + 2 ^ 15 * primary s + 2 ^ 16 * b2n s.book.mirrorOk)
  else if o < 0x100 then .word 0
  else
    match ((heldRecs s).filter fun r => decide (s.book.cursor.toNat ≤ r.seq))[(o - 0x100) / 256]? with
    | some r => regN (bufWord (recBytes r) (o % 256))
    | none => .word 0

/-- A word of a combine window (R108). -/
def cmbReg (s : State) (h e o : Nat) : RegRead :=
  let c := cmbEnt s h e
  if o = 0 then regN c.base
  else if o = 8 then regN (c.size + 2 ^ 23 * c.elem + 2 ^ 26 * b2n c.widen + 2 ^ 27 * b2n c.ordered + 2 ^ 28 * b2n c.team
    + 2 ^ 29 * b2n c.initZero + 2 ^ 30 * c.expected + 2 ^ 39 * c.owner)
  else if o = 0x10 then regN c.countBase
  else if o = 0x18 then regN c.stageBase
  else if o = 0x20 then regN c.flagAddr
  else if o = 0x28 then regN c.epoch
  else if o < 0x40 then .word 0
  else if o = 0x40 then .word (cmbStatus c)
  else if 0x60 ≤ o then regN (c.done / 2 ^ (8 * (o - 0x60)))
  else .unstated

/-- A region attribute command register (R212). -/
def attrReg (s : State) (o : Nat) : RegRead :=
  let c := s.attrCmd
  if o = 0 then .word c.w0
  else if o = 8 then .word c.w1
  else if o = 0x10 then regN (b2n c.busy + 2 * c.result + 16 * c.done)
  else if o = 0x18 then regN c.queryAddr
  else if o = 0x20 then regN (match canon s.map c.queryAddr with | some a => sget 0 s.mem.attr (a / mib2) | none => 0)
  else .unstated

/-- A word of an offload stream (R221). -/
def offReg (s : State) (home st o : Nat) : RegRead :=
  let x := sget {} s.offload (offKey home st)
  if o = 0 then .word x.base else if o = 8 then .word x.ctl else if o = 0x10 then .word x.bytes
  else if o = 0x18 then .word x.short else .unstated

/-- Resident contexts of a paddock by number. -/
def residentSlots (s : State) (p : Nat) : List (Nat × Ctx) := residents s p []

/-- A register of a paddock's window (R331, R333). -/
def padReg (s : State) (p o : Nat) : RegRead :=
  let x := padOf s p
  let st := match x.st with | .unused => 0 | .stopped => 1 | .running => 2 | .draining => 3
  let n := (padCtxs s p).length
  let full := ((padCtxs s p).filter fun e => e.2.sched.fullSave).length
  if o < 0x400 then .word (sget 0 s.padRanges (p * 128 + o / 8))
  else if o = 0x400 then regN (st + 4 * (residentSlots s p).length + 2 ^ 7 * full + 2 ^ 9 * b2n x.rangeError
    + 2 ^ 10 * b2n (guaranteeVoid s p) + 2 ^ 11 * b2n x.pinHold + 2 ^ 32 * n)
  else if o = 0x410 then .word x.decisions
  else if o = 0x418 then .word x.swapOuts
  else if o = 0x420 then .word x.swapIns
  else if o = 0x428 then .word x.fullSaves
  else if o = 0x430 then .word x.evictions
  else if o = 0x438 then .word x.pinHolds
  else if o = 0x440 then .word x.claimIdle
  else if 0x800 ≤ o ∧ o < 0x880 then
    match (residentSlots s p)[(o - 0x800) / 8]? with
    | some (c, y) => regN (c + 2 ^ 12 + 2 ^ 13 * b2n y.onGang + 2 ^ 14 * b2n (pinned s c) + 2 ^ 15 * b2n y.sched.fullSave
        + 2 ^ 16 * (y.resident.getD 0) + 2 ^ 20 * y.sched.qlen)
    | none => .word 0
  else .unstated

/-- A register of a command processor's window (R356). -/
def cpReg (s : State) (d o : Nat) : RegRead :=
  let c := sget {} s.hosts.ctl d
  if o = 0 then .word c.word else if o = 8 then regN (2 * c.result) else if o = 0x100 then .word c.commands
  else if o = 0x108 then .word c.doorbells else .unstated

/-- The capabilities of a translation agent: version 1.0 and the options of R206. (log 43 PRESUMED) -/
def transCaps (inst : Nat) : Nat :=
  let both := [4, 10, 11, 15, 18, 19, 24, 34, 35, 37]
  ((if inst = 0 then both else both ++ [9, 17, 22, 38, 39]).map (2 ^ ·)).sum

/-- The root port that a configuration or memory window address belongs to (R492). -/
def portOf (pa : Nat) : Nat := if pa < 0xF4000000000 then (pa - 0xF2000000000) / 2 ^ 28 else (pa - 0xF4000000000) / 2 ^ 36

/-- A configuration address of bus 0 names no root port function (R492): bus 0 holds device 0, or devices 0 to 3 where the port is
bifurcated. (log 126 PRESUMED) -/
def noFunction (s : State) (pa : Nat) : Bool :=
  decide (0xF2000000000 ≤ pa ∧ pa < 0xF2040000000) && bits pa 27 20 == 0
    && (bits pa 14 12 != 0 || decide ((if bitAt s.lands.x4 (portOf pa) then 4 else 1) ≤ bits pa 19 15))

/-- The 64-bit register at an MMIO address that is a multiple of 8 (R201). A function that is not there reads as ones.
 (log 91 DEDUCED) -/
def regWord (s : State) (pa : Nat) : RegRead :=
  if 0xF0000000000 ≤ pa ∧ pa < 0xF0003000000 then engineReg s ((pa - 0xF0000000000) / 0x10000) (pa % 0x10000)
  else if 0xF0100000000 ≤ pa ∧ pa < 0xF0108000000 then doorReg s pa ((pa - 0xF0100000000) / 0x1000) (pa % 0x1000)
  else if 0xF0200000000 ≤ pa ∧ pa < 0xF0200010000 then mailReg s pa ((pa - 0xF0200000000) / 0x1000) (pa % 0x1000)
  else if 0xF0300000000 ≤ pa ∧ pa < 0xF0300001000 then bookReg s (pa % 0x1000)
  else if 0xF0400000000 ≤ pa ∧ pa < 0xF0400400000 then
    cmbReg s ((pa - 0xF0400000000) / 0x20000) (pa % 0x20000 / 0x80) (pa % 0x80)
  else if 0xF0500000000 ≤ pa ∧ pa < 0xF0500001000 then attrReg s (pa % 0x1000)
  else if 0xF0600000000 ≤ pa ∧ pa < 0xF0600003000 then
    (if pa % 0x1000 = 0 then regN (transCaps ((pa - 0xF0600000000) / 0x1000)) else .word (sget 0 s.trans.regs (pa - 0xF0600000000)))
  else if 0xF0700000000 ≤ pa ∧ pa < 0xF0700020000 then
    (if pa % 0x10000 < 0x800 then offReg s (32 + (pa - 0xF0700000000) / 0x10000) (pa % 0x10000 / 0x40) (pa % 0x40) else .unstated)
  else if 0xF0800000000 ≤ pa ∧ pa < 0xF0800600000 then padReg s ((pa - 0xF0800000000) / 0x10000) (pa % 0x10000)
  else if 0xF0A00000000 ≤ pa ∧ pa < 0xF0A00080000 then cpReg s ((pa - 0xF0A00000000) / 0x10000) (pa % 0x10000)
  else if noFunction s pa then .word 0xFFFFFFFFFFFFFFFF
  else if (0xF2000000000 ≤ pa ∧ pa < 0xF2040000000) ∨ (0xF4000000000 ≤ pa ∧ pa < 0xF8000000000) then .unstated
  else .absent

/-- The RS group of a register: its first address and its number of registers (R92, R154, R195, R221, R333, R356).
 (log 92 DEDUCED) -/
def rsGroup (pa : Nat) : Option (Nat × Nat) :=
  let o := pa % 0x10000
  if 0xF0000000000 ≤ pa ∧ pa < 0xF0003000000 then
    if 0x1040 ≤ o ∧ o < 0x1060 then some (pa - o + 0x1040, 4)
    else if 0x1E00 ≤ o ∧ o < 0x1E80 then some (pa / 0x20 * 0x20, 4)
    else if 0x1F10 ≤ o ∧ o < 0x1F20 then some (pa - o + 0x1F10, 2)
    else none
  else if 0xF0700000000 ≤ pa ∧ pa < 0xF0700020000 then
    (if o < 0x800 ∧ 0x10 ≤ o % 0x40 ∧ o % 0x40 < 0x20 then some (pa / 0x40 * 0x40 + 0x10, 2) else none)
  else if 0xF0800000000 ≤ pa ∧ pa < 0xF0800600000 then (if 0x410 ≤ o ∧ o < 0x448 then some (pa - o + 0x410, 7) else none)
  else if 0xF0A00000000 ≤ pa ∧ pa < 0xF0A00080000 then (if 0x100 ≤ o ∧ o < 0x110 then some (pa - o + 0x100, 2) else none)
  else none

/-- The word of a register read, a free value where the manual states none. (log 92 DEDUCED) -/
def regValue (s : State) (pa : Nat) : W64 := match regWord s pa with | .word w => w | _ => Config.freeWord s.free

/-- A host core has read a word of MMIO. -/
def gotReg (s : State) (pa : Nat) (w : W64) : State := { s with mmio := { s.mmio with reads := s.mmio.reads ++ [(pa, w)] } }

/-- The bytes of a word that a read of 4 or 8 bytes takes. -/
def partWord (w : W64) (pa width : Nat) : W64 :=
  if width = 8 then w else BitVec.ofNat 64 (w.toNat / 2 ^ (8 * (pa % 8)) % 2 ^ 32)

/-- SNAPSHOT_READ: a host core reads 4 or 8 bytes of a register, naturally aligned (R202). The first of an RS group latches the group; the others read what was latched.
 (log 91 DEDUCED; log 92 DEDUCED) -/
def execSnapshotRead (agent : Nat) (x : RegAt) (s : State) : Host.Outcome State Fault Refusal :=
  ok (
    let r := x.pa / 8 * 8
    let got (t : State) (w : W64) : State := gotReg t x.pa (partWord w x.pa x.width)
    if (x.width ≠ 4 ∧ x.width ≠ 8) ∨ x.pa % x.width ≠ 0 ∨ regWord s r = .absent then reply s (.fault agent x.pa)
    else match rsGroup r with
      | some (b, n) =>
        if r = b then
          got { s with mmio := { s.mmio with latch := ssetRun 0 s.mmio.latch b ((List.range n).map fun i => regValue s (b + 8 * i)) } }
            (regValue s r)
        else got s (sget 0 s.mmio.latch r)
      | none => got (if regWord s r = .unstated then { s with free := s.free + 1 } else s) (regValue s r))

/-- The part of a word that a write of 4 or 8 bytes replaces. -/
def mergeWord (old : W64) (pa width : Nat) (v : W64) : W64 :=
  if width = 8 then v
  else if pa % 8 = 0 then BitVec.ofNat 64 (old.toNat / 2 ^ 32 * 2 ^ 32 + v.toNat % 2 ^ 32)
  else BitVec.ofNat 64 (old.toNat % 2 ^ 32 + v.toNat % 2 ^ 32 * 2 ^ 32)

/-- Eight bytes of a buffer replaced. -/
def putWord (d : List Byte) (i : Nat) (w : W64) : List Byte :=
  let e := d ++ leBytes (i + 8 - d.length) 0
  e.take i ++ leBytes 8 w.toNat ++ e.drop (i + 8)

/-- A write of a translation agent's register (R206). cqh and fqt are the agent's; a queue is on as it is enabled, and enabling
it starts it empty; status bits are cleared by writing 1. The page request queue is absent. -/
def transPut (s : State) (inst o n : Nat) : State :=
  let old := transReg s inst o
  let lo := n % 2 ^ 32
  let hi := n / 2 ^ 32
  let w1c (was v : Nat) (l : List Nat) : Nat := l.foldl (fun x b => if bitAt was b && !bitAt v b then x + 2 ^ b else x) 0
  let csr (was v : Nat) (l : List Nat) : Nat := bits v 1 0 + w1c was v l + 2 ^ 16 * (v % 2)
  if o = 0x08 ∨ o = 0x18 ∨ o = 0x28 ∨ 0x58 ≤ o then setTransReg s inst o n
  else if o = 0x10 then setTransReg s inst o (n &&& 0x003FFFFFFFFFFC0F)
  else if o = 0x20 then setTransReg s inst o (old % 2 ^ 32 + 2 ^ 32 * hi)
  else if o = 0x30 then setTransReg s inst o (lo + old / 2 ^ 32 * 2 ^ 32)
  else if o = 0x48 then
    let wo := old % 2 ^ 32
    let ho := old / 2 ^ 32
    let s1 := if !bitAt wo 16 && bitAt lo 0 then setTransReg s inst 0x20 (transReg s inst 0x20 / 2 ^ 32 * 2 ^ 32) else s
    let s2 := if !bitAt ho 16 && bitAt hi 0 then setTransReg s1 inst 0x30 (transReg s1 inst 0x30 % 2 ^ 32) else s1
    setTransReg s2 inst o (csr wo lo [8, 9, 10, 11] + 2 ^ 32 * csr ho hi [8, 9])
  else if o = 0x50 then setTransReg s inst o (2 ^ 32 * w1c (old / 2 ^ 32) hi [0, 1, 2, 3])
  else s

/-- A write of the first word of a mailbox channel (R10, R373): DONE is cleared by a 1, REQ_LEN and the reserved field take the
value. -/
def mailHead (s : State) (c n : Nat) : State :=
  let x := sget {} s.dict.mail c
  { s with
    dict := { s.dict with mail := sset {} s.dict.mail c { x with reqLen := bits n 31 16, done := x.done && !bitAt n 2 } }
    mmio := { s.mmio with store := sset 0 s.mmio.store (0xF0200000000 + 0x1000 * c) (BitVec.ofNat 64 (bits n 15 3 * 8)) } }

/-- A register whose write has no row of its own takes the value: its RW fields, reserved ones included (R10); RO fields and
fields whose writes have a row of their own are not touched. -/
def putReg (s : State) (pa : Nat) (w : W64) : State :=
  let o := pa % 0x1000
  let n := w.toNat
  if 0xF0100000000 ≤ pa ∧ pa < 0xF0108000000 then
    (if o = 0 then { s with mmio := { s.mmio with store := sset 0 s.mmio.store pa (w &&& 0xFFFFFFFF00000000) } } else s)
  else if 0xF0200000000 ≤ pa ∧ pa < 0xF0200010000 then
    let c := (pa - 0xF0200000000) / 0x1000
    let x := sget {} s.dict.mail c
    let put (y : Mailbox) : State := { s with dict := { s.dict with mail := sset {} s.dict.mail c y } }
    if o = 0 then (if bitAt n 0 || bitAt n 2 then s else mailHead s c n)
    else if o = 0x10 then (if bits n 31 22 ≠ 0 then s else put { x with irqTarget := n % 2 ^ 32 })
    else if 0x100 ≤ o ∧ o < 0x800 ∧ !x.busy then put { x with req := putWord x.req (o - 0x100) w }
    else s
  else if pa = 0xF0300000000 then { s with book := { s.book with cursor := w } }
  else if pa = 0xF0500000000 then { s with attrCmd := { s.attrCmd with w0 := w } }
  else if pa = 0xF0500000008 then (if bitAt n 63 then s else { s with attrCmd := { s.attrCmd with w1 := w } })
  else if pa = 0xF0500000018 then { s with attrCmd := { s.attrCmd with queryAddr := n % 2 ^ 44 } }
  else if 0xF0600000000 ≤ pa ∧ pa < 0xF0600003000 then transPut s ((pa - 0xF0600000000) / 0x1000) o n
  else if 0xF0700000000 ≤ pa ∧ pa < 0xF0700020000 ∧ pa % 0x10000 < 0x800 then
    let k := offKey (32 + (pa - 0xF0700000000) / 0x10000) (pa % 0x10000 / 0x40)
    let x := sget {} s.offload k
    if pa % 0x40 = 0 then { s with offload := sset {} s.offload k { x with base := w } }
    else if pa % 0x40 = 8 ∧ !bitAt n 63 then { s with offload := sset {} s.offload k { x with ctl := (w &&& 0xBFFFFFFFFFFFFFFF) ||| (x.ctl &&& 0x4000000000000000) } }
    else s
  else if 0xF0A00000000 ≤ pa ∧ pa < 0xF0A00080000 ∧ pa % 0x10000 = 0 then
    let d := (pa - 0xF0A00000000) / 0x10000
    (if !bitAt n 63 then modCtl s d fun y => { y with word := w } else ringOp s d 0 w fun t _ => (1, t))
  else s

/-- The value a write of half a word leaves in the other half; bits that a 1 clears are written with 0 there. -/
def oldWord (s : State) (pa : Nat) : W64 :=
  match regWord s pa with
  | .word w =>
    if 0xF0600000000 ≤ pa ∧ pa < 0xF0600003000 then
      (if pa % 0x1000 = 0x48 then w &&& 0xFFFFFCFFFFFFF0FF else if pa % 0x1000 = 0x50 then w &&& 0xFFFFFFFF else w)
    else w
  | _ => 0

/-- REGISTER_WRITE (a write to a root port in reset, or to a function that is not there, leaves nothing; log 126 PRESUMED): a host core writes 4 or 8 bytes of MMIO, naturally aligned (R202).
 (log 91 DEDUCED) -/
def execRegisterWrite (agent pa width : Nat) (v : W64) (s : State) : Host.Outcome State Fault Refusal :=
  ok (
    let b := pa / 8 * 8
    if (width ≠ 4 ∧ width ≠ 8) ∨ pa % width ≠ 0 ∨ regWord s b = .absent then reply s (.fault agent pa)
    else if (0xF2000000000 ≤ pa ∧ pa < 0xF2040000000) ∨ (0xF4000000000 ≤ pa ∧ pa < 0xF8000000000) then
      (if noFunction s b || bitAt s.lands.portReset (portOf b) then s
        else { s with mmio := { s.mmio with out := s.mmio.out ++ [(pa, width, v)] } })
    else putReg s b (mergeWord (oldWord s b) pa width v))

/-- CHAIN_STATUS_W1C. -/
def execChainStatusW1c (ge : Nat) (v : W64) (s : State) : Host.Outcome State Fault Refusal :=
  ok (modEng s ge fun e => { e with chain := chainClear e.chain v.toNat })

/-- RANGE_ERROR_W1C. -/
def execRangeErrorW1c (p : Nat) (v : W64) (s : State) : Host.Outcome State Fault Refusal :=
  ok (if bitAt v.toNat 9 then modPad s p fun y => { y with rangeError := false } else s)

end Sys2Proof.Machine
end

