-- ==== Sys2Proof/Machine/ObjRead.lean ====
section
/-! DEFINITION. The value that a read of a dictionary object returns (R411, R412, R424 and the object tables of the chapters):
from the unit that holds it, or from the dictionary. Reading changes nothing; the cursors that a read moves are moved where the
request is executed. -/

namespace Sys2Proof.Machine

/-- Bytes of a text. -/
def textBytes (t : String) : List Byte := t.toList.map fun c => BitVec.ofNat 8 c.toNat

/-- A selection of one reader (R457, R482, R497), as bytes, or the object's default. -/
def selBytes (s : State) (reader ix sub : Nat) : List Byte :=
  match selOf s reader ix sub with
  | some v => v
  | none => match objRow ix sub with | some o => objDefault o | none => []

/-- The value of a selection. -/
def selNat (s : State) (reader ix sub : Nat) : Nat := leNat (selBytes s reader ix sub)

/-- The objects of each reader's own. (log 96 DEDUCED) -/
def perReader (ix sub : Nat) : Bool :=
  (ix == 0x7000 && sub == 2) || (ix == 0x7001 && sub == 2) || (ix == 0x9010 && sub == 1) || (ix == 0x9020 && sub == 2)

/-- The value that an OSTR or number of the dictionary holds. -/
def stored (s : State) (ix sub : Nat) : Except Nat (List Byte) := .ok (odBytes s ix sub)

/-- A number as the value of a read object. -/
def valN (ix sub n : Nat) : Except Nat (List Byte) :=
  .ok (leBytes (match objRow ix sub with | some o => tyLen o.ty | none => 8) n)

/-- Codes of enumerations. -/
def standbyCode (x : Standby) : Nat := match x with | .absent => 0 | .syncing => 1 | .ready => 2
def groomCode (x : GroomSt) : Nat := match x with | .running => 0 | .restarting => 1 | .silent => 2 | .retired => 3
def padCode (x : PadSt) : Nat := match x with | .unused => 0 | .stopped => 1 | .running => 2 | .draining => 3

/-- Objects 0x1000 to 0x1FFF. -/
def readId (s : State) (ix sub : Nat) : Except Nat (List Byte) :=
  let n (v : Nat) : Except Nat (List Byte) := valN ix sub v
  if ix = 0x1000 then
    (if sub = 1 then .ok (textBytes "QVZ-2304-LC") else if sub = 3 then .ok (Config.lotCode.take 16)
     else if sub = 4 then n Config.serial.toNat else if sub = 5 then n (b2n s.map.retired.isSome)
     else if sub = 6 then n (s.map.retired.getD 255) else stored s ix sub)
  else if ix = 0x1001 then
    (if sub = 1 then n s.ost.time else if sub = 2 then n s.boot.warmResets.toNat else n s.boot.bootId.toNat)
  else if ix = 0x1100 ∧ sub = 5 then n s.ost.eid
  else if ix = 0x1100 ∧ sub = 6 then n s.dict.requests.toNat
  else if ix = 0x1100 ∧ sub = 7 then n s.dict.authFailures.toNat
  else if ix = 0x1200 ∧ sub = 2 then n (s.rings.filter fun e => e.2.st != .disabled).length
  else if ix = 0x1201 then
    n (if sub = 1 then s.hosts.cpCommands.toNat else if sub = 2 then s.hosts.irqDropped.toNat else s.hosts.tailErrors.toNat)
  else stored s ix sub

/-- Objects 0x2000 to 0x2FFF. -/
def readUnits (s : State) (ix sub : Nat) : Except Nat (List Byte) :=
  let n (v : Nat) : Except Nat (List Byte) := valN ix sub v
  if ix = 0x2001 then
    n (if sub = 1 then s.ost.active else if sub = 2 then standbyCode s.ost.standby else if sub = 4 then s.ost.epoch.toNat
       else if sub = 5 then s.ost.handovers.toNat else s.ost.staleCmds.toNat)
  else if ix = 0x2100 then n (groomCode (sget .running s.ost.grooms (sub - 1)))
  else if ix = 0x2101 then n (sget 0 s.ost.groomFw (sub - 1)).toNat
  else if ix = 0x2102 then n s.ost.groomRestarts.toNat
  else if ix = 0x2300 then
    n (if sub = 1 then s.contain.active.length else if sub = 2 then s.contain.queue.length
       else if sub = 3 then s.contain.escalations.toNat else s.contain.absorbed.toNat)
  else if ix = 0x2302 ∧ sub = 2 then n (sget 0 s.gens.record (od s 0x2302 1))
  else if ix = 0x2302 ∧ sub = 3 then n s.gens.stale.toNat
  else stored s ix sub

/-- The gait monitor of a cluster. -/
def monOf (s : State) (k : Nat) : Monitor := sget {} s.power.monitors k

/-- A compute die's power state. -/
def dieOf (s : State) (d : Nat) : DiePower := sget {} s.power.dies d

/-- The gait of a compute die: the lowest reported among its clusters in service (R425). -/
def dieGait (s : State) (d : Nat) : Nat :=
  (((List.range 12).filter fun k => !sget false s.contain.clOut (12 * d + k)).map fun k => (monOf s (12 * d + k)).gait).min?.getD 0

/-- Objects 0x3000 to 0x3FFF. -/
def readPower (s : State) (ix sub : Nat) : Except Nat (List Byte) :=
  let p := s.power
  let n (v : Nat) : Except Nat (List Byte) := valN ix sub v
  let i16 (v : Int) : Except Nat (List Byte) := valN ix sub (wrapInt 16 v)
  if ix = 0x3003 ∧ sub = 2 then n (b2n (floorBreach s))
  else if ix = 0x3005 then n p.demand
  else if ix = 0x3006 ∧ sub = 2 then n p.shortfall.toNat
  else if ix = 0x3007 then n (dieGait s (sub - 1))
  else if ix = 0x3008 ∧ sub = 1 then n p.hobble
  else if ix = 0x3008 ∧ sub = 2 then n p.cause
  else if ix = 0x3009 ∧ sub = 2 then n p.sleepState
  else if ix = 0x3010 then n (monOf s (sub - 1)).gait
  else if ix = 0x3011 then n (dieOf s (sub - 1)).vddc
  else if ix = 0x3012 then n (if sub = 9 then p.power else (dieOf s (sub - 1)).power)
  else if ix = 0x3013 then n (sget 0 s.rein (sub - 1))
  else if ix = 0x3014 then
    n (if sub = 1 then p.breachCause else if sub = 2 then p.breachCount.toNat
       else slotBits 8 fun d => p.breaches.any fun b => b.die == d)
  else if ix = 0x3015 then i16 (sget 0 p.temps (sub - 1))
  else if ix = 0x3016 then i16 (sget 0 p.hbmTemps (sub - 1))
  else if ix = 0x3017 then n (skeys id p.suspects).length
  else if ix = 0x3020 then
    n (if sub = 1 then s.lands.brakeEvents.toNat else if sub = 2 then s.lands.pg else s.lands.straps)
  else stored s ix sub

/-- Objects 0x4000 to 0x4FFF. -/
def readMemory (s : State) (ix sub : Nat) : Except Nat (List Byte) :=
  let n (v : Nat) : Except Nat (List Byte) := valN ix sub v
  if ix = 0x4010 ∧ sub = 2 then n (if aliasOn s.map then 16 * lpBytes s.map 0 else 0)
  else if ix = 0x4011 then n (sget 128 s.map.lpCap (sub - 1))
  else if ix = 0x4020 ∧ sub = 4 then n s.hosts.preserve
  else if ix = 0x4030 then n s.hcnt.staleLogDrains.toNat
  else if ix = 0x4031 then
    n (if sub = 1 then (s.mem.poison.filter fun e => decide (e.1 * 64 < hbmEnd)).length
       else if sub = 2 then (s.mem.poison.filter fun e => decide (lpBase ≤ e.1 * 64)).length
       else (s.mem.attr.filter fun e => decide (lpBase ≤ e.1 * mib2) && bitAt e.2 2).length)
  else if ix = 0x4040 ∧ sub = 2 then n (if 4 ≤ s.map.islands then 0 else 1)
  else if ix = 0x4041 then
    n (if sub = 1 then s.hcnt.dirRetries.toNat else if sub = 2 then s.hcnt.dirHolds.toNat
       else if sub = 3 then s.hcnt.victimRecalls.toNat else if sub = 4 then s.hcnt.creditLapses.toNat else s.hcnt.dirEntryErrors.toNat)
  else stored s ix sub

/-- Objects 0x5000 to 0x5FFF: those of the selected paddock and context. -/
def readPads (s : State) (ix sub : Nat) : Except Nat (List Byte) :=
  let n (v : Nat) : Except Nat (List Byte) := valN ix sub v
  if ix = 0x5100 ∧ sub ≠ 1 then
    let x := padOf s (od s 0x5100 1)
    n (if sub = 2 then x.mask % 2 ^ 64 else if sub = 3 then x.mask / 2 ^ 64 else if sub = 4 then padCode x.st
       else if sub = 5 then x.ringFirst else if sub = 6 then x.ringCount else x.maxResident)
  else if ix = 0x5120 ∧ sub ≠ 1 then
    let x := ctxOf s (od s 0x5120 1)
    if !x.admitted then .error aNOOBJECT else
    n (if sub = 2 then x.paddock else if sub = 3 then x.sched.weight else if sub = 4 then b2n x.sched.fullSave
       else if sub = 5 then stCode x else if sub = 6 then x.acct.billed.toNat else if sub = 7 then x.acct.budget
       else if sub = 8 then wrapInt 64 x.acct.deficit else x.acct.guar)
  else stored s ix sub

/-- Objects 0x6000 to 0x6FFF. -/
def readRelay (s : State) (reader ix sub : Nat) : Except Nat (List Byte) :=
  let n (v : Nat) : Except Nat (List Byte) := valN ix sub v
  if ix = 0x6003 ∧ sub = 2 then
    .ok ((List.range 2048).map fun i => BitVec.ofNat 8 (slotBits 8 fun j => sget false s.team.suspect (8 * i + j)))
  else if ix = 0x6004 then (if sub = 1 then .ok (digestCur s) else if sub = 2 then n s.dict.stepFrom else .ok (digestPrev s))
  else if ix = 0x6033 then n (sget {} s.rly.ports (sub - 1)).laneMap.toNat
  else if ix = 0x6040 ∧ sub = 1 then
    .ok (readStreamQuery s (leNat ((((selOf s reader 0x6040 1)).getD []).take 2)))
  else if ix = 0x6050 then
    let c := s.rly.cnt
    n (if sub = 1 then c.digestRefusals.toNat else if sub = 2 then c.retransmits.toNat else if sub = 3 then c.framesDiscarded.toNat
       else if sub = 4 then c.lateReturns.toNat else c.tableWaits.toNat)
  else stored s ix sub

/-- The copy that hobble_copy_select names: the newest valid one, or the other (R460, R462). -/
def copySel (s : State) : Option NorCopy :=
  let a := sget none s.book.nor 0
  let b := sget none s.book.nor 1
  let newest := match a, b with
    | some x, some y => if y.number < x.number then 0 else 1
    | none, some _ => 1
    | _, none => 0
  sget none s.book.nor (if od s 0x7006 1 = 0 then newest else 1 - newest)

/-- The first 40 bytes of a copy's header (R460). -/
def copyHeader (c : NorCopy) : List Byte :=
  leBytes 8 ((c.recs.head?.map Rec.seq).getD 0) ++ leBytes 2 c.recs.length ++ leBytes 1 c.cause ++ leBytes 1 0 ++ leBytes 4 c.warm
    ++ leBytes 8 c.time ++ leBytes 8 (crc64 0 (c.recs.flatMap recBytes)) ++ leBytes 8 c.number

/-- The 256 bytes of a trigger entry. -/
def triggerBytes (s : State) (i : Nat) : List Byte :=
  let w := sget [] s.book.triggers i
  (List.range 32).flatMap fun j => leBytes 8 (w.getD j 0).toNat

/-- Objects 0x7000 to 0x7FFF. (log 96 DEDUCED) -/
def readBook (s : State) (reader ix sub : Nat) : Except Nat (List Byte) :=
  let b := s.book
  let n (v : Nat) : Except Nat (List Byte) := valN ix sub v
  let or0 (x : Option (List Byte)) : Except Nat (List Byte) := match x with | some v => .ok v | none => .error aNOOBJECT
  if ix = 0x7000 then
    (if sub = 1 then n (newestSeq s) else if sub = 3 then or0 ((recFrom s (selNat s reader 0x7000 2)).map recBytes)
     else if sub = 4 then n (oldestSeq s) else n (heldRecs s).length)
  else if ix = 0x7001 ∧ sub = 3 then or0 (b.qva[selNat s reader 0x7001 2]?)
  else if ix = 0x7002 then n (sget 0 b.drops (sub - 1)).toNat
  else if ix = 0x7003 ∧ sub = 2 then .ok (triggerBytes s (od s 0x7003 1))
  else if ix = 0x7005 ∧ sub = 3 then n b.suppressedTotal.toNat
  else if ix = 0x7006 ∧ sub = 3 then or0 ((copySel s).map copyHeader)
  else if ix = 0x7006 ∧ sub = 4 then or0 ((copySel s).bind fun c => (c.recs[od s 0x7006 2]?).map recBytes)
  else stored s ix sub

/-- Objects 0x8000 to 0x8FFF. -/
def readParam (s : State) (ix sub : Nat) : Except Nat (List Byte) :=
  let n (v : Nat) : Except Nat (List Byte) := valN ix sub v
  let t := s.team
  if ix = 0x8020 ∧ sub = 1 then n (wrapInt 8 t.lsExp)
  else if ix = 0x8020 ∧ sub = 4 then n t.clean
  else if ix = 0x8020 ∧ sub = 6 then n t.halvings.toNat
  else if ix = 0x8030 ∧ sub = 13 then n t.ckptLast
  else if ix = 0x8030 ∧ sub = 14 then n s.ckpt.postponed.toNat
  else if ix = 0x8031 ∧ sub = 4 then n t.journalLast
  else if ix = 0x8031 ∧ sub = 5 then n t.journalGaps.toNat
  else if ix = 0x8032 ∧ sub = 4 then n t.mismatches.toNat
  else if ix = 0x8032 ∧ sub = 5 then n t.repairsDone.toNat
  else if ix = 0x8032 ∧ sub = 6 then n t.tallyFaults.toNat
  else if ix = 0x8033 then n t.replayStatus
  else if ix = 0x8051 ∧ sub = 3 then n s.nvme.commands.toNat
  else if ix = 0x8051 ∧ sub = 4 then n s.nvme.errors.toNat
  else stored s ix sub

/-- The image in a slot, when it is verified. -/
def slotImage (s : State) (i : Nat) : Option Image := if sget false s.boot.verified i then sget none s.boot.slots i else none

/-- The running image. -/
def runningImage (s : State) : Option Image := sget none s.boot.slots s.boot.running

/-- The governing copy of the boot directory: the valid one with the higher SEQ (R469). -/
def governing (s : State) : Option (Nat × BootDir) :=
  let a := sget {} s.boot.dirs 0
  let b := sget {} s.boot.dirs 1
  if a.valid && (!b.valid || decide (b.seq ≤ a.seq)) then some (0, a) else if b.valid then some (1, b) else none

/-- PREFERRED: slot A when no copy is valid. -/
def preferred (s : State) : Nat := match governing s with | some x => x.2.preferred | none => 0

/-- attest_leaves_left (R482). -/
def leavesLeft (s : State) : Nat := 2 ^ 30 - 4096 * s.boot.rpmc1

/-- Objects 0x9000 to 0x9FFF. -/
def readBoot (s : State) (reader ix sub : Nat) : Except Nat (List Byte) :=
  let b := s.boot
  let n (v : Nat) : Except Nat (List Byte) := valN ix sub v
  if ix = 0x9000 then
    n (if sub = 1 then b.running else if sub = 2 then ((runningImage s).map Image.svn).getD 0 else if sub = 3 then b.rollback
       else if sub = 4 then preferred s else b.fallbacks.toNat)
  else if ix = 0x9001 ∧ sub = 4 then n (b.status + 2 ^ 8 * b.failedCheck + 2 ^ 16 * b.dieNow)
  else if ix = 0x9002 then
    n (if sub < 3 then ((slotImage s (sub - 1)).map Image.version).getD 0 else ((slotImage s (sub - 3)).map Image.svn).getD 0)
  else if ix = 0x9010 ∧ sub = 2 then
    .ok ((List.range 1024).map fun i => baseByte (selNat s reader 0x9010 1 * 1024 + i))
  else if ix = 0x9011 then .ok ((List.range 60).map (Config.attestKeyByte hssKey))
  else if ix = 0x9020 ∧ sub = 3 then
    match sget none b.evidence reader with
    | some e => .ok ((e.drop (1024 * selNat s reader 0x9020 2)).take 1024)
    | none => .error aNOOBJECT
  else if ix = 0x9020 ∧ sub = 4 then n (leavesLeft s)
  else if ix = 0x9020 ∧ sub = 5 then n b.signatures.toNat
  else if ix = 0x9021 then n b.repairs.length
  else stored s ix sub

/-- The value that a read of an object returns to a reader, or the abort code (R411, R412, R417). -/
def objRead (s : State) (reader ix sub : Nat) : Except Nat (List Byte) :=
  if !objIndex ix then .error aNOOBJECT
  else if sub = 0 then .ok (leBytes 1 (objHighest ix))
  else match objRow ix sub with
    | none => .error aNOSUB
    | some o =>
      if o.acc = .wo then .error aWRITEONLY
      else if perReader ix sub then .ok (selBytes s reader ix sub)
      else if ix < 0x2000 then readId s ix sub
      else if ix < 0x3000 then readUnits s ix sub
      else if ix < 0x4000 then readPower s ix sub
      else if ix < 0x5000 then readMemory s ix sub
      else if ix < 0x6000 then readPads s ix sub
      else if ix < 0x7000 then readRelay s reader ix sub
      else if ix < 0x8000 then readBook s reader ix sub
      else if ix < 0x9000 then readParam s ix sub
      else readBoot s reader ix sub

end Sys2Proof.Machine
end

