-- ==== Sys2Proof/Machine/Studbook.lean ====
section
/-! DEFINITION. The Studbook: submissions, triggers, rate limits, records, readers and the copy to NOR (R446 to R461). -/

namespace Sys2Proof.Machine

/-- Changes the Studbook. -/
def modBook (s : State) (f : Studbook → Studbook) : State := { s with book := f s.book }

/-- A persistent object takes a value: committed to the store, then in effect (R414). -/
def persistPut (s : State) (ix sub : Nat) (v : List Byte) : Except Nat State :=
  match commitStore s (storeKey 0 ix sub) v with
  | .ok t => .ok (putNow t (okey ix sub) v)
  | .error c => .error c

/-! ### Triggers and snapshots (R451, R452) -/

/-- Word i of a trigger entry. -/
def trW (w : List W64) (i : Nat) : Nat := (w.getD i 0).toNat

/-- The first VALID entry that matches a code. -/
def triggerFor (s : State) (code : Nat) : Option (List W64) :=
  (((List.range 256).map fun i => sget [] s.book.triggers i).find? fun w =>
    bitAt (trW w 0) 36 && code &&& bits (trW w 0) 31 16 == bits (trW w 0) 15 0 &&& bits (trW w 0) 31 16)

/-- NWORDS of an entry. -/
def trWords (w : List W64) : Nat := bits (trW w 0) 42 38

/-- An entry that may not be written (R451). -/
def triggerBad (w : List W64) : Bool :=
  let sel (j : Nat) : Nat := trW w (4 + j)
  bits (trW w 0) 63 43 != 0 || trW w 1 != 0 || trW w 2 != 0 || trW w 3 != 0 || decide (28 < trWords w)
    || (List.range 28).any fun j =>
      if trWords w ≤ j then sel j != 0 else decide (4 < bits (sel j) 35 32) || bits (sel j) 63 36 != 0

/-- The die of an event's source, by Groom number. -/
def sourceDie (kind unit : Nat) : Option Nat :=
  if kind = 1 then some (unit / 4 / 9 / 12) else if kind = 2 then some (unit / 9 / 12) else if kind = 3 then some (unit / 12)
  else if kind = 4 then some unit else if kind = 5 then some (8 + unit) else if kind = 6 then some (10 + unit)
  else if kind = 7 then some (unit / 4) else if kind = 8 then some (10 + unit / 8) else if kind = 9 then some (10 + unit / 9)
  else if kind = 10 then some (if unit < 32 then unit / 4 else 10 + (unit - 32)) else if kind = 11 then some unit else none

/-- The registers of a die cannot be read: retired, in reset, or its Groom silent. (log 95 DEDUCED) -/
def dieDark (s : State) (g : Nat) : Bool :=
  (decide (g < 8) && dieRetired s.map g) || (decide (8 ≤ g ∧ g < 10) && sget false s.hosts.dieReset (g - 8))
    || sget .running s.ost.grooms g == .silent

/-- A register of a source unit's own space: an engine's control window by its slot, a home's combine window, a command
processor's, a paddock's; what another unit's space holds is not stated. (log 95 DEDUCED) -/
def unitReg (s : State) (kind unit o : Nat) : RegRead :=
  let slot := if kind = 1 then unit / 4 else unit
  if kind = 1 ∨ kind = 2 then
    match (List.range 8).find? fun le => slotOf s (slot / 9 * 8 + le) == slot with
    | some le => engineReg s (slot / 9 * 8 + le) (o / 8 * 8)
    | none => .unstated
  else if kind = 10 ∧ unit < 32 then cmbReg s unit (o / 0x80) (o % 0x80 / 8 * 8)
  else if kind = 11 then cpReg s unit (o / 8 * 8)
  else if kind = 13 then padReg s unit (o / 8 * 8)
  else .unstated

/-- The word that a selector captures: its value, whether it could be read, and whether it is a free value. (log 95 DEDUCED) -/
def snapWord (s : State) (e : Event) (sel k : Nat) : W64 × Bool × Bool :=
  let o := bits sel 31 0
  let kind := bits sel 35 32
  if kind = 4 then (e.params.getD o 0, true, false)
  else if kind = 3 then
    match objRead s 0 (bits sel 23 8) (bits sel 7 0) with
    | .ok v => (BitVec.ofNat 64 (leNat (v.take 8)), true, false)
    | .error _ => (0, false, false)
  else if kind = 0 then (0, true, false)
  else if (match sourceDie e.kind e.unit with | some g => dieDark s g | none => false) then (0, false, false)
  else if kind = 2 then (Config.freeWord (s.free + k), true, true)
  else match unitReg s e.kind e.unit o with
    | .word w => (w, true, false)
    | .absent => (0, false, false)
    | .unstated => (Config.freeWord (s.free + k), true, true)

/-! ### Rate limits and admission (R453 to R455) -/

/-- The bucket of a code. -/
def bucketOf (code : Nat) : Nat := (bits code 9 0 ^^^ bits code 15 10) % 1024

/-- The record that a submission becomes, before its SEQ. -/
def formRec (s : State) (e : Event) (sup : Nat) : Rec × Nat :=
  let code := e.area % 16 * 4096 + e.num % 4096
  let step := match s.rly.lastStep with | some x => if teamSize s = 0 then 0xFFFFFFFF else x % 2 ^ 32 | none => 0xFFFFFFFF
  let base : Rec := { time := s.ost.time, code := code, kind := e.kind % 16, unit := e.unit % 4096, suppressed := min 65535 sup,
                      step := step, gen := sget 0 s.gens.record (e.kind * 4096 + e.unit) }
  match triggerFor s code with
  | none => ({ base with sev := e.sev % 8, flags := 2 * s.ost.active, words := e.params.take 8 }, 0)
  | some w =>
    let snaps := (List.range (min 28 (trWords w))).map fun j => snapWord s e (trW w (4 + j)) j
    ({ base with
        sev := if bitAt (trW w 0) 35 then bits (trW w 0) 34 32 else e.sev % 8
        flags := b2n (snaps.any fun x => !x.2.1) + 2 * s.ost.active
        words := snaps.map fun x => x.1 }, (snaps.filter fun x => x.2.2).length)

/-- A record is dropped and counted by its severity. -/
def dropRec (s : State) (r : Rec) : State := modBook s fun b => { b with drops := smod 0 b.drops r.sev (· + 1) }

/-- The newest queued submission of the lowest severity below 7, if any. -/
def displaced (q : List Rec) : Option Nat :=
  (q.zipIdx.foldl (fun (b : Option (Nat × Nat)) x =>
    if x.1.sev = 7 then b else
    match b with
    | none => some (x.1.sev, x.2)
    | some (v, i) => if x.1.sev ≤ v then some (x.1.sev, x.2) else some (v, i)) none).map Prod.snd

/-- A submission joins the queue of 256 (R454); none when it must wait at its source. -/
def enqueueRec (s : State) (r : Rec) : Option State :=
  if s.book.queue.length < 256 then some (modBook s fun b => { b with queue := b.queue ++ [r] })
  else if r.sev < 7 then some (dropRec s r)
  else match displaced s.book.queue with
    | none => none
    | some i =>
      let t := match s.book.queue[i]? with | some x => dropRec s x | none => s
      some (modBook t fun b => { b with queue := b.queue.eraseIdx i ++ [r] })

/-- One event is accepted (R451 to R454). (log 94 DEDUCED) -/
def submit (s : State) (e : Event) : Option State :=
  let code := e.area % 16 * 4096 + e.num % 4096
  let k := bucketOf code
  let b := sget {} s.book.buckets k
  let f := formRec s e 0
  let free := decide (6 ≤ f.1.sev) || e.area % 16 == 0 || (match triggerFor s code with | some w => bitAt (trW w 0) 37 | none => false)
  let s0 := { s with free := s.free + f.2 }
  let put (t : State) (v : Bucket) : State := modBook t fun x => { x with buckets := sset {} x.buckets k v }
  if free then enqueueRec s0 f.1
  else if b.tokens = 0 then
    some (modBook (put s { b with sup := b.sup + 1 }) fun x => { x with suppressedTotal := x.suppressedTotal + 1 })
  else enqueueRec (put s0 { tokens := b.tokens - 1, sup := 0 }) { f.1 with suppressed := min 65535 b.sup }

/-- A recorder runs. -/
def recorderRuns (s : State) : Bool := s.book.failed != 3

/-- STUDBOOK_SUBMIT: the oldest event on the management ring reaches the recorders. (log 94 DEDUCED) -/
def execStudbookSubmit (s : State) : Host.Outcome State Fault Refusal :=
  ok (match s.raised with
    | [] => s
    | e :: r =>
      if !recorderRuns s then s else
      match submit { s with raised := r } e with
      | some t => t
      | none => s)

/-- TOKEN_REFILL: 1 / rate_per_second of a second has passed, and every bucket gains one token up to rate_burst.
 (log 94 DEDUCED) -/
def execTokenRefill (s : State) : Host.Outcome State Fault Refusal :=
  let cap := od s 0x7005 2
  ok (modBook s fun b => { b with buckets := (List.range 1024).foldl (fun (m : SMap Bucket) k =>
    smod {} m k fun x => { x with tokens := max x.tokens (min cap (x.tokens + 1)) }) b.buckets })

/-- The slot that a record takes (R455). -/
def slotFor (s : State) (r : Rec) : Option Nat :=
  match (List.range 16384).find? fun i => (recAt s (primary s) i).isNone with
  | some i => some i
  | none =>
    match (heldRecs s).find? fun x => decide (x.sev ≤ r.sev) with
    | some v => (List.range 16384).find? fun i => recAt s (primary s) i == some v
    | none => none

/-- A record is written to its slot by the recorders that run. -/
def writeRec (s : State) (slot : Nat) (r : Rec) : State :=
  let x := { r with seq := s.book.nextSeq }
  let put (m : SMap (Option Rec)) (rc : Nat) : SMap (Option Rec) :=
    if bitAt s.book.failed rc then m else sset none m (rc * 16384 + slot) (some x)
  modBook s fun b => { b with
    ring := put (put b.ring 0) 1, nextSeq := b.nextSeq + 1,
    qva := if od s 0x7001 1 = 1 then (b.qva ++ [qvaBytes x]).drop ((b.qva.length + 1) - 8192) else b.qva }

/-- STUDBOOK_RECORD_WRITE: the oldest queued submission is written, or dropped when no slot qualifies. -/
def execStudbookRecordWrite (s : State) : Host.Outcome State Fault Refusal :=
  ok (match s.book.queue with
    | [] => s
    | r :: rest =>
      if !recorderRuns s then s else
      let s1 := modBook s fun b => { b with queue := rest }
      match slotFor s1 r with
      | some i => writeRec s1 i r
      | none => dropRec s1 r)

/-- RECORDER_FAILURE (R446). -/
def execRecorderFailure (recorder : Nat) (s : State) : Host.Outcome State Fault Refusal :=
  ok (
    if 1 < recorder ∨ bitAt s.book.failed recorder = true then s else
    let s1 := modBook s fun b => { b with
      failed := setBit b.failed recorder, mirrorOk := false, ring := b.ring.filter fun (e : Nat × Option Rec) => e.1 / 16384 != recorder }
    if recorderRuns s1 then noteUnit s1 0 3 5 6 recorder [] else s1)

/-- A recorder is re-admitted: it takes the primary's rings and mirrors again. -/
def readmitRecorder (s : State) (rc : Nat) : State :=
  if !bitAt s.book.failed rc then s else
  let mine := (s.book.ring.filter fun e => e.1 / 16384 == 1 - rc).map fun e => (rc * 16384 + e.1 % 16384, e.2)
  modBook s fun b => { b with failed := clrBit b.failed rc, mirrorOk := true, ring := ssetMany none b.ring mine }

/-! ### The copy to NOR (R460) -/

/-- The freeze at a Hobble entry. -/
def freezeCopy (s : State) (cause : Nat) : State :=
  if s.book.hold.isSome then s else
  let l := heldRecs s
  let c : NorCopy := { cause := cause, warm := s.boot.warmResets.toNat % 2 ^ 32, time := s.ost.time,
                       number := s.book.copies + 1, recs := l.drop (l.length - 256) }
  modBook s fun b => { b with hold := some c, copies := b.copies + 1 }

/-- The NOR slot that does not hold the newest valid copy. -/
def norSlot (s : State) : Nat :=
  match sget none s.book.nor 0, sget none s.book.nor 1 with
  | some x, some y => if y.number < x.number then 1 else 0
  | some _, none => 1
  | none, _ => 0

/-- STUDBOOK_NOR_COPY_DONE: the hold buffer has been programmed, its header last. -/
def execStudbookNorCopyDone (s : State) : Host.Outcome State Fault Refusal :=
  ok (match s.book.hold with
    | none => s
    | some c => modBook s fun b => { b with hold := none, nor := sset none b.nor (norSlot s) (some c) })

/-! ### Readers (R457, R459) -/

/-- What reading an object moves: the reader's Studbook and QVA cursors. -/
def afterRead (s : State) (reader ix sub : Nat) : State :=
  if ix = 0x7000 ∧ sub = 3 then
    match recFrom s (selNat s reader 0x7000 2) with
    | some r => setSel s reader 0x7000 2 (leBytes 8 (r.seq + 1))
    | none => s
  else if ix = 0x7001 ∧ sub = 3 then
    if selNat s reader 0x7001 2 < s.book.qva.length then setSel s reader 0x7001 2 (leBytes 2 (selNat s reader 0x7001 2 + 1)) else s
  else s

/-- A read of a record by a reader: the bytes returned, or the abort code. -/
def readRecord (s : State) (reader ix : Nat) : State :=
  match objRead s reader ix 3 with
  | .ok d => modBook (abortWith (afterRead s reader ix 3) aNONE) fun b => { b with reads := b.reads ++ [(reader, d)] }
  | .error c => abortWith s c

/-- STUDBOOK_RECORD_READ. -/
def execStudbookRecordRead (reader : Nat) (s : State) : Host.Outcome State Fault Refusal := ok (readRecord s reader 0x7000)

/-- QVA_RECORD_READ. -/
def execQvaRecordRead (reader : Nat) (s : State) : Host.Outcome State Fault Refusal := ok (readRecord s reader 0x7001)

/-! ### Writes (R451, R453, R458) -/

/-- A write of sw_record. -/
def writeSwRecord (s : State) (d : List Byte) : Except Nat State :=
  let w := leNat (d.take 8)
  if d.length ≠ 72 then .error aTYPELEN
  else if bits w 15 12 ≠ 15 ∨ 5 < bits w 18 16 ∨ bits w 63 19 ≠ 0 then .error aRANGE
  else .ok (noteUnit s 15 (bits w 11 0) (bits w 18 16) 15 0 ((List.range 8).map fun i => BitVec.ofNat 64 (bufWord d (8 + 8 * i))))

/-- SW_RECORD. -/
def execSwRecord (data : List Byte) (s : State) : Host.Outcome State Fault Refusal := ok (ownWrite s (writeSwRecord s data))

/-- A write of trigger_entry at the index that trigger_select gives. -/
def writeTrigger (s : State) (d : List Byte) : Except Nat State :=
  let w := (List.range 32).map fun i => BitVec.ofNat 64 (bufWord d (8 * i))
  if d.length ≠ 256 then .error aTYPELEN
  else if triggerBad w then .error aRANGE
  else
    match commitStore s (storeKey (od s 0x7003 1) 0x7003 2) d with
    | .ok t => .ok (modBook t fun b => { b with triggers := sset [] b.triggers (od s 0x7003 1) (if w.all (· == 0) then [] else w) })
    | .error c => .error c

/-- TRIGGER_ENTRY_WRITE. -/
def execTriggerEntryWrite (data : List Byte) (s : State) : Host.Outcome State Fault Refusal := ok (ownWrite s (writeTrigger s data))

/-- A write of rate_per_second or rate_burst: for every bucket at once, tokens above a new burst being discarded (R461). -/
def writeRate (s : State) (burst : Bool) (v : Nat) : Except Nat State :=
  if v = 0 ∨ (if burst then 1024 else 10000) < v then .error aRANGE
  else
    match persistPut s 0x7005 (if burst then 2 else 1) (leBytes 2 v) with
    | .error c => .error c
    | .ok t =>
      .ok (if !burst then t else modBook t fun b => { b with buckets := (List.range 1024).foldl (fun (m : SMap Bucket) k =>
        smod {} m k fun x => { x with tokens := min v x.tokens }) b.buckets })

/-- RATE_LIMIT_WRITE. -/
def execRateLimitWrite (burst : Bool) (v : Nat) (s : State) : Host.Outcome State Fault Refusal := ok (ownWrite s (writeRate s burst v))

end Sys2Proof.Machine
end

