-- ==== Sys2Proof/Machine/Hobble.lean ====
section
/-! DEFINITION. What Hobble and sleep do to the package (R441 to R443), and the order in which rails come up (R490). -/

namespace Sys2Proof.Machine

/-- Changes the power state. -/
def modPower (s : State) (f : Power → Power) : State := { s with power := f s.power }

/-- Changes a compute die's power state. -/
def modDie (s : State) (d : Nat) (f : DiePower → DiePower) : State :=
  modPower s fun p => { p with dies := smod {} p.dies d f }

/-- Raises the generations of n units of a kind from a number on. (log 97 DESIGN CHOICE) -/
def raiseGens (s : State) (kind n : Nat) : State := (List.range n).foldl (fun t u => raiseGen t kind u) s

/-- An update in progress stops with ABORTED, a LOAD leaving its slot unverified (R478). -/
def abortUpdate (s : State) : State :=
  if s.boot.status = 1 ∨ s.boot.status = 3 ∨ s.boot.status = 4 then
    { s with boot := { s.boot with status := 6, loading := none, dieNow := 0 } }
  else s

/-- Every cluster cache and host cache is written back and emptied (R228); the lines given could not be and are lost.
 (log 97 DESIGN CHOICE) -/
def flushAll (s : State) (lost : List Nat) : State :=
  let s1 := (List.range 108).foldl (fun t a => loseAgent (flushAgent t a lost) a) s
  modHarn s1 fun h => { h with stale := [], pendInv := [], holds := [] }

/-- Steps 1 to 4 and 6 of R441: engines stop and lose their state, ports go down, caches are written back, the host dies are
held in reset, and VDDC and VDDH are switched off. Memory keeps its contents. (log 97 DESIGN CHOICE) -/
def powerDown (s : State) (lost : List Nat) : State :=
  let s1 := { s with engines := [], claims := [] }
  let s2 := (List.range 18).foldl portDown s1
  let s3 := flushAll s2 lost
  let s4 := { s3 with
    hosts := { s3.hosts with dieReset := sset false (sset false s3.hosts.dieReset 0 true) 1 true },
    lands := { s3.lands with en := s3.lands.en / 1024 * 1024, pg := s3.lands.pg / 1024 * 1024 },
    power := { s3.power with vddh := 0 } }
  abortUpdate ((List.range 8).foldl (fun t d => modDie t d fun p => { p with vddc := 0 }) s4)

/-- The package enters Hobble (R441, R460): its causes are 1 thermal, 2 hardware trip, 3 supply, 4 containment, 5 Groom
timeout, 6 request. In Hobble already, it stays. (log 97 DESIGN CHOICE) -/
def enterHobble (s : State) (cause : Nat) (lost : List Nat) : State :=
  if s.power.hobble = 2 then s else
  let s1 := powerDown (freezeCopy s cause) lost
  let s2 := raiseGens (raiseGens (raiseGens s1 4 8) 5 2) 16 2
  let s3 := modPower s2 fun p => { p with hobble := 2, cause := cause, sleepState := 0 }
  noteUnit { s3 with boot := { s3.boot with seq := .none } } 10 6 6 0 0 [BitVec.ofNat 64 cause]

/-- The package goes to sleep (R443): steps 2 to 6 of R441, and every unit's generation rises (R382). -/
def enterSleep (s : State) (lost : List Nat) : State :=
  let s1 := powerDown s lost
  let s2 := [(2, 864), (3, 96), (4, 8), (5, 2), (7, 32), (8, 16), (9, 18), (16, 2), (17, 2)].foldl
    (fun (t : State) (k : Nat × Nat) => raiseGens t k.1 k.2) s1
  let s3 := modPower s2 fun p => { p with sleepState := 2 }
  noteUnit { s3 with ost := { s3.ost with standby := .absent } } 10 7 1 0 0 []

/-! ### Rails (R490) -/

/-- Rails in the order of power-up, as bits of EN and PG: VDDIO, VDDQ, VDDH0, VDDH1, then VDDC of each die not retired.
 (log 98 DESIGN CHOICE) -/
def railOrder (s : State) : List Nat := [11, 10, 8, 9] ++ (List.range 8).filter fun d => !dieRetired s.map d

/-- Changes the lands. -/
def modLands (s : State) (f : Lands → Lands) : State := { s with lands := f s.lands }

/-- The rail that is next in the sequence: its EN or its PG is low. (log 98 DESIGN CHOICE) -/
def nextRail (s : State) : Option Nat := (railOrder s).find? fun n => !bitAt s.lands.en n || !bitAt s.lands.pg n

/-- Takes the EN of the next rail high, if there is one. -/
def raiseRail (s : State) : State :=
  match nextRail s with
  | some n => modLands s fun l => { l with en := setBit l.en n }
  | none => s

/-- A sequence of power-up begins (R442 step 1, R490). (log 98 DESIGN CHOICE) -/
def startRails (s : State) (q : PowerSeq) : State := raiseRail { s with boot := { s.boot with seq := q } }

/-- AVSBus setpoints of step 7: VDDH 0.75 V, VDDC 0.62 V. -/
def setpoints (s : State) : State :=
  (List.range 8).foldl (fun t d => modDie t d fun p => { p with vddc := 620, duty := 0 }) (modPower s fun p => { p with vddh := 750 })

/-- A supply fault of the power-up sequence (R490): every EN low but VDDQ and VDDIO, and Hobble with cause 3. -/
def railFault (s : State) (lost : List Nat) : State :=
  enterHobble { s with
    power := { s.power with supplyAt := some s.ost.time },
    lands := { s.lands with en := s.lands.en / 1024 * 1024 } } 3 lost

/-- A sleeping package wakes (R443, R444): not out of Hobble. -/
def wake (s : State) : State :=
  if s.power.sleepState = 2 ∧ s.power.hobble = 0 then
    startRails (modPower s fun p => { p with sleepState := 3 }) .wake
  else s

end Sys2Proof.Machine
end

