-- ==== Sys2Proof/Machine/Packed.lean ====
section
/-! DEFINITION. Packed quadrant mode and its test (R79 to R82), and the wave of an array in either mode (R59). -/

namespace Sys2Proof.Machine

/-- Changes the containment state. -/
def modContain (s : State) (f : Contain → Contain) : State := { s with contain := f s.contain }

/-- An array of a slot as the test port sees it. -/
def packOf (s : State) (slot arr : Nat) : Packed := sget {} s.contain.packed (slot * 4 + arr)

/-- Replaces it. -/
def setPack (s : State) (slot arr : Nat) (p : Packed) : State :=
  modContain s fun c => { c with packed := sset {} c.packed (slot * 4 + arr) p }

/-! ### One problem in a grid -/

/-- An operand of the test: an O9 code, or a BF16 value in mode 3. -/
def testOperand (mode c : Nat) : Fx := if mode = 3 then decBf c else decO9 c

/-- The weight set of a problem. -/
def testSet (p : TestProblem) : WSet :=
  { cells := p.cells.map fun r => r.map fun c => { w := c.ops.map (testOperand p.mode), sw := c.scale, meta8 := c.meta8 },
    code := false, src := ([], 0, 0, 0, 0) }

/-- The quarter tile at a quarter-slot (R93). -/
def qTile (c : Acc) (t : Nat) : Tile := sget {} c.qtiles t

/-- A 16 × 16 tile's status word has SHAPE 3 (R98). -/
def freshQuarter : Tile := { declared := true, shape := 3 }

/-- A problem's pass names its tile: declared at its first pass, its additions counted (R95, R100). Quadrants write quarter
tiles, a whole array a 32 × 32 tile. -/
def testTile (n : Nat) (c : Acc) (p : TestProblem) (tile : Nat) : Acc :=
  let count (v : Tile) : Tile := if p.overwrite then setCount v 0 0 else addCount v 0
  if n = 16 then
    let v := if (qTile c tile).declared then qTile c tile else freshQuarter
    { c with qtiles := sset {} c.qtiles tile (count v) }
  else
    let v := if (tileOf c tile).declared then tileOf c tile else freshTile 0 0 0
    setTile c tile (count v)

/-- A result reaches its tile: element (r, c) of the quarter tile at quarter-slot t is word 256 t + 16 r + c of the store. -/
def testDrain (n : Nat) (c : Acc) (d : DrainEntry) : Acc :=
  if n = 16 then
    let y := drainElem c (d.pass.tile * 256 + d.tileRow * 16 + d.col) d.pass.overwrite d.value
    let v := qTile y.1 d.pass.tile
    let v1 := { v with ovf := v.ovf || y.2.2 }
    { y.1 with qtiles := sset {} y.1.qtiles d.pass.tile (if y.2.1 then tilePoisoned v1 else v1) }
  else drainOne c d

/-- The next problem starts once no row names the bank its set goes into; its set is loaded and WSEL turns to it (R63, R79). -/
def testStart (n tile0 : Nat) (q : Quad) (c : Acc) : Quad × Acc :=
  match q.cur, q.todo with
  | none, p :: l =>
    let b := 1 - q.wsel
    if q.rows.any fun r => r.bank == b then (q, c) else
    let q1 := if b = 0 then { q with bank0 := some (testSet p) } else { q with bank1 := some (testSet p) }
    ({ q1 with wsel := b, cur := some (0, p), todo := l }, testTile n c p (tile0 + p.tile))
  | _, _ => (q, c)

/-- The feeder lanes send the problem's next row. -/
def testFeed (n tile0 : Nat) (q : Quad) : Quad :=
  match q.cur with
  | none => q
  | some (k, p) =>
    match p.rows[k]? with
    | none => { q with cur := none }
    | some r =>
      let row : RowSlot := {
        slot := k % 64, tileRow := k, bank := q.wsel, sa := r.scales, ops := r.ops.map fun l => l.map (testOperand p.mode),
        sums := List.replicate n fxZero,
        pass := { tile := tile0 + p.tile, mode := p.mode, overwrite := p.overwrite } }
      { q with rows := q.rows ++ [row], cur := if k + 1 < p.rows.length then some (k + 1, p) else none }

/-- One wave of a grid of n × n cells: a quadrant (16), whose partial sums start at +0 in its own grid row 0 and whose data are
discarded at its own east edge, or a whole array (32); its tiles start at tile0. -/
def testWave (n tile0 : Nat) (q : Quad) (c : Acc) : Quad × Acc :=
  let x := testStart n tile0 q c
  let y := testFeed n tile0 x.1
  let g := gridStep n y.bank0 y.bank1 y.rows
  let c1 := g.2.2.foldl (fun a t =>
    if n = 16 then { a with qtiles := sset {} a.qtiles t { qTile a t with ovf := true } }
    else setTile a t { tileOf a t with ovf := true }) x.2
  ({ y with rows := g.1 }, g.2.1.foldl (testDrain n) c1)

/-- The four quadrants run side by side, each on its own quarter of the quarter-slots. -/
def quadsWave (p : Packed) : Packed :=
  let r := p.quads.zipIdx.foldl (fun (x : List Quad × Acc) q =>
    let y := testWave 16 (64 * q.2) q.1 x.2; (x.1 ++ [y.1], y.2)) ([], p.acc)
  { p with quads := r.1, acc := r.2 }

/-! ### The wave of an array -/

/-- ARRAY_WAVE: one advance of an array, or of the four quadrants of a packed one (R59, R79). -/
def execArrayWave (ge arr : Nat) (dry busy fill : Bool) (s : State) : Host.Outcome State Fault Refusal :=
  ok (
    let p := slotOf s ge
    if (packOf s p arr).on then setPack s p arr (quadsWave (packOf s p arr)) else arrayWave s ge arr dry busy fill)

/-! ### The test (R82) -/

/-- Nothing is left to do in a grid. -/
def testDone (q : Quad) : Bool := q.cur.isNone && q.todo.isEmpty && q.rows.isEmpty

/-- The waves that a sequence of problems takes at most in a grid of n × n cells. -/
def testFuel (n : Nat) (l : List TestProblem) : Nat := (l.map fun p => p.rows.length + 2 * n + 1).sum

/-- Phase Q: the quadrants run until they are done (fuel: waves). -/
def runQuads : Nat → Packed → Packed
  | 0, p => p
  | f + 1, p => if p.quads.all testDone then p else runQuads f (quadsWave p)

/-- Phase W: the whole array runs until it is done (fuel: waves). -/
def runWhole : Nat → Quad → Acc → Quad × Acc
  | 0, q, c => (q, c)
  | f + 1, q, c => if testDone q then (q, c) else let y := testWave 32 0 q c; runWhole f y.1 y.2

/-- A result tally: CRC-64 over the tiles of the problems, in the order of the problems, row-major. (log 140 DESIGN CHOICE) -/
def testTally (c : Acc) (n tile0 : Nat) (l : List TestProblem) : W64 :=
  let words := if n = 16 then 256 else 1024
  BitVec.ofNat 64 (crc64 0 ((l.map TestProblem.tile).eraseDups.flatMap fun t =>
    (List.range words).flatMap fun i => leBytes 4 (elemAt c ((tile0 + t) * words + i)).toNat))

/-- The tallies of one array, quadrants 0 to 3 and the whole array, as its cells compute them: bad gives, for a tally, the bits by
which a defect of the array changes it. (log 140 DESIGN CHOICE) -/
def arrayTallies (q w : Acc) (g : TestProgram) (arr : Nat) (bad : List (Nat × Nat × W64)) : List W64 :=
  let raw := ((List.range 4).map fun i => testTally q 16 (64 * i) g.quads) ++ [testTally w 32 0 g.whole]
  raw.zipIdx.map fun t => (bad.filter fun b => b.1 == arr && b.2.1 == t.2).foldl (fun v b => v ^^^ b.2.2) t.1

/-- Both phases on one packed array: what its test port shows at the end, and whether all five tallies are those of the image.
 (log 140 DESIGN CHOICE) -/
def testArray (p : Packed) (g : TestProgram) (arr : Nat) (bad : List (Nat × Nat × W64)) : Packed × Bool :=
  let fq := testFuel 16 g.quads
  let fw := testFuel 32 g.whole
  let q := runQuads fq { p with quads := List.replicate 4 { todo := g.quads } }
  let w := runWhole fw { todo := g.whole } q.acc
  let t := arrayTallies q.acc w.2 g arr bad
  ({ q with acc := w.2 }, decide (t = List.replicate 4 g.goldenQ ++ [g.goldenW] ∧ fq + fw ≤ 2 ^ 20))

/-- The four arrays of a slot are tested together; the slot passes when each array does. (log 140 DESIGN CHOICE) -/
def testSlot (s : State) (slot : Nat) (g : TestProgram) (bad : List (Nat × Nat × W64)) : Bool × State :=
  (List.range 4).foldl (fun (x : Bool × State) a =>
    let y := testArray (packOf x.2 slot a) g a bad
    (x.1 && y.2, setPack x.2 slot a y.1)) (true, s)

end Sys2Proof.Machine
end

