-- ==== Sys2Proof/Machine/Containment.lean ====
section
/-! DEFINITION. Service states of slots, the packed-mode test, containment and its ladder, Remount, die retirement, and the
re-admission of units (R16 to R22, R79 to R82, R238, R349, R376 to R383). Units are named by SOURCE kind and number (R450);
beyond its kinds, 16 is a Relay unit, 17 an NVMe initiator, 18 a lane (a Relay port's as port * 16 + lane, any other as 512 + its
die), 19 the chain or a move queue of a slot (slot * 5 + 0 for the chain, + 1 to 4 for the queues). -/

namespace Sys2Proof.Machine

/-! ### Slots and packed mode -/

/-- The logical engine that lies on a slot, if one does; a RETIRED slot is absent from the spare map (R21). -/
def engineOn (s : State) (slot : Nat) : Option Nat :=
  if slotState s slot = .retired then none else
  ((List.range 8).map fun le => slot / 9 * 8 + le).find? fun ge => slotOf s ge == slot

/-- The slot of a cluster that carries no logical engine and can be taken into service. -/
def spareOf (s : State) (cluster : Nat) : Option Nat :=
  ((List.range 9).map fun e => cluster * 9 + e).find? fun p => (engineOn s p).isNone && slotState s p != .retired

/-- SLOT_ADMISSION: a slot in TEST that has passed the packed-mode test, and whose arrays are out of packed mode, goes
IN_SERVICE. (log 102 DEDUCED) -/
def execSlotAdmission (slot : Nat) (s : State) : Host.Outcome State Fault Refusal :=
  ok (
    if slotState s slot = .test ∧ sget false s.contain.testResults slot = true
        ∧ ((List.range 4).all fun a => !(packOf s slot a).on) = true then setSlot s slot .inService
    else s)

/-- A drain request (R22): further ones, and one to a HELD slot, change nothing. -/
def drainSlot (s : State) (slot : Nat) : State :=
  if slotState s slot = .inService then setSlot s slot .draining else s

/-- DRAIN_REQUEST. -/
def execDrainRequest (slot : Nat) (s : State) : Host.Outcome State Fault Refusal := ok (drainSlot s slot)

/-- The array has no pass open and an empty grid (R81). -/
def gridEmpty (x : Arr) : Bool := x.pass.isNone && x.rows.isEmpty && x.drain.isEmpty

/-- An array on its way into or out of packed mode (R66, R81): banks invalid, the accumulator store +0, status words clear. -/
def clearArray (e : Engine) (a : Nat) (st : ArrStop) : Engine :=
  let c := accOf e a
  setAcc (setArr e a { dropBanks (arrOf e a) with stop := st }) a
    { validWaves := c.validWaves, bubbleDry := c.bubbleDry, bubbleDrain := c.bubbleDrain, bubbleLoad := c.bubbleLoad }

/-- Sets or clears packed mode of an array of a slot with an empty grid (R81): its store starts at +0. -/
def setPacked (s : State) (slot arr : Nat) (on : Bool) : State :=
  let s1 := setPack s slot arr { on := on, quads := if on then List.replicate 4 {} else [] }
  match engineOn s slot with
  | none => s1
  | some ge =>
    if gridEmpty (arrOf (eng s ge) arr) then modEng s1 ge fun e => clearArray e arr (if on then .packed else .free) else s

/-- Nothing runs on a slot, so that the Groom may take it into TEST (R21, R90): it carries no logical engine, is RETIRED, or has
drained. -/
def slotIdle (s : State) (slot : Nat) : Bool :=
  match engineOn s slot with
  | none => true
  | some ge => slotState s slot == .retired || (slotState s slot == .draining && arraysEmpty (eng s ge) && chainEmpty (eng s ge))

/-- The slot is in TEST, or the package is in start-up (R80). -/
def inTest (s : State) (slot : Nat) : Bool := slotState s slot == .test || !s.boot.complete

/-- PACKED_MODE_ENTER: by the Groom, in TEST, into which it takes an idle slot, or before a boot is complete (R80).
 (log 140 DESIGN CHOICE) -/
def execPackedModeEnter (slot arr : Nat) (s : State) : Host.Outcome State Fault Refusal :=
  ok (
    if inTest s slot then setPacked s slot arr true
    else if slotIdle s slot then setPacked (setSlot s slot .test) slot arr true
    else s)

/-- PACKED_MODE_EXIT. -/
def execPackedModeExit (slot arr : Nat) (s : State) : Host.Outcome State Fault Refusal :=
  ok (if (packOf s slot arr).on then setPacked s slot arr false else s)

/-- Every array of the slot is in packed mode. -/
def slotPacked (s : State) (slot : Nat) : Bool := (List.range 4).all fun a => (packOf s slot a).on

/-- All four arrays of a slot enter or leave packed mode. -/
def packSlot (s : State) (slot : Nat) (on : Bool) : State := (List.range 4).foldl (fun t a => setPacked t slot a on) s

/-- A slot's test has a result, which goes to the Ostler (R82). -/
def testResult (s : State) (slot : Nat) (pass : Bool) : State :=
  noteUnit (modContain s fun c => { c with testResults := sset false c.testResults slot pass })
    13 1 (if pass then 0 else 3) 2 slot [BitVec.ofNat 64 (b2n pass)]

/-- PACKED_MODE_TEST: the Groom runs both phases on a slot whose arrays are all in packed mode; a spare that fails is RETIRED.
 -/
def execPackedModeTest (slot : Nat) (test : SlotTest) (s : State) :
    Host.Outcome State Fault Refusal :=
  ok (
    if !(inTest s slot && slotPacked s slot) then s else
    let r := testSlot s slot test.prog test.bad
    let s1 := testResult r.2 slot r.1
    if !r.1 && (engineOn s slot).isNone then setSlot s1 slot .retired else s1)

/-- A spare is tested: its arrays enter packed mode, run the test and leave it again; the result goes to the Ostler, and a spare
that fails is RETIRED. -/
def testSpare (s : State) (p : Nat) (prog : TestProgram) (bad : List (Nat × Nat × W64)) : Bool × State :=
  let r := testSlot (packSlot s p true) p prog bad
  let u := testResult (packSlot r.2 p false) p r.1
  (r.1, if r.1 then u else setSlot u p .retired)

/-- SPARE_TEST_INTERVAL: every spare slot of a die that is not RETIRED is tested; those that fail are RETIRED. -/
def execSpareTestInterval (die : Nat) (tests : SpareTests) (s : State) :
    Host.Outcome State Fault Refusal :=
  ok (
    let spares := ((List.range 12).map fun k => spareOf s (die * 12 + k)).filterMap id
    let s1 := spares.foldl (fun t p => (testSpare t p tests.prog ((tests.bad.filter fun b => b.1 == p).map Prod.snd)).2) s
    modContain s1 fun c => { c with spareTests := c.spareTests + 1 })

/-! ### Clusters and dies leaving service (R16, R238, R349) -/

/-- A context is stranded (R349): its streams stop, what can be saved is saved, engines given are lost, and its LAUNCH completes
with CONTEXT_STATE, DETAIL 2 (R370). -/
def strandCtx (s : State) (c : Nat) (lost : List Nat) : State :=
  let x := ctxOf s c
  let stop (e : Engine) : Engine :=
    if holds e c ∧ (e.seq.state = .running ∨ e.seq.state = .waiting ∨ e.seq.state = .yielding) then
      { e with seq := { e.seq with state := .saved, preemptReq := false } }
    else e
  let s1 := (gang x).foldl (fun t ge => modEng t ge stop) (modCtx s c fun y => { y with st := .stranded })
  let s2 := if x.onGang || x.resident.isSome then swapOut s1 c else s1
  let mine := (gang x).filter lost.contains
  let s3 := modCtx s2 c fun y => { y with
    st := .stranded, swap := .none, lost := (y.lost ++ mine).eraseDups,
    saved := y.saved.filter fun (e : Nat × Engine) => !mine.contains e.1 }
  let s4 := { s3 with claims := s3.claims.filter fun (e : Nat × Nat) => e.2 != c + 1 }
  finishLaunch s4 c 3 2 0

/-- A cluster leaves service and its paddock (R16, R349): every context whose gang includes it is stranded.
 (log 100 DEDUCED) -/
def clusterLeaves (s : State) (k : Nat) (lost : List Nat) : State :=
  let cs := ((admitted s).filter fun e => bitAt e.2.sched.clusters k && e.2.st != .stranded).map Prod.fst
  let s1 := cs.foldl (fun t c => strandCtx t c lost) s
  let s2 := { s1 with pads := smapAll {} (fun _ p => { p with mask := clrBit p.mask k }) s1.pads }
  noteUnit (raiseGen (modContain s2 fun c => { c with clOut := sset false c.clOut k true }) 3 k) 13 2 4 3 k []

/-- The line of a message. -/
def msgLine : HMsg → Nat
  | .forward _ l _ _ _ => l | .inval _ l _ => l | .invAck _ l _ => l | .data _ l _ => l | .compAck _ l _ => l | .retry l _ _ => l

/-- The homes of a retired die end their business (R238): every line of its stacks is recalled from all caches and write-back
buffers, dirty data written back; their transactions and what waits there close, and who waits finds the address absent (R203). -/
def closeStacks (s : State) (d : Nat) : State :=
  let inD (l : Nat) : Bool := decide (d * (4 * stackBytes) ≤ l * 64 ∧ l * 64 < (d + 1) * (4 * stackBytes))
  let asked := ((s.harn.txns.filter fun t => inD t.line && !t.lost && !t.granted).map fun t => (t.agent, t.line))
    ++ ((s.harn.credits.filter fun t => inD t.line).map fun t => (t.agent, t.line))
    ++ ((s.harn.holds ++ s.harn.queued).filter fun t => inD t.line && t.agent != 128).map fun t => (t.agent, t.line)
  let s1 := (s.harn.txns.filter fun t => inD t.line && t.wasDirty && !t.buf.isEmpty).foldl (fun u t =>
    { u with mem := memWrite u.mem (t.line * 64) t.buf }) s
  let keys := ((s.harn.wb.map Prod.fst) ++ s.harn.lines.map Prod.fst).eraseDups.filter fun k => inD (k % 2 ^ 38)
  let s2 := keys.foldl (fun u k => dropCopy (writeBack u (k / 2 ^ 38) (k % 2 ^ 38)) (k / 2 ^ 38) (k % 2 ^ 38)) s1
  let s3 := modHarn s2 fun h => { h with
    wb := h.wb.filter fun e => !inD (e.1 % 2 ^ 38), dir := h.dir.filter fun e => !inD e.1,
    txns := h.txns.filter fun t => !inD t.line, msgs := h.msgs.filter fun m => !inD (msgLine m),
    deferred := h.deferred.filter fun m => !inD (msgLine m), credits := h.credits.filter fun c => !inD c.line,
    holds := h.holds.filter fun c => !inD c.line, queued := h.queued.filter fun c => !inD c.line,
    puts := h.puts.filter fun p => !inD p.2.1, pendInv := h.pendInv.filter fun p => !inD p.line,
    stale := h.stale.filter fun e => e.1 / 4 != d, reached := h.reached.filter fun e => e.1 % 64 / 4 != d,
    recalls := h.recalls.filter fun r => r.1 / 4 != d }
  asked.foldl (fun u p => reply u (.fault p.1 (p.2 * 64))) s3

/-- A compute die is retired with its four stacks (R3, R238, R349, R370): its cluster caches are written back, lines of its stacks
recalled, its clusters leave their paddocks, rings served there are disabled, and the stacks are absent. (log 101 DEDUCED) -/
def retireDie (s : State) (d : Nat) (lostLines : List Nat) (lostEng : List Nat) : State :=
  let ks := (List.range 12).map (12 * d + ·)
  let s1 := ks.foldl (fun t k => loseAgent (flushAgent t k lostLines) k) s
  let s2 := closeStacks s1 d
  let rs := (s2.rings.filter fun e => e.2.st != .disabled && ringDie s2 e.1 == d).map Prod.fst
  let s3 := ks.foldl (fun t k => clusterLeaves t k lostEng) s2
  let s4 := rs.foldl (fun t r => modRing t r fun y => { y with st := .disabled, head := y.tail, cur := none, doors := [] }) s3
  let s5 := { s4 with
    map := { s4.map with retired := some d },
    ost := { s4.ost with grooms := sset .running s4.ost.grooms d .retired },
    lands := { s4.lands with en := clrBit s4.lands.en d, pg := clrBit s4.lands.pg d } }
  noteUnit (unitEvent (repairDue (raiseGen s5 4 d) 4) 4 d) 13 3 5 4 d []

/-! ### The ladder (R377 to R379) -/

/-- The unit that encloses another. (log 99 DEDUCED) -/
def outerOf (kind unit : Nat) : Option (Nat × Nat) :=
  if kind = 1 then some (2, unit / 4) else if kind = 19 then some (2, unit / 5)
  else if kind = 2 then some (3, unit / 9) else if kind = 3 then some (4, unit / 12)
  else if kind = 7 then some (4, unit / 4) else if kind = 8 then some (6, unit / 8) else if kind = 9 then some (16, unit / 9)
  else if kind = 10 then some (if unit < 32 then (4, unit / 4) else (6, unit - 32)) else if kind = 11 then some (4, unit)
  else if kind = 16 ∨ kind = 17 then some (6, unit)
  else if kind = 18 then
    some (if unit < 512 then (16, unit / 16 / 9) else if unit < 520 then (4, unit - 512) else if unit < 522 then (5, unit - 520)
      else (6, unit - 522))
  else if kind = 4 ∨ kind = 5 ∨ kind = 6 then some (0, 0) else none

/-- Every unit that encloses a unit, from the nearest on. -/
def ancestors : Nat → Nat × Nat → List (Nat × Nat)
  | 0, _ => []
  | f + 1, u => match outerOf u.1 u.2 with
    | some p => p :: ancestors f p
    | none => []

/-- A unit encloses another. (log 99 DEDUCED) -/
def encloses (a b : Nat × Nat) : Bool := (ancestors 6 b).contains a

/-- The level of a unit: lane 1, array 2, engine 3, cluster 4, die 5, package 6. (log 99 DEDUCED) -/
def levelOf (kind : Nat) : Nat :=
  if kind = 18 then 1 else if kind = 1 ∨ kind = 19 then 2 else if kind = 2 then 3
  else if kind = 4 ∨ kind = 5 ∨ kind = 6 then 5 else if kind = 0 then 6 else 4

/-- What a report tells of its unit: whether an edge die's reset succeeded; lines that caches could not write back, and engines
whose state could not be read. -/
structure ReportInfo where
  resetOk : Bool
  lines : List Nat
  engines : List Nat

/-- A unit is held in reset, or let go. -/
def setOut (s : State) (kind n : Nat) (v : Bool) : State :=
  modContain s fun c => { c with out := sset false c.out (kind * 4096 + n) v }

/-- An NVMe initiator is reset: what it had sent to its controllers is sent again after its return (R377). (log 125 DEDUCED) -/
def resetNvme (s : State) (n : Nat) : State :=
  setOut { s with nvme := { s.nvme with reqs := s.nvme.reqs.map fun r => if r.unit = n then { r with sent := false } else r } } 17 n true

/-- The PCIe root ports of an edge die enter or leave reset (R20, R377). -/
def resetPorts (s : State) (n : Nat) (v : Bool) : State :=
  modLands s fun l => { l with
    portReset := if v then setBit (setBit l.portReset (2 * n)) (2 * n + 1) else clrBit (clrBit l.portReset (2 * n)) (2 * n + 1) }

/-- A home is reset and scrubbed (R20, R377): its directory empties as R251 has a set recalled, set by set.
 (log 125 DEDUCED) -/
def resetHome (s : State) (n : Nat) : State :=
  let sets := ((s.harn.dir.filter fun e => homeOf (e.1 * 64) == n).map fun e => dirSet e.1).eraseDups
  sets.foldl (fun t k => dirUncorrectable t n k) s

/-- A command processor is reset (R20, R377): its RING_CTL registers, and it starts no command until its re-admission.
 (log 125 DEDUCED) -/
def resetProcessor (s : State) (n : Nat) : State :=
  setOut (modCtl s n fun y => { y with word := 0, result := 0 }) 11 n true

/-- The containment of a unit (R377). -/
def containUnit (s : State) (u : Nat × Nat) (i : ReportInfo) : State :=
  let k := u.1
  let n := u.2
  if k = 2 then (match engineOn s n with
    | some ge => holdEngine s ge
    | none => if slotState s n = .retired then s else setSlot s n .held)
  else if k = 3 then
    let s1 := loseAgent (flushAgent s n i.lines) n
    if (spareOf s1 n).isSome then s1 else clusterLeaves s1 n i.engines
  else if k = 16 then relayUnitFault s n
  else if k = 9 then unitEvent (raiseGen (portDown s n) 9 n) 9 n
  else if k = 4 then (if s.map.retired.isSome then enterHobble s 4 i.lines else retireDie s n i.lines i.engines)
  else if k = 5 then raiseGen (resetHostDie s n i.lines) 5 n
  else if k = 6 then
    if i.resetOk then resetNvme (resetPorts (raiseGen (raiseGen (relayUnitFault s n) 16 n) 17 n) n true) n
    else enterHobble s 4 i.lines
  else if k = 10 then resetHome s n
  else if k = 11 then resetProcessor s n
  else if k = 17 then resetNvme (raiseGen s 17 n) n
  else if k = 0 then enterHobble s 4 i.lines
  else s

/-- A handling starts: what it encloses is covered by it, queued or under way, and its unit is contained. (log 99 DEDUCED) -/
def startHandling (s : State) (h : Handling) (i : ReportInfo) : State :=
  let inside (x : Handling) : Bool := encloses (h.kind, h.unit) (x.kind, x.unit)
  let covered := s.contain.queue.filter inside
  let more := ((s.contain.active.filter inside).map Handling.reports).sum
  let s1 := modContain s fun c => { c with
    active := (c.active.filter fun x => !inside x) ++ [{ h with reports := h.reports + more }],
    queue := c.queue.filter fun x => !inside x,
    absorbed := c.absorbed + BitVec.ofNat 64 covered.length }
  let s2 := noteUnit s1 13 4 h.level h.kind h.unit [BitVec.ofNat 64 (h.reports + more)]
  containUnit s2 (h.kind, h.unit) i

/-- The die that holds a unit, or the package. -/
def dieOfUnit (u : Nat × Nat) : Nat × Nat :=
  ((u :: ancestors 6 u).find? fun a => a.1 == 4 || a.1 == 5 || a.1 == 6).getD (0, 0)

/-- A report joins the queue: highest severity first, then in arrival order. -/
def enqueueReport (q : List Handling) (h : Handling) : List Handling :=
  (q.takeWhile fun x => decide (h.level ≤ x.level)) ++ [h] ++ q.dropWhile fun x => decide (h.level ≤ x.level)

/-- An error report is taken (R378, R379): it escalates, is absorbed, starts, queues, or finds the queue full. -/
def takeReport (s : State) (u : Nat × Nat) (i : ReportInfo) : State :=
  let h : Handling := { kind := u.1, unit := u.2, level := levelOf u.1 }
  let at_ (x : Handling) : Nat × Nat := (x.kind, x.unit)
  if s.contain.active.any fun x => at_ x == u || encloses u (at_ x) then
    let p := (outerOf u.1 u.2).getD (0, 0)
    let old := s.contain.active.filter fun x => at_ x == u || encloses u (at_ x)
    let s1 := modContain s fun c => { c with
      escalations := c.escalations + 1, active := c.active.filter fun x => !(at_ x == u || encloses u (at_ x)) }
    startHandling s1 { kind := p.1, unit := p.2, level := levelOf p.1, reports := 1 + (old.map Handling.reports).sum } i
  else if s.contain.active.any fun x => encloses (at_ x) u then
    noteUnit (modContain s fun c => { c with absorbed := c.absorbed + 1 }) 13 5 1 u.1 u.2 []
  else if s.contain.active.length < 8 then startHandling s h i
  else if s.contain.queue.length < 256 then modContain s fun c => { c with queue := enqueueReport c.queue h }
  else
    let d := dieOfUnit u
    startHandling s { kind := d.1, unit := d.2, level := 5 } i

/-- The Groom that reports for a unit: cd0 to cd7, hc0, hc1, ed0, ed1; none for the package. -/
def groomOf (u : Nat × Nat) : Option Nat :=
  let d := dieOfUnit u
  if d.1 = 4 then some d.2 else if d.1 = 5 then some (8 + d.2) else if d.1 = 6 then some (10 + d.2) else none

/-- A report of a unit reaches the Ostler: while the die's Groom restarts it waits in the die's buffer of 64 (R410).
 -/
def reportUnit (s : State) (u : Nat × Nat) (i : ReportInfo) : State :=
  match groomOf u with
  | none => takeReport s u i
  | some g =>
    if sget .running s.ost.grooms g != .restarting then takeReport s u i else
    let w := sget [] s.ost.waiting g
    if w.length < 64 then { s with ost := { s.ost with waiting := sset [] s.ost.waiting g (w ++ [u]) } }
    else { s with ost := { s.ost with overflow := sset false s.ost.overflow g true } }

/-- The die of a harness agent (R233), as a unit. -/
def dieOfAgent (a : Nat) : Nat × Nat :=
  if a < 96 then (4, dieOfCluster a) else if a < 98 then (5, a - 96) else if a < 106 then (4, a - 98) else (6, a - 106)

/-- A forward or invalidation unacknowledged after 10 µs (R250): the agent is reported to the home's Groom, and the silent
agent's die comes under the ladder. Its line stays open until the agent is declared lost. -/
def execHarnessAckTimeout (agent : Nat) (x : AckLoss) (s : State) : Host.Outcome State Fault Refusal :=
  ok (match canon s.map x.pa with
    | none => s
    | some a =>
      let due (t : Txn) : Bool := t.line == a / 64 && (t.fwd == some agent || t.acks.contains agent)
      if s.harn.txns.any due || s.harn.pendInv.any (fun p => p.line == a / 64 && p.agent == agent) then
        reportUnit (note s 5 1 3 10 (homeOf a) [BitVec.ofNat 64 agent, BitVec.ofNat 64 a]) (dieOfAgent agent)
          { resetOk := true, lines := x.lines, engines := x.engines }
      else s)

/-- A directory entry error (R251): corrected, it is counted and marked; uncorrectable, its set is recalled, and a second one
before the home's Groom clears the first contains the die. -/
def execDirUncorrectableError (home : Nat) (x : SetError) (s : State) :
    Host.Outcome State Fault Refusal :=
  ok (match x.fixed with
    | some pa =>
      (match canon s.map pa with
       | some a => dirCorrected s (a / 64)
       | none => s)
    | none =>
      let second := sget false s.harn.hwPending home
      let s1 := note s 5 (if second then 4 else 3) (if second then 5 else 2) 10 home [BitVec.ofNat 64 x.set]
      let s2 := dirUncorrectable s1 home x.set
      if second then reportUnit s2 (dieOfUnit (10, home)) { resetOk := true, lines := x.lines, engines := x.engines } else s2)

/-- CONTAINMENT_REPORT. (log 99 DEDUCED) -/
def execContainmentReport (kind unit : Nat) (resetOk : Bool) (lines engines : List Nat) (s : State) :
    Host.Outcome State Fault Refusal :=
  ok (reportUnit s (kind, unit) { resetOk := resetOk, lines := lines, engines := engines })

/-- What the Groom clears at a unit when its fault is cleared (R87 to R89, R91, R127, R154, R156, R251, R294).
 (log 102 DEDUCED; log 125 DEDUCED) -/
def clearFault (s : State) (u : Nat × Nat) : State :=
  let k := u.1
  let n := u.2
  let onSlot (p : Nat) (f : Engine → Engine) : State := match engineOn s p with | some ge => modEng s ge f | none => s
  if k = 1 then onSlot (n / 4) fun e =>
    setArr e (n % 4) { arrOf e (n % 4) with hwPending := false, faultCode := 0 }
  else if k = 19 then onSlot (n / 5) fun e =>
    if n % 5 = 0 then { e with chain := { e.chain with hwPending := false, faultCode := 0 } }
    else { e with units := { e.units with mqFault := sset false e.units.mqFault (n % 5 - 1) false } }
  else if k = 10 then { s with
    harn := { s.harn with hwPending := sset false s.harn.hwPending n false },
    cmb := { s.cmb with hwPending := sset false s.cmb.hwPending n false } }
  else if k = 11 then setOut s 11 n false
  else if k = 16 ∨ k = 6 then { s with rly := { s.rly with
    faulted := clrBit s.rly.faulted n, outOfService := clrBit s.rly.outOfService n } }
  else s

/-- CONTAINMENT_CLEAR: a handling ends, and the next queued report starts. (log 102 DEDUCED) -/
def execContainmentClear (kind unit : Nat) (s : State) : Host.Outcome State Fault Refusal :=
  ok (
    if !s.contain.active.any (fun x => x.kind == kind && x.unit == unit) then s else
    let s1 := modContain s fun c => { c with active := c.active.filter fun x => !(x.kind == kind && x.unit == unit) }
    let s2 := noteUnit (clearFault s1 (kind, unit)) 13 6 0 kind unit []
    match s2.contain.queue with
    | [] => s2
    | h :: r =>
      if 8 ≤ s2.contain.active.length then s2
      else startHandling (modContain s2 fun c => { c with queue := r }) h { resetOk := true, lines := [], engines := [] })

/-! ### Remount (R380, R381) -/

/-- REMOUNT: for a HELD slot the spare is proposed and tested; without one, or when it fails, the cluster leaves service. -/
def execRemount (slot : Nat) (test : SlotTest) (readable : Bool) (s : State) :
    Host.Outcome State Fault Refusal :=
  ok (
    if slotState s slot != .held || s.contain.remounts.any (fun r => r.slot == slot) || (engineOn s slot).isNone then s else
    let lost := if readable then [] else (engineOn s slot).toList
    let free := (spareOf s (slot / 9)).filter fun p => slotState s p != .held && !s.contain.remounts.any fun r => r.spare == p
    match free with
    | none => clusterLeaves s (slot / 9) lost
    | some p =>
      let r := testSpare s p test.prog test.bad
      if r.1 then modContain r.2 fun c => { c with remounts := c.remounts ++ [{ slot := slot, spare := p }] }
      else clusterLeaves r.2 (slot / 9) lost)

/-- SPARE_MAP_COMMIT: the Ostler commits the new spare map (step 4); without an Ostler it waits. (log 100 DEDUCED) -/
def execSpareMapCommit (slot : Nat) (s : State) : Host.Outcome State Fault Refusal :=
  ok (
    if s.ost.failed || !s.contain.remounts.any (fun r => r.slot == slot && !r.committed) then s else
    repairDue (modContain s fun c => { c with
      remounts := c.remounts.map fun r => if r.slot = slot then { r with committed := true } else r }) 1)

/-- An engine whose state was lost starts from initialised state, and every context with state on it is UNRECOVERABLE (R381).
 (log 102 DEDUCED) -/
def loseEngine (s : State) (ge : Nat) : State :=
  let cs := ((admitted s).filter fun e => (gang e.2).contains ge && (e.2.onGang || e.2.resident.isSome)).map Prod.fst
  let pc := (eng s ge).seq.pc
  let c := (eng s ge).seq.context
  let on := (eng s ge).taken
  let q (x : Seq) : Seq := if on && cs.contains c then
    { x with context := c, state := .faulted, faultCode := cUNREC, faultPc := pc, pc := pc } else x
  let s1 := setEng s ge { ({} : Engine) with taken := on, seq := q {} }
  cs.foldl (fun t d => modCtx t d fun y => { y with
    unrec := true, faulted := true, lost := (y.lost ++ [ge]).eraseDups, saved := y.saved.filter fun (e : Nat × Engine) => e.1 != ge }) s1

/-- A logical engine lies on a slot of its cluster from now on (R16). -/
def mapEngine (s : State) (ge p : Nat) : State :=
  { s with slots := { s.slots with map := sset none s.slots.map ge (if p % 9 = ge % 8 then none else some (p % 9)) } }

/-- REMOUNT_RESUME: the state stands on the spare, the logical engine is remapped and resumes; the old slot is RETIRED. -/
def execRemountResume (slot : Nat) (readable : Bool) (s : State) : Host.Outcome State Fault Refusal :=
  ok (
    match s.contain.remounts.find? fun r => r.slot == slot && r.committed, engineOn s slot with
    | some r, some ge =>
      let s2 := setSlot (setSlot (mapEngine s ge r.spare) r.spare .inService) slot .retired
      let s3 := modContain s2 fun c => { c with remounts := c.remounts.filter fun x => x.slot != slot }
      noteUnit (unitEvent (if readable then s3 else loseEngine s3 ge) 2 slot) 13 7 1 2 slot [BitVec.ofNat 64 r.spare]
    | _, _ => s)

/-! ### Generations and re-admission (R382, R383) -/

/-- Memory from an address on is initialised to +0 and its poison cleared (R229). (log 101 DEDUCED) -/
def zeroMemory (s : State) (a n : Nat) : State :=
  let out (k w : Nat) : Bool := decide (k * w < a ∨ a + n ≤ k * w)
  { s with mem := { s.mem with
      bytes := s.mem.bytes.filter fun (e : Nat × Byte) => out e.1 1,
      poison := s.mem.poison.filter fun (e : Nat × Bool) => out e.1 64,
      attr := smapAll 0 (fun r v => if out r mib2 then v else v % 4) s.mem.attr } }

/-- The unit's memory contents stand (R383 step 3): its copy equals the record, or is one below it after sleep. -/
def contentsStand (s : State) (kind unit : Nat) (bySleep : Bool) : Bool :=
  let r := sget 0 s.gens.record (kind * 4096 + unit)
  let c := sget 0 s.gens.copy (kind * 4096 + unit)
  c == r || (bySleep && decide (r = (c + 1) % 65536))

/-- The engine of a slot is initialised. -/
def initEngineOn (s : State) (slot : Nat) : State := match engineOn s slot with | some ge => setEng s ge {} | none => s

/-- What an admitted unit takes up again. (log 125 DEDUCED) -/
def admitKind (s : State) (kind n : Nat) (stand : Bool) : State :=
  if kind = 2 then setSlot (initEngineOn s n) n .inService
  else if kind = 3 then
    let s1 := loseAgent s n
    let s2 := (List.range 9).foldl (fun t e => if slotState t (n * 9 + e) = .retired then t
      else setSlot (initEngineOn t (n * 9 + e)) (n * 9 + e) .inService) s1
    let s3 := modContain s2 fun c => { c with clOut := sset false c.clOut n false }
    if stand then s3 else modPower s3 fun p => { p with monitors := sset {} p.monitors n {} }
  else if kind = 4 then
    if s.map.retired ≠ some n then s else
    let s1 := zeroMemory { s with
      map := { s.map with retired := none }, ost := { s.ost with grooms := sset .running s.ost.grooms n .running },
      lands := { s.lands with en := setBit s.lands.en n } } (n * (4 * stackBytes)) (4 * stackBytes)
    repairDue (modContain s1 fun c => { c with clOut := c.clOut.filter fun (e : Nat × Bool) => e.1 / 12 != n }) 4
  else if kind = 5 then exitHostDie s n
  else if kind = 6 then
    readmitRecorder { setOut (resetPorts s n false) 17 n false with
      rly := { s.rly with faulted := clrBit s.rly.faulted n, outOfService := clrBit s.rly.outOfService n },
      ost := { s.ost with mustTest := if n ≠ s.ost.active then false else s.ost.mustTest } } n
  else if kind = 7 then (if stand then s else zeroMemory s (n * stackBytes) stackBytes)
  else if kind = 8 then (if stand then s else zeroMemory s (lpBase + n * lpSpan) lpSpan)
  else if kind = 9 then { s with rly := { s.rly with ports := smod {} s.rly.ports n fun p =>
      let q : Port := if stand then p else { p with laneMap := 0x76543210, spareUsed := false }
      { q with failed := 0, sparing := false } } }
  else if kind = 16 then { s with rly := { s.rly with faulted := clrBit s.rly.faulted n, outOfService := clrBit s.rly.outOfService n } }
  else if kind = 10 ∨ kind = 11 then clearFault s (kind, n)
  else if kind = 17 then setOut s 17 n false
  else s

/-- A slot that fails its test is RETIRED (R16, R21, R383): its logical engine, whose state is lost, goes to the cluster's spare, or
the cluster, whose spare is in service already, leaves service. -/
def retireSlot (s : State) (n : Nat) : State :=
  match engineOn s n with
  | none => setSlot s n .retired
  | some ge =>
    let s1 := setSlot s n .retired
    match (spareOf s1 (n / 9)).filter fun p => slotState s1 p != .held && !s1.contain.remounts.any fun r => r.spare == p with
    | none => clusterLeaves s1 (n / 9) [ge]
    | some p => setSlot (loseEngine (mapEngine s1 ge p) ge) p .inService

/-- A unit that fails its test is RETIRED. (log 100 DEDUCED) -/
def retireUnit (s : State) (kind n : Nat) : State :=
  if kind = 2 then retireSlot s n
  else if kind = 3 then clusterLeaves s n []
  else if kind = 4 then (if s.map.retired = some n then s else if s.map.retired.isSome then enterHobble s 4 [] else retireDie s n [] [])
  else
    let s1 := if kind = 9 then portDown s n else s
    modContain s1 fun c => { c with retired := sset false c.retired (kind * 4096 + n) true }

/-- A unit returns from repair or sleep (R383): scrubbed and invalidated, its contents kept or lost by its generation, tested, and
admitted with the record written to its Groom's copy, or RETIRED. (log 101 DEDUCED) -/
def admitUnit (s : State) (kind n : Nat) (pass bySleep : Bool) : State :=
  if !pass then noteUnit (retireUnit s kind n) 13 8 4 kind n [] else
  let k := kind * 4096 + n
  let s1 := admitKind s kind n (contentsStand s kind n bySleep)
  noteUnit { s1 with
    gens := { s1.gens with copy := sset 0 s1.gens.copy k (sget 0 s1.gens.record k) },
    contain := { s1.contain with retired := sset false s1.contain.retired k false } } 13 9 0 kind n []

/-- UNIT_READMISSION. (log 101 DEDUCED) -/
def execUnitReadmission (kind unit : Nat) (pass bySleep : Bool) (s : State) : Host.Outcome State Fault Refusal :=
  ok (admitUnit s kind unit pass bySleep)

/-- Every unit that was in service returns at once, as sleep lets it (R442 step 3, R443); those given fail their test. Contexts
whose engine state was lost are UNRECOVERABLE, and the host dies boot. (log 97 DESIGN CHOICE) -/
def readmitAll (s : State) (failed : List (Nat × Nat)) : State :=
  let held := ((admitted s).filter fun e => e.2.resident.isSome || e.2.onGang).map Prod.fst
  let s1 := held.foldl (fun t c => modCtx t c fun y => { y with
    unrec := true, faulted := true, resident := none, onGang := false, swap := .none, saved := [],
    st := if y.st = .stranded then .stranded else .faulted }) s
  let s2 := { s1 with gens := { s1.gens with copy := s1.gens.record } }
  let s3 := exitHostDie (exitHostDie s2 0) 1
  failed.foldl (fun t u => admitUnit t u.1 u.2 false true) s3

end Sys2Proof.Machine
end

