-- ==== Sys2Proof/Machine/Power.lean ====
section
/-! DEFINITION. Gait monitors, the rate governor, rein and floor breaches, slew and coolant demand, calibration, sensors, retraining,
Hobble and sleep as commands (R425 to R444). Times are ostler_time in ns; powers in W, voltages in mV, gaits in Mwave/s. -/

namespace Sys2Proof.Machine

/-! ### Gait (R425, R437) -/

/-- CAL of a cluster, in millionths: as live calibration has moved it, or its starting trim, from 0.85 to 1.15. -/
def calOf (s : State) (k : Nat) : Nat := (monOf s k).cal.getD (max 850000 (min 1150000 (Config.calTrim k)))

/-- Changes a monitor. -/
def modMon (s : State) (k : Nat) (f : Monitor → Monitor) : State :=
  modPower s fun p => { p with monitors := smod {} p.monitors k f }

/-- GAIT_MONITOR_SAMPLE: PRED × CAL; a faulty monitor reads live × 0.97 while busy, else the lowest of the die's others. -/
def execGaitMonitorSample (cluster pred live : Nat) (s : State) : Host.Outcome State Fault Refusal :=
  let others := ((List.range 12).map (cluster / 12 * 12 + ·)).filter fun k => k != cluster && !sget false s.contain.clOut k
  let g := if !(monOf s cluster).faulty then pred * calOf s cluster / 1000000
    else if 0 < live then live * 97 / 100 else (others.map fun k => (monOf s k).gait).min?.getD 0
  ok (modMon s cluster fun m => { m with gait := g })

/-- LIVE_CALIBRATION: of a cluster whose arrays advanced in at least half the waves of the last 10 ms: CAL moves toward live / PRED
by no more than 0.5 %. (log 104 DESIGN CHOICE) -/
def execLiveCalibration (cluster pred live : Nat) (s : State) : Host.Outcome State Fault Refusal :=
  ok (
    if pred = 0 then s else
    let c := calOf s cluster
    let want := live * 1000000 / pred
    let v := if c < want then min want (c + c * 5 / 1000) else max want (c - c * 5 / 1000)
    if v < 850000 ∨ 1150000 < v then
      note (modMon s cluster fun m => { m with faulty := true }) 10 4 2 3 cluster [BitVec.ofNat 64 v]
    else modMon s cluster fun m => { m with cal := some v })

/-- REPLICA_SELF_CHECK: the CAL that the check finds, in millionths; in range, it clears the monitor's fault.
 (log 104 DESIGN CHOICE) -/
def execReplicaSelfCheck (cluster cal : Nat) (s : State) : Host.Outcome State Fault Refusal :=
  ok (if (monOf s cluster).faulty ∧ 850000 ≤ cal ∧ cal ≤ 1150000 then
      modMon s cluster fun m => { m with faulty := false, cal := some cal }
    else s)

/-! ### Rein and floor breaches (R432, R433) -/

/-- The rein duty that applies to a die: 16 under the brake, a Groom's rein or a failed AVSBus, else the governor's.
 (log 30 DESIGN CHOICE) -/
def reinOf (s : State) (d : Nat) : Nat :=
  let p := dieOf s d
  if s.lands.brake || p.groomRein || p.holdRein || p.avsFail then 16 else p.duty

/-- Applies the rein of a die (R432). -/
def applyRein (s : State) (d : Nat) : State := { s with rein := sset 0 s.rein d (reinOf s d) }

/-- A breach is recorded against a die, once while it lasts (R433). -/
def startBreach (s : State) (d cause : Nat) : State :=
  let s1 := modPower s fun p => { p with condAt := s.ost.time }
  if s.power.breaches.any fun b => b.die == d && b.cause == cause then s1 else
  noteUnit (modPower s1 fun p => { p with
    breaches := p.breaches ++ [{ die := d, cause := cause, start := s.ost.time }], breachCause := cause,
    breachCount := p.breachCount + 1 }) 10 1 2 4 d [BitVec.ofNat 64 d, BitVec.ofNat 64 cause]

/-- VMAX of a compute die (R427). -/
def vmaxOf (d : Nat) : Nat := max 700 (min 850 (Config.vmaxTrim d))

/-- The compute dies in service. -/
def diesIn (s : State) : List Nat := (List.range 8).filter fun d => !dieRetired s.map d

/-- A condition of R433 holds on some die. (log 44 DEDUCED) -/
def breachHolds (s : State) : Bool :=
  (diesIn s).any fun d => sget 0 s.rein d != 0 || (decide (dieGait s d < 1600) && (dieOf s d).vddc == vmaxOf d
    && s.power.breaches.any fun b => b.die == d && b.cause == 1)

/-- FLOOR_BREACH_CLEAR: no condition has held on any die for 100 ms. (log 105 DEDUCED) -/
def execFloorBreachClear (s : State) : Host.Outcome State Fault Refusal :=
  ok (
    if breachHolds s ∨ s.ost.time < s.power.condAt + 100000000 then s else
    let s1 := s.power.breaches.foldl (fun (t : State) (b : Breach) => noteUnit t 10 2 0 4 b.die
      [BitVec.ofNat 64 b.die, BitVec.ofNat 64 b.cause, BitVec.ofNat 64 (s.ost.time - b.start)]) s
    modPower s1 fun p => { p with breaches := [] })

/-- GROOM_POWER_SAMPLE: a 10 µs sample above 1.2 × the die's cap reins the die to the end of the interval (R431). -/
def execGroomPowerSample (die power : Nat) (s : State) : Host.Outcome State Fault Refusal :=
  ok (
    if 12 * (dieOf s die).cap < 10 * power ∧ die < 8 then
      startBreach (applyRein (modDie s die fun p => { p with groomRein := true }) die) die 2
    else s)

/-! ### The rate governor (R429 to R431) -/

/-- A share of a limit for the compute dies, in proportion to their die_power_cap (R430). (log 103 DESIGN CHOICE) -/
def shareOf (s : State) (total d : Nat) : Nat :=
  let sum := ((diesIn s).map fun k => od s 0x3001 (k + 1)).sum
  if sum = 0 then 0 else total * od s 0x3001 (d + 1) / sum

/-- The cap of a die: its own, its share of the package cap, its share of the ramp ceiling, lowered while thermal_slow, and the
breach cause that a rein for it has. `rest` is the power of everything but the compute dies. (log 103 DESIGN CHOICE) -/
def dieCap (s : State) (d rest : Nat) : Nat × Nat :=
  let share := shareOf s (od s 0x3000 1 - rest) d
  let base := min (od s 0x3001 (d + 1)) share
  let ramp := match s.power.ceiling with
    | some c => shareOf s (c - rest) d
    | none => base
  let p := dieOf s d
  if p.slow then (min (min base ramp) (95 * p.last / 100), 4) else if ramp < base then (ramp, 3) else (base, 2)

/-- One governor interval of a compute die with mean power P (R429). (log 44 DEDUCED; log 103 DESIGN CHOICE) -/
def governDie (s : State) (d power rest : Nat) : State :=
  let p := dieOf s d
  let g := dieGait s d
  let c := dieCap s d rest
  let vmax := vmaxOf d
  let v := p.vddc
  let set (t : State) (mv duty : Nat) : State :=
    applyRein (modDie t d fun x => { x with vddc := max 550 (min 850 mv), duty := duty, cap := c.1, last := power,
                                            groomRein := false, holdRein := false }) d
  if s.lands.brake || p.avsFail then modDie s d fun x => { x with cap := c.1, last := power }
  else if g < 1600 then
    let t := set s (min (v + 25) vmax) p.duty
    if v = vmax then startBreach t d 1 else t
  else if c.1 < power then
    if 1616 < g then set s (v - 5) p.duty
    else startBreach (set s v (min (p.duty + 1) 16)) d c.2
  else if 0 < p.duty ∧ 100 * power < 98 * c.1 then set s v (p.duty - 1)
  else if g < 2000 ∧ 100 * power < 98 * c.1 ∧ v < vmax then set s (v + 5) p.duty
  else if 2020 < g then set s (v - 5) p.duty
  else set s v p.duty

/-- Valid junction sensors of a compute die (R439). (log 104 DESIGN CHOICE) -/
def validSensors (s : State) (d : Nat) : Nat := 16 - ((List.range 16).filter fun i => sget false s.power.suspects (d * 16 + i)).length

/-- Readings of an interval take effect (R440): temperatures, refresh rates, thermal_slow. (log 104 DESIGN CHOICE) -/
def readTemps (s : State) (ts hbm : List Int) : State :=
  let t (l : List Int) (i : Nat) : Int := l.getD i 0
  let s1 := modPower s fun p => { p with
    temps := (List.range 12).foldl (fun (m : SMap Int) i => sset 0 m i (t ts i)) p.temps
    hbmTemps := (List.range 32).foldl (fun (m : SMap Int) i => sset 0 m i (t hbm i)) p.hbmTemps
    refresh2 := (List.range 32).foldl (fun (m : SMap Bool) i => sset false m i (decide (85 ≤ t hbm i))) p.refresh2
    hotAt := if ts.any (fun x => decide (95 < x)) || hbm.any (fun x => decide (95 < x)) then some s.ost.time else p.hotAt }
  (List.range 8).foldl (fun u d =>
    let must := (List.range 4).any (fun j => decide (95 ≤ t hbm (4 * d + j))) || decide (validSensors s d < 4)
    modDie u d fun x => { x with slow := must || decide (105 ≤ t ts d) || (x.slow && decide (103 < t ts d)) }) s1

/-- The host dies' core frequency (R430): 100 MHz down where a die is above 210 W, or the package above its cap with every compute
die fully reined; up where neither holds. (log 103 DESIGN CHOICE) -/
def governHost (s : State) (h power : Nat) (cut : Bool) : State :=
  let top := od s 0x3018 1
  let f := min top (sget 3600 s.hosts.freq h)
  let v := if s.lands.brake then 800 else if 210 < power ∨ cut = true then max 800 (f - 100)
    else if 100 * power < 98 * 210 then min top (f + 100) else f
  { s with hosts := { s.hosts with freq := sset 3600 s.hosts.freq h v } }

/-- GOVERNOR_INTERVAL: each compute die's mean power; the power of stacks, edge dies and regulation; the host dies' powers; the
hottest valid reading of each of the twelve dies and of each stack; compute dies whose AVSBus failed three times; and lines lost
where a threshold takes the package into Hobble. (log 103 DESIGN CHOICE) -/
def execGovernorInterval (powers : List Nat) (other : Nat) (hosts : List Nat) (temps hbm : List Int) (avs lost : List Nat)
    (s : State) : Host.Outcome State Fault Refusal :=
  ok (
    let s1 := readTemps s temps hbm
    if temps.any (fun x => decide (115 ≤ x)) || hbm.any (fun x => decide (105 ≤ x)) then enterHobble s1 1 lost
    else if !powered s || s.ost.failed then s1
    else
      let rest := other + hosts.sum
      let total := rest + powers.sum
      let s2 := avs.foldl (fun t d => startBreach (applyRein (modDie t d fun x => { x with avsFail := true }) d) d 6) s1
      let s3 := (diesIn s2).foldl (fun t d =>
        let u := governDie t d (powers.getD d 0) rest
        if sget .running s.ost.grooms d == .restarting && decide (12 * (dieOf u d).cap < 10 * powers.getD d 0) then
          startBreach (applyRein (modDie u d fun x => { x with holdRein := true }) d) d 2
        else u) s2
      let n := if od s 0x3000 1 < total then s.power.excess + 1 else 0
      let s4 := modPower s3 fun p => { p with excess := n }
      let s5 := if n ≤ 100 then s4 else (diesIn s4).foldl (fun t d =>
        startBreach (applyRein (modDie t d fun x => { x with duty := min 16 (x.duty + 1) }) d) d 2) s4
      let cut := decide (od s 0x3000 1 < total) && (diesIn s5).all fun d => sget 0 s5.rein d == 16
      let s6 := governHost (governHost s5 0 (hosts.getD 0 0) cut) 1 (hosts.getD 1 0) cut
      if breachHolds s6 then modPower s6 fun p => { p with condAt := s.ost.time } else s6)

/-- AVSBUS_RETRY: a transaction that succeeds gives the die back to the governor (R434). -/
def execAvsbusRetry (die : Nat) (good : Bool) (s : State) : Host.Outcome State Fault Refusal :=
  ok (if good ∧ (dieOf s die).avsFail = true then applyRein (modDie s die fun x => { x with avsFail := false }) die else s)

/-! ### Slew, load floor, coolant demand (R435, R436) -/

/-- SLEW_WINDOW: a 1 ms window has ended with the package's and each compute die's mean power; full: every array was filling. -/
def execSlewWindow (mean : Nat) (dies : List Nat) (full : Bool) (s : State) : Host.Outcome State Fault Refusal :=
  let slew := od s 0x3002 1 / 10
  let floor := max (min (od s 0x3006 1) (od s 0x3000 1)) (mean - slew)
  let low := decide (mean < s.power.floor)
  let s1 := modPower s fun p => { p with
    power := mean, ceiling := some (mean + slew), floor := floor,
    shortfall := if low && full then p.shortfall + 1 else p.shortfall }
  ok ((diesIn s).foldl (fun t d => modDie t d fun x => { x with
    power := dies.getD d 0, fill := low && !x.slow && sget 0 s.rein d == 0 }) s1)

/-- COOLANT_DEMAND_UPDATE: with the mean package power over the last 1 s; a rise above 500 W within 100 ms is recorded. -/
def execCoolantDemandUpdate (mean : Nat) (s : State) : Host.Outcome State Fault Refusal :=
  let v := (max mean (s.power.ceiling.getD 0) + 49) / 50 * 50
  let s1 := modPower s fun p => { p with demand := v, demands := (v :: p.demands).take 10 }
  ok (if s.power.demands.any fun x => decide (x + 500 < v) then noteUnit s1 10 3 1 0 0 [BitVec.ofNat 64 v] else s1)

/-! ### Supplies, sensors, retraining (R434, R438, R439) -/

/-- SUPPLY_FAULT. -/
def execSupplyFault (lost : List Nat) (s : State) : Host.Outcome State Fault Refusal :=
  ok (enterHobble (modPower s fun p => { p with supplyAt := some s.ost.time }) 3 lost)

/-- Readings in ascending order. -/
def ascending (l : List Int) : List Int :=
  l.foldl (fun acc v => (acc.takeWhile fun x => decide (x ≤ v)) ++ [v] ++ acc.dropWhile fun x => decide (x ≤ v)) []

/-- The median of readings: the middle one in ascending order. (log 104 DESIGN CHOICE) -/
def median (l : List Int) : Int := (ascending l).getD (l.length / 2) 0

/-- SENSOR_CHECK: each sensor of a die: its reading, its expected offset from the median, and whether it has stuck.
 (log 104 DESIGN CHOICE) -/
def execSensorCheck (die : Nat) (reads : List (Int × Int × Bool)) (s : State) : Host.Outcome State Fault Refusal :=
  let m := median (reads.map fun r => r.1)
  let bad (r : Int × Int × Bool) : Bool := r.2.2 || decide (8 < r.1 - m - r.2.1) || decide (8 < m + r.2.1 - r.1)
  ok ((reads.zipIdx).foldl (fun t (x : (Int × Int × Bool) × Nat) =>
    let k := die * 16 + x.2
    let u := modPower t fun p => { p with suspects := sset false p.suspects k (bad x.1) }
    if bad x.1 && !sget false t.power.suspects k then
      noteUnit u 10 5 2 (if die < 8 then 4 else if die < 10 then 5 else 6) (if die < 8 then die else (die - 8) % 2) [BitVec.ofNat 64 x.2]
    else u) s)

/-- EYE_RETRAIN_SCAN: of a pseudo-channel (stack * 32 + channel; LPDDR5X channels from 1024 on): up to 64 holds, after those of a
scan in progress. (log 105 DEDUCED) -/
def execEyeRetrainScan (pc : Nat) (s : State) : Host.Outcome State Fault Refusal :=
  ok (modPower s fun p => { p with scans := smod 0 p.scans pc (· + 64) })

/-- EYE_RETRAIN_HOLD: one hold of a scan in progress; requests that it held are served after it. (log 105 DEDUCED) -/
def execEyeRetrainHold (pc : Nat) (s : State) : Host.Outcome State Fault Refusal :=
  ok (modPower s fun p => { p with scans := smod 0 p.scans pc (· - 1) })

/-! ### Hobble and sleep (R440 to R444) -/

/-- THERMAL_TRIP: a die's rails are cut, THERMTRIP_N goes low, severity 7. -/
def execThermalTrip (die : Nat) (lost : List Nat) (s : State) : Host.Outcome State Fault Refusal :=
  let s1 := modLands s fun l => { l with thermtrip := true, en := if die < 10 then clrBit l.en die else l.en }
  let s2 := modPower s1 fun p => { p with hotAt := some s.ost.time }
  ok (enterHobble (noteUnit s2 10 8 7 (if die < 8 then 4 else if die < 10 then 5 else 6) (if die < 8 then die else (die - 8) % 2) []) 2 lost)

/-- HOBBLE_REQUEST. -/
def execHobbleRequest (lost : List Nat) (s : State) : Host.Outcome State Fault Refusal := ok (abortWith (enterHobble s 6 lost) aNONE)

/-- The cause of Hobble has cleared (R442). -/
def hobbleClear (s : State) : Bool :=
  (match s.power.hotAt with | some t => decide (t + 10000000000 ≤ s.ost.time) | none => true)
    && (match s.power.supplyAt with | some t => decide (t + 100000000 ≤ s.ost.time) | none => true)

/-- Hobble ends (R442): the rails come up first. (log 97 DESIGN CHOICE) -/
def exitHobble (s : State) : Except Nat State :=
  if s.power.hobble ≠ 2 ∨ hobbleClear s = false ∨ s.ost.failed = true then .error aSTATE
  else .ok (startRails (modPower s fun p => { p with hobble := 3 }) .hobbleExit)

/-- HOBBLE_EXIT. -/
def execHobbleExit (s : State) : Host.Outcome State Fault Refusal := ok (ownWrite s (exitHobble s))

/-- HOBBLE_AUTO_EXIT. -/
def execHobbleAutoExit (s : State) : Host.Outcome State Fault Refusal :=
  ok (if od s 0x3008 5 = 1 then (match exitHobble s with | .ok t => t | .error _ => s) else s)

/-- A sleep request (R443). -/
def requestSleep (s : State) (lost : List Nat) : Except Nat State :=
  if !powered s || s.pads.any (fun e => e.2.st != .unused && e.2.st != .stopped) then .error aSTATE else .ok (enterSleep s lost)

/-- SLEEP_REQUEST. -/
def execSleepRequest (lost : List Nat) (s : State) : Host.Outcome State Fault Refusal := ok (ownWrite s (requestSleep s lost))

end Sys2Proof.Machine
end

