-- ==== Sys2Proof/Machine/Boot.lean ====
section
/-! DEFINITION. Images and their verification, the boot path, power-up and the lands, the test access port (R229, R406, R466 to
R471, R490, R494). -/

namespace Sys2Proof.Machine

/-- An Ostler core recovers the secret from its die's record; else it fails its self-test and never takes the role (R465). -/
def hasSecret (s : State) (core : Nat) : Bool := !s.boot.finds.noSecret.contains core

/-- Changes the boot state. -/
def modBoot (s : State) (f : Boot → Boot) : State := { s with boot := f s.boot }

/-! ### Images (R466 to R468) -/

/-- A little-endian field of an image. -/
def imgN (d : List Byte) (o n : Nat) : Nat := leNat ((d.drop o).take n)

/-- A section entry: KIND, OFFSET, LENGTH, and its SHA-256. -/
def imgSec (d : List Byte) (i : Nat) : Nat × Nat × Nat × List Byte :=
  let o := 136 + 56 * i
  (imgN d o 4, imgN d (o + 8) 8, imgN d (o + 16) 8, (d.drop (o + 24)).take 32)

/-- The sections of an image. -/
def imgSecs (d : List Byte) : List (Nat × Nat × Nat × List Byte) := (List.range (imgN d 132 4)).map (imgSec d)

/-- All bytes are zero. -/
def allZero (l : List Byte) : Bool := l.all fun b => b == 0

/-- The fields of a firmware image's header keep R466 and R467. -/
def imgFormat (d : List Byte) : Bool :=
  let body := imgN d 24 8
  let secs := imgSecs d
  imgN d 0 4 == 0x5A565149 && imgN d 4 4 == 1 && imgN d 8 4 == 1 && decide (0 < imgN d 12 4 ∧ imgN d 12 4 < 2 ^ 31)
    && decide (body ≤ 16 * 2 ^ 20 - 4096 ∧ 4096 + body ≤ d.length) && imgN d 32 8 == 0 && allZero ((d.drop 40).take 32)
    && decide (1 ≤ secs.length ∧ secs.length ≤ 6) && allZero ((d.drop 472).take 40) && allZero ((d.drop 3796).take 300)
    && secs.all (fun x => decide (1 ≤ x.1 ∧ x.1 ≤ 5 ∧ 4096 ≤ x.2.1 ∧ x.2.1 + x.2.2.1 ≤ 4096 + body))
    && (secs.map fun x => x.1).eraseDups.length == secs.length

/-- A firmware image, with what its checks give; whether its HSS signature verifies comes with it. (log 108 DESIGN CHOICE) -/
def parseImage (d : List Byte) (sig : Bool) : Image :=
  { svn := imgN d 12 4, version := imgN d 16 4, prev := imgN d 20 4, hdr := d.take 512,
    fmtOk := imgFormat d, keyOk := sha256 ((d.drop 72).take 60) == Config.rootKeyHash, sigOk := sig,
    secOk := (imgSecs d).all fun x => sha256 ((d.drop x.2.1).take x.2.2.1) == x.2.2.2
    host := ((imgSecs d).filter fun x => x.1 == 5).flatMap fun x => (d.drop x.2.1).take x.2.2.1 }

/-- The first check of R468 that an image fails, as update_status codes it; 0 none. (log 108 DESIGN CHOICE) -/
def imageCheck (s : State) (x : Image) : Nat :=
  if !x.fmtOk then 1 else if !x.keyOk then 2 else if !x.sigOk then 3 else if x.svn < s.boot.rollback then 4
  else if !x.secOk then 5 else 0

/-- The check that a slot fails; an empty slot fails that of its format. (log 108 DESIGN CHOICE) -/
def slotCheck (s : State) (i : Nat) : Nat := match sget none s.boot.slots i with | some x => imageCheck s x | none => 1

/-- The boot directory is written to prefer a slot (R469, R477): into the copy that does not hold the newer SEQ. -/
def writeBootDir (s : State) (pref : Nat) : State :=
  let at_ := match governing s with | some g => 1 - g.1 | none => 0
  let seq := match governing s with | some g => g.2.seq + 1 | none => 1
  modBoot s fun b => { b with dirs := sset {} b.dirs at_ { seq := seq, preferred := pref, valid := true } }

/-! ### What resets keep (R229, R406, R414, R425, R447) -/

/-- An address lies in the host-preserved region (R227). (log 106 DEDUCED) -/
def preserved (s : State) (a : Nat) : Bool :=
  let b := od s 0x4020 1
  let n := od s 0x4020 2
  decide (lpBase ≤ a) && (decide (b ≤ a ∧ a < b + n) || decide (b ≤ lpAliasOf a ∧ lpAliasOf a < b + n))

/-- Memory at a warm reset: initialised but for the preserved region; KIND of every entry NORMAL. (log 106 DEDUCED) -/
def warmMem (s : State) : Mem :=
  { bytes := s.mem.bytes.filter fun e => preserved s e.1
    poison := s.mem.poison.filter fun e => preserved s (e.1 * 64)
    attr := smapAll 0 (fun r v => if preserved s (r * mib2) then v / 4 % 2 * 4 else 0) s.mem.attr }

/-- What the flash holds and any reset keeps, in a state that is otherwise initial: the store, images, boot directory, counters,
repair log, retired units that no repair record lists, copies of the Studbook and stored checkpoints. Spare maps, lane maps, the
record of generations and a retired compute die are those of the configuration base until the repair log is read (R472).
 (log 106 DEDUCED) -/
def keepFlash (s : State) : State :=
  let s0 : State := {}
  { s0 with
    pending := s.pending, free := s.free, stamp := s.stamp
    map := { s0.map with lpCap := s.map.lpCap }
    dict := { s0.dict with store := s.dict.store, out := s.dict.out }
    rly := { s0.rly with out := s.rly.out }
    ckpt := { s0.ckpt with images := s.ckpt.images, nextLba := s.ckpt.nextLba }
    contain := { s0.contain with retired := s.contain.retired, clOut := s.contain.clOut }
    ost := { s0.ost with epoch := 0, grooms := s.ost.grooms.filter fun e => e.2 == .retired }
    hosts := { s0.hosts with dieReset := [(0, true), (1, true)] }
    book := { s0.book with nor := s.book.nor, copies := s.book.copies }
    boot := { s0.boot with
      slots := s.boot.slots, verified := s.boot.verified, dirs := s.boot.dirs, rollback := s.boot.rollback,
      rpmc1 := s.boot.rpmc1, fallbacks := s.boot.fallbacks, repairs := s.boot.repairs, repairSeq := s.boot.repairSeq, finds := s.boot.finds,
      signatures := s.boot.signatures, due := s.boot.due, running := s.boot.running,
      tree := s.boot.tree, complete := false, fw := false, testMode := false }
    lands := { s0.lands with inReset := true, en := 0, pg := 0, portReset := 15 } }

/-- A cold power-on: nothing but the flash is kept, the role epoch is 0, the rings are empty, CAL takes its trim (R406, R447).
 (log 106 DEDUCED) -/
def coldState (s : State) : State := keepFlash s

/-- A package warm reset (R229): what VSTBY keeps stays too: the role epoch, generations' copies, CAL, the recorders, the counts
since cold power-on; memory as R229 says; VDDQ and VDDIO stay on. (log 106 DEDUCED) -/
def warmState (s : State) : State :=
  let t := keepFlash s
  let hot := s.power.temps.any (fun e => decide (95 < e.2)) || s.power.hbmTemps.any (fun e => decide (95 < e.2))
  { t with
    mem := warmMem s
    gens := { t.gens with copy := s.gens.copy }
    ost := { t.ost with epoch := s.ost.epoch, handovers := s.ost.handovers, active := s.ost.active, groomFw := s.ost.groomFw }
    power := { t.power with monitors := smapAll {} (fun _ m => { cal := m.cal, faulty := m.faulty }) s.power.monitors,
                            temps := s.power.temps, hbmTemps := s.power.hbmTemps }
    book := s.book
    boot := { t.boot with warmResets := s.boot.warmResets + 1, watchdog := s.boot.watchdog }
    lands := { t.lands with
      straps := s.lands.straps, en := s.lands.en / 1024 * 1024, pg := s.lands.pg / 1024 * 1024, brake := s.lands.brake,
      thermtrip := s.lands.thermtrip && hot } }

/-! ### The boot path (R468 to R471) -/

/-- One value of the persistent store takes effect at boot (R414). -/
def restoreValue (s : State) (k : Nat) (v : List Byte) : State :=
  let sel := k / 2 ^ 24
  let ix := k % 2 ^ 24 / 256
  let sub := k % 256
  let n := leNat v
  if ix = 0x5100 then modPad s sel fun p =>
    let q := if sub = 2 then { p with mask := p.mask / 2 ^ 64 * 2 ^ 64 + n } else if sub = 3 then { p with mask := p.mask % 2 ^ 64 + n * 2 ^ 64 }
      else if sub = 5 then { p with ringFirst := n } else if sub = 6 then { p with ringCount := n } else p
    { q with st := if q.mask = 0 then .unused else .stopped }
  else if ix = 0x7003 ∧ sub = 2 then
    let w := (List.range 32).map fun i => BitVec.ofNat 64 (bufWord v (8 * i))
    modBook s fun b => { b with triggers := sset [] b.triggers sel (if w.all (· == 0) then [] else w) }
  else odPut s (ix * 256 + sub) v

/-- The Ostler reads the persistent store, and values of class reboot that shape the physical map take effect (R413, R471). -/
def readStore (s : State) : State :=
  let t := s.dict.store.foldl (fun (u : State) e => match e.2 with | some v => restoreValue u e.1 v | none => u) s
  { t with
    map := { t.map with islands := od t 0x4040 1, aliasEnable := od t 0x4010 1 == 1 }
    team := { t.team with lsExp := odI t 0x8020 2 }
    lands := { t.lands with x4 := ((List.range 4).map fun p => 2 ^ p * min 1 (od t 0x1300 (p + 1))).sum } }

/-! ### The repair log (R472, R473) -/

/-- The units whose generations a record of kind 3 holds, in its order (R382): kind and number of units. -/
def genUnits : List (Nat × Nat) := [(2, 864), (3, 96), (4, 8), (5, 2), (7, 32), (8, 16), (9, 18), (16, 2), (17, 2)]

/-- The keys of those generations, one for each entry of the body. -/
def genKeys : List Nat := genUnits.flatMap fun k => (List.range k.2).map (k.1 * 4096 + ·)

/-- A repair record takes effect at boot (R472): spare map and retired slots, lane maps, generations, or the retired die.
 (log 148 DEDUCED) -/
def applyRepair (s : State) (r : Repair) : State :=
  let b (i n : Nat) : Nat := imgN r.body i n
  if r.kind = 1 then
    { s with slots := { s.slots with
        map := ssetMany none [] ((List.range 768).filterMap fun ge => if b ge 1 = ge % 8 then none else some (ge, some (b ge 1)))
        st := ssetMany .inService [] ((List.range 864).filterMap fun p => if b (768 + p) 1 = 4 then some (p, .retired) else none) } }
  else if r.kind = 2 then
    { s with rly := { s.rly with ports := ssetMany {} s.rly.ports ((List.range 18).map fun p =>
        let m := b (4 * p) 4
        (p, { sget {} s.rly.ports p with laneMap := BitVec.ofNat 32 m, spareUsed := m != 0x76543210 })) } }
  else if r.kind = 3 then
    { s with gens := { s.gens with record := ssetMany 0 [] (genKeys.zipIdx.map fun k => (k.1, b (2 * k.2) 2)) } }
  else { s with map := { s.map with retired := if b 0 1 = 255 then none else some (b 0 1) } }

/-- The firmware verifies the repair log (R473): records that fail are skipped, each with a record of the Studbook, and the newest
valid one of each kind takes effect; a kind without one stays as the configuration base has it. (log 148 DEDUCED) -/
def verifyLog (s : State) : State :=
  let bad := s.boot.repairs.filter fun r => s.boot.finds.badRepairs.contains r.seq
  let good := s.boot.repairs.filter fun r => !s.boot.finds.badRepairs.contains r.seq
  let s1 := bad.foldl (fun t r => noteUnit t 12 2 2 0 0 [BitVec.ofNat 64 r.seq, BitVec.ofNat 64 r.kind]) s
  let s2 := [1, 2, 3, 4].foldl (fun t k =>
    match (good.filter fun r => r.kind == k).getLast? with | some r => applyRepair t r | none => t) s1
  modBoot s2 fun b => { b with repairs := good }

/-- The verified image of a slot runs as Ostler firmware (R468 step 6, R471 steps 1 to 3), and the power-up sequence goes on.
 (log 107 DESIGN CHOICE) -/
def runImage (s : State) (slot : Nat) : State :=
  let v : W32 := match sget none s.boot.slots slot with | some x => BitVec.ofNat 32 x.version | none => 0
  let s1 := modBoot s fun b => { b with
    running := slot, fw := true, recovery := false, recv := [], bootId := Config.freeWord s.free }
  let s1 := verifyLog s1
  let s2 := { s1 with free := s1.free + 1, ost := { s1.ost with groomFw := (List.range 12).map fun g => (g, v) } }
  startRails (readStore s2) .boot

/-- A core takes the role and raises the role epoch (R406). (log 107 DESIGN CHOICE) -/
def takeRole (s : State) (core : Nat) : State :=
  { s with ost := { s.ost with active := core, epoch := s.ost.epoch + 1, standby := .absent, failed := false } }

/-- The ROM's choice of a slot (R469, R470): the preferred one, or after three watchdog resets or a failed check the other; recovery
where both fail or the strap asks for it. (log 107 DESIGN CHOICE) -/
def romBoot (s : State) : State :=
  let p := preferred s
  let first := if 3 ≤ s.boot.watchdog then 1 - p else p
  let fell (t : State) (bad check : Nat) : State :=
    noteUnit (modBoot t fun b => { b with fallbacks := b.fallbacks + 1 }) 12 1 4 0 0 [BitVec.ofNat 64 bad, BitVec.ofNat 64 check]
  if bitAt s.lands.straps 0 then modBoot s fun b => { b with recovery := true, recv := [], seq := .none }
  else if slotCheck s first = 0 then
    (if first = p then runImage s first else runImage (fell s p 0) first)
  else if slotCheck s (1 - first) = 0 then
    (if first = p then runImage (fell s p (slotCheck s p)) (1 - first) else runImage s (1 - first))
  else modBoot s fun b => { b with recovery := true, recv := [], seq := .none }

/-- The lowest-numbered populated LPDDR5X interface: the host boot region's start (R471). -/
def hostBootBase (s : State) : Nat :=
  lpBase + lpSpan * (((List.range 16).find? fun i => lpBytes s.map i != 0).getD 0)

/-- The Ostler firmware completes the boot (R471 steps 4 to 6): units are tested and admitted, those given fail; the host boot
firmware is copied to its region; the host dies leave reset. (log 107 DESIGN CHOICE) -/
def finishBoot (s : State) (failed : List (Nat × Nat)) : State :=
  let s1 := { setpoints s with gens := { s.gens with copy := s.gens.record } }
  let s2 := failed.foldl (fun t u => admitUnit t u.1 u.2 false false) s1
  let host := match runningImage s2 with | some x => x.host | none => []
  let s3 := { s2 with mem := if host.isEmpty then s2.mem else memPut s2.mem (hostBootBase s2) host }
  let s4 := modLands (exitHostDie (exitHostDie s3 0) 1) fun l => { l with portReset := 0 }
  modBoot (modPower s4 fun p => { p with hobble := 0, cause := 0 }) fun b => { b with complete := true, watchdog := 0, seq := .none }

/-- The power-up sequence has come to its end. -/
def finishRails (s : State) (failed : List (Nat × Nat)) : State :=
  match s.boot.seq with
  | .none => s
  | .role => s
  | .boot => finishBoot s failed
  | .hobbleExit =>
    if !s.boot.complete then finishBoot s failed else
    modBoot (modPower (readmitAll (setpoints s) failed) fun p => { p with hobble := 0, cause := 0 }) fun b => { b with seq := .none }
  | .wake =>
    modBoot (modPower (readmitAll (setpoints s) failed) fun p => { p with sleepState := 0 }) fun b => { b with seq := .none }

/-! ### Lands (R490, R494) -/

/-- STANDBY_POWER_ON. -/
def execStandbyPowerOn (s : State) : Host.Outcome State Fault Refusal :=
  ok (if s.lands.stby then s else modLands (coldState s) fun l => { l with stby := true })

/-- VSTBY_LOSS: a cold power-on follows when standby power returns. -/
def execVstbyLoss (s : State) : Host.Outcome State Fault Refusal :=
  ok (modLands (coldState s) fun l => { l with stby := false })

/-- PKG_RESET_ASSERT: a warm reset. -/
def execPkgResetAssert (s : State) : Host.Outcome State Fault Refusal :=
  ok (if !s.lands.stby || s.lands.inReset then s else warmState s)

/-- PKG_RESET_RELEASE: the straps are sampled; the boot path, or boundary scan only. finds is what the ROMs and the firmware find in
the flash. (log 107 DESIGN CHOICE) -/
def execPkgResetRelease (straps : Nat) (finds : BootFinds) (s : State) : Host.Outcome State Fault Refusal :=
  ok (
    if !s.lands.inReset || !s.lands.stby then s else
    let s1 := modBoot (modLands s fun l => { l with inReset := false, straps := straps % 4 }) fun b => { b with finds := finds.flash }
    if bitAt straps 1 then modBoot s1 fun b => { b with testMode := true }
    else if finds.ed0 && hasSecret s1 0 then romBoot (takeRole s1 0)
    else modBoot s1 fun b => { b with seq := .role })

/-- ROLE_ANNOUNCE_TIMEOUT: ed0 has announced no role epoch within 2 s; ed1 takes the role. -/
def execRoleAnnounceTimeout (s : State) : Host.Outcome State Fault Refusal :=
  ok (if s.boot.seq = .role ∧ hasSecret s 1 then romBoot (takeRole (modBoot s fun b => { b with seq := .none }) 1) else s)

/-- BOOT_WATCHDOG_RESET: before the firmware has declared the boot complete; the ROM runs again. (log 107 DESIGN CHOICE) -/
def execBootWatchdogReset (s : State) : Host.Outcome State Fault Refusal :=
  ok (
    if !s.boot.fw || s.boot.complete then s else
    romBoot (takeRole (modBoot s fun b => { b with watchdog := b.watchdog + 1, fw := false, seq := .none }) s.ost.active))

/-- RECOVERY_IMAGE_CHUNK: into slot A; after the last chunk the image is verified and started, or slot A is erased.
 (log 107 DESIGN CHOICE) -/
def execRecoveryImageChunk (data : List Byte) (last sig : Bool) (s : State) : Host.Outcome State Fault Refusal :=
  ok (
    if !s.boot.recovery || decide (1024 < data.length ∨ 2 ^ 24 < s.boot.recv.length + data.length) then s else
    let d := s.boot.recv ++ data
    if !last then modBoot s fun b => { b with recv := d, slots := sset none b.slots 0 none, verified := sset false b.verified 0 false }
    else
      let x := parseImage d sig
      if imageCheck s x = 0 then
        runImage (writeBootDir (modBoot s fun b => { b with
          slots := sset none b.slots 0 (some x), verified := sset false b.verified 0 true }) 0) 0
      else modBoot s fun b => { b with recv := [], slots := sset none b.slots 0 none, verified := sset false b.verified 0 false })

/-- POWER_GOOD_RISE: of a rail whose EN is high; the sequence goes on to the next rail, or ends. (log 98 DESIGN CHOICE) -/
def execPowerGoodRise (rail : Nat) (failed : List (Nat × Nat)) (s : State) : Host.Outcome State Fault Refusal :=
  ok (
    if !bitAt s.lands.en rail || bitAt s.lands.pg rail || decide (11 < rail) then s else
    let s1 := modLands s fun l => { l with pg := setBit l.pg rail }
    if s.boot.seq = .none ∨ s.boot.seq = .role then s1
    else if (nextRail s1).isSome then raiseRail s1
    else finishRails s1 failed)

/-- POWER_GOOD_TIMEOUT. -/
def execPowerGoodTimeout (rail : Nat) (lost : List Nat) (s : State) : Host.Outcome State Fault Refusal :=
  ok (if bitAt s.lands.en rail && !bitAt s.lands.pg rail then railFault s lost else s)

/-- POWER_GOOD_FALL. -/
def execPowerGoodFall (rail : Nat) (lost : List Nat) (s : State) : Host.Outcome State Fault Refusal :=
  ok (if bitAt s.lands.en rail && bitAt s.lands.pg rail then
      railFault (modLands s fun l => { l with pg := clrBit l.pg rail }) lost
    else modLands s fun l => { l with pg := clrBit l.pg rail })

/-- POWER_BRAKE_ASSERT: every compute die is reined fully, the host dies go to 800 MHz, cause REIN_POWER. -/
def execPowerBrakeAssert (s : State) : Host.Outcome State Fault Refusal :=
  ok (
    if s.lands.brake then s else
    let s1 := modLands s fun l => { l with brake := true, brakeEvents := l.brakeEvents + 1 }
    let s2 := (diesIn s1).foldl (fun t d => startBreach (applyRein t d) d 2) s1
    { s2 with hosts := { s2.hosts with freq := sset 3600 (sset 3600 s2.hosts.freq 0 800) 1 800 } })

/-- POWER_BRAKE_RELEASE. -/
def execPowerBrakeRelease (s : State) : Host.Outcome State Fault Refusal :=
  ok ((diesIn s).foldl applyRein (modLands s fun l => { l with brake := false }))

/-- WAKE_N_ASSERT: bit 2 of wake_sources set. -/
def execWakeNAssert (s : State) : Host.Outcome State Fault Refusal :=
  ok (if bitAt (od s 0x3009 3) 2 then wake s else s)

/-! ### The test access port (R490; IEEE 1149.1) -/

/-- A TAP instruction runs only in boundary-scan mode. (log 45 PRESUMED) -/
def tapRun (s : State) (ir : TapIr) (f : Lands → Lands) : State :=
  if s.boot.testMode then modLands s fun l => f { l with tap := ir } else s

/-- TAP_BYPASS: one bit of delay from TDI to TDO. (log 45 PRESUMED) -/
def execTapBypass (data : List Bool) (s : State) : Host.Outcome State Fault Refusal :=
  ok (tapRun s .bypass fun l => { l with tapOut := (false :: data).take data.length })

/-- TAP_SAMPLE_PRELOAD: the lands as they stand are shifted out, the boundary register is loaded. (log 45 PRESUMED) -/
def execTapSamplePreload (pins data : List Bool) (s : State) : Host.Outcome State Fault Refusal :=
  ok (tapRun s .samplePreload fun l => { l with tapOut := pins, boundary := data })

/-- TAP_EXTEST: the same, and the boundary register drives the lands. (log 45 PRESUMED) -/
def execTapExtest (pins data : List Bool) (s : State) : Host.Outcome State Fault Refusal :=
  ok (tapRun s .extest fun l => { l with tapOut := pins, boundary := data, driven := data })

/-- TAP_IDCODE: the device identification register, least significant bit first. (log 45 PRESUMED) -/
def execTapIdcode (s : State) : Host.Outcome State Fault Refusal :=
  ok (tapRun s .idcode fun l => { l with tapOut := (List.range 32).map fun i => bitAt Config.idcode.toNat i })

/-- TAP_RESET: TRST_N. (log 45 PRESUMED) -/
def execTapReset (s : State) : Host.Outcome State Fault Refusal :=
  ok (tapRun s .idcode fun l => { l with driven := [], tapOut := [] })

end Sys2Proof.Machine
end

