-- ==== Sys2Proof/Machine/Checkpoint.lean ====
section
/-! DEFINITION. Mordant checkpoints (R386 to R391): the checkpoint point, the copy into staging with its manifest, the drain to
flash or a peer, and the restore. -/

namespace Sys2Proof.Machine

/-- The regions of the checkpoint set, by region number, in table order (R386). -/
def ckptSet (s : State) : List Nat :=
  (List.range (od s 0x8030 4)).flatMap fun i =>
    let a := od s 0x8030 3 + 16 * i
    let first := bits (physNat s a 8) 43 21
    (List.range (bits (physNat s (a + 8) 8) 22 0)).map (first + ·)

/-- The regions that a copy takes: all of the set, or those set in the inactive bitmaps (R387). -/
def ckptRegions (s : State) (full : Bool) : List Nat :=
  if full then ckptSet s else (ckptSet s).filter fun r => sget false s.mem.dirtyOld r

/-- CHECKPOINT_POINT: the job has written the step to the settle word; the bitmaps are swapped, the copy starts and the next
touched list is withheld; or the checkpoint is postponed while a drain runs (R387, R390). -/
def execCheckpointPoint (step : Nat) (s : State) : Host.Outcome State Fault Refusal :=
  ok (
    let iv := od s 0x8030 1
    if iv = 0 ∨ step % iv ≠ 0 ∨ physNat s (od s 0x8030 12) 8 ≠ step ∨ s.ckpt.copying.isSome = true then s else
    let full := s.ckpt.needFull || s.ckpt.taken % od s 0x8030 2 == 0
    if s.ckpt.draining.isSome then
      note { s with ckpt := { s.ckpt with postponed := s.ckpt.postponed + 1, needFull := full } } 7 5 2 0 0 [BitVec.ofNat 64 step]
    else
      { s with
        mem := { s.mem with dirty := s.mem.dirtyOld, dirtyOld := s.mem.dirty },
        team := { s.team with gate := if s.team.gate.contains 0 then s.team.gate else s.team.gate ++ [0] },
        ckpt := { s.ckpt with copying := some (step, full), needFull := false } })

/-- Bytes of a region as a copier reads them. -/
def regionBytes (s : State) (r : Nat) : List PByte := physRead s (r * mib2) mib2

/-- The journal records of the steps after one checkpoint up to another, as bytes, and how many they are (R388). -/
def ckptJournal (s : State) (from_ step : Nat) : List Byte × Nat :=
  let l := s.team.journalRecs.filter fun x => decide (from_ < x.2.2 ∧ x.2.2 ≤ step)
  (l.flatMap fun x => (physRead s (od s 0x8031 1 + x.1) x.2.1).map Prod.fst, l.length)

/-- The entries of a manifest. -/
def manifestEntries (l : List (Nat × Nat)) : List Byte := l.flatMap fun e => leBytes 8 (e.1 * mib2) ++ leBytes 8 e.2

/-- The first seven words of a manifest header (R388). -/
def manifestHead (s : State) (step base : Nat) (full : Bool) (regions : List (Nat × Nat)) (journal : Nat) : List Byte :=
  let v := (stepOf s step).verdict.getD { halve := false, incomplete := false, lsNext := s.team.lsExp, clean := s.team.clean }
  leBytes 8 (step % 2 ^ 32 + 2 ^ 32 * b2n (!full)) ++ leBytes 8 (base % 2 ^ 32 + 2 ^ 32 * regions.length)
    ++ leBytes 8 (wrapInt 8 v.lsNext + 2 ^ 8 * (v.clean % 65536)) ++ leBytes 8 (digestFor s step) ++ leBytes 8 (journal % 2 ^ 32)
    ++ leBytes 8 (crc64 0 (manifestEntries regions)) ++ leBytes 8 0

/-- Two runs of blocks of the store meet, the store wrapping at its end. -/
def lbasMeet (size : Nat) (x y : Nat × Nat) : Bool :=
  spansMeet x y || spansMeet (x.1 + size, x.2) y || spansMeet x (y.1 + size, y.2)

/-- The newest chain of the store: the newest full image and every later one (R389). -/
def newestChain (s : State) : List CkImage :=
  match (s.ckpt.images.filter fun i => i.full).getLast? with
  | some f => s.ckpt.images.filter fun i => decide (f.step ≤ i.step)
  | none => s.ckpt.images

/-- Sends a staged image to the flash store by Write FUA in commands of at most 64 blocks (R387, R389). (log 78 DEDUCED) -/
def drainFlash (s : State) (lba n : Nat) : State :=
  let size := od s 0x8030 10
  let ctl := od s 0x8030 11
  (List.range ((n + 63) / 64)).foldl (fun t i =>
    let k := min 64 (n - 64 * i)
    nvEmit t { unit := bits ctl 5 5, ctrl := bits ctl 2 0, id := 0, op := 2, ns := bits ctl 4 3,
               slba := od s 0x8030 9 + (lba + 64 * i) % size, nlb := k,
               data := physRead s (od s 0x8030 5 + 4096 * (64 * i)) (4096 * k) }) s

/-- Sends a staged image to the peer's lend window: a lend header with OP WRITE, then the bytes (R323, R387).
 (log 78 DEDUCED) -/
def drainPeer (s : State) (step n : Nat) : State :=
  let hdr := leBytes 8 1 ++ leBytes 8 0 ++ leBytes 8 n ++ leBytes 40 0
  queueMsg s (od s 0x8030 8) 4 {
    id := 0, op := none, tcls := 0, step := step,
    data := hdr.map (·, false) ++ physRead s (od s 0x8030 5) n, body := .plain, bundle := none }

/-- Starts the drain of the image in staging (R387, R389): refused when it would overwrite the newest chain.
 (log 78 DEDUCED) -/
def startDrain (s : State) (step base n : Nat) (full : Bool) : State :=
  let dest := od s 0x8030 7
  let size := od s 0x8030 10
  let len := (n + 4095) / 4096
  let bad := dest != 1 && (decide (size < len) || (newestChain s).any fun i => lbasMeet size (i.lba, i.len) (s.ckpt.nextLba, len))
  if bad then
    note { s with ckpt := { s.ckpt with refused := s.ckpt.refused + 1, needFull := s.ckpt.needFull || full } } 7 6 3 0 0
      [BitVec.ofNat 64 step]
  else
    let s1 := if dest = 1 then s else drainFlash s s.ckpt.nextLba len
    let s2 := if dest = 0 then s1 else drainPeer s1 step n
    { s2 with ckpt := { s2.ckpt with
        draining := some { lba := s.ckpt.nextLba, len := len, step := step, full := full, base := base } } }

/-- What the copy stores into the staging area: the header last with its valid word (R388);
`n` is its length. A copy that does not fit stores nothing and is recorded. (log 78 DEDUCED) -/
def ckptStage (s : State) (step base n at_ body : Nat) (full : Bool) (imgs : List (Nat × List PByte))
    (j : List Byte × Nat) : State :=
  let ents := imgs.map fun x => (x.1, crc64 0 (x.2.map Prod.fst))
  if od s 0x8030 6 < n then note s 7 7 3 0 0 [BitVec.ofNat 64 step] else
  let t1 := (imgs.zipIdx.map fun x => (at_ + body + x.2 * mib2, x.1.2)).foldl (fun t x => physPut t x.1 x.2) s
  let t2 := physWrite t1 (at_ + body + imgs.length * mib2) j.1
  let t3 := physWrite t2 (at_ + 64) (manifestEntries ents)
  physWrite (physWrite t3 at_ (manifestHead s step base full ents j.2)) (at_ + 56) (leBytes 4 step ++ [0, 0, 0, 0x80])

/-- The step of the full image that an image's chain begins with. -/
def ckptBase (s : State) (step : Nat) (full : Bool) : Nat := if full then step else s.ckpt.base

/-- The length of the image being copied: header, entries, regions and journal records (R388). -/
def ckptLen (s : State) (step : Nat) (full : Bool) : Nat :=
  64 + 16 * (ckptRegions s full).length + (ckptRegions s full).length * mib2 + (ckptJournal s s.ckpt.lastTaken step).1.length

/-- The image stands in staging, where it fits. -/
def ckptCopied (s : State) (step : Nat) (full : Bool) : State :=
  ckptStage s step (ckptBase s step full) (ckptLen s step full) (od s 0x8030 5) (64 + 16 * (ckptRegions s full).length) full
    ((ckptRegions s full).map fun r => (r, regionBytes s r)) (ckptJournal s s.ckpt.lastTaken step)

/-- A checkpoint has been taken: its regions leave the inactive bitmap, and nothing of it withholds the list (R387). -/
def ckptTaken (s : State) (step base : Nat) (rs : List Nat) : State :=
  { s with
    mem := { s.mem with dirtyOld := rs.foldl (fun m r => sset false m r false) s.mem.dirtyOld },
    team := { s.team with gate := s.team.gate.filter fun g => g != 0 },
    ckpt := { s.ckpt with copying := none, taken := s.ckpt.taken + 1, lastTaken := step, base := base } }

/-- CHECKPOINT_COPY_COMPLETE: regions, manifest and journal records stand in staging, the valid word last; the touched list is
released and the drain starts. An image that staging cannot hold is recorded and not stored. (log 78 DEDUCED) -/
def execCheckpointCopyComplete (s : State) : Host.Outcome State Fault Refusal :=
  ok (
    match s.ckpt.copying with
    | none => s
    | some (step, full) =>
      let base := ckptBase s step full
      let t := ckptTaken (ckptCopied s step full) step base (ckptRegions s full)
      releaseLists (if od s 0x8030 6 < ckptLen s step full then t else startDrain t step base (ckptLen s step full) full))

/-- CHECKPOINT_DRAIN_COMPLETE: the image is stored; a newer full image ends the older chain (R389). A drain that failed stores
nothing, and the next checkpoint is full. (log 78 DEDUCED) -/
def execCheckpointDrainComplete (stored : Bool) (s : State) : Host.Outcome State Fault Refusal :=
  ok (
    match s.ckpt.draining with
    | none => s
    | some i =>
      if !stored then
        note { s with ckpt := { s.ckpt with draining := none, needFull := true } } 7 8 3 0 0 [BitVec.ofNat 64 i.step]
      else
        let size := od s 0x8030 10
        let flash := od s 0x8030 7 != 1
        let kept := s.ckpt.images.filter fun x => !flash || !(lbasMeet size (x.lba, x.len) (i.lba, i.len))
        { s with
          team := { s.team with ckptLast := i.step },
          ckpt := { s.ckpt with
            draining := none,
            images := if flash then kept ++ [i] else s.ckpt.images,
            nextLba := if flash then (i.lba + i.len) % size else s.ckpt.nextLba } })

/-- Word i of an image's manifest. -/
def ciW (x : CkptImage) (i : Nat) : Nat := (x.words.getD i 0).toNat

/-- An image passes its checks (R388, R391): a valid manifest, its tally, every region's tally. (log 79 DEDUCED) -/
def imageOk (x : CkptImage) : Bool :=
  bitAt (ciW x 7) 63 && bits (ciW x 7) 31 0 == bits (ciW x 0) 31 0 && bits (ciW x 1) 63 32 == x.entries.length
    && x.regions.length == x.entries.length
    && crc64 0 (x.entries.flatMap fun e => leBytes 8 e.1 ++ leBytes 8 e.2.toNat) == ciW x 5
    && (x.entries.zip x.regions).all fun e => e.2.length == mib2 && crc64 0 e.2 == e.1.2.toNat

/-- The images of a chain that a restore takes: a full one, then later incrementals of its chain, up to the first that fails.
 (log 79 DEDUCED) -/
def chainPrefix : Option CkptImage → List CkptImage → List CkptImage
  | _, [] => []
  | none, x :: r =>
    if imageOk x && !bitAt (ciW x 0) 32 then x :: chainPrefix (some x) r else []
  | some p, x :: r =>
    if imageOk x && bitAt (ciW x 0) 32 && bits (ciW x 1) 31 0 == bits (ciW p 1) 31 0
        && decide (bits (ciW p 0) 31 0 < bits (ciW x 0) 31 0) then x :: chainPrefix (some x) r else []

/-- Writes an image's regions. (log 79 DEDUCED) -/
def putImage (s : State) (x : CkptImage) : State :=
  (x.entries.zip x.regions).foldl (fun t e => physWrite t e.1.1 e.2) s

/-- CHECKPOINT_RESTORE (R391). (log 79 DEDUCED) -/
def execCheckpointRestore (images : List CkptImage) (s : State) : Host.Outcome State Fault Refusal :=
  ok (
    let good := chainPrefix none images
    match good.getLast? with
    | none => s
    | some x =>
      let s1 := good.foldl putImage s
      { s1 with
        team := { s1.team with lsExp := signed 8 (ciW x 2), clean := bits (ciW x 2) 23 8 },
        ckpt := { s1.ckpt with restored := some (bits (ciW x 0) 31 0), joinRefused := ciW x 3 != digest64 (digestCur s) } })

end Sys2Proof.Machine
end

