-- ==== Sys2Proof/Machine/Role.lean ====
section
/-! DEFINITION. The Ostler role, the standby, the management ring, and the Grooms (R19, R406 to R410, R476). -/

namespace Sys2Proof.Machine

/-- Changes the Ostler's state. -/
def modOst (s : State) (f : Ostler → Ostler) : State := { s with ost := f s.ost }

/-- OSTLER_HEARTBEAT: sent every 1 ms, by which ostler_time and the host dies' time counters advance (R353, R408).
 (log 8 DESIGN CHOICE) -/
def execOstlerHeartbeat (s : State) : Host.Outcome State Fault Refusal :=
  ok (if s.boot.fw && !s.ost.failed && s.lands.stby then 
    modOst { s with hosts := { s.hosts with time := s.hosts.time + 100000 } } fun o => { o with time := o.time + 1000000 } else s)

/-- The unit of a Groom's die. -/
def groomUnit (g : Nat) : Nat × Nat := if g < 8 then (4, g) else if g < 10 then (5, g - 8) else (6, g - 10)

/-- The order in which GROOMS takes the dies (R476). -/
def updateOrder (s : State) : List Nat := (List.range 10) ++ [11 - s.ost.active, 10 + s.ost.active]

/-- The other Ostler core takes the role (R408): the epoch rises; evidence not yet read and leaves not used are gone (R479, R480); an
update among the Grooms stops, and those updated restart with old firmware (R478); dies that would exceed their cap are reined
(R19, R433). (log 109 DEDUCED) -/
def takeover (s : State) (planned : Bool) (dies : List Nat) : State :=
  let s1 := modOst s fun o => { o with
    active := 1 - o.active, epoch := o.epoch + 1, handovers := o.handovers + 1, standby := .absent, mustTest := !planned }
  let s2 := modBoot s1 fun b => { b with evidence := [], nextLeaf := 0, leafEnd := 0 }
  let s3 := if planned || s.boot.status != 3 then s2 else
    let s4 := modBoot s2 fun b => { b with status := 6, groomsDone := 0, dieNow := 0 }
    (List.range s.boot.groomsDone).foldl (fun t i =>
      let g := (updateOrder s).getD i 0
      if sget .running t.ost.grooms g == .retired then t
      else modOst t fun o => { o with grooms := sset .running o.grooms g .restarting }) s4
  let s5 := (dies.filter (· < 8)).foldl (fun t d => startBreach (applyRein (modDie t d fun p => { p with holdRein := true }) d) d 5) s3
  noteUnit s5 11 1 2 6 (1 - s.ost.active) [BitVec.ofNat 64 (b2n planned)]

/-- STANDBY_TAKEOVER: five heartbeats are missing, or the Groom reports the core faulted; without a READY standby the role is
held by no core (R409). (log 109 DEDUCED) -/
def execStandbyTakeover (dies : List Nat) (s : State) : Host.Outcome State Fault Refusal :=
  ok (
    if !s.boot.fw then s
    else if s.ost.standby = .ready then takeover s false dies
    else modOst s fun o => { o with failed := true })

/-- A planned handover (R408). (log 109 DEDUCED) -/
def requestHandover (s : State) (dies : List Nat) : Except Nat State :=
  if s.ost.standby = .ready then .ok (takeover s true dies) else .error aSTATE

/-- HANDOVER_REQUEST. -/
def execHandoverRequest (dies : List Nat) (s : State) : Host.Outcome State Fault Refusal := ok (ownWrite s (requestHandover s dies))

/-- STANDBY_SELF_TEST_PASS: the core without the role, which has recovered the package secret (R465), enters SYNCING; after an unplanned takeover only once it is re-admitted. -/
def execStandbySelfTestPass (s : State) : Host.Outcome State Fault Refusal :=
  ok (if s.ost.standby = .absent ∧ s.ost.mustTest = false ∧ hasSecret s (1 - s.ost.active) ∧ s.boot.fw = true ∧ s.ost.failed = false ∧ s.power.sleepState = 0 then
      modOst s fun o => { o with standby := .syncing }
    else s)

/-- STANDBY_SYNC_COMPLETE. -/
def execStandbySyncComplete (s : State) : Host.Outcome State Fault Refusal :=
  ok (if s.ost.standby = .syncing then modOst s fun o => { o with standby := .ready } else s)

/-- MGMT_RING_COMMAND: acted on only with the current role epoch (R406). (log 112 DEDUCED) -/
def execMgmtRingCommand (epoch : Nat) (cmd : MgmtCmd) (s : State) : Host.Outcome State Fault Refusal :=
  ok (
    if epoch ≠ s.ost.epoch.toNat then modOst s fun o => { o with staleCmds := o.staleCmds + 1 } else
    match cmd with
    | .none => s
    | .drain slot => drainSlot s slot
    | .rein d duty => if d < 8 then applyRein (modDie s d fun p => { p with duty := min 16 duty }) d else s)

/-- GROOM_HEARTBEAT. (log 112 DEDUCED) -/
def execGroomHeartbeat (groom : Nat) (s : State) : Host.Outcome State Fault Refusal :=
  ok (modOst s fun o => { o with beats := sset 0 o.beats groom o.time })

/-- GROOM_SILENT: a Groom that should run has been silent for 10 ms; its die is contained at the die level.
 (log 112 DEDUCED) -/
def execGroomSilent (groom : Nat) (resetOk : Bool) (lines engines : List Nat) (s : State) : Host.Outcome State Fault Refusal :=
  ok (
    if 12 ≤ groom ∨ sget .running s.ost.grooms groom ≠ .running ∨ s.ost.time < sget 0 s.ost.beats groom + 10000000 then s else
    takeReport (modOst s fun o => { o with grooms := sset .running o.grooms groom .silent }) (groomUnit groom)
      { resetOk := resetOk, lines := lines, engines := engines })

/-- GROOM_WATCHDOG_RESTART. -/
def execGroomWatchdogRestart (groom : Nat) (s : State) : Host.Outcome State Fault Refusal :=
  ok (
    if 12 ≤ groom ∨ sget .running s.ost.grooms groom ≠ .running then s else
    modOst s fun o => { o with grooms := sset .running o.grooms groom .restarting, groomRestarts := o.groomRestarts + 1 })

/-- The slot that is not running. -/
def otherSlot (s : State) : Nat := 1 - s.boot.running

/-- The next Groom of an update from a place in the order on restarts; after the last, step 2 is complete. -/
def restartFrom (s : State) (i : Nat) : State :=
  match ((List.range 12).drop i).find? fun j => sget .running s.ost.grooms ((updateOrder s).getD j 0) != .retired with
  | some j =>
    let g := (updateOrder s).getD j 0
    modOst (modBoot s fun b => { b with dieNow := j, groomsDone := j }) fun o => { o with
      grooms := sset .running o.grooms g .restarting, groomRestarts := o.groomRestarts + 1 }
  | none => modBoot s fun b => { b with groomsDone := 12, dieNow := 0 }

/-- VERSION of a slot's image. (log 110 DEDUCED) -/
def slotVersion (s : State) (i : Nat) : W32 := match sget none s.boot.slots i with | some x => BitVec.ofNat 32 x.version | none => 0

/-- GROOM_RESTART_REPORT: the restart ends; the update takes the next die; reports that waited are taken, and a buffer that overflowed
escalates to the die (R410). -/
def execGroomRestartReport (groom : Nat) (s : State) : Host.Outcome State Fault Refusal :=
  ok (
    if sget .running s.ost.grooms groom ≠ .restarting then s else
    let mine := s.boot.status = 3 ∧ s.boot.groomsDone < 12 ∧ (updateOrder s).getD s.boot.dieNow 0 = groom
    let fw := if mine then slotVersion s (otherSlot s) else if s.boot.status = 6 then slotVersion s s.boot.running
      else sget 0 s.ost.groomFw groom
    let waiting := sget [] s.ost.waiting groom
    let over_ := sget false s.ost.overflow groom
    let s1 := modOst s fun o => { o with
      grooms := sset .running o.grooms groom .running, groomFw := sset 0 o.groomFw groom fw, beats := sset 0 o.beats groom o.time,
      waiting := sset [] o.waiting groom [], overflow := sset false o.overflow groom false }
    let s2 := if mine then restartFrom s1 (s.boot.dieNow + 1) else s1
    let info : ReportInfo := { resetOk := true, lines := [], engines := [] }
    let s3 := waiting.foldl (fun t u => takeReport t u info) s2
    if over_ then takeReport s3 (groomUnit groom) info else s3)

/-- GROOM_REPORT_TIMEOUT: 50 ms have passed; the Groom is contained as silent, and an update stops ABORTED. -/
def execGroomReportTimeout (groom : Nat) (resetOk : Bool) (lines engines : List Nat) (s : State) :
    Host.Outcome State Fault Refusal :=
  ok (
    if sget .running s.ost.grooms groom ≠ .restarting then s else
    let s1 := modOst s fun o => { o with grooms := sset .running o.grooms groom .silent }
    let s2 := if s.boot.status = 3 then modBoot s1 fun b => { b with status := 6, groomsDone := 0, dieNow := 0 } else s1
    takeReport s2 (groomUnit groom) { resetOk := resetOk, lines := lines, engines := engines })

/-- GROOM_HOLD_TIMEOUT: 100 ms with no Ostler command and no READY standby. -/
def execGroomHoldTimeout (lost : List Nat) (s : State) : Host.Outcome State Fault Refusal :=
  ok (if s.ost.failed then enterHobble s 5 lost else s)

end Sys2Proof.Machine
end

