-- ==== Sys2Proof/Machine/Update.lean ====
section
/-! DEFINITION. Live updates, security versions, the repair log, leaves and attestation (R472 to R480). -/

namespace Sys2Proof.Machine

/-! ### Updates (R474 to R477) -/

/-- The verified image that an update has loaded. -/
def loadedImage (s : State) : Option Image := slotImage s (otherSlot s)

/-- LOAD: the image is read and programmed into the slot that does not run. -/
def updateLoad (s : State) : Except Nat State :=
  let a := od s 0x9001 1
  let n := od s 0x9001 2
  if n < 4096 ∨ 2 ^ 24 < n ∨ (canon s.map a).isNone ∨ (canon s.map (a + n - 1)).isNone then .error aRANGE
  else if s.boot.status = 1 ∨ s.boot.status = 3 ∨ s.boot.status = 4 then .error aSTATE
  else
    let d := (physRead s a n).map Prod.fst
    if imgN d 12 4 < s.boot.rollback then .error aSTATE
    else .ok (modBoot s fun b => { b with
      loading := some d, status := 1, failedCheck := 0, groomsDone := 0,
      slots := sset none b.slots (otherSlot s) none, verified := sset false b.verified (otherSlot s) false })

/-- GROOMS. -/
def updateGrooms (s : State) : Except Nat State :=
  match loadedImage s with
  | none => .error aSTATE
  | some x =>
    if s.boot.status = 1 ∨ s.boot.status = 3 ∨ s.boot.status = 4 ∨ (slotVersion s s.boot.running).toNat < x.prev then .error aSTATE
    else .ok (restartFrom (modBoot s fun b => { b with status := 3 }) 0)

/-- OSTLER: after step 2, with a READY standby: the new firmware takes the role, and the boot directory commits the update.
 (log 109 DEDUCED) -/
def updateOstler (s : State) : Except Nat State :=
  if s.boot.status ≠ 3 ∨ s.boot.groomsDone ≠ 12 ∨ s.ost.standby ≠ .ready ∨ (loadedImage s).isNone then .error aSTATE
  else
    let slot := otherSlot s
    let s1 := writeBootDir (takeover s true []) slot
    .ok (modBoot s1 fun b => { b with running := slot, status := 5, groomsDone := 0, dieNow := 0 })

/-- AT_RESET. -/
def updateAtReset (s : State) : Except Nat State :=
  if (loadedImage s).isNone then .error aSTATE else .ok (writeBootDir s (otherSlot s))

/-- COMMIT_SVN: the rollback counter rises to the running image's SVN (R474, R478). (log 110 DEDUCED) -/
def updateCommitSvn (s : State) : Except Nat State :=
  let v := ((runningImage s).map Image.svn).getD 0
  if v ≤ s.boot.rollback ∨ s.boot.status = 1 ∨ s.boot.status = 2 ∨ s.boot.status = 3 ∨ s.boot.status = 4 then .error aSTATE
  else .ok (modBoot s fun b => { b with rollback := v })

/-- UPDATE_LOAD. (log 110 DEDUCED) -/
def execUpdateLoad (s : State) : Host.Outcome State Fault Refusal := ok (ownWrite s (updateLoad s))

/-- UPDATE_LOAD_COMPLETE: the slot is read back and verified; flash: whether it was programmed. (log 110 DEDUCED) -/
def execUpdateLoadComplete (sig flash : Bool) (s : State) : Host.Outcome State Fault Refusal :=
  ok (match s.boot.loading with
    | none => s
    | some d =>
      let x := parseImage d sig
      let c := if flash then imageCheck s x else 6
      modBoot s fun b => { b with
        loading := none, failedCheck := c, status := if c = 0 then 2 else 6
        slots := sset none b.slots (otherSlot s) (if flash then some x else none)
        verified := sset false b.verified (otherSlot s) (c == 0) })

/-- UPDATE_GROOMS. (log 110 DEDUCED) -/
def execUpdateGrooms (s : State) : Host.Outcome State Fault Refusal := ok (ownWrite s (updateGrooms s))

/-- UPDATE_OSTLER. -/
def execUpdateOstler (s : State) : Host.Outcome State Fault Refusal := ok (ownWrite s (updateOstler s))

/-- UPDATE_AT_RESET. (log 110 DEDUCED) -/
def execUpdateAtReset (s : State) : Host.Outcome State Fault Refusal := ok (ownWrite s (updateAtReset s))

/-- UPDATE_COMMIT_SVN. -/
def execUpdateCommitSvn (s : State) : Host.Outcome State Fault Refusal := ok (ownWrite s (updateCommitSvn s))

/-! ### Leaves and repair records (R472, R479) -/

/-- The next leaf (R479): reserved leaves first; with none left, RPMC counter 1 is incremented from c and leaves 4,096 c on are
reserved. -/
def takeLeaf (s : State) : Nat × State :=
  if s.boot.nextLeaf < s.boot.leafEnd then
    (s.boot.nextLeaf, modBoot s fun b => { b with nextLeaf := b.nextLeaf + 1 })
  else
    let c := s.boot.rpmc1
    (4096 * c, modBoot s fun b => { b with rpmc1 := c + 1, nextLeaf := 4096 * c + 1, leafEnd := 4096 * c + 4096 })

/-- The HSS signature of a message under a leaf. -/
def signature (leaf : Nat) (m : List Byte) : List Byte := let h := sha256 m; (List.range 3284).map (Config.signByte hssKey leaf h)

/-- Service states as a repair record holds them. -/
def slotCode (x : SlotSt) : Nat := match x with | .inService => 0 | .draining => 1 | .held => 2 | .test => 3 | .retired => 4

/-- The table of a kind of repair record as it stands. (log 111 DESIGN CHOICE) -/
def repairBody (s : State) (kind : Nat) : List Byte :=
  if kind = 1 then ((List.range 768).flatMap fun ge => leBytes 1 (slotOf s ge % 9)) ++ (List.range 864).flatMap fun p => leBytes 1 (slotCode (slotState s p))
  else if kind = 2 then (List.range 18).flatMap fun p => leBytes 4 (sget {} s.rly.ports p).laneMap.toNat
  else if kind = 3 then
    genKeys.flatMap fun k => leBytes 2 (sget 0 s.gens.record k)
  else leBytes 1 (s.map.retired.getD 255)

/-- The head and the body of a record. (log 111 DESIGN CHOICE) -/
def repairText (r : Repair) : List Byte :=
  leBytes 8 r.seq ++ leBytes 2 r.kind ++ leBytes 2 r.body.length ++ leBytes 4 r.leaf ++ (List.range 48).map (fun _ => (0 : Byte)) ++ r.body

/-- Bytes of a record in the log. -/
def repairSize (r : Repair) : Nat := 64 + r.body.length + 3284 + 8

/-- The newest record of a kind. -/
def newestRepair (s : State) (kind : Nat) : Option Repair := (s.boot.repairs.filter fun r => r.kind == kind).getLast?

/-- REPAIR_RECORD_COMMIT: a record with the kind's table as it stands; where the half has no room, the newest record of every kind goes
to the other half first. (log 111 DESIGN CHOICE) -/
def execRepairRecordCommit (kind : Nat) (s : State) : Host.Outcome State Fault Refusal :=
  ok (
    if kind = 0 ∨ 4 < kind ∨ !s.boot.fw then s else
    let l := takeLeaf s
    let r : Repair := { kind := kind, seq := l.2.boot.repairSeq + 1, leaf := l.1, body := repairBody s kind }
    let room := decide ((l.2.boot.repairs.map repairSize).sum + repairSize r ≤ 1536 * 1024)
    let kept := if room then l.2.boot.repairs else [1, 2, 3, 4].filterMap (newestRepair l.2)
    modBoot l.2 fun b => { b with
      repairs := kept ++ [r], repairSeq := r.seq, due := clrBit b.due kind })

/-- BOTTOM_TREE_COMPUTE: with 8,192 leaves or fewer left in the current bottom tree, the next one is computed (R479). -/
def execBottomTreeCompute (s : State) : Host.Outcome State Fault Refusal :=
  let at_ := if s.boot.nextLeaf < s.boot.leafEnd then s.boot.nextLeaf else 4096 * s.boot.rpmc1
  ok (if 32768 - at_ % 32768 ≤ 8192 then modBoot s fun b => { b with tree := max b.tree (at_ / 32768 + 1) } else s)

/-! ### Attestation (R480) -/

/-- Zero bytes. -/
def zeros (n : Nat) : List Byte := (List.range n).map fun _ => 0

/-- The claims block. (log 111 DESIGN CHOICE) -/
def claims (s : State) (nonce : List Byte) (leaf : Nat) : List Byte :=
  let img := runningImage s
  let rep := [1, 2, 3, 4].filterMap (newestRepair s)
  leBytes 4 1 ++ zeros 4 ++ leBytes 8 Config.serial.toNat ++ nonce ++ leBytes 4 leaf ++ zeros 4 ++ leBytes 8 s.boot.bootId.toNat
    ++ leBytes 8 s.ost.time ++ leBytes 1 s.boot.running ++ zeros 3 ++ leBytes 4 ((img.map Image.svn).getD 0)
    ++ leBytes 4 ((img.map Image.version).getD 0) ++ leBytes 4 s.boot.rollback ++ sha256 ((img.map Image.hdr).getD [])
    ++ sha256 ((List.range 512).map baseByte) ++ sha256 (rep.flatMap repairText) ++ digestCur s
    ++ ((List.range 12).flatMap fun g => leBytes 4 (sget 0 s.ost.groomFw g).toNat) ++ leBytes 1 (b2n s.map.retired.isSome)
    ++ leBytes 1 (s.map.retired.getD 255) ++ leBytes 1 s.ost.active ++ zeros 1 ++ leBytes 4 (od s 0x6001 1)
    ++ leBytes 2 (od s 0x6001 3) ++ zeros 238

/-- A write of attest_nonce: evidence for the writing reader. -/
def attest (s : State) (reader : Nat) (nonce : List Byte) : Except Nat State :=
  if nonce.length ≠ 32 then .error aTYPELEN
  else if leavesLeft s ≤ 2 ^ 20 then .error aSTATE
  else if (match s.boot.lastEvidence with | some t => decide (s.ost.time < t + 1000000000) | none => false) then .error aBUSY
  else
    let l := takeLeaf s
    let c := claims l.2 nonce l.1
    .ok (modBoot l.2 fun b => { b with
      evidence := sset none b.evidence reader (some (c ++ signature l.1 c)), lastEvidence := some s.ost.time,
      signatures := b.signatures + 1 })

/-- ATTEST_NONCE. -/
def execAttestNonce (reader : Nat) (nonce : List Byte) (s : State) : Host.Outcome State Fault Refusal :=
  ok (ownWrite s (attest s reader nonce))

end Sys2Proof.Machine
end

