-- ==== Sys2Proof/Machine/DictWrite.lean ====
section
/-! DEFINITION. What a write to a dictionary object does: its checks in their order, and its effect by apply class, by
persistence, and by the object itself (R255, R329, R411 to R414, R417, R420 and the object tables of the chapters). -/

namespace Sys2Proof.Machine

/-! ### Checks -/

/-- A value as a number: signed for the signed types. -/
def valInt (o : Obj) (v : List Byte) : Int :=
  match o.ty with
  | .i n => signed (8 * n) (leNat v)
  | _ => (leNat v : Int)

/-- The length suits the type (R411). -/
def lengthOk (o : Obj) (v : List Byte) : Bool :=
  match o.ty with
  | .ostr n => decide (v.length ≤ n)
  | t => v.length == tyLen t

/-- The value lies in the range of its table row; strings and records have none. (log 118 DEDUCED) -/
def rangeOk (o : Obj) (v : List Byte) : Bool :=
  match o.ty with
  | .ostr _ => true
  | .digest => true
  | .record _ => true
  | .f32 => bits (leNat v) 30 23 != 255
  | _ => decide (o.min ≤ valInt o v ∧ valInt o v ≤ o.max)

/-- The value that a reboot object holds after the next warm reset (R413). -/
def storedValue (s : State) (ix sub : Nat) : List Byte :=
  match sget none s.dict.store (storeKey 0 ix sub) with
  | some v => v
  | none => odBytes s ix sub

/-- A region may be preserved (R227, R471): empty, or 2 MiB aligned, 2 MiB to 64 GiB long, in LPDDR5X, clear of the host boot
region. (log 118 DEDUCED) -/
def preserveOk (s : State) (b n : Nat) : Bool :=
  let boot := hostBootBase s
  let two (lo hi : Nat) : Bool := decide (lo ≤ b ∧ b + n ≤ hi)
  n == 0 ||
  (b % mib2 == 0 && n % mib2 == 0 && decide (mib2 ≤ n ∧ n ≤ 2 ^ 36) && (canon s.map b).isSome && (canon s.map (b + n - 1)).isSome
    && ((two lpBase lpAlias && !decide (b < boot + 2 ^ 26 ∧ boot < b + n))
      || (two (lpAlias + 2 ^ 30) hbmAlias)))

/-- Encodings of single objects beyond their range. (log 118 DEDUCED) -/
def encodingOk (s : State) (ix sub : Nat) (v : List Byte) : Bool :=
  let n := leNat v
  if ix = 0x4040 ∧ sub = 1 then n == 1 || n == 2 || n == 4 || n == 8
  else if ix = 0x4020 ∧ sub = 1 then preserveOk s n (leNat (storedValue s 0x4020 2))
  else if ix = 0x4020 ∧ sub = 2 then preserveOk s (leNat (storedValue s 0x4020 1)) n
  else if ix = 0x4020 ∧ sub = 3 then
    let b := leNat (storedValue s 0x4020 1)
    decide (b ≤ n ∧ n < b + leNat (storedValue s 0x4020 2))
  else if ix = 0x3006 ∧ sub = 1 then decide (n ≤ od s 0x3000 1)
  else if ix = 0x6030 ∧ sub = 2 then n == 1024 || n == 2048 || n == 4096 || n == 8192
  else if ix = 0x6032 then decide (n < 2 ^ 48)
  else if ix = 0x6035 then decide (n < 3)
  else if ix = 0x5001 then n % 64 == 0
  else if ix = 0x5102 then n % mib2 == 0
  else if ix = 0x8040 ∧ (sub = 1 ∨ sub = 2) then n % mib2 == 0
  else if ix = 0x8030 ∧ sub = 5 then n % mib2 == 0
  else if ix = 0x8030 ∧ sub = 11 then decide (n < 64)
  else if ix = 0x8031 ∧ sub = 2 then n % mib2 == 0
  else if ix = 0x8050 then decide (n < 2 ^ 18)
  else if ix = 0x9001 ∧ sub = 3 then decide (1 ≤ n ∧ n ≤ 5)
  else true

/-- A stream of some unit is open (R255, R275). (log 117 DEDUCED) -/
def streamOpen (s : State) : Bool := s.rly.streams.any fun e => e.2.st != .closed && e.2.st != .failed

/-- A paddock runs. (log 117 DEDUCED) -/
def padRuns (s : State) : Bool := s.pads.any fun e => e.2.st == .running || e.2.st == .draining

/-- The block that owns a quiescent or rws object runs (R255, R329, R350, R355, R412). (log 117 DEDUCED) -/
def blockRuns (s : State) (ix sub : Nat) : Bool :=
  if ix = 0x1200 then s.rings.any fun e => e.2.st != .disabled
  else if ix = 0x5102 then s.pads.any fun e => (e.2.st == .running || e.2.st == .draining) && bits e.2.mask (12 * sub - 1) (12 * (sub - 1)) != 0
  else if ix = 0x5100 then !padIdle s (od s 0x5100 1)
  else if ix < 0x6000 then padRuns s
  else if ix = 0x8040 then s.team.lending
  else if ix = 0x8050 then s.nvme.reqs.any fun q => q.unit == (sub - 1) / 8 && bits (q.words.getD 0 0).toNat 6 4 == (sub - 1) % 8
  else if ix = 0x8051 then s.nvme.reqs.any fun q => q.unit == sub - 1
  else streamOpen s

/-! ### Effects -/

/-- A step-boundary value is staged, or takes effect at once without a team (R413). -/
def stageWrite (s : State) (step k : Nat) (v : List Byte) : Except Nat State :=
  if od s 0x6001 2 = 0 then .ok (afterBoundary (putNow s k v) 0 [k]) else
  let past := match s.rly.lastStep with | some l => decide (step ≠ 0 ∧ step ≤ l) | none => false
  let target := if step ≠ 0 then step else match s.rly.lastStep with | some l => l + 1 | none => 0
  let steps := (s.dict.staged.map Prod.fst).eraseDups
  if past then .error aSTAGESTEP
  else if !steps.contains target && decide (4 ≤ steps.length) then .error aSTAGEFULL
  else .ok { s with dict := { s.dict with staged := s.dict.staged ++ [(target, k, v)] } }

/-- The value an object holds takes effect at once, committed first where it is persistent (R413, R414). -/
def putValue (s : State) (o : Obj) (ix sub : Nat) (v : List Byte) : Except Nat State :=
  if o.persistent then persistPut s ix sub v else .ok (putNow s (okey ix sub) v)

/-- What a new team brings: FAILED streams are released (R275), and LS_EXP starts at ls_exp_initial when team_size is written
(R326). (log 119 DEDUCED) -/
def teamChange (s : State) (sub : Nat) : State :=
  let ks := (s.rly.streams.filter fun e => e.2.st == .failed).map Prod.fst
  let s1 := ks.foldl (fun t k => setSrx (setStrm t k {}) k {}) s
  if sub = 2 then { s1 with team := { s1.team with lsExp := odI s1 0x8020 2, clean := 0, halvings := 0 } } else s1

/-- update_command (R475). -/
def updateCommand (s : State) (n : Nat) : Except Nat State :=
  if n = 1 then updateLoad s else if n = 2 then updateGrooms s else if n = 3 then updateOstler s
  else if n = 4 then updateAtReset s else updateCommitSvn s

/-- The effect of a write whose checks have passed on an object that is neither staged nor kept for the next reset: of the
objects that act, their action; of the others, their new value. (log 119 DEDUCED) -/
def writeEffect (s : State) (env : DictEnv) (reader : Nat) (o : Obj) (ix sub : Nat) (v : List Byte) : Except Nat State :=
  let n := leNat v
  if perReader ix sub then .ok (setSel s reader ix sub v)
  else if ix = 0x2001 ∧ sub = 3 then (if n = 1 then requestHandover s env.dies else .ok s)
  else if ix = 0x2210 ∧ sub = 1 then .ok (resetHostDie s n env.lost)
  else if ix = 0x2210 ∧ sub = 2 then .ok (resetHostCore s n env.lost)
  else if ix = 0x3008 ∧ sub = 3 then .ok (if n = 1 then enterHobble s 6 env.lost else s)
  else if ix = 0x3008 ∧ sub = 4 then (if n = 1 then exitHobble s else .ok s)
  else if ix = 0x3009 ∧ sub = 1 then (if n = 1 then requestSleep s env.lost else .ok s)
  else if ix = 0x5100 ∧ (sub = 2 ∨ sub = 3) then writeClusters s (od s 0x5100 1) (sub == 3) n
  else if ix = 0x5100 ∧ sub = 4 then (if n = 1 then startPad s (od s 0x5100 1) else .ok (stopPad s (od s 0x5100 1)))
  else if ix = 0x5100 ∧ (sub = 5 ∨ sub = 6) then writeRingRange s (od s 0x5100 1) (sub == 6) n
  else if ix = 0x5100 ∧ sub = 9 then .ok (modPad s (od s 0x5100 1) fun p => { p with maxResident := n })
  else if ix = 0x5120 ∧ sub = 3 then writeWeight s (od s 0x5120 1) n
  else if ix = 0x6001 then
    match putValue s o ix sub v with
    | .ok t => .ok (teamChange t sub)
    | .error c => .error c
  else if ix = 0x6003 ∧ sub = 1 then declareLost s n
  else if ix = 0x6040 ∧ sub = 1 then writeStreamQuery s reader v
  else if ix = 0x6040 ∧ sub = 2 then writeStreamClose s n
  else if ix = 0x7003 ∧ sub = 2 then writeTrigger s v
  else if ix = 0x7005 then writeRate s (sub == 2) n
  else if ix = 0x7007 then writeSwRecord s v
  else if ix = 0x8040 ∧ sub = 4 then .ok (setLend s n)
  else if ix = 0x9001 ∧ sub = 3 then updateCommand s n
  else if ix = 0x9020 ∧ sub = 1 then attest s reader v
  else putValue s o ix sub v

/-- ODP has no key yet: it refuses every write (R420). (log 114 DEDUCED) -/
def keyZero (s : State) : Bool := (odBytes s 0x1100 3).all fun b => b == 0

/-- One item that writes an object: the state after it, or its abort code (R411 to R414, R417, R420). (log 114 DEDUCED) -/
def writeItem (s : State) (env : DictEnv) (viaOdp : Bool) (reader step ix sub ty : Nat) (v : List Byte) : Except Nat State :=
  if viaOdp && keyZero s then .error aAUTH
  else if !objIndex ix then .error aNOOBJECT
  else if sub = 0 then .error aREADONLY
  else match objRow ix sub with
    | none => .error aNOSUB
    | some o =>
      if o.acc = .ro ∨ o.acc = .const then .error aREADONLY
      else if viaOdp && ix == 0x1100 && sub == 3 then .error aAUTH
      else if ty ≠ tyCode o.ty ∨ lengthOk o v = false then .error aTYPELEN
      else if rangeOk o v = false ∨ encodingOk s ix sub v = false then .error aRANGE
      else if (o.acc = .rws ∨ o.ap = .quiescent) ∧ blockRuns s ix sub = true then .error aRUNNING
      else match o.ap with
        | .stepBoundary => stageWrite s step (okey ix sub) v
        | .reboot => commitStore s (storeKey 0 ix sub) v
        | _ => writeEffect s env reader o ix sub v

end Sys2Proof.Machine
end

