-- ==== Sys2Proof/Machine/Odp.lean ====
section
/-! DEFINITION. The paths to the dictionary (R373, R374, R415, R418 to R421): frames of the Ostler Dictionary Protocol, the
table of clients, the keyed tag, the mailbox, MCTP and the I3C address. -/

namespace Sys2Proof.Machine

/-! ### Frames (R418) -/

/-- An item of a request. -/
structure ReqItem where
  ix : Nat
  sub : Nat
  ty : Nat
  data : List Byte
  deriving DecidableEq, Repr

/-- An item of a response. -/
structure RespItem where
  ix : Nat
  sub : Nat
  ty : Nat
  abort : Nat
  data : List Byte
  deriving DecidableEq, Repr

/-- A request that is read whole: header fields and items. -/
structure DictReq where
  op : Nat
  client : Nat
  seq : Nat
  step : Nat
  items : List ReqItem
  deriving DecidableEq, Repr

/-- Bytes of padding to a multiple of 8. -/
def padTo8 (n : Nat) : Nat := (8 - n % 8) % 8

/-- A field of n bytes at an offset, little-endian. -/
def fieldAt (d : List Byte) (off n : Nat) : Nat := leNat ((d.drop off).take n)

/-- The items of a request: exactly n of them, with zero padding and reserved bytes and nothing after. -/
def parseItems : Nat → List Byte → Option (List ReqItem)
  | 0, d => if d.isEmpty then some [] else none
  | n + 1, d =>
    let len := fieldAt d 4 2
    let size := 8 + len + padTo8 len
    let pad := ((d.drop (8 + len)).take (padTo8 len)).all fun b => b == 0
    if d.length < size ∨ fieldAt d 6 2 ≠ 0 ∨ pad = false then none
    else
      match parseItems n (d.drop size) with
      | some l => some ({ ix := fieldAt d 0 2, sub := fieldAt d 2 1, ty := fieldAt d 3 1, data := (d.drop 8).take len } :: l)
      | none => none

/-- A request that no field makes a BAD_FRAME. (log 113 DEDUCED) -/
def parseReq (f : List Byte) : Option DictReq :=
  let op := fieldAt f 1 1
  let n := fieldAt f 2 1
  if f.length < 32 ∨ 1792 < f.length ∨ fieldAt f 0 1 ≠ 1 ∨ op = 0 ∨ 5 < op ∨ n = 0 ∨ 64 < n ∨ fieldAt f 3 1 ≠ 0 ∨ fieldAt f 6 2 ≠ 0 then none
  else
    match parseItems n (f.drop 32) with
    | none => none
    | some l =>
      if (op = 1 ∨ op = 4 ∨ op = 5) ∧ l.any (fun i => !i.data.isEmpty) = true then none
      else some { op := op, client := fieldAt f 4 2, seq := fieldAt f 8 4, step := fieldAt f 12 4, items := l }

/-- The bytes of a response item. -/
def itemBytes (i : RespItem) : List Byte :=
  leBytes 2 i.ix ++ leBytes 1 i.sub ++ leBytes 1 i.ty ++ leBytes 2 i.data.length ++ leBytes 4 i.abort ++ leBytes 2 0
    ++ i.data ++ zeros (padTo8 i.data.length)

/-- The whole items that fit into the bytes left, and their number. -/
def fitItems : Nat → List RespItem → Nat × List Byte
  | _, [] => (0, [])
  | room, i :: r =>
    let b := itemBytes i
    if room < b.length then (0, [])
    else let x := fitItems (room - b.length) r; (x.1 + 1, b ++ x.2)

/-- TAG: the first 16 bytes of SHA-256 over the key, the frame with TAG zero, and the key (R420). -/
def odpTag (key f : List Byte) : List Byte := (sha256 (key ++ f.take 16 ++ zeros 16 ++ f.drop 32 ++ key)).take 16

/-- The key of ODP. -/
def odpKey (s : State) : List Byte := odBytes s 0x1100 3

/-- Puts the TAG into a frame that goes out by ODP once the key is set (R420). -/
def tagged (s : State) (p : OPath) (f : List Byte) : List Byte :=
  match p with
  | .odp _ => if keyZero s then f else f.take 16 ++ odpTag (odpKey s) f ++ f.drop 32
  | _ => f

/-- A response: header and as many whole items as 2,048 bytes hold. (log 115 DEDUCED) -/
def respFrame (op client seq step : Nat) (l : List RespItem) : List Byte :=
  let x := fitItems (2048 - 32) l
  leBytes 1 1 ++ leBytes 1 (op % 128 + 128) ++ leBytes 1 x.1 ++ leBytes 1 0 ++ leBytes 2 client ++ leBytes 2 0 ++ leBytes 4 seq
    ++ leBytes 4 step ++ zeros 16 ++ x.2

/-- The whole-request response: the header as received with bit 7 of OPCODE set and ITEMS 1, and one empty head with the code.
 (log 113 DEDUCED) -/
def wholeFrame (f : List Byte) (code : Nat) : List Byte :=
  f.take 1 ++ leBytes 1 (fieldAt f 1 1 % 128 + 128) ++ leBytes 1 1 ++ (f.take 32).drop 3
    ++ itemBytes { ix := 0, sub := 0, ty := 0, abort := code, data := [] }

/-! ### Execution (R413, R415, R418) -/

/-- The type code that a response gives for an object; that of the request where there is none. -/
def respType (i : ReqItem) : Nat :=
  if i.sub = 0 ∧ objIndex i.ix = true then 2 else match objRow i.ix i.sub with | some o => tyCode o.ty | none => i.ty

/-- READ_STAGED of an object (R413): the value of the earliest pending step, the value stored for the next warm reset, or the
value in effect. -/
def readStaged (s : State) (reader ix sub : Nat) : Except Nat (List Byte) :=
  match objRow ix sub with
  | none => objRead s reader ix sub
  | some o =>
    if o.acc = .wo then objRead s reader ix sub else
    match o.ap with
    | .stepBoundary =>
      let l := s.dict.staged.filter fun x => x.2.1 == okey ix sub
      match (l.map Prod.fst).min? with
      | some m => match (l.filter fun x => x.1 == m).getLast? with
        | some x => .ok x.2.2
        | none => objRead s reader ix sub
      | none => objRead s reader ix sub
    | .reboot => .ok (storedValue s ix sub)
    | _ => objRead s reader ix sub

/-- One read item: the answer, and the state with the reader's cursor moved. -/
def readItem (s : State) (staged : Bool) (reader : Nat) (i : ReqItem) : State × RespItem :=
  match (if staged then readStaged s reader i.ix i.sub else objRead s reader i.ix i.sub) with
  | .ok d => (afterRead s reader i.ix i.sub, { ix := i.ix, sub := i.sub, ty := respType i, abort := 0, data := d })
  | .error c => (s, { ix := i.ix, sub := i.sub, ty := respType i, abort := c, data := [] })

/-- The answer to a write item. -/
def wrote (i : ReqItem) (code : Nat) : RespItem := { ix := i.ix, sub := i.sub, ty := i.ty, abort := code, data := [] }

/-- Write items one after another: the state that those accepted leave, and each item's answer. -/
def writeItems (s : State) (env : DictEnv) (viaOdp : Bool) (reader step : Nat) : List ReqItem → State × List RespItem
  | [] => (s, [])
  | i :: r =>
    match writeItem s env viaOdp reader step i.ix i.sub i.ty i.data with
    | .ok t => let x := writeItems t env viaOdp reader step r; (x.1, wrote i 0 :: x.2)
    | .error c => let x := writeItems s env viaOdp reader step r; (x.1, wrote i c :: x.2)

/-- Codes of access and apply class in a descriptor (R418). -/
def accCode (a : Access) : Nat := match a with | .ro => 0 | .rw => 1 | .wo => 2 | .rws => 3 | .const => 4
def apCode (a : Apply) : Nat := match a with | .immediate => 0 | .stepBoundary => 1 | .quiescent => 2 | .reboot => 3 | .none => 255

/-- The 16-byte descriptor of an object. -/
def descriptor (o : Obj) : List Byte :=
  leBytes 2 (tyLen o.ty) ++ leBytes 1 (accCode o.acc) ++ leBytes 1 (apCode o.ap) ++ leBytes 1 (b2n o.persistent + 2 * b2n o.team)
    ++ zeros 11

/-- The objects of a table row in ENUM; a row that begins at subindex 1 brings the index's U8 const at subindex 0 with it
(R411, R418). -/
def enumRow (o : Obj) : List RespItem :=
  (if o.lo = 1 then
    [{ ix := o.ix, sub := 0, ty := 2, abort := 0, data := descriptor { o with ty := .u 1, acc := .const, ap := .none, persistent := false, team := false } }]
   else [])
  ++ (List.range (o.hi + 1 - o.lo)).map fun j => { ix := o.ix, sub := o.lo + j, ty := tyCode o.ty, abort := 0, data := descriptor o }

/-- ENUM: up to 64 objects from an index and subindex upward. -/
def enumItems (ix sub : Nat) : List RespItem :=
  ((objTable.flatMap enumRow).filter fun i => decide (okey ix sub ≤ okey i.ix i.sub)).take 64

/-- A request is executed: WRITE applies its items one after another, WRITE_SET all or none (R415). -/
def doRequest (s : State) (env : DictEnv) (viaOdp : Bool) (reader : Nat) (q : DictReq) : State × List RespItem :=
  if q.op = 2 then writeItems s env viaOdp reader q.step q.items
  else if q.op = 3 then
    let x := writeItems s env viaOdp reader q.step q.items
    (if x.2.all fun i => i.abort == 0 then x.1 else s, x.2)
  else if q.op = 5 then (s, enumItems ((q.items.head?.map ReqItem.ix).getD 0) ((q.items.head?.map ReqItem.sub).getD 0))
  else
    q.items.foldl (fun (x : State × List RespItem) i =>
      let y := readItem x.1 (q.op == 4) reader i
      (y.1, x.2 ++ [y.2])) (s, [])

/-! ### Clients (R419) -/

/-- The client number of a path (R421). (log 115 DEDUCED) -/
def clientOf (p : OPath) : Nat :=
  match p with
  | .odp c => c
  | .mctp e => 0xFE00 + e % 256
  | .mailbox c => 0xFF00 + c
  | .control _ => 0

/-- The number under which a reader's cursors and selections are kept (R457): ODP clients, MCTP endpoints and mailbox channels
apart. (log 115 DEDUCED) -/
def readerOf (p : OPath) : Nat :=
  match p with
  | .odp c => c
  | .mctp e => 0x10000 + e % 256
  | .mailbox c => 0x20000 + c
  | .control _ => 0x30000

/-- The time in ms by which clients are aged. -/
def nowMs (s : State) : Nat := s.ost.time / 1000000

/-- Changes the table of clients. (log 115 DEDUCED) -/
def setClients (s : State) (l : List Client) : State := { s with dict := { s.dict with clients := l } }

/-- The client used least recently: the first of those with the lowest time. -/
def oldestClient (l : List Client) : Option Client :=
  match (l.map Client.lastMs).min? with
  | some m => l.find? fun c => c.lastMs == m
  | none => none

/-- A place for a new client: a free one, or that of the least recently used if it has been silent for 10 s.
 (log 113 DEDUCED) -/
def clientRoom (s : State) : Option (List Client) :=
  if s.dict.clients.length < 64 then some s.dict.clients else
  match oldestClient s.dict.clients with
  | some c => if c.lastMs + 10000 ≤ nowMs s then some (s.dict.clients.filter fun x => x.num != c.num) else none
  | none => some []

/-- Files a response under a client's SEQ: the last 16 are kept. -/
def fileReply (s : State) (num seq : Nat) (f : List Byte) : State :=
  setClients s (s.dict.clients.map fun c =>
    if c.num = num then
      let l := c.replies ++ [(seq, f)]
      { c with high := max c.high seq, replies := l.drop (l.length - 16) }
    else c)

/-! ### Service -/

/-- What a request is answered with: a frame, or for the mailbox the code of a refusal of the whole request. -/
structure Answer where
  frame : Option (List Byte) := none
  code : Nat := 0
  deriving DecidableEq, Repr

/-- A refusal of the whole request (R418). -/
def refuseWhole (p : OPath) (f : List Byte) (code : Nat) : Answer :=
  match p with
  | .mailbox _ => { code := code }
  | _ => { frame := some (wholeFrame f code) }

/-- The state in which a request is executed, and the answer that is filed and sent. (log 113 DEDUCED) -/
def runReq (s : State) (env : DictEnv) (p : OPath) (q : DictReq) : State × Answer :=
  let via := match p with | .odp _ => true | _ => false
  let s1 := { s with dict := { s.dict with norFail := !env.nor } }
  let x := doRequest s1 env via (readerOf p) q
  let t := { x.1 with dict := { x.1.dict with norFail := false, requests := x.1.dict.requests + 1 } }
  let f := tagged t p (respFrame q.op (clientOf p) q.seq q.step x.2)
  (fileReply t (clientOf p) q.seq f, { frame := some f })

/-- A request by SEQ and client (R419). -/
def byClient (s : State) (env : DictEnv) (p : OPath) (f : List Byte) (q : DictReq) : State × Answer :=
  let num := clientOf p
  match s.dict.clients.find? fun c => c.num == num with
  | none =>
    match clientRoom s with
    | none => (s, { frame := some (tagged s p (respFrame q.op num q.seq q.step (q.items.map fun i => wrote i aBUSY))) })
    | some l => runReq (setClients s (l ++ [{ num := num, high := q.seq, lastMs := nowMs s, replies := [] }])) env p q
  | some c =>
    let s1 := setClients s (s.dict.clients.map fun x => if x.num = num then { x with lastMs := nowMs s } else x)
    match c.replies.find? fun r => r.1 == q.seq with
    | some r => (s1, { frame := some r.2 })
    | none => if q.seq < c.high then (s1, refuseWhole p f aSEQUENCE) else runReq s1 env p q

/-- The TAG of a request by ODP is wrong while the key is set (R420). (log 113 DEDUCED) -/
def tagWrong (s : State) (p : OPath) (f : List Byte) : Bool :=
  match p with
  | .odp _ => !keyZero s && (f.drop 16).take 16 != odpTag (odpKey s) f
  | _ => false

/-- A request is served (R418 to R421). (log 113 DEDUCED) -/
def serve (s : State) (env : DictEnv) (p : OPath) (f : List Byte) : State × Answer :=
  if f.length < 32 then (s, match p with | .mailbox _ => { code := aBADFRAME } | _ => {})
  else if tagWrong s p f then
    let t := { s with dict := { s.dict with authFailures := s.dict.authFailures + 1 } }
    (t, { frame := some (tagged t p (respFrame (fieldAt f 1 1) (fieldAt f 4 2) (fieldAt f 8 4) (fieldAt f 12 4) [])) })
  else match parseReq f with
    | none => (s, refuseWhole p f aBADFRAME)
    | some q => byClient s env p f q

/-- The Ostler serves the dictionary: its firmware runs and the role is held (R408, R409, R468). (log 116 DEDUCED) -/
def dictServed (s : State) : Bool :=
  s.boot.fw && s.lands.stby && !s.lands.inReset && !s.boot.testMode && !s.boot.recovery && !s.ost.failed

/-- A frame goes out on a path. (log 116 DEDUCED) -/
def sendFrame (s : State) (p : OPath) (f : List Byte) : State := { s with dict := { s.dict with out := s.dict.out ++ [(p, f)] } }

/-- A frame that comes by ODP or by MCTP under a row of the opcode that is given: a sleeping package wakes on it as wake_sources
allows (R443); a frame with another row's opcode is not this command. (log 116 DEDUCED) -/
def odpArrives (s : State) (row : Nat) (eid : Option Nat) (env : DictEnv) (f : List Byte) : State :=
  let op := fieldAt f 1 1
  let p : OPath := match eid with | some e => .mctp e | none => .odp (fieldAt f 4 2)
  let asleep := s.power.sleepState == 2
  if !dictServed s || (op != row && decide (1 ≤ op ∧ op ≤ 5)) || (asleep && !bitAt (od s 0x3009 3) (b2n eid.isSome)) then s
  else
    let x := serve (if asleep then wake s else s) env p f
    match x.2.frame with
    | some r => sendFrame x.1 p (match eid with | some _ => [0, 0, 0xC1, 0xE5, 0x01] ++ r | none => r)
    | none => x.1

/-- ODP_READ. -/
def execOdpRead (eid : Option Nat) (frame : List Byte) (s : State) : Host.Outcome State Fault Refusal :=
  ok (odpArrives s 1 eid {} frame)

/-- ODP_WRITE. -/
def execOdpWrite (eid : Option Nat) (env : DictEnv) (frame : List Byte) (s : State) : Host.Outcome State Fault Refusal :=
  ok (odpArrives s 2 eid env frame)

/-- ODP_WRITE_SET. -/
def execOdpWriteSet (eid : Option Nat) (env : DictEnv) (frame : List Byte) (s : State) : Host.Outcome State Fault Refusal :=
  ok (odpArrives s 3 eid env frame)

/-- ODP_READ_STAGED. -/
def execOdpReadStaged (eid : Option Nat) (frame : List Byte) (s : State) : Host.Outcome State Fault Refusal :=
  ok (odpArrives s 4 eid {} frame)

/-- ODP_ENUM. -/
def execOdpEnum (eid : Option Nat) (frame : List Byte) (s : State) : Host.Outcome State Fault Refusal :=
  ok (odpArrives s 5 eid {} frame)

/-! ### MCTP and I3C (R421) -/

/-- An MCTP control command is answered. (log 46 PRESUMED) -/
def control (s : State) (cmd : Nat) (r : List Byte) : State := if dictServed s then sendFrame s (.control cmd) r else s

/-- MCTP_SET_ENDPOINT_ID: an ID of 8 to 254 is set; there is no static ID and no discovered flag to set. (log 46 PRESUMED) -/
def execMctpSetEndpointId (op eid : Nat) (s : State) : Host.Outcome State Fault Refusal :=
  ok (
    if op < 2 ∧ 8 ≤ eid ∧ eid < 255 then
      control (if dictServed s then { s with ost := { s.ost with eid := eid } } else s) 1 [0, 0, BitVec.ofNat 8 eid, 0]
    else control s 1 [2])

/-- MCTP_GET_ENDPOINT_ID. (log 46 PRESUMED) -/
def execMctpGetEndpointId (s : State) : Host.Outcome State Fault Refusal := ok (control s 2 [0, BitVec.ofNat 8 s.ost.eid, 0, 0])

/-- MCTP_GET_VERSION_SUPPORT: of the base (0xFF), the control messages (0) and the vendor message type (0x7E).
 (log 46 PRESUMED) -/
def execMctpGetVersionSupport (type : Nat) (s : State) : Host.Outcome State Fault Refusal :=
  ok (
    if type = 0xFF ∨ type = 0 ∨ type = 0x7E then
      control s 4 ([0, 1] ++ (List.range 4).map fun i => Config.mctpByte (4 * type + i))
    else control s 4 [0x80])

/-- MCTP_GET_MESSAGE_TYPE_SUPPORT: message type 0x7E. (log 46 PRESUMED) -/
def execMctpGetMessageTypeSupport (s : State) : Host.Outcome State Fault Refusal := ok (control s 5 [0, 1, 0x7E])

/-- MCTP_GET_VENDOR_MSG_SUPPORT: one vendor, by its IANA enterprise number. (log 46 PRESUMED) -/
def execMctpGetVendorMsgSupport (selector : Nat) (s : State) : Host.Outcome State Fault Refusal :=
  ok (
    if selector = 0 then
      control s 6 ([0, 0xFF, 1, 0, 0, 0xC1, 0xE5] ++ (List.range 2).map fun i => Config.mctpByte (1024 + i))
    else control s 6 [2])

/-- I3C_ENTDAA: a target without a dynamic address takes the one assigned. (log 120 PRESUMED) -/
def execI3cEntdaa (addr : Nat) (s : State) : Host.Outcome State Fault Refusal :=
  ok (if dictServed s ∧ s.ost.i3c = 0 then { s with ost := { s.ost with i3c := addr } } else s)

/-- I3C_SETDASA: the target at i3c_static_address takes the address assigned. (log 120 PRESUMED) -/
def execI3cSetdasa (target addr : Nat) (s : State) : Host.Outcome State Fault Refusal :=
  ok (if dictServed s ∧ s.ost.i3c = 0 ∧ target = od s 0x1100 4 then { s with ost := { s.ost with i3c := addr } } else s)

/-! ### The mailbox (R373, R374) -/

/-- A mailbox channel. -/
def mailOf (s : State) (c : Nat) : Mailbox := sget {} s.dict.mail c

/-- Changes a mailbox channel. -/
def modMail (s : State) (c : Nat) (f : Mailbox → Mailbox) : State :=
  { s with dict := { s.dict with mail := smod {} s.dict.mail c f } }

/-- The request bytes of a channel: REQ_LEN of them. -/
def mailFrame (x : Mailbox) : List Byte := (x.req ++ zeros (1792 - x.req.length)).take x.reqLen

/-- The Ostler serves the request of a channel: the response, DONE, and the interrupt. (log 116 DEDUCED) -/
def serveMail (s : State) (c : Nat) (env : DictEnv) : State :=
  let x := mailOf s c
  let r := if x.reqLen < 8 ∨ 1792 < x.reqLen then (s, { code := aBADFRAME : Answer }) else serve s env (.mailbox c) (mailFrame x)
  let d := r.2.frame.getD []
  deliverIrq (modMail r.1 c fun y =>
    { y with resp := d, respLen := d.length, abort := r.2.code, busy := false, done := true, served := y.served + 1 }) x.irqTarget

/-- MAILBOX_SUBMIT: a write with GO to a channel that is not busy; while no Ostler serves, BUSY stays set. (log 116 DEDUCED) -/
def execMailboxSubmit (ch : Nat) (w : W64) (env : DictEnv) (s : State) : Host.Outcome State Fault Refusal :=
  ok (
    let n := w.toNat
    if 16 ≤ ch ∨ bitAt n 0 = false then s else
    let s1 := mailHead s ch n
    if (mailOf s ch).busy then s1 else
    let s2 := modMail s1 ch fun y => { y with busy := true }
    if dictServed s then serveMail s2 ch env else s2)

/-- MAILBOX_DONE_CLEAR: a write with 1 in DONE and no GO. -/
def execMailboxDoneClear (x : MailboxWrite) (s : State) : Host.Outcome State Fault Refusal :=
  ok (if 16 ≤ x.ch ∨ bitAt x.w.toNat 0 ∨ bitAt x.w.toNat 2 = false then s else mailHead s x.ch x.w.toNat)

end Sys2Proof.Machine
end

