-- ==== Sys2Proof/Machine/Dispatch.lean ====
section
/-! DEFINITION. One arm per command: the direct call of its meaning. -/

namespace Sys2Proof.Machine

/-- The effect of a command on everything but the queue. (log 1 DESIGN CHOICE) -/
def exec (i : Instr) (s : State) : Host.Outcome State Fault Refusal :=
  match i with
  | .standbyPowerOn => Sys2Proof.Machine.execStandbyPowerOn s
  | .pkgResetAssert => Sys2Proof.Machine.execPkgResetAssert s
  | .pkgResetRelease straps finds => Sys2Proof.Machine.execPkgResetRelease straps finds s
  | .roleAnnounceTimeout => Sys2Proof.Machine.execRoleAnnounceTimeout s
  | .bootWatchdogReset => Sys2Proof.Machine.execBootWatchdogReset s
  | .recoveryImageChunk data last sig => Sys2Proof.Machine.execRecoveryImageChunk data last sig s
  | .powerGoodRise rail failed => Sys2Proof.Machine.execPowerGoodRise rail failed s
  | .powerGoodTimeout rail lost => Sys2Proof.Machine.execPowerGoodTimeout rail lost s
  | .powerGoodFall rail lost => Sys2Proof.Machine.execPowerGoodFall rail lost s
  | .powerBrakeAssert => Sys2Proof.Machine.execPowerBrakeAssert s
  | .powerBrakeRelease => Sys2Proof.Machine.execPowerBrakeRelease s
  | .wakeNAssert => Sys2Proof.Machine.execWakeNAssert s
  | .vstbyLoss => Sys2Proof.Machine.execVstbyLoss s
  | .tapBypass data => Sys2Proof.Machine.execTapBypass data s
  | .tapSamplePreload pins data => Sys2Proof.Machine.execTapSamplePreload pins data s
  | .tapExtest pins data => Sys2Proof.Machine.execTapExtest pins data s
  | .tapIdcode => Sys2Proof.Machine.execTapIdcode s
  | .tapReset => Sys2Proof.Machine.execTapReset s
  | .ostlerHeartbeat => Sys2Proof.Machine.execOstlerHeartbeat s
  | .standbyTakeover dies => Sys2Proof.Machine.execStandbyTakeover dies s
  | .handoverRequest dies => Sys2Proof.Machine.execHandoverRequest dies s
  | .standbySelfTestPass => Sys2Proof.Machine.execStandbySelfTestPass s
  | .standbySyncComplete => Sys2Proof.Machine.execStandbySyncComplete s
  | .mgmtRingCommand epoch cmd => Sys2Proof.Machine.execMgmtRingCommand epoch cmd s
  | .groomHeartbeat groom => Sys2Proof.Machine.execGroomHeartbeat groom s
  | .groomSilent groom resetOk lines engines => Sys2Proof.Machine.execGroomSilent groom resetOk lines engines s
  | .groomRestartReport groom => Sys2Proof.Machine.execGroomRestartReport groom s
  | .groomReportTimeout groom resetOk lines engines => Sys2Proof.Machine.execGroomReportTimeout groom resetOk lines engines s
  | .groomHoldTimeout lost => Sys2Proof.Machine.execGroomHoldTimeout lost s
  | .odpRead eid frame => Sys2Proof.Machine.execOdpRead eid frame s
  | .odpWrite eid env frame => Sys2Proof.Machine.execOdpWrite eid env frame s
  | .odpWriteSet eid env frame => Sys2Proof.Machine.execOdpWriteSet eid env frame s
  | .odpReadStaged eid frame => Sys2Proof.Machine.execOdpReadStaged eid frame s
  | .odpEnum eid frame => Sys2Proof.Machine.execOdpEnum eid frame s
  | .mctpSetEndpointId op eid => Sys2Proof.Machine.execMctpSetEndpointId op eid s
  | .mctpGetEndpointId => Sys2Proof.Machine.execMctpGetEndpointId s
  | .mctpGetVersionSupport type => Sys2Proof.Machine.execMctpGetVersionSupport type s
  | .mctpGetMessageTypeSupport => Sys2Proof.Machine.execMctpGetMessageTypeSupport s
  | .mctpGetVendorMsgSupport selector => Sys2Proof.Machine.execMctpGetVendorMsgSupport selector s
  | .i3cEntdaa addr => Sys2Proof.Machine.execI3cEntdaa addr s
  | .i3cSetdasa target addr => Sys2Proof.Machine.execI3cSetdasa target addr s
  | .mailboxSubmit ch w env => Sys2Proof.Machine.execMailboxSubmit ch w env s
  | .mailboxDoneClear x => Sys2Proof.Machine.execMailboxDoneClear x s
  | .registerWrite agent pa width v => Sys2Proof.Machine.execRegisterWrite agent pa width v s
  | .snapshotRead agent x => Sys2Proof.Machine.execSnapshotRead agent x s
  | .chainStatusW1c ge v => Sys2Proof.Machine.execChainStatusW1c ge v s
  | .rangeErrorW1c p v => Sys2Proof.Machine.execRangeErrorW1c p v s
  | .gaitMonitorSample cluster pred live => Sys2Proof.Machine.execGaitMonitorSample cluster pred live s
  | .governorInterval powers other hosts temps hbm avs lost => Sys2Proof.Machine.execGovernorInterval powers other hosts temps hbm avs lost s
  | .floorBreachClear => Sys2Proof.Machine.execFloorBreachClear s
  | .groomPowerSample die power => Sys2Proof.Machine.execGroomPowerSample die power s
  | .slewWindow mean dies full => Sys2Proof.Machine.execSlewWindow mean dies full s
  | .coolantDemandUpdate mean => Sys2Proof.Machine.execCoolantDemandUpdate mean s
  | .liveCalibration cluster pred live => Sys2Proof.Machine.execLiveCalibration cluster pred live s
  | .replicaSelfCheck cluster cal => Sys2Proof.Machine.execReplicaSelfCheck cluster cal s
  | .avsbusRetry die good => Sys2Proof.Machine.execAvsbusRetry die good s
  | .supplyFault lost => Sys2Proof.Machine.execSupplyFault lost s
  | .sensorCheck die reads => Sys2Proof.Machine.execSensorCheck die reads s
  | .eyeRetrainScan pc => Sys2Proof.Machine.execEyeRetrainScan pc s
  | .eyeRetrainHold pc => Sys2Proof.Machine.execEyeRetrainHold pc s
  | .thermalTrip die lost => Sys2Proof.Machine.execThermalTrip die lost s
  | .hobbleRequest lost => Sys2Proof.Machine.execHobbleRequest lost s
  | .hobbleExit => Sys2Proof.Machine.execHobbleExit s
  | .hobbleAutoExit => Sys2Proof.Machine.execHobbleAutoExit s
  | .sleepRequest lost => Sys2Proof.Machine.execSleepRequest lost s
  | .studbookSubmit => Sys2Proof.Machine.execStudbookSubmit s
  | .tokenRefill => Sys2Proof.Machine.execTokenRefill s
  | .studbookRecordWrite => Sys2Proof.Machine.execStudbookRecordWrite s
  | .recorderFailure recorder => Sys2Proof.Machine.execRecorderFailure recorder s
  | .studbookNorCopyDone => Sys2Proof.Machine.execStudbookNorCopyDone s
  | .studbookRecordRead reader => Sys2Proof.Machine.execStudbookRecordRead reader s
  | .qvaRecordRead reader => Sys2Proof.Machine.execQvaRecordRead reader s
  | .swRecord data => Sys2Proof.Machine.execSwRecord data s
  | .triggerEntryWrite data => Sys2Proof.Machine.execTriggerEntryWrite data s
  | .rateLimitWrite burst v => Sys2Proof.Machine.execRateLimitWrite burst v s
  | .updateLoad => Sys2Proof.Machine.execUpdateLoad s
  | .updateLoadComplete sig flash => Sys2Proof.Machine.execUpdateLoadComplete sig flash s
  | .updateGrooms => Sys2Proof.Machine.execUpdateGrooms s
  | .updateOstler => Sys2Proof.Machine.execUpdateOstler s
  | .updateAtReset => Sys2Proof.Machine.execUpdateAtReset s
  | .updateCommitSvn => Sys2Proof.Machine.execUpdateCommitSvn s
  | .repairRecordCommit kind => Sys2Proof.Machine.execRepairRecordCommit kind s
  | .attestNonce reader nonce => Sys2Proof.Machine.execAttestNonce reader nonce s
  | .bottomTreeCompute => Sys2Proof.Machine.execBottomTreeCompute s
  | .slotAdmission slot => Sys2Proof.Machine.execSlotAdmission slot s
  | .drainRequest slot => Sys2Proof.Machine.execDrainRequest slot s
  | .containmentReport kind unit resetOk lines engines => Sys2Proof.Machine.execContainmentReport kind unit resetOk lines engines s
  | .containmentClear kind unit => Sys2Proof.Machine.execContainmentClear kind unit s
  | .remount slot test readable => Sys2Proof.Machine.execRemount slot test readable s
  | .spareMapCommit slot => Sys2Proof.Machine.execSpareMapCommit slot s
  | .remountResume slot readable => Sys2Proof.Machine.execRemountResume slot readable s
  | .unitReadmission kind unit pass bySleep => Sys2Proof.Machine.execUnitReadmission kind unit pass bySleep s
  | .packedModeEnter slot arr => Sys2Proof.Machine.execPackedModeEnter slot arr s
  | .packedModeExit slot arr => Sys2Proof.Machine.execPackedModeExit slot arr s
  | .packedModeTest slot test => Sys2Proof.Machine.execPackedModeTest slot test s
  | .spareTestInterval die tests => Sys2Proof.Machine.execSpareTestInterval die tests s
  | .checkpointPoint step => Sys2Proof.Machine.execCheckpointPoint step s
  | .checkpointCopyComplete => Sys2Proof.Machine.execCheckpointCopyComplete s
  | .checkpointDrainComplete stored => Sys2Proof.Machine.execCheckpointDrainComplete stored s
  | .checkpointRestore images => Sys2Proof.Machine.execCheckpointRestore images s
  | .replayStallTimeout step => Sys2Proof.Machine.execReplayStallTimeout step s
  | .groupTallyReport member step group tally => Sys2Proof.Machine.execGroupTallyReport member step group tally s
  | .replicaTripleExchange group handle step triples => Sys2Proof.Machine.execReplicaTripleExchange group handle step triples s
  | .replicaRepairInstall group handle step data => Sys2Proof.Machine.execReplicaRepairInstall group handle step data s
  | .replicaScrub step => Sys2Proof.Machine.execReplicaScrub step s
  | .memberSuspect member => Sys2Proof.Machine.execMemberSuspect member s
  | .declareLost member => Sys2Proof.Machine.execDeclareLost member s
  | .schedulerDecision p delta bills => Sys2Proof.Machine.execSchedulerDecision p delta bills s
  | .sliceEnd ctx => Sys2Proof.Machine.execSliceEnd ctx s
  | .blockThresholdReached ctx => Sys2Proof.Machine.execBlockThresholdReached ctx s
  | .contextDispatch ctx => Sys2Proof.Machine.execContextDispatch ctx s
  | .swapOutComplete ctx => Sys2Proof.Machine.execSwapOutComplete ctx s
  | .swapInComplete ctx => Sys2Proof.Machine.execSwapInComplete ctx s
  | .paddockStart p => Sys2Proof.Machine.execPaddockStart p s
  | .paddockStop p => Sys2Proof.Machine.execPaddockStop p s
  | .paddockDrainComplete p => Sys2Proof.Machine.execPaddockDrainComplete p s
  | .paddockClustersWrite p hi v => Sys2Proof.Machine.execPaddockClustersWrite p hi v s
  | .ringRangeWrite p count v => Sys2Proof.Machine.execRingRangeWrite p count v s
  | .paddockRangeWrite p entry word v => Sys2Proof.Machine.execPaddockRangeWrite p entry word v s
  | .shareWeightWrite ctx v => Sys2Proof.Machine.execShareWeightWrite ctx v s
  | .doorbell ring d => Sys2Proof.Machine.execDoorbell ring d s
  | .doorbellContinue ring => Sys2Proof.Machine.execDoorbellContinue ring s
  | .doorbellReset ring => Sys2Proof.Machine.execDoorbellReset ring s
  | .ringEnable die w => Sys2Proof.Machine.execRingEnable die w s
  | .ringDisable die w => Sys2Proof.Machine.execRingDisable die w s
  | .ringCtlReset die w => Sys2Proof.Machine.execRingCtlReset die w s
  | .cmdNop ring => Sys2Proof.Machine.execCmdNop ring s
  | .cmdLaunch ring => Sys2Proof.Machine.execCmdLaunch ring s
  | .cmdWrite ring => Sys2Proof.Machine.execCmdWrite ring s
  | .cmdCmb ring => Sys2Proof.Machine.execCmdCmb ring s
  | .cmdWait ring => Sys2Proof.Machine.execCmdWait ring s
  | .cmdWaitPoll ring => Sys2Proof.Machine.execCmdWaitPoll ring s
  | .cmdWaitTimeout ring => Sys2Proof.Machine.execCmdWaitTimeout ring s
  | .cmdCreate ring => Sys2Proof.Machine.execCmdCreate ring s
  | .cmdDestroy ring => Sys2Proof.Machine.execCmdDestroy ring s
  | .cmdUnknownOpcode ring => Sys2Proof.Machine.execCmdUnknownOpcode ring s
  | .launchComplete ctx => Sys2Proof.Machine.execLaunchComplete ctx s
  | .hostDieReset die lost => Sys2Proof.Machine.execHostDieReset die lost s
  | .hostCoreReset hart late failed => Sys2Proof.Machine.execHostCoreReset hart late failed s
  | .hostDieResetExit die => Sys2Proof.Machine.execHostDieResetExit die s
  | .ctlNop ge => Sys2Proof.Machine.execCtlNop ge s
  | .ctlLi ge rd imm => Sys2Proof.Machine.execCtlLi ge rd imm s
  | .ctlLih ge rd imm => Sys2Proof.Machine.execCtlLih ge rd imm s
  | .ctlAdd ge rd ra rb => Sys2Proof.Machine.execCtlAdd ge rd ra rb s
  | .ctlSub ge rd ra rb => Sys2Proof.Machine.execCtlSub ge rd ra rb s
  | .ctlMul ge rd ra rb => Sys2Proof.Machine.execCtlMul ge rd ra rb s
  | .ctlAnd ge rd ra rb => Sys2Proof.Machine.execCtlAnd ge rd ra rb s
  | .ctlOr ge rd ra rb => Sys2Proof.Machine.execCtlOr ge rd ra rb s
  | .ctlXor ge rd ra rb => Sys2Proof.Machine.execCtlXor ge rd ra rb s
  | .ctlAddi ge rd ra imm => Sys2Proof.Machine.execCtlAddi ge rd ra imm s
  | .ctlSlli ge rd ra imm => Sys2Proof.Machine.execCtlSlli ge rd ra imm s
  | .ctlSrli ge rd ra imm => Sys2Proof.Machine.execCtlSrli ge rd ra imm s
  | .ctlSrai ge rd ra imm => Sys2Proof.Machine.execCtlSrai ge rd ra imm s
  | .ctlAndi ge rd ra imm => Sys2Proof.Machine.execCtlAndi ge rd ra imm s
  | .ctlBeq ge ra rb imm => Sys2Proof.Machine.execCtlBeq ge ra rb imm s
  | .ctlBne ge ra rb imm => Sys2Proof.Machine.execCtlBne ge ra rb imm s
  | .ctlBlt ge ra rb imm => Sys2Proof.Machine.execCtlBlt ge ra rb imm s
  | .ctlBge ge ra rb imm => Sys2Proof.Machine.execCtlBge ge ra rb imm s
  | .ctlBltu ge ra rb imm => Sys2Proof.Machine.execCtlBltu ge ra rb imm s
  | .ctlBgeu ge ra rb imm => Sys2Proof.Machine.execCtlBgeu ge ra rb imm s
  | .ctlJal ge rd imm => Sys2Proof.Machine.execCtlJal ge rd imm s
  | .ctlJr ge ra => Sys2Proof.Machine.execCtlJr ge ra s
  | .ctlLds ge rd ra imm => Sys2Proof.Machine.execCtlLds ge rd ra imm s
  | .ctlSts ge ra rb imm => Sys2Proof.Machine.execCtlSts ge ra rb imm s
  | .ctlDld ge rd ra imm => Sys2Proof.Machine.execCtlDld ge rd ra imm s
  | .ctlDst ge ra rb imm => Sys2Proof.Machine.execCtlDst ge ra rb imm s
  | .ctlDsetw ge rd ra imm => Sys2Proof.Machine.execCtlDsetw ge rd ra imm s
  | .ctlDaddw ge rd ra imm => Sys2Proof.Machine.execCtlDaddw ge rd ra imm s
  | .ctlRds ge rd imm => Sys2Proof.Machine.execCtlRds ge rd imm s
  | .ctlYieldpt ge imm => Sys2Proof.Machine.execCtlYieldpt ge imm s
  | .ctlFault ge imm => Sys2Proof.Machine.execCtlFault ge imm s
  | .ctlEnd ge imm => Sys2Proof.Machine.execCtlEnd ge imm s
  | .illegalInstruction ge word => Sys2Proof.Machine.execIllegalInstruction ge word s
  | .yieldSave ge waves => Sys2Proof.Machine.execYieldSave ge waves s
  | .streamEnd ge waves => Sys2Proof.Machine.execStreamEnd ge waves s
  | .yieldGapExceeded ge => Sys2Proof.Machine.execYieldGapExceeded ge s
  | .overrun ge => Sys2Proof.Machine.execOverrun ge s
  | .movCopy ge q ds dd => Sys2Proof.Machine.execMovCopy ge q ds dd s
  | .movFill ge q dd ra => Sys2Proof.Machine.execMovFill ge q dd ra s
  | .movCmb ge q ds dd ra imm => Sys2Proof.Machine.execMovCmb ge q ds dd ra imm s
  | .movCdone ge q dd ra imm => Sys2Proof.Machine.execMovCdone ge q dd ra imm s
  | .movCopen ge q ds => Sys2Proof.Machine.execMovCopen ge q ds s
  | .movCclose ge q dd => Sys2Proof.Machine.execMovCclose ge q dd s
  | .movTransferComplete ge q => Sys2Proof.Machine.execMovTransferComplete ge q s
  | .moveUnitFault ge q => Sys2Proof.Machine.execMoveUnitFault ge q s
  | .regEccError ge => Sys2Proof.Machine.execRegEccError ge s
  | .mtxRun ge arr rb imm => Sys2Proof.Machine.execMtxRun ge arr rb imm s
  | .mtxTdecl ge arr imm => Sys2Proof.Machine.execMtxTdecl ge arr imm s
  | .mtxTrel ge arr imm => Sys2Proof.Machine.execMtxTrel ge arr imm s
  | .mtxTzero ge arr imm => Sys2Proof.Machine.execMtxTzero ge arr imm s
  | .mtxTclr ge arr imm => Sys2Proof.Machine.execMtxTclr ge arr imm s
  | .mtxTsave ge arr dr imm => Sys2Proof.Machine.execMtxTsave ge arr dr imm s
  | .mtxTrest ge arr dr imm => Sys2Proof.Machine.execMtxTrest ge arr dr imm s
  | .mtxTstat ge arr rd imm => Sys2Proof.Machine.execMtxTstat ge arr rd imm s
  | .mtxFmtld ge dr imm => Sys2Proof.Machine.execMtxFmtld ge dr imm s
  | .formatSlotLoad ge => Sys2Proof.Machine.execFormatSlotLoad ge s
  | .passStart ge arr => Sys2Proof.Machine.execPassStart ge arr s
  | .arrayWave ge arr dry busy fill => Sys2Proof.Machine.execArrayWave ge arr dry busy fill s
  | .shadowLoadRead ge arr => Sys2Proof.Machine.execShadowLoadRead ge arr s
  | .shadowLoadBankWrite ge arr => Sys2Proof.Machine.execShadowLoadBankWrite ge arr s
  | .finishedTileRaise ge arr tile => Sys2Proof.Machine.execFinishedTileRaise ge arr tile s
  | .fullSaveStop ctx waves => Sys2Proof.Machine.execFullSaveStop ctx waves s
  | .fullSaveResume ge arr => Sys2Proof.Machine.execFullSaveResume ge arr s
  | .arrayHwFault ge arr code => Sys2Proof.Machine.execArrayHwFault ge arr code s
  | .handshakeTimeout ge unit => Sys2Proof.Machine.execHandshakeTimeout ge unit s
  | .vchRun ge rp rc imm => Sys2Proof.Machine.execVchRun ge rp rc imm s
  | .vchCrvld ge dr imm => Sys2Proof.Machine.execVchCrvld ge dr imm s
  | .vchCclr ge imm => Sys2Proof.Machine.execVchCclr ge imm s
  | .vchCstat ge rd => Sys2Proof.Machine.execVchCstat ge rd s
  | .curveSlotLoad ge => Sys2Proof.Machine.execCurveSlotLoad ge s
  | .chainInstrStart ge => Sys2Proof.Machine.execChainInstrStart ge s
  | .chainInstrComplete ge p => Sys2Proof.Machine.execChainInstrComplete ge p s
  | .chainHwFault ge code => Sys2Proof.Machine.execChainHwFault ge code s
  | .rlyDispatch ge ds dd ra rb imm => Sys2Proof.Machine.execRlyDispatch ge ds dd ra rb imm s
  | .rlySend ge ds ra rb imm => Sys2Proof.Machine.execRlySend ge ds ra rb imm s
  | .rlyPostrx ge dd ra rb imm => Sys2Proof.Machine.execRlyPostrx ge dd ra rb imm s
  | .rlyReturn ge ds dd ra imm => Sys2Proof.Machine.execRlyReturn ge ds dd ra imm s
  | .rlyStepflags ge ra imm => Sys2Proof.Machine.execRlyStepflags ge ra imm s
  | .rlyCancelrx ge ra imm => Sys2Proof.Machine.execRlyCancelrx ge ra imm s
  | .synFenceData ge => Sys2Proof.Machine.execSynFenceData ge s
  | .synFenceFlag ge ra rb => Sys2Proof.Machine.execSynFenceFlag ge ra rb s
  | .synWait ge cond ra rb rd imm => Sys2Proof.Machine.execSynWait ge cond ra rb rd imm s
  | .synWaitSatisfied ge waves => Sys2Proof.Machine.execSynWaitSatisfied ge waves s
  | .synWaitTimeout ge waves => Sys2Proof.Machine.execSynWaitTimeout ge waves s
  | .fenceFlagMarker home ctx => Sys2Proof.Machine.execFenceFlagMarker home ctx s
  | .fenceFlagWrite ctx => Sys2Proof.Machine.execFenceFlagWrite ctx s
  | .staleLogOverflow home => Sys2Proof.Machine.execStaleLogOverflow home s
  | .regionAttrGo w1 => Sys2Proof.Machine.execRegionAttrGo w1 s
  | .regionAttrDone => Sys2Proof.Machine.execRegionAttrDone s
  | .offloadStreamEnable home stream w1 => Sys2Proof.Machine.execOffloadStreamEnable home stream w1 s
  | .offloadShortInterval home stream carried demand => Sys2Proof.Machine.execOffloadShortInterval home stream carried demand s
  | .iotinvalVma inst dev all va => Sys2Proof.Machine.execIotinvalVma inst dev all va s
  | .iotinvalGvma inst dev all va => Sys2Proof.Machine.execIotinvalGvma inst dev all va s
  | .iodirInvalDdt inst dev all => Sys2Proof.Machine.execIodirInvalDdt inst dev all s
  | .iodirInvalPdt inst dev pid => Sys2Proof.Machine.execIodirInvalPdt inst dev pid s
  | .iofenceC inst flag => Sys2Proof.Machine.execIofenceC inst flag s
  | .iofenceCComplete inst => Sys2Proof.Machine.execIofenceCComplete inst s
  | .rs agent pa core err => Sys2Proof.Machine.execRs agent pa core err s
  | .ru agent pa u => Sys2Proof.Machine.execRu agent pa u s
  | .upg agent pa u => Sys2Proof.Machine.execUpg agent pa u s
  | .rnc agent pa n r => Sys2Proof.Machine.execRnc agent pa n r s
  | .wnc agent pa data w => Sys2Proof.Machine.execWnc agent pa data w s
  | .anc agent pa width op x => Sys2Proof.Machine.execAnc agent pa width op x s
  | .putm agent pa => Sys2Proof.Machine.execPutm agent pa s
  | .puto agent pa => Sys2Proof.Machine.execPuto agent pa s
  | .pute agent pa => Sys2Proof.Machine.execPute agent pa s
  | .forward agent pa => Sys2Proof.Machine.execForward agent pa s
  | .invalidation agent pa => Sys2Proof.Machine.execInvalidation agent pa s
  | .invalidationAck agent pa => Sys2Proof.Machine.execInvalidationAck agent pa s
  | .dataResponse agent pa => Sys2Proof.Machine.execDataResponse agent pa s
  | .completionAck agent pa => Sys2Proof.Machine.execCompletionAck agent pa s
  | .putAck agent pa => Sys2Proof.Machine.execPutAck agent pa s
  | .retry agent pa => Sys2Proof.Machine.execRetry agent pa s
  | .grant home => Sys2Proof.Machine.execGrant home s
  | .release home num agent => Sys2Proof.Machine.execRelease home num agent s
  | .creditLapse home num => Sys2Proof.Machine.execCreditLapse home num s
  | .lrDeferEnd core => Sys2Proof.Machine.execLrDeferEnd core s
  | .harnessAckTimeout agent x => Sys2Proof.Machine.execHarnessAckTimeout agent x s
  | .cacheAgentLost agent => Sys2Proof.Machine.execCacheAgentLost agent s
  | .dirUncorrectableError home x => Sys2Proof.Machine.execDirUncorrectableError home x s
  | .setRecall agent home set => Sys2Proof.Machine.execSetRecall agent home set s
  | .combineOpen home words owner => Sys2Proof.Machine.execCombineOpen home words owner s
  | .combineContribution pa type epoch contrib d src => Sys2Proof.Machine.execCombineContribution pa type epoch contrib d src s
  | .combineDone pa epoch contrib src => Sys2Proof.Machine.execCombineDone pa epoch contrib src s
  | .combineClose pa owner => Sys2Proof.Machine.execCombineClose pa owner s
  | .combineApplyComplete pa => Sys2Proof.Machine.execCombineApplyComplete pa s
  | .combineRefusal => Sys2Proof.Machine.execCombineRefusal s
  | .combineUnitFault home => Sys2Proof.Machine.execCombineUnitFault home s
  | .portLinkUp p => Sys2Proof.Machine.execPortLinkUp p s
  | .laneFailure port lane => Sys2Proof.Machine.execLaneFailure port lane s
  | .laneSpareComplete port => Sys2Proof.Machine.execLaneSpareComplete port s
  | .packetTransmit stream => Sys2Proof.Machine.execPacketTransmit stream s
  | .frameData a f => Sys2Proof.Machine.execFrameData a f s
  | .frameAck a f => Sys2Proof.Machine.execFrameAck a f s
  | .frameNack a f now => Sys2Proof.Machine.execFrameNack a f now s
  | .frameCredit a f => Sys2Proof.Machine.execFrameCredit a f s
  | .frameOpen a f => Sys2Proof.Machine.execFrameOpen a f s
  | .frameOpenAck a f => Sys2Proof.Machine.execFrameOpenAck a f s
  | .frameOpenNack a f => Sys2Proof.Machine.execFrameOpenNack a f s
  | .frameClose a f => Sys2Proof.Machine.execFrameClose a f s
  | .frameProbe a f => Sys2Proof.Machine.execFrameProbe a f s
  | .frameProbeAck a f => Sys2Proof.Machine.execFrameProbeAck a f s
  | .openRetryTimer stream => Sys2Proof.Machine.execOpenRetryTimer stream s
  | .retransmitTimeout stream psn now => Sys2Proof.Machine.execRetransmitTimeout stream psn now s
  | .noPathTimeout stream => Sys2Proof.Machine.execNoPathTimeout stream s
  | .ackTimer stream => Sys2Proof.Machine.execAckTimer stream s
  | .probeTimer stream => Sys2Proof.Machine.execProbeTimer stream s
  | .earlyRetry => Sys2Proof.Machine.execEarlyRetry s
  | .stepDeadline step => Sys2Proof.Machine.execStepDeadline step s
  | .stepCloseRecord step => Sys2Proof.Machine.execStepCloseRecord step s
  | .relayUnitFault unit => Sys2Proof.Machine.execRelayUnitFault unit s
  | .streamQuerySelect reader data => Sys2Proof.Machine.execStreamQuerySelect reader data s
  | .streamClose stream => Sys2Proof.Machine.execStreamClose stream s
  | .lendWriteRequest member off data => Sys2Proof.Machine.execLendWriteRequest member off data s
  | .lendReadRequest member off len => Sys2Proof.Machine.execLendReadRequest member off len s
  | .lendEnableWrite v => Sys2Proof.Machine.execLendEnableWrite v s
  | .lendNoticeExpiry => Sys2Proof.Machine.execLendNoticeExpiry s
  | .verdictReport member step halve incomplete => Sys2Proof.Machine.execVerdictReport member step halve incomplete s
  | .verdictWaitExpiry step => Sys2Proof.Machine.execVerdictWaitExpiry step s
  | .verdictReceive step halve incomplete lsNext clean => Sys2Proof.Machine.execVerdictReceive step halve incomplete lsNext clean s
  | .commitDeadline step => Sys2Proof.Machine.execCommitDeadline step s
  | .nvmeRingPoll unit ring => Sys2Proof.Machine.execNvmeRingPoll unit ring s
  | .nvmeRead unit => Sys2Proof.Machine.execNvmeRead unit s
  | .nvmeWrite unit => Sys2Proof.Machine.execNvmeWrite unit s
  | .nvmeWriteFua unit => Sys2Proof.Machine.execNvmeWriteFua unit s
  | .nvmeFlush unit => Sys2Proof.Machine.execNvmeFlush unit s
  | .nvmeDeallocate unit => Sys2Proof.Machine.execNvmeDeallocate unit s
  | .nvmeWriteZeroes unit => Sys2Proof.Machine.execNvmeWriteZeroes unit s
  | .nvmeCompletion unit id status data => Sys2Proof.Machine.execNvmeCompletion unit id status data s
  | .groomWatchdogRestart groom => Sys2Proof.Machine.execGroomWatchdogRestart groom s

end Sys2Proof.Machine
end

