-- ==== Sys2Proof/Safety.lean ====
section
/-! DEFINITION. The terms the statements use: when an engine's instruction is issued and what its issue wave leaves, what an
access to memory may touch, and what a safe run of the block is. -/

namespace Sys2Proof.Machine

/-- A queue of commands that all answer a next state, one after another. -/
def safeRun : Nat → State → Prop
  | 0, _ => True
  | n + 1, s => ∃ t, step s = .next t ∧ safeRun n t

/-- t is s but for memory, the coherent fabric and its counters, the translation agents' caches and the supply of free
values: all that an access to memory touches. -/
def memSide (s t : State) : Prop :=
  t = { s with mem := t.mem, harn := t.harn, hcnt := t.hcnt, trans := t.trans, free := t.free }

/-- The engine's next instruction is issued: the sequencer runs, no register the instruction names has a pending write, the
slot runs instructions and the instruction can be fetched (R160, R162, R173). -/
def ready (s : State) (ge : Nat) (regs : List Nat) : Bool :=
  canIssue (eng s ge) && regsFree (eng s ge) regs && slotRuns s ge && (fetchFault s ge).1.isNone

/-- The state in which an issued instruction does its work: its fetch is done and it has taken its place in the order. -/
def fetched (s : State) (ge : Nat) : State :=
  { (fetchFault s ge).2 with stamp := (fetchFault s ge).2.stamp + 1 }

/-- An instruction is issued and does its work on its engine. -/
def issuedAs (s : State) (ge : Nat) (f : Engine → Engine) : State :=
  setEng (fetched s ge) ge (f (issued (eng s ge)))

/-- An issued instruction raises a sequencer code with an address (R181, R182). -/
def raisedAs (s : State) (ge code : Nat) (addr : W64) : State :=
  raise (fetched s ge) ge 0 0 code (eng s ge).seq.pc addr

/-- PC of an issued instruction goes to a target in its stream, or the branch raises FETCH_RANGE (R173). -/
def goesTo (s : State) (ge : Nat) (f : Engine → Engine) (tgt : W64) : State :=
  let q := (eng s ge).seq
  if (tgt - q.streamBase).toNat % 8 = 0 ∧ (tgt - q.streamBase).toNat < q.instrCount * 8 then
    issuedAs s ge fun e => { f e with seq := { (f e).seq with pc := tgt } }
  else raisedAs s ge 0x2B tgt

/-- Where an instruction's effective address in the scratchpad meets a rule: ALIGN, then SPAD_RANGE (R165, R168); otherwise
its work is done. -/
def spadDoes (s : State) (ge a n : Nat) (k : State) : State :=
  if a % n ≠ 0 then raisedAs s ge 0x22 (BitVec.ofNat 64 a)
  else if spadOk (eng s ge) a n then k
  else raisedAs s ge 0x21 (BitVec.ofNat 64 a)

/-- The effective address sRA + sext(IMM) of a scratchpad access (R173). -/
def spadEa (s : State) (ge ra : Nat) (imm : W32) : Nat := (rdS (eng s ge) ra + imm.signExtend 64).toNat

end Sys2Proof.Machine
end

