-- ==== Sys2Proof/WellFormed.lean ====
section
/-! DEFINITION. Well-formed commands: every operand names a unit, register or value that the block has (R8 to R11, R16, R159,
R172 and the rules that number each unit). A well-formed command may still be one whose occasion does not hold. -/

namespace Sys2Proof

/-! ### Checks of one operand -/

/-- Below a bound. -/
def below (n bound : Nat) : Bool := decide (n < bound)

/-- Within bounds, both included. -/
def between (n lo hi : Nat) : Bool := decide (lo ≤ n ∧ n ≤ hi)

/-- Below a bound where it is given. -/
def optBelow (n : Option Nat) (bound : Nat) : Bool := match n with | some x => below x bound | none => true

/-- Each below a bound. -/
def allBelow (l : List Nat) (bound : Nat) : Bool := l.all fun n => below n bound

/-- A width of 4 or 8 bytes. -/
def width2 (n : Nat) : Bool := n == 4 || n == 8

/-- A signed byte. -/
def inByte (x : Int) : Bool := decide (-128 ≤ x ∧ x ≤ 127)

/-- Exactly so many. -/
def ofSize {α : Type} (l : List α) (n : Nat) : Bool := l.length == n

/-- At most so many. -/
def maxSize {α : Type} (l : List α) (n : Nat) : Bool := decide (l.length ≤ n)

/-- More than so many. -/
def sizeAbove {α : Type} (l : List α) (n : Nat) : Bool := decide (n < l.length)

/-- What a core does with a line: a store within a line, an atomic of 4 or 8 bytes, a core of the 96. -/
def actWf (a : CoreAct) : Bool :=
  match a with
  | .none => true
  | .store d => between d.length 1 64
  | .amo w o _ => width2 w && below o 9
  | .lr => true
  | .sc d => between d.length 1 64

/-- A core belongs to the host die that asks. -/
def coreOf (agent core : Nat) : Bool := below core 96 && (decide (agent < 96) || core / 48 == agent - 96)

/-- A PCIe device's request names a device and a process (R206). -/
def ioWf (io : Option IoReq) : Bool := match io with | some x => below x.dev (2 ^ 24) && optBelow x.pid (2 ^ 20) | none => true

/-- An arrival at one of the 18 ports. -/
def arrivalWf (a : Arrival) : Bool := below a.port 18 && optBelow a.vid 4096

/-- The header fields of a frame fit their widths (R279). -/
def frameWf (f : RFrame) : Bool :=
  below f.type 256 && below f.cls 8 && below f.dst 65536 && below f.src 65536 && below f.path 16 && below f.psn (2 ^ 32) && below f.pathSeq (2 ^ 32)
    && below f.msgId (2 ^ 32) && below f.msgOff (2 ^ 32) && maxSize f.payload 8192

/-- A management-ring command names a slot or a compute die. -/
def cmdWf (c : MgmtCmd) : Bool :=
  match c with
  | .none => true
  | .drain slot => below slot 864
  | .rein d duty => below d 8 && below duty 17

/-- The bills of a decision name contexts. -/
def billsWf (l : List (Nat × Nat × Nat × Nat × Nat)) : Bool := l.all fun b => below b.1 4096

/-- A command is well formed. -/
def Instr.wf (i : Instr) : Bool :=
  match i with
  | .ctlNop ge => below ge 768
  | .ctlLi ge rd _ => below ge 768 && below rd 32
  | .ctlLih ge rd _ => below ge 768 && below rd 32
  | .ctlAdd ge rd ra rb => below ge 768 && below rd 32 && below ra 32 && below rb 32
  | .ctlSub ge rd ra rb => below ge 768 && below rd 32 && below ra 32 && below rb 32
  | .ctlMul ge rd ra rb => below ge 768 && below rd 32 && below ra 32 && below rb 32
  | .ctlAnd ge rd ra rb => below ge 768 && below rd 32 && below ra 32 && below rb 32
  | .ctlOr ge rd ra rb => below ge 768 && below rd 32 && below ra 32 && below rb 32
  | .ctlXor ge rd ra rb => below ge 768 && below rd 32 && below ra 32 && below rb 32
  | .ctlAddi ge rd ra _ => below ge 768 && below rd 32 && below ra 32
  | .ctlSlli ge rd ra _ => below ge 768 && below rd 32 && below ra 32
  | .ctlSrli ge rd ra _ => below ge 768 && below rd 32 && below ra 32
  | .ctlSrai ge rd ra _ => below ge 768 && below rd 32 && below ra 32
  | .ctlAndi ge rd ra _ => below ge 768 && below rd 32 && below ra 32
  | .ctlBeq ge ra rb _ => below ge 768 && below ra 32 && below rb 32
  | .ctlBne ge ra rb _ => below ge 768 && below ra 32 && below rb 32
  | .ctlBlt ge ra rb _ => below ge 768 && below ra 32 && below rb 32
  | .ctlBge ge ra rb _ => below ge 768 && below ra 32 && below rb 32
  | .ctlBltu ge ra rb _ => below ge 768 && below ra 32 && below rb 32
  | .ctlBgeu ge ra rb _ => below ge 768 && below ra 32 && below rb 32
  | .ctlJal ge rd _ => below ge 768 && below rd 32
  | .ctlJr ge ra => below ge 768 && below ra 32
  | .ctlLds ge rd ra _ => below ge 768 && below rd 32 && below ra 32
  | .ctlSts ge ra rb _ => below ge 768 && below ra 32 && below rb 32
  | .ctlDld ge rd ra _ => below ge 768 && below rd 32 && below ra 32
  | .ctlDst ge ra rb _ => below ge 768 && below ra 32 && below rb 32
  | .ctlDsetw ge rd ra _ => below ge 768 && below rd 32 && below ra 32
  | .ctlDaddw ge rd ra _ => below ge 768 && below rd 32 && below ra 32
  | .ctlRds ge rd _ => below ge 768 && below rd 32
  | .ctlYieldpt ge _ => below ge 768
  | .ctlFault ge _ => below ge 768
  | .ctlEnd ge _ => below ge 768
  | .illegalInstruction ge _ => below ge 768
  | .yieldSave ge _ => below ge 768
  | .streamEnd ge _ => below ge 768
  | .yieldGapExceeded ge => below ge 768
  | .overrun ge => below ge 768
  | .movCopy ge q ds dd => below ge 768 && below q 4 && below ds 16 && below dd 16
  | .movFill ge q dd ra => below ge 768 && below q 4 && below dd 16 && below ra 32
  | .movCmb ge q ds dd ra _ => below ge 768 && below q 4 && below ds 16 && below dd 16 && below ra 32
  | .movCdone ge q dd ra _ => below ge 768 && below q 4 && below dd 16 && below ra 32
  | .movCopen ge q ds => below ge 768 && below q 4 && below ds 16
  | .movCclose ge q dd => below ge 768 && below q 4 && below dd 16
  | .movTransferComplete ge q => below ge 768 && below q 4
  | .moveUnitFault ge q => below ge 768 && below q 4
  | .regEccError ge => below ge 768
  | .mtxRun ge arr rb _ => below ge 768 && below arr 4 && below rb 32
  | .mtxTdecl ge arr _ => below ge 768 && below arr 4
  | .mtxTrel ge arr _ => below ge 768 && below arr 4
  | .mtxTzero ge arr _ => below ge 768 && below arr 4
  | .mtxTclr ge arr _ => below ge 768 && below arr 4
  | .mtxTsave ge arr dr _ => below ge 768 && below arr 4 && below dr 16
  | .mtxTrest ge arr dr _ => below ge 768 && below arr 4 && below dr 16
  | .mtxTstat ge arr rd _ => below ge 768 && below arr 4 && below rd 32
  | .mtxFmtld ge dr _ => below ge 768 && below dr 16
  | .formatSlotLoad ge => below ge 768
  | .passStart ge arr => below ge 768 && below arr 4
  | .arrayWave ge arr _ _ _ => below ge 768 && below arr 4
  | .shadowLoadRead ge arr => below ge 768 && below arr 4
  | .shadowLoadBankWrite ge arr => below ge 768 && below arr 4
  | .finishedTileRaise ge arr tile => below ge 768 && below arr 4 && below tile 64
  | .arrayHwFault ge arr code => below ge 768 && below arr 4 && below code 128
  | .handshakeTimeout ge unit => below ge 768 && below unit 5
  | .vchRun ge rp rc _ => below ge 768 && below rp 32 && below rc 32
  | .vchCrvld ge dr _ => below ge 768 && below dr 16
  | .vchCclr ge _ => below ge 768
  | .vchCstat ge rd => below ge 768 && below rd 32
  | .curveSlotLoad ge => below ge 768
  | .chainInstrStart ge => below ge 768
  | .chainInstrComplete ge _ => below ge 768
  | .chainHwFault ge code => below ge 768 && below code 128
  | .synFenceData ge => below ge 768
  | .synFenceFlag ge ra rb => below ge 768 && below ra 32 && below rb 32
  | .synWait ge cond ra rb rd _ => below ge 768 && below cond 16 && below ra 32 && below rb 32 && below rd 32
  | .synWaitSatisfied ge _ => below ge 768
  | .synWaitTimeout ge _ => below ge 768
  | .fenceFlagMarker home ctx => below home 34 && below ctx 4096
  | .fenceFlagWrite ctx => below ctx 4096
  | .staleLogOverflow home => below home 34
  | .regionAttrGo _ => true
  | .regionAttrDone => true
  | .offloadStreamEnable home stream _ => between home 32 33 && below stream 32
  | .offloadShortInterval home stream _ _ => between home 32 33 && below stream 32
  | .iotinvalVma inst dev _ va => below inst 3 && below dev (2 ^ 24) && below va (2 ^ 57)
  | .iotinvalGvma inst dev _ va => below inst 3 && below dev (2 ^ 24) && below va (2 ^ 57)
  | .iodirInvalDdt inst dev _ => below inst 3 && below dev (2 ^ 24)
  | .iodirInvalPdt inst dev pid => below inst 3 && below dev (2 ^ 24) && below pid (2 ^ 20)
  | .iofenceC inst _ => below inst 3
  | .iofenceCComplete inst => below inst 3
  | .rs agent pa core _ => below agent 98 && below pa (2 ^ 44) && coreOf agent core
  | .ru agent pa u => below agent 98 && below pa (2 ^ 44) && coreOf agent u.core && actWf u.act
  | .upg agent pa u => below agent 98 && below pa (2 ^ 44) && coreOf agent u.core && actWf u.act
  | .rnc agent pa n r => below agent 108 && below pa (2 ^ 44) && between n 1 64 && ioWf r.io
  | .wnc agent pa data w => below agent 108 && below pa (2 ^ 44) && between data.length 1 64 && ioWf w.io
  | .anc agent pa width op _ => below agent 98 && below pa (2 ^ 44) && width2 width && below op 9
  | .putm agent pa => below agent 98 && below pa (2 ^ 44)
  | .puto agent pa => below agent 98 && below pa (2 ^ 44)
  | .pute agent pa => below agent 98 && below pa (2 ^ 44)
  | .forward agent pa => below agent 98 && below pa (2 ^ 44)
  | .invalidation agent pa => below agent 98 && below pa (2 ^ 44)
  | .invalidationAck agent pa => below agent 98 && below pa (2 ^ 44)
  | .dataResponse agent pa => below agent 108 && below pa (2 ^ 44)
  | .completionAck agent pa => below agent 108 && below pa (2 ^ 44)
  | .putAck agent pa => below agent 98 && below pa (2 ^ 44)
  | .retry agent pa => below agent 108 && below pa (2 ^ 44)
  | .grant home => below home 34
  | .release home _ agent => below home 34 && below agent 108
  | .creditLapse home _ => below home 34
  | .lrDeferEnd core => below core 96
  | .harnessAckTimeout agent x => below agent 98 && below x.pa (2 ^ 44)
  | .cacheAgentLost agent => below agent 98
  | .dirUncorrectableError home x => below home 34 && optBelow x.fixed (2 ^ 44)
  | .setRecall agent home _ => below agent 98 && below home 34
  | .combineOpen home words owner => below home 34 && ofSize words 8 && below owner 4096
  | .combineContribution pa type epoch contrib d src => below pa (2 ^ 44) && below type 5 && below epoch (2 ^ 32) && below contrib 256 && sizeAbove d.data 0 && optBelow src 768
  | .combineDone pa epoch contrib src => below pa (2 ^ 44) && below epoch (2 ^ 32) && below contrib 256 && optBelow src 768
  | .combineClose pa owner => below pa (2 ^ 44) && optBelow owner 4096
  | .combineApplyComplete pa => below pa (2 ^ 44)
  | .combineRefusal => true
  | .combineUnitFault home => below home 34
  | .rlyDispatch ge ds dd ra rb _ => below ge 768 && below ds 16 && below dd 16 && below ra 32 && below rb 32
  | .rlySend ge ds ra rb _ => below ge 768 && below ds 16 && below ra 32 && below rb 32
  | .rlyPostrx ge dd ra rb _ => below ge 768 && below dd 16 && below ra 32 && below rb 32
  | .rlyReturn ge ds dd ra _ => below ge 768 && below ds 16 && below dd 16 && below ra 32
  | .rlyStepflags ge ra _ => below ge 768 && below ra 32
  | .rlyCancelrx ge ra _ => below ge 768 && below ra 32
  | .portLinkUp p => below p.port 18 && below p.mac (2 ^ 48)
  | .laneFailure port lane => below port 18 && below lane 9
  | .laneSpareComplete port => below port 18
  | .packetTransmit stream => below stream 16384
  | .frameData a f => arrivalWf a && frameWf f
  | .frameAck a f => arrivalWf a && frameWf f
  | .frameNack a f _ => arrivalWf a && frameWf f
  | .frameCredit a f => arrivalWf a && frameWf f
  | .frameOpen a f => arrivalWf a && frameWf f
  | .frameOpenAck a f => arrivalWf a && frameWf f
  | .frameOpenNack a f => arrivalWf a && frameWf f
  | .frameClose a f => arrivalWf a && frameWf f
  | .frameProbe a f => arrivalWf a && frameWf f
  | .frameProbeAck a f => arrivalWf a && frameWf f
  | .openRetryTimer stream => below stream 16384
  | .retransmitTimeout stream psn _ => below stream 16384 && below psn (2 ^ 32)
  | .noPathTimeout stream => below stream 16384
  | .ackTimer stream => below stream 16384
  | .probeTimer stream => below stream 16384
  | .earlyRetry => true
  | .stepDeadline step => below step (2 ^ 32)
  | .stepCloseRecord step => below step (2 ^ 32)
  | .relayUnitFault unit => below unit 2
  | .streamQuerySelect _ data => maxSize data 2048
  | .streamClose stream => below stream 65536
  | .verdictReport member step _ _ => below member 16384 && below step (2 ^ 32)
  | .verdictWaitExpiry step => below step (2 ^ 32)
  | .verdictReceive step _ _ lsNext clean => below step (2 ^ 32) && inByte lsNext && below clean 65536
  | .commitDeadline step => below step (2 ^ 32)
  | .lendWriteRequest member off data => below member 16384 && below off (2 ^ 36) && between data.length 1 64
  | .lendReadRequest member off len => below member 16384 && below off (2 ^ 36) && below len (2 ^ 24)
  | .lendEnableWrite v => below v 256
  | .lendNoticeExpiry => true
  | .replayStallTimeout step => below step (2 ^ 32)
  | .groupTallyReport member step group _ => below member 16384 && below step (2 ^ 32) && below group 65536
  | .replicaTripleExchange group handle step _ => below group 65536 && below handle 4194304 && below step (2 ^ 32)
  | .replicaRepairInstall group handle step _ => below group 65536 && below handle 4194304 && below step (2 ^ 32)
  | .replicaScrub step => below step (2 ^ 32)
  | .memberSuspect member => below member 16384
  | .declareLost member => below member 65536
  | .nvmeRingPoll unit ring => below unit 2 && below ring 64
  | .nvmeRead unit => below unit 2
  | .nvmeWrite unit => below unit 2
  | .nvmeWriteFua unit => below unit 2
  | .nvmeFlush unit => below unit 2
  | .nvmeDeallocate unit => below unit 2
  | .nvmeWriteZeroes unit => below unit 2
  | .nvmeCompletion unit id status data => below unit 2 && below id (2 ^ 32) && below status (2 ^ 15) && maxSize data 262144
  | .checkpointPoint step => below step (2 ^ 32)
  | .checkpointCopyComplete => true
  | .checkpointDrainComplete _ => true
  | .checkpointRestore _ => true
  | .schedulerDecision p _ bills => below p 96 && billsWf bills
  | .sliceEnd ctx => below ctx 4096
  | .blockThresholdReached ctx => below ctx 4096
  | .contextDispatch ctx => below ctx 4096
  | .swapOutComplete ctx => below ctx 4096
  | .swapInComplete ctx => below ctx 4096
  | .paddockStart p => below p 96
  | .paddockStop p => below p 96
  | .paddockDrainComplete p => below p 96
  | .paddockClustersWrite p _ v => below p 96 && below v (2 ^ 64)
  | .ringRangeWrite p _ v => below p 96 && below v 65536
  | .paddockRangeWrite p entry word _ => below p 96 && below entry 64 && below word 2
  | .shareWeightWrite ctx v => below ctx 4096 && below v 65536
  | .fullSaveStop ctx _ => below ctx 4096
  | .fullSaveResume ge arr => below ge 768 && below arr 4
  | .doorbell ring d => below ring 32768 && width2 d.width
  | .doorbellContinue ring => below ring 32768
  | .doorbellReset ring => below ring 32768
  | .ringEnable die _ => below die 8
  | .ringDisable die _ => below die 8
  | .ringCtlReset die _ => below die 8
  | .cmdNop ring => below ring 32768
  | .cmdLaunch ring => below ring 32768
  | .cmdWrite ring => below ring 32768
  | .cmdCmb ring => below ring 32768
  | .cmdWait ring => below ring 32768
  | .cmdWaitPoll ring => below ring 32768
  | .cmdWaitTimeout ring => below ring 32768
  | .cmdCreate ring => below ring 32768
  | .cmdDestroy ring => below ring 32768
  | .cmdUnknownOpcode ring => below ring 32768
  | .launchComplete ctx => below ctx 4096
  | .hostDieReset die _ => below die 256
  | .hostCoreReset hart _ _ => below hart 256
  | .hostDieResetExit die => below die 2
  | .registerWrite agent pa width _ => between agent 96 97 && below pa (2 ^ 44) && width2 width
  | .snapshotRead agent x => between agent 96 97 && below x.pa (2 ^ 44) && width2 x.width
  | .chainStatusW1c ge _ => below ge 768
  | .rangeErrorW1c p _ => below p 96
  | .studbookSubmit => true
  | .tokenRefill => true
  | .studbookRecordWrite => true
  | .recorderFailure recorder => below recorder 2
  | .studbookNorCopyDone => true
  | .studbookRecordRead _ => true
  | .qvaRecordRead _ => true
  | .swRecord data => maxSize data 2048
  | .triggerEntryWrite data => maxSize data 2048
  | .rateLimitWrite _ v => below v 65536
  | .gaitMonitorSample cluster pred live => below cluster 96 && below pred 65536 && below live 65536
  | .governorInterval powers _ hosts temps hbm avs _ => ofSize powers 8 && ofSize hosts 2 && ofSize temps 12 && ofSize hbm 32 && allBelow avs 8
  | .floorBreachClear => true
  | .groomPowerSample die _ => below die 8
  | .slewWindow _ _ _ => true
  | .coolantDemandUpdate _ => true
  | .liveCalibration cluster pred live => below cluster 96 && below pred 65536 && below live 65536
  | .replicaSelfCheck cluster _ => below cluster 96
  | .avsbusRetry die _ => below die 8
  | .supplyFault _ => true
  | .sensorCheck die _ => below die 12
  | .eyeRetrainScan pc => below pc 1280
  | .eyeRetrainHold pc => below pc 1280
  | .thermalTrip die _ => below die 12
  | .hobbleRequest _ => true
  | .hobbleExit => true
  | .hobbleAutoExit => true
  | .sleepRequest _ => true
  | .slotAdmission slot => below slot 864
  | .drainRequest slot => below slot 864
  | .containmentReport kind unit _ _ _ => below kind 20 && below unit 4320
  | .containmentClear kind unit => below kind 20 && below unit 4320
  | .remount slot _ _ => below slot 864
  | .spareMapCommit slot => below slot 864
  | .remountResume slot _ => below slot 864
  | .unitReadmission kind unit _ _ => below kind 20 && below unit 4320
  | .packedModeEnter slot arr => below slot 864 && below arr 4
  | .packedModeExit slot arr => below slot 864 && below arr 4
  | .packedModeTest slot _ => below slot 864
  | .spareTestInterval die _ => below die 8
  | .standbyPowerOn => true
  | .pkgResetAssert => true
  | .pkgResetRelease straps finds => below straps 4 && allBelow finds.flash.noSecret 2
  | .roleAnnounceTimeout => true
  | .bootWatchdogReset => true
  | .recoveryImageChunk data _ _ => maxSize data 16777216
  | .powerGoodRise rail _ => below rail 12
  | .powerGoodTimeout rail _ => below rail 12
  | .powerGoodFall rail _ => below rail 12
  | .powerBrakeAssert => true
  | .powerBrakeRelease => true
  | .wakeNAssert => true
  | .vstbyLoss => true
  | .tapBypass _ => true
  | .tapSamplePreload _ _ => true
  | .tapExtest _ _ => true
  | .tapIdcode => true
  | .tapReset => true
  | .ostlerHeartbeat => true
  | .standbyTakeover dies => allBelow dies 8
  | .handoverRequest dies => allBelow dies 8
  | .standbySelfTestPass => true
  | .standbySyncComplete => true
  | .mgmtRingCommand epoch cmd => below epoch (2 ^ 32) && cmdWf cmd
  | .groomHeartbeat groom => below groom 12
  | .groomSilent groom _ _ _ => below groom 12
  | .groomRestartReport groom => below groom 12
  | .groomReportTimeout groom _ _ _ => below groom 12
  | .groomHoldTimeout _ => true
  | .groomWatchdogRestart groom => below groom 12
  | .updateLoad => true
  | .updateLoadComplete _ _ => true
  | .updateGrooms => true
  | .updateOstler => true
  | .updateAtReset => true
  | .updateCommitSvn => true
  | .repairRecordCommit kind => between kind 1 4
  | .attestNonce _ nonce => maxSize nonce 32
  | .bottomTreeCompute => true
  | .odpRead eid frame => optBelow eid 256 && maxSize frame 9000
  | .odpWrite eid _ frame => optBelow eid 256 && maxSize frame 9000
  | .odpWriteSet eid _ frame => optBelow eid 256 && maxSize frame 9000
  | .odpReadStaged eid frame => optBelow eid 256 && maxSize frame 9000
  | .odpEnum eid frame => optBelow eid 256 && maxSize frame 9000
  | .mctpSetEndpointId op eid => below op 4 && below eid 256
  | .mctpGetEndpointId => true
  | .mctpGetVersionSupport type => below type 256
  | .mctpGetMessageTypeSupport => true
  | .mctpGetVendorMsgSupport selector => below selector 256
  | .i3cEntdaa addr => below addr 128
  | .i3cSetdasa target addr => below target 128 && below addr 128
  | .mailboxSubmit ch _ _ => below ch 16
  | .mailboxDoneClear x => below x.ch 16

end Sys2Proof
end

