-- ==== Sys2Proof/Certificates/Slice0/Obligations.lean ====
section
/-! DEFINITION. The statements for the provers, one Prop each, from the numbered rules of the manual. -/

open Sys2Proof Sys2Proof.Machine

/-- A step is exec of the front command on the state with the queue's rest. The queue is the model's own interface
(assumption log 1). -/
def Obligations.StepRunsTheFrontCommand : Prop :=
  ∀ (c : Instr) (s : State) (q : List Instr), step { s with pending := c :: q } = exec c { s with pending := q }

/-- With no command waiting the block idles: the model's DESIGN CHOICE (assumption log 2), no rule of the manual. -/
def Obligations.EmptyQueueLeavesTheBlockAlone : Prop :=
  ∀ s : State, s.pending = [] → step s = .next s

/-- An invariant of every step: memory, poison marks, region attributes and dirty marks keep one canonical form (assumption
log 3). -/
def Obligations.MemoryStaysCanonical : Prop :=
  ∀ s t : State, s.mem.wf = true → step s = .next t → t.mem.wf = true

/-- Memory is in canonical form after reset. -/
def Obligations.ResetMemoryIsCanonical : Prop :=
  State.reset.mem.wf = true ∧ ∀ a, memByte State.reset.mem a = (0, false)

/-- Stack hbmNN occupies its 72 GiB linearly, hangs off compute die ⌊NN/4⌋ and is served by home hNN. -/
def Obligations.StacksLieLinearlyBesideTheirHomes : Prop :=
  ∀ (c : MapCfg) (n off : Nat), n < 32 → off ≤ 0x11_FFFF_FFFF →
    (homeOf (n * 0x12_0000_0000 + off) = n)
    ∧ (∀ a, a < 0x240_0000_0000 → (homeOf a = n ↔ n * 0x12_0000_0000 ≤ a ∧ a ≤ n * 0x12_0000_0000 + 0x11_FFFF_FFFF))
    ∧ (c.retired ≠ some (n / 4) → canon c (n * 0x12_0000_0000 + off) = some (n * 0x12_0000_0000 + off))
    ∧ (c.retired = some (n / 4) → canon c (n * 0x12_0000_0000 + off) = none)
    ∧ (17 * 0x12_0000_0000 = 0x132_0000_0000 ∧ homeOf 0x132_0000_0000 = 17 ∧ 17 / 4 = 4)

/-- An island's alias window deals 4 KiB granules over its stacks: granule g lies on stack 4d + g mod S at granule g div S, and every byte of them is reached. -/
def Obligations.AliasWindowsInterleaveTheirStacks : Prop :=
  ∀ (c : MapCfg) (d k w : Nat), (c.islands = 1 ∨ c.islands = 2 ∨ c.islands = 4 ∨ c.islands = 8) →
    k = 8 / c.islands → d % k = 0 → d + k ≤ 8 → (∀ j, j < k → c.retired ≠ some (d + j)) →
    let nst := 4 * k
    let start := 0x800_0000_0000 + d * 0x48_0000_0000
    let g := w / 4096
    let named (v : Nat) : Nat := (4 * d + v / 4096 % nst) * 0x12_0000_0000 + (v / 4096 / nst * 4096 + v % 4096)
    (w < k * (288 * 2 ^ 30) → canon c (start + w) = some (named w)
      ∧ 4 * d * 0x12_0000_0000 ≤ named w ∧ named w < (4 * d + nst) * 0x12_0000_0000
      ∧ homeOf (named w) = 4 * d + g % nst)
    ∧ (∀ a, 4 * d * 0x12_0000_0000 ≤ a → a < (4 * d + nst) * 0x12_0000_0000 →
        ∃ v, v < k * (288 * 2 ^ 30) ∧ canon c (start + v) = some a)
    ∧ (k = 2 → d = 4 → canon c 0x920_0000_5123 = some 0x17A_0000_0123 ∧ canon c 0x920_0000_9000 = some 0x132_0000_1000)

/-- Every O9 operand has the value its E and F fields give: zero, subnormal, normal, infinity, NaN or poison. -/
def Obligations.NineBitOperandsHaveTheirValues : Prop :=
  ∀ (sign : Bool) (e f : Nat), e < 32 → f < 8 →
    let w := 256 * b2n sign + 8 * e + f
    (e = 0 → f = 0 → ∃ k, decO9 w = .fin sign 0 k)
    ∧ (e = 0 → 1 ≤ f → decO9 w = .fin sign f (-17))
    ∧ (1 ≤ e → e ≤ 30 → decO9 w = .fin sign (8 + f) ((e : Int) - 18))
    ∧ (e = 31 → f = 0 → decO9 w = .inf sign)
    ∧ (e = 31 → 1 ≤ f → f ≤ 6 → decO9 w = .nan)
    ∧ (e = 31 → f = 7 → decO9 w = .poison)
    ∧ (decO9 0x0F9 = .nan ∧ decO9 0x1FF = .poison)
    ∧ (∀ m k, decO9 w = .fin sign m k → -17 ≤ k ∧ m < 2 ^ 4 ∧ m * 2 ^ (k + 17).toNat ≤ 61440 * 2 ^ 17)
    ∧ (decO9 0x0F7 = .fin false 15 12 ∧ 15 * 2 ^ 12 = 61440)
    ∧ (decO9 0x008 = .fin false 8 (-17) ∧ decO9 0x001 = .fin false 1 (-17))
    ∧ (∀ v, v < 512 → ∃ (t : Bool) (x y : Nat), x < 32 ∧ y < 8 ∧ v = 256 * b2n t + 8 * x + y)

/-- After reset the queue is empty, caches, regions and slots are invalid, regions NORMAL and clean, rings disabled, and the role epoch is 1. -/
def Obligations.ResetLeavesTheStatedValues : Prop :=
  let s := State.reset
  (s.pending = [])
    ∧ (∀ ge k, (sget {} (eng s ge).fmt k).valid = false ∧ (sget {} (eng s ge).curves k).valid = false)
    ∧ (∀ ge a, (arrOf (eng s ge) a).bank0 = none ∧ (arrOf (eng s ge) a).bank1 = none ∧ (arrOf (eng s ge) a).loads = []
        ∧ (accOf (eng s ge) a).validWaves = 0 ∧ (accOf (eng s ge) a).bubbleDry = 0
        ∧ (accOf (eng s ge) a).bubbleDrain = 0 ∧ (accOf (eng s ge) a).bubbleLoad = 0
        ∧ (∀ k, (sget {} (accOf (eng s ge) a).tiles k).declared = false))
    ∧ (∀ ge, (eng s ge).seq.state = .idle)
    ∧ (∀ a, attrKind s.mem a = 0 ∧ granPoison s.mem a = false)
    ∧ (s.harn.dir = [] ∧ s.harn.stale = [] ∧ s.ctxs = [])
    ∧ (∀ r, (sget {} s.rings r).st = .disabled)
    ∧ (∀ k, (sget {} s.pads k).mask = 0)
    ∧ (∀ ge, slotState s ge = .inService ∧ slotOf s ge = ge / 8 * 9 + ge % 8)
    ∧ (s.boot.status = 0 ∧ s.boot.loading = none)
    ∧ (s.ost.epoch = 1 ∧ s.ost.active = 0)
    ∧ (s.power.breaches = [] ∧ s.contain.active = [] ∧ s.contain.queue = [])

/-- Every stream instruction is read back from its word, and every word that is read names a well-formed instruction. -/
def Obligations.StreamWordsRoundTrip : Prop :=
  (∀ (i : Instr) (w : Nat), i.wf = true → encodeTheser i = some w → w < 2 ^ 64 ∧ ∃ ge, ge < 768 ∧ decodeTheser ge w = some i)
  ∧ (∀ (ge w : Nat) (i : Instr), ge < 768 → decodeTheser ge w = some i →
      i.wf = true ∧ ∃ v, encodeTheser i = some v ∧ decodeTheser ge v = some i)
  ∧ (∀ (ge w : Nat), (decodeTheser ge w).isSome = true →
      let cls := bits w 2 0
      let op := bits w 8 3
      (cls ≤ 5)
      ∧ (cls = 0 → bits w 31 24 = 0 ∧ (op ≤ 0x0D ∨ (0x10 ≤ op ∧ op ≤ 0x1E) ∨ op = 0x30 ∨ op = 0x3E ∨ op = 0x3F))
      ∧ (cls = 1 → bits w 31 24 = 0 ∧ op ≤ 5)
      ∧ (cls = 2 → bits w 31 25 = 0 ∧ op ≤ 8)
      ∧ (cls = 3 → bits w 31 28 = 0 ∧ op ≤ 3)
      ∧ (cls = 4 → bits w 31 27 = 0 ∧ op ≤ 5)
      ∧ (cls = 5 → bits w 31 28 = 0 ∧ op ≤ 2))
  ∧ (∀ (s : State) (ge : Nat) (word : W64), decodeTheser 0 word.toNat = none → ready s ge [] = true →
      exec (.illegalInstruction ge word) s = .next (raisedAs s ge 0x20 0))

/-- The fetch of an instruction touches nothing but the memory side, and issue adds one place in the order. -/
def Obligations.FetchTouchesOnlyTheMemorySide : Prop :=
  ∀ (s : State) (ge : Nat) (f : Engine → Engine),
    memSide s (fetchFault s ge).2
    ∧ (∀ g, eng (fetched s ge) g = eng s g)
    ∧ (let t := issuedAs s ge f
       t = { s with engines := t.engines, stamp := s.stamp + 1, mem := (fetchFault s ge).2.mem,
                    harn := (fetchFault s ge).2.harn, hcnt := (fetchFault s ge).2.hcnt,
                    trans := (fetchFault s ge).2.trans, free := (fetchFault s ge).2.free }
       ∧ ∀ g, g ≠ ge → eng t g = eng s g)

/-- R159: s0 always reads 0, and writes to it are ignored. A write changes its own register only. -/
def Obligations.ScalarRegisterWriteAndRead : Prop :=
  ∀ (e : Engine) (r : Nat) (v : W64),
    rdS e 0 = 0 ∧ wrS e 0 v = e
    ∧ (swf 0 e.regs = true → r ≠ 0 →
        rdS (wrS e r v) r = v ∧ (∀ q, q ≠ r → rdS (wrS e r v) q = rdS e q)
        ∧ swf 0 (wrS e r v).regs = true ∧ wrS e r v = { e with regs := (wrS e r v).regs })
    ∧ rdS {} r = 0

/-- The CTL arithmetic instructions write their result to sRD and change nothing else of the engine. -/
def Obligations.CtlArithmeticWritesOneRegister : Prop :=
  ∀ (s : State) (ge rd ra rb : Nat) (imm : W32),
    let x := rdS (eng s ge) ra
    let y := rdS (eng s ge) rb
    let w (v : W64) : State := issuedAs s ge fun e => wrS e rd v
    (ready s ge [] = true → exec (.ctlNop ge) s = .next (issuedAs s ge id))
    ∧ (ready s ge [rd] = true →
        exec (.ctlLi ge rd imm) s = .next (w (imm.signExtend 64))
        ∧ exec (.ctlLih ge rd imm) s = .next (w (imm ++ (rdS (eng s ge) rd).truncate 32)))
    ∧ (ready s ge [rd, ra, rb] = true →
        exec (.ctlAdd ge rd ra rb) s = .next (w (x + y)) ∧ exec (.ctlSub ge rd ra rb) s = .next (w (x - y))
        ∧ exec (.ctlMul ge rd ra rb) s = .next (w (x * y)) ∧ exec (.ctlAnd ge rd ra rb) s = .next (w (x &&& y))
        ∧ exec (.ctlOr ge rd ra rb) s = .next (w (x ||| y)) ∧ exec (.ctlXor ge rd ra rb) s = .next (w (x ^^^ y)))
    ∧ (ready s ge [rd, ra] = true →
        exec (.ctlAddi ge rd ra imm) s = .next (w (x + imm.signExtend 64))
        ∧ exec (.ctlAndi ge rd ra imm) s = .next (w (x &&& imm.signExtend 64))
        ∧ (imm.toNat < 64 →
            exec (.ctlSlli ge rd ra imm) s = .next (w (x <<< imm.toNat))
            ∧ exec (.ctlSrli ge rd ra imm) s = .next (w (x >>> imm.toNat))
            ∧ exec (.ctlSrai ge rd ra imm) s = .next (w (x.sshiftRight imm.toNat)))
        ∧ (64 ≤ imm.toNat →
            exec (.ctlSlli ge rd ra imm) s = .next (raisedAs s ge 0x20 0)
            ∧ exec (.ctlSrli ge rd ra imm) s = .next (raisedAs s ge 0x20 0)
            ∧ exec (.ctlSrai ge rd ra imm) s = .next (raisedAs s ge 0x20 0)))
    ∧ issued (eng s ge) = { eng s ge with
        cnt := { (eng s ge).cnt with streamWaves := (eng s ge).cnt.streamWaves + 1, yieldGap := (eng s ge).cnt.yieldGap + 1 },
        seq := { (eng s ge).seq with issued := (eng s ge).seq.issued + 1, pc := (eng s ge).seq.pc + 8,
                                     prevYield := (eng s ge).seq.lastYield, lastYield := none } }

/-- Branches and jumps set PC to their target in the stream and raise FETCH_RANGE outside it. -/
def Obligations.BranchesGoToTheirTarget : Prop :=
  ∀ (s : State) (ge rd ra rb : Nat) (imm : W32),
    let q := (eng s ge).seq
    let x := rdS (eng s ge) ra
    let y := rdS (eng s ge) rb
    let tgt := q.pc + 8 * imm.signExtend 64
    let br (c : Bool) : Host.Outcome State Fault Refusal := .next (if c then goesTo s ge id tgt else issuedAs s ge id)
    (ready s ge [ra, rb] = true →
      exec (.ctlBeq ge ra rb imm) s = br (x == y) ∧ exec (.ctlBne ge ra rb imm) s = br (x != y)
      ∧ exec (.ctlBlt ge ra rb imm) s = br (decide (x.toInt < y.toInt))
      ∧ exec (.ctlBge ge ra rb imm) s = br (decide (y.toInt ≤ x.toInt))
      ∧ exec (.ctlBltu ge ra rb imm) s = br (decide (x.toNat < y.toNat))
      ∧ exec (.ctlBgeu ge ra rb imm) s = br (decide (y.toNat ≤ x.toNat)))
    ∧ (ready s ge [rd] = true →
        exec (.ctlJal ge rd imm) s = .next (goesTo s ge (fun e => wrS e rd (q.pc + 8 - q.streamBase)) tgt))
    ∧ (ready s ge [ra] = true → exec (.ctlJr ge ra) s = .next (goesTo s ge id (q.streamBase + x)))

/-- Scratchpad and descriptor instructions move exactly their bytes and words. -/
def Obligations.SequencerScratchpadAndDescriptorAccess : Prop :=
  ∀ (s : State) (ge rd ra rb : Nat) (imm : W32),
    let e := eng s ge
    let a := spadEa s ge ra imm
    let ill : Host.Outcome State Fault Refusal := .next (raisedAs s ge 0x20 0)
    let clean (n : Nat) : Prop := (spadRead e a n).any Prod.snd = false
    let n := (fetched s ge).free
    let tag : Tag := { pc := e.seq.pc, stamp := s.stamp }
    let seen := view (issued e) uSeq s.stamp
    (raced (issued e) uSeq s.stamp = [] → seen = issued e ∧ ∀ x d, raceBytes (issued e) uSeq s.stamp false x d = d)
    ∧ (ready s ge [rd, ra] = true →
      (clean 8 → exec (.ctlLds ge rd ra imm) s = .next (spadDoes s ge a 8
        (issuedAs s ge fun x => wrS x rd (BitVec.ofNat 64 (leNat ((spadRead seen a 8).map Prod.fst))))))
      ∧ (¬clean 8 → exec (.ctlLds ge rd ra imm) s = .next (spadDoes s ge a 8
        { issuedAs s ge (fun x => wrS x rd (Config.freeWord n)) with free := n + 1 })))
    ∧ (ready s ge [ra, rb] = true → exec (.ctlSts ge ra rb imm) s = .next (spadDoes s ge a 8
        (issuedAs s ge fun x => seqWrite x tag a ((leBytes 8 (rdS e rb).toNat).map (·, false)))))
    ∧ (ready s ge [ra] = true →
      (rd < 16 → clean 64 → exec (.ctlDld ge rd ra imm) s = .next (spadDoes s ge a 64
        (issuedAs s ge fun x => wrD x rd (spadWords seen a 8))))
      ∧ (rd < 16 → ¬clean 64 → exec (.ctlDld ge rd ra imm) s = .next (spadDoes s ge a 64
        { issuedAs s ge (fun x => wrD x rd ((List.range 8).map fun i => Config.freeWord (n + i))) with free := n + 8 }))
      ∧ (rb < 16 → exec (.ctlDst ge ra rb imm) s = .next (spadDoes s ge a 64
        (issuedAs s ge fun x => seqWrite x tag a ((rdD e rb).flatMap fun w => (leBytes 8 w.toNat).map (·, false)))))
      ∧ (16 ≤ rd → exec (.ctlDld ge rd ra imm) s = ill) ∧ (16 ≤ rb → exec (.ctlDst ge ra rb imm) s = ill)
      ∧ (rd < 16 → imm.toNat < 8 →
          exec (.ctlDsetw ge rd ra imm) s = .next (issuedAs s ge fun x => wrDw x rd imm.toNat (rdS e ra))
          ∧ exec (.ctlDaddw ge rd ra imm) s = .next (issuedAs s ge fun x =>
              wrDw x rd imm.toNat (sget 0 e.desc (8 * rd + imm.toNat) + rdS e ra)))
      ∧ (16 ≤ rd ∨ 8 ≤ imm.toNat → exec (.ctlDsetw ge rd ra imm) s = ill ∧ exec (.ctlDaddw ge rd ra imm) s = ill))
    ∧ (ready s ge [rd] = true →
      (imm.toNat < 4 → exec (.ctlRds ge rd imm) s = .next (issuedAs s ge fun x => wrS x rd
        ([BitVec.ofNat 64 ge, BitVec.ofNat 64 e.seq.context, x.cnt.streamWaves, x.cnt.yieldGap].getD imm.toNat 0)))
      ∧ (4 ≤ imm.toNat → exec (.ctlRds ge rd imm) s = ill))

/-- yieldpt, end and fault: checks, the wait with a pre-emption pending, and the stop with SOFTWARE. -/
def Obligations.YieldPointsAndStreamEndWait : Prop :=
  ∀ (s : State) (ge : Nat) (imm : W32) (word : W64), ready s ge [] = true →
    let e := issued (eng s ge)
    let wait (w : SeqWait) (x : Engine) : Engine :=
      { x with cnt := { x.cnt with yieldGap := 0 }, seq := { x.seq with state := .yielding, wait := w } }
    let n := (fetched s ge).free
    let refusal := yieldFault (view e uSeq s.stamp) imm.toNat
    exec (.ctlFault ge imm) s = .next (raisedAs s ge 0x2E (BitVec.ofNat 64 imm.toNat))
    ∧ (wordIllegal word.toNat = true → exec (.illegalInstruction ge word) s = .next (raisedAs s ge 0x20 0))
    ∧ (2 ^ 23 ≤ imm.toNat ∨ (imm.toNat.testBit 22 = true ∧ imm.toNat % 2 ^ 22 ≠ 0) →
        exec (.ctlYieldpt ge imm) s = .next (raisedAs s ge 0x20 0)
        ∧ exec (.ctlEnd ge imm) s = .next (raisedAs s ge 0x20 0))
    ∧ (imm.toNat < 2 ^ 23 → (imm.toNat.testBit 22 = true → imm.toNat % 2 ^ 22 = 0) →
        (∀ c, refusal = some c →
          exec (.ctlYieldpt ge imm) s = .next (raisedAs s ge c.1 (BitVec.ofNat 64 c.2))
          ∧ exec (.ctlEnd ge imm) s = .next (raisedAs s ge c.1 (BitVec.ofNat 64 c.2)))
        ∧ (refusal = none →
          exec (.ctlEnd ge imm) s = .next (issuedAs s ge (wait (.endPt imm.toNat)))
          ∧ ((eng s ge).seq.preemptReq = true →
              exec (.ctlYieldpt ge imm) s = .next (issuedAs s ge (wait (.yieldPt imm.toNat))))
          ∧ ((eng s ge).seq.preemptReq = false →
              exec (.ctlYieldpt ge imm) s = .next { issuedAs s ge (fun x =>
                let y := scramble x n imm.toNat
                { y with cnt := { y.cnt with yieldGap := 0 }, seq := { y.seq with lastYield := some imm.toNat } })
                with free := n + 1 })))
    ∧ (∀ x : Engine, let a := imm.toNat % 2 ^ 22
        yieldFault x imm.toNat = none ↔ anyOpen x = false ∧ (imm.toNat.testBit 22 = true ∨
          (imm.toNat % 64 = 0 ∧ spadOk x a (liveBytes x a) = true ∧ liveBad x a = false)))
    ∧ (∀ (x : Engine) (p : Nat), p < 2 ^ 22 →
        x.seq.qbase * 65536 ≤ p % 2 ^ 20 → p % 2 ^ 20 < (x.seq.qbase + x.seq.qlen) * 65536 →
        (∀ r ∈ (liveOf x imm.toNat).1, ∀ i, i < r.2 → spadPhys x (r.1 + i) ≠ p) →
        spadByte (scramble x n imm.toNat) p = Config.freeByte ((n + 1) * 2 ^ 22 + p))
    ∧ (∀ (x : Engine) (a t k : Nat), a < 4 → (t, tileOf (accOf x a) t) ∈ (accOf x a).tiles →
        (tileOf (accOf x a) t).declared = true → (tileOf (accOf x a) t).owner = x.seq.context →
        t ∉ (liveOf x imm.toNat).2 a → k / 1024 ∈ slotsOf t (tileOf (accOf x a) t) →
        elemAt (accOf (scramble x n imm.toNat) a) k = (Config.freeWord ((n + 1) * 2 ^ 18 + k)).truncate 32)

/-- A yield point's and end's wait ends when every unit is idle; late yields and overruns are recorded once. -/
def Obligations.StoppedEnginesSaveOrEnd : Prop :=
  ∀ (s : State) (ge waves imm : Nat),
    let e := eng s ge
    let stop (st : SeqState) (p : Bool) : State :=
      let y := scramble (addWaves e waves) s.free imm
      setEng { s with free := s.free + 1 } ge { y with seq := { y.seq with state := st, wait := .none, preemptReq := p } }
    (e.seq.wait = .yieldPt imm → unitsIdle e = true → exec (.yieldSave ge waves) s = .next (stop .saved false))
    ∧ (waitYield e = some imm → e.seq.preemptReq = true → unitsIdle e = true →
        exec (.yieldSave ge waves) s = .next (let y := scramble (addWaves e waves) s.free imm
          setEng { s with free := s.free + 1 } ge { y with
            seq := { y.seq with state := .saved, wait := .none, preemptReq := false, pc := y.seq.pc - 8 } }))
    ∧ (waitYield e = some imm ↔
        (∃ c i ra rb rd w, e.seq.wait = .cond c i ra rb rd w ∧ (c = 4 ∨ c = 5)) ∧ e.seq.prevYield = some imm)
    ∧ (e.seq.wait = .endPt imm → unitsIdle e = true →
        exec (.streamEnd ge waves) s = .next (stop .idle (scramble (addWaves e waves) s.free imm).seq.preemptReq))
    ∧ (unitsIdle e = false → exec (.yieldSave ge waves) s = .next s ∧ exec (.streamEnd ge waves) s = .next s)
    ∧ (e.seq.maxYieldGap < e.cnt.yieldGap.toNat → ∃ t, exec (.yieldGapExceeded ge) s = .next t
        ∧ t = { s with engines := t.engines, raised := t.raised }
        ∧ t.engines = (setEng s ge { e with seq := { e.seq with yieldLate := true },
                                            cnt := { e.cnt with lateRecorded := true } }).engines
        ∧ t.raised.length = s.raised.length + (if e.cnt.lateRecorded then 0 else 1))
    ∧ (e.cnt.yieldGap.toNat ≤ e.seq.maxYieldGap → exec (.yieldGapExceeded ge) s = .next s)
    ∧ ((e.seq.worstWaves.toNat : Int) < e.cnt.streamWaves.toNat - e.cnt.extwaitWaves.toNat - e.cnt.reexecWaves.toNat
          - e.cnt.stoppedWaves.toNat →
        ∃ t, exec (.overrun ge) s = .next t ∧ t = { s with engines := t.engines, raised := t.raised }
          ∧ t.engines = (setEng s ge { e with seq := { e.seq with overrun := true },
                                              cnt := { e.cnt with overrunRecorded := true } }).engines
          ∧ t.raised.length = s.raised.length + (if e.cnt.overrunRecorded then 0 else 1))
    ∧ ((e.cnt.streamWaves.toNat : Int) - e.cnt.extwaitWaves.toNat - e.cnt.reexecWaves.toNat - e.cnt.stoppedWaves.toNat
          ≤ e.seq.worstWaves.toNat → exec (.overrun ge) s = .next s)

/-- An instruction that may not issue waits; one whose fetch fails raises the fetch's code; otherwise it does its work. -/
def Obligations.IssueWaitsOrRaisesTheFetchFault : Prop :=
  ∀ (s : State) (ge : Nat) (regs : List Nat) (work : State → Engine → Tag → State),
    let e := eng s ge
    (canIssue e = false ∨ regsFree e regs = false ∨ slotRuns s ge = false → issue s ge regs work = s)
    ∧ (∀ c, canIssue e = true → regsFree e regs = true → slotRuns s ge = true → (fetchFault s ge).1 = some c →
        issue s ge regs work = raise (fetchFault s ge).2 ge 0 0 c e.seq.pc e.seq.pc
        ∧ ∀ g, g ≠ ge → eng (issue s ge regs work) g = eng s g)
    ∧ (ready s ge regs = true →
        issue s ge regs work = work (fetched s ge) (issued e) { pc := e.seq.pc, stamp := s.stamp })

/-- Each MOV instruction enters queue Q with the registers' values at issue; a full queue holds issue. -/
def Obligations.MovInstructionsEnterTheirQueue : Prop :=
  ∀ (s : State) (ge q ds dd ra : Nat) (imm : W32),
    let e := eng s ge
    let g : Tag := { pc := e.seq.pc, stamp := s.stamp }
    let enters (m : MovOp) : State := issuedAs s ge fun x => setMovq x q (movq x q ++ [m])
    let ep := (rdS e ra).toNat % 2 ^ 32
    ((movq e q).length < 64 → ready s ge [] = true →
        exec (.movCopy ge q ds dd) s = .next (enters (.copy (rdD e ds) (rdD e dd) g))
        ∧ exec (.movCopen ge q ds) s = .next (enters (.copen (rdD e ds) g))
        ∧ exec (.movCclose ge q dd) s = .next (enters (.cclose (rdD e dd) g)))
    ∧ ((movq e q).length < 64 → ready s ge [ra] = true →
        exec (.movFill ge q dd ra) s = .next (enters (.fill (rdD e dd) (rdS e ra) g))
        ∧ (imm.toNat < 256 →
            exec (.movCmb ge q ds dd ra imm) s = .next (enters (.cmb (rdD e ds) (rdD e dd) imm.toNat ep g))
            ∧ exec (.movCdone ge q dd ra imm) s = .next (enters (.cdone (rdD e dd) imm.toNat ep g)))
        ∧ (256 ≤ imm.toNat →
            exec (.movCmb ge q ds dd ra imm) s = .next (raisedAs s ge 0x20 0)
            ∧ exec (.movCdone ge q dd ra imm) s = .next (raisedAs s ge 0x20 0)))
    ∧ (64 ≤ (movq e q).length →
        exec (.movCopy ge q ds dd) s = .next s ∧ exec (.movFill ge q dd ra) s = .next s
        ∧ exec (.movCmb ge q ds dd ra imm) s = .next s ∧ exec (.movCdone ge q dd ra imm) s = .next s
        ∧ exec (.movCopen ge q ds) s = .next s ∧ exec (.movCclose ge q dd) s = .next s)

/-- A move entry finishes whole or raises its refusal; a format slot load replaces the slot whole or leaves every slot. -/
def Obligations.MovesAndSlotLoadsFinishWhole : Prop :=
  (∀ (s : State) (ge q : Nat) (m : MovOp) (rest : List MovOp) (ds dd : List W64) (v : W64) (g : Tag),
      let e := eng s ge
      let frees (t : State) : State := modEng t ge fun x => popMov x q
      let ends (t : State) : State := modEng t ge fun x => land (popMov x q) t.stamp (movSpans q m)
      let runs : Prop := slotStopped s ge = false ∧ movHeld s ge m = false
      let refuses (c : Nat) : State := raiseSeq (frees s) ge c g 0
      (movq e q = [] → exec (.movTransferComplete ge q) s = .next s)
      ∧ (movq e q = m :: rest → slotStopped s ge = true ∨ movHeld s ge m = true → exec (.movTransferComplete ge q) s = .next s)
      ∧ (∀ u t, movq e q = m :: rest → runs → runMov s ge q m = (.ok u, t) →
          exec (.movTransferComplete ge q) s = .next (ends t))
      ∧ (∀ c t, movq e q = m :: rest → runs → runMov s ge q m = (.error c, t) →
          exec (.movTransferComplete ge q) s = .next (raiseSeq (frees t) ge c.1 (movTag m) c.2))
      ∧ (movq e q = m :: rest → m = .copy ds dd g → runs →
          ((dReserved ds || dReserved dd) = false → dSpace ds = 0 → dSpace dd = 0 → dExt0 ds ≠ 0 → dExt1 ds ≠ 0 →
            dExt0 ds = dExt0 dd → dExt1 ds = dExt1 dd → rowsMeet (dRows ds) (dRows dd) = false →
            rowsInSpad e (dRows ds) = none → rowsInSpad e (dRows dd) = none →
            exec (.movTransferComplete ge q) s = .next (ends (writeRows s ge q g.stamp 0
              (((dRows dd).map Prod.fst).zip
                ((dRows ds).map fun r => raceBytes e q g.stamp false r.1 (spadRead e r.1 r.2))))))
          ∧ (dReserved ds = true ∨ dReserved dd = true ∨ dExt0 ds ≠ dExt0 dd ∨ dExt1 ds ≠ dExt1 dd
              ∨ dSpace ds = dSpace dd ∧ rowsMeet (dRows ds) (dRows dd) = true →
            exec (.movTransferComplete ge q) s = .next (refuses 0x23)))
      ∧ (movq e q = m :: rest → m = .fill dd v g → runs →
          (dReserved dd = false → dSpace dd = 0 → dExt0 dd ≠ 0 → dExt1 dd ≠ 0 → dExt0 dd % 8 = 0 →
            rowsInSpad e (dRows dd) = none →
            exec (.movTransferComplete ge q) s = .next (ends (writeRows s ge q g.stamp 0
              ((dRows dd).map fun r => (r.1, fillBytes v r.2)))))
          ∧ (dExt0 dd % 8 ≠ 0 → exec (.movTransferComplete ge q) s = .next (refuses 0x23))))
  ∧ (∀ (s t : State) (ge slot : Nat) (d : List W64) (g : Tag) (r : List (Nat × List W64 × Tag)) (img : List PByte)
        (c : Nat × Nat),
        let e := eng s ge
        let s1 := setEng s ge { e with units := { e.units with fmtLoads := r } }
        let go (u : State) : State := [0, 1, 2, 3].foldl (fun x a => advance 5 x ge a) u
        (e.units.fmtLoads = [] → exec (.formatSlotLoad ge) s = .next s)
        ∧ (e.units.fmtLoads = (slot, d, g) :: r →
            (slotStopped s ge = true ∨ slotBusy e slot g.stamp = true → exec (.formatSlotLoad ge) s = .next s)
            ∧ (slotStopped s ge = false → slotBusy e slot g.stamp = false →
              (dReserved d = true ∨ dSpace d ≠ 1 → exec (.formatSlotLoad ge) s = .next (go (raiseSeq s1 ge 0x23 g 0)))
              ∧ (dReserved d = false → dSpace d = 1 →
                (vRead s1 ge (dBase d) 576 = (.ok img, t) →
                  let b := (raceBytes e uFmt g.stamp true (dBase d) img).map Prod.fst
                  ((img.any Prod.snd || fmtImageBad slot b) = false →
                    exec (.formatSlotLoad ge) s = .next (go (modEng t ge fun x =>
                      { x with fmt := sset {} x.fmt slot (fmtOfImage b) })))
                  ∧ ((img.any Prod.snd || fmtImageBad slot b) = true →
                    exec (.formatSlotLoad ge) s = .next (go (raiseSeq t ge 0x27 g (dBase d)))))
                ∧ (vRead s1 ge (dBase d) 576 = (.error c, t) →
                  exec (.formatSlotLoad ge) s = .next (go (raiseSeq t ge c.1 g c.2)))))))

/-- A move-queue fault reissues its entry, a second one holds the slot; REG_ECC makes the context UNRECOVERABLE. -/
def Obligations.HardwareFaultsOfTheEngine : Prop :=
  (∀ (s : State) (ge q : Nat) (ds dd : List W64) (c ep : Nat) (g : Tag) (r : List MovOp) (er : Nat × Nat) (u t : State),
      let e := eng s ge
      let second := movFaulted e q
      let s1 := modEng (note s 3 (if second then 4 else 3) (if second then 3 else 2) 2 ge []) ge fun x => markMov x q
      let done (v : State) : Host.Outcome State Fault Refusal := .next (if second then holdEngine v ge else v)
      ((∀ ds dd c ep g r, movq e q ≠ .cmb ds dd c ep g :: r) → exec (.moveUnitFault ge q) s = done s1)
      ∧ (movq e q = .cmb ds dd c ep g :: r →
          (runCmb s1 ge q g.stamp ds dd c ep true = (.ok u, t) →
            exec (.moveUnitFault ge q) s = done (modEng t ge fun x => popMov x q))
          ∧ (runCmb s1 ge q g.stamp ds dd c ep true = (.error er, t) →
            exec (.moveUnitFault ge q) s = done (raiseSeq (modEng t ge fun x => popMov x q) ge er.1 g er.2)))
      ∧ (second = true ↔ sget false e.units.mqFault q = true ∨ sget false e.units.mqFault (4 + q) = true)
      ∧ (∀ x : Engine, sget false (markMov x q).units.mqFault q = true
          ∧ (movq x q ≠ [] → sget false (markMov x q).units.mqFault (4 + q) = true)
          ∧ markMov x q = { x with units := { x.units with mqFault := (markMov x q).units.mqFault } }))
  ∧ (∀ (s u : State) (ge : Nat) (t : Tag),
      exec (.regEccError ge) s = .next
        (raiseUnrec (holdEngine (note s 3 2 3 2 ge []) ge) ge { pc := (eng s ge).seq.pc, stamp := s.stamp })
      ∧ (let e := eng u ge
         let v := raiseUnrec u ge t
         (e.seq.state ≠ .faulted →
           (eng v ge).seq = { e.seq with state := .faulted, wait := .none, faultCode := 0x2F, faultSource := 0, faultArray := 0,
                                         faultPc := t.pc, faultAddr := 0, pc := t.pc }
           ∧ (ctxOf v e.seq.context).faulted = true)
         ∧ (ctxOf v e.seq.context).unrec = true)
      ∧ slotState (holdEngine s ge) (slotOf s ge) = .held
      ∧ (slotState s (slotOf s ge) = .held → holdEngine s ge = s)
      ∧ (∀ (e : Engine) (a : Nat), swf {} e.arrays = true → let x := arrOf (abandonArr e a) a
          x.rows = [] ∧ x.drain = [] ∧ x.fed = []))

/-- Each MTX instruction enters its array's queue with its registers' values; reserved IMM bits raise ILLEGAL. -/
def Obligations.MtxInstructionsEnterTheArrayQueue : Prop :=
  ∀ (s : State) (ge a r : Nat) (imm : W32),
    let e := eng s ge
    let g : Tag := { pc := e.seq.pc, stamp := s.stamp }
    let n := imm.toNat
    let held := arrayDepth (arrOf e a)
    let enters (op : ArrOp) (pend : List Nat) : State := advance 5 (issuedAs s ge fun x =>
      let y := setArr x a { arrOf x a with queue := (arrOf x a).queue ++ [op] }
      { y with units := { y.units with pendRegs := y.units.pendRegs ++ pend } }) ge a
    let illegal := raisedAs s ge 0x20 0
    (held = (arrOf e a).queue.length + (if (arrOf e a).run.isSome then 1 else 0)
        + (if (arrOf e a).pass.any (·.final) then 1 else 0))
    ∧ (held < 4 → ready s ge [r] = true →
        exec (.mtxRun ge a r imm) s = .next (enters (.run (rdS e r + imm.signExtend 64).toNat g) [])
        ∧ (n < 64 → exec (.mtxTstat ge a r imm) s = .next (enters (.tstat n r g) [r]))
        ∧ (64 ≤ n → exec (.mtxTstat ge a r imm) s = .next illegal))
    ∧ (held < 4 → ready s ge [] = true →
        (n < 1024 → bits n 7 6 ≠ 3 → bits n 9 8 ≠ 3 →
          exec (.mtxTdecl ge a imm) s = .next (enters (.tdecl (n % 64) (bits n 7 6) (bits n 9 8) g) []))
        ∧ (1024 ≤ n ∨ bits n 7 6 = 3 ∨ bits n 9 8 = 3 → exec (.mtxTdecl ge a imm) s = .next illegal)
        ∧ (n < 64 →
          exec (.mtxTrel ge a imm) s = .next (enters (.trel n g) [])
          ∧ exec (.mtxTzero ge a imm) s = .next (enters (.tzero n g) [])
          ∧ exec (.mtxTclr ge a imm) s = .next (enters (.tclr n g) [])
          ∧ exec (.mtxTsave ge a r imm) s = .next (enters (.tsave n (rdD e r) g) [])
          ∧ exec (.mtxTrest ge a r imm) s = .next (enters (.trest n (rdD e r) g) []))
        ∧ (64 ≤ n →
          exec (.mtxTrel ge a imm) s = .next illegal ∧ exec (.mtxTzero ge a imm) s = .next illegal
          ∧ exec (.mtxTclr ge a imm) s = .next illegal ∧ exec (.mtxTsave ge a r imm) s = .next illegal
          ∧ exec (.mtxTrest ge a r imm) s = .next illegal))
    ∧ (4 ≤ held →
        exec (.mtxRun ge a r imm) s = .next s ∧ exec (.mtxTdecl ge a imm) s = .next s ∧ exec (.mtxTrel ge a imm) s = .next s
        ∧ exec (.mtxTzero ge a imm) s = .next s ∧ exec (.mtxTclr ge a imm) s = .next s
        ∧ exec (.mtxTsave ge a r imm) s = .next s ∧ exec (.mtxTrest ge a r imm) s = .next s
        ∧ exec (.mtxTstat ge a r imm) s = .next s)
    ∧ (e.units.fmtLoads.length < 2 → ready s ge [] = true →
        (n < 32 → exec (.mtxFmtld ge r imm) s = .next (issuedAs s ge fun x =>
          { x with units := { x.units with fmtLoads := x.units.fmtLoads ++ [(n, rdD e r, g)] } }))
        ∧ (32 ≤ n → exec (.mtxFmtld ge r imm) s = .next illegal))
    ∧ (2 ≤ e.units.fmtLoads.length → exec (.mtxFmtld ge r imm) s = .next s)

/-- What the tile instructions do to the tile store, the scratchpad and sRD, and where TILE is raised. -/
def Obligations.TileInstructionsTakeEffect : Prop :=
  ∀ (s : State) (ge a t rd sh f : Nat) (d : List W64) (g : Tag) (x : Acc) (k : Nat),
    let e := eng s ge
    let c := accOf e a
    let ctx := e.seq.context
    let n := tileSlots sh f
    let v := tileOf c t
    let own (x : Acc) : Acc := { setTile x t {} with log := x.log.filter fun o => o.tile ≠ t }
    let released (y : Acc) (w : Nat × Tile) : Acc := { setTile y w.1 {} with log := y.log.filter fun o => o.tile ≠ w.1 }
    let tileFault (u : State) : State := raiseArr u ge a 0x25 g
    (tileBad c t ctx = true →
        runTileOp s ge a (.trel t g) = tileFault s ∧ runTileOp s ge a (.tzero t g) = tileFault s
        ∧ runTileOp s ge a (.tclr t g) = tileFault s ∧ runTileOp s ge a (.tsave t d g) = tileFault s
        ∧ runTileOp s ge a (.trest t d g) = tileFault s
        ∧ runTileOp s ge a (.tstat t rd g) = tileFault (modEng s ge fun y => unpend y rd))
    ∧ (tileBad c t ctx = false →
        runTileOp s ge a (.trel t g) = modAcc s ge a own
        ∧ runTileOp s ge a (.tzero t g) = modAcc s ge a (fun y =>
            let z := closeOps (zeroTile y t (tileOf y t)) t
            setTile z t { tileOf z t with poison := false, over0 := false, over1 := false, count0 := 0, count1 := 0 })
        ∧ runTileOp s ge a (.tclr t g) = modAcc s ge a (fun y => setTile (closeOps y t) t { tileOf (closeOps y t) t with
              ovf := false, code := false, longsum := false, inv := false })
        ∧ runTileOp s ge a (.tstat t rd g) = modEng (modEng s ge fun y => unpend y rd) ge fun y => wrS y rd (tileStatus v))
    ∧ (tileBad c t ctx = false → dReserved d = false → dSpace d = 0 → dBase d % 8 = 0 →
        let img := tileImage c t
        (img.length = tileImageBytes v)
        ∧ (spadOk e (dBase d) (tileImageBytes v) = true →
          runTileOp s ge a (.tsave t d g) =
            modEng (modAcc (modEng s ge fun y => raceWrite y (uArr a) g.stamp (dBase d) img) ge a fun y => closeOps y t) ge
              (fun y => land y s.stamp (spansOf (uArr a) g.stamp false [(dBase d, img.length)]))
          ∧ (let back := raceBytes e (uArr a) g.stamp false (dBase d) (spadRead e (dBase d) (tileImageBytes v))
             (imageMatches v back = true →
               runTileOp s ge a (.trest t d g) = modAcc s ge a fun y => tileRestore (closeOps y t) t back)
             ∧ (imageMatches v back = false → runTileOp s ge a (.trest t d g) = tileFault s))))
    ∧ ((t % n ≠ 0 ∨ ((tilesMeeting c t n).any fun w => w.2.owner != ctx) = true) →
        runTileOp s ge a (.tdecl t sh f g) = tileFault s)
    ∧ (t % n = 0 → ((tilesMeeting c t n).any fun w => w.2.owner != ctx) = false →
        runTileOp s ge a (.tdecl t sh f g) = modAcc s ge a fun y =>
          let z := zeroSlots ((tilesMeeting c t n).foldl released y) t n
          setTile { z with counts := sclear z.counts (32 * t) (32 * t + 32 * n), log := z.log.filter fun o => o.tile ≠ t } t
            { declared := true, shape := sh, format := f, owner := ctx })
    ∧ (t * 1024 ≤ k → k < (t + n) * 1024 → elemAt (zeroSlots x t n) k = 0 ∧ sget false (zeroSlots x t n).poison k = false)
    ∧ ((k < t * 1024 ∨ (t + n) * 1024 ≤ k) → elemAt (zeroSlots x t n) k = elemAt x k
        ∧ sget false (zeroSlots x t n).poison k = sget false x.poison k)

/-- Weight loads, bank writes, pass starts, waves and finished tiles of an array. -/
def Obligations.ArrayPassesFeedAndDrain : Prop :=
  ∀ (s : State) (ge a tile q code addr : Nat) (dry busy fill : Bool) (r n : RunState) (p : Pass) (l : Load) (pre post : List Load)
      (y : Nat × Nat),
    let e := eng s ge
    let x := arrOf e a
    let c := accOf e a
    let v := view e (uArr a) r.tag.stamp
    let put (z : Arr × Acc) : State := advance 5 (setEng s ge (setAcc (setArr e a z.1) a z.2)) ge a
    let calm := slotState s (slotOf s ge) = .inService ∧ sget 0 s.rein (dieOfGe ge) = 0
    let ends (f : State → State) : Host.Outcome State Fault Refusal :=
      .next (advance 5 (f (modArr s ge a fun y => { dropLoads y with run := none })) ge a)
    -- the shadow load
    (calm → x.run = some r → x.stop = .free →
        (∀ w ∈ x.loads, w.arrived = 32 ∧ w.bad = false ∧ (w.bank = loadBank x → w.written = 32)) →
        loadPos v (3 * rPasses r.words + 1) (waitingLoads x).length r = some n → weightFormatOk v n.words = true →
        weightFault v n = none →
        exec (.shadowLoadRead ge a) s = .next (modArr s ge a fun y => { y with loads := y.loads ++ [
          { bank := loadBank x, set := weightSet v n.words n.kpass n.sub, arrived := 0, writing := false, written := 0, taken := false,
            bad := metaFault (weightSet v n.words n.kpass n.sub) (rMode n.words) }] }))
    ∧ (calm → x.run = none → exec (.shadowLoadRead ge a) s = .next s)
    ∧ (x.loads = [l] →
        (l.arrived < 31 → l.written = 0 → loadWave x = { x with loads := [{ l with arrived := l.arrived + 1 }] })
        ∧ (l.arrived = 32 → l.writing = true → l.written < 31 → loadWave x =
            { setBank x l.bank (some (putGridRow (bankOf x l.bank) l.set l.written)) with
              loads := [{ l with written := l.written + 1 }] }))
    ∧ (x.loads = pre ++ l :: post → (∀ w ∈ pre, w.writing = true) → bankWriteReady x pre l = true →
        exec (.shadowLoadBankWrite ge a) s = .next (modArr s ge a fun y => { y with loads := pre ++ { l with writing := true } :: post }))
    ∧ (bankWriteReady x pre l = true ↔ (l.writing = false ∧ l.bad = false ∧ 31 ≤ l.arrived ∧ (∀ w ∈ pre, w.bank ≠ l.bank)
        ∧ (∀ o, x.pass = some o → o.bank ≠ l.bank)
        ∧ ∀ w ∈ x.rows, w.kind = .valid → w.bank = l.bank → 32 ≤ w.age))
    -- passes
    ∧ (calm → x.run = some r → x.pass = none → x.stop = .free → scoreHeld e a r = false →
        (r.fresh = true → openRefusal x c r.words = some code →
          exec (.passStart ge a) s = ends fun t => raiseSeq t ge code r.tag r.addr)
        ∧ ((r.fresh = false ∨ openRefusal x c r.words = none) →
          (passRefusal v x c r = some code → exec (.passStart ge a) s = ends fun t => raiseArr t ge a code r.tag)
          ∧ (passRefusal v x c r = none → passFault v r = some addr →
              exec (.passStart ge a) s = ends fun t => raiseSeq t ge cSPAD r.tag addr)
          ∧ (passRefusal v x c r = none → passFault v r = none →
              (loadWaits v x r = true → exec (.passStart ge a) s = .next s)
              ∧ (loadWaits v x r = false →
                  exec (.passStart ge a) s = .next (put (beginPass v x c r (bitmapBit v r == some false)))))))
    ∧ (x.run = some r → x.pass = none → scoreHeld e a r = true → calm → exec (.passStart ge a) s = .next s)
    ∧ (r.fresh = false → r.kpass ≠ 0 → rPolRest r.words = false →
        (needsLoad r = true → (waitingLoads x).head? = some l →
          beginPass v x c r false = settle (passBoundary { x with
              pass := some { seqNo := (x.passSeq + 1).toNat, tile := rTile r.words, half := rHalf r.words, mode := rMode r.words,
                             sub := r.sub, wslot := rWslot r.words, aslot := rAslot r.words, overwrite := false, zero := false,
                             last := rTileLast r.words && (decide (r.kpass + 1 = rPasses r.words) && (r.sub == 0 || r.sub == 3)),
                             final := decide (r.kpass + 1 = rPasses r.words) && (r.sub == 0 || r.sub == 3),
                             bank := l.bank, rows := passRows v r.words, nextRow := 0, words := r.words, kpass := r.kpass,
                             reexec := r.reexec, stamp := r.tag.stamp },
              run := nextPos r, passSeq := x.passSeq + 1, lastBank := l.bank, modeBits := rMode r.words,
              lastSrc := some (setSrc v r.words r.kpass r.sub),
              loads := (takeLoad x.loads).filter fun w => !(w.taken && w.written == 32) })
            (let o := addCount (setChain (tileOf c (rTile r.words)) (rHalf r.words) true) (rHalf r.words)
             setTile (setTile c (rTile r.words) o) (rTile r.words)
               { tileOf (setTile c (rTile r.words) o) (rTile r.words) with
                 code := (tileOf (setTile c (rTile r.words) o) (rTile r.words)).code || l.set.code }))
        ∧ beginPass v x c r true = settle
            { x with passSeq := x.passSeq + 1, run := nextK r, fed := x.fed ++ [passOf v x r true] }
            (setTile c (rTile r.words) (setChain (tileOf c (rTile r.words)) (rHalf r.words) true)))
    -- waves
    ∧ ((packOf s (slotOf s ge) a).on = true → exec (.arrayWave ge a dry busy fill) s = .next (setPack s (slotOf s ge) a
        (quadsWave (packOf s (slotOf s ge) a))))
    ∧ ((packOf s (slotOf s ge) a).on = false →
        (slotStopped s ge = true → exec (.arrayWave ge a dry busy fill) s = .next s)
        ∧ (slotStopped s ge = false → arrActive x (heldOff s ge) = false → exec (.arrayWave ge a dry busy fill) s =
            .next (modArr s ge a fun y => if y.stop == .free then loadWave y else y))
        ∧ (slotStopped s ge = false → x.stop = .free → x.held = [] → reexecLead e a = false →
            (x.pass = some p → bankPending x p.bank = false → x.credits ≠ 0 →
              (let f := feedRow e a x c p
               let g := gridWave f.1 { f.2 with validWaves := f.2.validWaves + 1 }
               exec (.arrayWave ge a false false false) s = .next (put (drainAll g.1 g.2)))
              ∧ (let g := gridWave x { c with bubbleDry := c.bubbleDry + 1 }
                 exec (.arrayWave ge a true false false) s = .next (put (drainAll g.1 g.2))))
            ∧ (x.pass = some p → bankPending x p.bank = false → x.credits = 0 →
                exec (.arrayWave ge a dry true false) s = .next (put (gridWave x { c with bubbleDrain := c.bubbleDrain + 1 })))
            ∧ (x.pass = none → x.run = some r → heldOff s ge = false → scoreHeld e a r = false → loadWaits e x r = true →
                let g := gridWave x { c with bubbleLoad := c.bubbleLoad + 1 }
                exec (.arrayWave ge a dry false false) s = .next (put (drainAll g.1 g.2)))))
    ∧ ((feedRow e a x c p).1.rows.length = x.rows.length + 1 ∧ (feedRow e a x c p).1.credits = x.credits - 1)
    -- finished tiles
    ∧ (x.held.find? (fun z => z.1 == tile) = some y → ftqFree e = some q → inFlight x tile = false → x.stop = .free →
        slotStopped s ge = false →
        ∃ f, exec (.finishedTileRaise ge a tile) s = .next (setEng s ge f)
          ∧ f.ftq = sset none e.ftq q (some (ftDescriptor a tile (tileOf c tile) y.2))
          ∧ f.accs = (setAcc e a (setTile c tile { tileOf c tile with finished := true })).accs
          ∧ f.arrays = (setArr e a { x with held := x.held.filter fun z => z.1 ≠ tile }).arrays
          ∧ f = { e with arrays := f.arrays, accs := f.accs, ftq := f.ftq })
    ∧ (ftqFree e = none → exec (.finishedTileRaise ge a tile) s = .next s)

/-- An array's hardware fault and timeout, and the full-save stop and its resumption. -/
def Obligations.ArrayFaultsAndStops : Prop :=
  ∀ (s : State) (ge a code ctx waves : Nat) (p : Pass),
    let e := eng s ge
    let x := arrOf e a
    let c := accOf e a
    let tiles := abandonedTiles x
    let fault : State :=
      let t := match x.pass with | some p => some p | none => x.fed.getLast?
      let id (slot : Pass → Nat) : W64 := match t with | some p => BitVec.ofNat 64 (sget ({} : FmtSlot) e.fmt (slot p)).formatId | none => 0
      let seqNo : W64 := match t with | some p => BitVec.ofNat 64 p.seqNo | none => x.passSeq.setWidth 64
      afterAbandon e (modEng (note s 1 code 2 1 (ge * 4 + a) [seqNo, id Pass.wslot, id Pass.aslot]) ge fun y =>
        let z := abandonArr y a
        setArr z a { arrOf z a with faultCode := code, hwPending := true }) ge a
    let free := exec (.arrayHwFault ge a code) s
    -- the fault
    free = .next (if x.hwPending || slotState fault (slotOf fault ge) == .draining then holdEngine fault ge else fault)
    ∧ (swf {} e.arrays = true → let y := arrOf (abandonArr e a) a
        y.rows = [] ∧ y.drain = [] ∧ y.fed = [] ∧ y.pass = none ∧ y.credits = 64 ∧ y.bank0 = none ∧ y.bank1 = none
        ∧ y.held = x.held.filter (fun z => !tiles.contains z.1))
    ∧ (abandonArr e a).accs = (setAcc e a (let d := tiles.foldl poisonTile c
        { d with reexecQ := redoRecords c tiles
            ++ d.reexecQ.filter fun r => !(redoRecords c tiles).any fun q => q.1 == r.1 && q.2.stamp == r.2.stamp })).accs
    ∧ redoRecords c tiles = (c.log.filter fun o => tiles.contains o.tile).flatMap MatOp.records
    ∧ (redoRecords c tiles = [] → afterAbandon e s ge a = advance 5 s ge a)
    ∧ (redoRecords c tiles ≠ [] → afterAbandon e s ge a = advance 5 (note s 3 5 1 2 ge [BitVec.ofNat 64 a]) ge a)
    ∧ (a < 4 → exec (.handshakeTimeout ge a) s = exec (.arrayHwFault ge a 3) s)
    ∧ (4 ≤ a → exec (.handshakeTimeout ge a) s = exec (.chainHwFault ge 3) s)
    -- the resumption of a full save
    ∧ (x.stop = .stopped → e.seq.state = .running ∨ e.seq.state = .waiting ∨ e.seq.state = .yielding →
        exec (.fullSaveResume ge a) s = .next (setEng s ge (setArr e a { reloadBank e a x with stop := .free })))
    ∧ (x.pass = some p → reloadBank e a x = { x with
        loads := [{ bank := p.bank, set := weightSet (view e (uArr a) p.stamp) p.words p.kpass p.sub, arrived := 0, writing := true,
                    written := 0, taken := true, bad := false }],
        lastBank := p.bank, lastSrc := some (setSrc (view e (uArr a) p.stamp) p.words p.kpass p.sub) })
    ∧ (x.stop ≠ .stopped → exec (.fullSaveResume ge a) s = .next s)
    -- the stop of a full save
    ∧ (let y := ctxOf s ctx
       (y.sched.fullSave = false → exec (.fullSaveStop ctx waves) s = .next s)
       ∧ (y.admitted = true → y.onGang = true → y.sched.fullSave = true → y.st = .stopping →
          let u := (gang y).foldl (fun t h => modEng t h fun z => if holds z ctx then stopEngine (addWaves z waves) ctx else z) s
          exec (.fullSaveStop ctx waves) s = .next (modCtx (modPad (leaveGang u ctx)
            y.paddock fun p => { p with fullSaves := p.fullSaves + 1 }) ctx fun z => { z with swap := .out })))
    ∧ (let f := stopEngine e ctx
       f.chain = { e.chain with stopped := true }
       ∧ (e.seq.state ≠ .idle → e.seq.state ≠ .faulted → f.seq = { e.seq with state := .saved, preemptReq := false }))

/-- Each VCH instruction enters the chain's queue with its registers' values; status clear and read act in order. -/
def Obligations.ChainInstructionsEnterTheQueue : Prop :=
  ∀ (s : State) (ge rp rc r : Nat) (imm : W32),
    let e := eng s ge
    let g : Tag := { pc := e.seq.pc, stamp := s.stamp }
    let n := imm.toNat
    let pr := progRegs e (rdS e rp).toNat
    let enters (o : ChainOp) (pend : Nat) : State := issuedAs s ge fun x => enqueueChain x o pend
    let illegal := raisedAs s ge 0x20 0
    let idle (x : Engine) : Prop := x.chain.cur = none ∧ x.chain.queue = []
    (chainDepth e < 4 → tallyHeld e pr.2.1 pr.2.2 = false → ready s ge (rp :: rc :: pr.1) = true →
        (n < 2 ^ 14 → rc = 0 ∨ imm = 0 → exec (.vchRun ge rp rc imm) s = .next (enters (.run (rdS e rp).toNat
          (if rc = 0 then n else (rdS e rc).toNat) ((List.range 16).map (rdD e)) ((List.range 32).map (rdS e)) pr.2.1 g) pr.2.1))
        ∧ (2 ^ 14 ≤ n ∨ rc ≠ 0 ∧ imm ≠ 0 → exec (.vchRun ge rp rc imm) s = .next illegal))
    ∧ (chainDepth e < 4 → ready s ge [] = true →
        (n < 32 → exec (.vchCrvld ge r imm) s = .next (enters (.curve n (rdD e r) g) 0))
        ∧ (32 ≤ n → exec (.vchCrvld ge r imm) s = .next illegal)
        ∧ (n < 256 → bitAt n 0 = false → exec (.vchCclr ge imm) s = .next (enters (.cclr n) 0))
        ∧ (256 ≤ n ∨ bitAt n 0 = true → exec (.vchCclr ge imm) s = .next illegal))
    ∧ (chainDepth e < 4 → ready s ge [r] = true → exec (.vchCstat ge r) s = .next (enters (.cstat r) r))
    ∧ (4 ≤ chainDepth e → exec (.vchRun ge rp rc imm) s = .next s ∧ exec (.vchCrvld ge r imm) s = .next s
        ∧ exec (.vchCclr ge imm) s = .next s ∧ exec (.vchCstat ge r) s = .next s)
    ∧ (∀ x : Engine, idle x → enqueueChain x (.cclr n) 0 = { x with chain := chainClear x.chain n }
        ∧ (r ≠ 0 → r ∉ x.units.pendRegs → enqueueChain x (.cstat r) r
            = wrS x r (BitVec.ofNat 64 ((chainStatus x.chain).toNat % 256))))

/-- Curve loads, a chain instruction's start, its refusals before the start, its groups and completion, its hardware faults. -/
def Obligations.ChainInstructionsStartAndComplete : Prop :=
  ∀ (s t : State) (ge slot a n pend groups dry code c0 c1 : Nat) (d : List W64) (descs : List (List W64)) (regs : List W64) (g : Tag)
      (q : List ChainOp) (img : List PByte) (r : ChainRun),
    let e := eng s ge
    let ch := e.chain
    let pop (u : State) : State := modEng u ge popChain
    let v := view e uChain g.stamp
    let p := progF (spadWords v a 16)
    let ds (i : Nat) : List W64 := descs.getD i []
    let op : ChainOp := .run a n descs regs pend g
    let own := (([p.in0, p.in1, p.in2].filter fun f => f.kind == 2).map fun f => (dArray (ds f.dreg), dTile (ds f.dreg))).eraseDups
    let waits := ([p.in0, p.in1, p.in2].map fun f => tileWait e ch.plainRead own g.stamp false f (ds f.dreg))
      ++ ([p.out0, p.out1].map fun f => tileWait e ch.plainRead own g.stamp true f (ds f.dreg))
    let reads := [p.in0, p.in1, p.in2].flatMap fun f => inRanges e f (ds f.dreg) n
    let work := chainCompute v (ctxOf s e.seq.context).seed p n ds regs c0 c1
    let bytes := (raceBytes e uChain g.stamp true (dBase d) img).map Prod.fst
    let calm := slotState s (slotOf s ge) = .inService ∧ sget 0 s.rein (dieOfGe ge) = 0
    -- curve loads
    (ch.cur = none → ch.queue = .curve slot d g :: q → slotStopped s ge = false → dReserved d = false → dSpace d = 1 →
        vRead s ge (dBase d) 1088 = (.ok img, t) →
        ((img.any Prod.snd || curveImageBad bytes) = false → exec (.curveSlotLoad ge) s
          = .next (pop (modEng t ge fun x => { x with curves := sset {} x.curves slot (curveOfImage bytes) })))
        ∧ ((img.any Prod.snd || curveImageBad bytes) = true →
          exec (.curveSlotLoad ge) s = .next (pop (raiseChain t ge 0x27 g (dBase d)))))
    -- the start
    ∧ (ch.cur = none → ch.queue = op :: q → calm → ch.stopped = false → (∀ l ∈ e.units.fmtLoads, g.stamp ≤ l.2.2.stamp) →
        (a % 128 ≠ 0 → exec (.chainInstrStart ge) s = .next (refuseChain s ge pend g (0, 0x22, a)))
        ∧ (a % 128 = 0 → spadOk e a 128 = false → exec (.chainInstrStart ge) s = .next (refuseChain s ge pend g (0, 0x21, a)))
        ∧ (a % 128 = 0 → spadOk e a 128 = true →
          (progBad p = true → exec (.chainInstrStart ge) s = .next (refuseChain s ge pend g (2, 0x20, 0)))
          ∧ (progBad p = false →
            (waits.contains .deadlock = true → exec (.chainInstrStart ge) s = .next (refuseChain s ge pend g (2, 0x26, 0)))
            ∧ (waits.contains .deadlock = false → waits.contains .wait = true → exec (.chainInstrStart ge) s = .next s)
            ∧ (waits.contains .deadlock = false → waits.contains .wait = false → startBad e p n ds = none →
              combineStep s ge p.out0 (ds p.out0.dreg) = (.ok c0, s) → combineStep s ge p.out1 (ds p.out1.dreg) = (.ok c1, s) →
              outsMapped ge work.1 s = (none, s) →
              (p.inplace = true ∨ (tilesRead p ds).any (tilesWritten p ds).contains = false ∧ rowsMeet reads (outRanges work.1) = false) →
              ∃ f, exec (.chainInstrStart ge) s = .next (setEng s ge f)
                ∧ f.chain.cur = some { op := op, reads := reads, start := s.stamp, own := own, outs := work.1, tally := work.2.2,
                                       inplace := p.inplace, groups := (n + 127) / 128, entered := 0, reexec := ch.reexec, shared := 0 }
                ∧ f.chain.queue = q ∧ f.chain.instrSeq = ch.instrSeq + 1 ∧ f.regs = e.regs ∧ f.spad = e.spad ∧ f.ftq = e.ftq))))
    ∧ (ch.cur = none → ch.queue = op :: q → calm → ch.stopped = true → exec (.chainInstrStart ge) s = .next s)
    -- groups and completion
    ∧ (ch.cur = none → exec (.chainInstrComplete ge ⟨groups, dry⟩) s = .next s)
    ∧ (ch.cur = some r →
        ((ch.stopped = true ∨ slotStopped s ge = true ∨ fenceHolds s e.seq.context (chainTag r.op).1.stamp = true) →
          exec (.chainInstrComplete ge ⟨groups, dry⟩) s = .next s)
        ∧ (ch.stopped = false → slotStopped s ge = false → fenceHolds s e.seq.context (chainTag r.op).1.stamp = false →
          lateRace e r = false →
          let tg := (chainTag r.op).1
          let k := min groups (r.groups - r.entered)
          let u := writeOuts (modEng s ge fun x => chainEnter x r k dry) ge tg false r.entered (r.entered + k) r.outs
          exec (.chainInstrComplete ge ⟨groups, dry⟩) s = .next (modEng u ge fun x =>
            land (if r.entered + k = r.groups then chainDone x r else x) u.stamp
              (groupSpans tg.stamp r.entered (r.entered + k) r.outs))))
    ∧ (let f := chainEnter e r groups dry
       f.chain.issueWaves = ch.issueWaves + BitVec.ofNat 64 groups ∧ f.chain.chainDry = ch.chainDry + BitVec.ofNat 64 dry
       ∧ f.chain.cur.map ChainRun.entered = some (r.entered + groups))
    ∧ (let w := match r.tally with | some k => wrS e k.1 k.2 | none => e
       chainDone e r = advanceChain 4 (unpend (consumeFt { w with chain := { w.chain with cur := none } } r.own) (chainTag r.op).2))
    -- hardware faults
    ∧ (ch.cur = some r →
        let s0 := note (modEng s ge fun x => modChain x fun c => { c with faultCode := code, hwPending := true })
          2 code 2 2 ge [ch.instrSeq.setWidth 64]
        let u := abandonChain s0 ge
        exec (.chainHwFault ge code) s = .next (if ch.hwPending || slotState u (slotOf u ge) == .draining then holdEngine u ge else u))
    ∧ (ch.cur = some r →
        let tg := (chainTag r.op).1
        let w := modEng (writeOuts s ge tg true 0 r.groups r.outs) ge fun x => consumeFt (modChain x fun c => { c with cur := none }) r.own
        (r.inplace = false → abandonChain s ge = modEng w ge fun x => modChain x fun c =>
          { c with queue := r.op :: c.queue, reexec := true, plainRead := true })
        ∧ (r.inplace = true → abandonChain s ge = raiseUnrec (modEng w ge fun x =>
            advanceChain 4 (unpend x (chainTag r.op).2)) ge tg))

/-- FENCE.DATA and FENCE.FLAG go on at once, syn.wait holds issue until its condition or its timeout. -/
def Obligations.SynInstructionsFenceAndWait : Prop :=
  ∀ (s u : State) (ge cond ra rb rd waves k n code addr : Nat) (imm : W32) (va vb : W64) (p : Piece) (l : List Piece) (d : List PByte),
    let e := eng s ge
    let f := fetched s ge
    let s2 := issuedAs s ge id
    let g : Tag := { pc := e.seq.pc, stamp := s.stamp }
    let A := rdS e ra
    let waits (x : Engine) (w : Nat) : Engine := { x with seq := { x.seq with wait := .cond cond imm.toNat va vb rd w } }
    let resumes (x : Engine) (v : W64) : Engine := wrS { x with seq := { x.seq with state := .running, wait := .none } } rd v
    (ready s ge [] = true → exec (.synFenceData ge) s
        = .next (addFence s2 { ctx := e.seq.context, stamp := s.stamp, flag := none }))
    ∧ (ready s ge [ra, rb] = true →
        (A.toNat % 8 ≠ 0 → exec (.synFenceFlag ge ra rb) s = .next (raiseSeq s2 ge 0x22 g A.toNat))
        ∧ (A.toNat % 8 = 0 → vPieces s2 (walker ge) e.seq.context .write A.toNat 8 = (.error (code, addr), u) →
            exec (.synFenceFlag ge ra rb) s = .next (raiseSeq u ge code g addr))
        ∧ (A.toNat % 8 = 0 → vPieces s2 (walker ge) e.seq.context .write A.toNat 8 = (.ok (p :: l), u) →
            (attrKind u.mem p.a = 1 ∨ attrKind u.mem p.a = 2 →
              exec (.synFenceFlag ge ra rb) s = .next (raiseSeq u ge 0x29 g A.toNat))
            ∧ (attrKind u.mem p.a ≠ 1 → attrKind u.mem p.a ≠ 2 → exec (.synFenceFlag ge ra rb) s
              = .next (addFence u { ctx := e.seq.context, stamp := s.stamp, flag := some (p.a, rdS e rb) }))))
    ∧ (ready s ge [ra, rb, rd] = true →
        (cond ≤ 6 → cond = 5 ∨ bits imm.toNat 31 16 = 0 → exec (.synWait ge cond ra rb rd imm) s = .next (issuedAs s ge fun x =>
          { x with seq := { x.seq with state := .waiting, wait := .cond cond imm.toNat A (rdS e rb) rd 0 } }))
        ∧ (6 < cond ∨ cond ≠ 5 ∧ bits imm.toNat 31 16 ≠ 0 →
          exec (.synWait ge cond ra rb rd imm) s = .next (raiseSeq f ge 0x20 g 0)))
    ∧ (swf {} s.engines = true → e.seq.wait = .cond cond imm.toNat va vb rd n → cond ≠ 5 →
        (condHolds (waitWaves e cond waves) cond imm.toNat = true →
          exec (.synWaitSatisfied ge waves) s = .next (setEng (setEng s ge (waitWaves e cond waves)) ge
            (resumes (waitWaves e cond waves) 1)))
        ∧ (condHolds (waitWaves e cond waves) cond imm.toNat = false →
          exec (.synWaitSatisfied ge waves) s = .next (setEng (setEng s ge (waitWaves e cond waves)) ge
            (waits (waitWaves e cond waves) (n + waves)))))
    ∧ (e.seq.wait = .cond 5 imm.toNat va vb rd n → vRead (setEng s ge (waitWaves e 5 waves)) ge va.toNat 8 = (.ok d, u) →
        exec (.synWaitSatisfied ge waves) s = .next (modEng u ge fun x => if vb.toNat ≤ leNat (d.map Prod.fst) then resumes x 1
          else { x with seq := { x.seq with wait := .cond 5 imm.toNat va vb rd (n + waves) } }))
    ∧ (e.seq.wait = .cond cond imm.toNat va vb rd n →
        (cond = 5 → bits imm.toNat 31 16 ≠ 0 → bits imm.toNat 31 16 * 1024 ≤ n + waves →
          exec (.synWaitTimeout ge waves) s = .next (setEng s ge (resumes (waitWaves e cond waves) 0)))
        ∧ (cond ≠ 5 ∨ bits imm.toNat 31 16 = 0 ∨ n + waves < bits imm.toNat 31 16 * 1024 →
          exec (.synWaitTimeout ge waves) s = .next (setEng s ge (waits (waitWaves e cond waves) (n + waves)))))
    ∧ ((waitWaves e k waves).cnt.extwaitWaves
        = e.cnt.extwaitWaves + (if k = 4 ∨ k = 5 then BitVec.ofNat 64 waves else 0))
    ∧ (∀ f : Fence, (addFence s f).harn.fences = liveFences s ++ [f])

/-- A FENCE.FLAG marker drains its home's stale log before the flag is written; IOFENCE.C ends the use of invalidated translations. -/
def Obligations.FencesDrainHomesAndTranslations : Prop :=
  (∀ (s : State) (home ctx a : Nat) (v : W64) (f : Fence),
      let log := sget [] s.harn.stale home
      let d := drainStale s log
      let o := drainStale s (log.take 1024)
      (s.harn.fences.any (fun f => f.ctx == ctx && f.flag.isSome) = true → exec (.fenceFlagMarker home ctx) s
          = .next { d with harn := { d.harn with stale := sset [] s.harn.stale home [] } })
      ∧ (s.harn.fences.any (fun f => f.ctx == ctx && f.flag.isSome) = false → exec (.fenceFlagMarker home ctx) s = .next s)
      ∧ (s.harn.fences.find? (fun f => f.ctx == ctx && f.flag.isSome) = some f → f.flag = some (a, v) →
          let w := homeWrite s ctx f.stamp false a ((leBytes 8 v.toNat).map fun b => (b, false))
          (ctxVisible s ctx f.stamp = true →
            lineBusy s (a / 64) = false → exec (.fenceFlagWrite ctx) s = .next { w with harn := { w.harn with fences := w.harn.fences.erase f } })
          ∧ (ctxVisible s ctx f.stamp = false → exec (.fenceFlagWrite ctx) s = .next s))
      ∧ (4096 ≤ log.length → exec (.staleLogOverflow home) s
          = .next { o with harn := { o.harn with stale := sset [] s.harn.stale home (log.drop 1024) } })
      ∧ (log.length < 4096 → exec (.staleLogOverflow home) s = .next s)
      ∧ d.hcnt.staleLogDrains = s.hcnt.staleLogDrains + BitVec.ofNat 64 log.length ∧ d.harn.stale = s.harn.stale)
  ∧ (∀ (s : State) (inst dev va pid a : Nat) (v : W32) (flag : Option (Nat × W32)) (f : Nat × Option (Nat × W32)),
        let q := cmdTaken s inst
        let marks (p : TlbEnt → Bool) : State :=
          { q with trans := { q.trans with tlb := q.trans.tlb.map fun e => if p e then { e with invalidated := true } else e } }
        let mine (e : TlbEnt) : Bool := e.inst == inst && e.dev == dev
        let done (f : Nat × Option (Nat × W32)) : State := { s with trans := { s.trans with
          tlb := s.trans.tlb.filter fun e => !(e.inst == inst && e.invalidated),
          dcs := s.trans.dcs.filter fun d => !(d.1 == inst && s.trans.dcInval.contains (d.1, d.2.1)),
          dcInval := s.trans.dcInval.filter fun d => d.1 != inst,
          fences := s.trans.fences.erase f } }
        exec (.iotinvalVma inst dev false va) s = .next (marks fun e => mine e && e.vpn * 4096 / e.span == va / e.span)
        ∧ exec (.iotinvalVma inst dev true va) s = .next (marks mine)
        ∧ exec (.iotinvalGvma inst dev true va) s = .next (marks mine)
        ∧ (va < 2 ^ 57 → exec (.iotinvalGvma inst dev false va) s = .next (marks mine))
        ∧ (∃ t, exec (.iodirInvalDdt inst dev false) s = .next t ∧ t = { q with trans := t.trans } ∧ t.trans.tlb = (marks mine).trans.tlb
            ∧ ∀ d ∈ s.trans.dcs, d.1 = inst → d.2.1 = dev → (inst, dev) ∈ t.trans.dcInval)
        ∧ (∃ t, exec (.iodirInvalDdt inst dev true) s = .next t ∧ t = { q with trans := t.trans }
            ∧ t.trans.tlb = (marks fun e => e.inst == inst).trans.tlb
            ∧ ∀ d ∈ s.trans.dcs, d.1 = inst → (inst, d.2.1) ∈ t.trans.dcInval)
        ∧ (inst ≠ 0 → exec (.iodirInvalPdt inst dev pid) s = .next (marks fun e => mine e && e.pid == pid + 1))
        ∧ exec (.iodirInvalPdt 0 dev pid) s
            = .next (setTransReg s 0 0x48 (transReg s 0 0x48 ||| 0x400))
        ∧ exec (.iofenceC inst flag) s = .next { q with trans := { q.trans with fences := q.trans.fences ++ [(inst, flag)] } }
        ∧ (s.trans.fences.find? (fun f => f.1 == inst) = none → exec (.iofenceCComplete inst) s = .next s)
        ∧ (bitAt (transReg s inst 0x48) 16 = false → q = s)
        ∧ (bitAt (transReg s inst 0x48) 16 = true → transReg s inst 0x20 % 2 ^ 32 ≠ transReg s inst 0x20 / 2 ^ 32 →
            q = setTransReg s inst 0x20 ((transReg s inst 0x20 % 2 ^ 32 + 1) % 2 ^ (transReg s inst 0x18 % 32 + 1)
              + transReg s inst 0x20 / 2 ^ 32 * 2 ^ 32))
        ∧ (s.trans.fences.find? (fun f => f.1 == inst) = some f → inst = 0 → engHeld s = true →
            exec (.iofenceCComplete inst) s = .next s)
        ∧ (s.trans.fences.find? (fun f => f.1 == inst) = some f → (inst ≠ 0 ∨ engHeld s = false) →
            (f.2 = none → exec (.iofenceCComplete inst) s = .next (done f))
            ∧ (∀ pa, f.2 = some (pa, v) → canon s.map pa = some a → exec (.iofenceCComplete inst) s
                = .next (homeWrite (done f) noCtx 0 false (a / 4 * 4) ((leBytes 4 v.toNat).map fun b => (b, false))))))

/-- Region attribute commands check whole and apply whole; offload streams enable, refuse and count their shortfall. -/
def Obligations.RegionAttributesAndOffloadStreams : Prop :=
  ∀ (s : State) (w1 : W64) (r home st carried kind : Nat) (zero demand : Bool) (l : List Nat),
    let c := s.attrCmd
    let f := w1 &&& 0x7FFFFFFFFFFFFFFF
    let k := offKey home st
    let o := sget {} s.offload k
    let offl (v : Offload) : State := { s with offload := sset {} s.offload k v }
    (c.busy = true ∨ bitAt w1.toNat 63 = false → exec (.regionAttrGo w1) s = .next { s with attrCmd := { c with w1 := f } })
    ∧ (c.busy = false → bitAt w1.toNat 63 = true →
        (attrCheck s c.w0 f = .error r → exec (.regionAttrGo w1) s
          = .next { s with attrCmd := { c with w1 := f, result := r, done := 0 } })
        ∧ (attrCheck s c.w0 f = .ok l → exec (.regionAttrGo w1) s
          = .next { s with attrCmd := { c with w1 := f, run := (c.w0, f), busy := true, result := 0, done := 0 } }))
    ∧ (c.busy = false → exec (.regionAttrDone) s = .next s)
    ∧ (c.busy = true →
        let u := attrRun c.run.2.toNat ((attrLeft s.map c).take 1) s
        exec (.regionAttrDone) s = .next (settleHarn (if (attrLeft u.map u.attrCmd).isEmpty
          then { u with attrCmd := { u.attrCmd with busy := false, result := 0 } } else u)))
    ∧ (c.busy = true → attrRegions s.map (attrBase c.run.1) (attrCount c.run.2) = .ok l → attrLeft s.map c = l.drop c.done)
    ∧ (let w := c.run.2.toNat
       attrRun w [] s = s ∧ (regionOpen s r = true → attrRun w (r :: l) s = s)
       ∧ (regionOpen s r = false → attrRun w (r :: l) s = attrRun w l (let u := attrApply s (bits w 22 21) (bitAt w 23) r
            { u with attrCmd := { u.attrCmd with done := u.attrCmd.done + 1 } })))
    ∧ (∃ u : State, attrApply s kind zero r = { u with mem := { u.mem with
        attr := sset 0 u.mem.attr r (kind + if zero then 0 else sget 0 u.mem.attr r / 4 % 2 * 4) } })
    ∧ (bitAt w1.toNat 63 = false → exec (.offloadStreamEnable home st w1) s
        = .next (offl { o with ctl := (w1 &&& 0xBFFFFFFFFFFFFFFF) ||| (o.ctl &&& 0x4000000000000000) }))
    ∧ (bitAt w1.toNat 63 = true → bits w1.toNat 20 0 = 0 ∨ 1048576 < bits w1.toNat 20 0 →
        exec (.offloadStreamEnable home st w1) s = .next
          (offl { o with ctl := ((w1 &&& 0xBFFFFFFFFFFFFFFF) &&& 0x7FFFFFFFFFFFFFFF) ||| 0x4000000000000000 }))
    ∧ (let got := min carried (o.bytes - o.mark).toNat
       exec (.offloadShortInterval home st carried demand) s = .next (offl { o with
        mark := o.mark + BitVec.ofNat 64 got,
        short := o.short + (if bitAt o.ctl.toNat 63 = true ∧ demand = true ∧ got < bits o.ctl.toNat 30 21 * 1000
          then 1 else 0) }))

/-- A store at a home writes exactly its bytes: every other byte reads as before, and poison follows R223 to R226. -/
def Obligations.MemoryStoresExactlyItsBytes : Prop :=
  ∀ (m : Mem) (a b i : Nat) (d : List PByte),
    let n := memWrite m a d
    (b < a ∨ a + d.length ≤ b → sget 0 n.bytes b = sget 0 m.bytes b)
    ∧ (m.wf = true → i < d.length → sget 0 n.bytes (a + i) = (d.getD i (0, false)).1)
    ∧ (d.any Prod.snd = false → d.length ≠ 64 → n.poison = m.poison ∧ n.attr = m.attr)
    ∧ (d.any Prod.snd = false → d.length = 64 → n.poison = sset false m.poison (a / 64) false ∧ n.attr = m.attr)
    ∧ (d.any Prod.snd = true → isLpHome (homeOf a) = false →
        n.poison = sset false m.poison (a / 64) true ∧ n.attr = m.attr
        ∧ (sget false n.poison (a / 64) = true) ∧ ∀ g, g ≠ a / 64 → sget false n.poison g = sget false m.poison g)
    ∧ n.dirty = sset false m.dirty (a / mib2) true ∧ n.dirtyOld = m.dirtyOld

/-- A cache hit is served in the cache; a miss or uncached access is a request that opens, waits, is refused or held. -/
def Obligations.HarnessRequestsAtTheHome : Prop :=
  ∀ (s : State) (agent pa a n w op core : Nat) (d : List PByte) (b : List Byte) (v : W64) (act : CoreAct) (c : CLine) (q : Req)
      (x : ReqData) (o err : Bool),
    let line := a / 64
    let fault : State := { s with harn := { s.harn with replies := s.harn.replies ++ [.fault agent pa] } }
    let sends (t : State) (q : Req) (x : ReqData) : Host.Outcome State Fault Refusal := .next (sendReq t agent line q x false)
    let same (y : Credit) : Bool := y.agent == agent && y.line == line && y.req == q && y.data == x
    let heldAs (y : Held) : Bool := y.agent == agent && y.line == line && y.req == q && y.data == x
    let kept : Held := { home := homeOf (line * 64), num := 0, ordered := o, agent := agent, line := line, req := q, data := x }
    let may := actFits a act = true ∧ (isHost agent = true ∨ walkerAct act = true)
    (powered s = true → canon s.map pa = none →
        exec (.rs agent pa core err) s = .next fault ∧ exec (.ru agent pa ⟨core, act, false, err⟩) s = .next fault
        ∧ exec (.upg agent pa ⟨core, act⟩) s = .next fault ∧ exec (.rnc agent pa n ⟨none, err⟩) s = .next fault
        ∧ exec (.wnc agent pa d ⟨false, none⟩) s = .next fault ∧ exec (.anc agent pa w op ⟨v, err⟩) s = .next fault)
    ∧ (powered s = true → canon s.map pa = some a →
        (mayCache s agent a = true →
          (cached s agent line = some c → isHost agent = false → exec (.rs agent pa core err) s
            = .next (modHarn s fun h => { h with replies := h.replies ++ [.data agent pa (c.data.map fun b => (b, c.poison))] }))
          ∧ (cached s agent line = some c → exec (.rs agent pa core err) s = .next (loadLine s agent line core pa))
          ∧ (cached s agent line = none → exec (.rs agent pa core err) s = sends (readMeets s err a) .rs (.act core pa .none))
          ∧ (may → cached s agent line = none →
            exec (.ru agent pa ⟨core, act, false, err⟩) s = sends (readMeets s err a) .ru (.act core a act))
          ∧ (may → cached s agent line = some c →
            ((c.st = .m ∨ c.st = .e) → exec (.ru agent pa ⟨core, act, false, err⟩) s
              = .next (settleHarn (useLine (setCached s agent line (some { c with st := .m })) agent line core a act)))
            ∧ ((c.st = .s ∨ c.st = .o) → exec (.ru agent pa ⟨core, act, false, err⟩) s = sends s .upg (.act core a act)
              ∧ exec (.upg agent pa ⟨core, act⟩) s = sends s .upg (.act core a act))))
        ∧ (mayCache s agent a = false →
          exec (.rs agent pa core err) s = sends (readMeets s err a) .rnc (.act core pa .none)
          ∧ (may → exec (.ru agent pa ⟨core, act, false, err⟩) s = .next (uncachedAct s agent pa a act)
            ∧ exec (.upg agent pa ⟨core, act⟩) s = .next (uncachedAct s agent pa a act)))
        ∧ (may → exec (.ru agent pa ⟨core, act, true, err⟩) s = .next (uncachedAct s agent pa a act))
        ∧ ((actFits a act = false ∨ isHost agent = false ∧ walkerAct act = false) →
          exec (.ru agent pa ⟨core, act, false, err⟩) s = .next s ∧ exec (.upg agent pa ⟨core, act⟩) s = .next s)
        ∧ (a % 64 + n ≤ 64 → exec (.rnc agent pa n ⟨none, err⟩) s = sends (readMeets s err a) .rnc .none)
        ∧ (a % 64 + d.length ≤ 64 → d ≠ [] →
          (writeRefused s a false = true → exec (.wnc agent pa d ⟨false, none⟩) s = .next fault)
          ∧ (writeRefused s a false = false → exec (.wnc agent pa d ⟨false, none⟩) s = sends s .wnc (.write a d false)))
        ∧ (w = 4 ∨ w = 8 → a % w = 0 →
          (attrKind s.mem a = 2 → exec (.anc agent pa w op ⟨v, err⟩) s = .next fault)
          ∧ (attrKind s.mem a ≠ 2 → exec (.anc agent pa w op ⟨v, err⟩) s = sends (readMeets s err a) .anc (.amo a w (amoOf op) v))))
    -- where the line may not be cached
    ∧ ((writeRefused s a false = true → uncachedAct s agent pa a (.store b) = fault)
      ∧ (writeRefused s a false = false →
        uncachedAct s agent pa a (.store b) = sendReq s agent line .wnc (.write a (b.map fun y => (y, false)) false) false)
      ∧ (attrKind s.mem a = 2 → uncachedAct s agent pa a (.amo w op v) = fault)
      ∧ (attrKind s.mem a ≠ 2 → uncachedAct s agent pa a (.amo w op v) = sendReq s agent line .anc (.amo a w (amoOf op) v) false)
      ∧ uncachedAct s agent pa a .lr = fault ∧ uncachedAct s agent pa a (.sc b) = fault)
    -- a store in a line held in M
    ∧ (cached s agent line = some c → isHost agent = false → useLine s agent line core a (.store b)
        = dropResv (setCached s agent line (some { c with
            st := .m, data := c.data.take (a % 64) ++ b ++ c.data.drop (a % 64 + b.length),
            poison := c.poison && decide (b.length < 64) })) line)
    -- the agent, and the home
    ∧ (s.harn.queued.contains kept = true → sendReq s agent line q x o = s)
    ∧ (s.harn.queued.contains kept = false → s.harn.credits.any same = false →
        (maySend s agent line o = true → (o = false ∨ s.harn.queued.any (fun y => y.agent == agent && y.ordered) = false) →
          sendReq s agent line q x o = request s agent line q x)
        ∧ (maySend s agent line o = false →
          sendReq s agent line q x o = { s with harn := { s.harn with queued := s.harn.queued ++ [kept] } }))
    ∧ (8 ≤ outstanding s agent (homeOf (line * 64)) → maySend s agent line o = false)
    ∧ (∀ y, s.harn.credits.find? same = some y → y.granted = false → request s agent line q x = s)
    ∧ (s.harn.credits.find? same = none →
        (s.harn.holds.any heldAs = true → request s agent line q x = s)
        ∧ (s.harn.holds.any heldAs = false →
          (canOpen s line = true → lineBusy s line = false → request s agent line q x = openTxn s agent line q x)
          ∧ (canOpen s line = false ∨ lineBusy s line = true →
            ∃ t, request s agent line q x = t ∧ t = { s with harn := t.harn, hcnt := t.hcnt }
            ∧ (creditMode s.map (homeOf (line * 64)) = true → t.hcnt.dirRetries = s.hcnt.dirRetries + 1
              ∧ t.harn.holds = s.harn.holds ∧ t.harn.msgs = s.harn.msgs ++ [.retry line agent s.harn.nextId])
            ∧ (creditMode s.map (homeOf (line * 64)) = false → t.hcnt.dirHolds = s.hcnt.dirHolds + 1
              ∧ t.harn.credits = s.harn.credits ∧ t.harn.msgs = s.harn.msgs))))
    ∧ ((∀ t ∈ s.harn.txns, t.id ≠ s.harn.nextId) → ownerOf s line = none →
        (openTxn s agent line .wnc (.write a d false)).mem = memWrite s.mem a d)

/-- Forwards, invalidations, data, grants and evictions as they arrive; credits granted and lapsed; lost caches and directory errors. -/
def Obligations.HarnessMessagesCreditsAndFailures : Prop :=
  (∀ (s : State) (agent pa a id core : Nat) (iv sd : Bool) (st : Moesi) (m : HMsg) (t : Txn) (c : CLine) (e : DirEnt),
      let line := a / 64
      let take (m : HMsg) : State := { s with harn := { s.harn with msgs := s.harn.msgs.erase m } }
      let sent (u : State) (m : HMsg) : State := { u with harn := { u.harn with msgs := u.harn.msgs ++ [m] } }
      let isF (m : HMsg) : Bool := match m with | .forward _ l x _ _ => l == line && x == agent | _ => false
      let isI (m : HMsg) : Bool := match m with | .inval _ l x => l == line && x == agent | _ => false
      let isA (m : HMsg) : Bool := match m with | .invAck _ l x => l == line && x == agent | _ => false
      let isD (m : HMsg) : Bool := match m with | .data _ l x => l == line && x == agent | _ => false
      let isC (m : HMsg) : Bool := match m with | .compAck _ l x => l == line && x == agent | _ => false
      let isR (m : HMsg) : Bool := match m with | .retry l x _ => l == line && x == agent | _ => false
      let txn (id : Nat) : Option Txn := s.harn.txns.find? fun t => t.id == id
      canon s.map pa = some a →
      (s.harn.msgs.find? isF = some (.forward id line agent iv sd) →
          (lrHolds s agent line = false → exec (.forward agent pa) s
            = .next (finishLost (serveForward (take (.forward id line agent iv sd)) id line agent iv sd) id))
          ∧ (lrHolds s agent line = true → exec (.forward agent pa) s
            = .next (modHarn (take (.forward id line agent iv sd)) fun h =>
                { h with deferred := h.deferred ++ [.forward id line agent iv sd] })))
      ∧ (s.harn.msgs.find? isI = some (.inval id line agent) →
          (lrHolds s agent line = false → exec (.invalidation agent pa) s
            = .next (sent (dropCopy (take (.inval id line agent)) agent line) (.invAck id line agent)))
          ∧ (lrHolds s agent line = true → exec (.invalidation agent pa) s
            = .next (modHarn (take (.inval id line agent)) fun h => { h with deferred := h.deferred ++ [.inval id line agent] })))
      ∧ (s.harn.msgs.find? isI = none → lrHolds s agent line = false →
          s.harn.pendInv.any (fun p => p.line == line && p.agent == agent && !p.hit) = true →
          exec (.invalidation agent pa) s = .next (modHarn (dropCopy s agent line) fun h =>
            { h with pendInv := h.pendInv.map fun p => if p.line = line ∧ p.agent = agent then { p with hit := true } else p }))
      ∧ (s.harn.msgs.find? isA = some (.invAck id line agent) → txn id = some t → exec (.invalidationAck agent pa) s
          = .next (finishLost (progress (setTxn (take (.invAck id line agent)) { t with acks := t.acks.erase agent }) id) id))
      ∧ (s.harn.msgs.find? isA = none → exec (.invalidationAck agent pa) s = .next (settleHarn (modHarn s fun h =>
          { h with pendInv := h.pendInv.filter fun p => !(p.line == line && p.agent == agent && p.hit) })))
      ∧ (s.harn.msgs.find? isD = some (.data id line agent) → txn id = some t → exec (.dataResponse agent pa) s
          = .next (sent (deliver (take (.data id line agent)) t) (.compAck id line agent)))
      ∧ (s.harn.msgs.find? isC = some (.compAck id line agent) → txn id = some t → t.acks = [] →
          exec (.completionAck agent pa) s = .next (closeTxn (take (.compAck id line agent)) t))
      ∧ (s.harn.msgs.find? isR = some m → exec (.retry agent pa) s = .next (take m))
      ∧ (cached s agent line = some c → lineOpen s line = false →
          (c.st = .m → exec (.putm agent pa) s = .next (evictLine s agent line))
          ∧ (c.st = .o → exec (.puto agent pa) s = .next (evictLine s agent line))
          ∧ (c.st = .e ∨ c.st = .s → exec (.pute agent pa) s = .next (evictLine s agent line))
          ∧ (c.st = .s → evictLine s agent line = dropCopy s agent line)
          ∧ (c.st ≠ .s → evictLine s agent line = modHarn (dropCopy s agent line) fun h => { h with
              puts := h.puts ++ [(agent, line, c.st)],
              wb := if c.st = .m ∨ c.st = .o then sset none h.wb (ckey agent line) (some c) else h.wb }))
      ∧ (cached s agent line = none ∨ lineOpen s line = true → exec (.putm agent pa) s = .next s ∧ exec (.puto agent pa) s = .next s
          ∧ exec (.pute agent pa) s = .next s)
      ∧ (s.harn.puts.find? (fun p => p.1 == agent && p.2.1 == line) = some (agent, line, st) →
          exec (.putAck agent pa) s = .next (settleHarn (modHarn (handlePut s agent line st) fun h =>
            { h with puts := h.puts.erase (agent, line, st), wb := sset none h.wb (ckey agent line) none })))
      ∧ (ownerOf s line ≠ some agent → handlePut s agent line st = s)
      ∧ (ownerOf s line = some agent → dirEnt s line = some e → st ≠ .e → sget none s.harn.wb (ckey agent line) = some c →
          handlePut s agent line st = setDir { s with mem := memWrite s.mem (line * 64) (c.data.map fun b => (b, c.poison)) } line
            (if e.csharers = 0 ∧ e.hsharers = 0 ∧ !e.openTx then none else some { e with dstate := .s, owner := 127 }))
      ∧ (s.harn.deferred = [] → exec (.lrDeferEnd core) s
          = .next (settleHarn (modHarn s fun h => { h with lrDefer := sset 0 h.lrDefer core 0, deferred := [] })))
      ∧ (agentOfCore core = agent → s.harn.deferred = [.inval id line agent] →
          lrHolds (modHarn s fun h => { h with lrDefer := sset 0 h.lrDefer core 0 }) agent line = false →
          exec (.lrDeferEnd core) s = .next (settleHarn (sent (dropCopy (modHarn s fun h =>
            { h with lrDefer := sset 0 h.lrDefer core 0, deferred := [] }) agent line) (.invAck id line agent)))))
  ∧ (∀ (s : State) (home num agent pa a set : Nat) (lines engines : List Nat) (c : Credit) (e : DirEnt) (r : Nat × Nat × List Nat),
        let can (c : Credit) : Bool := c.home == home && !c.granted && canOpen s c.line && !waitsBefore s c.line c.num
        let inSet (l : Nat) : Bool := homeOf (l * 64) == home && dirSet l == set
        let awaited := s.harn.txns.any (fun t => t.line == a / 64 && (t.fwd == some agent || t.acks.contains agent))
          || s.harn.pendInv.any fun p => p.line == a / 64 && p.agent == agent
        (s.harn.credits.find? can = some c → exec (.grant home) s = .next (modHarn s fun h =>
            { h with credits := h.credits.map fun d => if d = c then { d with granted := true } else d }))
        ∧ (s.harn.credits.find? can = none → exec (.grant home) s = .next s)
        ∧ exec (.release home num agent) s = .next (settleHarn (modHarn s fun h =>
            { h with credits := h.credits.filter fun c => !(c.home == home && c.num == num && c.agent == agent && c.granted) }))
        ∧ (s.harn.credits.any (fun c => c.home == home && c.num == num && c.granted) = true →
            exec (.creditLapse home num) s = exec (.grant home) (settleHarn { s with
              harn := { s.harn with credits := s.harn.credits.filter fun c => !(c.home == home && c.num == num) },
              hcnt := { s.hcnt with creditLapses := s.hcnt.creditLapses + 1 } }))
        ∧ (s.harn.credits.any (fun c => c.home == home && c.num == num && c.granted) = false →
            exec (.creditLapse home num) s = .next s)
        ∧ (canon s.map pa = some a →
            (awaited = true → exec (.harnessAckTimeout agent ⟨pa, lines, engines⟩) s
              = .next (reportUnit (note s 5 1 3 10 (homeOf a) [BitVec.ofNat 64 agent, BitVec.ofNat 64 a]) (dieOfAgent agent)
                  { resetOk := true, lines := lines, engines := engines }))
            ∧ (awaited = false → exec (.harnessAckTimeout agent ⟨pa, lines, engines⟩) s = .next s))
        ∧ (s.harn.dir = [] → s.harn.txns = [] → s.harn.holds = [] → s.harn.queued = [] →
            ∃ t, exec (.cacheAgentLost agent) s = .next t ∧ t = { s with harn := t.harn, gens := t.gens }
            ∧ (∀ e ∈ t.harn.lines, e.1 / 2 ^ 38 ≠ agent) ∧ (∀ e ∈ t.harn.wb, e.1 / 2 ^ 38 ≠ agent)
            ∧ (∀ k ∈ t.harn.credits, k.agent ≠ agent) ∧ (∀ k ∈ t.harn.holds, k.agent ≠ agent) ∧ (∀ k ∈ t.harn.puts, k.1 ≠ agent)
            ∧ (∀ k ∈ t.harn.pendInv, k.agent ≠ agent) ∧ (∀ k ∈ t.harn.recalls, agent ∉ k.2.2))
        ∧ (canon s.map pa = some a → dirEnt s (a / 64) = some e →
            exec (.dirUncorrectableError home ⟨set, some pa, lines, engines⟩) s = .next (setDir
              { s with hcnt := { s.hcnt with dirEntryErrors := s.hcnt.dirEntryErrors + 1 } } (a / 64) (some { e with eccMark := true })))
        ∧ (sget false s.harn.hwPending home = false → exec (.dirUncorrectableError home ⟨set, none, lines, engines⟩) s
            = .next (dirUncorrectable (note s 5 3 2 10 home [BitVec.ofNat 64 set]) home set))
        ∧ (sget false s.harn.hwPending home = true → exec (.dirUncorrectableError home ⟨set, none, lines, engines⟩) s
            = .next (reportUnit (dirUncorrectable (note s 5 4 5 10 home [BitVec.ofNat 64 set]) home set) (dieOfUnit (10, home))
                { resetOk := true, lines := lines, engines := engines }))
        ∧ (let t := dirUncorrectable s home set
           t.harn.recalls = s.harn.recalls ++ [(home, set, trackedAgents s.map home)]
            ∧ t.harn.hwPending = sset false s.harn.hwPending home true
            ∧ t.harn.txns = s.harn.txns.filter fun t => !(inSet t.line && !t.granted))
        ∧ (s.harn.recalls.find? (fun r => r.1 == home && r.2.1 == set && r.2.2.contains agent) = none →
            exec (.setRecall agent home set) s = .next s)
        ∧ (s.harn.recalls.find? (fun r => r.1 == home && r.2.1 == set && r.2.2.contains agent) = some r →
            let of (m : SMap (Option CLine)) : List Nat :=
              (m.filter fun e => e.1 / 2 ^ 38 == agent && inSet (e.1 % 2 ^ 38)).map fun e => e.1 % 2 ^ 38
            let mine := (of s.harn.lines ++ of s.harn.wb).eraseDups
            (mine.any (lrHolds s agent) = true → exec (.setRecall agent home set) s = .next s)
            ∧ (mine.any (lrHolds s agent) = false → (r.2.2.filter fun x => x != agent) ≠ [] →
              exec (.setRecall agent home set) s
              = .next (modHarn (mine.foldl (fun t l => dropCopy (writeBack t agent l) agent l) s) fun h =>
                { h with
                  wb := h.wb.filter fun e => !(e.1 / 2 ^ 38 == agent && inSet (e.1 % 2 ^ 38)),
                  puts := h.puts.filter fun p => !(p.1 == agent && inSet p.2.1),
                  recalls := h.recalls.map fun x =>
                    if x.1 = home ∧ x.2.1 = set then (home, set, r.2.2.filter fun x => x != agent) else x }))))

/-- Open, contribution, DONE, close, apply, refusal, unit fault and early retry of combine regions. -/
def Obligations.CombineRegionCommands : Prop :=
  ∀ (s t : State) (pa a type epoch idx owner home i ge : Nat) (words : List W64) (mask : List Bool) (d : List PByte) (l : CmbEls) (c : CmbEntry) (r : RelayHeld)
      (rest : List (Option Nat × RelayHeld)),
    let back (u : State) (src : Option Nat) (r : RelayHeld) : State :=
      { u with cmb := { u.cmb with refusals := u.cmb.refusals ++ [(src, r)] } }
    let msg (type : Nat) (done late : Bool) (d : List PByte) : RelayHeld :=
      { pa := a, contrib := idx, epoch := epoch, type := type, done := done, data := d, mask := if done then [] else mask, late := late }
    let put (c : CmbEntry) : State := setCmb s (homeOf a) i c
    -- open
    (cmbReserved words = true → engineOfCtx s owner = none → exec (.combineOpen home words owner) s = .next s)
    ∧ (cmbReserved words = false → words.length = 8 → s.attrCmd.busy = false →
        (cmbOpen s home (cmbOfWords words owner) = (.accepted, t) →
          exec (.combineOpen home words owner) s = .next (regionOpened t))
        ∧ (cmbOpenBad s home (cmbOfWords words owner) = true → engineOfCtx s owner = none →
          exec (.combineOpen home words owner) s = .next s))
    -- contribution and DONE
    ∧ (canon s.map pa = some a → cmbFind s a = none →
        exec (.combineContribution pa type epoch idx ⟨mask, d⟩ (some ge)) s = .next (back s (some ge) (msg type false false d))
        ∧ exec (.combineDone pa epoch idx (some ge)) s = .next (back s (some ge) (msg 0 true false [])))
    ∧ (canon s.map pa = some a → cmbFind s a = some (i, c) →
        (cmbEls c mask d = some l → type = contribType c → idx < c.expected → a % elemBytes c.elem = 0 →
            a + l.length * elemBytes c.elem ≤ c.base + c.size * 64 → c.state = .opened → epoch = c.epoch →
          exec (.combineContribution pa type epoch idx ⟨mask, d⟩ (some ge)) s = .next
            (((elsByGranule (elemBytes c.elem) l.length a l).filter fun x => x.2.any Option.isSome).foldl (fun t x =>
              if c.ordered then cmbStage t (homeOf a) i idx x.1 x.2 else cmbArrive t (homeOf a) i x.1 x.2) s))
        ∧ (cmbEls c mask d = none ∨ type ≠ contribType c ∨ c.expected ≤ idx ∨ a % elemBytes c.elem ≠ 0 →
          exec (.combineContribution pa type epoch idx ⟨mask, d⟩ (some ge)) s = .next (back s (some ge) (msg type false false d)))
        ∧ (cmbMasked s a mask d type epoch idx false = (.late, t) →
          exec (.combineContribution pa type epoch idx ⟨mask, d⟩ (some ge)) s = .next (back t (some ge) (msg type false true d))
          ∧ t = put { c with lateCount := satInc 65535 c.lateCount })
        ∧ (c.epoch < epoch → exec (.combineDone pa epoch idx (some ge)) s = .next (back s (some ge) (msg 0 true false [])))
        ∧ (c.state = .opened → epoch = c.epoch → idx < c.expected →
          (bitAt c.done idx = true →
            exec (.combineDone pa epoch idx (some ge)) s = .next (teamClose (put { c with duplicate := true }) a))
          ∧ (bitAt c.done idx = false → exec (.combineDone pa epoch idx (some ge)) s
            = .next (teamClose (let u := put { c with done := setBit c.done idx, doneCount := c.doneCount + 1 }
                if c.doneCount + 1 ≥ c.expected then cmbClose u (homeOf a) i else u) a)))
        -- close and apply
        ∧ (c.owner = owner → exec (.combineClose pa (some owner)) s = .next (cmbClose s (homeOf a) i))
        ∧ (c.owner ≠ owner → engineOfCtx s owner = none → exec (.combineClose pa (some owner)) s = .next s)
        ∧ (cmbEnt s (homeOf a) i = c → c.state = .opened → cmbClose s (homeOf a) i
            = put { c with state := .applying, forced := c.forced || decide (c.doneCount < c.expected) })
        ∧ (c.state ≠ .applying → exec (.combineApplyComplete pa) s = .next s)
        ∧ (cmbEnt s (homeOf a) i = c → c.state = .applying → c.ordered = false → c.flagAddr = 0 →
          exec (.combineApplyComplete pa) s = .next (regionClosed (setCmb
            { s with cmb := { s.cmb with closes := s.cmb.closes + 1 } } (homeOf a) i
            { c with state := .closed, closedAt := s.cmb.closes + 1 }) c.base)))
    -- refusals and faults
    ∧ (s.cmb.refusals = [] → exec .combineRefusal s = .next s)
    ∧ (s.cmb.refusals = (some ge, r) :: rest → exec .combineRefusal s
        = .next (raiseSeq { s with cmb := { s.cmb with refusals := rest } } ge 0x2A { pc := (eng s ge).seq.pc, stamp := 0 } r.pa))
    ∧ (s.cmb.refusals = (none, r) :: rest → r.late = false → exec .combineRefusal s
        = .next { s with cmb := { s.cmb with refusals := rest, relayHeld := s.cmb.relayHeld ++ [r] } })
    ∧ ((cmbInUse s home).filter (fun e => cmbBusy e.2) = [] → exec (.combineUnitFault home) s
        = .next (note { s with cmb := { s.cmb with hwPending := sset false s.cmb.hwPending home true } } 4 1
            (if sget false s.cmb.hwPending home then 5 else 4) 10 home []))
    ∧ (s.cmb.relayHeld.find? (fun r => !r.late) = none → exec .earlyRetry s = .next s)
    ∧ (s.cmb.relayHeld.find? (fun r => !r.late) = some r → r.done = false →
        cmbMasked { s with cmb := { s.cmb with relayHeld := s.cmb.relayHeld.erase r } } r.pa r.mask r.data r.type r.epoch
          r.contrib true = (.accepted, t) → exec .earlyRetry s = .next t)

/-- The six Relay instructions: their refusals before anything is sent, and what each leaves when it completes. -/
def Obligations.RelayInstructionsIssueOrRefuse : Prop :=
  ∀ (s s2 s3 : State) (ge ds dd ra rb : Nat) (imm : W32) (b : List PByte) (l : List (List PByte)),
    let e := eng s ge
    let u := issuedAs s ge id
    let g : Tag := { pc := e.seq.pc, stamp := s.stamp }
    let n := imm.toNat
    let key := (rdS e ra).toNat
    let D := rdD e dd
    let S := rdD e ds
    let ctx := e.seq.context
    let refuse (v : State) (c : Nat) (addr : Nat) : State := raise v ge 3 0 c e.seq.pc (BitVec.ofNat 64 addr)
    let team := noTeam u = false
    let room := e.units.rly.length < 256 ∧ fenceHolds s ctx s.stamp = false
    let aligned (d : List W64) := tensorMisaligned (issued e) d = false
    let cb := (chunk 8 64 (b.map Prod.fst)).map fun w => BitVec.ofNat 64 (leNat w)
    let VA := key % 2 ^ 57
    let rows := (List.range n).map fun i => spadNat (view (issued e) uRly s.stamp) (dBase D + i) 1
    let h := b.map Prod.fst
    (room → ready s ge [ra, rb] = true →
      -- rly.dispatch
      (n = 0 ∨ 65535 < n → exec (.rlyDispatch ge ds dd ra rb imm) s = .next (refuse u 0x20 0))
      ∧ (n ≠ 0 → n ≤ 65535 →
        (noTeam u = true → exec (.rlyDispatch ge ds dd ra rb imm) s = .next (refuse u 0x24 0))
        ∧ (team → dReserved D = false → dSpace D ≤ 1 → dReserved S = false → dSpace S ≤ 1 →
          actBad (issued e) (rdD e ((rdS e rb).toNat % 16)) = none → uReadSpace u ge ctx s.stamp (dSpace D) (dBase D) 64 = (.ok b, s2) →
          (cbBad cb = true → exec (.rlyDispatch ge ds dd ra rb imm) s = .next (refuse s2 0x22 (dBase D)))
          ∧ (cbBad cb = false → exec (.rlyDispatch ge ds dd ra rb imm) s
            = .next (startDispatch s2 ge g cb (rdD e ((rdS e rb).toNat % 16)) (dSpace S) (dBase S) n (bits key 19 0)))))
      -- rly.send, outside GRAD
      ∧ (keyBad key = true → exec (.rlySend ge ds ra rb imm) s = .next (refuse u 0x20 0)
          ∧ exec (.rlyPostrx ge dd ra rb imm) s = .next (refuse u 0x20 0))
      ∧ (keyBad key = false → keyClass key ≠ 2 → imm = 0 →
        (rdS e rb = 0 → noTeam u = true → exec (.rlySend ge ds ra rb imm) s = .next (refuse u 0x24 0))
        ∧ (rdS e rb = 0 → team → keyPeer key < teamSize u → dReserved S = false → dSpace S ≤ 1 → dExt0 S ≠ 0 → dExt1 S ≠ 0 →
          aligned S → uReadAll u ge ctx s.stamp (dSpace S) (dRows S) = (.ok l, s2) → unreachable s2 (keyPeer key) (keyClass key) = false →
          exec (.rlySend ge ds ra rb imm) s = .next (queueMsg (newOp s2 ge (curStep s2) 1 true false).2 (keyPeer key) (keyClass key)
            { id := 0, op := some s2.rly.nextId, tcls := keyTensor key, step := curStep s2, data := l.flatten, bundle := none,
              body := .plain }))
        -- rly.postrx into the scratchpad
        ∧ (noTeam u = true → exec (.rlyPostrx ge dd ra rb imm) s = .next (refuse u 0x24 0))
        ∧ (team → dReserved D = false → dSpace D = 0 → dExt0 D ≠ 0 → dExt1 D ≠ 0 → aligned D → (keyClass key = 0 → 5120 ≤ dExt0 D) →
          rowsInSpad (issued e) (dRows D) = none →
          let o := (newOp u ge (curStep u) (dRows D).length false true).2
          exec (.rlyPostrx ge dd ra rb imm) s = .next (offerCredits { o with rly := { o.rly with
              nextId := o.rly.nextId + 1,
              posts := o.rly.posts ++ [{
                id := o.rly.nextId, op := u.rly.nextId, ge := ge, ctx := ctx, pc := e.seq.pc, peer := keyPeer key,
                cls := keyClass key, tcls := keyTensor key, spad := true, bufs := (dRows D).map Prod.fst,
                left := (dRows D).length, size := dExt0 D, flag := (rdS e rb).toNat % 2 ^ 57, region := 0,
                ctype := contribType {}, widen := false }] } } (keyClass key)))))
    ∧ (room → ready s ge [ra] = true →
      -- rly.return
      (64 < n → exec (.rlyReturn ge ds dd ra imm) s = .next (refuse u 0x20 0))
      ∧ (n ≤ 64 →
        (noTeam u = true → exec (.rlyReturn ge ds dd ra imm) s = .next (refuse u 0x24 0))
        ∧ (team → dReserved S = false → dSpace S ≤ 1 → dExt0 S ≠ 0 → dExt0 S % 2 = 0 → dReserved D = false → dSpace D = 0 →
          dBase D % 64 = 0 → aligned S → spadOk (issued e) (dBase D) 64 = true →
          uReadSpace u ge ctx s.stamp (if VA < 2 ^ 22 then 0 else 1) VA 576 = (.ok b, s2) →
          ((hdBad h || rows.any fun r => decide (hdRows h ≤ r)) = true →
            exec (.rlyReturn ge ds dd ra imm) s = .next (refuse s2 0x25 VA))
          ∧ ((hdBad h || rows.any fun r => decide (hdRows h ≤ r)) = false →
            uReadAll s2 ge ctx s.stamp (dSpace S)
              (rows.map fun (r : Nat) => (addrAt (dBase S) ((r : Int) * dStride1 S), dExt0 S)) = (.ok l, s3) →
            unreachable s3 (hdSender h) 1 = false →
            exec (.rlyReturn ge ds dd ra imm) s = .next (queueMsg (newOp s3 ge (hdStep h) 1 true false).2 (hdSender h) 1
              { id := 0, op := some s3.rly.nextId, tcls := 0, step := hdStep h, body := .plain, bundle := none,
                data := (rowHeader (hdBundle h) (hdStep h) (hdEntry h) (selfNo s3) n 0 (rows.map (hdRef h))).map
                  (fun x => (x, false)) ++ l.flatten }))))
      -- rly.stepflags and rly.cancelrx
      ∧ ((n ||| 0x12A) ≠ 0x12A → exec (.rlyStepflags ge ra imm) s = .next (refuse u 0x20 0))
      ∧ ((n ||| 0x12A) = 0x12A → team → exec (.rlyStepflags ge ra imm) s
          = .next (modStep (startStep u (key % 2 ^ 32)) (key % 2 ^ 32) fun x =>
            let ovf := bitAt n 3 && (issued e).chain.ovf
            { x with
              ovf := x.ovf || ovf, halve := x.halve || ovf, inv := x.inv || (bitAt n 1 && (issued e).chain.inv),
              poison := x.poison || (bitAt n 5 && (issued e).chain.poison),
              ended := if bitAt n 8 && !x.ended.contains ctx then x.ended ++ [ctx] else x.ended }))
      ∧ (keyBad key = true ∨ imm ≠ 0 → exec (.rlyCancelrx ge ra imm) s = .next (refuse u 0x20 0))
      ∧ (keyBad key = false → imm = 0 → team → exec (.rlyCancelrx ge ra imm) s = .next ((u.rly.posts.filter fun p =>
          p.ctx == ctx && p.peer == keyPeer key && p.cls == keyClass key && p.tcls == keyTensor key).foldl cancelPost u)))
    ∧ (256 ≤ e.units.rly.length ∨ fenceHolds s ctx s.stamp = true →
        exec (.rlyDispatch ge ds dd ra rb imm) s = .next s ∧ exec (.rlySend ge ds ra rb imm) s = .next s
        ∧ exec (.rlyPostrx ge dd ra rb imm) s = .next s ∧ exec (.rlyReturn ge ds dd ra imm) s = .next s
        ∧ exec (.rlyStepflags ge ra imm) s = .next s ∧ exec (.rlyCancelrx ge ra imm) s = .next s)

/-- Every frame passes the tag and form checks first; DATA lands once, ACK, NACK and CREDIT act on the sender's side. -/
def Obligations.FramesOfDataFlowAreGatedThenLand : Prop :=
  ∀ (s : State) (a : Arrival) (f : RFrame) (h : StepHdr) (now cum map reason msgs : Nat) (limit : Option Nat)
      (done pairs : List (Nat × Nat)),
    let k := f.dst
    let good (type : Nat) : Prop := staleTag s 9 a.port a.gen = false ∧ frameBad s a f type = false
    let all : List (Nat × Instr) := [
      (0, .frameData a f), (1, .frameAck a f), (2, .frameNack a f now), (3, .frameCredit a f), (4, .frameOpen a f),
      (5, .frameOpenAck a f), (6, .frameOpenNack a f), (7, .frameClose a f), (8, .frameProbe a f), (9, .frameProbeAck a f)]
    let r := srx s k
    let x := strm s k
    let e := sget 0 r.pathSeq f.path
    let seen := modSrx s k fun y => { y with pathSeq := sset 0 y.pathSeq f.path (e + 1), tstamp := f.tstamp }
    let t := landFrame (seeHeader seen h) k f h.step
    let l := f.psn :: r.have_
    let c := (List.range 257).foldl (fun c _ => if l.contains c then c + 1 else c) r.cum
    let named (p : Pkt) : Bool := pairs.any fun q => q.1 == p.path && q.2 == p.pathSeq
    let again := modStrm s k fun y => { y with unacked := y.unacked.map fun p => if named p then { p with resend := true } else p }
    (∀ p ∈ all,
      (staleTag s 9 a.port a.gen = true → exec p.2 s = .next { s with gens := { s.gens with stale := s.gens.stale + 1 } })
      ∧ (staleTag s 9 a.port a.gen = false → frameBad s a f p.1 = true → exec p.2 s
        = .next { s with rly := { s.rly with cnt := { s.rly.cnt with framesDiscarded := s.rly.cnt.framesDiscarded + 1 } } }))
    ∧ (good 0 → f.step = some h → frameStream s a f = true → x.cls = f.cls → x.st = .opened →
      (∀ n, digestFault s h = some n → exec (.frameData a f) s = .next (refuseDigest s k n h))
      ∧ (digestFault s h = none → f.pathSeq = e →
        (f.psn < r.cum ∨ r.have_.contains f.psn = true → exec (.frameData a f) s = .next (sendAck seen k))
        ∧ (r.cum ≤ f.psn → r.have_.contains f.psn = false → f.psn < r.cum + 256 → f.body = .plain →
          (msgClass x.cls = true → 0 < r.granted) → (msgClass x.cls = false → f.psn < r.limit) →
          exec (.frameData a f) s = .next (ackDue (recordPsn t k f.psn) k)
          ∧ (tookPsn r f.psn).cum = c ∧ (tookPsn r f.psn).have_ = l.filter fun p => decide (c ≤ p))))
    ∧ (good 1 → frameStream s a f = true → f.body = .ack cum map done → exec (.frameAck a f) s
        = .next (ackStream s k cum map done (if a.ce then some f.path else none)))
    ∧ (good 2 → frameStream s a f = true → f.body = .nack reason pairs → reason ≤ 4 → pairs.length ≤ 16 →
        exec (.frameNack a f now) s = .next (nackStream s k reason pairs now)
        ∧ (reason = 4 → exec (.frameNack a f now) s = .next again)
        ∧ (reason = 0 → exec (.frameNack a f now) s = .next (((x.unacked.filter fun p => named p && !p.resend).map
          fun p => p.path).foldl (fun t i => pathLoss t k i now) again))
        ∧ (reason = 1 ∨ reason = 2 → x.st = .opened → exec (.frameNack a f now) s
          = .next (modStrm s k fun y => { y with st := .mismatch })))
    ∧ (good 3 → frameStream s a f = true → f.body = .credit limit msgs 0 → exec (.frameCredit a f) s
        = .next (modStrm s k fun y => { y with
          limit := max y.limit (limit.getD 0), msgCredits := y.msgCredits + msgs,
          demanded := if msgs = 0 then y.demanded else false }))

/-- OPEN is answered or refused busy, OPEN_ACK opens, OPEN_NACK backs off, CLOSE releases, PROBE and PROBE_ACK end a mismatch. -/
def Obligations.StreamsOpenCloseAndProbe : Prop :=
  ∀ (s : State) (a : Arrival) (f : RFrame) (h : StepHdr) (cls credits : Nat),
    let k := f.dst
    let good (type : Nat) : Prop := staleTag s 9 a.port a.gen = false ∧ frameBad s a f type = false
    let sane := modStrm s k fun y => { y with st := if y.st = .mismatch then .opened else y.st }
    let credited (y : Stream) (e : Nat) : Stream := { y with
      st := .opened, peerEntry := e, limit := if msgClass cls then 0 else credits,
      msgCredits := if msgClass cls then credits else 0 }
    (good 4 → f.step = some h → f.body = .opening cls credits → findStream s h.member cls = none →
      (freeEntry s (a.port / 9) = none → exec (.frameOpen a f) s
        = .next (let t := emitOn s a.port 0 h.member { type := 6, cls := cls, dst := f.src, src := 0 }
          { t with rly := { t.rly with cnt := { t.rly.cnt with tableWaits := t.rly.cnt.tableWaits + 1 } } }))
      ∧ (∀ n, freeEntry s (a.port / 9) = some n →
        let t := fillPaths (setSrx (setStrm s n { st := .opening, peer := h.member, cls := cls, peerEntry := f.src,
                                                  lastUse := s.stamp }) n {}) n
        (∀ w, digestFault s h = some w → exec (.frameOpen a f) s = .next (refuseDigest t n w h))
        ∧ (digestFault s h = none → exec (.frameOpen a f) s
          = .next (let g := openCredits (modStrm t n fun y => credited y y.peerEntry) n
            emitCtl g.2 n 5 none (.opening cls g.1)))))
    ∧ (good 5 → f.body = .opening cls credits → (strm s k).st = .opening → unitOf k = a.port / 9 →
        exec (.frameOpenAck a f) s = .next (modStrm s k fun y => { credited y f.src with retries := 0 }))
    ∧ (good 6 → (strm s k).st = .opening → unitOf k = a.port / 9 → exec (.frameOpenNack a f) s
        = .next (modStrm s k fun y => { y with backoff := if y.backoff = 0 then 10 else min 1000 (2 * y.backoff) }))
    ∧ (good 7 → frameStream s a f = true → streamIdle s k = true → exec (.frameClose a f) s
        = .next (retryWaiting (setSrx (setStrm (sendAck s k) k {}) k {})))
    ∧ (good 8 → frameStream s a f = true → f.step = some h →
        (digestFault s h = none → exec (.frameProbe a f) s = .next (emitCtl sane k 9 none .plain))
        ∧ ∀ w, digestFault s h = some w → exec (.frameProbe a f) s = .next (refuseDigest s k w h))
    ∧ (good 9 → frameStream s a f = true → exec (.frameProbeAck a f) s = .next sane)

/-- A packet leaves when credit and window allow, the timers resend, acknowledge, probe or fail a stream, and ports spare a lane. -/
def Obligations.RelayTimersPortsAndPackets : Prop :=
  ∀ (s : State) (k psn now port mac lane off len n : Nat) (m : TxMsg) (p : Pkt),
    let x := strm s k
    let pt := sget {} s.rly.ports port
    let failed := modPort s port fun q => { q with failed := setBit q.failed lane }
    -- a stream whose peer is marked LOST fails instead
    let go (t : State) : Host.Outcome State Fault Refusal := .next (lostFirst s k t)
    let used := (List.range 8).any fun j => laneOf pt.laneMap j == lane
    let moved := (List.range 8).foldl (fun w j =>
      w + (if bitAt pt.failed (laneOf pt.laneMap j) then 8 else laneOf pt.laneMap j) * 16 ^ j) 0
    -- packets
    (x.st = .opened → nextPkt s x = some (m, off, len, n, none) →
      (256 ≤ x.unacked.length ∨ (msgClass x.cls = false ∧ x.limit ≤ n) → exec (.packetTransmit k) s = go s)
      ∧ (x.unacked.length < 256 → msgClass x.cls = true → m.started = false → x.msgCredits = 0 → x.demanded = false →
        exec (.packetTransmit k) s = go (emitCtl (modStrm s k fun y => { y with demanded := true }) k 3 none
          (.credit none 0 (x.tx.filter fun y => !y.started).length)))
      ∧ (∀ i q, x.unacked.length < 256 → msgClass x.cls = false → n < x.limit → x.peer ≠ selfNo s →
        bestPath x none = some i → pathOf x i = some q →
        let d := (m.data.drop off).take len
        let pk : Pkt := {
          psn := n, path := i, pathSeq := q.nextSeq, msgId := m.id, off := off, len := len, resend := false,
          rto := od s 0x6036 1 }
        let t := setStrm { s with stamp := s.stamp + 1 } k { x with
          paths := sset none x.paths i (some { q with nextSeq := q.nextSeq + 1 }),
          unacked := (x.unacked.filter fun y => y.psn != n) ++ [pk],
          nextPsn := x.nextPsn + 1, lastUse := s.stamp,
          tx := x.tx.map fun y => if y.id = m.id then { y with started := true, sent := off + len } else y }
        exec (.packetTransmit k) s = go (emitOn t q.port q.entropy x.peer {
          type := 0, cls := x.cls, first := off == 0, last := decide (m.data.length ≤ off + len), dst := x.peerEntry,
          src := k, path := i, tcls := m.tcls, psn := n, pathSeq := q.nextSeq, msgId := m.id, msgOff := off,
          tstamp := s.ost.time % 2 ^ 32, step := some (stepHdr s m.step), pmask := poisonMask d, payload := d.map Prod.fst,
          body := m.body })))
    ∧ (memberLost s x.peer = false → ∀ t, lostFirst s k t = t)
    ∧ (x.st ≠ .closed → x.st ≠ .failed → x.peer ≠ selfNo s → memberLost s x.peer = true → ∀ t, lostFirst s k t = failStream s k)
    -- timers
    ∧ (x.unacked.find? (fun y => y.psn == psn) = some p →
        (7 ≤ x.expiries → exec (.retransmitTimeout k psn now) s = go (failStream s k))
        ∧ (x.expiries < 7 → exec (.retransmitTimeout k psn now) s = go (pathLoss (modStrm s k fun y => { y with
            expiries := y.expiries + 1, unacked := y.unacked.map fun w =>
              if w.psn = psn then { w with resend := true, rto := min 6400000 (2 * w.rto) } else w }) k p.path now)))
    ∧ (x.st = .opening → (8 ≤ x.retries → exec (.openRetryTimer k) s = go (failStream s k))
        ∧ (x.retries < 8 → exec (.openRetryTimer k) s
          = go (sendOpen (modStrm s k fun y => { y with retries := y.retries + 1 }) k)))
    ∧ (x.st ≠ .closed → x.st ≠ .failed → x.peer ≠ selfNo s → upPorts s (unitOf k) = [] →
        exec (.noPathTimeout k) s = .next (failStream s k))
    ∧ ((srx s k).sinceAck ≠ 0 → exec (.ackTimer k) s = go (giveCredit (sendAck s k) k))
    ∧ (x.st = .mismatch → exec (.probeTimer k) s = go (emitCtl s k 8 (some (stepHdr s (curStep s))) .plain))
    -- ports
    ∧ (pt.up = false → od s 0x6031 (port + 1) ≠ 0 → powered s = true → sget false s.contain.retired (9 * 4096 + port) = false →
        let t := modPort s port fun q => { q with
          up := true, mode := od s 0x6031 (port + 1), sparing := false,
          peerMac := if od s 0x6031 (port + 1) = 2 then BitVec.ofNat 64 mac else q.peerMac }
        exec (.portLinkUp ⟨port, mac⟩) s = .next (((t.rly.streams.filter fun e =>
          unitOf e.1 == port / 9 && e.2.st != .failed && e.2.peer != selfNo t).map Prod.fst).foldl fillPaths t))
    ∧ (pt.up = true → lane ≤ 8 → bitAt pt.failed lane = false →
        (used = false → exec (.laneFailure port lane) s = .next failed)
        ∧ (used = true → pt.mode = 2 → pt.sparing = false → spareLane pt.laneMap = 8 → bitAt pt.failed 8 = false →
          exec (.laneFailure port lane) s
            = .next (note (modPort failed port fun q => { q with sparing := true }) 6 5 2 9 port [BitVec.ofNat 64 lane]))
        ∧ (used = true → pt.mode ≠ 2 ∨ pt.sparing = true ∨ spareLane pt.laneMap ≠ 8 ∨ bitAt pt.failed 8 = true →
          exec (.laneFailure port lane) s
            = .next (note (unitEvent (raiseGen (portDown failed port) 9 port) 9 port) 6 6 4 9 port [BitVec.ofNat 64 lane])))
    ∧ (pt.sparing = true → exec (.laneSpareComplete port) s = .next (note (repairDue (modPort s port fun q =>
        { q with sparing := false, spareUsed := true, laneMap := BitVec.ofNat 32 moved }) 2) 6 7 1 9 port
          [BitVec.ofNat 64 moved]))

/-- The deadline closes a step's regions once, the close record keeps its decisions, and streams are reset, shown and released. -/
def Obligations.StepsCloseAndStreamsAreReleased : Prop :=
  ∀ (s : State) (step unit reader k : Nat) (data : List Byte),
    let x := stepOf s step
    let expired := modStep s step fun y => { y with expired := true }
    let regions := (teamRegions s step).map fun r =>
      JItem.regionClose r.1 r.2.1 r.2.2.epoch r.2.2.done r.2.2.forced r.2.2.ordered r.2.2.lateCount
    let closed := modStep s step fun y => { y with
      closed := true, touched := touchedBlocks s step, items := if replaying s then y.items else y.items ++ regions }
    let abort (c : Nat) (t : State) : State := { t with dict := { t.dict with abort := c } }
    let freed := setSrx (setStrm s k {}) k {}
    let shut := (teamRegions expired step).foldl (fun t r => cmbClose t r.1 r.2.1) expired
    let rid := endWaiting (endMismatch shut step) step
    let stuck (c : GComb) : Bool := c.bundles.any fun b => match findStream s b.member 0 with
      | some k => (strm s k).st == .mismatch && (strm s k).tx.any fun m => m.bundle == some (c.id, b.num)
      | none => false
    let full (c : GComb) : Bool := shut.rly.waiting.any fun w => match w.2.2.bundle with | some b => b.1 == c.id | none => false
    let named (f : GComb → Bool) (c : GComb) : Bool := ((shut.rly.combs.filter fun d => d.step == step && f d).map GComb.id).contains c.id
    let finish (t : State) (c : GComb) : State :=
      let u := (List.range c.n).foldl (fun u r => match combOf u c.id with
        | some d => if bitAt (recStatus d r) 14 then u
            else formRecord u c.id r (bits (recStatus d r) 3 0 != bits (recStatus d r) 7 4)
        | none => u) t
      endComb u c.id (if named stuck c then 4 else if named full c then 6 else 0)
    (x.timer = false ∨ x.expired = true → exec (.stepDeadline step) s = .next s)
    ∧ (x.timer = true → x.expired = false →
        (replaying s = true → exec (.stepDeadline step) s = .next expired)
        ∧ (replaying s = false → exec (.stepDeadline step) s
          = .next ((rid.rly.combs.filter fun c => c.step == step).foldl finish rid)))
    ∧ (x.timer = true → x.closed = false → ((teamRegions s step).any fun r => cmbBusy r.2.2) = false →
        (s.rly.combs.any fun c => c.step == step) = false → (stepOf closed step).recorded = none →
        exec (.stepCloseRecord step) s
          = .next (if allReported closed step then sendReport closed step false else closed))
    ∧ (let t := ((s.rly.streams.filter fun e => unitOf e.1 == unit).map Prod.fst).foldl
          (fun t k => resetStream (abandonRx t k) k) s
        let r := { t.rly with faulted := setBit t.rly.faulted unit, outOfService := setBit t.rly.outOfService unit }
        let m := { t.team with writer := if unit = 0 then 1 else t.team.writer }
        exec (.relayUnitFault unit) s
          = .next (note { t with rly := r, team := m } 6 9 (if bitAt s.rly.faulted unit then 5 else 4) 6 unit []))
    ∧ (data.length ≠ 64 → exec (.streamQuerySelect reader data) s = .next (abort 0x00030001 s))
    ∧ (data.length = 64 → 2 ^ 14 ≤ leNat data → exec (.streamQuerySelect reader data) s = .next (abort 0x00030002 s))
    ∧ (data.length = 64 → leNat data < 2 ^ 14 → exec (.streamQuerySelect reader data) s
        = .next (abort 0 (setSel s reader 0x6040 1 data)))
    ∧ (2 ^ 14 ≤ k → exec (.streamClose k) s = .next (abort 0x00030002 s))
    ∧ (k < 2 ^ 14 →
        ((strm s k).st = .failed → exec (.streamClose k) s = .next (abort 0 (retryWaiting freed)))
        ∧ (streamIdle s k = true → (strm s k).peer ≠ selfNo s → exec (.streamClose k) s
          = .next (abort 0 (modStrm (emitCtl s k 7 none .plain) k fun y => { y with st := .closing })))
        ∧ ((strm s k).st ≠ .failed → streamIdle s k = false → exec (.streamClose k) s = .next (abort 0x00030003 s)))

/-- Reports gather up the tree, the root's verdict halves or grows the loss scale, and lent memory is served inside its window. -/
def Obligations.LossScaleVerdictsAndLentMemory : Prop :=
  ∀ (s : State) (member step clean off len n v : Nat) (halve inc : Bool) (ls : Int) (data : List (Byte × Bool)),
    let x := stepOf s step
    let got := modStep s step fun y => { y with reports := y.reports ++ [(member, halve, inc)] }
    let e := s.team.lsExp
    let abort (c : Nat) (t : State) : State := { t with dict := { t.dict with abort := c } }
    let lends : Prop := s.team.lending = true ∧ od s 0x8040 3 = member
    let put := putNow s (okey 0x8040 4) (leBytes 1 v)
    let marked := modStep s step fun y => { y with reported := true }
    let late := if halve then s.cmb.relayHeld.filter fun r => r.late && r.epoch == step else []
    let verdict : Verdict := { halve := halve, incomplete := inc, lsNext := ls, clean := clean }
    let wrote := writeJournal (modStep (late.foldl (fun t r => noteLate t r 4)
      { s with cmb := { s.cmb with relayHeld := s.cmb.relayHeld.filter fun r => !late.contains r } }) step
      fun y => { y with verdict := some verdict }) step
    let adopted := { wrote with team := { wrote.team with
      lsExp := ls, clean := clean, verdictsOut := wrote.team.verdictsOut ++ (childrenOf s).map fun m => (m, step, verdict),
      halvings := if halve then wrote.team.halvings + 1 else wrote.team.halvings } }
    let base := od s 0x8040 1 + off
    ((childrenOf s).contains member = false ∨ (x.reports.any fun r => r.1 == member) = true →
        exec (.verdictReport member step halve inc) s = .next s)
    ∧ ((childrenOf s).contains member = true → (x.reports.any fun r => r.1 == member) = false →
        exec (.verdictReport member step halve inc) s
          = .next (if (stepOf got step).closed && allReported got step then sendReport got step false else got))
    ∧ (x.closed = true → x.reported = false → exec (.verdictWaitExpiry step) s = .next (sendReport s step true)
        ∧ (selfNo s ≠ rootMember s → ∃ t, exec (.verdictWaitExpiry step) s = .next t
          ∧ t.team.reportsOut = s.team.reportsOut ++
            [(parentOf s 5 (selfNo s), step, x.halve || (x.reports.any fun r => r.2.1), true)]))
    ∧ (halve = true ∨ inc = true → (formVerdict s halve inc).lsNext = max (e - 1) (-24) ∧ (formVerdict s halve inc).clean = 0
        ∧ (formVerdict s halve inc).halve = true)
    ∧ (od s 0x8020 3 ≤ s.team.clean + 1 → (formVerdict s false false).lsNext = min (e + 1) 32
        ∧ (formVerdict s false false).clean = 0)
    ∧ (s.team.clean + 1 < od s 0x8020 3 → (formVerdict s false false).lsNext = e
        ∧ (formVerdict s false false).clean = s.team.clean + 1)
    ∧ (x.verdict.isSome = true → exec (.verdictReceive step halve inc ls clean) s = .next s)
    ∧ (x.verdict = none → exec (.verdictReceive step halve inc ls clean) s
        = .next (if x.skipped then adopted else releaseList adopted step))
    ∧ (x.closed = true → x.reported = false → selfNo s = rootMember s → exec (.verdictWaitExpiry step) s
        = .next (adoptVerdict marked step (formVerdict marked (x.halve || x.reports.any fun r => r.2.1) true)))
    ∧ (lends → off + len ≤ od s 0x8040 2 → exec (.lendReadRequest member off len) s = .next (queueMsg s member 4
          { id := 0, op := none, tcls := 0, step := curStep s, data := physRead s base len, body := .plain,
            bundle := none })
        ∧ (data.length = len → (physRange s.map base len).isSome = true → exec (.lendWriteRequest member off data) s
          = .next (physPut s base data))
        ∧ (data.length = len → physRange s.map base len = none → exec (.lendWriteRequest member off data) s
          = .next (refuseLend s member)))
    ∧ (s.team.lending = false ∨ od s 0x8040 3 ≠ member ∨ od s 0x8040 2 < off + len →
        exec (.lendReadRequest member off len) s = .next (refuseLend s member)
        ∧ (data.length = len → exec (.lendWriteRequest member off data) s = .next (refuseLend s member)))
    ∧ (1 < v → exec (.lendEnableWrite v) s = .next (abort 0x00030002 s))
    ∧ (v = 1 → exec (.lendEnableWrite v) s
        = .next (abort 0 { put with team := { put.team with lending := true, notice := none } }))
    ∧ (v = 0 → s.team.lending = true → s.team.notice = none → exec (.lendEnableWrite v) s
        = .next (abort 0 { put with team := { put.team with notice := some (curStep s + od s 0x8040 5) } }))
    ∧ (v = 0 → s.team.lending = false ∨ s.team.notice.isSome = true → exec (.lendEnableWrite v) s = .next (abort 0 put))
    ∧ (s.team.notice = some n →
        (curStep s < n → exec .lendNoticeExpiry s = .next s)
        ∧ (n ≤ curStep s → exec .lendNoticeExpiry s
          = .next { s with team := { s.team with notice := none, lending := false } }))

/-- Commit deadlines skip what has no verdict, holders' tallies are compared, copies repaired, scrubbed, and members lost. -/
def Obligations.ReplicasAreComparedAndRepaired : Prop :=
  ∀ (s t : State) (step member group handle a n e w rule : Nat) (tally : W64) (g : RepGroup) (data : List Byte)
      (win : List Nat) (r : Nat × Option Nat × Nat) (triples : List (Nat × W64 × Nat × Nat × Bool)),
    let x := stepOf s step
    let ctx := jobCtx s step
    let known : Bool := s.team.groupReps.any fun r => r.1 == step && r.2.1 == group && r.2.2.1 == member
    let reported := { s with team := { s.team with groupReps := s.team.groupReps ++ [(step, group, member, tally)] } }
    let own : Copy := (selfNo s, BitVec.ofNat 64 w, n, e, blkBodyOk s ctx handle)
    let copies := own :: triples.filter fun c => c.1 != selfNo s && g.holders.contains c.1
    let total := od s 0x8011 2
    let lap := min (od s 0x8032 3) total
    let scrubbed := (List.range lap).foldl (fun t i => scrubBlock t step ((s.team.scrubAt + i) % total)) s
    let ks := (s.rly.streams.filter fun e => e.2.peer == member && e.2.st != .closed).map Prod.fst
    let dead (u : Nat) : Bool := ks.any (fun k => unitOf k == u) && ks.all fun k => unitOf k != u || (strm s k).st == .failed
    let abort (c : Nat) (t : State) : State := { t with dict := { t.dict with abort := c } }
    let withheld := skipBlocks s step 1 ((s.team.gate.filter fun g => g != 0).map fun g => g - 1)
    (x.closed = true → x.skipped = false → replaying s = false → x.verdict = none → exec (.commitDeadline step) s
        = .next (note (writeJournal (skipBlocks (modStep s step fun y => { y with skipped := true }) step 1 x.touched) step)
          7 3 3 14 (selfNo s) [BitVec.ofNat 64 step]))
    ∧ (x.closed = false ∨ x.skipped = true ∨ (replaying s = false ∧ x.verdict.isSome = true ∧ x.listed = true) →
        exec (.commitDeadline step) s = .next s)
    ∧ (x.closed = true → x.skipped = false → replaying s = true → exec (.commitDeadline step) s
        = .next ((recordedSkips s step).foldl (fun t h => skipBlock t ctx step h)
          (modStep s step fun y => { y with skipped := true })))
    ∧ (x.closed = true → x.skipped = false → replaying s = false → x.verdict.isSome = true → x.listed = false →
        exec (.commitDeadline step) s = .next (releaseLists { withheld with team := { withheld.team with
          gate := withheld.team.gate.filter fun g => g == 0 } }))
    ∧ (replaying s = true → x.timer = true → ((teamRegions s step).any fun r => cmbBusy r.2.2) = true →
        exec (.replayStallTimeout step) s = .next { s with team := { s.team with replayStatus := 3 } })
    ∧ (repFind s group = some g → g.holders.contains member = true →
        (known = true → exec (.groupTallyReport member step group tally) s = .next s)
        ∧ (known = false → member ≠ selfNo s →
          exec (.groupTallyReport member step group tally) s = .next (compareGroup reported step g))
        ∧ (known = false → member = selfNo s → groupSettled s ctx step g = true →
          let own := { s with team := { s.team with
            groupReps := s.team.groupReps ++ [(step, group, member, groupTally s ctx g)],
            talliesOut := s.team.talliesOut
              ++ (g.holders.filter fun m => m != selfNo s).map fun m => (m, step, group, groupTally s ctx g) } }
          exec (.groupTallyReport member step group tally) s = .next (compareGroup
            (lateItem (replayCompare own step group (groupTally s ctx g)) step (.groupTally group (groupTally s ctx g))) step g)))
    ∧ (repFind s group = some g → s.team.unequal.contains (step, group) = true → g.first ≤ handle → handle < g.first + g.count →
        blkTriple s ctx handle = some (w, n, e) →
        (copies.all (sameCopy own) = true → copies.all (fun c => c.2.2.2.2) = true →
          exec (.replicaTripleExchange group handle step triples) s = .next s)
        ∧ ((copies.all (sameCopy own) && copies.all fun c => c.2.2.2.2) = false →
          (settleCopies copies = none →
            exec (.replicaTripleExchange group handle step triples) s = .next (needRepair s handle none 2))
          ∧ (settleCopies copies = some (win, rule) → win.contains (selfNo s) = false →
            exec (.replicaTripleExchange group handle step triples) s = .next (needRepair s handle win.head? rule))
          ∧ (settleCopies copies = some (win, rule) → win.contains (selfNo s) = true →
            exec (.replicaTripleExchange group handle step triples) s
              = .next (if (win.all fun m => decide (selfNo s ≤ m)) = true then
                  ((copies.map Prod.fst).filter fun m => !win.contains m).foldl (fun u m => sendRepair u ctx step handle m) s
                else s))))
    ∧ (s.team.repairs.find? (fun r => r.1 == handle) = some r → installRepair s ctx handle step r.2.1.isNone data = some t →
        let u := lateItem t step (.repair group handle (r.2.1.getD 0x3FFF) r.2.2)
        exec (.replicaRepairInstall group handle step data) s = .next (releaseLists { u with team := { u.team with
          repairs := u.team.repairs.filter fun x => x.1 != handle,
          gate := u.team.gate.filter fun x => x != handle + 1,
          repairsDone := u.team.repairsDone + 1 } }))
    ∧ (total ≠ 0 → exec (.replicaScrub step) s
        = .next { scrubbed with team := { scrubbed.team with scrubAt := (s.team.scrubAt + lap) % total } })
    ∧ (sget false s.team.suspect member = true ∨ (dead 0 || dead 1) = false → exec (.memberSuspect member) s = .next s)
    ∧ (sget false s.team.suspect member = false → (dead 0 || dead 1) = true → exec (.memberSuspect member) s
        = .next (note { s with team := { s.team with suspect := sset false s.team.suspect member true } } 6 10 3 14 member []))
    ∧ (teamSize s ≤ member → exec (.declareLost member) s = .next (abort 0x00030002 s))
    ∧ (member < teamSize s → memberAt s member = some a →
        let marked := homeWrite s noCtx 0 false (a + 16) [(BitVec.ofNat 8 (memberBits s member ||| 2), false)]
        let u := ((marked.rly.streams.filter fun e => e.2.peer == member && e.2.st != .closed && e.2.st != .failed).map
          Prod.fst).foldl failStream marked
        let due := (u.rly.steps.filter fun e => e.2.closed && !e.2.reported && e.2.verdict.isNone).map Prod.fst
        exec (.declareLost member) s
          = .next (abort 0 (due.foldl (fun t k => if allReported t k then sendReport t k false else t) u)))

/-- An initiator takes ring entries, sends each request with its data or ends it in error, retries, resets once, then gives up. -/
def Obligations.NvmeRequestsAreSentAndCompleted : Prop :=
  ∀ (s t : State) (unit ring id status : Nat) (data : List Byte) (r : NvReq) (d : List PByte) (l : List Piece) (e : Nat × Nat),
    let b := nvRingAt s unit ring
    let tail := physNat s b 4
    let head := physNat s (b + 4) 4
    let n := min 256 ((tail + 2 ^ 32 - head) % 2 ^ 32)
    let next (op : Nat) : Prop := nvNext s unit op = some r
    let dead (u : State) : Bool := !nvEnabled u (nvKey r) || sget false u.nvme.failed (nvKey r)
    let sent (u : State) (d : List PByte) : State := { u with nvme := { u.nvme with
      reqs := u.nvme.reqs.map fun x => if x.id = r.id then { x with sent := true } else x,
      out := u.nvme.out ++ [{
        unit := r.unit, ctrl := nvCtrl r, id := r.id, op := nvOp r, ns := nvNs r, slba := nvSlba r, nlb := nvNlb r,
        data := d }] } }
    let again (u : State) : State :=
      let q := { r with retries := r.retries + 1 }
      nvResend { u with nvme := { u.nvme with reqs := u.nvme.reqs.map fun x => if x.id = r.id then q else x } } q
    let ended := nvFinish s r status true
    (od s 0x8051 (unit + 1) ≠ 0 → unit < 2 → ring < 64 → powered s = true → nvOut s unit = false → n ≠ 0 → exec (.nvmeRingPoll unit ring) s
        = .next (physWrite (((List.range n).map fun i => b + 64 + 64 * ((head + i) % 256)).foldl (nvTake unit) s) (b + 4)
          (leBytes 4 (head + n))))
    ∧ (nvOut s unit = true → exec (.nvmeRingPoll unit ring) s = .next s
        ∧ exec (.nvmeRead unit) s = .next s ∧ exec (.nvmeWrite unit) s = .next s ∧ exec (.nvmeFlush unit) s = .next s)
    ∧ (next 3 → exec (.nvmeFlush unit) s = .next (if dead s then nvFinish s r 0 true else sent s []))
    ∧ (next 4 → exec (.nvmeDeallocate unit) s = .next (if dead s then nvFinish s r 0 true else sent s []))
    ∧ (next 5 → exec (.nvmeWriteZeroes unit) s = .next (if dead s then nvFinish s r 0 true else sent s []))
    ∧ (next 0 → vPieces s none (nvCtx r) .write (nvBuf r) (nvNlb r * 4096) = (.ok l, t) →
        exec (.nvmeRead unit) s = .next (if dead t then nvFinish t r 0 true else sent t []))
    ∧ (next 0 → vPieces s none (nvCtx r) .write (nvBuf r) (nvNlb r * 4096) = (.error e, t) →
        exec (.nvmeRead unit) s = .next (nvFinish t r 0 true))
    ∧ ((uRead s (nvCtx r) (nvBuf r) (nvNlb r * 4096)) = (some d, t) →
        let done := if d.any Prod.snd || dead t then nvFinish t r 0 true else sent t d
        (next 1 → exec (.nvmeWrite unit) s = .next done) ∧ (next 2 → exec (.nvmeWriteFua unit) s = .next done))
    ∧ ((uRead s (nvCtx r) (nvBuf r) (nvNlb r * 4096)) = (none, t) →
        (next 1 → exec (.nvmeWrite unit) s = .next (nvFinish t r 0 true))
        ∧ (next 2 → exec (.nvmeWriteFua unit) s = .next (nvFinish t r 0 true)))
    ∧ (s.nvme.reqs.find? (fun x => x.unit == unit && x.id == id && x.sent) = some r →
        (status % 2 ^ 15 = 0 → nvOp r ≠ 0 → exec (.nvmeCompletion unit id status data) s = .next (nvFinish s r 0 false))
        ∧ (status % 2 ^ 15 = 0 → nvOp r = 0 →
          let w := dmaWrite s (nvCtx r) (nvBuf r) ((data.take (nvNlb r * 4096)).map (·, false))
          exec (.nvmeCompletion unit id status data) s = .next (nvFinish w.2 r 0 (!w.1)))
        ∧ (status % 2 ^ 15 ≠ 0 →
          (r.retries < 3 → exec (.nvmeCompletion unit id status data) s = .next (again s))
          ∧ (r.retries = 3 → sget false s.nvme.wasReset (nvKey r) = false →
            exec (.nvmeCompletion unit id status data) s = .next (again { s with nvme := { s.nvme with
              wasReset := sset false s.nvme.wasReset (nvKey r) true, resets := s.nvme.resets ++ [nvKey r] } }))
          ∧ (4 ≤ r.retries → exec (.nvmeCompletion unit id status data) s
            = .next (note { ended with nvme := { ended.nvme with failed := sset false ended.nvme.failed (nvKey r) true } }
              5 9 3 6 unit [BitVec.ofNat 64 (nvCtrl r), BitVec.ofNat 64 status]))))

/-- A checkpoint point swaps the bitmaps, the copy stages an image, the drain stores it, and a restore writes the passing chain. -/
def Obligations.CheckpointsAreTakenDrainedAndRestored : Prop :=
  ∀ (s : State) (step : Nat) (full : Bool) (i : CkImage) (x : CkptImage) (images : List CkptImage),
    let iv := od s 0x8030 1
    let whole := s.ckpt.needFull || s.ckpt.taken % od s 0x8030 2 == 0
    let due : Prop := iv ≠ 0 ∧ step % iv = 0 ∧ physNat s (od s 0x8030 12) 8 = step ∧ s.ckpt.copying = none
    let started : State := { s with
      mem := { s.mem with dirty := s.mem.dirtyOld, dirtyOld := s.mem.dirty },
      team := { s.team with gate := if s.team.gate.contains 0 then s.team.gate else s.team.gate ++ [0] },
      ckpt := { s.ckpt with copying := some (step, whole), needFull := false } }
    let base := if full then step else s.ckpt.base
    let n := 64 + (16 + mib2) * (ckptRegions s full).length + (ckptJournal s s.ckpt.lastTaken step).1.length
    let copied := ckptTaken (ckptCopied s step full) step base (ckptRegions s full)
    let flash := od s 0x8030 7 ≠ 1
    let good := chainPrefix none images
    let restored := good.foldl putImage s
    (¬ due → exec (.checkpointPoint step) s = .next s)
    ∧ (due → s.ckpt.draining = none → exec (.checkpointPoint step) s = .next started)
    ∧ (due → s.ckpt.draining.isSome = true → exec (.checkpointPoint step) s = .next (note { s with ckpt := { s.ckpt with
        postponed := s.ckpt.postponed + 1, needFull := whole } } 7 5 2 0 0 [BitVec.ofNat 64 step]))
    ∧ (s.ckpt.copying = some (step, full) → n ≤ od s 0x8030 6 →
        exec .checkpointCopyComplete s = .next (releaseLists (startDrain copied step base n full)))
    ∧ (s.ckpt.copying = some (step, full) → od s 0x8030 6 < n →
        exec .checkpointCopyComplete s = .next (releaseLists copied)
        ∧ ckptCopied s step full = note s 7 7 3 0 0 [BitVec.ofNat 64 step])
    ∧ copied.ckpt.copying = none ∧ copied.ckpt.lastTaken = step ∧ copied.team.gate.contains 0 = false
    ∧ (s.ckpt.draining = some i →
        exec (.checkpointDrainComplete false) s = .next (note { s with ckpt := { s.ckpt with
          draining := none, needFull := true } } 7 8 3 0 0 [BitVec.ofNat 64 i.step])
        ∧ (flash → exec (.checkpointDrainComplete true) s = .next { s with
          team := { s.team with ckptLast := i.step },
          ckpt := { s.ckpt with
            draining := none, nextLba := (i.lba + i.len) % od s 0x8030 10,
            images := (s.ckpt.images.filter fun x => !(lbasMeet (od s 0x8030 10) (x.lba, x.len) (i.lba, i.len))) ++ [i] } })
        ∧ (¬ flash → exec (.checkpointDrainComplete true) s = .next { s with
          team := { s.team with ckptLast := i.step }, ckpt := { s.ckpt with draining := none } }))
    ∧ (good = [] → exec (.checkpointRestore images) s = .next s)
    ∧ (good.getLast? = some x → exec (.checkpointRestore images) s = .next { restored with
        team := { restored.team with lsExp := signed 8 (ciW x 2), clean := bits (ciW x 2) 23 8 },
        ckpt := { restored.ckpt with
          restored := some (bits (ciW x 0) 31 0), joinRefused := ciW x 3 != digest64 (digestCur s) } })

/-- Dispatch takes a free gang, slices and blocking end turns, saves and restores move a context, and decisions bill and serve. -/
def Obligations.SchedulerMovesContexts : Prop :=
  ∀ (s : State) (ctx p delta q billed : Nat) (bills : List (Nat × Nat × Nat × Nat × Nat)) (l : List (Nat × Ctx)) (y : Ctx),
    let x := ctxOf s ctx
    let sliced := x.admitted && x.onGang && decide (od s 0x5110 2 ≤ x.acct.slice)
    let rival := (padCtxs s x.paddock).any fun e =>
      e.1 != ctx && e.2.st == .runnable && gangsMeet x e.2 && decide (x.acct.deficit < e.2.acct.deficit)
    let waits := (gang x).any fun ge => holds (eng s ge) ctx && extWait (eng s ge)
    let outNow := powered s && x.swap == .out && x.resident.isSome && !pinned s ctx && gangStopped s ctx
      && (gang x).all fun ge => slotState s (slotOf s ge) != .held && (!holds (eng s ge) ctx || quiet (eng s ge))
    let taken := (admitted s).any fun e => e.1 != ctx && gangsMeet x e.2 && e.2.resident.isSome && bindsOver e.2 q x.sched.qlen
    let counted := modPad s p fun y => { y with
      decisions := y.decisions + 1, claimIdle := y.claimIdle + BitVec.ofNat 64 (claimedIdle s p * delta) }
    let told := modPad (settleStops (billAll s p delta bills) p) p fun y => { y with
      decisions := y.decisions + 1, claimIdle := y.claimIdle + BitVec.ofNat 64 (claimedIdle s p * delta) }
    let ended := (padCtxs told p).foldl (fun t e =>
      if e.2.onGang && e.2.st == .running && decide (od t 0x5110 2 ≤ e.2.acct.slice) then endSlice t e.1 else t) told
    let evicted := evictBlocked ended p
    let placed := (outsiders evicted p).foldl (fun t e => placeOutsider t p e.1) evicted
    let written (t : State) : State := (padCtxs t p).foldl (fun t e => if e.2.onGang then writeAccount t e.1 else t) t
    (canDispatch s ctx = true → exec (.contextDispatch ctx) s = .next (dispatch s ctx)
        ∧ ∀ e ∈ (dispatch s ctx).claims, e.2 ≠ ctx + 1)
    ∧ (canDispatch s ctx = false → exec (.contextDispatch ctx) s = .next s)
    ∧ (sliced = true → rival = true → exec (.sliceEnd ctx) s = .next (preempt s ctx))
    ∧ (sliced = true → rival = false → exec (.sliceEnd ctx) s
        = .next (modCtx s ctx fun y => { y with acct := { y.acct with slice := 0 } }))
    ∧ (x.admitted = true → x.st = .running → waits = true → exec (.blockThresholdReached ctx) s
        = .next (modCtx s ctx fun y => { y with st := .blocked }))
    ∧ (x.admitted = true → x.st = .idle → (s.rly.ops.any fun o => o.ctx == ctx) = true →
        exec (.blockThresholdReached ctx) s = .next (modCtx s ctx fun y => { y with st := .blocked }))
    ∧ (x.st ≠ .running → x.st ≠ .idle → exec (.blockThresholdReached ctx) s = .next s)
    ∧ (outNow = true → exec (.swapOutComplete ctx) s = .next (swapOut s ctx))
    ∧ (outNow = false → exec (.swapOutComplete ctx) s = .next s)
    ∧ (x.swap = .into q → powered s = true → taken = false → exec (.swapInComplete ctx) s = .next (swapIn s ctx q))
    ∧ (x.swap = .into q → taken = true → exec (.swapInComplete ctx) s = .next s)
    ∧ (powered s = true → padCtxs s p = [] → padCtxs counted p = [] → (padOf counted p).st = .stopped →
        exec (.schedulerDecision p delta bills) s = .next counted)
    ∧ (powered s = true →
        ((padOf told p).st = .draining → exec (.schedulerDecision p delta bills) s = .next (written (drainPad told p)))
        ∧ ((padOf told p).st = .running → exec (.schedulerDecision p delta bills) s = .next (written (serveGangs placed p)))
        ∧ ((padOf told p).st ≠ .draining → (padOf told p).st ≠ .running →
          exec (.schedulerDecision p delta bills) s = .next (written told)))
    ∧ (powered s = false → exec (.schedulerDecision p delta bills) s = .next s)
    ∧ (nextDeficit s l delta y billed ≤ 4 * od s 0x5110 2 ∧ -(4 * od s 0x5110 2 : Int) ≤ nextDeficit s l delta y billed)

/-- Masks, rings and ranges are written only to an idle paddock and only where they clash with none; start needs a range and a ring. -/
def Obligations.PaddocksAreConfiguredStartedAndDrained : Prop :=
  ∀ (s t : State) (p v c entry word : Nat) (hi count : Bool) (w : W64),
    let x := padOf s p
    let abort (n : Nat) (t : State) : State := { t with dict := { t.dict with abort := n } }
    let m := if hi then x.mask % 2 ^ 64 + v % 2 ^ 32 * 2 ^ 64 else x.mask / 2 ^ 64 * 2 ^ 64 + v % 2 ^ 64
    let outs := (maskList 96 m).any fun k => sget false s.contain.clOut k || dieRetired s.map (k / 12)
    let meets := s.pads.any fun e => e.1 != p && e.2.mask &&& m != 0
    let f := if count then x.ringFirst else v
    let n := if count then v else x.ringCount
    let clash := s.pads.any fun e => e.1 != p && decide (0 < n ∧ 0 < e.2.ringCount ∧ f < e.2.ringFirst + e.2.ringCount
      ∧ e.2.ringFirst < f + n)
    let kept := commitStore s (storeKey p 0x5100 (if hi then 3 else 2)) (leBytes 8 v)
    let keptRings := commitStore s (storeKey p 0x5100 (if count then 6 else 5)) (leBytes 2 v)
    let k := p * 128 + 2 * entry
    let o0 := sget 0 s.padRanges k
    let o1 := sget 0 s.padRanges (k + 1)
    let n0 := if word = 0 then w else o0
    let n1 := if word = 0 then o1 else w
    let moved := rangeBase n0 != rangeBase o0 || bitAt n0.toNat 1 != bitAt o0.toNat 1 || rangeLen n1 != rangeLen o1
    let bad := bitAt n0.toNat 0 && (!bitAt o0.toNat 0 || moved) && rangeBad s p n0 n1
    let weighted := modCtx s c fun y => { y with sched := { y.sched with weight := v } }
    let empty := (padCtxs s p).all fun e => !e.2.onGang && e.2.resident.isNone
    (padIdle s p = false → exec (.paddockClustersWrite p hi v) s = .next (abort 0x00020003 s)
        ∧ exec (.ringRangeWrite p count v) s = .next (abort 0x00020003 s))
    ∧ (padIdle s p = true →
        (outs = true ∨ meets = true → exec (.paddockClustersWrite p hi v) s = .next (abort 0x00030002 s))
        ∧ (outs = false → meets = false → kept = .ok t → m ≠ 0 → x.st = .stopped → (padOf t p).st = .stopped →
          exec (.paddockClustersWrite p hi v) s = .next (abort 0 (modPad t p fun y => { y with mask := m, st := y.st })))
        ∧ (32768 < f + n ∨ clash = true → exec (.ringRangeWrite p count v) s = .next (abort 0x00030002 s))
        ∧ (f + n ≤ 32768 → clash = false → keptRings = .ok t → exec (.ringRangeWrite p count v) s
          = .next (abort 0 (modPad t p fun y => { y with ringFirst := f, ringCount := n }))))
    ∧ (p < 96 → entry < 64 → word < 2 →
        (bad = true → exec (.paddockRangeWrite p entry word w) s = .next (modPad s p fun y => { y with rangeError := true }))
        ∧ (bad = false → exec (.paddockRangeWrite p entry word w) s
          = .next { s with padRanges := sset 0 (sset 0 s.padRanges k n0) (k + 1) n1 }))
    ∧ (bitAt w.toNat 9 = true → exec (.rangeErrorW1c p w) s = .next (modPad s p fun y => { y with rangeError := false }))
    ∧ (x.st = .unused ∨ x.st = .draining → exec (.paddockStart p) s = .next (abort 0x00030003 s))
    ∧ (x.st = .stopped →
        (padHasRange s p = true → x.ringCount ≠ 0 → allGuarantees s (admitted s) = true →
          exec (.paddockStart p) s = .next (abort 0 (modPad s p fun y => { y with st := .running })))
        ∧ (padHasRange s p = false ∨ x.ringCount = 0 → exec (.paddockStart p) s = .next (abort 0x00030003 s)))
    ∧ (x.st = .running → exec (.paddockStop p) s
        = .next (abort 0 (drainPad (modPad s p fun y => { y with st := .draining }) p)))
    ∧ (x.st = .draining → empty = true → exec (.paddockDrainComplete p) s
        = .next (modPad s p fun y => { y with st := .stopped, pinHold := false }))
    ∧ (x.st = .draining → empty = false → exec (.paddockDrainComplete p) s = .next s)
    ∧ ((ctxOf s c).admitted = true →
        (v = 0 ∨ 65535 < v → exec (.shareWeightWrite c v) s = .next (abort 0x00030002 s))
        ∧ (v ≠ 0 → v ≤ 65535 → allGuarantees weighted (admitted weighted) = true →
          exec (.shareWeightWrite c v) s = .next (abort 0 weighted))
        ∧ (v ≠ 0 → v ≤ 65535 → allGuarantees weighted (admitted weighted) = false →
          exec (.shareWeightWrite c v) s = .next (abort 0x00030003 s)))

/-- Doorbells move TAIL within the ring's size, 256 rings are in service, CONTINUE, RESET and RING_CTL change a ring's state. -/
def Obligations.RingsAreServedInOrder : Prop :=
  ∀ (s : State) (r die lg c width : Nat) (w tail : W64),
    let x := ringOf s r
    let v := tail.toNat % 2 ^ 32
    let k := doorKeep s r width tail
    let fits : Prop := (v + 2 ^ 32 - x.head) % 2 ^ 32 ≤ 2 ^ x.log2
    let rung := modRing { k with stamp := s.stamp + 1 } r fun y =>
      { y with tail := v, doors := y.doors ++ [(v, s.stamp)], seen := seeBlocks k x v }
    let late := modRing k r fun y => { y with tailError := true }
    let reset (t : State) : State := modRing t r fun y => { y with head := y.tail, tailError := false, st := .active, doors := [], seen := [] }
    let go (op : Nat) : Prop := bitAt w.toNat 63 = true ∧ bits w.toNat 17 16 = op
    let clean : Prop := bitAt w.toNat 15 = false ∧ bits w.toNat 62 18 = 0 ∧ bits w.toNat 14 0 = r
    let s0 := modCtl s die fun y => { y with word := w &&& 0x7FFFFFFFFFFFFFFF }
    let ans (n : Nat) (t : State) : Host.Outcome State Fault Refusal := .next (modCtl t die fun y => { y with result := n })
    let e (i : Nat) : Nat := (ringEntry s0 r).getD i 0
    let entry : Prop := bits (e 0) 63 50 = 0 ∧ bits (e 0) 11 0 = 0 ∧ bits (e 1) 63 15 = 0 ∧ bits (e 2) 63 44 = 0 ∧ e 2 % 8 = 0
      ∧ bits (e 3) 63 22 = 0 ∧ e 4 = 0 ∧ e 5 = 0 ∧ e 6 = 0 ∧ e 7 = 0 ∧ bits (e 0) 48 44 = lg ∧ 4 ≤ lg ∧ lg ≤ 16
    let inPad (p : Pad) : Bool := decide (p.ringFirst ≤ r ∧ r < p.ringFirst + p.ringCount)
    (x.st = .disabled → exec (.doorbell r ⟨width, tail⟩) s = .next s ∧ exec (.doorbellReset r) s = .next s)
    ∧ (x.st ≠ .disabled → x.disabling = false →
        (fits → exec (.doorbell r ⟨width, tail⟩) s
          = .next (modCtl rung (ringDie rung r) fun y => { y with doorbells := y.doorbells + 1 }))
        ∧ (¬ fits → exec (.doorbell r ⟨width, tail⟩) s
          = .next (note { late with hosts := { late.hosts with tailErrors := late.hosts.tailErrors + 1 } } 9 1 1 11 (ringDie k r)
            [BitVec.ofNat 64 r, BitVec.ofNat 64 v])))
    ∧ (256 ≤ (s.rings.filter fun o => o.1 != r && ringPending o.2 && ringDie s o.1 == ringDie s r
          && (o.2.cur.isSome || decide (doorOrder o.2 < doorOrder x))).length →
        nextCmd s r = none ∧ exec (.cmdNop r) s = .next s ∧ exec (.cmdWrite r) s = .next s)
    ∧ (x.st = .halted → exec (.doorbellContinue r) s
        = .next (modRing s r fun y => { y with st := .active, tailError := false }))
    ∧ (x.st ≠ .halted → exec (.doorbellContinue r) s = .next s)
    ∧ (x.st ≠ .disabled → exec (.doorbellReset r) s = .next (reset s))
    ∧ (bitAt w.toNat 63 = false → exec (.ringEnable die w) s = .next s ∧ exec (.ringDisable die w) s = .next s
        ∧ exec (.ringCtlReset die w) s = .next s)
    ∧ (bitAt w.toNat 15 = true →
        (go 1 → exec (.ringEnable die w) s = ans 1 s0) ∧ (go 2 → exec (.ringDisable die w) s = ans 1 s0)
        ∧ (go 3 → exec (.ringCtlReset die w) s = ans 1 s0))
    ∧ (clean → (ringOf s0 r).st = .disabled →
        (go 2 → exec (.ringDisable die w) s = ans 4 s0) ∧ (go 3 → exec (.ringCtlReset die w) s = ans 4 s0))
    ∧ (clean → (ringOf s0 r).st ≠ .disabled →
        (go 2 → (ringOf s0 r).cur = none → exec (.ringDisable die w) s
          = ans 0 (modRing s0 r fun y => { y with st := .disabled, head := y.tail, doors := [], seen := [] }))
        ∧ (go 2 → (ringOf s0 r).cur.isSome = true → exec (.ringDisable die w) s
          = ans 0 (modRing s0 r fun y => { y with disabling := true, head := y.tail, doors := [], seen := [] }))
        ∧ (go 3 → exec (.ringCtlReset die w) s = ans 0 (reset s0)))
    ∧ (clean → go 1 →
        (od s0 0x1200 1 = 0 → exec (.ringEnable die w) s = ans 5 s0)
        ∧ (od s0 0x1200 1 ≠ 0 → entry →
          ((ringOf s0 r).st ≠ .disabled → exec (.ringEnable die w) s = ans 4 s0)
          ∧ ((ringOf s0 r).st = .disabled → bitAt (e 0) 49 = false → bits (e 1) 11 0 = c → (ctxOf s0 c).admitted = true →
            inPad (padOf s0 (ctxOf s0 c).paddock) = true → exec (.ringEnable die w) s = ans 0 { s0 with
              rings := sset {} s0.rings r {
                st := .active, base := bits (e 0) 43 0, log2 := lg, priv := false, ctx := c, die := bits (e 1) 14 12,
                headAddr := bits (e 2) 43 0, irq := bits (e 3) 31 0 } })))

/-- Each command of a ring runs when it is next and whole, is refused for what R360 and R361 name, and completes with its status. -/
def Obligations.CommandsCompleteWithTheirStatus : Prop :=
  ∀ (s t u : State) (r n ctx worst : Nat) (c : RingCmd) (l l2 : List Piece) (p : Piece) (d : List PByte) (k : Launch),
    let x := ringOf s r
    let s1 := takeCmd s r c
    let y := ringOf s1 r
    let done (v : State) (status detail : Nat) : Host.Outcome State Fault Refusal := .next (complete v r status detail y.ctx 0)
    let next (op : Nat) : Prop := nextCmd s r = some (c, false) ∧ cOp c = op ∧ chainOk c = true ∧ cmdWaits s r c = false
    let good (op : Nat) : Prop := next op ∧ headBad c = false ∧ compOk s1 y c = true
    let all : List (Nat × Instr) := [(0, .cmdNop r), (2, .cmdWrite r), (3, .cmdCmb r), (4, .cmdWait r), (5, .cmdCreate r),
      (6, .cmdDestroy r)]
    let len := bits (cW c 3) 7 0
    let pay := ((cPayload c).take len).map (·, false)
    let sent := cpContribute u l2 pay (bits (cW c 3) 63 32) (bits (cW c 3) 15 8)
    let a := bits (cW c 2) 43 0
    let blk := physRead s1 a 64
    let words := (chunk 8 8 blk).map fun l => BitVec.ofNat 64 (leNat (l.map Prod.fst))
    let K := ctxOfBlock s1 words (c.words.getD 3 0)
    let made := { s1 with ctxs := sset {} s1.ctxs (freeCtx s1)
                            { K with acct := { K.acct with seq := (ctxOf s1 (freeCtx s1)).acct.seq } } }
    let C := ctxOf s1 y.ctx
    let waits := !x.priv && (ctxOf s x.ctx).admitted && ((padOf s (ctxOf s x.ctx).paddock).st == .stopped
      || (ctxOf s x.ctx).launch.isSome || !launchTurn s r)
    let kern := bits (cW c 2) 56 0
    (∀ i ∈ all, (i.1 = 6 → destroyRuns s r = none) →
      (nextCmd s r = none → exec i.2 s = .next s)
      ∧ (nextCmd s r = some (c, true) → exec i.2 s = .next (complete s1 r 9 0 x.ctx 0))
      ∧ (nextCmd s r = some (c, false) → cmdWaits s r c = true → exec i.2 s = .next s)
      ∧ (next i.1 → headBad c = true → exec i.2 s = done s1 1 0)
      ∧ (next i.1 → headBad c = false → compOk s1 y c = false → exec i.2 s
        = done (modRing s1 r fun q => { q with cur := some { c with words := c.words.set 1 0 } }) 7 0))
    ∧ (nextCmd s r = some (c, false) → 6 < cOp c ∨ chainOk c = false →
        exec (.cmdUnknownOpcode r) s = .next (complete s1 r 1 0 x.ctx 0))
    ∧ (good 0 → wordsZero c [2, 3, 4, 5, 6, 7] = true → exec (.cmdNop r) s = done s1 0 0)
    ∧ (good 2 → len ≠ 0 → len ≤ 224 → bits (cW c 3) 63 8 = 0 → bits (cW c 2) 63 57 = 0 → tailZero c len = true →
        (cpPieces s1 y (bits (cW c 2) 56 0) len = (none, t) → exec (.cmdWrite r) s = done t 7 0)
        ∧ (cpPieces s1 y (bits (cW c 2) 56 0) len = (some l, t) → exec (.cmdWrite r) s = done (cpWrite t y l pay) 0 0))
    ∧ (good 3 → y.priv = true → exec (.cmdCmb r) s = done s1 1 0)
    ∧ (good 3 → y.priv = false → 4 ≤ len → len ≤ 224 → bits (cW c 3) 31 17 = 0 → bits (cW c 2) 63 57 = 0 → tailZero c len = true →
        bitAt (cW c 3) 16 = false → cPieces s1 none y.ctx (bits (cW c 2) 56 0) 1 = (.ok [p], t) →
        cPieces t none y.ctx (bits (cW c 2) 56 0) (if (cmbFind t p.a).any (fun e => e.2.widen) then 2 * len else len) = (.ok l2, u) →
        (oneRegion u l2 = false → exec (.cmdCmb r) s = done u 8 3)
        ∧ (oneRegion u l2 = true → sent.1 = .accepted → exec (.cmdCmb r) s = done sent.2 0 0)
        ∧ (oneRegion u l2 = true → sent.1 ≠ .accepted → exec (.cmdCmb r) s = done sent.2 8 (cmbDetail sent.1)))
    ∧ (good 4 → bits (cW c 2) 63 57 = 0 → cW c 2 % 8 = 0 → bits (cW c 4) 63 32 = 0 → wordsZero c [5, 6, 7] = true →
        waitValue s1 y c = (some d, t) → exec (.cmdWait r) s = .next t)
    ∧ (waiting s r = some c → waitValue s x c = (some d, t) →
        (d.any Prod.snd = false → cW c 3 ≤ leNat (d.map Prod.fst) →
          exec (.cmdWaitPoll r) s = .next (complete t r 0 0 x.ctx 0))
        ∧ (leNat (d.map Prod.fst) < cW c 3 → exec (.cmdWaitPoll r) s = .next t))
    ∧ (waiting s r = some c → bits (cW c 4) 31 0 ≠ 0 → exec (.cmdWaitTimeout r) s = .next (complete s r 10 0 x.ctx 0))
    ∧ (waiting s r = some c → bits (cW c 4) 31 0 = 0 → exec (.cmdWaitTimeout r) s = .next s)
    ∧ (y.priv = false → (good 5 → exec (.cmdCreate r) s = done s1 2 0) ∧ (good 6 → destroyRuns s r = none → exec (.cmdDestroy r) s = done s1 2 0))
    ∧ (good 5 → y.priv = true → bits (cW c 2) 63 44 = 0 → a % 64 = 0 → wordsZero c [4, 5, 6, 7] = true →
        (canon s1.map a).isSome = true → blk.any Prod.snd = false →
        (admission s1 words K = 0 → bareDc s1 (freeCtx s1) = false → exec (.cmdCreate r) s
          = .next (complete (writeAccount made (freeCtx s1)) r 0 0 (freeCtx s1) (freeCtx s1)))
        ∧ (admission s1 words K = 0 → bareDc s1 (freeCtx s1) = true → exec (.cmdCreate r) s = .next (complete s1 r 6 1 0 0))
        ∧ (admission s1 words K = n → n ≠ 0 → exec (.cmdCreate r) s = .next (complete s1 r 6 n 0 0)))
    ∧ (∀ m, destroyRuns s r = some m → exec (.cmdDestroy r) s = .next (preempt s m))
    ∧ (good 6 → destroyRuns s r = none → y.priv = true → cW c 2 = n → n < 4096 → bits n 11 0 = n → bits n 63 12 = 0 → wordsZero c [3, 4, 5, 6, 7] = true →
        ((ctxOf s1 n).admitted = true → exec (.cmdDestroy r) s = .next (complete (destroyCtx s1 n) r 0 0 n 0))
        ∧ ((ctxOf s1 n).admitted = false → exec (.cmdDestroy r) s = .next (complete s1 r 3 3 n 0)))
    ∧ (waits = true → exec (.cmdLaunch r) s = .next s)
    ∧ (waits = false → good 1 → y.priv = false → bits (cW c 2) 63 57 = 0 → bits (cW c 3) 63 1 = 0 → cChain c = 0 →
        C.admitted = true →
        (C.st = .stranded → exec (.cmdLaunch r) s = done s1 3 2)
        ∧ (C.st ≠ .stranded → C.faulted = true → bitAt (cW c 0) 13 = false → exec (.cmdLaunch r) s = done s1 3 1)
        ∧ (C.st ≠ .stranded → C.faulted = false → bitAt (cW c 3) 0 = false → C.acct.guar ≠ 1 →
          checkHeaders s1 y.ctx ((List.range 8).map fun _ => kern) (maskList 8 C.sched.leMask) = (.ok worst, t) →
          exec (.cmdLaunch r) s = .next (modCtx t y.ctx fun q => { q with
            faulted := false, unrec := false, st := .runnable,
            acct := if q.acct.guar != 1 then q.acct
              else if q.acct.budget < worst then { q.acct with guar := 2 }
              else { q.acct with budget := q.acct.budget - worst },
            launch := some { ring := r, hdrs := (List.range 8).map fun _ => kern, billed0 := q.acct.billed,
                             args := (List.range 4).map (fun i => c.words.getD (4 + i) 0) ++ (List.range 4).map fun _ => 0 } })))
    ∧ ((ctxOf s ctx).launch = some k → powered s = true → flagWaits s ctx k.ring = false →
        ((ctxOf s ctx).faulted = true → exec (.launchComplete ctx) s
          = .next (finishLaunch (endStreams s ctx) ctx 5 0 (faultResult s ctx)))
        ∧ ((ctxOf s ctx).faulted = false → k.started = true → (ctxOf s ctx).onGang = true →
          (gang (ctxOf s ctx)).all (fun ge => (eng s ge).seq.state == .idle) = true → exec (.launchComplete ctx) s
            = .next (finishLaunch s ctx 0 0 ((ctxOf s ctx).acct.billed - k.billed0).toNat)))

/-- A host die's reset drops its lines and records it, a core's reset writes back its lines, and leaving reset checks the descriptor. -/
def Obligations.HostDiesResetAndReturn : Prop :=
  ∀ (s : State) (die hart : Nat) (lost late failed : List Nat),
    let abort (c : Nat) (t : State) : State := { t with dict := { t.dict with abort := c } }
    let gone := loseAgent (flushAgent s (96 + die) lost) (96 + die)
    let mine := ((s.harn.l2.map Prod.fst).filter fun k => k / 2 ^ 38 == hart).map (· % 2 ^ 38)
    let back := mine.foldl (fun t l => leaveL2 t hart l (late ++ failed)) s
    let n := preserveStatus s
    (1 < die → exec (.hostDieReset die lost) s = .next (abort 0x00030002 s))
    ∧ (die ≤ 1 → exec (.hostDieReset die lost) s = .next (abort 0 (note { gone with
        hosts := { gone.hosts with dieReset := sset false gone.hosts.dieReset die true } } 14 1 3 5 die [])))
    ∧ (95 < hart → exec (.hostCoreReset hart late failed) s = .next (abort 0x00030002 s))
    ∧ (hart ≤ 95 → exec (.hostCoreReset hart late failed) s = .next (abort 0 (note (modHarn back fun x => { x with
        resv := x.resv.filter fun r => r.1 != hart, lrDefer := x.lrDefer.filter fun r => r.1 != hart })
        14 2 2 5 (hart / 48) [BitVec.ofNat 64 hart])))
    ∧ (sget false s.hosts.dieReset die = false → exec (.hostDieResetExit die) s = .next s)
    ∧ (sget false s.hosts.dieReset die = true → exec (.hostDieResetExit die) s = .next (note { s with hosts := { s.hosts with
        dieReset := sset false s.hosts.dieReset die false,
        coreReset := s.hosts.coreReset.filter fun e => e.1 / 48 != die, preserve := n } } 14 3 1 5 die [BitVec.ofNat 64 n]))
    ∧ (od s 0x4020 3 = 0 → n = 0) ∧ n ≤ 3

/-- A register read gives its word or latches its group, a write replaces the bytes it covers, and W1C bits clear what is written 1. -/
def Obligations.RegistersAreReadLatchedAndWritten : Prop :=
  ∀ (s : State) (agent pa b n width ge p : Nat) (w v : W64),
    let got (t : State) (w : W64) : State := { t with mmio := { t.mmio with reads := t.mmio.reads ++ [(pa, partWord w pa width)] } }
    let group := ssetRun 0 s.mmio.latch b ((List.range n).map fun i => regValue s (b + 8 * i))
    let reg := pa / 8 * 8
    let pcie : Bool := decide ((0xF2000000000 ≤ reg ∧ reg < 0xF2040000000) ∨ (0xF4000000000 ≤ reg ∧ reg < 0xF8000000000))
    let fault := reply s (.fault agent pa)
    let c := (eng s ge).chain
    let cleared (i : Nat) (f : Bool) : Bool := f && !bitAt v.toNat i
    let fits : Prop := (width = 4 ∨ width = 8) ∧ pa % width = 0
    (¬ fits ∨ regWord s reg = .absent → exec (.snapshotRead agent ⟨pa, width⟩) s = .next fault)
    ∧ (fits → regWord s reg = .word w →
        (rsGroup reg = none → exec (.snapshotRead agent ⟨pa, width⟩) s = .next (got s w))
        ∧ (rsGroup reg = some (b, n) → reg ≠ b →
          exec (.snapshotRead agent ⟨pa, width⟩) s = .next (got s (sget 0 s.mmio.latch reg)))
        ∧ (rsGroup reg = some (b, n) → reg = b →
          exec (.snapshotRead agent ⟨pa, width⟩) s = .next (got { s with mmio := { s.mmio with latch := group } } w)))
    ∧ (fits → regWord s reg = .unstated → rsGroup reg = none →
        exec (.snapshotRead agent ⟨pa, width⟩) s = .next (got { s with free := s.free + 1 } (Config.freeWord s.free)))
    ∧ partWord w pa 8 = w ∧ (pa % 8 = 0 → (partWord w pa 4).toNat = w.toNat % 2 ^ 32)
    ∧ (pa % 8 = 4 → (partWord w pa 4).toNat = w.toNat / 2 ^ 32)
    ∧ ((width ≠ 4 ∧ width ≠ 8) ∨ pa % width ≠ 0 ∨ regWord s (pa / 8 * 8) = .absent →
        exec (.registerWrite agent pa width v) s = .next fault)
    ∧ (width = 4 ∨ width = 8 → pa % width = 0 → regWord s (pa / 8 * 8) ≠ .absent →
        (pcie = true → (noFunction s reg || bitAt s.lands.portReset (portOf reg)) = true → exec (.registerWrite agent pa width v) s = .next s)
        ∧ (pcie = true → (noFunction s reg || bitAt s.lands.portReset (portOf reg)) = false → exec (.registerWrite agent pa width v) s
          = .next { s with mmio := { s.mmio with out := s.mmio.out ++ [(pa, width, v)] } })
        ∧ (pcie = false → exec (.registerWrite agent pa width v) s
          = .next (putReg s (pa / 8 * 8) (mergeWord (oldWord s (pa / 8 * 8)) pa width v))))
    ∧ putReg s 0xF0300000000 w = { s with book := { s.book with cursor := w } }
    ∧ (mergeWord w pa 8 v = v ∧ (pa % 8 = 0 → (mergeWord w pa 4 v).toNat = w.toNat / 2 ^ 32 * 2 ^ 32 + v.toNat % 2 ^ 32)
        ∧ (pa % 8 = 4 → (mergeWord w pa 4 v).toNat = w.toNat % 2 ^ 32 + v.toNat % 2 ^ 32 * 2 ^ 32))
    ∧ exec (.chainStatusW1c ge v) s = .next (setEng s ge { eng s ge with chain := { c with
        inv := cleared 1 c.inv, aovf := cleared 2 c.aovf, ovf := cleared 3 c.ovf, satb := cleared 4 c.satb,
        poison := cleared 5 c.poison, longsum := cleared 6 c.longsum, code := cleared 7 c.code } })
    ∧ (bitAt v.toNat 9 = false → exec (.rangeErrorW1c p v) s = .next s)

/-- Events meet their bucket, the queue and the slots by severity; recorders mirror, copies reach NOR, and readers move their cursors. -/
def Obligations.StudbookRecordsAreLimitedKeptAndRead : Prop :=
  ∀ (s t : State) (e : Event) (r : Rec) (l : List Event) (q : List Rec) (i rc reader k v : Nat) (c : NorCopy) (d : List Byte)
      (burst : Bool),
    let abort (n : Nat) (t : State) : State := { t with dict := { t.dict with abort := n } }
    let book (t : State) (f : Studbook → Studbook) : State := { t with book := f t.book }
    let s1 := { s with raised := l }
    let code := e.area % 16 * 4096 + e.num % 4096
    let b := sget {} s.book.buckets (bucketOf code)
    let free := decide (6 ≤ (formRec s1 e 0).1.sev) || e.area % 16 == 0
      || (match triggerFor s1 code with | some w => bitAt (trW w 0) 37 | none => false)
    let taken := { s1 with free := s.free + (formRec s1 e 0).2 }
    let bucket (t : State) (x : Bucket) : State := book t fun y => { y with buckets := sset {} y.buckets (bucketOf code) x }
    let join (t : State) (r : Rec) : State := book t fun y => { y with queue := y.queue ++ [r] }
    let room : Prop := s.book.queue.length < 256
    let rest := book s fun y => { y with queue := q }
    let w := leNat (d.take 8)
    let words := (List.range 32).map fun i => BitVec.ofNat 64 (bufWord d (8 * i))
    let refilled := (List.range 1024).foldl (fun (m : SMap Bucket) k =>
      smod {} m k fun x => { x with tokens := max x.tokens (min (od s 0x7005 2) (x.tokens + 1)) }) s.book.buckets
    let sel := od s 0x7003 1
    (recorderRuns s = false → exec .studbookSubmit s = .next s)
    ∧ (recorderRuns s = true → s.raised = e :: l → room →
        (free = true → exec .studbookSubmit s = .next (join taken (formRec s1 e 0).1))
        ∧ (free = false → b.tokens = 0 → exec .studbookSubmit s = .next (book (bucket s1 { b with sup := b.sup + 1 })
          fun y => { y with suppressedTotal := y.suppressedTotal + 1 }))
        ∧ (free = false → b.tokens ≠ 0 → exec .studbookSubmit s
          = .next (join (bucket taken { tokens := b.tokens - 1, sup := 0 })
            { (formRec s1 e 0).1 with suppressed := min 65535 b.sup })))
    ∧ (256 ≤ s.book.queue.length → r.sev < 7 → enqueueRec s r = some (dropRec s r))
    ∧ exec .tokenRefill s = .next (book s fun y => { y with buckets := refilled })
    ∧ (s.book.queue = [] ∨ recorderRuns s = false → exec .studbookRecordWrite s = .next s)
    ∧ (s.book.queue = r :: q → recorderRuns s = true →
        (slotFor rest r = some i → exec .studbookRecordWrite s = .next (writeRec rest i r)
          ∧ (writeRec rest i r).book.nextSeq = s.book.nextSeq + 1)
        ∧ (slotFor rest r = none → exec .studbookRecordWrite s
          = .next (book rest fun y => { y with drops := smod 0 y.drops r.sev (· + 1) })))
    ∧ (rc ≤ 1 → bitAt s.book.failed rc = false →
        let gone := book s fun y => { y with
          failed := setBit y.failed rc, mirrorOk := false,
          ring := y.ring.filter fun (x : Nat × Option Rec) => x.1 / 16384 != rc }
        exec (.recorderFailure rc) s = .next (if recorderRuns gone then noteUnit gone 0 3 5 6 rc [] else gone))
    ∧ (s.book.hold = some c → exec .studbookNorCopyDone s
        = .next (book s fun y => { y with hold := none, nor := sset none y.nor (norSlot s) (some c) }))
    ∧ (objRead s reader 0x7000 3 = .ok d → recFrom s (selNat s reader 0x7000 2) = some r →
        exec (.studbookRecordRead reader) s = .next (book (abort 0 (setSel s reader 0x7000 2 (leBytes 8 (r.seq + 1))))
          fun y => { y with reads := y.reads ++ [(reader, d)] }))
    ∧ (objRead s reader 0x7000 3 = .error k → exec (.studbookRecordRead reader) s = .next (abort k s))
    ∧ (objRead s reader 0x7001 3 = .ok d → selNat s reader 0x7001 2 < s.book.qva.length →
        exec (.qvaRecordRead reader) s = .next (book
          (abort 0 (setSel s reader 0x7001 2 (leBytes 2 (selNat s reader 0x7001 2 + 1))))
          fun y => { y with reads := y.reads ++ [(reader, d)] }))
    ∧ (objRead s reader 0x7001 3 = .error k → exec (.qvaRecordRead reader) s = .next (abort k s))
    ∧ (d.length ≠ 72 → exec (.swRecord d) s = .next (abort 0x00030001 s))
    ∧ (d.length = 72 →
        (bits w 15 12 ≠ 15 ∨ 5 < bits w 18 16 ∨ bits w 63 19 ≠ 0 → exec (.swRecord d) s = .next (abort 0x00030002 s))
        ∧ (bits w 15 12 = 15 → bits w 18 16 ≤ 5 → bits w 63 19 = 0 → exec (.swRecord d) s
          = .next (abort 0 (noteUnit s 15 (bits w 11 0) (bits w 18 16) 15 0
            ((List.range 8).map fun i => BitVec.ofNat 64 (bufWord d (8 + 8 * i)))))))
    ∧ (d.length = 256 →
        (triggerBad words = true → exec (.triggerEntryWrite d) s = .next (abort 0x00030002 s))
        ∧ (triggerBad words = false → commitStore s (storeKey sel 0x7003 2) d = .ok t → exec (.triggerEntryWrite d) s
          = .next (abort 0 (book t fun y => { y with
            triggers := sset [] y.triggers sel (if words.all (· == 0) then [] else words) }))))
    ∧ (v = 0 ∨ (if burst then 1024 else 10000) < v → exec (.rateLimitWrite burst v) s = .next (abort 0x00030002 s))
    ∧ (v ≠ 0 → v ≤ 10000 → persistPut s 0x7005 1 (leBytes 2 v) = .ok t → exec (.rateLimitWrite false v) s = .next (abort 0 t))

/-- Monitors report PRED × CAL and calibrate, Grooms rein past 1.2 × the cap, breaches clear after 100 ms, and slew and coolant demand follow. -/
def Obligations.GaitPowerAndBreachesAreKept : Prop :=
  (∀ (s : State) (k pred live cal : Nat),
      let m := sget {} s.power.monitors k
      let c := m.cal.getD (max 850000 (min 1150000 (Config.calTrim k)))
      let want := live * 1000000 / pred
      let v := if c < want then min want (c + c * 5 / 1000) else max want (c - c * 5 / 1000)
      let mon (f : Monitor → Monitor) : State :=
        { s with power := { s.power with monitors := smod {} s.power.monitors k f } }
      let others := ((List.range 12).map (k / 12 * 12 + ·)).filter fun j => j != k && !sget false s.contain.clOut j
      (m.faulty = false → exec (.gaitMonitorSample k pred live) s = .next (mon fun x => { x with gait := pred * c / 1000000 }))
      ∧ (m.faulty = true →
          (0 < live → exec (.gaitMonitorSample k pred live) s = .next (mon fun x => { x with gait := live * 97 / 100 }))
          ∧ (live = 0 → exec (.gaitMonitorSample k pred live) s = .next (mon fun x => { x with
              gait := (others.map fun j => (sget {} s.power.monitors j).gait).min?.getD 0 })))
      ∧ (pred = 0 → exec (.liveCalibration k pred live) s = .next s)
      ∧ (pred ≠ 0 →
          (850000 ≤ v → v ≤ 1150000 → exec (.liveCalibration k pred live) s = .next (mon fun x => { x with cal := some v }))
          ∧ (v < 850000 ∨ 1150000 < v → exec (.liveCalibration k pred live) s
            = .next (noteUnit (mon fun x => { x with faulty := true }) 10 4 2 3 k [BitVec.ofNat 64 v])))
      ∧ (m.faulty = true → 850000 ≤ cal → cal ≤ 1150000 → exec (.replicaSelfCheck k cal) s
          = .next (mon fun x => { x with faulty := false, cal := some cal }))
      ∧ (m.faulty = false ∨ cal < 850000 ∨ 1150000 < cal → exec (.replicaSelfCheck k cal) s = .next s))
  ∧ (∀ (s : State) (die power mean : Nat) (dies : List Nat) (good full : Bool),
        let pw (f : Power → Power) : State := { s with power := f s.power }
        let slew := od s 0x3002 1 / 10
        let floor := max (min (od s 0x3006 1) (od s 0x3000 1)) (mean - slew)
        let low := decide (mean < s.power.floor)
        let missed := if low && full then s.power.shortfall + 1 else s.power.shortfall
        let slewed (p : Power) : Power :=
          { p with power := mean, ceiling := some (mean + slew), floor := floor, shortfall := missed }
        let inService := (List.range 8).filter fun d => !dieRetired s.map d
        let demand := (max mean (s.power.ceiling.getD 0) + 49) / 50 * 50
        let shown := pw fun p => { p with demand := demand, demands := (demand :: p.demands).take 10 }
        let p := dieOf s die
        let ended (b : Breach) : Event :=
          { area := 10, num := 2, sev := 0, kind := 4, unit := b.die,
            params := [BitVec.ofNat 64 b.die, BitVec.ofNat 64 b.cause, BitVec.ofNat 64 (s.ost.time - b.start)] }
        let braked := { s with lands := { s.lands with brake := true, brakeEvents := s.lands.brakeEvents + 1 } }
        let reined := inService.foldl (fun t d => startBreach (applyRein t d) d 2) braked
        (12 * p.cap < 10 * power → die < 8 → exec (.groomPowerSample die power) s
            = .next (startBreach (applyRein (modDie s die fun x => { x with groomRein := true }) die) die 2))
        ∧ (10 * power ≤ 12 * p.cap ∨ 8 ≤ die → exec (.groomPowerSample die power) s = .next s)
        ∧ (breachHolds s = true ∨ s.ost.time < s.power.condAt + 100000000 → exec .floorBreachClear s = .next s)
        ∧ (breachHolds s = false → s.power.condAt + 100000000 ≤ s.ost.time → ∃ t, exec .floorBreachClear s = .next t
            ∧ t.power = { s.power with breaches := [] } ∧ t.rein = s.rein ∧ t.mem = s.mem
            ∧ t.raised = s.raised ++ s.power.breaches.map ended)
        ∧ exec (.slewWindow mean dies full) s = .next (inService.foldl
            (fun t d => modDie t d fun x => { x with power := dies.getD d 0, fill := low && !x.slow && sget 0 s.rein d == 0 })
            (pw slewed))
        ∧ (s.power.demands.any (fun x => decide (x + 500 < demand)) = true →
            exec (.coolantDemandUpdate mean) s = .next (noteUnit shown 10 3 1 0 0 [BitVec.ofNat 64 demand]))
        ∧ (s.power.demands.any (fun x => decide (x + 500 < demand)) = false → exec (.coolantDemandUpdate mean) s = .next shown)
        ∧ (good = true → p.avsFail = true → exec (.avsbusRetry die good) s
            = .next (applyRein (modDie s die fun x => { x with avsFail := false }) die))
        ∧ (good = false ∨ p.avsFail = false → exec (.avsbusRetry die good) s = .next s)
        ∧ (s.lands.brake = false → exec .powerBrakeAssert s = .next { reined with
            hosts := { reined.hosts with freq := sset 3600 (sset 3600 reined.hosts.freq 0 800) 1 800 } })
        ∧ (s.lands.brake = true → exec .powerBrakeAssert s = .next s)
        ∧ exec .powerBrakeRelease s = .next (inService.foldl applyRein { s with lands := { s.lands with brake := false } }))

/-- The governor raises the voltage below the floor, lowers voltage or adds rein above the cap, eases rein below it, and holds gait near nominal. -/
def Obligations.GovernorStepsVoltageAndRein : Prop :=
  ∀ (s : State) (d power rest other : Nat) (hosts powers lost : List Nat) (temps hbm : List Int),
    let p := dieOf s d
    let g := dieGait s d
    let c := (dieCap s d rest).1
    let cause := (dieCap s d rest).2
    let v := p.vddc
    let top := max 700 (min 850 (Config.vmaxTrim d))
    let setTo (mv duty : Nat) : State := applyRein (modDie s d fun x =>
      { x with vddc := max 550 (min 850 mv), duty := duty, cap := c, last := power,
               groomRein := false, holdRein := false }) d
    (s.lands.brake = false → p.avsFail = false →
      (g < 1600 → v ≠ top → governDie s d power rest = setTo (min (v + 25) top) p.duty)
      ∧ (g < 1600 → v = top → governDie s d power rest = startBreach (setTo top p.duty) d 1)
      ∧ (1616 < g → c < power → governDie s d power rest = setTo (v - 5) p.duty)
      ∧ (1600 ≤ g → g ≤ 1616 → c < power →
          governDie s d power rest = startBreach (setTo v (min (p.duty + 1) 16)) d cause)
      ∧ (1600 ≤ g → power ≤ c →
        (0 < p.duty → 100 * power < 98 * c → governDie s d power rest = setTo v (p.duty - 1))
        ∧ (p.duty = 0 → g < 2000 → 100 * power < 98 * c → v < top → governDie s d power rest = setTo (v + 5) 0)
        ∧ (p.duty = 0 ∨ 98 * c ≤ 100 * power → 2020 < g → governDie s d power rest = setTo (v - 5) p.duty)
        ∧ (2000 ≤ g → g ≤ 2020 → p.duty = 0 ∨ 98 * c ≤ 100 * power → governDie s d power rest = setTo v p.duty)))
    ∧ (c ≤ od s 0x3001 (d + 1) ∧ c ≤ shareOf s (od s 0x3000 1 - rest) d
        ∧ (p.slow = true → c ≤ 95 * p.last / 100 ∧ cause = 4))
    ∧ (s.lands.brake = true ∨ p.groomRein = true ∨ p.holdRein = true ∨ p.avsFail = true → reinOf s d = 16)
    ∧ (temps.any (fun x => decide (115 ≤ x)) = true ∨ hbm.any (fun x => decide (105 ≤ x)) = true →
        exec (.governorInterval powers other hosts temps hbm [] lost) s = .next (enterHobble (readTemps s temps hbm) 1 lost))
    ∧ (temps.any (fun x => decide (115 ≤ x)) = false → hbm.any (fun x => decide (105 ≤ x)) = false →
        powered (readTemps s temps hbm) = true → (readTemps s temps hbm).ost.failed = false →
        (other + hosts.sum + powers.sum ≤ od (readTemps s temps hbm) 0x3000 1) →
        ∃ t, exec (.governorInterval powers other hosts temps hbm [] lost) s = .next t ∧
          t.rein = ((diesIn (readTemps s temps hbm)).foldl (fun u k =>
            let w := governDie u k (powers.getD k 0) (other + hosts.sum)
            if sget .running u.ost.grooms k == .restarting && decide (12 * (dieOf w k).cap < 10 * powers.getD k 0) then
              startBreach (applyRein (modDie w k fun x => { x with holdRein := true }) k) k 2
            else w) (readTemps s temps hbm)).rein)

/-- Hobble and sleep are entered with their cause and left when it has cleared, rails rise in order or fall into Hobble, and the TAP runs in its mode. -/
def Obligations.HobbleSleepRailsAndTheTestPort : Prop :=
  (∀ (s : State) (die pc : Nat) (lost : List Nat) (reads : List (Int × Int × Bool)),
      let pw (f : Power → Power) : State := { s with power := f s.power }
      let abort (n : Nat) (t : State) : State := { t with dict := { t.dict with abort := n } }
      let tripped := { s with
        lands := { s.lands with thermtrip := true, en := if die < 10 then clrBit s.lands.en die else s.lands.en },
        power := { s.power with hotAt := some s.ost.time } }
      let unit : Nat × Nat := (if die < 8 then 4 else if die < 10 then 5 else 6, if die < 8 then die else (die - 8) % 2)
      let leaving := startRails (pw fun p => { p with hobble := 3 }) .hobbleExit
      let stays : Prop := s.power.hobble ≠ 2 ∨ hobbleClear s = false ∨ s.ost.failed = true
      let m := median (reads.map fun r => r.1)
      let bad (r : Int × Int × Bool) : Bool := r.2.2 || decide (8 < r.1 - m - r.2.1) || decide (8 < m + r.2.1 - r.1)
      let silent (t : State) : State := (List.range 18).foldl portDown { t with engines := [], claims := [] }
      let off (t : State) : State := { t with
        hosts := { t.hosts with dieReset := sset false (sset false t.hosts.dieReset 0 true) 1 true },
        lands := { t.lands with en := t.lands.en / 1024 * 1024, pg := t.lands.pg / 1024 * 1024 },
        power := { t.power with vddh := 0 } }
      let dark (t : State) : State := abortUpdate
        ((List.range 8).foldl (fun t d => modDie t d fun p => { p with vddc := 0 }) (off (flushAll (silent t) lost)))
      let aged (cause : Nat) : State := raiseGens (raiseGens (raiseGens (dark (freezeCopy s cause)) 4 8) 5 2) 16 2
      exec (.supplyFault lost) s = .next (enterHobble (pw fun p => { p with supplyAt := some s.ost.time }) 3 lost)
      ∧ exec (.thermalTrip die lost) s = .next (enterHobble (noteUnit tripped 10 8 7 unit.1 unit.2 []) 2 lost)
      ∧ exec (.hobbleRequest lost) s = .next (abort 0 (enterHobble s 6 lost))
      ∧ (∀ cause, s.power.hobble = 2 → enterHobble s cause lost = s)
      ∧ (∀ cause, s.power.hobble ≠ 2 → (enterHobble s cause lost).power.hobble = 2 ∧ (enterHobble s cause lost).power.cause = cause)
      ∧ (∀ cause, s.power.hobble ≠ 2 → enterHobble s cause lost = noteUnit { aged cause with
          power := { (aged cause).power with hobble := 2, cause := cause, sleepState := 0 },
          boot := { (aged cause).boot with seq := .none } } 10 6 6 0 0 [BitVec.ofNat 64 cause])
      ∧ (stays → exec .hobbleExit s = .next (abort 0x00030003 s) ∧ exec .hobbleAutoExit s = .next s)
      ∧ (¬ stays → exec .hobbleExit s = .next (abort 0 leaving)
          ∧ (od s 0x3008 5 = 1 → exec .hobbleAutoExit s = .next leaving) ∧ (od s 0x3008 5 ≠ 1 → exec .hobbleAutoExit s = .next s))
      ∧ (hobbleClear s = true ↔ (∀ t, s.power.hotAt = some t → t + 10000000000 ≤ s.ost.time)
          ∧ (∀ t, s.power.supplyAt = some t → t + 100000000 ≤ s.ost.time))
      ∧ (powered s = false ∨ s.pads.any (fun e => e.2.st != .unused && e.2.st != .stopped) = true →
          exec (.sleepRequest lost) s = .next (abort 0x00030003 s))
      ∧ (powered s = true → s.pads.any (fun e => e.2.st != .unused && e.2.st != .stopped) = false →
          exec (.sleepRequest lost) s = .next (abort 0 (enterSleep s lost)) ∧ (enterSleep s lost).power.sleepState = 2)
      ∧ (bitAt (od s 0x3009 3) 2 = true → s.power.sleepState = 2 → s.power.hobble = 0 →
          exec .wakeNAssert s = .next (startRails (pw fun p => { p with sleepState := 3 }) .wake))
      ∧ (bitAt (od s 0x3009 3) 2 = false ∨ s.power.sleepState ≠ 2 ∨ s.power.hobble ≠ 0 → exec .wakeNAssert s = .next s)
      ∧ exec (.sensorCheck die reads) s = .next ((reads.zipIdx).foldl (fun (t : State) (x : (Int × Int × Bool) × Nat) =>
          let u := modPower t fun p => { p with suspects := sset false p.suspects (die * 16 + x.2) (bad x.1) }
          if bad x.1 && !sget false t.power.suspects (die * 16 + x.2) then noteUnit u 10 5 2 unit.1 unit.2 [BitVec.ofNat 64 x.2]
          else u) s)
      ∧ exec (.eyeRetrainScan pc) s = .next (pw fun p => { p with scans := smod 0 p.scans pc (· + 64) })
      ∧ exec (.eyeRetrainHold pc) s = .next (pw fun p => { p with scans := smod 0 p.scans pc (· - 1) }))
  ∧ (∀ (s : State) (rail : Nat) (failed : List (Nat × Nat)) (lost : List Nat) (pins data : List Bool),
        let lands (t : State) (f : Lands → Lands) : State := { t with lands := f t.lands }
        let en := bitAt s.lands.en rail
        let pg := bitAt s.lands.pg rail
        let good := lands s fun l => { l with pg := setBit l.pg rail }
        let rises : Prop := en = true ∧ pg = false ∧ rail ≤ 11
        let fails (t : State) : State := enterHobble { t with
          power := { t.power with supplyAt := some t.ost.time },
          lands := { t.lands with en := t.lands.en / 1024 * 1024 } } 3 lost
        let tap (ir : TapIr) (out : List Bool) (b d : List Bool) : State :=
          lands s fun l => { l with tap := ir, tapOut := out, boundary := b, driven := d }
        let b := s.lands.boundary
        let d := s.lands.driven
        (¬ rises → exec (.powerGoodRise rail failed) s = .next s)
        ∧ (rises →
            (s.boot.seq = .none ∨ s.boot.seq = .role → exec (.powerGoodRise rail failed) s = .next good)
            ∧ (s.boot.seq ≠ .none → s.boot.seq ≠ .role →
              (∀ n, nextRail good = some n →
                exec (.powerGoodRise rail failed) s = .next (lands good fun l => { l with en := setBit l.en n }))
              ∧ (nextRail good = none → exec (.powerGoodRise rail failed) s = .next (finishRails good failed))))
        ∧ (en = true → pg = false → exec (.powerGoodTimeout rail lost) s = .next (fails s))
        ∧ (en = false ∨ pg = true → exec (.powerGoodTimeout rail lost) s = .next s)
        ∧ (en = true → pg = true →
            exec (.powerGoodFall rail lost) s = .next (fails (lands s fun l => { l with pg := clrBit l.pg rail })))
        ∧ (en = false ∨ pg = false →
            exec (.powerGoodFall rail lost) s = .next (lands s fun l => { l with pg := clrBit l.pg rail }))
        ∧ (s.boot.testMode = true →
            exec (.tapBypass data) s = .next (tap .bypass ((false :: data).take data.length) b d)
            ∧ exec (.tapSamplePreload pins data) s = .next (tap .samplePreload pins data d)
            ∧ exec (.tapExtest pins data) s = .next (tap .extest pins data data)
            ∧ exec .tapIdcode s = .next (tap .idcode ((List.range 32).map fun i => bitAt Config.idcode.toNat i) b d)
            ∧ exec .tapReset s = .next (tap .idcode [] b []))
        ∧ (s.boot.testMode = false → exec (.tapBypass data) s = .next s ∧ exec (.tapSamplePreload pins data) s = .next s
            ∧ exec (.tapExtest pins data) s = .next s ∧ exec .tapIdcode s = .next s ∧ exec .tapReset s = .next s))

/-- An error report starts a handling of its unit, escalates one under way, is absorbed by an enclosing one, queues behind eight, or covers its die. -/
def Obligations.ReportsAreEscalatedAbsorbedOrQueued : Prop :=
  ∀ (s : State) (kind unit : Nat) (resetOk : Bool) (lines engines : List Nat) (h : Handling) (q : List Handling),
    let u := (kind, unit)
    let i : ReportInfo := { resetOk := resetOk, lines := lines, engines := engines }
    let none_ : ReportInfo := { resetOk := true, lines := [], engines := [] }
    let named (x : Handling) : Nat × Nat := (x.kind, x.unit)
    let cont (f : Contain → Contain) : State := { s with contain := f s.contain }
    let own : Handling := { kind := kind, unit := unit, level := levelOf kind }
    let outer := (outerOf kind unit).getD (0, 0)
    let meets (x : Handling) : Bool := named x == u || encloses u (named x)
    let under := s.contain.active.any meets
    let over_ := s.contain.active.any fun x => encloses (named x) u
    let old := s.contain.active.filter meets
    let raised : Handling :=
      { kind := outer.1, unit := outer.2, level := levelOf outer.1, reports := 1 + (old.map Handling.reports).sum }
    let opened := cont fun c => { c with escalations := c.escalations + 1, active := c.active.filter fun x => !meets x }
    let die := dieOfUnit u
    let whole : Handling := { kind := die.1, unit := die.2, level := 5 }
    let serves : Prop := ∀ g, groomOf u = some g → sget .running s.ost.grooms g ≠ .restarting
    let w (g : Nat) := sget [] s.ost.waiting g
    let told := exec (.containmentReport kind unit resetOk lines engines) s
    let closed := cont fun c => { c with active := c.active.filter fun x => !(x.kind == kind && x.unit == unit) }
    let cleared := noteUnit (clearFault closed u) 13 6 0 kind unit []
    let inside (x : Handling) : Bool := encloses u (named x)
    let sum := 1 + ((s.contain.active.filter inside).map Handling.reports).sum
    (startHandling s own i = containUnit (noteUnit (cont fun c => { c with
      active := (c.active.filter fun x => !inside x) ++ [{ own with reports := sum }],
      queue := c.queue.filter fun x => !inside x,
      absorbed := c.absorbed + BitVec.ofNat 64 (c.queue.filter inside).length }) 13 4 own.level kind unit
        [BitVec.ofNat 64 sum]) u i)
    ∧ (serves →
      (under = true → told = .next (startHandling opened raised i))
      ∧ (under = false → over_ = true →
          told = .next (noteUnit (cont fun c => { c with absorbed := c.absorbed + 1 }) 13 5 1 kind unit []))
      ∧ (under = false → over_ = false →
          (s.contain.active.length < 8 → told = .next (startHandling s own i))
          ∧ (8 ≤ s.contain.active.length →
              (s.contain.queue.length < 256 →
                told = .next (cont fun c => { c with queue := enqueueReport c.queue own }))
              ∧ (256 ≤ s.contain.queue.length → told = .next (startHandling s whole i)))))
    ∧ (∀ g, groomOf u = some g → sget .running s.ost.grooms g = .restarting →
        ((w g).length < 64 → told = .next
          { s with ost := { s.ost with waiting := sset [] s.ost.waiting g (w g ++ [u]) } })
        ∧ (64 ≤ (w g).length → told = .next { s with ost := { s.ost with overflow := sset false s.ost.overflow g true } }))
    ∧ (q ++ [h] = enqueueReport q h ↔ ∀ x ∈ q, h.level ≤ x.level)
    ∧ (s.contain.active.any (fun x => x.kind == kind && x.unit == unit) = false →
        exec (.containmentClear kind unit) s = .next s)
    ∧ (s.contain.active.any (fun x => x.kind == kind && x.unit == unit) = true →
        (cleared.contain.queue = [] ∨ 8 ≤ cleared.contain.active.length →
          exec (.containmentClear kind unit) s = .next cleared)
        ∧ (cleared.contain.queue = h :: q → cleared.contain.active.length < 8 →
          exec (.containmentClear kind unit) s = .next (startHandling
            { cleared with contain := { cleared.contain with queue := q } } h none_)))

/-- Slots drain, are tested in packed mode and admitted; Remount puts a held slot's engine on the tested spare or takes the cluster out. -/
def Obligations.SlotsAreTestedAndSparesReplaceThem : Prop :=
  (∀ (s : State) (slot arr die ge : Nat) (prog : TestProgram) (bad : List (Nat × Nat × W64)) (bads : List (Nat × Nat × Nat × W64)),
      let st (t : State) (p : Nat) (x : SlotSt) : State := setSlot t p x
      let at_ := slotState s slot
      let packs (t : State) (on : Bool) : State := setPack t slot arr { on := on, quads := if on then List.replicate 4 {} else [] }
      let tested (t : State) (p : Nat) (ok : Bool) : State :=
        noteUnit { t with contain := { t.contain with testResults := sset false t.contain.testResults p ok } }
          13 1 (if ok then 0 else 3) 2 p [BitVec.ofNat 64 (b2n ok)]
      let empty := gridEmpty (arrOf (eng s ge) arr)
      let spares := ((List.range 12).map fun k => spareOf s (die * 12 + k)).filterMap id
      let able := slotState s slot == .test || !s.boot.complete
      let ran := testSlot s slot prog bad
      let one (t : State) (p : Nat) : State :=
        let r := testSlot (packSlot t p true) p prog ((bads.filter fun b => b.1 == p).map Prod.snd)
        let u := tested (packSlot r.2 p false) p r.1
        if r.1 then u else st u p .retired
      let all := spares.foldl one s
      (at_ = .inService → exec (.drainRequest slot) s = .next (st s slot .draining))
      ∧ (at_ ≠ .inService → exec (.drainRequest slot) s = .next s)
      ∧ (at_ = .test → sget false s.contain.testResults slot = true → (∀ a < 4, (packOf s slot a).on = false) →
          exec (.slotAdmission slot) s = .next (st s slot .inService))
      ∧ (at_ ≠ .test ∨ sget false s.contain.testResults slot = false ∨ (∃ a < 4, (packOf s slot a).on = true) →
          exec (.slotAdmission slot) s = .next s)
      ∧ (able = true → engineOn s slot = some ge → empty = true →
          exec (.packedModeEnter slot arr) s = .next (modEng (packs s true) ge fun e => clearArray e arr .packed))
      ∧ (able = true → engineOn s slot = none → exec (.packedModeEnter slot arr) s = .next (packs s true))
      ∧ (able = false → slotIdle s slot = true →
          exec (.packedModeEnter slot arr) s = .next (setPacked (st s slot .test) slot arr true))
      ∧ ((able = false ∧ slotIdle s slot = false) ∨ (able = true ∧ engineOn s slot = some ge ∧ empty = false) →
          exec (.packedModeEnter slot arr) s = .next s)
      ∧ ((packOf s slot arr).on = true → engineOn s slot = some ge → empty = true →
          exec (.packedModeExit slot arr) s = .next (modEng (packs s false) ge fun e => clearArray e arr .free))
      ∧ ((packOf s slot arr).on = true → engineOn s slot = none → exec (.packedModeExit slot arr) s = .next (packs s false))
      ∧ ((packOf s slot arr).on = false ∨ (engineOn s slot = some ge ∧ empty = false) →
          exec (.packedModeExit slot arr) s = .next s)
      ∧ (able = false ∨ slotPacked s slot = false → exec (.packedModeTest slot ⟨prog, bad⟩) s = .next s)
      ∧ (able = true → slotPacked s slot = true → (ran.1 = true ∨ (engineOn s slot).isSome = true) →
          exec (.packedModeTest slot ⟨prog, bad⟩) s = .next (tested ran.2 slot ran.1))
      ∧ (able = true → slotPacked s slot = true → ran.1 = false → engineOn s slot = none →
          exec (.packedModeTest slot ⟨prog, bad⟩) s = .next (st (tested ran.2 slot false) slot .retired))
      ∧ exec (.spareTestInterval die ⟨prog, bads⟩) s
          = .next { all with contain := { all.contain with spareTests := all.contain.spareTests + 1 } })
  ∧ (∀ (s : State) (slot kind unit p ge : Nat) (pass readable bySleep : Bool) (r : Remount) (prog : TestProgram)
        (bad : List (Nat × Nat × W64)),
        let cont (t : State) (f : Contain → Contain) : State := { t with contain := f t.contain }
        let lost := if readable then [] else (engineOn s slot).toList
        let able : Prop := slotState s slot = .held ∧ s.contain.remounts.any (fun r => r.slot == slot) = false ∧ (engineOn s slot).isSome
        let free (t : State) (n : Nat) := (spareOf t n).filter fun p => slotState t p != .held && !t.contain.remounts.any fun r => r.spare == p
        let waits := s.contain.remounts.any fun r => r.slot == slot && !r.committed
        let done := cont s fun c => { c with remounts := c.remounts.map fun r => if r.slot = slot then { r with committed := true } else r }
        let put (t : State) (q : Nat) := { t with slots := { t.slots with map := sset none t.slots.map ge (if q % 9 = ge % 8 then none else some (q % 9)) } }
        let settled := cont (setSlot (setSlot (put s p) p .inService) slot .retired) fun c =>
          { c with remounts := c.remounts.filter fun x => x.slot != slot }
        let k := kind * 4096 + unit
        let admitted := admitKind s kind unit (contentsStand s kind unit bySleep)
        let out := setSlot s slot .retired
        (¬ able → exec (.remount slot ⟨prog, bad⟩ readable) s = .next s)
        ∧ (able → free s (slot / 9) = none → exec (.remount slot ⟨prog, bad⟩ readable) s = .next (clusterLeaves s (slot / 9) lost))
        ∧ (able → free s (slot / 9) = some p →
            ((testSpare s p prog bad).1 = true → exec (.remount slot ⟨prog, bad⟩ readable) s
              = .next (cont (testSpare s p prog bad).2 fun c => { c with remounts := c.remounts ++ [{ slot := slot, spare := p }] }))
            ∧ ((testSpare s p prog bad).1 = false → exec (.remount slot ⟨prog, bad⟩ readable) s
              = .next (clusterLeaves (testSpare s p prog bad).2 (slot / 9) lost)
              ∧ ∃ u, (testSpare s p prog bad).2 = setSlot u p .retired))
        ∧ (s.ost.failed = true ∨ waits = false → exec (.spareMapCommit slot) s = .next s)
        ∧ (s.ost.failed = false → waits = true → exec (.spareMapCommit slot) s = .next (repairDue done 1))
        ∧ (s.contain.remounts.find? (fun r => r.slot == slot && r.committed) = none →
            exec (.remountResume slot readable) s = .next s)
        ∧ (s.contain.remounts.find? (fun r => r.slot == slot && r.committed) = some r → r.spare = p → engineOn s slot = some ge →
            exec (.remountResume slot true) s = .next (noteUnit (unitEvent settled 2 slot) 13 7 1 2 slot [BitVec.ofNat 64 p])
            ∧ exec (.remountResume slot false) s
              = .next (noteUnit (unitEvent (loseEngine settled ge) 2 slot) 13 7 1 2 slot [BitVec.ofNat 64 p]))
        ∧ exec (.unitReadmission kind unit false bySleep) s = .next (noteUnit (retireUnit s kind unit) 13 8 4 kind unit [])
        ∧ (∃ t, exec (.unitReadmission kind unit true bySleep) s = .next t
            ∧ t.gens.copy = sset 0 admitted.gens.copy k (sget 0 admitted.gens.record k)
            ∧ t.contain.retired = sset false admitted.contain.retired k false ∧ t.slots = admitted.slots ∧ t.mem = admitted.mem)
        ∧ (setSlot s slot .held).slots.st = sset .inService s.slots.st slot .held
        ∧ (engineOn s slot = none → retireUnit s 2 slot = out)
        ∧ (engineOn s slot = some ge →
            (free out (slot / 9) = some p → retireUnit s 2 slot = setSlot (loseEngine (put out p) ge) p .inService)
            ∧ (free out (slot / 9) = none → retireUnit s 2 slot = clusterLeaves out (slot / 9) [ge]))
        ∧ (admitKind s 2 slot pass).slots.st = sset .inService s.slots.st slot .inService
        ∧ (contentsStand s kind unit false = true ↔ sget 0 s.gens.copy k = sget 0 s.gens.record k))

/-- Standby power starts cold, a reset keeps what VSTBY keeps, release samples the straps and boots, and the repair log is verified. -/
def Obligations.PackageResetsKeepWhatTheyKeep : Prop :=
  ∀ (s : State) (straps : Nat) (ed0 : Bool) (finds : FlashFinds) (r : Repair),
    let boot (t : State) (f : Boot → Boot) : State := { t with boot := f t.boot }
    let lands (t : State) (f : Lands → Lands) : State := { t with lands := f t.lands }
    let released := boot (lands s fun l => { l with inReset := false, straps := straps % 4 }) fun b => { b with finds := finds }
    let valid := s.boot.repairs.filter fun r => !s.boot.finds.badRepairs.contains r.seq
    let newest (k : Nat) := (valid.filter fun r => r.kind == k).getLast?
    let byte (i n : Nat) : Nat := imgN r.body i n
    let cold := coldState s
    let warm := warmState s
    let held : Prop := s.lands.inReset = true ∧ s.lands.stby = true
    (s.lands.stby = true → exec .standbyPowerOn s = .next s)
    ∧ (s.lands.stby = false → exec .standbyPowerOn s = .next (lands cold fun l => { l with stby := true }))
    ∧ exec .vstbyLoss s = .next (lands cold fun l => { l with stby := false })
    ∧ (cold.mem = {} ∧ cold.engines = [] ∧ cold.rings = [] ∧ cold.ctxs = [] ∧ cold.ost.epoch = 0 ∧ cold.lands.inReset = true
        ∧ cold.dict.store = s.dict.store ∧ cold.boot.slots = s.boot.slots ∧ cold.boot.rollback = s.boot.rollback
        ∧ cold.boot.repairs = s.boot.repairs ∧ cold.gens = {} ∧ cold.book.nor = s.book.nor
        ∧ cold.ckpt.images = s.ckpt.images)
    ∧ (s.lands.stby = true → s.lands.inReset = false → exec .pkgResetAssert s = .next warm)
    ∧ (s.lands.stby = false ∨ s.lands.inReset = true → exec .pkgResetAssert s = .next s)
    ∧ (warm.mem.bytes = s.mem.bytes.filter (fun e => preserved s e.1) ∧ warm.engines = [] ∧ warm.ost.epoch = s.ost.epoch
        ∧ warm.gens.record = [] ∧ warm.gens.copy = s.gens.copy ∧ warm.book = s.book ∧ warm.boot.warmResets = s.boot.warmResets + 1 ∧ warm.lands.inReset = true
        ∧ warm.dict.store = s.dict.store ∧ warm.boot.slots = s.boot.slots)
    ∧ (¬ held → exec (.pkgResetRelease straps ⟨ed0, finds⟩) s = .next s)
    ∧ (held →
        (bitAt straps 1 = true →
          exec (.pkgResetRelease straps ⟨ed0, finds⟩) s = .next (boot released fun b => { b with testMode := true }))
        ∧ (bitAt straps 1 = false →
          (ed0 = true → finds.noSecret.contains 0 = false →
            exec (.pkgResetRelease straps ⟨ed0, finds⟩) s = .next (romBoot (takeRole released 0)))
          ∧ (ed0 = false ∨ finds.noSecret.contains 0 = true →
            exec (.pkgResetRelease straps ⟨ed0, finds⟩) s = .next (boot released fun b => { b with seq := .role }))))
    ∧ (s.boot.seq = .role → s.boot.finds.noSecret.contains 1 = false →
        exec .roleAnnounceTimeout s = .next (romBoot (takeRole (boot s fun b => { b with seq := .none }) 1)))
    ∧ (s.boot.seq ≠ .role ∨ s.boot.finds.noSecret.contains 1 = true → exec .roleAnnounceTimeout s = .next s)
    ∧ (verifyLog s).boot.repairs = valid
    ∧ (newest 1 = none → (verifyLog s).slots = s.slots) ∧ (newest 3 = none → (verifyLog s).gens = s.gens)
    ∧ (newest 4 = none → (verifyLog s).map = s.map)
    ∧ (newest 1 = some r → (verifyLog s).slots = { s.slots with
        map := ssetMany none [] ((List.range 768).filterMap fun ge => if byte ge 1 = ge % 8 then none else some (ge, some (byte ge 1)))
        st := ssetMany .inService [] ((List.range 864).filterMap fun p => if byte (768 + p) 1 = 4 then some (p, .retired) else none) })
    ∧ (newest 3 = some r → (verifyLog s).gens = { s.gens with
        record := ssetMany 0 [] (genKeys.zipIdx.map fun k => (k.1, byte (2 * k.2) 2)) })
    ∧ (newest 4 = some r → (verifyLog s).map = { s.map with retired := if byte 0 1 = 255 then none else some (byte 0 1) })
    ∧ (∀ core, (takeRole s core).ost.epoch = s.ost.epoch + 1 ∧ (takeRole s core).ost.active = core)
    ∧ (s.boot.fw = false ∨ s.boot.complete = true → exec .bootWatchdogReset s = .next s)
    ∧ (s.boot.fw = true → s.boot.complete = false → exec .bootWatchdogReset s = .next
        (romBoot (takeRole (boot s fun b => { b with watchdog := b.watchdog + 1, fw := false, seq := .none }) s.ost.active)))

/-- The ROM boots the preferred image if it verifies, else the other with a record, else recovery; recovery takes a whole verified image. -/
def Obligations.TheRomChoosesAVerifiedImage : Prop :=
  ∀ (s : State) (x : Image) (data : List Byte) (sig : Bool),
    let boot (t : State) (f : Boot → Boot) : State := { t with boot := f t.boot }
    let lost := boot s fun b => { b with recovery := true, recv := [], seq := .none }
    let p := preferred s
    let first := if 3 ≤ s.boot.watchdog then 1 - p else p
    let fell (check : Nat) : State := noteUnit (boot s fun b => { b with fallbacks := b.fallbacks + 1 }) 12 1 4 0 0
      [BitVec.ofNat 64 p, BitVec.ofNat 64 check]
    let all := s.boot.recv ++ data
    let img := parseImage all sig
    let takes : Prop := s.boot.recovery = true ∧ data.length ≤ 1024 ∧ s.boot.recv.length + data.length ≤ 2 ^ 24
    let kept := boot s fun b => { b with slots := sset none b.slots 0 (some img), verified := sset false b.verified 0 true }
    (bitAt s.lands.straps 0 = true → romBoot s = lost)
    ∧ (bitAt s.lands.straps 0 = false →
        (slotCheck s p = 0 → s.boot.watchdog < 3 → romBoot s = runImage s p)
        ∧ (slotCheck s p = 0 → 3 ≤ s.boot.watchdog → first ≠ p → slotCheck s first = 0 → romBoot s = runImage (fell 0) first)
        ∧ (slotCheck s p ≠ 0 → s.boot.watchdog < 3 → slotCheck s (1 - p) = 0 →
            romBoot s = runImage (fell (slotCheck s p)) (1 - p))
        ∧ (slotCheck s first ≠ 0 → slotCheck s (1 - first) ≠ 0 → romBoot s = lost))
    ∧ (imageCheck s x = 0 ↔ x.fmtOk = true ∧ x.keyOk = true ∧ x.sigOk = true ∧ s.boot.rollback ≤ x.svn ∧ x.secOk = true)
    ∧ (¬ takes → exec (.recoveryImageChunk data true sig) s = .next s ∧ exec (.recoveryImageChunk data false sig) s = .next s)
    ∧ (takes →
        exec (.recoveryImageChunk data false sig) s = .next (boot s fun b =>
          { b with recv := all, slots := sset none b.slots 0 none, verified := sset false b.verified 0 false })
        ∧ exec (.recoveryImageChunk data true sig) s = .next (if imageCheck s img = 0 then runImage (writeBootDir kept 0) 0
          else boot s fun b =>
            { b with recv := [], slots := sset none b.slots 0 none, verified := sset false b.verified 0 false }))

/-- The role passes only to a READY standby and raises the epoch; old epochs are discarded; silent and late Grooms are contained at their die. -/
def Obligations.OstlerRoleHeartbeatsAndGrooms : Prop :=
  ∀ (s : State) (g epoch : Nat) (cmd : MgmtCmd) (dies lost lines engines : List Nat) (resetOk : Bool),
    let ost (t : State) (f : Ostler → Ostler) : State := { t with ost := f t.ost }
    let abort (n : Nat) (t : State) : State := { t with dict := { t.dict with abort := n } }
    let info : ReportInfo := { resetOk := resetOk, lines := lines, engines := engines }
    let plain : ReportInfo := { resetOk := true, lines := [], engines := [] }
    let state := sget .running s.ost.grooms g
    let now (x : GroomSt) : State := ost s fun o => { o with grooms := sset .running o.grooms g x }
    let starts : Prop := s.ost.standby = .absent ∧ s.ost.mustTest = false ∧ hasSecret s (1 - s.ost.active) = true ∧ s.boot.fw = true ∧ s.ost.failed = false ∧ s.power.sleepState = 0
    let stops := if s.boot.status = 3 then { now .silent with
      boot := { s.boot with status := 6, groomsDone := 0, dieNow := 0 } } else now .silent
    let fw := if s.boot.status = 6 then slotVersion s s.boot.running else sget 0 s.ost.groomFw g
    let back := ost s fun o =>
      { o with grooms := sset .running o.grooms g .running, groomFw := sset 0 o.groomFw g fw, beats := sset 0 o.beats g o.time,
               waiting := sset [] o.waiting g [], overflow := sset false o.overflow g false }
    let took := (sget [] s.ost.waiting g).foldl (fun t u => takeReport t u plain) back
    (s.boot.fw = true → s.ost.failed = false → s.lands.stby = true →
        exec .ostlerHeartbeat s = .next { s with
          ost := { s.ost with time := s.ost.time + 1000000 }, hosts := { s.hosts with time := s.hosts.time + 100000 } })
    ∧ (s.boot.fw = true → s.ost.standby = .ready → exec (.standbyTakeover dies) s = .next (takeover s false dies))
    ∧ (s.boot.fw = true → s.ost.standby ≠ .ready →
        exec (.standbyTakeover dies) s = .next (ost s fun o => { o with failed := true }))
    ∧ (s.boot.fw = false → exec (.standbyTakeover dies) s = .next s)
    ∧ (∀ planned, (takeover s planned []).ost.active = 1 - s.ost.active ∧ (takeover s planned []).ost.epoch = s.ost.epoch + 1
        ∧ (takeover s planned []).ost.standby = .absent ∧ (takeover s planned []).boot.evidence = []
        ∧ (takeover s planned []).boot.nextLeaf = (takeover s planned []).boot.leafEnd
        ∧ (takeover s planned []).ost.handovers = s.ost.handovers + 1)
    ∧ (s.ost.standby = .ready → exec (.handoverRequest dies) s = .next (abort 0 (takeover s true dies)))
    ∧ (s.ost.standby ≠ .ready → exec (.handoverRequest dies) s = .next (abort 0x00030003 s))
    ∧ (starts → exec .standbySelfTestPass s = .next (ost s fun o => { o with standby := .syncing }))
    ∧ (¬ starts → exec .standbySelfTestPass s = .next s)
    ∧ (s.ost.standby = .syncing → exec .standbySyncComplete s = .next (ost s fun o => { o with standby := .ready }))
    ∧ (s.ost.standby ≠ .syncing → exec .standbySyncComplete s = .next s)
    ∧ (epoch ≠ s.ost.epoch.toNat →
        exec (.mgmtRingCommand epoch cmd) s = .next (ost s fun o => { o with staleCmds := o.staleCmds + 1 }))
    ∧ (epoch = s.ost.epoch.toNat → exec (.mgmtRingCommand epoch .none) s = .next s
        ∧ (∀ slot, exec (.mgmtRingCommand epoch (.drain slot)) s = .next (drainSlot s slot))
        ∧ (∀ d duty, d < 8 → exec (.mgmtRingCommand epoch (.rein d duty)) s
          = .next (applyRein (modDie s d fun p => { p with duty := min 16 duty }) d)))
    ∧ exec (.groomHeartbeat g) s = .next (ost s fun o => { o with beats := sset 0 o.beats g o.time })
    ∧ (12 ≤ g ∨ state ≠ .running ∨ s.ost.time < sget 0 s.ost.beats g + 10000000 →
        exec (.groomSilent g resetOk lines engines) s = .next s)
    ∧ (g < 12 → state = .running → sget 0 s.ost.beats g + 10000000 ≤ s.ost.time →
        exec (.groomSilent g resetOk lines engines) s = .next (takeReport (now .silent) (groomUnit g) info))
    ∧ (state = .restarting → exec (.groomReportTimeout g resetOk lines engines) s = .next (takeReport stops (groomUnit g) info))
    ∧ (state ≠ .restarting → exec (.groomReportTimeout g resetOk lines engines) s = .next s
        ∧ exec (.groomRestartReport g) s = .next s)
    ∧ (g < 12 → state = .running → exec (.groomWatchdogRestart g) s = .next (ost s fun o =>
        { o with grooms := sset .running o.grooms g .restarting, groomRestarts := o.groomRestarts + 1 }))
    ∧ (state = .restarting → s.boot.status ≠ 3 →
        (sget false s.ost.overflow g = false → exec (.groomRestartReport g) s = .next took)
        ∧ (sget false s.ost.overflow g = true → exec (.groomRestartReport g) s = .next (takeReport took (groomUnit g) plain)))
    ∧ (s.ost.failed = true → exec (.groomHoldTimeout lost) s = .next (enterHobble s 5 lost))
    ∧ (s.ost.failed = false → exec (.groomHoldTimeout lost) s = .next s)

/-- An update loads, verifies, restarts Grooms, hands over and commits in order or is refused; no leaf signs twice; evidence is one a second. -/
def Obligations.UpdatesAndLeavesGoInOrder : Prop :=
  ∀ (s : State) (sig flash : Bool) (reader kind : Nat) (nonce d : List Byte) (x : Image),
    let boot (t : State) (f : Boot → Boot) : State := { t with boot := f t.boot }
    let abort (n : Nat) (t : State) : State := { t with dict := { t.dict with abort := n } }
    let refused := abort 0x00030003 s
    let a := od s 0x9001 1
    let n := od s 0x9001 2
    let busy : Prop := s.boot.status = 1 ∨ s.boot.status = 3 ∨ s.boot.status = 4
    let inside : Prop := 4096 ≤ n ∧ n ≤ 2 ^ 24 ∧ (canon s.map a).isSome ∧ (canon s.map (a + n - 1)).isSome
    let bytes := (physRead s a n).map Prod.fst
    let slot := 1 - s.boot.running
    let started := boot s fun b => { b with
      loading := some bytes, status := 1, failedCheck := 0, groomsDone := 0,
      slots := sset none b.slots slot none, verified := sset false b.verified slot false }
    let img := parseImage d sig
    let check := if flash then imageCheck s img else 6
    let ended := boot s fun b => { b with
      loading := none, failedCheck := check, status := if check = 0 then 2 else 6,
      slots := sset none b.slots slot (if flash then some img else none),
      verified := sset false b.verified slot (check == 0) }
    let svn := ((runningImage s).map Image.svn).getD 0
    let l := takeLeaf s
    let evidence := claims l.2 nonce l.1
    let next := if s.boot.nextLeaf < s.boot.leafEnd then s.boot.nextLeaf else 4096 * s.boot.rpmc1
    let soon : Prop := ∃ t, s.boot.lastEvidence = some t ∧ s.ost.time < t + 1000000000
    (¬ inside → exec .updateLoad s = .next (abort 0x00030002 s))
    ∧ (inside → busy → exec .updateLoad s = .next refused)
    ∧ (inside → imgN bytes 12 4 < s.boot.rollback → exec .updateLoad s = .next refused)
    ∧ (inside → ¬ busy → s.boot.rollback ≤ imgN bytes 12 4 → exec .updateLoad s = .next (abort 0 started))
    ∧ (s.boot.loading = none → exec (.updateLoadComplete sig flash) s = .next s)
    ∧ (s.boot.loading = some d → exec (.updateLoadComplete sig flash) s = .next ended)
    ∧ (loadedImage s = none → exec .updateGrooms s = .next refused ∧ exec .updateAtReset s = .next refused
        ∧ exec .updateOstler s = .next refused)
    ∧ (loadedImage s = some x →
        (busy ∨ (slotVersion s s.boot.running).toNat < x.prev → exec .updateGrooms s = .next refused)
        ∧ (¬ busy → x.prev ≤ (slotVersion s s.boot.running).toNat → exec .updateGrooms s
          = .next (abort 0 (restartFrom (boot s fun b => { b with status := 3 }) 0)))
        ∧ exec .updateAtReset s = .next (abort 0 (writeBootDir s slot))
        ∧ (s.boot.status ≠ 3 ∨ s.boot.groomsDone ≠ 12 ∨ s.ost.standby ≠ .ready → exec .updateOstler s = .next refused)
        ∧ (s.boot.status = 3 → s.boot.groomsDone = 12 → s.ost.standby = .ready → exec .updateOstler s
          = .next (abort 0 (boot (writeBootDir (takeover s true []) slot) fun b =>
            { b with running := slot, status := 5, groomsDone := 0, dieNow := 0 }))))
    ∧ (svn ≤ s.boot.rollback ∨ busy ∨ s.boot.status = 2 → exec .updateCommitSvn s = .next refused)
    ∧ (s.boot.rollback < svn → ¬ busy → s.boot.status ≠ 2 →
        exec .updateCommitSvn s = .next (abort 0 (boot s fun b => { b with rollback := svn })))
    ∧ (l.1 = next ∧ l.2.boot.nextLeaf = next + 1 ∧ s.boot.rpmc1 ≤ l.2.boot.rpmc1
        ∧ (s.boot.leafEnd ≤ s.boot.nextLeaf → l.2.boot.rpmc1 = s.boot.rpmc1 + 1))
    ∧ (kind = 0 ∨ 4 < kind ∨ s.boot.fw = false → exec (.repairRecordCommit kind) s = .next s)
    ∧ (1 ≤ kind → kind ≤ 4 → s.boot.fw = true → ∃ t, exec (.repairRecordCommit kind) s = .next t
        ∧ newestRepair t kind = some { kind := kind, seq := s.boot.repairSeq + 1, leaf := next, body := repairBody s kind }
        ∧ t.boot.repairSeq = s.boot.repairSeq + 1 ∧ t.boot.due = clrBit s.boot.due kind ∧ t.mem = s.mem)
    ∧ (nonce.length ≠ 32 → exec (.attestNonce reader nonce) s = .next (abort 0x00030001 s))
    ∧ (nonce.length = 32 →
        (leavesLeft s ≤ 2 ^ 20 → exec (.attestNonce reader nonce) s = .next refused)
        ∧ (2 ^ 20 < leavesLeft s → soon → exec (.attestNonce reader nonce) s = .next (abort 0x00050001 s))
        ∧ (2 ^ 20 < leavesLeft s → ¬ soon → exec (.attestNonce reader nonce) s = .next (abort 0 (boot l.2 fun b => { b with
            evidence := sset none b.evidence reader (some (evidence ++ signature l.1 evidence)),
            lastEvidence := some s.ost.time, signatures := b.signatures + 1 }))))
    ∧ (32768 - next % 32768 ≤ 8192 →
        exec .bottomTreeCompute s = .next (boot s fun b => { b with tree := max b.tree (next / 32768 + 1) }))
    ∧ (8192 < 32768 - next % 32768 → exec .bottomTreeCompute s = .next s)

/-- A request is answered once: a wrong TAG or frame is refused, a repeated SEQ gets its filed answer, a new one is executed and filed. -/
def Obligations.DictionaryRequestsAreServedOnEveryPath : Prop :=
  ∀ (s : State) (eid : Option Nat) (env : DictEnv) (f r : List Byte) (q : DictReq) (c : Client) (l : List Client) (n ch reader step : Nat)
      (w : W64) (items : List ReqItem) (i : ReqItem) (p : OPath),
    let path : OPath := match eid with | some e => .mctp e | none => .odp (fieldAt f 4 2)
    let asleep : Prop := s.power.sleepState = 2
    let s1 := if s.power.sleepState == 2 then wake s else s
    let heard (row : Nat) : Prop := dictServed s = true ∧ fieldAt f 1 1 = row ∧ (asleep → bitAt (od s 0x3009 3) (b2n eid.isSome) = true)
    let after (e : DictEnv) : State := match (serve s1 e path f).2.frame with
      | some r => { (serve s1 e path f).1 with dict := { (serve s1 e path f).1.dict with
          out := (serve s1 e path f).1.dict.out ++ [(path, match eid with | some _ => [0, 0, 0xC1, 0xE5, 0x01] ++ r | none => r)] } }
      | none => (serve s1 e path f).1
    let mail := sget {} s.dict.mail ch
    let put (t : State) (g : Mailbox → Mailbox) : State := { t with dict := { t.dict with mail := smod {} t.dict.mail ch g } }
    let go := { s with
      dict := { s.dict with mail := sset {} s.dict.mail ch { mail with reqLen := bits w.toNat 31 16, done := mail.done && !bitAt w.toNat 2 } }
      mmio := { s.mmio with store := sset 0 s.mmio.store (0xF0200000000 + 0x1000 * ch) (BitVec.ofNat 64 (bits w.toNat 15 3 * 8)) } }
    let cl (t : State) (l : List Client) : State := { t with dict := { t.dict with clients := l } }
    let counted := { s with dict := { s.dict with authFailures := s.dict.authFailures + 1 } }
    let seen := cl s (s.dict.clients.map fun x => if x.num = clientOf p then { x with lastMs := nowMs s } else x)
    let known : Prop := s.dict.clients.find? (fun c => c.num == clientOf p) = some c
    let fresh : Prop := s.dict.clients.find? (fun c => c.num == clientOf p) = none
    (heard 1 → exec (.odpRead eid f) s = .next (after {}))
    ∧ (heard 2 → exec (.odpWrite eid env f) s = .next (after env))
    ∧ (heard 3 → exec (.odpWriteSet eid env f) s = .next (after env))
    ∧ (heard 4 → exec (.odpReadStaged eid f) s = .next (after {}))
    ∧ (heard 5 → exec (.odpEnum eid f) s = .next (after {}))
    ∧ (dictServed s = false → exec (.odpRead eid f) s = .next s ∧ exec (.odpWrite eid env f) s = .next s
        ∧ exec (.odpWriteSet eid env f) s = .next s ∧ exec (.odpReadStaged eid f) s = .next s ∧ exec (.odpEnum eid f) s = .next s)
    ∧ (f.length < 32 → ∀ e, serve s env (.odp e) f = (s, {}))
    ∧ (32 ≤ f.length → tagWrong s p f = true → serve s env p f = (counted,
        { frame := some (tagged counted p (respFrame (fieldAt f 1 1) (fieldAt f 4 2) (fieldAt f 8 4) (fieldAt f 12 4) [])) }))
    ∧ (32 ≤ f.length → tagWrong s p f = false →
        (parseReq f = none → serve s env p f = (s, refuseWhole p f 0x00060001))
        ∧ (parseReq f = some q → serve s env p f = byClient s env p f q))
    ∧ (known → c.replies.find? (fun r => r.1 == q.seq) = some (n, r) → byClient s env p f q = (seen, { frame := some r }))
    ∧ (known → c.replies.find? (fun r => r.1 == q.seq) = none → q.seq < c.high →
        byClient s env p f q = (seen, refuseWhole p f 0x00060002))
    ∧ (known → c.replies.find? (fun r => r.1 == q.seq) = none → c.high ≤ q.seq → byClient s env p f q = runReq seen env p q)
    ∧ (fresh → clientRoom s = none → byClient s env p f q
        = (s, { frame := some (tagged s p (respFrame q.op (clientOf p) q.seq q.step (q.items.map fun i => wrote i 0x00050001))) }))
    ∧ (fresh → clientRoom s = some l → byClient s env p f q = runReq (cl s (l ++
        [{ num := clientOf p, high := q.seq, lastMs := nowMs s, replies := [] }])) env p q)
    ∧ (s.dict.clients.length < 64 → clientRoom s = some s.dict.clients)
    ∧ (keyZero s = true → writeItem s env true reader step i.ix i.sub i.ty i.data = .error 0x00040001)
    ∧ ((writeItems s env true reader step items).2.length = items.length)
    ∧ (q.op = 3 → ¬ ((writeItems s env true reader q.step q.items).2.all (fun i => i.abort == 0) = true) →
        (doRequest s env true reader q).1 = s)
    ∧ (q.op = 3 → (writeItems s env true reader q.step q.items).2.all (fun i => i.abort == 0) = true →
        doRequest s env true reader q = writeItems s env true reader q.step q.items)
    ∧ (16 ≤ ch ∨ bitAt w.toNat 0 = false → exec (.mailboxSubmit ch w env) s = .next s)
    ∧ (ch < 16 → bitAt w.toNat 0 = true →
        (mail.busy = true → exec (.mailboxSubmit ch w env) s = .next go)
        ∧ (mail.busy = false → dictServed s = false →
          exec (.mailboxSubmit ch w env) s = .next (put go fun y => { y with busy := true }))
        ∧ (mail.busy = false → dictServed s = true →
          exec (.mailboxSubmit ch w env) s = .next (serveMail (put go fun y => { y with busy := true }) ch env)))
    ∧ (∀ t : State, (sget {} t.dict.mail ch).reqLen < 8 ∨ 1792 < (sget {} t.dict.mail ch).reqLen →
        serveMail t ch env = deliverIrq (put t fun y =>
          { y with resp := [], respLen := 0, abort := 0x00060001, busy := false, done := true, served := y.served + 1 })
          (sget {} t.dict.mail ch).irqTarget)
    ∧ (ch < 16 → bitAt w.toNat 0 = false → bitAt w.toNat 2 = true → exec (.mailboxDoneClear ⟨ch, w⟩) s = .next go)
    ∧ (16 ≤ ch ∨ bitAt w.toNat 0 = true ∨ bitAt w.toNat 2 = false → exec (.mailboxDoneClear ⟨ch, w⟩) s = .next s)

/-- MCTP control commands are answered with their codes, the endpoint ID is set from 8 to 254, and I3C gives the target an address once. -/
def Obligations.MctpAndI3cGiveTheOstlerItsAddresses : Prop :=
  ∀ (s : State) (op eid type selector addr target : Nat),
    let sent (t : State) (cmd : Nat) (r : List Byte) : State := { t with dict := { t.dict with out := t.dict.out ++ [(.control cmd, r)] } }
    let named := { s with ost := { s.ost with eid := eid } }
    let free (a n : Nat) : List Byte := (List.range n).map fun i => Config.mctpByte (a + i)
    let given := { s with ost := { s.ost with i3c := addr } }
    let sets : Prop := op < 2 ∧ 8 ≤ eid ∧ eid < 255
    let versions : Prop := type = 0xFF ∨ type = 0 ∨ type = 0x7E
    (dictServed s = true →
      (sets → exec (.mctpSetEndpointId op eid) s = .next (sent named 1 [0, 0, BitVec.ofNat 8 eid, 0]))
      ∧ (¬ sets → exec (.mctpSetEndpointId op eid) s = .next (sent s 1 [2]))
      ∧ exec .mctpGetEndpointId s = .next (sent s 2 [0, BitVec.ofNat 8 s.ost.eid, 0, 0])
      ∧ (versions → exec (.mctpGetVersionSupport type) s = .next (sent s 4 ([0, 1] ++ free (4 * type) 4)))
      ∧ (¬ versions → exec (.mctpGetVersionSupport type) s = .next (sent s 4 [0x80]))
      ∧ exec .mctpGetMessageTypeSupport s = .next (sent s 5 [0, 1, 0x7E])
      ∧ (selector = 0 → exec (.mctpGetVendorMsgSupport selector) s
        = .next (sent s 6 ([0, 0xFF, 1, 0, 0, 0xC1, 0xE5] ++ free 1024 2)))
      ∧ (selector ≠ 0 → exec (.mctpGetVendorMsgSupport selector) s = .next (sent s 6 [2]))
      ∧ (s.ost.i3c = 0 → exec (.i3cEntdaa addr) s = .next given)
      ∧ (s.ost.i3c = 0 → target = od s 0x1100 4 → exec (.i3cSetdasa target addr) s = .next given))
    ∧ (s.ost.i3c ≠ 0 ∨ dictServed s = false → exec (.i3cEntdaa addr) s = .next s ∧ exec (.i3cSetdasa target addr) s = .next s)
    ∧ (target ≠ od s 0x1100 4 → exec (.i3cSetdasa target addr) s = .next s)
    ∧ (dictServed s = false → exec (.mctpSetEndpointId op eid) s = .next s ∧ exec .mctpGetEndpointId s = .next s
        ∧ exec (.mctpGetVersionSupport type) s = .next s ∧ exec .mctpGetMessageTypeSupport s = .next s
        ∧ exec (.mctpGetVendorMsgSupport selector) s = .next s)
end

