-- ==== Sys2Proof/Laws/Frames.lean ====
section
/-! SUPPORT. What the shared operations leave alone: an access to memory touches the memory side only, and so does the fetch
of an instruction. -/

namespace Sys2Proof.Machine

theorem memSide_refl (s : State) : memSide s s := rfl

theorem memSide_trans {s t u : State} (h : memSide s t) (k : memSide t u) : memSide s u := by
  unfold memSide at *
  rw [k, h]

theorem memSide_fields {s t : State} (h : memSide s t) :
    t.engines = s.engines ∧ t.stamp = s.stamp ∧ t.slots = s.slots ∧ t.ctxs = s.ctxs ∧ t.map = s.map := by
  unfold memSide at h
  rw [h]
  exact ⟨rfl, rfl, rfl, rfl, rfl⟩

theorem memSide_foldl {β : Type} (g : State → β → State) (hg : ∀ t x, memSide t (g t x)) (l : List β) (s : State) :
    memSide s (l.foldl g s) := by
  induction l generalizing s with
  | nil => exact memSide_refl s
  | cons x r ih => exact memSide_trans (hg s x) (ih _)

theorem setCached_side (s : State) (a line : Nat) (v : Option CLine) : memSide s (setCached s a line v) := rfl

theorem dropCopy_side (s : State) (a line : Nat) : memSide s (dropCopy s a line) := rfl

theorem setDir_side (s : State) (line : Nat) (v : Option DirEnt) : memSide s (setDir s line v) := rfl

theorem unstale_side (s : State) (a line : Nat) : memSide s (unstale s a line) := rfl

theorem shareCopy_side (s : State) (a line : Nat) : memSide s (shareCopy s a line) := rfl

theorem reach_side (s : State) (ctx h stamp : Nat) : memSide s (reach s ctx h stamp) := rfl

theorem writeBack_side (s : State) (a line : Nat) : memSide s (writeBack s a line) := by
  unfold writeBack
  repeat' split
  all_goals rfl

theorem recallOwner_side (s : State) (line : Nat) : memSide s (recallOwner s line) := by
  unfold recallOwner
  split
  · exact memSide_trans (writeBack_side _ _ _) rfl
  · rfl

theorem recallLine_side (s : State) (line : Nat) : memSide s (recallLine s line) := by
  unfold recallLine
  exact memSide_trans (memSide_trans (recallOwner_side _ _) (memSide_foldl _ (fun _ _ => dropCopy_side _ _ _) _ _)) rfl

theorem tidyDir_side (s : State) (line : Nat) : memSide s (tidyDir s line) := by
  unfold tidyDir
  repeat' split
  all_goals rfl

theorem makeRoom_side (s : State) (line : Nat) : memSide s (makeRoom s line) := by
  unfold makeRoom
  split
  · rfl
  · split
    · exact memSide_trans (recallLine_side _ _) rfl
    · rfl

theorem evictLine_side (s : State) (a line : Nat) : memSide s (evictLine s a line) := by
  unfold evictLine
  split
  · rfl
  · dsimp only
    split <;> rfl

theorem fitCache_side (s : State) (a line : Nat) : memSide s (fitCache s a line) := by
  unfold fitCache
  split
  · rfl
  · dsimp only
    split
    · exact memSide_trans (show memSide s { s with free := s.free + 1 } from rfl) (evictLine_side _ _ _)
    · rfl

theorem install_side (s : State) (a line : Nat) (st : Moesi) (d : List PByte) : memSide s (install s a line st d) := by
  unfold install
  exact memSide_trans (memSide_trans (fitCache_side s a line) (setCached_side _ _ _ _)) (unstale_side _ _ _)

theorem fillShared_side (s : State) (a line : Nat) : memSide s (fillShared s a line) := by
  unfold fillShared
  dsimp only
  split
  · exact memSide_trans (memSide_trans (makeRoom_side s line) (setDir_side _ _ _)) (install_side _ _ _ _ _)
  · split
    · split
      · split
        · exact memSide_trans (memSide_trans (shareCopy_side s _ line) (setDir_side _ _ _)) (install_side _ _ _ _ _)
        · exact memSide_trans (memSide_trans (shareCopy_side s _ line) (setDir_side _ _ _)) (install_side _ _ _ _ _)
      · exact memSide_trans (memSide_trans (shareCopy_side s _ line) (setDir_side _ _ _)) (install_side _ _ _ _ _)
    · exact memSide_trans (setDir_side s _ _) (install_side _ _ _ _ _)

theorem drainStale_side (s : State) (l : List StaleEnt) : memSide s (drainStale s l) := by
  unfold drainStale
  refine memSide_trans (memSide_foldl _ (fun t e => ?_) _ _) rfl
  exact memSide_trans (memSide_foldl _ (fun _ _ => dropCopy_side _ _ _) _ _) (tidyDir_side _ _)

theorem drainOldest_side (s : State) (h : Nat) : memSide s (drainOldest s h) := by
  unfold drainOldest
  dsimp only
  split
  · rfl
  · exact memSide_trans (drainStale_side _ _) rfl

/-- An access of no context counts for no stream. -/
theorem offCount_noCtx (s : State) (a n : Nat) : offCount s noCtx a n = s := by
  have h : ∀ e : Nat × Offload, (bits e.2.ctl.toNat 44 33 == noCtx) = false := by
    intro e
    have : bits e.2.ctl.toNat 44 33 < 4096 := Nat.mod_lt _ (by decide)
    simp [noCtx]
    omega
  unfold offCount
  simp only [h, Bool.and_false, Bool.false_and, Bool.false_eq_true, if_false, List.map_id']

theorem patchTxns_side (s : State) (a : Nat) (d : List PByte) : memSide s (patchTxns s a d) := by
  unfold patchTxns
  refine memSide_trans (memSide_foldl _ (fun t x => ?_) _ s) rfl
  dsimp only
  repeat' split
  all_goals rfl

/-- A write that no context makes touches the memory side only. -/
theorem wncLine_side (s : State) (stamp a : Nat) (d : List PByte) : memSide s (wncLine s noCtx stamp false a d) := by
  have h1 : memSide s (recallOwner (offCount (reach s noCtx (homeOf a) stamp) noCtx a d.length) (a / 64)) := by
    rw [offCount_noCtx]
    exact memSide_trans (reach_side s _ _ _) (recallOwner_side _ _)
  have h2 (m : Mem) (t : State) (ht : memSide s t) : memSide s (patchTxns (dropResv { t with mem := m } (a / 64)) a d) :=
    memSide_trans (memSide_trans ht (show memSide t (dropResv { t with mem := m } (a / 64)) from rfl)) (patchTxns_side _ _ _)
  simp only [wncLine, wncNow, Bool.false_and, Bool.false_eq_true, if_false]
  split
  · exact memSide_trans (h2 _ _ h1) rfl
  · exact memSide_trans (h2 _ _ h1) rfl

theorem homeWrite_side (s : State) (stamp a : Nat) (d : List PByte) : memSide s (homeWrite s noCtx stamp false a d) :=
  memSide_foldl _ (fun _ _ => wncLine_side _ _ _ _) _ _

theorem ownLine_side (s : State) (a line : Nat) : memSide s (ownLine s a line) := by
  have h1 : memSide s (if (dirEnt s line).isNone then makeRoom s line else s) := by
    split
    · exact makeRoom_side _ _
    · rfl
  unfold ownLine
  exact memSide_trans (memSide_trans (memSide_trans h1 (memSide_foldl _ (fun _ _ => dropCopy_side _ _ _) _ _))
    (setDir_side _ _ _)) (install_side _ _ _ _ _)

theorem patchOwned_side (s : State) (a pa : Nat) (d : List Byte) : memSide s (patchOwned s a pa d) := by
  unfold patchOwned
  split <;> rfl

theorem walkFill_side (s : State) (w : Option Nat) (pa : Nat) : memSide s (walkFill s w pa) := by
  unfold walkFill
  split
  · split
    · exact fillShared_side _ _ _
    · rfl
  · rfl

theorem walkSet_side (s : State) (w : Option Nat) (pa v : Nat) : memSide s (walkSet s w pa v) := by
  unfold walkSet
  split
  · rfl
  · split
    · split
      · exact memSide_trans (ownLine_side _ _ _) (patchOwned_side _ _ _ _)
      · exact homeWrite_side _ _ _ _
    · exact homeWrite_side _ _ _ _

theorem walkEffects_side (s : State) (w : Option Nat) (x : Stage) : memSide s (walkEffects s w x) :=
  memSide_trans (memSide_foldl _ (fun _ _ => walkFill_side _ _ _) _ _) (memSide_foldl _ (fun _ _ => walkSet_side _ _ _ _) _ _)

theorem setTransReg_side (s : State) (inst o v : Nat) : memSide s (setTransReg s inst o v) := rfl

theorem queueFault_side (s : State) (inst dev : Nat) (pid : Option Nat) (va : Nat) (k : AccKind) (f : WalkFail) :
    memSide s (queueFault s inst dev pid va k f) := by
  have up (t : State) (c : Bool) (v : State → Nat) (ht : memSide s t) :
      memSide s (if c then setTransReg t inst 0x50 (v t) else t) := by
    split
    · exact memSide_trans ht (setTransReg_side _ _ _ _)
    · exact ht
  unfold queueFault
  dsimp only
  split
  · rfl
  · apply up _ _ fun t => transReg t inst 0x50 ||| 2 ^ 33
    split
    · exact setTransReg_side _ _ _ _
    · split
      · exact memSide_trans (homeWrite_side _ _ _ _) (setTransReg_side _ _ _ _)
      · exact setTransReg_side _ _ _ _

theorem useDc_side (s : State) (inst dev : Nat) : memSide s (useDc s inst dev).2 := by
  unfold useDc
  repeat' (first | rfl | split | dsimp only)

theorem xlate_side (s : State) (w : Option Nat) (inst dev : Nat) (pid : Option Nat) (va : Nat) (k : AccKind) :
    memSide s (xlate s w inst dev pid va k).2 := by
  have h0 := useDc_side s inst dev
  have fr (t : State) (n : Nat) (ht : memSide s t) : memSide s { t with free := n } := memSide_trans ht rfl
  have tr (t : State) (x : Trans) (ht : memSide s t) : memSide s { t with trans := x } := memSide_trans ht rfl
  unfold xlate
  extract_lets u s2 fresh done
  have h2 : memSide s s2 := h0
  have hd (t : State) (ht : memSide s t) : memSide s (done t).2 := by
    clear_value fresh
    simp only [done]
    split
    · exact tr _ _ (memSide_trans ht (walkEffects_side _ _ _))
    · exact memSide_trans ht (queueFault_side _ _ _ _ _ _ _)
  clear_value done fresh
  repeat' split
  all_goals first
    | exact h2
    | exact fr _ _ h2
    | exact hd _ h2
    | exact hd _ (fr _ _ h2)

theorem vRange_side (s : State) (w : Option Nat) (ctx : Nat) (k : AccKind) (cmb : Bool) (f va n : Nat) :
    memSide s (vRange s w ctx k cmb f va n).2 := by
  induction f generalizing s va n with
  | zero => exact memSide_refl s
  | succ f ih =>
    have hx := xlate_side s w 0 ctx none va k
    unfold vRange
    split
    · exact memSide_refl s
    · dsimp only
      split
      · exact hx
      · split
        · exact hx
        · have hr := ih (xlate s w 0 ctx none va k).2 (va + min n (4096 - va % 4096)) (n - min n (4096 - va % 4096))
          split
          · next h => rw [h] at hr; exact memSide_trans hx hr
          · next h => rw [h] at hr; exact memSide_trans hx hr

/-- All that the fetch of an instruction can do. -/
theorem fetchFault_side (s : State) (ge : Nat) : memSide s (fetchFault s ge).2 := by
  unfold fetchFault
  dsimp only
  split
  · rfl
  · have h := vRange_side s (walker ge) (eng s ge).seq.context .fetch false (8 / 4096 + 2) (eng s ge).seq.pc.toNat 8
    split
    · next hv => unfold vPieces at hv; rw [hv] at h; exact h
    · next hv => unfold vPieces at hv; rw [hv] at h; exact h

/-- The engine an instruction finds after its fetch is the one before it. -/
@[simp] theorem eng_fetched (s : State) (ge g : Nat) : eng (fetched s ge) g = eng s g := by
  have h := (memSide_fields (fetchFault_side s ge)).1
  unfold eng fetched
  rw [← h]

/-- The one law of issue: an instruction that is ready does its work in the fetched state. -/
theorem issue_ready (s : State) (ge : Nat) (regs : List Nat) (work : State → Engine → Tag → State)
    (h : ready s ge regs = true) :
    issue s ge regs work = work (fetched s ge) (issued (eng s ge)) { pc := (eng s ge).seq.pc, stamp := s.stamp } := by
  unfold ready at h
  simp only [Bool.and_eq_true] at h
  obtain ⟨⟨⟨hc, hr⟩, hs⟩, hf⟩ := h
  have he := eng_fetched s ge ge
  unfold fetched at *
  unfold issue
  simp only [hc, hr, hs, Bool.not_true, Bool.or_self, Bool.false_eq_true, if_false]
  split
  · next h => rw [h] at hf; exact absurd hf (by simp)
  · next h =>
    have e2 : (fetchFault s ge).2 = _ := congrArg Prod.snd h
    dsimp only at e2
    rw [e2] at he ⊢
    have : ∀ (x : State) , eng { x with stamp := x.stamp + 1 } ge = eng x ge := fun _ => rfl
    rw [this] at he
    rw [he]

end Sys2Proof.Machine
end

