-- ==== Sys2Proof/Laws/Smap.lean ====
section
/-! SUPPORT. Laws of the sparse maps: every operation keeps the canonical form, and a read after a write gives the value
written or leaves every other key alone. -/

namespace Sys2Proof.Machine

variable {α : Type} [DecidableEq α]

theorem swfFrom_mono (d : α) (m : SMap α) {a b : Nat} (h : a ≤ b) (hm : swfFrom d b m = true) : swfFrom d a m = true := by
  cases m with
  | nil => rfl
  | cons e r =>
    obtain ⟨k, v⟩ := e
    simp only [swfFrom, Bool.and_eq_true, decide_eq_true_eq] at hm ⊢
    exact ⟨⟨by omega, hm.1.2⟩, hm.2⟩

theorem swfFrom_sset (d : α) (m : SMap α) (b j : Nat) (x : α) (hb : b ≤ j) (hm : swfFrom d b m = true) :
    swfFrom d b (sset d m j x) = true := by
  induction m generalizing b with
  | nil => by_cases hx : x = d <;> simp [sset, hx, swfFrom, hb]
  | cons e r ih =>
    obtain ⟨k, v⟩ := e
    simp only [swfFrom, Bool.and_eq_true, decide_eq_true_eq] at hm
    obtain ⟨⟨h1, h2⟩, h3⟩ := hm
    by_cases hjk : j < k
    · by_cases hx : x = d
      · simp [sset, hjk, hx, swfFrom, h1, h2, h3]
      · simp only [sset, hjk, hx, if_true, if_false, swfFrom, Bool.and_eq_true, decide_eq_true_eq]
        exact ⟨⟨hb, hx⟩, ⟨⟨by omega, h2⟩, h3⟩⟩
    · by_cases hjk' : j = k
      · by_cases hx : x = d
        · simp only [sset, hjk', hx, if_true, if_false, Nat.lt_irrefl]
          exact swfFrom_mono d r (by omega) h3
        · simp [sset, hjk', hx, swfFrom, h3]
          omega
      · simp only [sset, hjk, hjk', if_false, swfFrom, Bool.and_eq_true, decide_eq_true_eq]
        exact ⟨⟨h1, h2⟩, ih (k + 1) (by omega) h3⟩

/-- A write keeps the canonical form. -/
theorem swf_sset (d : α) (m : SMap α) (j : Nat) (x : α) (hm : swf d m = true) : swf d (sset d m j x) = true :=
  swfFrom_sset d m 0 j x (Nat.zero_le j) hm

/-- So does a change of one value. -/
theorem swf_smod (d : α) (m : SMap α) (j : Nat) (f : α → α) (hm : swf d m = true) : swf d (smod d m j f) = true :=
  swf_sset d m j _ hm

/-- And the writing of a run of keys. -/
theorem swf_ssetRun (d : α) (l : List α) (m : SMap α) (b : Nat) (hm : swf d m = true) : swf d (ssetRun d m b l) = true := by
  induction l generalizing m b with
  | nil => exact hm
  | cons x r ih => exact ih _ _ (swf_sset d m b x hm)

/-- And of several keys. -/
theorem swf_ssetMany (d : α) (l : List (Nat × α)) (m : SMap α) (hm : swf d m = true) : swf d (ssetMany d m l) = true := by
  induction l generalizing m with
  | nil => exact hm
  | cons e r ih => obtain ⟨j, x⟩ := e; exact ih _ (swf_sset d m j x hm)

theorem swfFrom_filter (d : α) (p : Nat × α → Bool) (m : SMap α) (b : Nat) (hm : swfFrom d b m = true) :
    swfFrom d b (m.filter p) = true := by
  induction m generalizing b with
  | nil => rfl
  | cons e r ih =>
    obtain ⟨k, v⟩ := e
    simp only [swfFrom, Bool.and_eq_true, decide_eq_true_eq] at hm
    by_cases hp : p (k, v) = true
    · simp only [List.filter, hp, swfFrom, Bool.and_eq_true, decide_eq_true_eq]
      exact ⟨hm.1, ih _ hm.2⟩
    · simp only [List.filter, hp]
      exact swfFrom_mono d _ (by omega) (ih _ hm.2)

/-- And the removal of entries. -/
theorem swf_filter (d : α) (p : Nat × α → Bool) (m : SMap α) (hm : swf d m = true) : swf d (m.filter p) = true :=
  swfFrom_filter d p m 0 hm

theorem swfFrom_smapAll (d : α) (f : Nat → α → α) (m : SMap α) (b : Nat) (hm : swfFrom d b m = true) :
    swfFrom d b (smapAll d f m) = true := by
  induction m generalizing b with
  | nil => rfl
  | cons e r ih =>
    obtain ⟨k, v⟩ := e
    simp only [swfFrom, Bool.and_eq_true, decide_eq_true_eq] at hm
    by_cases hv : f k v = d
    · simpa [smapAll, hv] using swfFrom_mono d _ (by omega) (ih _ hm.2)
    · have h := ih _ hm.2
      rw [smapAll] at h ⊢
      rw [List.map_cons, List.filter_cons_of_pos (by simpa using hv)]
      simp only [swfFrom, Bool.and_eq_true, decide_eq_true_eq]
      exact ⟨⟨hm.1.1, hv⟩, h⟩

/-- And a change of every value. -/
theorem swf_smapAll (d : α) (f : Nat → α → α) (m : SMap α) (hm : swf d m = true) : swf d (smapAll d f m) = true :=
  swfFrom_smapAll d f m 0 hm

theorem sget_below (d : α) (m : SMap α) (b j : Nat) (h : j < b) (hm : swfFrom d b m = true) : sget d m j = d := by
  induction m generalizing b with
  | nil => rfl
  | cons e r ih =>
    obtain ⟨k, v⟩ := e
    simp only [swfFrom, Bool.and_eq_true, decide_eq_true_eq] at hm
    have hne : j ≠ k := by omega
    simp only [sget, hne, if_false]
    exact ih (k + 1) (by omega) hm.2

theorem sget_sset_same_from (d : α) (m : SMap α) (b j : Nat) (x : α) (hm : swfFrom d b m = true) :
    sget d (sset d m j x) j = x := by
  induction m generalizing b with
  | nil => by_cases hx : x = d <;> simp [sset, sget, hx]
  | cons e r ih =>
    obtain ⟨k, v⟩ := e
    simp only [swfFrom, Bool.and_eq_true, decide_eq_true_eq] at hm
    by_cases hjk : j < k
    · by_cases hx : x = d
      · have hne : j ≠ k := by omega
        simp only [sset, hjk, hx, if_true, sget, hne, if_false]
        exact sget_below d r (k + 1) j (by omega) hm.2
      · simp [sset, hjk, hx, sget]
    · by_cases hjk' : j = k
      · by_cases hx : x = d
        · subst hjk'
          simp only [sset, Nat.lt_irrefl, if_false, if_true, hx]
          exact sget_below d r (j + 1) j (by omega) hm.2
        · simp [sset, hjk', hx, sget]
      · simp only [sset, hjk, hjk', if_false, sget]
        exact ih (k + 1) hm.2

/-- A read after a write to the same key gives the value written. -/
theorem sget_sset_same (d : α) (m : SMap α) (j : Nat) (x : α) (hm : swf d m = true) : sget d (sset d m j x) j = x :=
  sget_sset_same_from d m 0 j x hm

/-- A value other than the default is read back whatever the form. -/
theorem sget_sset_new (d : α) (m : SMap α) (j : Nat) (x : α) (hx : x ≠ d) : sget d (sset d m j x) j = x := by
  induction m with
  | nil => simp [sset, sget, hx]
  | cons e r ih =>
    obtain ⟨k, v⟩ := e
    by_cases hjk : j < k
    · simp [sset, hjk, hx, sget]
    · by_cases hjk' : j = k
      · simp [sset, hjk', hx, sget]
      · simp only [sset, hjk, hjk', if_false, sget]
        exact ih

/-- A write leaves every other key alone. -/
@[simp] theorem sget_sset_other (d : α) (m : SMap α) (i j : Nat) (x : α) (h : i ≠ j) :
    sget d (sset d m j x) i = sget d m i := by
  induction m with
  | nil => by_cases hx : x = d <;> simp [sset, sget, hx, h]
  | cons e r ih =>
    obtain ⟨k, v⟩ := e
    by_cases hjk : j < k
    · by_cases hx : x = d <;> simp [sset, hjk, hx, sget, h]
    · by_cases hjk' : j = k
      · subst hjk'
        by_cases hx : x = d <;> simp [sset, hx, sget, h]
      · simp only [sset, hjk, hjk', if_false, sget]
        rw [ih]

/-- A change of one value leaves every other key alone. -/
@[simp] theorem sget_smod_other (d : α) (m : SMap α) (i j : Nat) (f : α → α) (h : i ≠ j) :
    sget d (smod d m j f) i = sget d m i := sget_sset_other d m i j _ h

/-- A change of one value is read back. -/
theorem sget_smod_same (d : α) (m : SMap α) (j : Nat) (f : α → α) (hm : swf d m = true) :
    sget d (smod d m j f) j = f (sget d m j) := sget_sset_same d m j _ hm

/-- A run of keys leaves the keys outside it alone. -/
theorem sget_ssetRun_other (d : α) (l : List α) (m : SMap α) (b i : Nat) (h : i < b ∨ b + l.length ≤ i) :
    sget d (ssetRun d m b l) i = sget d m i := by
  induction l generalizing m b with
  | nil => rfl
  | cons x r ih =>
    simp only [List.length_cons] at h
    simp only [ssetRun]
    rw [ih _ _ (by omega), sget_sset_other d m i b x (by omega)]

end Sys2Proof.Machine
end

