-- ==== Sys2Proof/Laws/Memory.lean ====
section
/-! SUPPORT. Every operation on memory keeps its canonical form, and a store leaves the bytes outside it alone. -/

namespace Sys2Proof.Machine

theorem Mem.wf_iff (m : Mem) : m.wf = true ↔
    swf 0 m.bytes = true ∧ swf false m.poison = true ∧ swf 0 m.attr = true ∧ swf false m.dirty = true
      ∧ swf false m.dirtyOld = true := by
  simp [Mem.wf, and_assoc]

/-- Memory after reset has the form. -/
theorem Mem.wf_empty : ({} : Mem).wf = true := by decide

@[simp] theorem poisonGran_wf (m : Mem) (a : Nat) (h : m.wf = true) : (poisonGran m a).wf = true := by
  rw [Mem.wf_iff] at h
  unfold poisonGran
  dsimp only
  split <;> simp only [Mem.wf_iff]
  · exact ⟨h.1, h.2.1, swf_smod _ _ _ _ h.2.2.1, h.2.2.2⟩
  · exact ⟨h.1, swf_sset _ _ _ _ h.2.1, h.2.2⟩

@[simp] theorem memPut_wf (m : Mem) (a : Nat) (d : List Byte) (h : m.wf = true) : (memPut m a d).wf = true := by
  rw [Mem.wf_iff] at h
  simp only [memPut, Mem.wf_iff]
  exact ⟨swf_ssetRun _ _ _ _ h.1, h.2.1, h.2.2.1, swf_sset _ _ _ _ h.2.2.2.1, h.2.2.2.2⟩

@[simp] theorem memWrite_wf (m : Mem) (a : Nat) (d : List PByte) (h : m.wf = true) : (memWrite m a d).wf = true := by
  have h1 := memPut_wf m a (d.map Prod.fst) h
  unfold memWrite
  dsimp only
  split
  · exact poisonGran_wf _ _ h1
  · split
    · rw [Mem.wf_iff] at h1 ⊢
      exact ⟨h1.1, swf_sset _ _ _ _ h1.2.1, h1.2.2⟩
    · exact h1

theorem swf_foldl_sset {α β : Type} [DecidableEq α] (d : α) (k : β → Nat) (v : β → α) (l : List β) (m : SMap α)
    (h : swf d m = true) : swf d (l.foldl (fun y r => sset d y (k r) (v r)) m) = true := by
  induction l generalizing m with
  | nil => exact h
  | cons x r ih => exact ih _ (swf_sset d m _ _ h)

@[simp] theorem zeroSpan_wf (m : Mem) (x : Nat × Nat) (h : m.wf = true) : (zeroSpan m x).wf = true := by
  rw [Mem.wf_iff] at h
  simp only [zeroSpan, Mem.wf_iff]
  refine ⟨swf_filter _ _ _ h.1, ?_, h.2.2.1, swf_foldl_sset false id (fun _ => true) _ _ h.2.2.2.1, h.2.2.2.2⟩
  split
  · exact swf_filter _ _ _ h.2.1
  · exact h.2.1

/-- A fold of operations that keep the form keeps it. -/
@[simp] theorem foldl_mem {β : Type} (g : State → β → State) (l : List β) (s : State)
    (hg : ∀ t x, t.mem.wf = true → (g t x).mem.wf = true) (h : s.mem.wf = true) : (l.foldl g s).mem.wf = true := by
  induction l generalizing s with
  | nil => exact h
  | cons x r ih => exact ih _ (hg _ _ h)

/-- A fold of operations on memory that keep the form keeps it. -/
theorem foldl_wf {β : Type} (g : Mem → β → Mem) (l : List β) (m : Mem)
    (hg : ∀ t x, t.wf = true → (g t x).wf = true) (h : m.wf = true) : (l.foldl g m).wf = true := by
  induction l generalizing m with
  | nil => exact h
  | cons x r ih => exact ih _ (hg _ _ h)

/-- A fold of operations that leave memory alone leaves it alone. -/
theorem foldl_eqm {β : Type} (g : State → β → State) (l : List β) (s : State) (m : Mem) (hg : ∀ t x, (g t x).mem = t.mem)
    (h : s.mem = m) : (l.foldl g s).mem = m := by
  induction l generalizing s with
  | nil => exact h
  | cons x r ih => exact ih _ ((hg _ _).trans h)

theorem foldl_eqm_snd {β γ : Type} (g : γ × State → β → γ × State) (l : List β) (x : γ × State) (m : Mem)
    (hg : ∀ t y, (g t y).2.mem = t.2.mem) (h : x.2.mem = m) : (l.foldl g x).2.mem = m := by
  induction l generalizing x with
  | nil => exact h
  | cons y r ih => exact ih _ ((hg _ _).trans h)

theorem foldl_eqm_fst {β γ : Type} (g : State × γ → β → State × γ) (l : List β) (x : State × γ) (m : Mem)
    (hg : ∀ t y, (g t y).1.mem = t.1.mem) (h : x.1.mem = m) : (l.foldl g x).1.mem = m := by
  induction l generalizing x with
  | nil => exact h
  | cons y r ih => exact ih _ ((hg _ _).trans h)

/-- A fold with a state in second place. -/
theorem foldl_mem_snd {β γ : Type} (g : γ × State → β → γ × State) (l : List β) (x : γ × State)
    (hg : ∀ t y, t.2.mem.wf = true → (g t y).2.mem.wf = true) (h : x.2.mem.wf = true) : (l.foldl g x).2.mem.wf = true := by
  induction l generalizing x with
  | nil => exact h
  | cons y r ih => exact ih _ (hg _ _ h)

/-- A fold with a state in first place. -/
theorem foldl_mem_fst {β γ : Type} (g : State × γ → β → State × γ) (l : List β) (x : State × γ)
    (hg : ∀ t y, t.1.mem.wf = true → (g t y).1.mem.wf = true) (h : x.1.mem.wf = true) : (l.foldl g x).1.mem.wf = true := by
  induction l generalizing x with
  | nil => exact h
  | cons y r ih => exact ih _ (hg _ _ h)

/-- A command whose next state has the form keeps it. -/
theorem next_wf {x : State} (h : x.mem.wf = true) : ∀ t, ok x = .next t → t.mem.wf = true := by
  intro t ht
  cases ht
  exact h

/-- A command whose next state has the same memory leaves memory alone. -/
theorem next_eq {x : State} {m : Mem} (h : x.mem = m) : ∀ t, ok x = .next t → t.mem = m := by
  intro t ht
  cases ht
  exact h

/-- A pair whose state is known. -/
theorem snd_mem {α : Type} {x : α × State} {a : α} {t : State} (hx : x = (a, t)) (h : x.2.mem.wf = true) : t.mem.wf = true := by
  subst hx
  exact h

/-- Both branches keep the form. -/
theorem ite_wf {c : Prop} [Decidable c] {x y : State} (hx : x.mem.wf = true) (hy : y.mem.wf = true) :
    (if c then x else y).mem.wf = true := by
  split
  · exact hx
  · exact hy

theorem ite_wf2 {α : Type} {c : Prop} [Decidable c] {x y : α × State} (hx : x.2.mem.wf = true) (hy : y.2.mem.wf = true) :
    (if c then x else y).2.mem.wf = true := by
  split
  · exact hx
  · exact hy

theorem ite_ok {c : Prop} [Decidable c] {x y : Except Nat State} (hx : ∀ t, x = .ok t → t.mem.wf = true)
    (hy : ∀ t, y = .ok t → t.mem.wf = true) : ∀ t, (if c then x else y) = .ok t → t.mem.wf = true := by
  split
  · exact hx
  · exact hy

theorem ok_ok {u : State} (h : u.mem.wf = true) : ∀ t, (Except.ok u : Except Nat State) = .ok t → t.mem.wf = true := by
  intro t ht
  rw [Except.ok.injEq] at ht
  rw [← ht]
  exact h

theorem eq_ok {s : State} {r : Except Nat State} (hs : s.mem.wf = true) (h : ∀ t, r = .ok t → t.mem = s.mem) :
    ∀ t, r = .ok t → t.mem.wf = true := fun t ht => by rw [h t ht]; exact hs

theorem foldl_wf_fst {β γ : Type} (g : Mem × γ → β → Mem × γ) (l : List β) (x : Mem × γ)
    (hg : ∀ t y, t.1.wf = true → (g t y).1.wf = true) (h : x.1.wf = true) : (l.foldl g x).1.wf = true := by
  induction l generalizing x with
  | nil => exact h
  | cons y r ih => exact ih _ (hg _ _ h)

end Sys2Proof.Machine
end

