-- ==== Sys2Proof/Laws/MemCoh.lean ====
section
/-! SUPPORT. Every operation and command of Machine/Coh.lean keeps the canonical form of memory; where it writes
no memory, memory is as before. -/

set_option maxRecDepth 4000

namespace Sys2Proof.Machine

@[simp] theorem setCached_mem (s : State) (a line : Nat) (v : Option CLine)  :
    (setCached s a line v).mem = s.mem := by
  unfold setCached
  rfl

@[simp] theorem dropCopy_mem (s : State) (a line : Nat)  :
    (dropCopy s a line).mem = s.mem := by
  unfold dropCopy
  rfl

@[simp] theorem setDir_mem (s : State) (line : Nat) (v : Option DirEnt)  :
    (setDir s line v).mem = s.mem := by
  unfold setDir
  rfl

@[simp] theorem writeBack_mem (s : State) (a line : Nat) (hs : s.mem.wf = true) :
    (writeBack s a line).mem.wf = true := by
  unfold writeBack
  (repeat' split) <;> simp_all

@[simp] theorem recallOwner_mem (s : State) (line : Nat) (hs : s.mem.wf = true) :
    (recallOwner s line).mem.wf = true := by
  unfold recallOwner
  (repeat' split) <;> simp_all

@[simp] theorem recallLine_mem (s : State) (line : Nat) (hs : s.mem.wf = true) :
    (recallLine s line).mem.wf = true := by
  unfold recallLine
  simp_all

@[simp] theorem makeRoom_mem (s : State) (line : Nat) (hs : s.mem.wf = true) :
    (makeRoom s line).mem.wf = true := by
  unfold makeRoom
  (repeat' split) <;> simp_all

@[simp] theorem unstale_mem (s : State) (a line : Nat)  :
    (unstale s a line).mem = s.mem := by
  unfold unstale
  rfl

@[simp] theorem evictLine_mem (s : State) (a line : Nat)  :
    (evictLine s a line).mem = s.mem := by
  unfold evictLine
  (repeat' split) <;> simp

@[simp] theorem fitCache_mem (s : State) (a line : Nat)  :
    (fitCache s a line).mem = s.mem := by
  unfold fitCache
  (repeat' split) <;> grind [evictLine_mem]

@[simp] theorem install_mem (s : State) (a line : Nat) (st : Moesi) (d : List PByte)  :
    (install s a line st d).mem = s.mem := by
  unfold install
  simp

@[simp] theorem shareCopy_mem (s : State) (a line : Nat)  :
    (shareCopy s a line).mem = s.mem := by
  unfold shareCopy
  rfl

@[simp] theorem fillShared_mem (s : State) (a line : Nat) (hs : s.mem.wf = true) :
    (fillShared s a line).mem.wf = true := by
  unfold fillShared
  (repeat' split) <;> simp_all

@[simp] theorem offCount_mem (s : State) (ctx a n : Nat)  :
    (offCount s ctx a n).mem = s.mem := by
  unfold offCount
  rfl

@[simp] theorem engReadLine_mem (s : State) (ge : Nat) (pma : Bool) (line : Nat) (hs : s.mem.wf = true) :
    (engReadLine s ge pma line).2.mem.wf = true := by
  unfold engReadLine
  (repeat' split) <;> grind [fillShared_mem, offCount_mem]

theorem tidyDir_mem (s : State) (line : Nat) : (tidyDir s line).mem = s.mem := by
  unfold tidyDir
  (repeat' split) <;> simp

@[simp] theorem drainStale_mem (s : State) (l : List StaleEnt) : (drainStale s l).mem = s.mem := by
  unfold drainStale
  apply foldl_eqm _ _ _ _ _ rfl
  intro t e
  rw [tidyDir_mem]
  exact foldl_eqm _ _ _ _ (fun u a => dropCopy_mem _ _ _) rfl

@[simp] theorem drainOldest_mem (s : State) (h : Nat)  :
    (drainOldest s h).mem = s.mem := by
  unfold drainOldest
  (repeat' split) <;> grind [drainStale_mem]

@[simp] theorem patchTxns_mem (s : State) (a : Nat) (d : List PByte)  :
    (patchTxns s a d).mem = s.mem := by
  unfold patchTxns
  (repeat' (first | with_reducible assumption | with_reducible first | (apply foldl_eqm <;> intros) | (apply foldl_eqm_snd <;> intros) | (apply foldl_eqm_fst <;> intros) | split)) <;> simp_all

@[simp] theorem dropResv_mem (s : State) (line : Nat)  :
    (dropResv s line).mem = s.mem := by
  unfold dropResv
  rfl

@[simp] theorem reach_mem (s : State) (ctx h stamp : Nat)  :
    (reach s ctx h stamp).mem = s.mem := by
  unfold reach
  rfl

@[simp] theorem wncNow_mem (s : State) (ctx stamp : Nat) (defer : Bool) (a : Nat) (d : List PByte) (hs : s.mem.wf = true) :
    (wncNow s ctx stamp defer a d).mem.wf = true := by
  unfold wncNow
  (repeat' (first | with_reducible assumption | with_reducible rfl | with_reducible first | (apply foldl_mem <;> intros) | (apply foldl_mem_snd <;> intros) | (apply foldl_mem_fst <;> intros) | simp only [drainOldest_mem, dropResv_mem, offCount_mem, patchTxns_mem, reach_mem, setDir_mem] | (with_reducible apply ite_wf) | (with_reducible apply recallOwner_mem) | split | dsimp only)) <;> simp_all (maxDischargeDepth := 6)

@[simp] theorem holdWrite_mem (s : State) (ctx stamp a : Nat) (d : List PByte)  :
    (holdWrite s ctx stamp a d).mem = s.mem := by
  unfold holdWrite
  rfl

@[simp] theorem wncLine_mem (s : State) (ctx stamp : Nat) (defer : Bool) (a : Nat) (d : List PByte) (hs : s.mem.wf = true) :
    (wncLine s ctx stamp defer a d).mem.wf = true := by
  unfold wncLine
  (repeat' split) <;> simp_all

@[simp] theorem homeWrite_mem (s : State) (ctx stamp : Nat) (defer : Bool) (a : Nat) (d : List PByte) (hs : s.mem.wf = true) :
    (homeWrite s ctx stamp defer a d).mem.wf = true := by
  unfold homeWrite
  simp_all

@[simp] theorem ownLine_mem (s : State) (a line : Nat) (hs : s.mem.wf = true) :
    (ownLine s a line).mem.wf = true := by
  unfold ownLine
  (repeat' split) <;> simp_all (maxDischargeDepth := 6)

@[simp] theorem patchOwned_mem (s : State) (a pa : Nat) (d : List Byte)  :
    (patchOwned s a pa d).mem = s.mem := by
  unfold patchOwned
  (repeat' split) <;> simp

@[simp] theorem settleWrites_mem (s : State) (ctx : Nat) (hs : s.mem.wf = true) :
    (settleWrites s ctx).mem.wf = true := by
  unfold settleWrites
  (repeat' (first | with_reducible assumption | with_reducible first | (apply foldl_mem <;> intros) | (apply foldl_mem_snd <;> intros) | (apply foldl_mem_fst <;> intros) | split)) <;> simp_all (maxDischargeDepth := 6)

end Sys2Proof.Machine
end

