-- ==== Sys2Proof/Laws/MemXlate.lean ====
section
/-! SUPPORT. Every operation and command of Machine/Xlate.lean keeps the canonical form of memory; where it writes
no memory, memory is as before. -/

set_option maxRecDepth 4000

namespace Sys2Proof.Machine

@[simp] theorem setTransReg_mem (s : State) (inst o v : Nat)  :
    (setTransReg s inst o v).mem = s.mem := by
  unfold setTransReg
  rfl

@[simp] theorem useDc_mem (s : State) (inst dev : Nat)  :
    (useDc s inst dev).2.mem = s.mem := by
  unfold useDc
  (repeat' split) <;> grind

@[simp] theorem walkFill_mem (s : State) (w : Option Nat) (pa : Nat) (hs : s.mem.wf = true) :
    (walkFill s w pa).mem.wf = true := by
  unfold walkFill
  (repeat' split) <;> simp_all

@[simp] theorem walkSet_mem (s : State) (w : Option Nat) (pa v : Nat) (hs : s.mem.wf = true) :
    (walkSet s w pa v).mem.wf = true := by
  unfold walkSet
  (repeat' split) <;> simp_all

@[simp] theorem walkEffects_mem (s : State) (w : Option Nat) (x : Stage) (hs : s.mem.wf = true) :
    (walkEffects s w x).mem.wf = true := by
  unfold walkEffects
  (repeat' split) <;> simp_all (maxDischargeDepth := 6)

@[simp] theorem queueFault_mem (s : State) (inst dev : Nat) (pid : Option Nat) (va : Nat) (k : AccKind) (f : WalkFail) (hs : s.mem.wf = true) :
    (queueFault s inst dev pid va k f).mem.wf = true := by
  unfold queueFault
  (repeat' split) <;> grind [homeWrite_mem, setTransReg_mem]

@[simp] theorem xlate_mem (s : State) (w : Option Nat) (inst dev : Nat) (pid : Option Nat) (va : Nat) (k : AccKind) (hs : s.mem.wf = true) :
    (xlate s w inst dev pid va k).2.mem.wf = true := by
  unfold xlate
  (repeat' split) <;> grind [queueFault_mem, useDc_mem, walkEffects_mem]

end Sys2Proof.Machine
end

