-- ==== Sys2Proof/Laws/MemOps.lean ====
section
/-! SUPPORT. Every operation and command of Machine/Ops.lean keeps the canonical form of memory; where it writes
no memory, memory is as before. -/

set_option maxRecDepth 4000

namespace Sys2Proof.Machine

@[simp] theorem setEng_mem (s : State) (ge : Nat) (e : Engine)  :
    (setEng s ge e).mem = s.mem := by
  unfold setEng
  rfl

@[simp] theorem modEng_mem (s : State) (ge : Nat) (f : Engine → Engine)  :
    (modEng s ge f).mem = s.mem := by
  unfold modEng
  rfl

@[simp] theorem faultCtx_mem (s : State) (c : Nat)  :
    (faultCtx s c).mem = s.mem := by
  unfold faultCtx
  rfl

@[simp] theorem raise_mem (s : State) (ge source arr code : Nat) (pc addr : W64)  :
    (raise s ge source arr code pc addr).mem = s.mem := by
  unfold raise
  (repeat' split) <;> grind [faultCtx_mem, setEng_mem]

@[simp] theorem raiseSeq_mem (s : State) (ge code : Nat) (t : Tag) (addr : Nat)  :
    (raiseSeq s ge code t addr).mem = s.mem := by
  unfold raiseSeq
  simp

@[simp] theorem vRange_mem (s : State) (w : Option Nat) (ctx : Nat) (k : AccKind) (cmb : Bool) (a1 : Nat) (a2 : Nat) (a3 : Nat) (hs : s.mem.wf = true) :
    (vRange s w ctx k cmb a1 a2 a3).2.mem.wf = true := by
  fun_induction vRange s w ctx k cmb a1 a2 a3 <;> grind [xlate_mem, memWrite_wf, memPut_wf, poisonGran_wf, zeroSpan_wf]

@[simp] theorem vPieces_mem (s : State) (w : Option Nat) (ctx : Nat) (k : AccKind) (va n : Nat) (hs : s.mem.wf = true) :
    (vPieces s w ctx k va n).2.mem.wf = true := by
  unfold vPieces
  simp_all

@[simp] theorem cPieces_mem (s : State) (w : Option Nat) (ctx va n : Nat) (hs : s.mem.wf = true) :
    (cPieces s w ctx va n).2.mem.wf = true := by
  unfold cPieces
  simp_all

@[simp] theorem engReadPiece_mem (s : State) (ge : Nat) (p : Piece) (hs : s.mem.wf = true) :
    (engReadPiece s ge p).2.mem.wf = true := by
  unfold engReadPiece
  (repeat' (first | with_reducible assumption | with_reducible first | (apply foldl_mem <;> intros) | (apply foldl_mem_snd <;> intros) | (apply foldl_mem_fst <;> intros) | split)) <;> simp_all (maxDischargeDepth := 6)

@[simp] theorem readPieces_mem (s : State) (ge : Nat) (l : List Piece) (hs : s.mem.wf = true) :
    (readPieces s ge l).2.mem.wf = true := by
  unfold readPieces
  (repeat' (first | with_reducible assumption | with_reducible first | (apply foldl_mem <;> intros) | (apply foldl_mem_snd <;> intros) | (apply foldl_mem_fst <;> intros) | split)) <;> simp_all (maxDischargeDepth := 6)

@[simp] theorem writePieces_mem (s : State) (ctx stamp : Nat) (a1 : List Piece) (a2 : List PByte) (hs : s.mem.wf = true) :
    (writePieces s ctx stamp a1 a2).mem.wf = true := by
  fun_induction writePieces s ctx stamp a1 a2 <;> simp_all

@[simp] theorem vRead_mem (s : State) (ge va n : Nat) (hs : s.mem.wf = true) :
    (vRead s ge va n).2.mem.wf = true := by
  unfold vRead
  (repeat' split) <;> grind [readPieces_mem, vPieces_mem]

@[simp] theorem vWrite_mem (s : State) (ge stamp va : Nat) (d : List PByte) (hs : s.mem.wf = true) :
    (vWrite s ge stamp va d).2.mem.wf = true := by
  unfold vWrite
  (repeat' split) <;> grind [vPieces_mem, writePieces_mem]

@[simp] theorem flagWrite_mem (s : State) (writer ctx va : Nat) (d : List PByte) (hs : s.mem.wf = true) :
    (flagWrite s writer ctx va d).2.mem.wf = true := by
  unfold flagWrite
  (repeat' (first | with_reducible assumption | with_reducible first | (apply foldl_mem <;> intros) | (apply foldl_mem_snd <;> intros) | (apply foldl_mem_fst <;> intros) | split)) <;> grind [homeWrite_mem, settleWrites_mem, vPieces_mem]

@[simp] theorem fetchFault_mem (s : State) (ge : Nat) (hs : s.mem.wf = true) :
    (fetchFault s ge).2.mem.wf = true := by
  unfold fetchFault
  (repeat' split) <;> grind [vPieces_mem]

@[simp] theorem repairDue_mem (s : State) (kind : Nat)  :
    (repairDue s kind).mem = s.mem := by
  unfold repairDue
  rfl

@[simp] theorem raiseGen_mem (s : State) (kind unit : Nat)  :
    (raiseGen s kind unit).mem = s.mem := by
  unfold raiseGen
  rfl

@[simp] theorem setSlot_mem (s : State) (p : Nat) (v : SlotSt)  :
    (setSlot s p v).mem = s.mem := by
  unfold setSlot
  (repeat' split) <;> grind [raiseGen_mem, repairDue_mem]

@[simp] theorem holdSlot_mem (s : State) (ge : Nat)  :
    (holdSlot s ge).mem = s.mem := by
  unfold holdSlot
  simp

@[simp] theorem issue_mem (s : State) (ge : Nat) (regs : List Nat) (work : State → Engine → Tag → State) (hs : s.mem.wf = true) (hwork : ∀ (x0 : State) (x1 : Engine) (x2 : Tag), x0.mem.wf = true → (work x0 x1 x2).mem.wf = true) :
    (issue s ge regs work).mem.wf = true := by
  unfold issue
  (repeat' split) <;> grind [fetchFault_mem, raiseSeq_mem]

@[simp] theorem issueAlu_mem (s : State) (ge rd : Nat) (regs : List Nat) (f : Engine → W64) (hs : s.mem.wf = true) :
    (issueAlu s ge rd regs f).mem.wf = true := by
  unfold issueAlu
  simp_all

@[simp] theorem noteUnit_mem (s : State) (area num sev kind unit : Nat) (params : List W64)  :
    (noteUnit s area num sev kind unit params).mem = s.mem := by
  unfold noteUnit
  rfl

@[simp] theorem note_mem (s : State) (area num sev kind unit : Nat) (params : List W64)  :
    (note s area num sev kind unit params).mem = s.mem := by
  unfold note
  rfl

theorem ok_mem (s : State)  :
    ∀ t, ok s = .next t → t.mem = s.mem :=
  next_eq (by
    rfl)

end Sys2Proof.Machine
end

