-- ==== Sys2Proof/Laws/MemObjects.lean ====
section
/-! SUPPORT. Every operation and command of Machine/Objects.lean keeps the canonical form of memory; where it writes
no memory, memory is as before. -/

set_option maxRecDepth 4000

namespace Sys2Proof.Machine

@[simp] theorem odPut_mem (s : State) (k : Nat) (v : List Byte)  :
    (odPut s k v).mem = s.mem := by
  unfold odPut
  rfl

@[simp] theorem putAtStep_mem (s : State) (step : Nat) (l : List (Nat × List Byte))  :
    (putAtStep s step l).mem = s.mem := by
  unfold putAtStep
  repeat' (first | with_reducible assumption | with_reducible rfl | with_reducible first | (apply foldl_eqm <;> intros) | (apply foldl_eqm_snd <;> intros) | (apply foldl_eqm_fst <;> intros) | simp only [odPut_mem] | split | dsimp only)

@[simp] theorem putNow_mem (s : State) (k : Nat) (v : List Byte)  :
    (putNow s k v).mem = s.mem := by
  unfold putNow
  (repeat' split) <;> simp

@[simp] theorem takeStaged_mem (s : State) (step : Nat)  :
    (takeStaged s step).mem = s.mem := by
  unfold takeStaged
  (repeat' split) <;> grind [putAtStep_mem]

end Sys2Proof.Machine
end

