-- ==== Sys2Proof/Laws/MemCombine.lean ====
section
/-! SUPPORT. Every operation and command of Machine/Combine.lean keeps the canonical form of memory; where it writes
no memory, memory is as before. -/

set_option maxRecDepth 4000

namespace Sys2Proof.Machine

@[simp] theorem setCmb_mem (s : State) (h i : Nat) (c : CmbEntry)  :
    (setCmb s h i c).mem = s.mem := by
  unfold setCmb
  rfl

theorem cmbAddElems_wf (c : CmbEntry) (m : Mem) (a : Nat) (l : CmbEls) (h : m.wf = true) :
    (cmbAddElems c m a l).1.wf = true := by
  fun_induction cmbAddElems c m a l with
  | case1 => exact h
  | case2 _ _ _ _ ih => exact ih h
  | case3 _ m a x l n r ih =>
    apply ih
    show (if _ then _ else _ : Mem × CmbEntry).1.wf = true
    split
    · exact poisonGran_wf _ _ h
    · split
      · exact h
      · exact memPut_wf _ _ _ h

theorem cmbApplyGran_wf (c : CmbEntry) (m : Mem) (g : Nat) (h : m.wf = true) : (cmbApplyGran c m g).1.wf = true := by
  unfold cmbApplyGran
  apply foldl_wf_fst
  · intro x i hx
    dsimp only
    split
    · exact foldl_wf_fst _ _ _ (fun y k hy => cmbAddElems_wf _ _ _ _ hy) hx
    · exact hx
  · exact h

@[simp] theorem cmbArrive_mem (s : State) (h i a : Nat) (d : CmbEls) (hs : s.mem.wf = true) :
    (cmbArrive s h i a d).mem.wf = true := by
  unfold cmbArrive
  rw [setCmb_mem]
  exact memPut_wf _ _ _ (cmbAddElems_wf _ _ _ _ hs)

@[simp] theorem cmbStage_mem (s : State) (h i idx a : Nat) (d : CmbEls) (hs : s.mem.wf = true) :
    (cmbStage s h i idx a d).mem.wf = true := by
  unfold cmbStage
  rw [setCmb_mem]
  refine memPut_wf _ _ _ (foldl_wf _ _ _ (fun m x hm => ?_) hs)
  split
  · exact memWrite_wf _ _ _ hm
  · exact hm

@[simp] theorem cmbMasked_mem (s : State) (a : Nat) (mask : List Bool) (d : List PByte) (type epoch idx : Nat) (relay : Bool) (hs : s.mem.wf = true) :
    (cmbMasked s a mask d type epoch idx relay).2.mem.wf = true := by
  unfold cmbMasked
  (repeat' split) <;> simp_all

@[simp] theorem cmbContribute_mem (s : State) (a : Nat) (d : List PByte) (type epoch idx : Nat) (relay : Bool) (hs : s.mem.wf = true) :
    (cmbContribute s a d type epoch idx relay).2.mem.wf = true := by
  unfold cmbContribute
  simp_all

@[simp] theorem cmbClose_mem (s : State) (h i : Nat)  :
    (cmbClose s h i).mem = s.mem := by
  unfold cmbClose
  (repeat' split) <;> grind [setCmb_mem]

@[simp] theorem cmbDone_mem (s : State) (a epoch idx : Nat)  :
    (cmbDone s a epoch idx).2.mem = s.mem := by
  unfold cmbDone
  (repeat' split) <;> simp

@[simp] theorem cmbCloseReq_mem (s : State) (a : Nat) (owner : Option Nat)  :
    (cmbCloseReq s a owner).2.mem = s.mem := by
  unfold cmbCloseReq
  (repeat' split) <;> simp

@[simp] theorem cmbApplied_mem (s : State) (h i : Nat) (hs : s.mem.wf = true) : (cmbApplied s h i).mem.wf = true := by
  unfold cmbApplied
  dsimp only
  have h1 : (if (cmbEnt s h i).ordered = true then
      List.foldl (fun (x : Mem × CmbEntry) g => cmbApplyGran x.2 x.1 g) (s.mem, cmbEnt s h i)
        (List.range (cmbEnt s h i).size) else (s.mem, cmbEnt s h i)).1.wf = true := by
    split
    · exact foldl_wf_fst _ _ _ (fun t y ht => cmbApplyGran_wf _ _ _ ht) hs
    · exact hs
  split
  · exact hs
  · revert h1
    generalize (if (cmbEnt s h i).ordered = true then
      List.foldl (fun (x : Mem × CmbEntry) g => cmbApplyGran x.2 x.1 g) (s.mem, cmbEnt s h i)
        (List.range (cmbEnt s h i).size) else (s.mem, cmbEnt s h i)) = r
    intro h1
    split
    · rw [setCmb_mem]; exact h1
    · apply homeWrite_mem
      rw [setCmb_mem]; exact h1

@[simp] theorem cmbStart_mem (s : State) (h i : Nat) (c : CmbEntry) (hs : s.mem.wf = true) :
    (cmbStart s h i c).mem.wf = true := by
  unfold cmbStart
  (repeat' split) <;> simp_all

@[simp] theorem noteLate_mem (s : State) (r : RelayHeld) (decision : Nat)  :
    (noteLate s r decision).mem = s.mem := by
  unfold noteLate
  rfl

@[simp] theorem cmbStale1_mem (s : State) (c : CmbEntry) (hs : s.mem.wf = true) :
    (cmbStale1 s c).mem.wf = true := by
  unfold cmbStale1
  (repeat' (first | with_reducible assumption | with_reducible first | (apply foldl_mem <;> intros) | (apply foldl_mem_snd <;> intros) | (apply foldl_mem_fst <;> intros) | split)) <;> simp_all (maxDischargeDepth := 6)

theorem cmbOpen_drop (s : State) (l : List (Nat × CmbEntry)) (h : Nat) (p : Nat × CmbEntry → Bool) :
    (l.foldl (fun t e => if e.2.state = .closed ∧ p e = true then setCmb t h e.1 {} else t) s).mem = s.mem := by
  apply foldl_eqm _ _ _ _ _ rfl
  intro t e
  split <;> simp

@[simp] theorem cmbOpen_mem (s : State) (h : Nat) (c : CmbEntry) (hs : s.mem.wf = true) : (cmbOpen s h c).2.mem.wf = true := by
  unfold cmbOpen
  dsimp only
  repeat' split
  all_goals first
    | exact hs
    | (dsimp only; exact cmbStale1_mem _ _ (cmbStart_mem _ _ _ _ hs))
    | (dsimp only; exact cmbStale1_mem _ _ (cmbStart_mem _ _ _ _ (by
        refine (congrArg Mem.wf (foldl_eqm _ _ _ _ ?_ rfl)).trans hs
        intro t e
        split <;> simp)))

@[simp] theorem cmbUnitFault_mem (s : State) (h : Nat) (hs : s.mem.wf = true) : (cmbUnitFault s h).mem.wf = true := by
  unfold cmbUnitFault
  apply foldl_mem _ _ _ _ hs
  intro t e ht
  rw [setCmb_mem]
  exact foldl_wf _ _ _ (fun m g hm => poisonGran_wf _ _ hm) ht

end Sys2Proof.Machine
end

