-- ==== Sys2Proof/Laws/MemOperands.lean ====
section
/-! SUPPORT. Every operation and command of Machine/Operands.lean keeps the canonical form of memory; where it writes
no memory, memory is as before. -/

set_option maxRecDepth 4000

namespace Sys2Proof.Machine

@[simp] theorem checkRows_mem (s : State) (ge : Nat) (space : Nat) (a1 : List (Nat × Nat)) (hs : s.mem.wf = true) :
    (checkRows s ge space a1).2.mem.wf = true := by
  fun_induction checkRows s ge space a1 <;> grind [vPieces_mem, memWrite_wf, memPut_wf, poisonGran_wf, zeroSpan_wf]

end Sys2Proof.Machine
end

