-- ==== Sys2Proof/Laws/MemRace.lean ====
section
/-! SUPPORT. Every operation and command of Machine/Race.lean keeps the canonical form of memory; where it writes
no memory, memory is as before. -/

set_option maxRecDepth 4000

namespace Sys2Proof.Machine

@[simp] theorem readRows_mem (s : State) (ge u stamp : Nat) (space : Nat) (a1 : List (Nat × Nat)) (hs : s.mem.wf = true) :
    (readRows s ge u stamp space a1).2.mem.wf = true := by
  fun_induction readRows s ge u stamp space a1 <;> grind [vRead_mem, memWrite_wf, memPut_wf, poisonGran_wf, zeroSpan_wf]

@[simp] theorem writeRows_mem (s : State) (ge u stamp : Nat) (space : Nat) (a1 : List (Nat × List PByte)) (hs : s.mem.wf = true) :
    (writeRows s ge u stamp space a1).mem.wf = true := by
  fun_induction writeRows s ge u stamp space a1 <;> simp_all

end Sys2Proof.Machine
end

