-- ==== Sys2Proof/Laws/MemCtl.lean ====
section
/-! SUPPORT. Every operation and command of Machine/Ctl.lean keeps the canonical form of memory; where it writes
no memory, memory is as before. -/

set_option maxRecDepth 4000

namespace Sys2Proof.Machine

theorem execCtlNop_mem (ge : Nat) (s : State) (hs : s.mem.wf = true) :
    ∀ t, execCtlNop ge s = .next t → t.mem.wf = true :=
  next_wf (by
    simp_all)

theorem execCtlLi_mem (ge rd : Nat) (imm : W32) (s : State) (hs : s.mem.wf = true) :
    ∀ t, execCtlLi ge rd imm s = .next t → t.mem.wf = true :=
  next_wf (by
    simp_all)

theorem execCtlLih_mem (ge rd : Nat) (imm : W32) (s : State) (hs : s.mem.wf = true) :
    ∀ t, execCtlLih ge rd imm s = .next t → t.mem.wf = true :=
  next_wf (by
    simp_all)

theorem execCtlAdd_mem (ge rd ra rb : Nat) (s : State) (hs : s.mem.wf = true) :
    ∀ t, execCtlAdd ge rd ra rb s = .next t → t.mem.wf = true :=
  next_wf (by
    simp_all)

theorem execCtlSub_mem (ge rd ra rb : Nat) (s : State) (hs : s.mem.wf = true) :
    ∀ t, execCtlSub ge rd ra rb s = .next t → t.mem.wf = true :=
  next_wf (by
    simp_all)

theorem execCtlMul_mem (ge rd ra rb : Nat) (s : State) (hs : s.mem.wf = true) :
    ∀ t, execCtlMul ge rd ra rb s = .next t → t.mem.wf = true :=
  next_wf (by
    simp_all)

theorem execCtlAnd_mem (ge rd ra rb : Nat) (s : State) (hs : s.mem.wf = true) :
    ∀ t, execCtlAnd ge rd ra rb s = .next t → t.mem.wf = true :=
  next_wf (by
    simp_all)

theorem execCtlOr_mem (ge rd ra rb : Nat) (s : State) (hs : s.mem.wf = true) :
    ∀ t, execCtlOr ge rd ra rb s = .next t → t.mem.wf = true :=
  next_wf (by
    simp_all)

theorem execCtlXor_mem (ge rd ra rb : Nat) (s : State) (hs : s.mem.wf = true) :
    ∀ t, execCtlXor ge rd ra rb s = .next t → t.mem.wf = true :=
  next_wf (by
    simp_all)

theorem execCtlAddi_mem (ge rd ra : Nat) (imm : W32) (s : State) (hs : s.mem.wf = true) :
    ∀ t, execCtlAddi ge rd ra imm s = .next t → t.mem.wf = true :=
  next_wf (by
    simp_all)

theorem execCtlAndi_mem (ge rd ra : Nat) (imm : W32) (s : State) (hs : s.mem.wf = true) :
    ∀ t, execCtlAndi ge rd ra imm s = .next t → t.mem.wf = true :=
  next_wf (by
    simp_all)

@[simp] theorem illegalIf_mem (bad : Bool) (s : State) (ge : Nat) (t : Tag) (k : State) (hs : s.mem.wf = true) (hk : k.mem.wf = true) :
    (illegalIf bad s ge t k).mem.wf = true := by
  unfold illegalIf
  (repeat' split) <;> simp_all

@[simp] theorem ctlShift_mem (s : State) (ge rd ra : Nat) (imm : W32) (f : W64 → Nat → W64) (hs : s.mem.wf = true) :
    (ctlShift s ge rd ra imm f).mem.wf = true := by
  unfold ctlShift
  simp_all

theorem execCtlSlli_mem (ge rd ra : Nat) (imm : W32) (s : State) (hs : s.mem.wf = true) :
    ∀ t, execCtlSlli ge rd ra imm s = .next t → t.mem.wf = true :=
  next_wf (by
    simp_all)

theorem execCtlSrli_mem (ge rd ra : Nat) (imm : W32) (s : State) (hs : s.mem.wf = true) :
    ∀ t, execCtlSrli ge rd ra imm s = .next t → t.mem.wf = true :=
  next_wf (by
    simp_all)

theorem execCtlSrai_mem (ge rd ra : Nat) (imm : W32) (s : State) (hs : s.mem.wf = true) :
    ∀ t, execCtlSrai ge rd ra imm s = .next t → t.mem.wf = true :=
  next_wf (by
    simp_all)

@[simp] theorem jumpTo_mem (s : State) (ge : Nat) (e : Engine) (t : Tag) (tgt : W64)  :
    (jumpTo s ge e t tgt).mem = s.mem := by
  unfold jumpTo
  (repeat' split) <;> simp

@[simp] theorem ctlBranch_mem (s : State) (ge ra rb : Nat) (imm : W32) (c : W64 → W64 → Bool) (hs : s.mem.wf = true) :
    (ctlBranch s ge ra rb imm c).mem.wf = true := by
  unfold ctlBranch
  (repeat' split) <;> grind [issue_mem, jumpTo_mem, setEng_mem]

theorem execCtlBeq_mem (ge ra rb : Nat) (imm : W32) (s : State) (hs : s.mem.wf = true) :
    ∀ t, execCtlBeq ge ra rb imm s = .next t → t.mem.wf = true :=
  next_wf (by
    simp_all)

theorem execCtlBne_mem (ge ra rb : Nat) (imm : W32) (s : State) (hs : s.mem.wf = true) :
    ∀ t, execCtlBne ge ra rb imm s = .next t → t.mem.wf = true :=
  next_wf (by
    simp_all)

theorem execCtlBlt_mem (ge ra rb : Nat) (imm : W32) (s : State) (hs : s.mem.wf = true) :
    ∀ t, execCtlBlt ge ra rb imm s = .next t → t.mem.wf = true :=
  next_wf (by
    simp_all)

theorem execCtlBge_mem (ge ra rb : Nat) (imm : W32) (s : State) (hs : s.mem.wf = true) :
    ∀ t, execCtlBge ge ra rb imm s = .next t → t.mem.wf = true :=
  next_wf (by
    simp_all)

theorem execCtlBltu_mem (ge ra rb : Nat) (imm : W32) (s : State) (hs : s.mem.wf = true) :
    ∀ t, execCtlBltu ge ra rb imm s = .next t → t.mem.wf = true :=
  next_wf (by
    simp_all)

theorem execCtlBgeu_mem (ge ra rb : Nat) (imm : W32) (s : State) (hs : s.mem.wf = true) :
    ∀ t, execCtlBgeu ge ra rb imm s = .next t → t.mem.wf = true :=
  next_wf (by
    simp_all)

theorem execCtlJal_mem (ge rd : Nat) (imm : W32) (s : State) (hs : s.mem.wf = true) :
    ∀ t, execCtlJal ge rd imm s = .next t → t.mem.wf = true :=
  next_wf (by
    simp_all)

theorem execCtlJr_mem (ge ra : Nat) (s : State) (hs : s.mem.wf = true) :
    ∀ t, execCtlJr ge ra s = .next t → t.mem.wf = true :=
  next_wf (by
    simp_all)

@[simp] theorem spadAccess_mem (s : State) (ge : Nat) (e : Engine) (t : Tag) (a n : Nat) (k : State) (hs : s.mem.wf = true) (hk : k.mem.wf = true) :
    (spadAccess s ge e t a n k).mem.wf = true := by
  unfold spadAccess
  (repeat' split) <;> simp_all

theorem execCtlLds_mem (ge rd ra : Nat) (imm : W32) (s : State) (hs : s.mem.wf = true) :
    ∀ t, execCtlLds ge rd ra imm s = .next t → t.mem.wf = true :=
  next_wf (by
    (repeat' split) <;> grind [issue_mem, setEng_mem, spadAccess_mem])

theorem execCtlSts_mem (ge ra rb : Nat) (imm : W32) (s : State) (hs : s.mem.wf = true) :
    ∀ t, execCtlSts ge ra rb imm s = .next t → t.mem.wf = true :=
  next_wf (by
    simp_all)

theorem execCtlDld_mem (ge rd ra : Nat) (imm : W32) (s : State) (hs : s.mem.wf = true) :
    ∀ t, execCtlDld ge rd ra imm s = .next t → t.mem.wf = true :=
  next_wf (by
    (repeat' split) <;> grind [illegalIf_mem, issue_mem, setEng_mem, spadAccess_mem])

theorem execCtlDst_mem (ge ra rb : Nat) (imm : W32) (s : State) (hs : s.mem.wf = true) :
    ∀ t, execCtlDst ge ra rb imm s = .next t → t.mem.wf = true :=
  next_wf (by
    (repeat' split) <;> simp_all (maxDischargeDepth := 6))

theorem execCtlDsetw_mem (ge rd ra : Nat) (imm : W32) (s : State) (hs : s.mem.wf = true) :
    ∀ t, execCtlDsetw ge rd ra imm s = .next t → t.mem.wf = true :=
  next_wf (by
    simp_all)

theorem execCtlDaddw_mem (ge rd ra : Nat) (imm : W32) (s : State) (hs : s.mem.wf = true) :
    ∀ t, execCtlDaddw ge rd ra imm s = .next t → t.mem.wf = true :=
  next_wf (by
    simp_all)

theorem execCtlRds_mem (ge rd : Nat) (imm : W32) (s : State) (hs : s.mem.wf = true) :
    ∀ t, execCtlRds ge rd imm s = .next t → t.mem.wf = true :=
  next_wf (by
    simp_all)

theorem execCtlFault_mem (ge : Nat) (imm : W32) (s : State) (hs : s.mem.wf = true) :
    ∀ t, execCtlFault ge imm s = .next t → t.mem.wf = true :=
  next_wf (by
    simp_all)

@[simp] theorem passYield_mem (s : State) (ge : Nat) (e : Engine) (imm : Nat)  :
    (passYield s ge e imm).mem = s.mem := by
  unfold passYield
  rfl

theorem execCtlYieldpt_mem (ge : Nat) (imm : W32) (s : State) (hs : s.mem.wf = true) :
    ∀ t, execCtlYieldpt ge imm s = .next t → t.mem.wf = true :=
  next_wf (by
    (repeat' split) <;> grind [illegalIf_mem, issue_mem, passYield_mem, raiseSeq_mem, setEng_mem])

theorem execCtlEnd_mem (ge : Nat) (imm : W32) (s : State) (hs : s.mem.wf = true) :
    ∀ t, execCtlEnd ge imm s = .next t → t.mem.wf = true :=
  next_wf (by
    (repeat' split) <;> grind [illegalIf_mem, issue_mem, raiseSeq_mem, setEng_mem])

theorem execIllegalInstruction_mem (ge : Nat) (word : W64) (s : State) (hs : s.mem.wf = true) :
    ∀ t, execIllegalInstruction ge word s = .next t → t.mem.wf = true :=
  next_wf (by
    (repeat' split) <;> simp_all)

theorem execYieldSave_mem (ge waves : Nat) (s : State)  :
    ∀ t, execYieldSave ge waves s = .next t → t.mem = s.mem :=
  next_eq (by
    (repeat' split) <;> grind [setEng_mem])

theorem execStreamEnd_mem (ge waves : Nat) (s : State)  :
    ∀ t, execStreamEnd ge waves s = .next t → t.mem = s.mem :=
  next_eq (by
    (repeat' split) <;> grind [setEng_mem])

theorem execYieldGapExceeded_mem (ge : Nat) (s : State)  :
    ∀ t, execYieldGapExceeded ge s = .next t → t.mem = s.mem :=
  next_eq (by
    (repeat' split) <;> grind [note_mem, setEng_mem])

theorem execOverrun_mem (ge : Nat) (s : State)  :
    ∀ t, execOverrun ge s = .next t → t.mem = s.mem :=
  next_eq (by
    (repeat' split) <;> grind [note_mem, setEng_mem])

end Sys2Proof.Machine
end

