-- ==== Sys2Proof/Laws/MemMov.lean ====
section
/-! SUPPORT. Every operation and command of Machine/Mov.lean keeps the canonical form of memory; where it writes
no memory, memory is as before. -/

set_option maxRecDepth 4000

namespace Sys2Proof.Machine

@[simp] theorem issueMov_mem (s : State) (ge q : Nat) (regs : List Nat) (op : Engine → Tag → MovOp) (bad : Bool) (hs : s.mem.wf = true) :
    (issueMov s ge q regs op bad).mem.wf = true := by
  unfold issueMov
  (repeat' split) <;> simp_all

theorem execMovCopy_mem (ge q ds dd : Nat) (s : State) (hs : s.mem.wf = true) :
    ∀ t, execMovCopy ge q ds dd s = .next t → t.mem.wf = true :=
  next_wf (by
    simp_all)

theorem execMovFill_mem (ge q dd ra : Nat) (s : State) (hs : s.mem.wf = true) :
    ∀ t, execMovFill ge q dd ra s = .next t → t.mem.wf = true :=
  next_wf (by
    simp_all)

theorem execMovCmb_mem (ge q ds dd ra : Nat) (imm : W32) (s : State) (hs : s.mem.wf = true) :
    ∀ t, execMovCmb ge q ds dd ra imm s = .next t → t.mem.wf = true :=
  next_wf (by
    simp_all)

theorem execMovCdone_mem (ge q dd ra : Nat) (imm : W32) (s : State) (hs : s.mem.wf = true) :
    ∀ t, execMovCdone ge q dd ra imm s = .next t → t.mem.wf = true :=
  next_wf (by
    simp_all)

theorem execMovCopen_mem (ge q ds : Nat) (s : State) (hs : s.mem.wf = true) :
    ∀ t, execMovCopen ge q ds s = .next t → t.mem.wf = true :=
  next_wf (by
    simp_all)

theorem execMovCclose_mem (ge q dd : Nat) (s : State) (hs : s.mem.wf = true) :
    ∀ t, execMovCclose ge q dd s = .next t → t.mem.wf = true :=
  next_wf (by
    simp_all)

@[simp] theorem runCopy_mem (s : State) (ge u stamp : Nat) (ds dd : List W64) (hs : s.mem.wf = true) :
    (runCopy s ge u stamp ds dd).2.mem.wf = true := by
  unfold runCopy
  (repeat' split) <;> grind [checkRows_mem, readRows_mem, writeRows_mem]

@[simp] theorem runFill_mem (s : State) (ge u stamp : Nat) (dd : List W64) (v : W64) (hs : s.mem.wf = true) :
    (runFill s ge u stamp dd v).2.mem.wf = true := by
  unfold runFill
  (repeat' split) <;> grind [checkRows_mem, writeRows_mem]

@[simp] theorem cmbAt_mem (s : State) (ge va : Nat) (hs : s.mem.wf = true) :
    (cmbAt s ge va).2.mem.wf = true := by
  unfold cmbAt
  (repeat' split) <;> grind [cPieces_mem]

@[simp] theorem sendPieces_mem (s : State) (type epoch idx : Nat) (widen : Bool) (a1 : List Piece) (a2 : List PByte) (a3 : Bool) (hs : s.mem.wf = true) :
    (sendPieces s type epoch idx widen a1 a2 a3).2.mem.wf = true := by
  fun_induction sendPieces s type epoch idx widen a1 a2 a3 <;> grind [cmbContribute_mem, memWrite_wf, memPut_wf, poisonGran_wf, zeroSpan_wf]

@[simp] theorem sendRow_mem (s : State) (ge va : Nat) (d : List PByte) (type epoch idx : Nat) (hs : s.mem.wf = true) :
    (sendRow s ge va d type epoch idx).2.mem.wf = true := by
  unfold sendRow
  (repeat' split) <;> grind [cPieces_mem, cmbAt_mem, sendPieces_mem]

@[simp] theorem sendRows_mem (s : State) (ge : Nat) (type epoch idx : Nat) (a1 : List (Nat × List PByte)) (hs : s.mem.wf = true) :
    (sendRows s ge type epoch idx a1).2.mem.wf = true := by
  fun_induction sendRows s ge type epoch idx a1 <;> grind [sendRow_mem, memWrite_wf, memPut_wf, poisonGran_wf, zeroSpan_wf]

@[simp] theorem runCmb_mem (s : State) (ge u stamp : Nat) (ds dd : List W64) (contrib epoch : Nat) (allPoison : Bool) (hs : s.mem.wf = true) :
    (runCmb s ge u stamp ds dd contrib epoch allPoison).2.mem.wf = true := by
  unfold runCmb
  (repeat' split) <;> grind [cmbAt_mem, sendRows_mem]

@[simp] theorem physSpan_mem (s : State) (w : Option Nat) (ctx va n : Nat) (hs : s.mem.wf = true) :
    (physSpan s w ctx va n).2.mem.wf = true := by
  unfold physSpan
  (repeat' split) <;> grind [cPieces_mem]

@[simp] theorem runCopen_mem (s : State) (ge u stamp : Nat) (ds : List W64) (hs : s.mem.wf = true) :
    (runCopen s ge u stamp ds).2.mem.wf = true := by
  unfold runCopen
  refine ite_wf2 hs (ite_wf2 hs (ite_wf2 hs ?_))
  dsimp only
  refine ite_wf2 hs ?_
  split
  · next h => exact snd_mem h (physSpan_mem _ _ _ _ _ hs)
  · next h =>
    have ht := snd_mem h (physSpan_mem _ _ _ _ _ hs)
    split
    · next h => exact snd_mem h (physSpan_mem _ _ _ _ _ ht)
    · next h =>
      have hu := snd_mem h (physSpan_mem _ _ _ _ _ ht)
      split
      · next h => exact snd_mem h (physSpan_mem _ _ _ _ _ hu)
      · next x h =>
        have hx := snd_mem h (physSpan_mem _ _ _ _ _ hu)
        have fl (v : Nat) : (if v = 0 then (some 0, x) else physSpan x (walker ge) (eng s ge).seq.context v 8).2.mem.wf = true :=
          ite_wf2 hx (physSpan_mem _ _ _ _ _ hx)
        split
        · next h => exact snd_mem h (fl _)
        · next h =>
          have hy := snd_mem h (fl _)
          refine ite_wf2 hy ?_
          split
          · next h => exact snd_mem h (cmbOpen_mem _ _ _ hy)
          · next h => exact snd_mem h (cmbOpen_mem _ _ _ hy)

@[simp] theorem runCdone_mem (s : State) (ge : Nat) (dd : List W64) (contrib epoch : Nat) (hs : s.mem.wf = true) :
    (runCdone s ge dd contrib epoch).2.mem.wf = true := by
  unfold runCdone
  (repeat' split) <;> grind [cmbAt_mem, cmbDone_mem]

@[simp] theorem runCclose_mem (s : State) (ge : Nat) (dd : List W64) (hs : s.mem.wf = true) :
    (runCclose s ge dd).2.mem.wf = true := by
  unfold runCclose
  (repeat' split) <;> grind [cmbAt_mem, cmbCloseReq_mem]

theorem runMov_mem (s : State) (ge q : Nat) (m : MovOp) (hs : s.mem.wf = true) : (runMov s ge q m).2.mem.wf = true := by
  cases m <;> simp only [runMov]
  · exact runCopy_mem _ _ _ _ _ _ hs
  · exact runFill_mem _ _ _ _ _ _ hs
  · exact runCmb_mem _ _ _ _ _ _ _ _ _ hs
  · exact runCdone_mem _ _ _ _ _ hs
  · exact runCopen_mem _ _ _ _ _ hs
  · exact runCclose_mem _ _ _ hs

theorem execMovTransferComplete_mem (ge q : Nat) (s : State) (hs : s.mem.wf = true) :
    ∀ t, execMovTransferComplete ge q s = .next t → t.mem.wf = true :=
  next_wf (by
    (repeat' split) <;> grind [modEng_mem, raiseSeq_mem, runMov_mem])

@[simp] theorem noteEngine_mem (s : State) (ge code sev : Nat)  :
    (noteEngine s ge code sev).mem = s.mem := by
  unfold noteEngine
  rfl

end Sys2Proof.Machine
end

