-- ==== Sys2Proof/Laws/MemMtx.lean ====
section
/-! SUPPORT. Every operation and command of Machine/Mtx.lean keeps the canonical form of memory; where it writes
no memory, memory is as before. -/

set_option maxRecDepth 4000

namespace Sys2Proof.Machine

@[simp] theorem raiseArr_mem (s : State) (ge a code : Nat) (t : Tag)  :
    (raiseArr s ge a code t).mem = s.mem := by
  unfold raiseArr
  simp

@[simp] theorem modAcc_mem (s : State) (ge a : Nat) (f : Acc → Acc)  :
    (modAcc s ge a f).mem = s.mem := by
  unfold modAcc
  rfl

@[simp] theorem modArr_mem (s : State) (ge a : Nat) (f : Arr → Arr)  :
    (modArr s ge a f).mem = s.mem := by
  unfold modArr
  rfl

@[simp] theorem runTileOp_mem (s : State) (ge a : Nat) (op : ArrOp) (hs : s.mem.wf = true) :
    (runTileOp s ge a op).mem.wf = true := by
  unfold runTileOp
  (repeat' split) <;> grind [checkRows_mem, modAcc_mem, modEng_mem, raiseArr_mem, raiseSeq_mem, readRows_mem, writeRows_mem]

@[simp] theorem beginRun_mem (s : State) (ge a addr : Nat) (tg : Tag) (re : Bool) (hs : s.mem.wf = true) :
    (beginRun s ge a addr tg re).mem.wf = true := by
  unfold beginRun
  (repeat' split) <;> grind [modArr_mem, raiseArr_mem, raiseSeq_mem]

@[simp] theorem advance_mem (a1 : Nat) (a2 : State) (a3 : Nat) (a4 : Nat) (ha2 : a2.mem.wf = true) :
    (advance a1 a2 a3 a4).mem.wf = true := by
  fun_induction advance a1 a2 a3 a4 <;> simp_all

@[simp] theorem issueMtx_mem (s : State) (ge a : Nat) (regs : List Nat) (bad : Bool) (op : Engine → Tag → ArrOp) (pend : List Nat) (hs : s.mem.wf = true) :
    (issueMtx s ge a regs bad op pend).mem.wf = true := by
  unfold issueMtx
  (repeat' split) <;> simp_all

theorem execMtxRun_mem (ge arr rb : Nat) (imm : W32) (s : State) (hs : s.mem.wf = true) :
    ∀ t, execMtxRun ge arr rb imm s = .next t → t.mem.wf = true :=
  next_wf (by
    simp_all)

theorem execMtxTdecl_mem (ge arr : Nat) (imm : W32) (s : State) (hs : s.mem.wf = true) :
    ∀ t, execMtxTdecl ge arr imm s = .next t → t.mem.wf = true :=
  next_wf (by
    simp_all)

theorem execMtxTrel_mem (ge arr : Nat) (imm : W32) (s : State) (hs : s.mem.wf = true) :
    ∀ t, execMtxTrel ge arr imm s = .next t → t.mem.wf = true :=
  next_wf (by
    simp_all)

theorem execMtxTzero_mem (ge arr : Nat) (imm : W32) (s : State) (hs : s.mem.wf = true) :
    ∀ t, execMtxTzero ge arr imm s = .next t → t.mem.wf = true :=
  next_wf (by
    simp_all)

theorem execMtxTclr_mem (ge arr : Nat) (imm : W32) (s : State) (hs : s.mem.wf = true) :
    ∀ t, execMtxTclr ge arr imm s = .next t → t.mem.wf = true :=
  next_wf (by
    simp_all)

theorem execMtxTsave_mem (ge arr dr : Nat) (imm : W32) (s : State) (hs : s.mem.wf = true) :
    ∀ t, execMtxTsave ge arr dr imm s = .next t → t.mem.wf = true :=
  next_wf (by
    simp_all)

theorem execMtxTrest_mem (ge arr dr : Nat) (imm : W32) (s : State) (hs : s.mem.wf = true) :
    ∀ t, execMtxTrest ge arr dr imm s = .next t → t.mem.wf = true :=
  next_wf (by
    simp_all)

theorem execMtxTstat_mem (ge arr rd : Nat) (imm : W32) (s : State) (hs : s.mem.wf = true) :
    ∀ t, execMtxTstat ge arr rd imm s = .next t → t.mem.wf = true :=
  next_wf (by
    simp_all)

theorem execMtxFmtld_mem (ge dr : Nat) (imm : W32) (s : State) (hs : s.mem.wf = true) :
    ∀ t, execMtxFmtld ge dr imm s = .next t → t.mem.wf = true :=
  next_wf (by
    (repeat' split) <;> simp_all)

theorem execFormatSlotLoad_mem (ge : Nat) (s : State) (hs : s.mem.wf = true) :
    ∀ t, execFormatSlotLoad ge s = .next t → t.mem.wf = true :=
  next_wf (by
    (repeat' (first | with_reducible assumption | with_reducible rfl | with_reducible first | (apply foldl_mem <;> intros) | (apply foldl_mem_snd <;> intros) | (apply foldl_mem_fst <;> intros) | simp only [modEng_mem, raiseSeq_mem, setEng_mem] | (with_reducible apply ite_wf) | (with_reducible apply advance_mem) | (with_reducible apply vRead_mem) | split | dsimp only)) <;> grind [advance_mem, modEng_mem, raiseSeq_mem, setEng_mem, vRead_mem, memWrite_wf, memPut_wf, poisonGran_wf, zeroSpan_wf])

end Sys2Proof.Machine
end

