-- ==== Sys2Proof/Laws/MemArray.lean ====
section
/-! SUPPORT. Every operation and command of Machine/Array.lean keeps the canonical form of memory; where it writes
no memory, memory is as before. -/

set_option maxRecDepth 4000

namespace Sys2Proof.Machine

@[simp] theorem issueHeld_mem (s : State) (ge : Nat)  :
    (issueHeld s ge).2.mem = s.mem := by
  unfold issueHeld
  (repeat' split) <;> simp

@[simp] theorem activeWave_mem (s : State) (ge arr : Nat) (dry busy fill off : Bool) (hs : s.mem.wf = true) :
    (activeWave s ge arr dry busy fill off).mem.wf = true := by
  unfold activeWave
  simp_all

theorem execShadowLoadRead_mem (ge arr : Nat) (s : State) (hs : s.mem.wf = true) :
    ∀ t, execShadowLoadRead ge arr s = .next t → t.mem.wf = true :=
  next_wf (by
    (repeat' split) <;> grind [issueHeld_mem, modArr_mem])

theorem execShadowLoadBankWrite_mem (ge arr : Nat) (s : State)  :
    ∀ t, execShadowLoadBankWrite ge arr s = .next t → t.mem = s.mem :=
  next_eq (by
    rfl)

@[simp] theorem dropRun_mem (s : State) (ge arr : Nat)  :
    (dropRun s ge arr).mem = s.mem := by
  unfold dropRun
  rfl

theorem execPassStart_mem (ge arr : Nat) (s : State) (hs : s.mem.wf = true) :
    ∀ t, execPassStart ge arr s = .next t → t.mem.wf = true :=
  next_wf (by
    (repeat' split) <;> grind [advance_mem, dropRun_mem, issueHeld_mem, raiseArr_mem, raiseSeq_mem, setEng_mem])

theorem execFinishedTileRaise_mem (ge arr tile : Nat) (s : State)  :
    ∀ t, execFinishedTileRaise ge arr tile s = .next t → t.mem = s.mem :=
  next_eq (by
    (repeat' split) <;> grind [setEng_mem])

@[simp] theorem arrayWave_mem (s : State) (ge arr : Nat) (dry busy fill : Bool) (hs : s.mem.wf = true) :
    (arrayWave s ge arr dry busy fill).mem.wf = true := by
  unfold arrayWave
  (repeat' split) <;> grind [activeWave_mem, modArr_mem]

end Sys2Proof.Machine
end

