-- ==== Sys2Proof/Laws/MemPacked.lean ====
section
/-! SUPPORT. Every operation and command of Machine/Packed.lean keeps the canonical form of memory; where it writes
no memory, memory is as before. -/

set_option maxRecDepth 4000

namespace Sys2Proof.Machine

@[simp] theorem modContain_mem (s : State) (f : Contain → Contain)  :
    (modContain s f).mem = s.mem := by
  unfold modContain
  rfl

@[simp] theorem setPack_mem (s : State) (slot arr : Nat) (p : Packed)  :
    (setPack s slot arr p).mem = s.mem := by
  unfold setPack
  rfl

theorem execArrayWave_mem (ge arr : Nat) (dry busy fill : Bool) (s : State) (hs : s.mem.wf = true) :
    ∀ t, execArrayWave ge arr dry busy fill s = .next t → t.mem.wf = true :=
  next_wf (by
    (repeat' split) <;> grind [arrayWave_mem, setPack_mem])

@[simp] theorem testSlot_mem (s : State) (slot : Nat) (g : TestProgram) (bad : List (Nat × Nat × W64))  :
    (testSlot s slot g bad).2.mem = s.mem := by
  unfold testSlot
  (repeat' (first | with_reducible assumption | with_reducible first | (apply foldl_eqm <;> intros) | (apply foldl_eqm_snd <;> intros) | (apply foldl_eqm_fst <;> intros) | split)) <;> simp_all

end Sys2Proof.Machine
end

