-- ==== Sys2Proof/Laws/MemChain.lean ====
section
/-! SUPPORT. Every operation and command of Machine/Chain.lean keeps the canonical form of memory; where it writes
no memory, memory is as before. -/

set_option maxRecDepth 4000

namespace Sys2Proof.Machine

@[simp] theorem issueVch_mem (s : State) (ge : Nat) (regs : List Nat) (bad : Bool) (op : Engine → Tag → ChainOp) (pend : Nat) (hs : s.mem.wf = true) :
    (issueVch s ge regs bad op pend).mem.wf = true := by
  unfold issueVch
  (repeat' split) <;> simp_all

theorem execVchRun_mem (ge rp rc : Nat) (imm : W32) (s : State) (hs : s.mem.wf = true) :
    ∀ t, execVchRun ge rp rc imm s = .next t → t.mem.wf = true :=
  next_wf (by
    (repeat' split) <;> grind [issueVch_mem])

theorem execVchCrvld_mem (ge dr : Nat) (imm : W32) (s : State) (hs : s.mem.wf = true) :
    ∀ t, execVchCrvld ge dr imm s = .next t → t.mem.wf = true :=
  next_wf (by
    simp_all)

theorem execVchCclr_mem (ge : Nat) (imm : W32) (s : State) (hs : s.mem.wf = true) :
    ∀ t, execVchCclr ge imm s = .next t → t.mem.wf = true :=
  next_wf (by
    simp_all)

theorem execVchCstat_mem (ge rd : Nat) (s : State) (hs : s.mem.wf = true) :
    ∀ t, execVchCstat ge rd s = .next t → t.mem.wf = true :=
  next_wf (by
    simp_all)

@[simp] theorem raiseChain_mem (s : State) (ge code : Nat) (t : Tag) (addr : Nat)  :
    (raiseChain s ge code t addr).mem = s.mem := by
  unfold raiseChain
  simp

theorem execCurveSlotLoad_mem (ge : Nat) (s : State) (hs : s.mem.wf = true) :
    ∀ t, execCurveSlotLoad ge s = .next t → t.mem.wf = true :=
  next_wf (by
    (repeat' split) <;> grind [modEng_mem, raiseChain_mem, raiseSeq_mem, vRead_mem])

@[simp] theorem cmbStep_mem (s : State) (ge : Nat) (f : StreamF) (d : List W64) (hs : s.mem.wf = true) :
    (cmbStep s ge f d).2.mem.wf = true := by
  unfold cmbStep
  (repeat' split) <;> grind [cmbAt_mem]

@[simp] theorem outSpan_mem (s : State) (ge va n : Nat) (hs : s.mem.wf = true) :
    (outSpan s ge va n).2.mem.wf = true := by
  unfold outSpan
  (repeat' split) <;> grind [cmbAt_mem]

@[simp] theorem outsMapped_mem (ge : Nat) (a1 : List (Nat × ChainOut)) (a2 : State) (ha2 : a2.mem.wf = true) :
    (outsMapped ge a1 a2).2.mem.wf = true := by
  fun_induction outsMapped ge a1 a2 <;> grind [cPieces_mem, outSpan_mem, vPieces_mem, memWrite_wf, memPut_wf, poisonGran_wf, zeroSpan_wf]

@[simp] theorem combineStep_mem (s : State) (ge : Nat) (f : StreamF) (d : List W64) (hs : s.mem.wf = true) :
    (combineStep s ge f d).2.mem.wf = true := by
  unfold combineStep
  (repeat' split) <;> grind [cmbStep_mem]

@[simp] theorem refuseChain_mem (s : State) (ge : Nat) (pend : Nat) (tg : Tag) (r : ChainRef)  :
    (refuseChain s ge pend tg r).mem = s.mem := by
  unfold refuseChain
  (repeat' split) <;> simp

@[simp] theorem chainTake_mem (s : State) (ge n : Nat) (op : ChainOp) (reads own tilesOut : List (Nat × Nat)) (inplace : Bool) (w : ChainWork)  :
    (chainTake s ge n op reads own tilesOut inplace w).mem = s.mem := by
  unfold chainTake
  rfl

@[simp] theorem chainOutputs_mem (s : State) (ge a n : Nat) (descs : List (List W64)) (regs : List W64) (pend : Nat) (tg : Tag) (p : ProgF) (own : List (Nat × Nat)) (c0 c1 : Nat) (hs : s.mem.wf = true) :
    (chainOutputs s ge a n descs regs pend tg p own c0 c1).mem.wf = true := by
  unfold chainOutputs
  (repeat' split) <;> grind [chainTake_mem, outsMapped_mem, refuseChain_mem]

@[simp] theorem chainRegions_mem (s : State) (ge a n : Nat) (descs : List (List W64)) (regs : List W64) (pend : Nat) (tg : Tag) (p : ProgF) (own : List (Nat × Nat)) (hs : s.mem.wf = true) :
    (chainRegions s ge a n descs regs pend tg p own).mem.wf = true := by
  unfold chainRegions
  (repeat' split) <;> grind [chainOutputs_mem, combineStep_mem, refuseChain_mem]

@[simp] theorem chainProgram_mem (s : State) (ge : Nat) (e : Engine) (a n : Nat) (descs : List (List W64)) (regs : List W64) (pend : Nat) (tg : Tag) (hs : s.mem.wf = true) :
    (chainProgram s ge e a n descs regs pend tg).mem.wf = true := by
  unfold chainProgram
  (repeat' split) <;> grind [chainRegions_mem, refuseChain_mem]

theorem execChainInstrStart_mem (ge : Nat) (s : State) (hs : s.mem.wf = true) :
    ∀ t, execChainInstrStart ge s = .next t → t.mem.wf = true :=
  next_wf (by
    (repeat' split) <;> grind [chainProgram_mem, issueHeld_mem])

@[simp] theorem writeOut_mem (s : State) (ge : Nat) (tg : Tag) (bad : Bool) (o : ChainOut) (hs : s.mem.wf = true) :
    (writeOut s ge tg bad o).mem.wf = true := by
  unfold writeOut
  (repeat' split) <;> grind [modAcc_mem, modEng_mem, raiseSeq_mem, sendRow_mem, vWrite_mem]

@[simp] theorem writeOuts_mem (s : State) (ge : Nat) (tg : Tag) (bad : Bool) (g h : Nat) (l : List (Nat × ChainOut)) (hs : s.mem.wf = true) :
    (writeOuts s ge tg bad g h l).mem.wf = true := by
  unfold writeOuts
  simp_all

theorem execChainInstrComplete_mem (ge : Nat) (p : ChainGroups) (s : State) (hs : s.mem.wf = true) :
    ∀ t, execChainInstrComplete ge p s = .next t → t.mem.wf = true :=
  next_wf (by
    (repeat' split) <;> grind [modEng_mem, writeOuts_mem])

end Sys2Proof.Machine
end

