-- ==== Sys2Proof/Laws/MemEngFault.lean ====
section
/-! SUPPORT. Every operation and command of Machine/EngFault.lean keeps the canonical form of memory; where it writes
no memory, memory is as before. -/

set_option maxRecDepth 4000

namespace Sys2Proof.Machine

@[simp] theorem afterAbandon_mem (e : Engine) (s : State) (ge a : Nat) (hs : s.mem.wf = true) :
    (afterAbandon e s ge a).mem.wf = true := by
  unfold afterAbandon
  (repeat' split) <;> simp_all

@[simp] theorem raiseUnrec_mem (s : State) (ge : Nat) (t : Tag)  :
    (raiseUnrec s ge t).mem = s.mem := by
  unfold raiseUnrec
  simp

@[simp] theorem abandonChain_mem (s : State) (ge : Nat) (hs : s.mem.wf = true) :
    (abandonChain s ge).mem.wf = true := by
  unfold abandonChain
  (repeat' split) <;> simp_all

@[simp] theorem holdEngine_mem (s : State) (ge : Nat) (hs : s.mem.wf = true) :
    (holdEngine s ge).mem.wf = true := by
  unfold holdEngine
  (repeat' split) <;> simp_all

@[simp] theorem escalate_mem (s : State) (ge : Nat) (second : Bool) (hs : s.mem.wf = true) :
    (escalate s ge second).mem.wf = true := by
  unfold escalate
  (repeat' split) <;> simp_all

@[simp] theorem arrayFault_mem (s : State) (ge a code : Nat) (hs : s.mem.wf = true) :
    (arrayFault s ge a code).mem.wf = true := by
  unfold arrayFault
  simp_all

theorem execArrayHwFault_mem (ge arr code : Nat) (s : State) (hs : s.mem.wf = true) :
    ∀ t, execArrayHwFault ge arr code s = .next t → t.mem.wf = true :=
  next_wf (by
    simp_all)

@[simp] theorem chainFault_mem (s : State) (ge code : Nat) (hs : s.mem.wf = true) :
    (chainFault s ge code).mem.wf = true := by
  unfold chainFault
  simp_all

theorem execChainHwFault_mem (ge code : Nat) (s : State) (hs : s.mem.wf = true) :
    ∀ t, execChainHwFault ge code s = .next t → t.mem.wf = true :=
  next_wf (by
    simp_all)

theorem execHandshakeTimeout_mem (ge unit : Nat) (s : State) (hs : s.mem.wf = true) :
    ∀ t, execHandshakeTimeout ge unit s = .next t → t.mem.wf = true :=
  next_wf (by
    (repeat' split) <;> simp_all)

theorem execRegEccError_mem (ge : Nat) (s : State) (hs : s.mem.wf = true) :
    ∀ t, execRegEccError ge s = .next t → t.mem.wf = true :=
  next_wf (by
    simp_all)

theorem execMoveUnitFault_mem (ge q : Nat) (s : State) (hs : s.mem.wf = true) :
    ∀ t, execMoveUnitFault ge q s = .next t → t.mem.wf = true :=
  next_wf (by
    (repeat' split) <;> grind [holdEngine_mem, modEng_mem, noteEngine_mem, raiseSeq_mem, runCmb_mem])

end Sys2Proof.Machine
end

