-- ==== Sys2Proof/Laws/MemRelay.lean ====
section
/-! SUPPORT. Every operation and command of Machine/Relay.lean keeps the canonical form of memory; where it writes
no memory, memory is as before. -/

set_option maxRecDepth 4000

namespace Sys2Proof.Machine

@[simp] theorem modStep_mem (s : State) (step : Nat) (f : StepSt → StepSt)  :
    (modStep s step f).mem = s.mem := by
  unfold modStep
  rfl

@[simp] theorem addItem_mem (s : State) (step : Nat) (i : JItem)  :
    (addItem s step i).mem = s.mem := by
  unfold addItem
  rfl

@[simp] theorem uRead_mem (s : State) (ctx va n : Nat) (hs : s.mem.wf = true) :
    (uRead s ctx va n).2.mem.wf = true := by
  unfold uRead
  (repeat' split) <;> grind [vPieces_mem]

@[simp] theorem uWrite_mem (s : State) (ctx va : Nat) (d : List PByte) (hs : s.mem.wf = true) :
    (uWrite s ctx va d).2.mem.wf = true := by
  unfold uWrite
  (repeat' split) <;> grind [vPieces_mem, writePieces_mem]

@[simp] theorem uReadSpace_mem (s : State) (ge ctx stamp space va n : Nat) (hs : s.mem.wf = true) :
    (uReadSpace s ge ctx stamp space va n).2.mem.wf = true := by
  unfold uReadSpace
  (repeat' split) <;> grind [vPieces_mem]

@[simp] theorem uReadAll_mem (s : State) (ge ctx stamp space : Nat) (a1 : List (Nat × Nat)) (hs : s.mem.wf = true) :
    (uReadAll s ge ctx stamp space a1).2.mem.wf = true := by
  fun_induction uReadAll s ge ctx stamp space a1 <;> grind [uReadSpace_mem, memWrite_wf, memPut_wf, poisonGran_wf, zeroSpan_wf]

@[simp] theorem physPut_mem (s : State) (pa : Nat) (d : List PByte) (hs : s.mem.wf = true) :
    (physPut s pa d).mem.wf = true := by
  unfold physPut
  (repeat' (first | with_reducible assumption | with_reducible first | (apply foldl_mem <;> intros) | (apply foldl_mem_snd <;> intros) | (apply foldl_mem_fst <;> intros) | split)) <;> simp_all (maxDischargeDepth := 6)

@[simp] theorem physWrite_mem (s : State) (pa : Nat) (d : List Byte) (hs : s.mem.wf = true) :
    (physWrite s pa d).mem.wf = true := by
  unfold physWrite
  simp_all

@[simp] theorem setStrm_mem (s : State) (k : Nat) (v : Stream)  :
    (setStrm s k v).mem = s.mem := by
  unfold setStrm
  rfl

@[simp] theorem modStrm_mem (s : State) (k : Nat) (f : Stream → Stream)  :
    (modStrm s k f).mem = s.mem := by
  unfold modStrm
  rfl

@[simp] theorem setSrx_mem (s : State) (k : Nat) (v : StreamRx)  :
    (setSrx s k v).mem = s.mem := by
  unfold setSrx
  rfl

@[simp] theorem modSrx_mem (s : State) (k : Nat) (f : StreamRx → StreamRx)  :
    (modSrx s k f).mem = s.mem := by
  unfold modSrx
  rfl

@[simp] theorem freshEntropy_mem (s : State)  :
    (freshEntropy s).2.mem = s.mem := by
  unfold freshEntropy
  rfl

@[simp] theorem fillPaths_mem (s : State) (k : Nat)  :
    (fillPaths s k).mem = s.mem := by
  unfold fillPaths
  (repeat' (first | with_reducible assumption | with_reducible first | (apply foldl_eqm <;> intros) | (apply foldl_eqm_snd <;> intros) | (apply foldl_eqm_fst <;> intros) | split)) <;> simp_all

@[simp] theorem emitOn_mem (s : State) (port entropy member : Nat) (f : RFrame)  :
    (emitOn s port entropy member f).mem = s.mem := by
  unfold emitOn
  rfl

@[simp] theorem emitCtl_mem (s : State) (k type : Nat) (step : Option StepHdr) (body : RBody)  :
    (emitCtl s k type step body).mem = s.mem := by
  unfold emitCtl
  (repeat' split) <;> grind [emitOn_mem]

@[simp] theorem finishOp_mem (s : State) (id : Nat)  :
    (finishOp s id).mem = s.mem := by
  unfold finishOp
  (repeat' split) <;> simp

@[simp] theorem partDone_mem (s : State) (id : Nat)  :
    (partDone s id).mem = s.mem := by
  unfold partDone
  (repeat' split) <;> simp

@[simp] theorem addParts_mem (s : State) (id n : Nat)  :
    (addParts s id n).mem = s.mem := by
  unfold addParts
  rfl

@[simp] theorem putRecord_mem (s : State) (ctx flag bytes status step : Nat) (hs : s.mem.wf = true) :
    (putRecord s ctx flag bytes status step).mem.wf = true := by
  unfold putRecord
  (repeat' split) <;> simp_all

@[simp] theorem bufferDone_mem (s : State) (id bytes status step : Nat) (hs : s.mem.wf = true) :
    (bufferDone s id bytes status step).mem.wf = true := by
  unfold bufferDone
  (repeat' split) <;> simp_all

@[simp] theorem giveCredit_mem (s : State) (k : Nat)  :
    (giveCredit s k).mem = s.mem := by
  unfold giveCredit
  (repeat' split) <;> grind [emitCtl_mem, modSrx_mem, modStrm_mem]

@[simp] theorem openCredits_mem (s : State) (k : Nat)  :
    (openCredits s k).2.mem = s.mem := by
  unfold openCredits
  (repeat' split) <;> simp

@[simp] theorem sendOpen_mem (s : State) (k : Nat)  :
    (sendOpen s k).mem = s.mem := by
  unfold sendOpen
  simp

@[simp] theorem startStream_mem (s : State) (k peer cls : Nat)  :
    (startStream s k peer cls).mem = s.mem := by
  unfold startStream
  (repeat' split) <;> simp

@[simp] theorem useStream_mem (s : State) (peer cls : Nat)  :
    (useStream s peer cls).2.mem = s.mem := by
  unfold useStream
  (repeat' split) <;> grind [emitCtl_mem, modStrm_mem, startStream_mem]

@[simp] theorem pushMsg_mem (s : State) (k : Nat) (m : TxMsg)  :
    (pushMsg s k m).mem = s.mem := by
  unfold pushMsg
  rfl

@[simp] theorem queueMsg_mem (s : State) (peer cls : Nat) (m : TxMsg)  :
    (queueMsg s peer cls m).mem = s.mem := by
  unfold queueMsg
  (repeat' split) <;> grind [pushMsg_mem, useStream_mem]

@[simp] theorem retryWaiting_mem (s : State)  :
    (retryWaiting s).mem = s.mem := by
  unfold retryWaiting
  (repeat' (first | with_reducible assumption | with_reducible first | (apply foldl_eqm <;> intros) | (apply foldl_eqm_snd <;> intros) | (apply foldl_eqm_fst <;> intros) | split)) <;> grind [pushMsg_mem, useStream_mem]

@[simp] theorem modComb_mem (s : State) (id : Nat) (f : GComb → GComb)  :
    (modComb s id f).mem = s.mem := by
  unfold modComb
  rfl

@[simp] theorem putStatus_mem (s : State) (c : GComb) (r : Nat) (hs : s.mem.wf = true) :
    (putStatus s c r).mem.wf = true := by
  unfold putStatus
  simp_all

@[simp] theorem orStatus_mem (s : State) (id r b : Nat) (hs : s.mem.wf = true) :
    (orStatus s id r b).mem.wf = true := by
  unfold orStatus
  (repeat' split) <;> grind [modComb_mem, putStatus_mem]

@[simp] theorem slotDecided_mem (s : State) (id r : Nat)  :
    (slotDecided s id r).mem = s.mem := by
  unfold slotDecided
  rfl

@[simp] theorem dropRow_mem (s : State) (id step : Nat) (r : RowRef) (hs : s.mem.wf = true) :
    (dropRow s id step r).mem.wf = true := by
  unfold dropRow
  (repeat' split) <;> simp_all

@[simp] theorem sendBundles_mem (a1 : Nat) (a2 : State) (a3 : Nat) (a4 : Nat) (a5 : Nat) (a6 : List RowRef) (ha2 : a2.mem.wf = true) :
    (sendBundles a1 a2 a3 a4 a5 a6).mem.wf = true := by
  fun_induction sendBundles a1 a2 a3 a4 a5 a6 <;>
    (repeat' (first | with_reducible assumption | (with_reducible (apply foldl_mem) <;> intros) | (with_reducible (apply foldl_mem_snd) <;> intros) | (with_reducible (apply foldl_mem_fst) <;> intros) | (with_reducible (apply issue_mem) <;> intros) | split | dsimp only)) <;> first | (simp_all; done) | (grind [addItem_mem, addParts_mem, dropRow_mem, modComb_mem, modStep_mem, queueMsg_mem, memWrite_wf, memPut_wf, poisonGran_wf, zeroSpan_wf])

@[simp] theorem refuseRows_mem (s : State) (id entry rank : Nat) (rows : List RowRef) (hs : s.mem.wf = true) :
    (refuseRows s id entry rank rows).mem.wf = true := by
  unfold refuseRows
  (repeat' (first | with_reducible assumption | with_reducible first | (apply foldl_mem <;> intros) | (apply foldl_mem_snd <;> intros) | (apply foldl_mem_fst <;> intros) | split)) <;> simp_all (maxDischargeDepth := 6)

@[simp] theorem formRecord_mem (s : State) (id r : Nat) (missing : Bool) (hs : s.mem.wf = true) :
    (formRecord s id r missing).mem.wf = true := by
  unfold formRecord
  (repeat' split) <;> simp_all (maxDischargeDepth := 6)

@[simp] theorem endComb_mem (s : State) (id status : Nat) (hs : s.mem.wf = true) :
    (endComb s id status).mem.wf = true := by
  unfold endComb
  (repeat' split) <;> simp_all

@[simp] theorem settleComb_mem (s : State) (id : Nat) (recs : List Nat) (hs : s.mem.wf = true) :
    (settleComb s id recs).mem.wf = true := by
  unfold settleComb
  dsimp only
  have h1 : (recs.eraseDups.foldl (fun t r =>
      match combOf t id with
      | some c => if !bitAt (recStatus c r) 14 && recReady c r then formRecord t id r false else t
      | none => t) s).mem.wf = true := by
    apply foldl_mem _ _ _ _ hs
    intro t x ht
    repeat' split
    all_goals simp_all
  revert h1
  generalize (recs.eraseDups.foldl _ s) = s1
  intro h1
  repeat' split
  all_goals simp_all

@[simp] theorem bundleAnswered_mem (s : State) (id num peer a : Nat) (hs : s.mem.wf = true) :
    (bundleAnswered s id num peer a).mem.wf = true := by
  unfold bundleAnswered
  (repeat' split) <;> simp_all (maxDischargeDepth := 6)

@[simp] theorem msgLost_mem (s : State) (peer : Nat) (m : TxMsg) (hs : s.mem.wf = true) :
    (msgLost s peer m).mem.wf = true := by
  unfold msgLost
  (repeat' split) <;> simp_all

@[simp] theorem failStream_mem (s : State) (k : Nat) (hs : s.mem.wf = true) :
    (failStream s k).mem.wf = true := by
  unfold failStream
  simp_all

end Sys2Proof.Machine
end

