-- ==== Sys2Proof/Laws/MemJournal.lean ====
section
/-! SUPPORT. Every operation and command of Machine/Journal.lean keeps the canonical form of memory; where it writes
no memory, memory is as before. -/

set_option maxRecDepth 4000

namespace Sys2Proof.Machine

@[simp] theorem putRecordAt_mem (s : State) (step : Nat) (r : List Byte) (hs : s.mem.wf = true) :
    (putRecordAt s step r).mem.wf = true := by
  unfold putRecordAt
  (repeat' split) <;> grind [note_mem, physWrite_mem]

@[simp] theorem writeJournal_mem (s : State) (step : Nat) (hs : s.mem.wf = true) :
    (writeJournal s step).mem.wf = true := by
  unfold writeJournal
  repeat' (first | with_reducible assumption | with_reducible rfl | with_reducible first | (apply foldl_mem <;> intros) | (apply foldl_mem_snd <;> intros) | (apply foldl_mem_fst <;> intros) | simp only [modStep_mem] | (with_reducible apply ite_wf) | (with_reducible apply putRecordAt_mem) | split | dsimp only)

@[simp] theorem loadReplay_mem (s : State) (step : Nat) (hs : s.mem.wf = true) :
    (loadReplay s step).mem.wf = true := by
  unfold loadReplay
  (repeat' split) <;> grind [modStep_mem]

@[simp] theorem lateItem_mem (s : State) (step : Nat) (i : JItem) (hs : s.mem.wf = true) :
    (lateItem s step i).mem.wf = true := by
  unfold lateItem
  (repeat' split) <;> grind [addItem_mem, putRecordAt_mem]

@[simp] theorem unitEvent_mem (s : State) (kind unit : Nat) (hs : s.mem.wf = true) :
    (unitEvent s kind unit).mem.wf = true := by
  unfold unitEvent
  (repeat' split) <;> simp_all

end Sys2Proof.Machine
end

