-- ==== Sys2Proof/Laws/MemRelayOps.lean ====
section
/-! SUPPORT. Every operation and command of Machine/RelayOps.lean keeps the canonical form of memory; where it writes
no memory, memory is as before. -/

set_option maxRecDepth 4000

namespace Sys2Proof.Machine

@[simp] theorem raiseRly_mem (s : State) (ge code : Nat) (t : Tag) (addr : Nat)  :
    (raiseRly s ge code t addr).mem = s.mem := by
  unfold raiseRly
  simp

@[simp] theorem issueRly_mem (s : State) (ge : Nat) (regs : List Nat) (work : State → Engine → Tag → State) (hs : s.mem.wf = true) (hwork : ∀ (x0 : State) (x1 : Engine) (x2 : Tag), x0.mem.wf = true → (work x0 x1 x2).mem.wf = true) :
    (issueRly s ge regs work).mem.wf = true := by
  unfold issueRly
  (repeat' split) <;> simp_all

@[simp] theorem newOp_mem (s : State) (ge step n : Nat) (holds pins : Bool)  :
    (newOp s ge step n holds pins).2.mem = s.mem := by
  unfold newOp
  rfl

@[simp] theorem afterBoundary_mem (s : State) (step : Nat) (keys : List Nat)  :
    (afterBoundary s step keys).mem = s.mem := by
  unfold afterBoundary
  (repeat' split) <;> grind [note_mem]

@[simp] theorem startStep_mem (s : State) (step : Nat) (hs : s.mem.wf = true) :
    (startStep s step).mem.wf = true := by
  unfold startStep
  (repeat' split) <;> grind [afterBoundary_mem, loadReplay_mem, modStep_mem, takeStaged_mem]

@[simp] theorem offerCredits_mem (s : State) (cls : Nat)  :
    (offerCredits s cls).mem = s.mem := by
  unfold offerCredits
  (repeat' (first | with_reducible assumption | with_reducible first | (apply foldl_eqm <;> intros) | (apply foldl_eqm_snd <;> intros) | (apply foldl_eqm_fst <;> intros) | split)) <;> grind [emitCtl_mem, giveCredit_mem, modStrm_mem, setSrx_mem]

@[simp] theorem placeRows_mem (s : State) (id : Nat) (rows : List (Nat × Nat × RowRef)) (hs : s.mem.wf = true) :
    (placeRows s id rows).mem.wf = true := by
  unfold placeRows
  (repeat' (first | with_reducible assumption | with_reducible first | (apply foldl_mem <;> intros) | (apply foldl_mem_snd <;> intros) | (apply foldl_mem_fst <;> intros) | split)) <;> simp_all (maxDischargeDepth := 6)

@[simp] theorem readActRows_mem (s : State) (ge ctx stamp : Nat) (d cb : List W64) (a1 : List Nat) (hs : s.mem.wf = true) :
    (readActRows s ge ctx stamp d cb a1).2.mem.wf = true := by
  fun_induction readActRows s ge ctx stamp d cb a1 <;> grind [uReadAll_mem, memWrite_wf, memPut_wf, poisonGran_wf, zeroSpan_wf]

@[simp] theorem startDispatch_mem (s : State) (ge : Nat) (t : Tag) (cb adesc : List W64) (rspace rbase n layer : Nat)
    (hs : s.mem.wf = true) : (startDispatch s ge t cb adesc rspace rbase n layer).mem.wf = true := by
  unfold startDispatch
  dsimp only
  split
  · next h => rw [raiseSeq_mem]; exact snd_mem h (uReadSpace_mem _ _ _ _ _ _ _ hs)
  · next h =>
    have h1 := snd_mem h (uReadSpace_mem _ _ _ _ _ _ _ hs)
    split
    · rw [raiseRly_mem]; exact h1
    · split
      · next h => rw [raiseSeq_mem]; exact snd_mem h (readActRows_mem _ _ _ _ _ _ _ h1)
      · next h =>
        have h2 := snd_mem h (readActRows_mem _ _ _ _ _ _ _ h1)
        rw [partDone_mem]
        apply settleComb_mem
        apply placeRows_mem
        apply foldl_mem
        · intro u x hu; exact formRecord_mem _ _ _ _ hu
        · apply foldl_mem
          · intro u x hu; exact putStatus_mem _ _ _ hu
          · exact (congrArg Mem.wf (newOp_mem _ ge (bits (dw cb 0) 31 0) 1 true false)).trans h2

theorem execRlyDispatch_mem (ge ds dd ra rb : Nat) (imm : W32) (s : State) (hs : s.mem.wf = true) :
    ∀ t, execRlyDispatch ge ds dd ra rb imm s = .next t → t.mem.wf = true :=
  next_wf (by
    (repeat' split) <;> grind [issueRly_mem, raiseRly_mem, raiseSeq_mem, startDispatch_mem, uReadSpace_mem])

theorem execRlySend_mem (ge ds ra rb : Nat) (imm : W32) (s : State) (hs : s.mem.wf = true) :
    ∀ t, execRlySend ge ds ra rb imm s = .next t → t.mem.wf = true :=
  next_wf (by
    (repeat' split) <;> grind [issueRly_mem, newOp_mem, queueMsg_mem, raiseRly_mem, raiseSeq_mem, uReadAll_mem])

theorem execRlyPostrx_mem (ge dd ra rb : Nat) (imm : W32) (s : State) (hs : s.mem.wf = true) :
    ∀ t, execRlyPostrx ge dd ra rb imm s = .next t → t.mem.wf = true :=
  next_wf (by
    (repeat' split) <;> grind [checkRows_mem, cmbAt_mem, issueRly_mem, newOp_mem, offerCredits_mem, raiseRly_mem, raiseSeq_mem])

theorem execRlyReturn_mem (ge ds dd ra : Nat) (imm : W32) (s : State) (hs : s.mem.wf = true) :
    ∀ t, execRlyReturn ge ds dd ra imm s = .next t → t.mem.wf = true :=
  next_wf (by
    (repeat' (first | with_reducible assumption | with_reducible rfl | with_reducible first | (apply foldl_mem <;> intros) | (apply foldl_mem_snd <;> intros) | (apply foldl_mem_fst <;> intros) | (apply issueRly_mem <;> intros) | simp only [queueMsg_mem, raiseRly_mem, raiseSeq_mem] | (with_reducible apply ite_wf) | (with_reducible apply newOp_mem) | (with_reducible apply uReadAll_mem) | (with_reducible apply uReadSpace_mem) | split | dsimp only)) <;> grind [issueRly_mem, newOp_mem, queueMsg_mem, raiseRly_mem, raiseSeq_mem, uReadAll_mem, uReadSpace_mem, memWrite_wf, memPut_wf, poisonGran_wf, zeroSpan_wf])

theorem execRlyStepflags_mem (ge ra : Nat) (imm : W32) (s : State) (hs : s.mem.wf = true) :
    ∀ t, execRlyStepflags ge ra imm s = .next t → t.mem.wf = true :=
  next_wf (by
    (repeat' split) <;> grind [issueRly_mem, modStep_mem, raiseRly_mem, startStep_mem])

@[simp] theorem cancelPost_mem (s : State) (p : Posting) (hs : s.mem.wf = true) :
    (cancelPost s p).mem.wf = true := by
  unfold cancelPost
  (repeat' split) <;> simp_all (maxDischargeDepth := 6)

theorem execRlyCancelrx_mem (ge ra : Nat) (imm : W32) (s : State) (hs : s.mem.wf = true) :
    ∀ t, execRlyCancelrx ge ra imm s = .next t → t.mem.wf = true :=
  next_wf (by
    repeat' (first | with_reducible assumption | with_reducible rfl | with_reducible first | (apply foldl_mem <;> intros) | (apply foldl_mem_snd <;> intros) | (apply foldl_mem_fst <;> intros) | (apply issueRly_mem <;> intros) | simp only [raiseRly_mem] | (with_reducible apply ite_wf) | (with_reducible apply cancelPost_mem) | split | dsimp only))

end Sys2Proof.Machine
end

