-- ==== Sys2Proof/Laws/MemRelayRx.lean ====
section
/-! SUPPORT. Every operation and command of Machine/RelayRx.lean keeps the canonical form of memory; where it writes
no memory, memory is as before. -/

set_option maxRecDepth 4000

namespace Sys2Proof.Machine

@[simp] theorem pathLoss_mem (s : State) (k i now : Nat)  :
    (pathLoss s k i now).mem = s.mem := by
  unfold pathLoss
  (repeat' split) <;> grind [freshEntropy_mem, note_mem, setStrm_mem]

@[simp] theorem reapMsgs_mem (s : State) (k : Nat) (done : List (Nat × Nat)) (hs : s.mem.wf = true) :
    (reapMsgs s k done).mem.wf = true := by
  unfold reapMsgs
  (repeat' (first | with_reducible assumption | with_reducible first | (apply foldl_mem <;> intros) | (apply foldl_mem_snd <;> intros) | (apply foldl_mem_fst <;> intros) | split)) <;> simp_all (maxDischargeDepth := 6)

@[simp] theorem ackStream_mem (s : State) (k cum map : Nat) (done : List (Nat × Nat)) (ce : Option Nat) (hs : s.mem.wf = true) :
    (ackStream s k cum map done ce).mem.wf = true := by
  unfold ackStream
  (repeat' split) <;> grind [reapMsgs_mem, retryWaiting_mem, setSrx_mem, setStrm_mem]

@[simp] theorem resendPkts_mem (s : State) (k : Nat) (f : Pkt → Bool)  :
    (resendPkts s k f).mem = s.mem := by
  unfold resendPkts
  rfl

@[simp] theorem nackStream_mem (s : State) (k reason : Nat) (pairs : List (Nat × Nat)) (now : Nat) (hs : s.mem.wf = true) :
    (nackStream s k reason pairs now).mem.wf = true := by
  unfold nackStream
  (repeat' (first | with_reducible assumption | with_reducible first | (apply foldl_mem <;> intros) | (apply foldl_mem_snd <;> intros) | (apply foldl_mem_fst <;> intros) | split)) <;> simp_all (maxDischargeDepth := 6)

@[simp] theorem sendAck_mem (s : State) (k : Nat) (hs : s.mem.wf = true) :
    (sendAck s k).mem.wf = true := by
  unfold sendAck
  (repeat' split) <;> simp_all

@[simp] theorem sendNack_mem (s : State) (k reason : Nat) (pairs : List (Nat × Nat)) (hs : s.mem.wf = true) :
    (sendNack s k reason pairs).mem.wf = true := by
  unfold sendNack
  (repeat' split) <;> simp_all

@[simp] theorem discardFrame_mem (s : State)  :
    (discardFrame s).mem = s.mem := by
  unfold discardFrame
  rfl

@[simp] theorem countStale_mem (s : State)  :
    (countStale s).mem = s.mem := by
  unfold countStale
  rfl

@[simp] theorem frameGate_mem (s : State) (a : Arrival) (f : RFrame) (type : Nat) (work : State → State) (hs : s.mem.wf = true) (hwork : ∀ (x0 : State), x0.mem.wf = true → (work x0).mem.wf = true) :
    (frameGate s a f type work).mem.wf = true := by
  unfold frameGate
  (repeat' split) <;> simp_all

@[simp] theorem refuseDigest_mem (s : State) (k reason : Nat) (h : StepHdr) (hs : s.mem.wf = true) :
    (refuseDigest s k reason h).mem.wf = true := by
  unfold refuseDigest
  simp_all

@[simp] theorem bufPut_mem (s : State) (p : Posting) (addr size o : Nat) (d : List PByte) (hs : s.mem.wf = true) :
    (bufPut s p addr size o d).mem.wf = true := by
  unfold bufPut
  (repeat' split) <;> grind [modEng_mem, raise_mem, vPieces_mem, writePieces_mem]

@[simp] theorem putBundle_mem (s : State) (p : Posting) (m : RxMsg) (o : Nat) (d : List PByte) (cb sb : Nat) (hs : s.mem.wf = true) :
    (putBundle s p m o d cb sb).mem.wf = true := by
  unfold putBundle
  (repeat' split) <;> grind [bufPut_mem]

@[simp] theorem admitRows_mem (s : State) (step entry sender bundle rows : Nat)  :
    (admitRows s step entry sender bundle rows).2.mem = s.mem := by
  unfold admitRows
  (repeat' split) <;> simp

@[simp] theorem landReturn_mem (s : State) (peer : Nat) (d : List PByte) (hs : s.mem.wf = true) :
    (landReturn s peer d).mem.wf = true := by
  unfold landReturn
  dsimp only
  split
  · exact hs
  · apply settleComb_mem
    apply foldl_mem _ _ _ _ hs
    intro t j ht
    split
    · exact ht
    · split
      · exact ht
      · exact orStatus_mem _ _ _ _ (uWrite_mem _ _ _ _ ht)

@[simp] theorem serveLend_mem (s : State) (peer op off len : Nat) (d : List PByte) (hs : s.mem.wf = true) :
    (serveLend s peer op off len d).2.mem.wf = true := by
  unfold serveLend
  (repeat' split) <;> grind [physPut_mem, queueMsg_mem]

@[simp] theorem relayRefused_mem (s : State) (r : RelayHeld)  :
    (relayRefused s r).mem = s.mem := by
  unfold relayRefused
  rfl

@[simp] theorem teamClose_mem (s : State) (a : Nat)  :
    (teamClose s a).mem = s.mem := by
  unfold teamClose
  (repeat' split) <;> simp

theorem landGrad_mem (s : State) (peer : Nat) (f : RFrame) (step off contrib : Nat) (hs : s.mem.wf = true) :
    ∀ t, landGrad s peer f step off contrib = some t → t.mem.wf = true := by
  intro t ht
  unfold landGrad at ht
  (repeat' (first | split at ht | dsimp only at ht | (cases ht; done))) <;> (try simp only [Option.some.injEq, reduceCtorEq] at ht) <;>
    (try subst ht) <;> simp_all

@[simp] theorem landDone_mem (s : State) (peer tcls step contrib : Nat)  :
    (landDone s peer tcls step contrib).mem = s.mem := by
  unfold landDone
  (repeat' split) <;> grind [cmbDone_mem, relayRefused_mem, teamClose_mem]

@[simp] theorem msgWhole_mem (s : State) (k : Nat) (m : RxMsg) (f : RFrame) (hs : s.mem.wf = true) :
    (msgWhole s k m f).mem.wf = true := by
  unfold msgWhole
  (repeat' split) <;> grind [bufferDone_mem, landDone_mem, landReturn_mem, modSrx_mem, sendNack_mem, serveLend_mem]

@[simp] theorem landPart_mem (s : State) (k : Nat) (m : RxMsg) (f : RFrame) (hs : s.mem.wf = true) :
    (landPart s k m f).mem.wf = true := by
  unfold landPart
  (repeat' split) <;> grind [bufPut_mem, modSrx_mem, msgWhole_mem, putBundle_mem]

@[simp] theorem takeBuf_mem (s : State) (peer cls : Nat)  :
    (takeBuf s peer cls).2.mem = s.mem := by
  unfold takeBuf
  (repeat' split) <;> simp

@[simp] theorem beginMsg_mem (s : State) (k : Nat) (f : RFrame) (step : Nat)  :
    (beginMsg s k f step).2.mem = s.mem := by
  unfold beginMsg
  (repeat' split) <;> grind [admitRows_mem, modSrx_mem, takeBuf_mem]

@[simp] theorem landFrame_mem (s : State) (k : Nat) (f : RFrame) (step : Nat) (hs : s.mem.wf = true) :
    (landFrame s k f step).mem.wf = true := by
  unfold landFrame
  (repeat' (first | with_reducible assumption | with_reducible rfl | with_reducible first | (apply foldl_mem <;> intros) | (apply foldl_mem_snd <;> intros) | (apply foldl_mem_fst <;> intros) | simp only [modSrx_mem] | (with_reducible apply ite_wf) | (with_reducible apply beginMsg_mem) | (with_reducible apply landPart_mem) | split | dsimp only)) <;> simp_all (maxDischargeDepth := 6)

@[simp] theorem seeHeader_mem (s : State) (h : StepHdr) (hs : s.mem.wf = true) :
    (seeHeader s h).mem.wf = true := by
  unfold seeHeader
  (repeat' split) <;> grind [modStep_mem, note_mem, startStep_mem]

@[simp] theorem recordPsn_mem (s : State) (k psn : Nat)  :
    (recordPsn s k psn).mem = s.mem := by
  unfold recordPsn
  rfl

@[simp] theorem ackDue_mem (s : State) (k : Nat) (hs : s.mem.wf = true) :
    (ackDue s k).mem.wf = true := by
  unfold ackDue
  (repeat' split) <;> grind [giveCredit_mem, sendAck_mem]

@[simp] theorem recvData_mem (s : State) (k : Nat) (f : RFrame) (h : StepHdr) (hs : s.mem.wf = true) :
    (recvData s k f h).mem.wf = true := by
  have h0 : (if f.pathSeq ≤ sget 0 (srx s k).pathSeq f.path then s else
      sendNack s k 0 ((List.range (min 16 (f.pathSeq - sget 0 (srx s k).pathSeq f.path))).map fun i =>
        (f.path, sget 0 (srx s k).pathSeq f.path + i))).mem.wf = true := by
    split
    · exact hs
    · exact sendNack_mem _ _ _ _ hs
  unfold recvData
  split
  · exact refuseDigest_mem _ _ _ _ hs
  · dsimp only
    revert h0
    generalize (if f.pathSeq ≤ sget 0 (srx s k).pathSeq f.path then s else _) = s0
    intro h0
    apply ite_wf
    · apply sendAck_mem; rw [modSrx_mem]; exact h0
    · apply ite_wf
      · apply sendNack_mem; rw [modSrx_mem]; exact h0
      · split
        · apply sendNack_mem; rw [note_mem]; apply seeHeader_mem; rw [modSrx_mem]; exact h0
        · next t ht =>
          have h1 : t.mem.wf = true := by
            split at ht
            · rw [Option.map_eq_some_iff] at ht
              obtain ⟨u, hu, rfl⟩ := ht
              exact landFrame_mem _ _ _ _ (landGrad_mem _ _ _ _ _ _ (by
                apply seeHeader_mem; rw [modSrx_mem]; exact h0) _ hu)
            · cases ht
              apply landFrame_mem
              apply seeHeader_mem; rw [modSrx_mem]; exact h0
          exact ackDue_mem _ _ (by rw [recordPsn_mem]; exact h1)

theorem execFrameData_mem (a : Arrival) (f : RFrame) (s : State) (hs : s.mem.wf = true) :
    ∀ t, execFrameData a f s = .next t → t.mem.wf = true :=
  next_wf (by
    (repeat' split) <;> grind [discardFrame_mem, frameGate_mem, recvData_mem])

theorem execFrameAck_mem (a : Arrival) (f : RFrame) (s : State) (hs : s.mem.wf = true) :
    ∀ t, execFrameAck a f s = .next t → t.mem.wf = true :=
  next_wf (by
    (repeat' split) <;> grind [ackStream_mem, discardFrame_mem, frameGate_mem])

theorem execFrameNack_mem (a : Arrival) (f : RFrame) (now : Nat) (s : State) (hs : s.mem.wf = true) :
    ∀ t, execFrameNack a f now s = .next t → t.mem.wf = true :=
  next_wf (by
    (repeat' split) <;> grind [discardFrame_mem, frameGate_mem, nackStream_mem])

theorem execFrameCredit_mem (a : Arrival) (f : RFrame) (s : State) (hs : s.mem.wf = true) :
    ∀ t, execFrameCredit a f s = .next t → t.mem.wf = true :=
  next_wf (by
    (repeat' split) <;> grind [discardFrame_mem, frameGate_mem, modSrx_mem, modStrm_mem, offerCredits_mem])

theorem execFrameOpen_mem (a : Arrival) (f : RFrame) (s : State) (hs : s.mem.wf = true) :
    ∀ t, execFrameOpen a f s = .next t → t.mem.wf = true :=
  next_wf (by
    (repeat' split) <;> grind [discardFrame_mem, emitCtl_mem, emitOn_mem, fillPaths_mem, frameGate_mem, modStrm_mem, openCredits_mem, refuseDigest_mem, setSrx_mem, setStrm_mem])

theorem execFrameOpenAck_mem (a : Arrival) (f : RFrame) (s : State) (hs : s.mem.wf = true) :
    ∀ t, execFrameOpenAck a f s = .next t → t.mem.wf = true :=
  next_wf (by
    (repeat' split) <;> grind [discardFrame_mem, frameGate_mem, modStrm_mem])

theorem execFrameOpenNack_mem (a : Arrival) (f : RFrame) (s : State) (hs : s.mem.wf = true) :
    ∀ t, execFrameOpenNack a f s = .next t → t.mem.wf = true :=
  next_wf (by
    (repeat' split) <;> grind [discardFrame_mem, frameGate_mem, modStrm_mem])

theorem execFrameClose_mem (a : Arrival) (f : RFrame) (s : State) (hs : s.mem.wf = true) :
    ∀ t, execFrameClose a f s = .next t → t.mem.wf = true :=
  next_wf (by
    (repeat' split) <;> grind [discardFrame_mem, frameGate_mem, retryWaiting_mem, sendAck_mem, setSrx_mem, setStrm_mem])

theorem execFrameProbe_mem (a : Arrival) (f : RFrame) (s : State) (hs : s.mem.wf = true) :
    ∀ t, execFrameProbe a f s = .next t → t.mem.wf = true :=
  next_wf (by
    (repeat' split) <;> grind [discardFrame_mem, emitCtl_mem, frameGate_mem, modStrm_mem, refuseDigest_mem])

theorem execFrameProbeAck_mem (a : Arrival) (f : RFrame) (s : State) (hs : s.mem.wf = true) :
    ∀ t, execFrameProbeAck a f s = .next t → t.mem.wf = true :=
  next_wf (by
    (repeat' split) <;> grind [discardFrame_mem, frameGate_mem, modStrm_mem])

@[simp] theorem lostFirst_mem (s : State) (k : Nat) (work : State) (hs : s.mem.wf = true) (hwork : work.mem.wf = true) :
    (lostFirst s k work).mem.wf = true := by
  unfold lostFirst
  (repeat' split) <;> grind [failStream_mem]

theorem execPacketTransmit_mem (stream : Nat) (s : State) (hs : s.mem.wf = true) :
    ∀ t, execPacketTransmit stream s = .next t → t.mem.wf = true :=
  next_wf (by
    (repeat' split) <;> grind [emitCtl_mem, emitOn_mem, lostFirst_mem, modStrm_mem, recvData_mem, setStrm_mem])

theorem execOpenRetryTimer_mem (stream : Nat) (s : State) (hs : s.mem.wf = true) :
    ∀ t, execOpenRetryTimer stream s = .next t → t.mem.wf = true :=
  next_wf (by
    (repeat' split) <;> grind [failStream_mem, lostFirst_mem, modStrm_mem, sendOpen_mem])

theorem execRetransmitTimeout_mem (stream psn now : Nat) (s : State) (hs : s.mem.wf = true) :
    ∀ t, execRetransmitTimeout stream psn now s = .next t → t.mem.wf = true :=
  next_wf (by
    (repeat' split) <;> grind [failStream_mem, lostFirst_mem, modStrm_mem, pathLoss_mem])

theorem execNoPathTimeout_mem (stream : Nat) (s : State) (hs : s.mem.wf = true) :
    ∀ t, execNoPathTimeout stream s = .next t → t.mem.wf = true :=
  next_wf (by
    (repeat' split) <;> grind [failStream_mem])

theorem execAckTimer_mem (stream : Nat) (s : State) (hs : s.mem.wf = true) :
    ∀ t, execAckTimer stream s = .next t → t.mem.wf = true :=
  next_wf (by
    (repeat' split) <;> simp_all)

theorem execProbeTimer_mem (stream : Nat) (s : State) (hs : s.mem.wf = true) :
    ∀ t, execProbeTimer stream s = .next t → t.mem.wf = true :=
  next_wf (by
    (repeat' split) <;> simp_all)

@[simp] theorem modPort_mem (s : State) (p : Nat) (f : Port → Port)  :
    (modPort s p f).mem = s.mem := by
  unfold modPort
  rfl

theorem execPortLinkUp_mem (p : PortPeer) (s : State)  :
    ∀ t, execPortLinkUp p s = .next t → t.mem = s.mem :=
  next_eq (by
    repeat' (first | with_reducible assumption | with_reducible rfl | with_reducible first | (apply foldl_eqm <;> intros) | (apply foldl_eqm_snd <;> intros) | (apply foldl_eqm_fst <;> intros) | simp only [fillPaths_mem, modPort_mem] | split | dsimp only))

@[simp] theorem portDown_mem (s : State) (port : Nat)  :
    (portDown s port).mem = s.mem := by
  unfold portDown
  rfl

theorem execLaneFailure_mem (port lane : Nat) (s : State) (hs : s.mem.wf = true) :
    ∀ t, execLaneFailure port lane s = .next t → t.mem.wf = true :=
  next_wf (by
    (repeat' split) <;> grind [modPort_mem, note_mem, portDown_mem, raiseGen_mem, unitEvent_mem])

theorem execLaneSpareComplete_mem (port : Nat) (s : State)  :
    ∀ t, execLaneSpareComplete port s = .next t → t.mem = s.mem :=
  next_eq (by
    (repeat' split) <;> grind [modPort_mem, note_mem, repairDue_mem])

end Sys2Proof.Machine
end

