-- ==== Sys2Proof/Laws/MemRelaySteps.lean ====
section
/-! SUPPORT. Every operation and command of Machine/RelaySteps.lean keeps the canonical form of memory; where it writes
no memory, memory is as before. -/

set_option maxRecDepth 4000

namespace Sys2Proof.Machine

@[simp] theorem refusedMsg_mem (s : State) (src : Option Nat) (r : RelayHeld)  :
    (refusedMsg s src r).mem = s.mem := by
  unfold refusedMsg
  rfl

@[simp] theorem regionOpened_mem (s : State)  :
    (regionOpened s).mem = s.mem := by
  unfold regionOpened
  (repeat' (first | with_reducible assumption | with_reducible first | (apply foldl_eqm <;> intros) | (apply foldl_eqm_snd <;> intros) | (apply foldl_eqm_fst <;> intros) | split)) <;> simp_all

theorem execCombineOpen_mem (home : Nat) (words : List W64) (owner : Nat) (s : State) (hs : s.mem.wf = true) :
    ∀ t, execCombineOpen home words owner s = .next t → t.mem.wf = true :=
  next_wf (by
    (repeat' split) <;> grind [cmbOpen_mem, refusedMsg_mem, regionOpened_mem])

theorem execCombineContribution_mem (pa type epoch contrib : Nat) (d : MaskedData) (src : Option Nat) (s : State) (hs : s.mem.wf = true) :
    ∀ t, execCombineContribution pa type epoch contrib d src s = .next t → t.mem.wf = true :=
  next_wf (by
    (repeat' split) <;> grind [cmbMasked_mem, refusedMsg_mem])

theorem execCombineDone_mem (pa epoch contrib : Nat) (src : Option Nat) (s : State)  :
    ∀ t, execCombineDone pa epoch contrib src s = .next t → t.mem = s.mem :=
  next_eq (by
    (repeat' split) <;> grind [cmbDone_mem, refusedMsg_mem, teamClose_mem])

theorem execCombineClose_mem (pa : Nat) (owner : Option Nat) (s : State)  :
    ∀ t, execCombineClose pa owner s = .next t → t.mem = s.mem :=
  next_eq (by
    (repeat' split) <;> grind [cmbCloseReq_mem, refusedMsg_mem])

@[simp] theorem regionClosed_mem (s : State) (base : Nat) (hs : s.mem.wf = true) :
    (regionClosed s base).mem.wf = true := by
  unfold regionClosed
  simp_all

theorem execCombineApplyComplete_mem (pa : Nat) (s : State) (hs : s.mem.wf = true) :
    ∀ t, execCombineApplyComplete pa s = .next t → t.mem.wf = true :=
  next_wf (by
    (repeat' split) <;> grind [cmbApplied_mem, regionClosed_mem])

@[simp] theorem lateContribution_mem (s : State) (r : RelayHeld) (hs : s.mem.wf = true) :
    (lateContribution s r).mem.wf = true := by
  unfold lateContribution
  (repeat' split) <;> grind [cmbMasked_mem, noteLate_mem]

theorem execCombineRefusal_mem (s : State) (hs : s.mem.wf = true) :
    ∀ t, execCombineRefusal s = .next t → t.mem.wf = true :=
  next_wf (by
    (repeat' split) <;> simp_all)

theorem execCombineUnitFault_mem (home : Nat) (s : State) (hs : s.mem.wf = true) :
    ∀ t, execCombineUnitFault home s = .next t → t.mem.wf = true :=
  next_wf (by
    simp_all)

theorem execEarlyRetry_mem (s : State) (hs : s.mem.wf = true) :
    ∀ t, execEarlyRetry s = .next t → t.mem.wf = true :=
  next_wf (by
    (repeat' split) <;> grind [cmbDone_mem, cmbMasked_mem, lateContribution_mem, noteLate_mem, note_mem, teamClose_mem])

@[simp] theorem endMismatch_mem (s : State) (step : Nat) (hs : s.mem.wf = true) :
    (endMismatch s step).mem.wf = true := by
  unfold endMismatch
  (repeat' split) <;> simp_all (maxDischargeDepth := 6)

@[simp] theorem endWaiting_mem (s : State) (step : Nat) (hs : s.mem.wf = true) :
    (endWaiting s step).mem.wf = true := by
  unfold endWaiting
  simp_all

theorem execStepDeadline_mem (step : Nat) (s : State) (hs : s.mem.wf = true) :
    ∀ t, execStepDeadline step s = .next t → t.mem.wf = true := by
  intro t ht
  unfold execStepDeadline at ht
  simp only [ok, Host.Outcome.next.injEq] at ht
  subst ht
  have h0 : ∀ f, (modStep s step f).mem.wf = true := fun f => by rw [modStep_mem]; exact hs
  split
  · exact hs
  · apply ite_wf (h0 _)
    have h1 : ((teamRegions (modStep s step fun y => { y with expired := true }) step).foldl
        (fun t r => cmbClose t r.1 r.2.1) (modStep s step fun y => { y with expired := true })).mem.wf = true :=
      foldl_mem _ _ _ (fun t r ht => by rw [cmbClose_mem]; exact ht) (h0 _)
    have h2 := endWaiting_mem _ step (endMismatch_mem _ step h1)
    apply foldl_mem _ _ _ _ h2
    intro t c ht
    apply endComb_mem
    apply foldl_mem _ _ _ _ ht
    intro u r hu
    split
    · apply ite_wf hu
      exact formRecord_mem _ _ _ _ hu
    · exact hu

@[simp] theorem putTouched_mem (s : State) (step : Nat) (v : Verdict) (hs : s.mem.wf = true) :
    (putTouched s step v).mem.wf = true := by
  unfold putTouched
  (repeat' split) <;> grind [modStep_mem, physWrite_mem, settleWrites_mem]

@[simp] theorem releaseList_mem (s : State) (step : Nat) (hs : s.mem.wf = true) :
    (releaseList s step).mem.wf = true := by
  unfold releaseList
  (repeat' split) <;> simp_all

@[simp] theorem releaseLists_mem (s : State) (hs : s.mem.wf = true) :
    (releaseLists s).mem.wf = true := by
  unfold releaseLists
  simp_all

@[simp] theorem adoptVerdict_mem (s : State) (step : Nat) (v : Verdict) (hs : s.mem.wf = true) :
    (adoptVerdict s step v).mem.wf = true := by
  unfold adoptVerdict
  repeat' (first | with_reducible assumption | with_reducible rfl | with_reducible first | (apply foldl_mem <;> intros) | (apply foldl_mem_snd <;> intros) | (apply foldl_mem_fst <;> intros) | simp only [modStep_mem, noteLate_mem] | (with_reducible apply ite_wf) | (with_reducible apply releaseList_mem) | (with_reducible apply writeJournal_mem) | split | dsimp only)

@[simp] theorem sendReport_mem (s : State) (step : Nat) (missing : Bool) (hs : s.mem.wf = true) :
    (sendReport s step missing).mem.wf = true := by
  unfold sendReport
  (repeat' split) <;> grind [adoptVerdict_mem, modStep_mem]

theorem execStepCloseRecord_mem (step : Nat) (s : State) (hs : s.mem.wf = true) :
    ∀ t, execStepCloseRecord step s = .next t → t.mem.wf = true :=
  next_wf (by
    (repeat' split) <;> grind [adoptVerdict_mem, modStep_mem, sendReport_mem])

theorem execVerdictReport_mem (member step : Nat) (halve incomplete : Bool) (s : State) (hs : s.mem.wf = true) :
    ∀ t, execVerdictReport member step halve incomplete s = .next t → t.mem.wf = true :=
  next_wf (by
    (repeat' split) <;> grind [modStep_mem, sendReport_mem])

theorem execVerdictWaitExpiry_mem (step : Nat) (s : State) (hs : s.mem.wf = true) :
    ∀ t, execVerdictWaitExpiry step s = .next t → t.mem.wf = true :=
  next_wf (by
    (repeat' split) <;> simp_all)

theorem execVerdictReceive_mem (step : Nat) (halve incomplete : Bool) (lsNext : Int) (clean : Nat) (s : State) (hs : s.mem.wf = true) :
    ∀ t, execVerdictReceive step halve incomplete lsNext clean s = .next t → t.mem.wf = true :=
  next_wf (by
    simp_all)

@[simp] theorem refuseLend_mem (s : State) (member : Nat) (hs : s.mem.wf = true) :
    (refuseLend s member).mem.wf = true := by
  unfold refuseLend
  (repeat' split) <;> simp_all

theorem execLendWriteRequest_mem (member off : Nat) (data : List (Byte × Bool)) (s : State) (hs : s.mem.wf = true) :
    ∀ t, execLendWriteRequest member off data s = .next t → t.mem.wf = true :=
  next_wf (by
    (repeat' split) <;> simp_all)

theorem execLendReadRequest_mem (member off len : Nat) (s : State) (hs : s.mem.wf = true) :
    ∀ t, execLendReadRequest member off len s = .next t → t.mem.wf = true :=
  next_wf (by
    (repeat' split) <;> simp_all)

theorem execLendNoticeExpiry_mem (s : State)  :
    ∀ t, execLendNoticeExpiry s = .next t → t.mem = s.mem :=
  next_eq (by
    (repeat' split) <;> simp)

@[simp] theorem setLend_mem (s : State) (v : Nat)  :
    (setLend s v).mem = s.mem := by
  unfold setLend
  (repeat' split) <;> simp

@[simp] theorem resetStream_mem (s : State) (k : Nat)  :
    (resetStream s k).mem = s.mem := by
  unfold resetStream
  (repeat' split) <;> grind [fillPaths_mem, giveCredit_mem, modStrm_mem, sendOpen_mem, setSrx_mem, setStrm_mem]

@[simp] theorem abandonRx_mem (s : State) (k : Nat) (hs : s.mem.wf = true) :
    (abandonRx s k).mem.wf = true := by
  unfold abandonRx
  (repeat' (first | with_reducible assumption | with_reducible first | (apply foldl_mem <;> intros) | (apply foldl_mem_snd <;> intros) | (apply foldl_mem_fst <;> intros) | split)) <;> grind [bufferDone_mem, raise_mem]

@[simp] theorem relayUnitFault_mem (s : State) (unit : Nat) (hs : s.mem.wf = true) :
    (relayUnitFault s unit).mem.wf = true := by
  unfold relayUnitFault
  simp_all

theorem execRelayUnitFault_mem (unit : Nat) (s : State) (hs : s.mem.wf = true) :
    ∀ t, execRelayUnitFault unit s = .next t → t.mem.wf = true :=
  next_wf (by
    simp_all)

@[simp] theorem abortWith_mem (s : State) (code : Nat)  :
    (abortWith s code).mem = s.mem := by
  unfold abortWith
  rfl

@[simp] theorem setSel_mem (s : State) (reader ix sub : Nat) (v : List Byte)  :
    (setSel s reader ix sub v).mem = s.mem := by
  unfold setSel
  rfl

theorem writeStreamQuery_mem (s : State) (reader : Nat) (d : List Byte)  :
    ∀ t, writeStreamQuery s reader d = .ok t → t.mem = s.mem := by
  intro t ht
  unfold writeStreamQuery at ht
  (repeat' (first | split at ht | dsimp only at ht | (cases ht; done))) <;> (try simp only [Except.ok.injEq, reduceCtorEq] at ht) <;>
    (try subst ht) <;> rfl

theorem execStreamQuerySelect_mem (reader : Nat) (data : List Byte) (s : State)  :
    ∀ t, execStreamQuerySelect reader data s = .next t → t.mem = s.mem :=
  next_eq (by
    (repeat' split) <;> grind [abortWith_mem, writeStreamQuery_mem])

theorem writeStreamClose_mem (s : State) (n : Nat)  :
    ∀ t, writeStreamClose s n = .ok t → t.mem = s.mem := by
  intro t ht
  unfold writeStreamClose at ht
  (repeat' (first | split at ht | dsimp only at ht | (cases ht; done))) <;> (try simp only [Except.ok.injEq, reduceCtorEq] at ht) <;>
    (try subst ht) <;> simp

theorem execStreamClose_mem (stream : Nat) (s : State)  :
    ∀ t, execStreamClose stream s = .next t → t.mem = s.mem :=
  next_eq (by
    (repeat' split) <;> grind [abortWith_mem, writeStreamClose_mem])

theorem execLendEnableWrite_mem (v : Nat) (s : State)  :
    ∀ t, execLendEnableWrite v s = .next t → t.mem = s.mem :=
  next_eq (by
    (repeat' split) <;> simp)

end Sys2Proof.Machine
end

