-- ==== Sys2Proof/Laws/MemReplicas.lean ====
section
/-! SUPPORT. Every operation and command of Machine/Replicas.lean keeps the canonical form of memory; where it writes
no memory, memory is as before. -/

set_option maxRecDepth 4000

namespace Sys2Proof.Machine

@[simp] theorem skipBlock_mem (s : State) (ctx step h : Nat) (hs : s.mem.wf = true) :
    (skipBlock s ctx step h).mem.wf = true := by
  unfold skipBlock
  (repeat' split) <;> simp_all

@[simp] theorem skipBlocks_mem (s : State) (step reason : Nat) (l : List Nat) (hs : s.mem.wf = true) :
    (skipBlocks s step reason l).mem.wf = true := by
  unfold skipBlocks
  (repeat' split) <;> simp_all (maxDischargeDepth := 6)

theorem execCommitDeadline_mem (step : Nat) (s : State) (hs : s.mem.wf = true) :
    ∀ t, execCommitDeadline step s = .next t → t.mem.wf = true :=
  next_wf (by
    repeat' (first | with_reducible assumption | with_reducible rfl | with_reducible first | (apply foldl_mem <;> intros) | (apply foldl_mem_snd <;> intros) | (apply foldl_mem_fst <;> intros) | simp only [modStep_mem, note_mem] | (with_reducible apply ite_wf) | (with_reducible apply releaseLists_mem) | (with_reducible apply skipBlock_mem) | (with_reducible apply skipBlocks_mem) | (with_reducible apply writeJournal_mem) | split | dsimp only))

theorem execReplayStallTimeout_mem (step : Nat) (s : State)  :
    ∀ t, execReplayStallTimeout step s = .next t → t.mem = s.mem :=
  next_eq (by
    (repeat' split) <;> grind)

@[simp] theorem compareGroup_mem (s : State) (step : Nat) (g : RepGroup)  :
    (compareGroup s step g).mem = s.mem := by
  unfold compareGroup
  (repeat' split) <;> grind

@[simp] theorem replayCompare_mem (s : State) (step id : Nat) (t : W64) (hs : s.mem.wf = true) :
    (replayCompare s step id t).mem.wf = true := by
  unfold replayCompare
  (repeat' split) <;> grind [note_mem]

theorem execGroupTallyReport_mem (member step group : Nat) (tally : W64) (s : State) (hs : s.mem.wf = true) :
    ∀ t, execGroupTallyReport member step group tally s = .next t → t.mem.wf = true :=
  next_wf (by
    repeat' (first | with_reducible assumption | with_reducible rfl | with_reducible first | (apply foldl_mem <;> intros) | (apply foldl_mem_snd <;> intros) | (apply foldl_mem_fst <;> intros) | simp only [compareGroup_mem] | (with_reducible apply ite_wf) | (with_reducible apply lateItem_mem) | (with_reducible apply replayCompare_mem) | split | dsimp only))

@[simp] theorem needRepair_mem (s : State) (h : Nat) (src : Option Nat) (rule : Nat)  :
    (needRepair s h src rule).mem = s.mem := by
  unfold needRepair
  rfl

@[simp] theorem sendRepair_mem (s : State) (ctx step h member : Nat) (hs : s.mem.wf = true) :
    (sendRepair s ctx step h member).mem.wf = true := by
  unfold sendRepair
  (repeat' split) <;> simp_all

theorem execReplicaTripleExchange_mem (group handle step : Nat) (triples : List (Nat × W64 × Nat × Nat × Bool)) (s : State) (hs : s.mem.wf = true) :
    ∀ t, execReplicaTripleExchange group handle step triples s = .next t → t.mem.wf = true :=
  next_wf (by
    repeat' (first | with_reducible assumption | with_reducible rfl | with_reducible first | (apply foldl_mem <;> intros) | (apply foldl_mem_snd <;> intros) | (apply foldl_mem_fst <;> intros) | simp only [needRepair_mem] | (with_reducible apply ite_wf) | (with_reducible apply sendRepair_mem) | split | dsimp only))

theorem installRepair_mem (s : State) (ctx h step : Nat) (ckpt : Bool) (data : List Byte) (hs : s.mem.wf = true) :
    ∀ t, installRepair s ctx h step ckpt data = some t → t.mem.wf = true := by
  intro t ht
  simp only [installRepair, Option.bind_eq_bind, Option.bind_eq_some_iff] at ht
  obtain ⟨a, -, w, -, ht⟩ := ht
  split at ht
  · cases ht
  · cases ht
    exact uWrite_mem _ _ _ _ (uWrite_mem _ _ _ _ (uWrite_mem _ _ _ _ hs))

theorem execReplicaRepairInstall_mem (group handle step : Nat) (data : List Byte) (s : State) (hs : s.mem.wf = true) :
    ∀ t, execReplicaRepairInstall group handle step data s = .next t → t.mem.wf = true :=
  next_wf (by
    (repeat' split) <;> grind [installRepair_mem, lateItem_mem, releaseLists_mem])

@[simp] theorem scrubBlock_mem (s : State) (step h : Nat) (hs : s.mem.wf = true) :
    (scrubBlock s step h).mem.wf = true := by
  unfold scrubBlock
  (repeat' split) <;> grind [needRepair_mem]

theorem execReplicaScrub_mem (step : Nat) (s : State) (hs : s.mem.wf = true) :
    ∀ t, execReplicaScrub step s = .next t → t.mem.wf = true :=
  next_wf (by
    simp_all)

theorem execMemberSuspect_mem (member : Nat) (s : State)  :
    ∀ t, execMemberSuspect member s = .next t → t.mem = s.mem :=
  next_eq (by
    (repeat' split) <;> grind [note_mem])

theorem declareLost_mem (s : State) (m : Nat) (hs : s.mem.wf = true) :
    ∀ t, declareLost s m = .ok t → t.mem.wf = true := by
  intro t ht
  unfold declareLost at ht
  split at ht
  · cases ht
  · split at ht
    · cases ht
    · cases ht
      apply foldl_mem
      · intro t k ht
        apply ite_wf _ ht
        rw [sendReport_mem]; exact ht
      · apply foldl_mem
        · intro t k ht
          exact failStream_mem _ _ ht
        · exact homeWrite_mem _ _ _ _ _ _ hs

theorem execDeclareLost_mem (member : Nat) (s : State) (hs : s.mem.wf = true) :
    ∀ t, execDeclareLost member s = .next t → t.mem.wf = true :=
  next_wf (by
    (repeat' split) <;> grind [abortWith_mem, declareLost_mem])

end Sys2Proof.Machine
end

