-- ==== Sys2Proof/Laws/MemPaddock.lean ====
section
/-! SUPPORT. Every operation and command of Machine/Paddock.lean keeps the canonical form of memory; where it writes
no memory, memory is as before. -/

set_option maxRecDepth 4000

namespace Sys2Proof.Machine

theorem commitStore_mem (s : State) (k : Nat) (v : List Byte)  :
    ∀ t, commitStore s k v = .ok t → t.mem = s.mem := by
  intro t ht
  unfold commitStore at ht
  (repeat' (first | split at ht | dsimp only at ht | (cases ht; done))) <;> (try simp only [Except.ok.injEq, reduceCtorEq] at ht) <;>
    (try subst ht) <;> rfl

theorem ownWrite_mem (s : State) (r : Except Nat State) (hs : s.mem.wf = true)
    (hr : ∀ t, r = .ok t → t.mem.wf = true) : (ownWrite s r).mem.wf = true := by
  unfold ownWrite
  split
  · rw [abortWith_mem]; exact hr _ rfl
  · rw [abortWith_mem]; exact hs

@[simp] theorem modCtx_mem (s : State) (c : Nat) (f : Ctx → Ctx)  :
    (modCtx s c f).mem = s.mem := by
  unfold modCtx
  rfl

@[simp] theorem modPad_mem (s : State) (p : Nat) (f : Pad → Pad)  :
    (modPad s p f).mem = s.mem := by
  unfold modPad
  rfl

@[simp] theorem loadEngine_mem (s : State) (c ge : Nat)  :
    (loadEngine s c ge).mem = s.mem := by
  unfold loadEngine
  (repeat' split) <;> grind [modCtx_mem, setEng_mem]

@[simp] theorem beginStream_mem (s : State) (c ge hdr : Nat) (args : List W64) (hs : s.mem.wf = true) :
    (beginStream s c ge hdr args).mem.wf = true := by
  unfold beginStream
  exact hs

@[simp] theorem resumeEngine_mem (s : State) (ge : Nat)  :
    (resumeEngine s ge).mem = s.mem := by
  unfold resumeEngine
  rfl

@[simp] theorem dispatch_mem (s : State) (c : Nat) (hs : s.mem.wf = true) :
    (dispatch s c).mem.wf = true := by
  unfold dispatch
  repeat' (first | with_reducible assumption | with_reducible rfl | with_reducible first | (apply foldl_mem <;> intros) | (apply foldl_mem_snd <;> intros) | (apply foldl_mem_fst <;> intros) | simp only [loadEngine_mem, modCtx_mem, resumeEngine_mem] | (with_reducible apply ite_wf) | (with_reducible apply beginStream_mem) | split | dsimp only)

theorem execContextDispatch_mem (ctx : Nat) (s : State) (hs : s.mem.wf = true) :
    ∀ t, execContextDispatch ctx s = .next t → t.mem.wf = true :=
  next_wf (by
    (repeat' split) <;> simp_all)

@[simp] theorem preempt_mem (s : State) (c : Nat)  :
    (preempt s c).mem = s.mem := by
  unfold preempt
  repeat' (first | with_reducible assumption | with_reducible rfl | with_reducible first | (apply foldl_eqm <;> intros) | (apply foldl_eqm_snd <;> intros) | (apply foldl_eqm_fst <;> intros) | simp only [modCtx_mem, modEng_mem] | split | dsimp only)

@[simp] theorem writeAccount_mem (s : State) (c : Nat) (hs : s.mem.wf = true) :
    (writeAccount s c).mem.wf = true := by
  unfold writeAccount
  (repeat' split) <;> grind [modCtx_mem, physWrite_mem, settleWrites_mem]

@[simp] theorem leaveGang_mem (s : State) (c : Nat) (hs : s.mem.wf = true) :
    (leaveGang s c).mem.wf = true := by
  unfold leaveGang
  simp_all

@[simp] theorem swapOutEngine_mem (s : State) (c ge : Nat)  :
    (swapOutEngine s c ge).mem = s.mem := by
  unfold swapOutEngine
  rfl

@[simp] theorem swapOut_mem (s : State) (c : Nat) (hs : s.mem.wf = true) :
    (swapOut s c).mem.wf = true := by
  unfold swapOut
  repeat' (first | with_reducible assumption | with_reducible rfl | with_reducible first | (apply foldl_mem <;> intros) | (apply foldl_mem_snd <;> intros) | (apply foldl_mem_fst <;> intros) | simp only [modCtx_mem, modPad_mem, swapOutEngine_mem] | (with_reducible apply ite_wf) | (with_reducible apply leaveGang_mem) | (with_reducible apply writeAccount_mem) | split | dsimp only)

theorem execSwapOutComplete_mem (ctx : Nat) (s : State) (hs : s.mem.wf = true) :
    ∀ t, execSwapOutComplete ctx s = .next t → t.mem.wf = true :=
  next_wf (by
    (repeat' split) <;> grind [swapOut_mem])

@[simp] theorem swapIn_mem (s : State) (c q : Nat)  :
    (swapIn s c q).mem = s.mem := by
  unfold swapIn
  repeat' (first | with_reducible assumption | with_reducible rfl | with_reducible first | (apply foldl_eqm <;> intros) | (apply foldl_eqm_snd <;> intros) | (apply foldl_eqm_fst <;> intros) | simp only [modCtx_mem, modEng_mem, modPad_mem] | split | dsimp only)

theorem execSwapInComplete_mem (ctx : Nat) (s : State)  :
    ∀ t, execSwapInComplete ctx s = .next t → t.mem = s.mem :=
  next_eq (by
    (repeat' split) <;> grind [swapIn_mem])

@[simp] theorem billAll_mem (s : State) (p delta : Nat) (bills : List (Nat × Nat × Nat × Nat × Nat))  :
    (billAll s p delta bills).mem = s.mem := by
  unfold billAll
  (repeat' (first | with_reducible assumption | with_reducible first | (apply foldl_eqm <;> intros) | (apply foldl_eqm_snd <;> intros) | (apply foldl_eqm_fst <;> intros) | split)) <;> simp_all

@[simp] theorem endSlice_mem (s : State) (c : Nat)  :
    (endSlice s c).mem = s.mem := by
  unfold endSlice
  (repeat' split) <;> grind [modCtx_mem, preempt_mem]

theorem execSliceEnd_mem (ctx : Nat) (s : State)  :
    ∀ t, execSliceEnd ctx s = .next t → t.mem = s.mem :=
  next_eq (by
    (repeat' split) <;> grind [endSlice_mem])

theorem execBlockThresholdReached_mem (ctx : Nat) (s : State)  :
    ∀ t, execBlockThresholdReached ctx s = .next t → t.mem = s.mem :=
  next_eq (by
    (repeat' split) <;> grind [modCtx_mem])

@[simp] theorem settleStops_mem (s : State) (p : Nat) (hs : s.mem.wf = true) :
    (settleStops s p).mem.wf = true := by
  unfold settleStops
  (repeat' (first | with_reducible assumption | with_reducible first | (apply foldl_mem <;> intros) | (apply foldl_mem_snd <;> intros) | (apply foldl_mem_fst <;> intros) | split)) <;> grind [leaveGang_mem, modCtx_mem]

@[simp] theorem startSwapOut_mem (s : State) (c : Nat)  :
    (startSwapOut s c).mem = s.mem := by
  unfold startSwapOut
  simp

@[simp] theorem startSwapIn_mem (s : State) (c q : Nat)  :
    (startSwapIn s c q).mem = s.mem := by
  unfold startSwapIn
  rfl

@[simp] theorem evictBlocked_mem (s : State) (p : Nat)  :
    (evictBlocked s p).mem = s.mem := by
  unfold evictBlocked
  repeat' (first | with_reducible assumption | with_reducible rfl | with_reducible first | (apply foldl_eqm <;> intros) | (apply foldl_eqm_snd <;> intros) | (apply foldl_eqm_fst <;> intros) | simp only [modPad_mem, note_mem, startSwapIn_mem, startSwapOut_mem] | split | dsimp only)

@[simp] theorem placeOutsider_mem (s : State) (p c : Nat)  :
    (placeOutsider s p c).mem = s.mem := by
  unfold placeOutsider
  (repeat' split) <;> grind [startSwapIn_mem, startSwapOut_mem]

@[simp] theorem serveGangs_mem (s : State) (p : Nat) (hs : s.mem.wf = true) :
    (serveGangs s p).mem.wf = true := by
  unfold serveGangs
  (repeat' (first | with_reducible assumption | with_reducible first | (apply foldl_mem <;> intros) | (apply foldl_mem_snd <;> intros) | (apply foldl_mem_fst <;> intros) | split)) <;> simp_all (maxDischargeDepth := 6)

@[simp] theorem drainPad_mem (s : State) (p : Nat)  :
    (drainPad s p).mem = s.mem := by
  unfold drainPad
  repeat' (first | with_reducible assumption | with_reducible rfl | with_reducible first | (apply foldl_eqm <;> intros) | (apply foldl_eqm_snd <;> intros) | (apply foldl_eqm_fst <;> intros) | simp only [modPad_mem, note_mem, preempt_mem, startSwapOut_mem] | split | dsimp only)

theorem execSchedulerDecision_mem (p delta : Nat) (bills : List (Nat × Nat × Nat × Nat × Nat)) (s : State) (hs : s.mem.wf = true) :
    ∀ t, execSchedulerDecision p delta bills s = .next t → t.mem.wf = true :=
  next_wf (by
    repeat' (first | with_reducible assumption | with_reducible rfl | with_reducible first | (apply foldl_mem <;> intros) | (apply foldl_mem_snd <;> intros) | (apply foldl_mem_fst <;> intros) | simp only [billAll_mem, drainPad_mem, endSlice_mem, evictBlocked_mem, modPad_mem, placeOutsider_mem] | (with_reducible apply ite_wf) | (with_reducible apply serveGangs_mem) | (with_reducible apply settleStops_mem) | (with_reducible apply writeAccount_mem) | split | dsimp only))

theorem execFullSaveStop_mem (ctx waves : Nat) (s : State) (hs : s.mem.wf = true) :
    ∀ t, execFullSaveStop ctx waves s = .next t → t.mem.wf = true :=
  next_wf (by
    repeat' (first | with_reducible assumption | with_reducible rfl | with_reducible first | (apply foldl_mem <;> intros) | (apply foldl_mem_snd <;> intros) | (apply foldl_mem_fst <;> intros) | simp only [modCtx_mem, modEng_mem, modPad_mem] | (with_reducible apply ite_wf) | (with_reducible apply leaveGang_mem) | split | dsimp only))

theorem execFullSaveResume_mem (ge arr : Nat) (s : State) (hs : s.mem.wf = true) :
    ∀ t, execFullSaveResume ge arr s = .next t → t.mem.wf = true :=
  next_wf (by
    (repeat' split) <;> grind [modEng_mem])

theorem writeWeight_mem (s : State) (c v : Nat)  :
    ∀ t, writeWeight s c v = .ok t → t.mem = s.mem := by
  intro t ht
  unfold writeWeight at ht
  (repeat' (first | split at ht | dsimp only at ht | (cases ht; done))) <;> (try simp only [Except.ok.injEq, reduceCtorEq] at ht) <;>
    (try subst ht) <;> rfl

theorem execShareWeightWrite_mem (ctx v : Nat) (s : State) (hs : s.mem.wf = true) :
    ∀ t, execShareWeightWrite ctx v s = .next t → t.mem.wf = true :=
  next_wf (by
    (repeat' split) <;> grind [ownWrite_mem, writeWeight_mem])

theorem startPad_mem (s : State) (p : Nat)  :
    ∀ t, startPad s p = .ok t → t.mem = s.mem := by
  intro t ht
  unfold startPad at ht
  (repeat' (first | split at ht | dsimp only at ht | (cases ht; done))) <;> (try simp only [Except.ok.injEq, reduceCtorEq] at ht) <;>
    (try subst ht) <;> rfl

@[simp] theorem stopPad_mem (s : State) (p : Nat)  :
    (stopPad s p).mem = s.mem := by
  unfold stopPad
  (repeat' split) <;> simp

theorem execPaddockStart_mem (p : Nat) (s : State) (hs : s.mem.wf = true) :
    ∀ t, execPaddockStart p s = .next t → t.mem.wf = true :=
  next_wf (by
    (repeat' split) <;> grind [ownWrite_mem, startPad_mem])

theorem execPaddockStop_mem (p : Nat) (s : State)  :
    ∀ t, execPaddockStop p s = .next t → t.mem = s.mem :=
  next_eq (by
    simp)

theorem execPaddockDrainComplete_mem (p : Nat) (s : State)  :
    ∀ t, execPaddockDrainComplete p s = .next t → t.mem = s.mem :=
  next_eq (by
    (repeat' split) <;> simp)

theorem writeClusters_mem (s : State) (p : Nat) (hi : Bool) (v : Nat)  :
    ∀ t, writeClusters s p hi v = .ok t → t.mem = s.mem := by
  intro t ht
  unfold writeClusters at ht
  (repeat' (first | split at ht | dsimp only at ht | (cases ht; done))) <;> (try simp only [Except.ok.injEq, reduceCtorEq] at ht) <;>
    (try subst ht) <;> ((repeat' split) <;> grind [commitStore_mem, modPad_mem])

theorem execPaddockClustersWrite_mem (p : Nat) (hi : Bool) (v : Nat) (s : State) (hs : s.mem.wf = true) :
    ∀ t, execPaddockClustersWrite p hi v s = .next t → t.mem.wf = true :=
  next_wf (by
    (repeat' split) <;> grind [ownWrite_mem, writeClusters_mem])

theorem writeRingRange_mem (s : State) (p : Nat) (count : Bool) (v : Nat)  :
    ∀ t, writeRingRange s p count v = .ok t → t.mem = s.mem := by
  intro t ht
  unfold writeRingRange at ht
  (repeat' (first | split at ht | dsimp only at ht | (cases ht; done))) <;> (try simp only [Except.ok.injEq, reduceCtorEq] at ht) <;>
    (try subst ht) <;> ((repeat' split) <;> grind [commitStore_mem, modPad_mem])

theorem execRingRangeWrite_mem (p : Nat) (count : Bool) (v : Nat) (s : State) (hs : s.mem.wf = true) :
    ∀ t, execRingRangeWrite p count v s = .next t → t.mem.wf = true :=
  next_wf (by
    (repeat' split) <;> grind [ownWrite_mem, writeRingRange_mem])

theorem execPaddockRangeWrite_mem (p entry word : Nat) (v : W64) (s : State)  :
    ∀ t, execPaddockRangeWrite p entry word v s = .next t → t.mem = s.mem :=
  next_eq (by
    (repeat' split) <;> grind [modPad_mem])

end Sys2Proof.Machine
end

