-- ==== Sys2Proof/Laws/MemNvme.lean ====
section
/-! SUPPORT. Every operation and command of Machine/Nvme.lean keeps the canonical form of memory; where it writes
no memory, memory is as before. -/

set_option maxRecDepth 4000

namespace Sys2Proof.Machine

@[simp] theorem dmaWrite_mem (s : State) (ctx va : Nat) (d : List PByte) (hs : s.mem.wf = true) :
    (dmaWrite s ctx va d).2.mem.wf = true := by
  unfold dmaWrite
  (repeat' (first | with_reducible assumption | with_reducible first | (apply foldl_mem <;> intros) | (apply foldl_mem_snd <;> intros) | (apply foldl_mem_fst <;> intros) | split)) <;> grind [homeWrite_mem, vPieces_mem]

@[simp] theorem nvFinish_mem (s : State) (r : NvReq) (status : Nat) (err : Bool) (hs : s.mem.wf = true) :
    (nvFinish s r status err).mem.wf = true := by
  unfold nvFinish
  simp_all

@[simp] theorem nvEmit_mem (s : State) (c : NvCmd)  :
    (nvEmit s c).mem = s.mem := by
  unfold nvEmit
  rfl

@[simp] theorem nvTake_mem (unit : Nat) (s : State) (addr : Nat) (hs : s.mem.wf = true) :
    (nvTake unit s addr).mem.wf = true := by
  unfold nvTake
  (repeat' split) <;> grind [nvFinish_mem]

theorem execNvmeRingPoll_mem (unit ring : Nat) (s : State) (hs : s.mem.wf = true) :
    ∀ t, execNvmeRingPoll unit ring s = .next t → t.mem.wf = true := by
  intro t ht
  unfold execNvmeRingPoll at ht
  simp only [ok, Host.Outcome.next.injEq] at ht
  subst ht
  (repeat' (first | with_reducible assumption | (with_reducible (apply foldl_mem) <;> intros) | (with_reducible (apply foldl_mem_snd) <;> intros) | (with_reducible (apply foldl_mem_fst) <;> intros) | (with_reducible (apply issue_mem) <;> intros) | (with_reducible (apply issueRly_mem) <;> intros) | (with_reducible (apply frameGate_mem) <;> intros) | split | dsimp only)) <;> first | with_reducible assumption | (simp_all (maxDischargeDepth := 6); done) | ((repeat' (first | with_reducible assumption | with_reducible rfl | (with_reducible (apply foldl_mem) <;> intros) | (with_reducible (apply foldl_mem_snd) <;> intros) | (with_reducible (apply foldl_mem_fst) <;> intros) | (with_reducible (apply issue_mem) <;> intros) | (with_reducible (apply issueRly_mem) <;> intros) | (with_reducible (apply frameGate_mem) <;> intros) | (with_reducible apply ite_wf) | (with_reducible apply nvTake_mem) | (with_reducible apply physWrite_mem) | split | dsimp only)) <;> done) | (grind [nvTake_mem, physWrite_mem, memWrite_wf, memPut_wf, poisonGran_wf, zeroSpan_wf])

@[simp] theorem nvSend_mem (s : State) (r : NvReq) (d : List PByte) (hs : s.mem.wf = true) :
    (nvSend s r d).mem.wf = true := by
  unfold nvSend
  (repeat' split) <;> simp_all

@[simp] theorem nvPlain_mem (s : State) (unit op : Nat) (hs : s.mem.wf = true) :
    (nvPlain s unit op).mem.wf = true := by
  unfold nvPlain
  (repeat' split) <;> simp_all

@[simp] theorem nvWriteReq_mem (s : State) (unit op : Nat) (hs : s.mem.wf = true) :
    (nvWriteReq s unit op).mem.wf = true := by
  unfold nvWriteReq
  (repeat' split) <;> grind [nvFinish_mem, nvSend_mem, uRead_mem]

theorem execNvmeRead_mem (unit : Nat) (s : State) (hs : s.mem.wf = true) :
    ∀ t, execNvmeRead unit s = .next t → t.mem.wf = true :=
  next_wf (by
    (repeat' split) <;> grind [nvFinish_mem, nvSend_mem, vPieces_mem])

theorem execNvmeWrite_mem (unit : Nat) (s : State) (hs : s.mem.wf = true) :
    ∀ t, execNvmeWrite unit s = .next t → t.mem.wf = true :=
  next_wf (by
    simp_all)

theorem execNvmeWriteFua_mem (unit : Nat) (s : State) (hs : s.mem.wf = true) :
    ∀ t, execNvmeWriteFua unit s = .next t → t.mem.wf = true :=
  next_wf (by
    simp_all)

theorem execNvmeFlush_mem (unit : Nat) (s : State) (hs : s.mem.wf = true) :
    ∀ t, execNvmeFlush unit s = .next t → t.mem.wf = true :=
  next_wf (by
    simp_all)

theorem execNvmeDeallocate_mem (unit : Nat) (s : State) (hs : s.mem.wf = true) :
    ∀ t, execNvmeDeallocate unit s = .next t → t.mem.wf = true :=
  next_wf (by
    simp_all)

theorem execNvmeWriteZeroes_mem (unit : Nat) (s : State) (hs : s.mem.wf = true) :
    ∀ t, execNvmeWriteZeroes unit s = .next t → t.mem.wf = true :=
  next_wf (by
    simp_all)

@[simp] theorem nvResend_mem (s : State) (r : NvReq) (hs : s.mem.wf = true) :
    (nvResend s r).mem.wf = true := by
  unfold nvResend
  (repeat' split) <;> grind [nvFinish_mem, nvSend_mem, uRead_mem]

theorem execNvmeCompletion_mem (unit id status : Nat) (data : List Byte) (s : State) (hs : s.mem.wf = true) :
    ∀ t, execNvmeCompletion unit id status data s = .next t → t.mem.wf = true :=
  next_wf (by
    (repeat' split) <;> simp_all)

end Sys2Proof.Machine
end

