-- ==== Sys2Proof/Laws/MemCheckpoint.lean ====
section
/-! SUPPORT. Every operation and command of Machine/Checkpoint.lean keeps the canonical form of memory; where it writes
no memory, memory is as before. -/

set_option maxRecDepth 4000

namespace Sys2Proof.Machine

theorem execCheckpointPoint_mem (step : Nat) (s : State) (hs : s.mem.wf = true) :
    ∀ t, execCheckpointPoint step s = .next t → t.mem.wf = true := by
  intro t ht
  unfold execCheckpointPoint at ht
  simp only [ok, Host.Outcome.next.injEq] at ht
  subst ht
  refine ite_wf hs (ite_wf ?_ ?_)
  · rw [note_mem]; exact hs
  · rw [Mem.wf_iff] at *
    exact ⟨hs.1, hs.2.1, hs.2.2.1, hs.2.2.2.2, hs.2.2.2.1⟩

@[simp] theorem drainFlash_mem (s : State) (lba n : Nat)  :
    (drainFlash s lba n).mem = s.mem := by
  unfold drainFlash
  (repeat' (first | with_reducible assumption | with_reducible first | (apply foldl_eqm <;> intros) | (apply foldl_eqm_snd <;> intros) | (apply foldl_eqm_fst <;> intros) | split)) <;> simp_all

@[simp] theorem drainPeer_mem (s : State) (step n : Nat)  :
    (drainPeer s step n).mem = s.mem := by
  unfold drainPeer
  simp

@[simp] theorem startDrain_mem (s : State) (step base n : Nat) (full : Bool)  :
    (startDrain s step base n full).mem = s.mem := by
  unfold startDrain
  (repeat' split) <;> grind [drainFlash_mem, drainPeer_mem, note_mem]

@[simp] theorem ckptStage_mem (s : State) (step base n at_ body : Nat) (full : Bool) (imgs : List (Nat × List PByte)) (j : List Byte × Nat) (hs : s.mem.wf = true) :
    (ckptStage s step base n at_ body full imgs j).mem.wf = true := by
  unfold ckptStage
  (repeat' split) <;> simp_all (maxDischargeDepth := 6)

@[simp] theorem ckptCopied_mem (s : State) (step : Nat) (full : Bool) (hs : s.mem.wf = true) :
    (ckptCopied s step full).mem.wf = true := by
  unfold ckptCopied
  simp_all

@[simp] theorem ckptTaken_mem (s : State) (step base : Nat) (rs : List Nat) (hs : s.mem.wf = true) :
    (ckptTaken s step base rs).mem.wf = true := by
  unfold ckptTaken
  rw [Mem.wf_iff] at *
  exact ⟨hs.1, hs.2.1, hs.2.2.1, hs.2.2.2.1, swf_foldl_sset _ _ _ _ _ hs.2.2.2.2⟩

theorem execCheckpointCopyComplete_mem (s : State) (hs : s.mem.wf = true) :
    ∀ t, execCheckpointCopyComplete s = .next t → t.mem.wf = true := by
  intro t ht
  unfold execCheckpointCopyComplete at ht
  simp only [ok, Host.Outcome.next.injEq] at ht
  subst ht
  (repeat' (first | with_reducible assumption | (with_reducible (apply foldl_mem) <;> intros) | (with_reducible (apply foldl_mem_snd) <;> intros) | (with_reducible (apply foldl_mem_fst) <;> intros) | (with_reducible (apply issue_mem) <;> intros) | (with_reducible (apply issueRly_mem) <;> intros) | (with_reducible (apply frameGate_mem) <;> intros) | split | dsimp only)) <;> first | with_reducible assumption | (simp_all (maxDischargeDepth := 6); done) | ((repeat' (first | with_reducible assumption | with_reducible rfl | (with_reducible (apply foldl_mem) <;> intros) | (with_reducible (apply foldl_mem_snd) <;> intros) | (with_reducible (apply foldl_mem_fst) <;> intros) | (with_reducible (apply issue_mem) <;> intros) | (with_reducible (apply issueRly_mem) <;> intros) | (with_reducible (apply frameGate_mem) <;> intros) | simp only [startDrain_mem] | (with_reducible apply ite_wf) | (with_reducible apply ckptCopied_mem) | (with_reducible apply ckptTaken_mem) | (with_reducible apply releaseLists_mem) | split | dsimp only)) <;> done) | (grind [ckptCopied_mem, ckptTaken_mem, releaseLists_mem, startDrain_mem, memWrite_wf, memPut_wf, poisonGran_wf, zeroSpan_wf])

theorem execCheckpointDrainComplete_mem (stored : Bool) (s : State)  :
    ∀ t, execCheckpointDrainComplete stored s = .next t → t.mem = s.mem := by
  intro t ht
  unfold execCheckpointDrainComplete at ht
  simp only [ok, Host.Outcome.next.injEq] at ht
  subst ht
  (repeat' (first | with_reducible assumption | (with_reducible (apply foldl_eqm) <;> intros) | (with_reducible (apply foldl_eqm_snd) <;> intros) | (with_reducible (apply foldl_eqm_fst) <;> intros) | split | dsimp only)) <;> first | with_reducible rfl | (simp_all; done) | ((repeat' (first | with_reducible assumption | with_reducible rfl | (with_reducible (apply foldl_eqm) <;> intros) | (with_reducible (apply foldl_eqm_snd) <;> intros) | (with_reducible (apply foldl_eqm_fst) <;> intros) | simp only [note_mem] | split | dsimp only)) <;> done) | (grind [note_mem, memWrite_wf, memPut_wf, poisonGran_wf, zeroSpan_wf])

@[simp] theorem putImage_mem (s : State) (x : CkptImage) (hs : s.mem.wf = true) :
    (putImage s x).mem.wf = true := by
  unfold putImage
  simp_all

theorem execCheckpointRestore_mem (images : List CkptImage) (s : State) (hs : s.mem.wf = true) :
    ∀ t, execCheckpointRestore images s = .next t → t.mem.wf = true := by
  intro t ht
  unfold execCheckpointRestore at ht
  simp only [ok, Host.Outcome.next.injEq] at ht
  subst ht
  (repeat' (first | with_reducible assumption | (with_reducible (apply foldl_mem) <;> intros) | (with_reducible (apply foldl_mem_snd) <;> intros) | (with_reducible (apply foldl_mem_fst) <;> intros) | (with_reducible (apply issue_mem) <;> intros) | (with_reducible (apply issueRly_mem) <;> intros) | (with_reducible (apply frameGate_mem) <;> intros) | split | dsimp only)) <;> first | with_reducible assumption | (simp_all (maxDischargeDepth := 6); done) | ((repeat' (first | with_reducible assumption | with_reducible rfl | (with_reducible (apply foldl_mem) <;> intros) | (with_reducible (apply foldl_mem_snd) <;> intros) | (with_reducible (apply foldl_mem_fst) <;> intros) | (with_reducible (apply issue_mem) <;> intros) | (with_reducible (apply issueRly_mem) <;> intros) | (with_reducible (apply frameGate_mem) <;> intros) | (with_reducible apply ite_wf) | (with_reducible apply putImage_mem) | split | dsimp only)) <;> done) | (grind [putImage_mem, memWrite_wf, memPut_wf, poisonGran_wf, zeroSpan_wf])

end Sys2Proof.Machine
end

