-- ==== Sys2Proof/Laws/MemFence.lean ====
section
/-! SUPPORT. Every operation and command of Machine/Fence.lean keeps the canonical form of memory; where it writes
no memory, memory is as before. -/

set_option maxRecDepth 4000

namespace Sys2Proof.Machine

@[simp] theorem addFence_mem (s : State) (f : Fence)  :
    (addFence s f).mem = s.mem := by
  unfold addFence
  rfl

theorem execSynFenceData_mem (ge : Nat) (s : State) (hs : s.mem.wf = true) :
    ∀ t, execSynFenceData ge s = .next t → t.mem.wf = true :=
  next_wf (by
    simp_all)

theorem execSynFenceFlag_mem (ge ra rb : Nat) (s : State) (hs : s.mem.wf = true) :
    ∀ t, execSynFenceFlag ge ra rb s = .next t → t.mem.wf = true :=
  next_wf (by
    (repeat' split) <;> grind [addFence_mem, issue_mem, raiseSeq_mem, setEng_mem, vPieces_mem])

theorem execSynWait_mem (ge cond ra rb rd : Nat) (imm : W32) (s : State) (hs : s.mem.wf = true) :
    ∀ t, execSynWait ge cond ra rb rd imm s = .next t → t.mem.wf = true :=
  next_wf (by
    (repeat' split) <;> simp_all)

theorem execSynWaitSatisfied_mem (ge waves : Nat) (s : State) (hs : s.mem.wf = true) :
    ∀ t, execSynWaitSatisfied ge waves s = .next t → t.mem.wf = true :=
  next_wf (by
    (repeat' split) <;> grind [modEng_mem, raiseSeq_mem, vRead_mem])

theorem execSynWaitTimeout_mem (ge waves : Nat) (s : State)  :
    ∀ t, execSynWaitTimeout ge waves s = .next t → t.mem = s.mem :=
  next_eq (by
    (repeat' split) <;> simp)

theorem execFenceFlagMarker_mem (home ctx : Nat) (s : State)  :
    ∀ t, execFenceFlagMarker home ctx s = .next t → t.mem = s.mem :=
  next_eq (by
    (repeat' split) <;> simp)

theorem execFenceFlagWrite_mem (ctx : Nat) (s : State) (hs : s.mem.wf = true) :
    ∀ t, execFenceFlagWrite ctx s = .next t → t.mem.wf = true :=
  next_wf (by
    (repeat' split) <;> simp_all)

theorem execStaleLogOverflow_mem (home : Nat) (s : State)  :
    ∀ t, execStaleLogOverflow home s = .next t → t.mem = s.mem :=
  next_eq (by
    simp)

end Sys2Proof.Machine
end

