-- ==== Sys2Proof/Laws/MemAgents.lean ====
section
/-! SUPPORT. Every operation and command of Machine/Agents.lean keeps the canonical form of memory; where it writes
no memory, memory is as before. -/

set_option maxRecDepth 4000

namespace Sys2Proof.Machine

theorem execRegionAttrGo_mem (w1 : W64) (s : State)  :
    ∀ t, execRegionAttrGo w1 s = .next t → t.mem = s.mem :=
  next_eq (by
    (repeat' split) <;> simp)

@[simp] theorem attrApply_mem (s : State) (kind : Nat) (zero : Bool) (r : Nat) (hs : s.mem.wf = true) :
    (attrApply s kind zero r).mem.wf = true := by
  have put (m : Mem) (k v : Nat) (hm : m.wf = true) : ({ m with attr := sset 0 m.attr k v } : Mem).wf = true := by
    rw [Mem.wf_iff] at *
    exact ⟨hm.1, hm.2.1, swf_sset _ _ _ _ hm.2.2.1, hm.2.2.2⟩
  unfold attrApply
  apply put
  have h3 (t : State) (l : List Nat) (ht : t.mem.wf = true) : (l.foldl recallLine t).mem.wf = true :=
    foldl_mem _ _ _ (fun u x hu => recallLine_mem _ _ hu) ht
  split
  · exact zeroSpan_wf _ _ (h3 _ _ (show (drainStale _ _).mem.wf = true by rw [drainStale_mem]; exact hs))
  · exact h3 _ _ (show (drainStale _ _).mem.wf = true by rw [drainStale_mem]; exact hs)

@[simp] theorem attrRun_mem (w : Nat) (a1 : List Nat) (a2 : State) (ha2 : a2.mem.wf = true) :
    (attrRun w a1 a2).mem.wf = true := by
  fun_induction attrRun w a1 a2 <;> grind [attrApply_mem, memWrite_wf, memPut_wf, poisonGran_wf, zeroSpan_wf]

theorem execOffloadStreamEnable_mem (home stream : Nat) (w1 : W64) (s : State)  :
    ∀ t, execOffloadStreamEnable home stream w1 s = .next t → t.mem = s.mem :=
  next_eq (by
    rfl)

theorem execOffloadShortInterval_mem (home stream carried : Nat) (demand : Bool) (s : State)  :
    ∀ t, execOffloadShortInterval home stream carried demand s = .next t → t.mem = s.mem :=
  next_eq (by
    rfl)

@[simp] theorem invalTlb_mem (s : State) (p : TlbEnt → Bool)  :
    (invalTlb s p).mem = s.mem := by
  unfold invalTlb
  rfl

@[simp] theorem cmdTaken_mem (s : State) (inst : Nat)  :
    (cmdTaken s inst).mem = s.mem := by
  unfold cmdTaken
  (repeat' split) <;> grind [setTransReg_mem]

theorem execIotinvalVma_mem (inst dev : Nat) (all : Bool) (va : Nat) (s : State)  :
    ∀ t, execIotinvalVma inst dev all va s = .next t → t.mem = s.mem :=
  next_eq (by
    simp)

theorem execIotinvalGvma_mem (inst dev : Nat) (all : Bool) (va : Nat) (s : State)  :
    ∀ t, execIotinvalGvma inst dev all va s = .next t → t.mem = s.mem :=
  next_eq (by
    simp)

theorem execIodirInvalDdt_mem (inst dev : Nat) (all : Bool) (s : State)  :
    ∀ t, execIodirInvalDdt inst dev all s = .next t → t.mem = s.mem :=
  next_eq (by
    simp)

theorem execIodirInvalPdt_mem (inst dev pid : Nat) (s : State)  :
    ∀ t, execIodirInvalPdt inst dev pid s = .next t → t.mem = s.mem :=
  next_eq (by
    (repeat' split) <;> simp)

theorem execIofenceC_mem (inst : Nat) (flag : Option (Nat × W32)) (s : State)  :
    ∀ t, execIofenceC inst flag s = .next t → t.mem = s.mem :=
  next_eq (by
    simp)

theorem execIofenceCComplete_mem (inst : Nat) (s : State) (hs : s.mem.wf = true) :
    ∀ t, execIofenceCComplete inst s = .next t → t.mem.wf = true :=
  next_wf (by
    (repeat' split) <;> grind [homeWrite_mem])

end Sys2Proof.Machine
end

