-- ==== Sys2Proof/Laws/MemHarness.lean ====
section
/-! SUPPORT. Every operation and command of Machine/Harness.lean keeps the canonical form of memory; where it writes
no memory, memory is as before. -/

set_option maxRecDepth 4000

namespace Sys2Proof.Machine

@[simp] theorem modHarn_mem (s : State) (f : Harness → Harness)  :
    (modHarn s f).mem = s.mem := by
  unfold modHarn
  rfl

@[simp] theorem sendMsg_mem (s : State) (m : HMsg)  :
    (sendMsg s m).mem = s.mem := by
  unfold sendMsg
  rfl

@[simp] theorem reply_mem (s : State) (r : HReply)  :
    (reply s r).mem = s.mem := by
  unfold reply
  rfl

@[simp] theorem loaded_mem (s : State) (agent pa : Nat) (d : List PByte)  :
    (loaded s agent pa d).mem = s.mem := by
  unfold loaded
  (repeat' split) <;> simp

@[simp] theorem fitL2_mem (s : State) (core line : Nat)  :
    (fitL2 s core line).mem = s.mem := by
  unfold fitL2
  (repeat' split) <;> grind [modHarn_mem]

@[simp] theorem l2Load_mem (s : State) (core line : Nat)  :
    (l2Load s core line).mem = s.mem := by
  unfold l2Load
  (repeat' split) <;> simp

@[simp] theorem l2Own_mem (s : State) (core line : Nat)  :
    (l2Own s core line).mem = s.mem := by
  unfold l2Own
  simp

@[simp] theorem useLine_mem (s : State) (agent line core pa : Nat) (act : CoreAct)  :
    (useLine s agent line core pa act).mem = s.mem := by
  unfold useLine
  (repeat' split) <;> grind [dropResv_mem, l2Own_mem, loaded_mem, modHarn_mem, reply_mem, setCached_mem]

@[simp] theorem loadLine_mem (s : State) (agent line core pa : Nat)  :
    (loadLine s agent line core pa).mem = s.mem := by
  unfold loadLine
  (repeat' split) <;> simp

@[simp] theorem useData_mem (s : State) (agent line : Nat) (req : Req) (d : ReqData) :
    (useData s agent line req d).mem = s.mem := by
  unfold useData
  repeat' split
  all_goals simp

@[simp] theorem sendForward_mem (s : State) (t : Txn) (o : Nat) (inval sd : Bool)  :
    (sendForward s t o inval sd).mem = s.mem := by
  unfold sendForward
  rfl

@[simp] theorem sendInvals_mem (s : State) (t : Txn) (l : List Nat)  :
    (sendInvals s t l).mem = s.mem := by
  unfold sendInvals
  (repeat' (first | with_reducible assumption | with_reducible first | (apply foldl_eqm <;> intros) | (apply foldl_eqm_snd <;> intros) | (apply foldl_eqm_fst <;> intros) | split)) <;> simp_all

@[simp] theorem setTxn_mem (s : State) (t : Txn)  :
    (setTxn s t).mem = s.mem := by
  unfold setTxn
  rfl

@[simp] theorem pin_mem (s : State) (line : Nat) (b : Bool)  :
    (pin s line b).mem = s.mem := by
  unfold pin
  (repeat' split) <;> simp

@[simp] theorem progress_mem (s : State) (id : Nat) (hs : s.mem.wf = true) :
    (progress s id).mem.wf = true := by
  unfold progress
  (repeat' (first | with_reducible assumption | with_reducible rfl | with_reducible first | (apply foldl_mem <;> intros) | (apply foldl_mem_snd <;> intros) | (apply foldl_mem_fst <;> intros) | simp only [drainOldest_mem, dropResv_mem, modHarn_mem, sendInvals_mem, sendMsg_mem, setTxn_mem] | (with_reducible apply ite_wf) | split | dsimp only)) <;> simp_all (maxDischargeDepth := 6)

@[simp] theorem openTxn_mem (s : State) (agent line : Nat) (req : Req) (data : ReqData) (hs : s.mem.wf = true) :
    (openTxn s agent line req data).mem.wf = true := by
  unfold openTxn
  extract_lets has mine id s0 req2 t add caching owner others h go fresh forward s1 x s2
  clear_value mine caching others req2
  clear_value owner
  have h0 : s0.mem.wf = true := hs
  have ha (u : State) (y : Txn) (hu : u.mem.wf = true) : (add u y).mem.wf = true := hu
  have hg (u : State) (hu : u.mem.wf = true) : (go u).mem.wf = true := progress_mem _ _ hu
  have hf (u : State) (hu : u.mem.wf = true) : (fresh u).mem.wf = true := by
    show (setDir _ _ _).mem.wf = true
    rw [setDir_mem]
    exact makeRoom_mem _ _ hu
  have hp (b : Bool) : (pin s0 line b).mem.wf = true := by rw [pin_mem]; exact h0
  have hw (b c : Bool) (y : Txn) : (forward b c y).mem.wf = true := by
    simp only [forward]
    split
    · rw [sendForward_mem]; exact ha _ _ (hp _)
    · exact hg _ (ha _ _ (hp _))
  apply ite_wf
  · rw [useData_mem]; exact hs
  · apply ite_wf
    · rw [useData_mem]; exact hs
    · split
      · split
        · exact hg _ (ha _ _ (hf _ h0))
        · exact hw _ _ _
      · exact hw _ _ _
      · exact hw _ _ _
      · clear_value forward fresh go add
        have h1 : s1.mem.wf = true := ite_wf (hf _ h0) (hp _)
        have h2 : s2.mem.wf = true := by
          show (sendInvals _ _ _).mem.wf = true
          rw [sendInvals_mem]
          exact ha _ _ h1
        split
        · rw [sendForward_mem]; exact h2
        · exact hg _ h2

@[simp] theorem meetBusy_mem (s : State) (agent line : Nat) (req : Req) (data : ReqData)  :
    (meetBusy s agent line req data).mem = s.mem := by
  unfold meetBusy
  (repeat' split) <;> grind [modHarn_mem]

@[simp] theorem request_mem (s : State) (agent line : Nat) (req : Req) (data : ReqData) (hs : s.mem.wf = true) :
    (request s agent line req data).mem.wf = true := by
  unfold request
  (repeat' split) <;> grind [meetBusy_mem, modHarn_mem, openTxn_mem]

@[simp] theorem sendReq_mem (s : State) (agent line : Nat) (req : Req) (data : ReqData) (ordered : Bool) (hs : s.mem.wf = true) :
    (sendReq s agent line req data ordered).mem.wf = true := by
  unfold sendReq
  (repeat' split) <;> grind [modHarn_mem, request_mem]

@[simp] theorem takeHeld_mem (s : State) (hs : s.mem.wf = true) :
    (takeHeld s).mem.wf = true := by
  unfold takeHeld
  (repeat' (first | with_reducible assumption | with_reducible first | (apply foldl_mem <;> intros) | (apply foldl_mem_snd <;> intros) | (apply foldl_mem_fst <;> intros) | split)) <;> simp_all (maxDischargeDepth := 6)

@[simp] theorem sendQueued_mem (s : State) (hs : s.mem.wf = true) :
    (sendQueued s).mem.wf = true := by
  unfold sendQueued
  (repeat' (first | with_reducible assumption | with_reducible first | (apply foldl_mem <;> intros) | (apply foldl_mem_snd <;> intros) | (apply foldl_mem_fst <;> intros) | split)) <;> grind [modHarn_mem, request_mem]

@[simp] theorem settleHarn_mem (s : State) (hs : s.mem.wf = true) :
    (settleHarn s).mem.wf = true := by
  unfold settleHarn
  simp_all

@[simp] theorem agentAccess_mem (s : State) (agent pa : Nat) (io : Option IoReq) (k : AccKind) (go : State → Nat → State) (hs : s.mem.wf = true) (hgo : ∀ (x0 : State) (x1 : Nat), x0.mem.wf = true → (go x0 x1).mem.wf = true) :
    (agentAccess s agent pa io k go).mem.wf = true := by
  unfold agentAccess
  (repeat' split) <;> grind [reply_mem, xlate_mem]

@[simp] theorem readError_mem (s : State) (a : Nat) (hs : s.mem.wf = true) :
    (readError s a).mem.wf = true := by
  unfold readError
  simp_all

@[simp] theorem readMeets_mem (s : State) (err : Bool) (a : Nat) (hs : s.mem.wf = true) :
    (readMeets s err a).mem.wf = true := by
  unfold readMeets
  (repeat' split) <;> simp_all

theorem execRs_mem (agent pa core : Nat) (err : Bool) (s : State) (hs : s.mem.wf = true) :
    ∀ t, execRs agent pa core err s = .next t → t.mem.wf = true :=
  next_wf (by
    (repeat' split) <;> grind [agentAccess_mem, loadLine_mem, readMeets_mem, sendReq_mem])

@[simp] theorem uncachedAct_mem (s : State) (agent pa a : Nat) (act : CoreAct) (hs : s.mem.wf = true) :
    (uncachedAct s agent pa a act).mem.wf = true := by
  unfold uncachedAct
  (repeat' split) <;> simp_all

theorem execRu_mem (agent pa : Nat) (u : OwnUse) (s : State) (hs : s.mem.wf = true) :
    ∀ t, execRu agent pa u s = .next t → t.mem.wf = true :=
  next_wf (by
    (repeat' split) <;> grind [agentAccess_mem, readMeets_mem, sendReq_mem, setCached_mem, settleHarn_mem, uncachedAct_mem, useLine_mem])

theorem execUpg_mem (agent pa : Nat) (u : CoreUse) (s : State) (hs : s.mem.wf = true) :
    ∀ t, execUpg agent pa u s = .next t → t.mem.wf = true :=
  next_wf (by
    (repeat' split) <;> grind [agentAccess_mem, sendReq_mem, uncachedAct_mem])

theorem execRnc_mem (agent pa n : Nat) (r : ReadCase) (s : State) (hs : s.mem.wf = true) :
    ∀ t, execRnc agent pa n r s = .next t → t.mem.wf = true :=
  next_wf (by
    (repeat' split) <;> grind [agentAccess_mem, readMeets_mem, sendReq_mem])

theorem execWnc_mem (agent pa : Nat) (data : List (Byte × Bool)) (w : WriteCase) (s : State) (hs : s.mem.wf = true) :
    ∀ t, execWnc agent pa data w s = .next t → t.mem.wf = true :=
  next_wf (by
    (repeat' split) <;> grind [agentAccess_mem, reply_mem, sendReq_mem])

theorem execAnc_mem (agent pa width op : Nat) (x : AmoCase) (s : State) (hs : s.mem.wf = true) :
    ∀ t, execAnc agent pa width op x s = .next t → t.mem.wf = true :=
  next_wf (by
    (repeat' split) <;> grind [agentAccess_mem, readMeets_mem, reply_mem, sendReq_mem])

@[simp] theorem evict_mem (s : State) (agent pa : Nat) (want : List Moesi)  :
    (evict s agent pa want).mem = s.mem := by
  unfold evict
  (repeat' split) <;> simp

theorem execPutm_mem (agent pa : Nat) (s : State)  :
    ∀ t, execPutm agent pa s = .next t → t.mem = s.mem :=
  next_eq (by
    simp)

theorem execPuto_mem (agent pa : Nat) (s : State)  :
    ∀ t, execPuto agent pa s = .next t → t.mem = s.mem :=
  next_eq (by
    simp)

theorem execPute_mem (agent pa : Nat) (s : State)  :
    ∀ t, execPute agent pa s = .next t → t.mem = s.mem :=
  next_eq (by
    simp)

@[simp] theorem handlePut_mem (s : State) (agent line : Nat) (st : Moesi) (hs : s.mem.wf = true) :
    (handlePut s agent line st).mem.wf = true := by
  unfold handlePut
  (repeat' split) <;> simp_all

theorem execPutAck_mem (agent pa : Nat) (s : State) (hs : s.mem.wf = true) :
    ∀ t, execPutAck agent pa s = .next t → t.mem.wf = true :=
  next_wf (by
    (repeat' split) <;> simp_all)

@[simp] theorem serveForward_mem (s : State) (id line agent : Nat) (inval sd : Bool) (hs : s.mem.wf = true) :
    (serveForward s id line agent inval sd).mem.wf = true := by
  unfold serveForward
  (repeat' (first | with_reducible assumption | with_reducible rfl | with_reducible first | (apply foldl_mem <;> intros) | (apply foldl_mem_snd <;> intros) | (apply foldl_mem_fst <;> intros) | simp only [dropCopy_mem, setDir_mem, setTxn_mem, shareCopy_mem] | (with_reducible apply ite_wf) | (with_reducible apply progress_mem) | split | dsimp only)) <;> simp_all (maxDischargeDepth := 6)

@[simp] theorem serveInval_mem (s : State) (id line agent : Nat)  :
    (serveInval s id line agent).mem = s.mem := by
  unfold serveInval
  rfl

@[simp] theorem takeMsg_mem (s : State) (m : HMsg)  :
    (takeMsg s m).mem = s.mem := by
  unfold takeMsg
  rfl

@[simp] theorem deliver_mem (s : State) (t : Txn)  :
    (deliver s t).mem = s.mem := by
  unfold deliver
  (repeat' split) <;> simp

theorem execDataResponse_mem (agent pa : Nat) (s : State)  :
    ∀ t, execDataResponse agent pa s = .next t → t.mem = s.mem :=
  next_eq (by
    (repeat' split) <;> grind [deliver_mem, sendMsg_mem, takeMsg_mem])

@[simp] theorem closeDir_mem (s : State) (t : Txn)  :
    (closeDir s t).mem = s.mem := by
  unfold closeDir
  (repeat' split) <;> simp

@[simp] theorem closeTxn_mem (s : State) (t : Txn) (hs : s.mem.wf = true) :
    (closeTxn s t).mem.wf = true := by
  unfold closeTxn
  simp_all

@[simp] theorem loseLine_mem (s : State) (agent line : Nat) (hs : s.mem.wf = true) :
    (loseLine s agent line).mem.wf = true := by
  unfold loseLine
  (repeat' (first | with_reducible assumption | with_reducible rfl | with_reducible first | (apply foldl_mem <;> intros) | (apply foldl_mem_snd <;> intros) | (apply foldl_mem_fst <;> intros) | simp only [note_mem, setDir_mem] | (with_reducible apply ite_wf) | split | dsimp only)) <;> simp_all (maxDischargeDepth := 6)

@[simp] theorem finishLost_mem (s : State) (id : Nat) (hs : s.mem.wf = true) :
    (finishLost s id).mem.wf = true := by
  unfold finishLost
  (repeat' (first | with_reducible assumption | with_reducible rfl | with_reducible first | (apply foldl_mem <;> intros) | (apply foldl_mem_snd <;> intros) | (apply foldl_mem_fst <;> intros) | simp only [closeDir_mem, modHarn_mem, note_mem] | (with_reducible apply ite_wf) | (with_reducible apply loseLine_mem) | (with_reducible apply settleHarn_mem) | split | dsimp only)) <;> simp_all (maxDischargeDepth := 6)

theorem execForward_mem (agent pa : Nat) (s : State) (hs : s.mem.wf = true) :
    ∀ t, execForward agent pa s = .next t → t.mem.wf = true :=
  next_wf (by
    (repeat' split) <;> grind [finishLost_mem, modHarn_mem, serveForward_mem, takeMsg_mem])

theorem execInvalidation_mem (agent pa : Nat) (s : State)  :
    ∀ t, execInvalidation agent pa s = .next t → t.mem = s.mem :=
  next_eq (by
    (repeat' split) <;> grind [dropCopy_mem, modHarn_mem, serveInval_mem, takeMsg_mem])

theorem execInvalidationAck_mem (agent pa : Nat) (s : State) (hs : s.mem.wf = true) :
    ∀ t, execInvalidationAck agent pa s = .next t → t.mem.wf = true :=
  next_wf (by
    (repeat' split) <;> grind [finishLost_mem, modHarn_mem, progress_mem, setTxn_mem, settleHarn_mem, takeMsg_mem])

theorem execCompletionAck_mem (agent pa : Nat) (s : State) (hs : s.mem.wf = true) :
    ∀ t, execCompletionAck agent pa s = .next t → t.mem.wf = true :=
  next_wf (by
    (repeat' split) <;> grind [closeTxn_mem, takeMsg_mem])

theorem execRetry_mem (agent pa : Nat) (s : State)  :
    ∀ t, execRetry agent pa s = .next t → t.mem = s.mem :=
  next_eq (by
    (repeat' split) <;> simp)

@[simp] theorem grantNext_mem (s : State) (home : Nat)  :
    (grantNext s home).mem = s.mem := by
  unfold grantNext
  (repeat' split) <;> simp

theorem execGrant_mem (home : Nat) (s : State)  :
    ∀ t, execGrant home s = .next t → t.mem = s.mem :=
  next_eq (by
    simp)

theorem execRelease_mem (home num agent : Nat) (s : State) (hs : s.mem.wf = true) :
    ∀ t, execRelease home num agent s = .next t → t.mem.wf = true :=
  next_wf (by
    simp_all)

theorem execCreditLapse_mem (home num : Nat) (s : State) (hs : s.mem.wf = true) :
    ∀ t, execCreditLapse home num s = .next t → t.mem.wf = true :=
  next_wf (by
    (repeat' split) <;> simp_all)

theorem execLrDeferEnd_mem (core : Nat) (s : State) (hs : s.mem.wf = true) :
    ∀ t, execLrDeferEnd core s = .next t → t.mem.wf = true :=
  next_wf (by
    repeat' (first | with_reducible assumption | with_reducible rfl | with_reducible first | (apply foldl_mem <;> intros) | (apply foldl_mem_snd <;> intros) | (apply foldl_mem_fst <;> intros) | simp only [modHarn_mem, serveInval_mem] | (with_reducible apply ite_wf) | (with_reducible apply finishLost_mem) | (with_reducible apply serveForward_mem) | (with_reducible apply settleHarn_mem) | split | dsimp only))

@[simp] theorem loseAgent_mem (s : State) (agent : Nat) (hs : s.mem.wf = true) :
    (loseAgent s agent).mem.wf = true := by
  unfold loseAgent
  repeat' (first | with_reducible assumption | with_reducible rfl | with_reducible first | (apply foldl_mem <;> intros) | (apply foldl_mem_snd <;> intros) | (apply foldl_mem_fst <;> intros) | simp only [modHarn_mem, setTxn_mem] | (with_reducible apply ite_wf) | (with_reducible apply finishLost_mem) | (with_reducible apply loseLine_mem) | (with_reducible apply progress_mem) | (with_reducible apply settleHarn_mem) | split | dsimp only)

theorem execCacheAgentLost_mem (agent : Nat) (s : State) (hs : s.mem.wf = true) :
    ∀ t, execCacheAgentLost agent s = .next t → t.mem.wf = true :=
  next_wf (by
    simp_all)

@[simp] theorem dirCorrected_mem (s : State) (line : Nat)  :
    (dirCorrected s line).mem = s.mem := by
  unfold dirCorrected
  (repeat' split) <;> grind [setDir_mem]

@[simp] theorem dirUncorrectable_mem (s : State) (home set : Nat) (hs : s.mem.wf = true) :
    (dirUncorrectable s home set).mem.wf = true := by
  unfold dirUncorrectable
  extract_lets inSet again ts live keep s1 s2 cs s3
  have h1 : s1.mem.wf = true := foldl_mem _ _ _ (fun u t hu => ite_wf (memWrite_wf _ _ _ hu) hu) hs
  have h2 : s2.mem.wf = true := h1
  exact ite_wf h2 h2

theorem execSetRecall_mem (agent home set : Nat) (s : State) (hs : s.mem.wf = true) :
    ∀ t, execSetRecall agent home set s = .next t → t.mem.wf = true :=
  next_wf (by
    repeat' (first | with_reducible assumption | with_reducible rfl | with_reducible first | (apply foldl_mem <;> intros) | (apply foldl_mem_snd <;> intros) | (apply foldl_mem_fst <;> intros) | simp only [dropCopy_mem, modHarn_mem] | (with_reducible apply ite_wf) | (with_reducible apply settleHarn_mem) | (with_reducible apply writeBack_mem) | split | dsimp only))

theorem execRegionAttrDone_mem (s : State) (hs : s.mem.wf = true) :
    ∀ t, execRegionAttrDone s = .next t → t.mem.wf = true :=
  next_wf (by
    (repeat' split) <;> grind [attrRun_mem, settleHarn_mem])

end Sys2Proof.Machine
end

