-- ==== Sys2Proof/Laws/MemRings.lean ====
section
/-! SUPPORT. Every operation and command of Machine/Rings.lean keeps the canonical form of memory; where it writes
no memory, memory is as before. -/

set_option maxRecDepth 4000

namespace Sys2Proof.Machine

@[simp] theorem modRing_mem (s : State) (r : Nat) (f : Ring → Ring)  :
    (modRing s r f).mem = s.mem := by
  unfold modRing
  rfl

@[simp] theorem modCtl_mem (s : State) (d : Nat) (f : RingCtl → RingCtl)  :
    (modCtl s d f).mem = s.mem := by
  unfold modCtl
  rfl

@[simp] theorem deliverIrq_mem (s : State) (t : Nat)  :
    (deliverIrq s t).mem = s.mem := by
  unfold deliverIrq
  (repeat' split) <;> simp

@[simp] theorem cpRead_mem (s : State) (x : Ring) (a n : Nat) (hs : s.mem.wf = true) :
    (cpRead s x a n).2.mem.wf = true := by
  unfold cpRead
  (repeat' split) <;> simp_all

@[simp] theorem cpPieces_mem (s : State) (x : Ring) (a n : Nat) (hs : s.mem.wf = true) :
    (cpPieces s x a n).2.mem.wf = true := by
  unfold cpPieces
  (repeat' split) <;> grind [vPieces_mem]

@[simp] theorem cpWrite_mem (s : State) (x : Ring) (l : List Piece) (d : List PByte) (hs : s.mem.wf = true) :
    (cpWrite s x l d).mem.wf = true := by
  unfold cpWrite
  (repeat' (first | with_reducible assumption | with_reducible first | (apply foldl_mem <;> intros) | (apply foldl_mem_snd <;> intros) | (apply foldl_mem_fst <;> intros) | split)) <;> simp_all (maxDischargeDepth := 6)

@[simp] theorem complete_mem (s : State) (r status detail ctxNo result : Nat) (hs : s.mem.wf = true) :
    (complete s r status detail ctxNo result).mem.wf = true := by
  unfold complete
  (repeat' split) <;> grind [cpPieces_mem, cpWrite_mem, deliverIrq_mem, modCtl_mem, modRing_mem, settleWrites_mem]

@[simp] theorem takeCmd_mem (s : State) (r : Nat) (c : RingCmd) (hs : s.mem.wf = true) :
    (takeCmd s r c).mem.wf = true := by
  unfold takeCmd
  (repeat' split) <;> grind [modRing_mem, physWrite_mem]

@[simp] theorem runCmd_mem (s : State) (r op : Nat) (work : State → Ring → RingCmd → State) (hs : s.mem.wf = true) (hwork : ∀ (x0 : State) (x1 : Ring) (x2 : RingCmd), x0.mem.wf = true → (work x0 x1 x2).mem.wf = true) :
    (runCmd s r op work).mem.wf = true := by
  unfold runCmd
  (repeat' split) <;> grind [complete_mem, modRing_mem, takeCmd_mem]

theorem execCmdNop_mem (ring : Nat) (s : State) (hs : s.mem.wf = true) :
    ∀ t, execCmdNop ring s = .next t → t.mem.wf = true :=
  next_wf (by
    (repeat' split) <;> grind [complete_mem, runCmd_mem])

theorem execCmdUnknownOpcode_mem (ring : Nat) (s : State) (hs : s.mem.wf = true) :
    ∀ t, execCmdUnknownOpcode ring s = .next t → t.mem.wf = true :=
  next_wf (by
    (repeat' split) <;> simp_all)

@[simp] theorem checkHeader_mem (s : State) (c hdr : Nat) (hs : s.mem.wf = true) :
    (checkHeader s c hdr).2.mem.wf = true := by
  unfold checkHeader
  (repeat' split) <;> grind [uRead_mem]

@[simp] theorem checkHeaders_mem (s : State) (c : Nat) (hdrs : List Nat) (a1 : List Nat) (hs : s.mem.wf = true) :
    (checkHeaders s c hdrs a1).2.mem.wf = true := by
  fun_induction checkHeaders s c hdrs a1 <;> grind [checkHeader_mem, memWrite_wf, memPut_wf, poisonGran_wf, zeroSpan_wf]

theorem execCmdLaunch_mem (ring : Nat) (s : State) (hs : s.mem.wf = true) :
    ∀ t, execCmdLaunch ring s = .next t → t.mem.wf = true :=
  next_wf (by
    (repeat' (first | with_reducible assumption | with_reducible rfl | with_reducible first | (apply foldl_mem <;> intros) | (apply foldl_mem_snd <;> intros) | (apply foldl_mem_fst <;> intros) | (apply runCmd_mem <;> intros) | simp only [modCtx_mem, note_mem] | (with_reducible apply ite_wf) | (with_reducible apply checkHeaders_mem) | (with_reducible apply complete_mem) | (with_reducible apply uRead_mem) | split | dsimp only)) <;> grind [checkHeaders_mem, complete_mem, modCtx_mem, note_mem, runCmd_mem, uRead_mem, memWrite_wf, memPut_wf, poisonGran_wf, zeroSpan_wf])

@[simp] theorem endStreams_mem (s : State) (c : Nat)  :
    (endStreams s c).mem = s.mem := by
  unfold endStreams
  (repeat' (first | with_reducible assumption | with_reducible first | (apply foldl_eqm <;> intros) | (apply foldl_eqm_snd <;> intros) | (apply foldl_eqm_fst <;> intros) | split)) <;> simp_all

@[simp] theorem finishLaunch_mem (s : State) (c status detail result : Nat) (hs : s.mem.wf = true) :
    (finishLaunch s c status detail result).mem.wf = true := by
  unfold finishLaunch
  (repeat' split) <;> simp_all

theorem execLaunchComplete_mem (ctx : Nat) (s : State) (hs : s.mem.wf = true) :
    ∀ t, execLaunchComplete ctx s = .next t → t.mem.wf = true :=
  next_wf (by
    (repeat' split) <;> grind [endStreams_mem, finishLaunch_mem])

theorem execCmdWrite_mem (ring : Nat) (s : State) (hs : s.mem.wf = true) :
    ∀ t, execCmdWrite ring s = .next t → t.mem.wf = true :=
  next_wf (by
    (repeat' split) <;> grind [complete_mem, cpPieces_mem, cpWrite_mem, runCmd_mem])

@[simp] theorem cpContribute_mem (s : State) (l : List Piece) (d : List PByte) (epoch idx : Nat) (hs : s.mem.wf = true) :
    (cpContribute s l d epoch idx).2.mem.wf = true := by
  fun_induction cpContribute s l d epoch idx <;> grind [cmbContribute_mem, memWrite_wf, memPut_wf, poisonGran_wf, zeroSpan_wf]

theorem execCmdCmb_mem (ring : Nat) (s : State) (hs : s.mem.wf = true) :
    ∀ t, execCmdCmb ring s = .next t → t.mem.wf = true :=
  next_wf (by
    (repeat' split) <;> grind [cPieces_mem, cmbDone_mem, complete_mem, cpContribute_mem, runCmd_mem, teamClose_mem])

@[simp] theorem waitValue_mem (s : State) (x : Ring) (c : RingCmd) (hs : s.mem.wf = true) :
    (waitValue s x c).2.mem.wf = true := by
  unfold waitValue
  simp_all

theorem execCmdWait_mem (ring : Nat) (s : State) (hs : s.mem.wf = true) :
    ∀ t, execCmdWait ring s = .next t → t.mem.wf = true :=
  next_wf (by
    (repeat' split) <;> grind [complete_mem, runCmd_mem, waitValue_mem])

theorem execCmdWaitPoll_mem (ring : Nat) (s : State) (hs : s.mem.wf = true) :
    ∀ t, execCmdWaitPoll ring s = .next t → t.mem.wf = true :=
  next_wf (by
    (repeat' split) <;> grind [complete_mem, waitValue_mem])

theorem execCmdWaitTimeout_mem (ring : Nat) (s : State) (hs : s.mem.wf = true) :
    ∀ t, execCmdWaitTimeout ring s = .next t → t.mem.wf = true :=
  next_wf (by
    (repeat' split) <;> simp_all)

theorem execCmdCreate_mem (ring : Nat) (s : State) (hs : s.mem.wf = true) :
    ∀ t, execCmdCreate ring s = .next t → t.mem.wf = true :=
  next_wf (by
    (repeat' split) <;> grind [complete_mem, runCmd_mem, writeAccount_mem])

@[simp] theorem cancelLaunches_mem (s : State) (c : Nat) (hs : s.mem.wf = true) :
    (cancelLaunches s c).mem.wf = true := by
  unfold cancelLaunches
  (repeat' (first | with_reducible assumption | with_reducible first | (apply foldl_mem <;> intros) | (apply foldl_mem_snd <;> intros) | (apply foldl_mem_fst <;> intros) | split)) <;> simp_all (maxDischargeDepth := 6)

@[simp] theorem destroyCtx_mem (s : State) (c : Nat) (hs : s.mem.wf = true) :
    (destroyCtx s c).mem.wf = true := by
  unfold destroyCtx
  (repeat' split) <;> simp_all (maxDischargeDepth := 6)

theorem execCmdDestroy_mem (ring : Nat) (s : State) (hs : s.mem.wf = true) :
    ∀ t, execCmdDestroy ring s = .next t → t.mem.wf = true :=
  next_wf (by
    (repeat' split) <;> grind [complete_mem, destroyCtx_mem, preempt_mem, runCmd_mem])

@[simp] theorem doorKeep_mem (s : State) (ring width : Nat) (w : W64)  :
    (doorKeep s ring width w).mem = s.mem := by
  unfold doorKeep
  (repeat' split) <;> simp

theorem execDoorbell_mem (ring : Nat) (d : WriteWord) (s : State)  :
    ∀ t, execDoorbell ring d s = .next t → t.mem = s.mem :=
  next_eq (by
    repeat' (first | with_reducible assumption | with_reducible rfl | with_reducible first | (apply foldl_eqm <;> intros) | (apply foldl_eqm_snd <;> intros) | (apply foldl_eqm_fst <;> intros) | simp only [doorKeep_mem, modCtl_mem, modRing_mem, note_mem] | split | dsimp only))

theorem execDoorbellContinue_mem (ring : Nat) (s : State)  :
    ∀ t, execDoorbellContinue ring s = .next t → t.mem = s.mem :=
  next_eq (by
    (repeat' split) <;> simp)

@[simp] theorem resetRing_mem (s : State) (r : Nat)  :
    (resetRing s r).mem = s.mem := by
  unfold resetRing
  rfl

theorem execDoorbellReset_mem (ring : Nat) (s : State)  :
    ∀ t, execDoorbellReset ring s = .next t → t.mem = s.mem :=
  next_eq (by
    (repeat' split) <;> simp)

theorem ringOp_mem (s : State) (die op : Nat) (w : W64) (f : State → Nat → Nat × State) (hs : s.mem.wf = true)
    (hf : ∀ t r, t.mem.wf = true → (f t r).2.mem.wf = true) : (ringOp s die op w f).mem.wf = true := by
  unfold ringOp
  refine ite_wf hs ?_
  rw [modCtl_mem]
  split
  · rw [modCtl_mem]; exact hs
  · apply hf; rw [modCtl_mem]; exact hs

theorem execRingEnable_mem (die : Nat) (w : W64) (s : State) (hs : s.mem.wf = true) :
    ∀ t, execRingEnable die w s = .next t → t.mem.wf = true :=
  next_wf (by
    (repeat' split) <;> grind [ringOp_mem])

theorem execRingDisable_mem (die : Nat) (w : W64) (s : State) (hs : s.mem.wf = true) :
    ∀ t, execRingDisable die w s = .next t → t.mem.wf = true :=
  next_wf (by
    (repeat' split) <;> grind [modRing_mem, ringOp_mem])

theorem execRingCtlReset_mem (die : Nat) (w : W64) (s : State) (hs : s.mem.wf = true) :
    ∀ t, execRingCtlReset die w s = .next t → t.mem.wf = true :=
  next_wf (by
    (repeat' split) <;> grind [resetRing_mem, ringOp_mem])

@[simp] theorem flushAgent_mem (s : State) (a : Nat) (lost : List Nat) (hs : s.mem.wf = true) :
    (flushAgent s a lost).mem.wf = true := by
  unfold flushAgent
  (repeat' (first | with_reducible assumption | with_reducible first | (apply foldl_mem <;> intros) | (apply foldl_mem_snd <;> intros) | (apply foldl_mem_fst <;> intros) | split)) <;> grind [dropCopy_mem, loseLine_mem, modHarn_mem, writeBack_mem]

@[simp] theorem resetHostDie_mem (s : State) (d : Nat) (lost : List Nat) (hs : s.mem.wf = true) :
    (resetHostDie s d lost).mem.wf = true := by
  unfold resetHostDie
  simp_all

theorem execHostDieReset_mem (die : Nat) (lost : List Nat) (s : State) (hs : s.mem.wf = true) :
    ∀ t, execHostDieReset die lost s = .next t → t.mem.wf = true :=
  next_wf (by
    (repeat' split) <;> simp_all)

@[simp] theorem leaveL2_mem (s : State) (core line : Nat) (lost : List Nat) (hs : s.mem.wf = true) :
    (leaveL2 s core line lost).mem.wf = true := by
  unfold leaveL2
  (repeat' split) <;> grind [dropCopy_mem, loseLine_mem, modHarn_mem, setDir_mem, writeBack_mem]

@[simp] theorem resetHostCore_mem (s : State) (h : Nat) (lost : List Nat) (hs : s.mem.wf = true) :
    (resetHostCore s h lost).mem.wf = true := by
  unfold resetHostCore
  simp_all

theorem execHostCoreReset_mem (hart : Nat) (late failed : List Nat) (s : State) (hs : s.mem.wf = true) :
    ∀ t, execHostCoreReset hart late failed s = .next t → t.mem.wf = true :=
  next_wf (by
    (repeat' split) <;> simp_all)

@[simp] theorem exitHostDie_mem (s : State) (d : Nat)  :
    (exitHostDie s d).mem = s.mem := by
  unfold exitHostDie
  rfl

theorem execHostDieResetExit_mem (die : Nat) (s : State)  :
    ∀ t, execHostDieResetExit die s = .next t → t.mem = s.mem :=
  next_eq (by
    (repeat' split) <;> simp)

end Sys2Proof.Machine
end

