-- ==== Sys2Proof/Laws/MemRegisters.lean ====
section
/-! SUPPORT. Every operation and command of Machine/Registers.lean keeps the canonical form of memory; where it writes
no memory, memory is as before. -/

set_option maxRecDepth 4000

namespace Sys2Proof.Machine

@[simp] theorem gotReg_mem (s : State) (pa : Nat) (w : W64)  :
    (gotReg s pa w).mem = s.mem := by
  unfold gotReg
  rfl

theorem execSnapshotRead_mem (agent : Nat) (x : RegAt) (s : State)  :
    ∀ t, execSnapshotRead agent x s = .next t → t.mem = s.mem :=
  next_eq (by
    (repeat' split) <;> grind [gotReg_mem, reply_mem])

@[simp] theorem transPut_mem (s : State) (inst o n : Nat)  :
    (transPut s inst o n).mem = s.mem := by
  unfold transPut
  (repeat' split) <;> grind [setTransReg_mem]

@[simp] theorem mailHead_mem (s : State) (c n : Nat)  :
    (mailHead s c n).mem = s.mem := by
  unfold mailHead
  rfl

@[simp] theorem putReg_mem (s : State) (pa : Nat) (w : W64) (hs : s.mem.wf = true) :
    (putReg s pa w).mem.wf = true := by
  unfold putReg
  (repeat' split) <;> grind [mailHead_mem, modCtl_mem, ringOp_mem, transPut_mem]

theorem execRegisterWrite_mem (agent pa width : Nat) (v : W64) (s : State) (hs : s.mem.wf = true) :
    ∀ t, execRegisterWrite agent pa width v s = .next t → t.mem.wf = true :=
  next_wf (by
    (repeat' split) <;> grind [putReg_mem, reply_mem])

theorem execChainStatusW1c_mem (ge : Nat) (v : W64) (s : State)  :
    ∀ t, execChainStatusW1c ge v s = .next t → t.mem = s.mem :=
  next_eq (by
    rfl)

theorem execRangeErrorW1c_mem (p : Nat) (v : W64) (s : State)  :
    ∀ t, execRangeErrorW1c p v s = .next t → t.mem = s.mem :=
  next_eq (by
    (repeat' split) <;> simp)

end Sys2Proof.Machine
end

