-- ==== Sys2Proof/Laws/MemStudbook.lean ====
section
/-! SUPPORT. Every operation and command of Machine/Studbook.lean keeps the canonical form of memory; where it writes
no memory, memory is as before. -/

set_option maxRecDepth 4000

namespace Sys2Proof.Machine

@[simp] theorem modBook_mem (s : State) (f : Studbook → Studbook)  :
    (modBook s f).mem = s.mem := by
  unfold modBook
  rfl

theorem persistPut_mem (s : State) (ix sub : Nat) (v : List Byte)  :
    ∀ t, persistPut s ix sub v = .ok t → t.mem = s.mem := by
  intro t ht
  unfold persistPut at ht
  (repeat' (first | split at ht | dsimp only at ht | (cases ht; done))) <;> (try simp only [Except.ok.injEq, reduceCtorEq] at ht) <;>
    (try subst ht) <;> ((repeat' split) <;> grind [commitStore_mem, putNow_mem])

@[simp] theorem dropRec_mem (s : State) (r : Rec)  :
    (dropRec s r).mem = s.mem := by
  unfold dropRec
  rfl

theorem enqueueRec_mem (s : State) (r : Rec)  :
    ∀ t, enqueueRec s r = some t → t.mem = s.mem := by
  intro t ht
  unfold enqueueRec at ht
  (repeat' (first | split at ht | dsimp only at ht | (cases ht; done))) <;> (try simp only [Option.some.injEq, reduceCtorEq] at ht) <;>
    (try subst ht) <;> rfl

theorem submit_mem (s : State) (e : Event) (t : State) (ht : submit s e = some t) : t.mem = s.mem := by
  unfold submit at ht
  extract_lets code k b f free s0 put at ht
  split at ht
  · exact (enqueueRec_mem _ _ _ ht :)
  · split at ht
    · cases ht; rw [modBook_mem]; exact modBook_mem _ _
    · exact (enqueueRec_mem _ _ _ ht).trans (modBook_mem _ _)

theorem execStudbookSubmit_mem (s : State) : ∀ t, execStudbookSubmit s = .next t → t.mem = s.mem := by
  intro t ht
  unfold execStudbookSubmit at ht
  simp only [ok, Host.Outcome.next.injEq] at ht
  subst ht
  split
  · rfl
  · split
    · rfl
    · split
      · next h => exact (submit_mem _ _ _ h :)
      · rfl

theorem execTokenRefill_mem (s : State)  :
    ∀ t, execTokenRefill s = .next t → t.mem = s.mem :=
  next_eq (by
    simp)

@[simp] theorem writeRec_mem (s : State) (slot : Nat) (r : Rec)  :
    (writeRec s slot r).mem = s.mem := by
  unfold writeRec
  rfl

theorem execStudbookRecordWrite_mem (s : State)  :
    ∀ t, execStudbookRecordWrite s = .next t → t.mem = s.mem :=
  next_eq (by
    (repeat' split) <;> grind [dropRec_mem, modBook_mem, writeRec_mem])

theorem execRecorderFailure_mem (recorder : Nat) (s : State)  :
    ∀ t, execRecorderFailure recorder s = .next t → t.mem = s.mem :=
  next_eq (by
    (repeat' split) <;> grind [modBook_mem, noteUnit_mem])

@[simp] theorem readmitRecorder_mem (s : State) (rc : Nat)  :
    (readmitRecorder s rc).mem = s.mem := by
  unfold readmitRecorder
  (repeat' split) <;> simp

@[simp] theorem freezeCopy_mem (s : State) (cause : Nat)  :
    (freezeCopy s cause).mem = s.mem := by
  unfold freezeCopy
  (repeat' split) <;> simp

theorem execStudbookNorCopyDone_mem (s : State)  :
    ∀ t, execStudbookNorCopyDone s = .next t → t.mem = s.mem :=
  next_eq (by
    (repeat' split) <;> simp)

@[simp] theorem afterRead_mem (s : State) (reader ix sub : Nat)  :
    (afterRead s reader ix sub).mem = s.mem := by
  unfold afterRead
  (repeat' split) <;> simp

@[simp] theorem readRecord_mem (s : State) (reader ix : Nat)  :
    (readRecord s reader ix).mem = s.mem := by
  unfold readRecord
  (repeat' split) <;> simp

theorem execStudbookRecordRead_mem (reader : Nat) (s : State)  :
    ∀ t, execStudbookRecordRead reader s = .next t → t.mem = s.mem :=
  next_eq (by
    simp)

theorem execQvaRecordRead_mem (reader : Nat) (s : State)  :
    ∀ t, execQvaRecordRead reader s = .next t → t.mem = s.mem :=
  next_eq (by
    simp)

theorem writeSwRecord_mem (s : State) (d : List Byte)  :
    ∀ t, writeSwRecord s d = .ok t → t.mem = s.mem := by
  intro t ht
  unfold writeSwRecord at ht
  (repeat' (first | split at ht | dsimp only at ht | (cases ht; done))) <;> (try simp only [Except.ok.injEq, reduceCtorEq] at ht) <;>
    (try subst ht) <;> rfl

theorem execSwRecord_mem (data : List Byte) (s : State) (hs : s.mem.wf = true) :
    ∀ t, execSwRecord data s = .next t → t.mem.wf = true :=
  next_wf (by
    (repeat' split) <;> grind [ownWrite_mem, writeSwRecord_mem])

theorem writeTrigger_mem (s : State) (d : List Byte)  :
    ∀ t, writeTrigger s d = .ok t → t.mem = s.mem := by
  intro t ht
  unfold writeTrigger at ht
  (repeat' (first | split at ht | dsimp only at ht | (cases ht; done))) <;> (try simp only [Except.ok.injEq, reduceCtorEq] at ht) <;>
    (try subst ht) <;> ((repeat' split) <;> grind [commitStore_mem, modBook_mem])

theorem execTriggerEntryWrite_mem (data : List Byte) (s : State) (hs : s.mem.wf = true) :
    ∀ t, execTriggerEntryWrite data s = .next t → t.mem.wf = true :=
  next_wf (by
    (repeat' split) <;> grind [ownWrite_mem, writeTrigger_mem])

theorem writeRate_mem (s : State) (burst : Bool) (v : Nat)  :
    ∀ t, writeRate s burst v = .ok t → t.mem = s.mem := by
  intro t ht
  unfold writeRate at ht
  (repeat' (first | split at ht | dsimp only at ht | (cases ht; done))) <;> (try simp only [Except.ok.injEq, reduceCtorEq] at ht) <;>
    (try subst ht) <;> ((repeat' split) <;> grind [modBook_mem, persistPut_mem])

theorem execRateLimitWrite_mem (burst : Bool) (v : Nat) (s : State) (hs : s.mem.wf = true) :
    ∀ t, execRateLimitWrite burst v s = .next t → t.mem.wf = true :=
  next_wf (by
    (repeat' split) <;> grind [ownWrite_mem, writeRate_mem])

end Sys2Proof.Machine
end

