-- ==== Sys2Proof/Laws/MemHobble.lean ====
section
/-! SUPPORT. Every operation and command of Machine/Hobble.lean keeps the canonical form of memory; where it writes
no memory, memory is as before. -/

set_option maxRecDepth 4000

namespace Sys2Proof.Machine

@[simp] theorem modPower_mem (s : State) (f : Power → Power)  :
    (modPower s f).mem = s.mem := by
  unfold modPower
  rfl

@[simp] theorem modDie_mem (s : State) (d : Nat) (f : DiePower → DiePower)  :
    (modDie s d f).mem = s.mem := by
  unfold modDie
  rfl

@[simp] theorem raiseGens_mem (s : State) (kind n : Nat)  :
    (raiseGens s kind n).mem = s.mem := by
  unfold raiseGens
  (repeat' (first | with_reducible assumption | with_reducible first | (apply foldl_eqm <;> intros) | (apply foldl_eqm_snd <;> intros) | (apply foldl_eqm_fst <;> intros) | split)) <;> simp_all

@[simp] theorem abortUpdate_mem (s : State)  :
    (abortUpdate s).mem = s.mem := by
  unfold abortUpdate
  (repeat' split) <;> simp

@[simp] theorem flushAll_mem (s : State) (lost : List Nat) (hs : s.mem.wf = true) :
    (flushAll s lost).mem.wf = true := by
  unfold flushAll
  (repeat' split) <;> simp_all (maxDischargeDepth := 6)

@[simp] theorem powerDown_mem (s : State) (lost : List Nat) (hs : s.mem.wf = true) :
    (powerDown s lost).mem.wf = true := by
  unfold powerDown
  (repeat' split) <;> simp_all (maxDischargeDepth := 6)

@[simp] theorem enterHobble_mem (s : State) (cause : Nat) (lost : List Nat) (hs : s.mem.wf = true) :
    (enterHobble s cause lost).mem.wf = true := by
  unfold enterHobble
  (repeat' split) <;> simp_all

@[simp] theorem enterSleep_mem (s : State) (lost : List Nat) (hs : s.mem.wf = true) :
    (enterSleep s lost).mem.wf = true := by
  unfold enterSleep
  simp_all

@[simp] theorem modLands_mem (s : State) (f : Lands → Lands)  :
    (modLands s f).mem = s.mem := by
  unfold modLands
  rfl

@[simp] theorem raiseRail_mem (s : State)  :
    (raiseRail s).mem = s.mem := by
  unfold raiseRail
  (repeat' split) <;> simp

@[simp] theorem startRails_mem (s : State) (q : PowerSeq)  :
    (startRails s q).mem = s.mem := by
  unfold startRails
  simp

@[simp] theorem setpoints_mem (s : State)  :
    (setpoints s).mem = s.mem := by
  unfold setpoints
  (repeat' (first | with_reducible assumption | with_reducible first | (apply foldl_eqm <;> intros) | (apply foldl_eqm_snd <;> intros) | (apply foldl_eqm_fst <;> intros) | split)) <;> simp_all

@[simp] theorem railFault_mem (s : State) (lost : List Nat) (hs : s.mem.wf = true) :
    (railFault s lost).mem.wf = true := by
  unfold railFault
  simp_all

@[simp] theorem wake_mem (s : State)  :
    (wake s).mem = s.mem := by
  unfold wake
  (repeat' split) <;> simp

end Sys2Proof.Machine
end

