-- ==== Sys2Proof/Laws/MemContainment.lean ====
section
/-! SUPPORT. Every operation and command of Machine/Containment.lean keeps the canonical form of memory; where it writes
no memory, memory is as before. -/

set_option maxRecDepth 4000

namespace Sys2Proof.Machine

theorem execSlotAdmission_mem (slot : Nat) (s : State)  :
    ∀ t, execSlotAdmission slot s = .next t → t.mem = s.mem :=
  next_eq (by
    (repeat' split) <;> simp)

@[simp] theorem drainSlot_mem (s : State) (slot : Nat)  :
    (drainSlot s slot).mem = s.mem := by
  unfold drainSlot
  (repeat' split) <;> simp

theorem execDrainRequest_mem (slot : Nat) (s : State)  :
    ∀ t, execDrainRequest slot s = .next t → t.mem = s.mem :=
  next_eq (by
    simp)

@[simp] theorem setPacked_mem (s : State) (slot arr : Nat) (on : Bool)  :
    (setPacked s slot arr on).mem = s.mem := by
  unfold setPacked
  (repeat' split) <;> simp

theorem execPackedModeEnter_mem (slot arr : Nat) (s : State)  :
    ∀ t, execPackedModeEnter slot arr s = .next t → t.mem = s.mem :=
  next_eq (by
    (repeat' split) <;> simp)

theorem execPackedModeExit_mem (slot arr : Nat) (s : State)  :
    ∀ t, execPackedModeExit slot arr s = .next t → t.mem = s.mem :=
  next_eq (by
    (repeat' split) <;> simp)

@[simp] theorem packSlot_mem (s : State) (slot : Nat) (on : Bool)  :
    (packSlot s slot on).mem = s.mem := by
  unfold packSlot
  (repeat' (first | with_reducible assumption | with_reducible first | (apply foldl_eqm <;> intros) | (apply foldl_eqm_snd <;> intros) | (apply foldl_eqm_fst <;> intros) | split)) <;> simp_all

@[simp] theorem testResult_mem (s : State) (slot : Nat) (pass : Bool)  :
    (testResult s slot pass).mem = s.mem := by
  unfold testResult
  rfl

theorem execPackedModeTest_mem (slot : Nat) (test : SlotTest) (s : State)  :
    ∀ t, execPackedModeTest slot test s = .next t → t.mem = s.mem :=
  next_eq (by
    (repeat' split) <;> grind [setSlot_mem, testResult_mem, testSlot_mem])

@[simp] theorem testSpare_mem (s : State) (p : Nat) (prog : TestProgram) (bad : List (Nat × Nat × W64))  :
    (testSpare s p prog bad).2.mem = s.mem := by
  unfold testSpare
  (repeat' split) <;> grind [packSlot_mem, setSlot_mem, testResult_mem, testSlot_mem]

theorem execSpareTestInterval_mem (die : Nat) (tests : SpareTests) (s : State) :
    ∀ t, execSpareTestInterval die tests s = .next t → t.mem = s.mem := by
  intro t ht
  unfold execSpareTestInterval at ht
  simp only [ok, Host.Outcome.next.injEq] at ht
  subst ht
  rw [modContain_mem]
  exact foldl_eqm _ _ _ _ (fun t p => testSpare_mem _ _ _ _) rfl

@[simp] theorem strandCtx_mem (s : State) (c : Nat) (lost : List Nat) (hs : s.mem.wf = true) :
    (strandCtx s c lost).mem.wf = true := by
  unfold strandCtx
  repeat' (first | with_reducible assumption | with_reducible rfl | with_reducible first | (apply foldl_mem <;> intros) | (apply foldl_mem_snd <;> intros) | (apply foldl_mem_fst <;> intros) | simp only [modCtx_mem, modEng_mem] | (with_reducible apply ite_wf) | (with_reducible apply finishLaunch_mem) | (with_reducible apply swapOut_mem) | split | dsimp only)

@[simp] theorem clusterLeaves_mem (s : State) (k : Nat) (lost : List Nat) (hs : s.mem.wf = true) :
    (clusterLeaves s k lost).mem.wf = true := by
  unfold clusterLeaves
  simp_all

@[simp] theorem closeStacks_mem (s : State) (d : Nat) (hs : s.mem.wf = true) :
    (closeStacks s d).mem.wf = true := by
  unfold closeStacks
  (repeat' (first | with_reducible assumption | with_reducible first | (apply foldl_mem <;> intros) | (apply foldl_mem_snd <;> intros) | (apply foldl_mem_fst <;> intros) | split)) <;> simp_all (maxDischargeDepth := 6)

@[simp] theorem retireDie_mem (s : State) (d : Nat) (lostLines : List Nat) (lostEng : List Nat) (hs : s.mem.wf = true) :
    (retireDie s d lostLines lostEng).mem.wf = true := by
  unfold retireDie
  repeat' (first | with_reducible assumption | with_reducible rfl | with_reducible first | (apply foldl_mem <;> intros) | (apply foldl_mem_snd <;> intros) | (apply foldl_mem_fst <;> intros) | simp only [modRing_mem, noteUnit_mem, raiseGen_mem, repairDue_mem] | (with_reducible apply ite_wf) | (with_reducible apply closeStacks_mem) | (with_reducible apply clusterLeaves_mem) | (with_reducible apply flushAgent_mem) | (with_reducible apply loseAgent_mem) | (with_reducible apply unitEvent_mem) | split | dsimp only)

@[simp] theorem setOut_mem (s : State) (kind n : Nat) (v : Bool)  :
    (setOut s kind n v).mem = s.mem := by
  unfold setOut
  rfl

@[simp] theorem resetNvme_mem (s : State) (n : Nat)  :
    (resetNvme s n).mem = s.mem := by
  unfold resetNvme
  rfl

@[simp] theorem resetPorts_mem (s : State) (n : Nat) (v : Bool)  :
    (resetPorts s n v).mem = s.mem := by
  unfold resetPorts
  rfl

@[simp] theorem resetHome_mem (s : State) (n : Nat) (hs : s.mem.wf = true) :
    (resetHome s n).mem.wf = true := by
  unfold resetHome
  simp_all

@[simp] theorem resetProcessor_mem (s : State) (n : Nat)  :
    (resetProcessor s n).mem = s.mem := by
  unfold resetProcessor
  rfl

@[simp] theorem containUnit_mem (s : State) (u : Nat × Nat) (i : ReportInfo) (hs : s.mem.wf = true) :
    (containUnit s u i).mem.wf = true := by
  unfold containUnit
  repeat' (first | with_reducible assumption | with_reducible rfl | with_reducible first | (apply foldl_mem <;> intros) | (apply foldl_mem_snd <;> intros) | (apply foldl_mem_fst <;> intros) | simp only [portDown_mem, raiseGen_mem, resetNvme_mem, resetPorts_mem, resetProcessor_mem, setSlot_mem] | (with_reducible apply ite_wf) | (with_reducible apply clusterLeaves_mem) | (with_reducible apply enterHobble_mem) | (with_reducible apply flushAgent_mem) | (with_reducible apply holdEngine_mem) | (with_reducible apply loseAgent_mem) | (with_reducible apply relayUnitFault_mem) | (with_reducible apply resetHome_mem) | (with_reducible apply resetHostDie_mem) | (with_reducible apply retireDie_mem) | (with_reducible apply unitEvent_mem) | split | dsimp only)

@[simp] theorem startHandling_mem (s : State) (h : Handling) (i : ReportInfo) (hs : s.mem.wf = true) :
    (startHandling s h i).mem.wf = true := by
  unfold startHandling
  simp_all

@[simp] theorem takeReport_mem (s : State) (u : Nat × Nat) (i : ReportInfo) (hs : s.mem.wf = true) :
    (takeReport s u i).mem.wf = true := by
  unfold takeReport
  (repeat' split) <;> grind [modContain_mem, noteUnit_mem, startHandling_mem]

@[simp] theorem reportUnit_mem (s : State) (u : Nat × Nat) (i : ReportInfo) (hs : s.mem.wf = true) :
    (reportUnit s u i).mem.wf = true := by
  unfold reportUnit
  (repeat' split) <;> grind [takeReport_mem]

theorem execHarnessAckTimeout_mem (agent : Nat) (x : AckLoss) (s : State) (hs : s.mem.wf = true) :
    ∀ t, execHarnessAckTimeout agent x s = .next t → t.mem.wf = true :=
  next_wf (by
    (repeat' split) <;> grind [note_mem, reportUnit_mem])

theorem execDirUncorrectableError_mem (home : Nat) (x : SetError) (s : State) (hs : s.mem.wf = true) :
    ∀ t, execDirUncorrectableError home x s = .next t → t.mem.wf = true :=
  next_wf (by
    (repeat' split) <;> grind [dirCorrected_mem, dirUncorrectable_mem, note_mem, reportUnit_mem])

theorem execContainmentReport_mem (kind unit : Nat) (resetOk : Bool) (lines engines : List Nat) (s : State) (hs : s.mem.wf = true) :
    ∀ t, execContainmentReport kind unit resetOk lines engines s = .next t → t.mem.wf = true :=
  next_wf (by
    simp_all)

@[simp] theorem clearFault_mem (s : State) (u : Nat × Nat)  :
    (clearFault s u).mem = s.mem := by
  unfold clearFault
  (repeat' split) <;> grind [modEng_mem, setOut_mem]

theorem execContainmentClear_mem (kind unit : Nat) (s : State) (hs : s.mem.wf = true) :
    ∀ t, execContainmentClear kind unit s = .next t → t.mem.wf = true :=
  next_wf (by
    (repeat' split) <;> grind [clearFault_mem, modContain_mem, noteUnit_mem, startHandling_mem])

theorem execRemount_mem (slot : Nat) (test : SlotTest) (readable : Bool) (s : State) (hs : s.mem.wf = true) :
    ∀ t, execRemount slot test readable s = .next t → t.mem.wf = true :=
  next_wf (by
    (repeat' (first | with_reducible assumption | with_reducible rfl | with_reducible first | (apply foldl_mem <;> intros) | (apply foldl_mem_snd <;> intros) | (apply foldl_mem_fst <;> intros) | simp only [modContain_mem] | (with_reducible apply ite_wf) | (with_reducible apply clusterLeaves_mem) | (with_reducible apply testSpare_mem) | split | dsimp only)) <;> simp_all (maxDischargeDepth := 6))

theorem execSpareMapCommit_mem (slot : Nat) (s : State)  :
    ∀ t, execSpareMapCommit slot s = .next t → t.mem = s.mem :=
  next_eq (by
    (repeat' split) <;> simp)

@[simp] theorem loseEngine_mem (s : State) (ge : Nat)  :
    (loseEngine s ge).mem = s.mem := by
  unfold loseEngine
  (repeat' (first | with_reducible assumption | with_reducible first | (apply foldl_eqm <;> intros) | (apply foldl_eqm_snd <;> intros) | (apply foldl_eqm_fst <;> intros) | split)) <;> simp_all

@[simp] theorem mapEngine_mem (s : State) (ge p : Nat)  :
    (mapEngine s ge p).mem = s.mem := by
  unfold mapEngine
  rfl

theorem execRemountResume_mem (slot : Nat) (readable : Bool) (s : State) (hs : s.mem.wf = true) :
    ∀ t, execRemountResume slot readable s = .next t → t.mem.wf = true :=
  next_wf (by
    (repeat' split) <;> simp_all)

@[simp] theorem zeroMemory_mem (s : State) (a n : Nat) (hs : s.mem.wf = true) : (zeroMemory s a n).mem.wf = true := by
  unfold zeroMemory
  dsimp only
  rw [Mem.wf_iff] at *
  exact ⟨swf_filter _ _ _ hs.1, swf_filter _ _ _ hs.2.1, swf_smapAll 0 (fun (r v : Nat) => if decide (r * mib2 < a ∨ a + n ≤ r * mib2) = true
    then v else v % 4) _ hs.2.2.1, hs.2.2.2⟩

@[simp] theorem initEngineOn_mem (s : State) (slot : Nat)  :
    (initEngineOn s slot).mem = s.mem := by
  unfold initEngineOn
  (repeat' split) <;> simp

@[simp] theorem admitKind_mem (s : State) (kind n : Nat) (stand : Bool) (hs : s.mem.wf = true) :
    (admitKind s kind n stand).mem.wf = true := by
  unfold admitKind
  repeat' (first | with_reducible assumption | with_reducible rfl | with_reducible first | (apply foldl_mem <;> intros) | (apply foldl_mem_snd <;> intros) | (apply foldl_mem_fst <;> intros) | simp only [clearFault_mem, exitHostDie_mem, initEngineOn_mem, modContain_mem, modPower_mem, readmitRecorder_mem, repairDue_mem, resetPorts_mem, setOut_mem, setSlot_mem] | (with_reducible apply ite_wf) | (with_reducible apply loseAgent_mem) | (with_reducible apply zeroMemory_mem) | split | dsimp only)

@[simp] theorem retireSlot_mem (s : State) (n : Nat) (hs : s.mem.wf = true) :
    (retireSlot s n).mem.wf = true := by
  unfold retireSlot
  (repeat' split) <;> grind [clusterLeaves_mem, loseEngine_mem, mapEngine_mem, setSlot_mem]

@[simp] theorem retireUnit_mem (s : State) (kind n : Nat) (hs : s.mem.wf = true) :
    (retireUnit s kind n).mem.wf = true := by
  unfold retireUnit
  (repeat' split) <;> simp_all

@[simp] theorem admitUnit_mem (s : State) (kind n : Nat) (pass bySleep : Bool) (hs : s.mem.wf = true) :
    (admitUnit s kind n pass bySleep).mem.wf = true := by
  unfold admitUnit
  (repeat' split) <;> simp_all

theorem execUnitReadmission_mem (kind unit : Nat) (pass bySleep : Bool) (s : State) (hs : s.mem.wf = true) :
    ∀ t, execUnitReadmission kind unit pass bySleep s = .next t → t.mem.wf = true :=
  next_wf (by
    simp_all)

@[simp] theorem readmitAll_mem (s : State) (failed : List (Nat × Nat)) (hs : s.mem.wf = true) :
    (readmitAll s failed).mem.wf = true := by
  unfold readmitAll
  simp_all

end Sys2Proof.Machine
end

