-- ==== Sys2Proof/Laws/MemPower.lean ====
section
/-! SUPPORT. Every operation and command of Machine/Power.lean keeps the canonical form of memory; where it writes
no memory, memory is as before. -/

set_option maxRecDepth 4000

namespace Sys2Proof.Machine

@[simp] theorem modMon_mem (s : State) (k : Nat) (f : Monitor → Monitor)  :
    (modMon s k f).mem = s.mem := by
  unfold modMon
  rfl

theorem execGaitMonitorSample_mem (cluster pred live : Nat) (s : State)  :
    ∀ t, execGaitMonitorSample cluster pred live s = .next t → t.mem = s.mem :=
  next_eq (by
    rfl)

theorem execLiveCalibration_mem (cluster pred live : Nat) (s : State)  :
    ∀ t, execLiveCalibration cluster pred live s = .next t → t.mem = s.mem :=
  next_eq (by
    (repeat' split) <;> grind [modMon_mem, note_mem])

theorem execReplicaSelfCheck_mem (cluster cal : Nat) (s : State)  :
    ∀ t, execReplicaSelfCheck cluster cal s = .next t → t.mem = s.mem :=
  next_eq (by
    (repeat' split) <;> simp)

@[simp] theorem applyRein_mem (s : State) (d : Nat)  :
    (applyRein s d).mem = s.mem := by
  unfold applyRein
  rfl

@[simp] theorem startBreach_mem (s : State) (d cause : Nat)  :
    (startBreach s d cause).mem = s.mem := by
  unfold startBreach
  (repeat' split) <;> simp

theorem execFloorBreachClear_mem (s : State)  :
    ∀ t, execFloorBreachClear s = .next t → t.mem = s.mem :=
  next_eq (by
    repeat' (first | with_reducible assumption | with_reducible rfl | with_reducible first | (apply foldl_eqm <;> intros) | (apply foldl_eqm_snd <;> intros) | (apply foldl_eqm_fst <;> intros) | simp only [modPower_mem, noteUnit_mem] | split | dsimp only))

theorem execGroomPowerSample_mem (die power : Nat) (s : State)  :
    ∀ t, execGroomPowerSample die power s = .next t → t.mem = s.mem :=
  next_eq (by
    (repeat' split) <;> simp)

@[simp] theorem governDie_mem (s : State) (d power rest : Nat)  :
    (governDie s d power rest).mem = s.mem := by
  unfold governDie
  (repeat' split) <;> grind [applyRein_mem, modDie_mem, startBreach_mem]

@[simp] theorem readTemps_mem (s : State) (ts hbm : List Int)  :
    (readTemps s ts hbm).mem = s.mem := by
  unfold readTemps
  (repeat' (first | with_reducible assumption | with_reducible first | (apply foldl_eqm <;> intros) | (apply foldl_eqm_snd <;> intros) | (apply foldl_eqm_fst <;> intros) | split)) <;> simp_all

@[simp] theorem governHost_mem (s : State) (h power : Nat) (cut : Bool)  :
    (governHost s h power cut).mem = s.mem := by
  unfold governHost
  rfl

theorem execGovernorInterval_mem (powers : List Nat) (other : Nat) (hosts : List Nat) (temps hbm : List Int) (avs lost : List Nat) (s : State) (hs : s.mem.wf = true) :
    ∀ t, execGovernorInterval powers other hosts temps hbm avs lost s = .next t → t.mem.wf = true :=
  next_wf (by
    repeat' (first | with_reducible assumption | with_reducible rfl | with_reducible first | (apply foldl_mem <;> intros) | (apply foldl_mem_snd <;> intros) | (apply foldl_mem_fst <;> intros) | simp only [applyRein_mem, governDie_mem, governHost_mem, modDie_mem, modPower_mem, readTemps_mem, startBreach_mem] | (with_reducible apply ite_wf) | (with_reducible apply enterHobble_mem) | split | dsimp only))

theorem execAvsbusRetry_mem (die : Nat) (good : Bool) (s : State)  :
    ∀ t, execAvsbusRetry die good s = .next t → t.mem = s.mem :=
  next_eq (by
    (repeat' split) <;> simp)

theorem execSlewWindow_mem (mean : Nat) (dies : List Nat) (full : Bool) (s : State)  :
    ∀ t, execSlewWindow mean dies full s = .next t → t.mem = s.mem :=
  next_eq (by
    (repeat' (first | with_reducible assumption | with_reducible first | (apply foldl_eqm <;> intros) | (apply foldl_eqm_snd <;> intros) | (apply foldl_eqm_fst <;> intros) | split)) <;> simp_all)

theorem execCoolantDemandUpdate_mem (mean : Nat) (s : State)  :
    ∀ t, execCoolantDemandUpdate mean s = .next t → t.mem = s.mem :=
  next_eq (by
    (repeat' split) <;> simp)

theorem execSupplyFault_mem (lost : List Nat) (s : State) (hs : s.mem.wf = true) :
    ∀ t, execSupplyFault lost s = .next t → t.mem.wf = true :=
  next_wf (by
    simp_all)

theorem execSensorCheck_mem (die : Nat) (reads : List (Int × Int × Bool)) (s : State)  :
    ∀ t, execSensorCheck die reads s = .next t → t.mem = s.mem :=
  next_eq (by
    (repeat' (first | with_reducible assumption | with_reducible first | (apply foldl_eqm <;> intros) | (apply foldl_eqm_snd <;> intros) | (apply foldl_eqm_fst <;> intros) | split)) <;> grind [modPower_mem, noteUnit_mem])

theorem execEyeRetrainScan_mem (pc : Nat) (s : State)  :
    ∀ t, execEyeRetrainScan pc s = .next t → t.mem = s.mem :=
  next_eq (by
    rfl)

theorem execEyeRetrainHold_mem (pc : Nat) (s : State)  :
    ∀ t, execEyeRetrainHold pc s = .next t → t.mem = s.mem :=
  next_eq (by
    rfl)

theorem execThermalTrip_mem (die : Nat) (lost : List Nat) (s : State) (hs : s.mem.wf = true) :
    ∀ t, execThermalTrip die lost s = .next t → t.mem.wf = true :=
  next_wf (by
    simp_all)

theorem execHobbleRequest_mem (lost : List Nat) (s : State) (hs : s.mem.wf = true) :
    ∀ t, execHobbleRequest lost s = .next t → t.mem.wf = true :=
  next_wf (by
    simp_all)

theorem exitHobble_mem (s : State)  :
    ∀ t, exitHobble s = .ok t → t.mem = s.mem := by
  intro t ht
  unfold exitHobble at ht
  (repeat' (first | split at ht | dsimp only at ht | (cases ht; done))) <;> (try simp only [Except.ok.injEq, reduceCtorEq] at ht) <;>
    (try subst ht) <;> simp

theorem execHobbleExit_mem (s : State) (hs : s.mem.wf = true) :
    ∀ t, execHobbleExit s = .next t → t.mem.wf = true :=
  next_wf (by
    (repeat' split) <;> grind [exitHobble_mem, ownWrite_mem])

theorem execHobbleAutoExit_mem (s : State)  :
    ∀ t, execHobbleAutoExit s = .next t → t.mem = s.mem :=
  next_eq (by
    (repeat' split) <;> grind [exitHobble_mem])

theorem requestSleep_mem (s : State) (lost : List Nat) (hs : s.mem.wf = true) :
    ∀ t, requestSleep s lost = .ok t → t.mem.wf = true := by
  intro t ht
  unfold requestSleep at ht
  split at ht
  · exact absurd ht (by simp)
  · rw [Except.ok.injEq] at ht
    rw [← ht]
    exact enterSleep_mem _ _ hs

theorem execSleepRequest_mem (lost : List Nat) (s : State) (hs : s.mem.wf = true) :
    ∀ t, execSleepRequest lost s = .next t → t.mem.wf = true :=
  next_wf (by
    (repeat' split) <;> grind [ownWrite_mem, requestSleep_mem])

end Sys2Proof.Machine
end

