-- ==== Sys2Proof/Laws/MemBoot.lean ====
section
/-! SUPPORT. Every operation and command of Machine/Boot.lean keeps the canonical form of memory; where it writes
no memory, memory is as before. -/

set_option maxRecDepth 4000

namespace Sys2Proof.Machine

@[simp] theorem modBoot_mem (s : State) (f : Boot → Boot)  :
    (modBoot s f).mem = s.mem := by
  unfold modBoot
  rfl

@[simp] theorem writeBootDir_mem (s : State) (pref : Nat)  :
    (writeBootDir s pref).mem = s.mem := by
  unfold writeBootDir
  rfl

@[simp] theorem keepFlash_mem (s : State) : (keepFlash s).mem.wf = true := Mem.wf_empty

@[simp] theorem coldState_mem (s : State) (hs : s.mem.wf = true) :
    (coldState s).mem.wf = true := by
  unfold coldState
  simp_all

theorem warmMem_wf (s : State) (hs : s.mem.wf = true) : (warmMem s).wf = true := by
  unfold warmMem
  rw [Mem.wf_iff] at *
  exact ⟨swf_filter _ _ _ hs.1, swf_filter _ _ _ hs.2.1,
    swf_smapAll 0 (fun (r v : Nat) => if preserved s (r * mib2) = true then v / 4 % 2 * 4 else 0) _ hs.2.2.1, rfl, rfl⟩

@[simp] theorem warmState_mem (s : State) (hs : s.mem.wf = true) : (warmState s).mem.wf = true := warmMem_wf s hs

@[simp] theorem restoreValue_mem (s : State) (k : Nat) (v : List Byte)  :
    (restoreValue s k v).mem = s.mem := by
  unfold restoreValue
  (repeat' split) <;> grind [modBook_mem, modPad_mem, odPut_mem]

@[simp] theorem readStore_mem (s : State)  :
    (readStore s).mem = s.mem := by
  unfold readStore
  (repeat' (first | with_reducible assumption | with_reducible first | (apply foldl_eqm <;> intros) | (apply foldl_eqm_snd <;> intros) | (apply foldl_eqm_fst <;> intros) | split)) <;> simp_all

@[simp] theorem applyRepair_mem (s : State) (r : Repair)  :
    (applyRepair s r).mem = s.mem := by
  unfold applyRepair
  (repeat' split) <;> simp

@[simp] theorem verifyLog_mem (s : State)  :
    (verifyLog s).mem = s.mem := by
  unfold verifyLog
  repeat' (first | with_reducible assumption | with_reducible rfl | with_reducible first | (apply foldl_eqm <;> intros) | (apply foldl_eqm_snd <;> intros) | (apply foldl_eqm_fst <;> intros) | simp only [applyRepair_mem, modBoot_mem, noteUnit_mem] | split | dsimp only)

@[simp] theorem runImage_mem (s : State) (slot : Nat)  :
    (runImage s slot).mem = s.mem := by
  unfold runImage
  simp

@[simp] theorem takeRole_mem (s : State) (core : Nat)  :
    (takeRole s core).mem = s.mem := by
  unfold takeRole
  rfl

@[simp] theorem romBoot_mem (s : State)  :
    (romBoot s).mem = s.mem := by
  unfold romBoot
  (repeat' split) <;> grind [modBoot_mem, noteUnit_mem, runImage_mem]

@[simp] theorem finishBoot_mem (s : State) (failed : List (Nat × Nat)) (hs : s.mem.wf = true) :
    (finishBoot s failed).mem.wf = true := by
  unfold finishBoot
  (repeat' (first | with_reducible assumption | with_reducible rfl | with_reducible first | (apply foldl_mem <;> intros) | (apply foldl_mem_snd <;> intros) | (apply foldl_mem_fst <;> intros) | simp only [exitHostDie_mem, modBoot_mem, modLands_mem, modPower_mem, setpoints_mem] | (with_reducible apply ite_wf) | (with_reducible apply admitUnit_mem) | (with_reducible apply complete_mem) | split | dsimp only)) <;> simp_all (maxDischargeDepth := 6)

@[simp] theorem finishRails_mem (s : State) (failed : List (Nat × Nat)) (hs : s.mem.wf = true) :
    (finishRails s failed).mem.wf = true := by
  unfold finishRails
  (repeat' split) <;> simp_all

theorem execStandbyPowerOn_mem (s : State) (hs : s.mem.wf = true) :
    ∀ t, execStandbyPowerOn s = .next t → t.mem.wf = true :=
  next_wf (by
    (repeat' split) <;> simp_all)

theorem execVstbyLoss_mem (s : State) (hs : s.mem.wf = true) :
    ∀ t, execVstbyLoss s = .next t → t.mem.wf = true :=
  next_wf (by
    simp_all)

theorem execPkgResetAssert_mem (s : State) (hs : s.mem.wf = true) :
    ∀ t, execPkgResetAssert s = .next t → t.mem.wf = true :=
  next_wf (by
    (repeat' split) <;> simp_all)

theorem execPkgResetRelease_mem (straps : Nat) (finds : BootFinds) (s : State)  :
    ∀ t, execPkgResetRelease straps finds s = .next t → t.mem = s.mem :=
  next_eq (by
    (repeat' split) <;> grind [modBoot_mem, modLands_mem, romBoot_mem, takeRole_mem])

theorem execRoleAnnounceTimeout_mem (s : State)  :
    ∀ t, execRoleAnnounceTimeout s = .next t → t.mem = s.mem :=
  next_eq (by
    (repeat' split) <;> simp)

theorem execBootWatchdogReset_mem (s : State)  :
    ∀ t, execBootWatchdogReset s = .next t → t.mem = s.mem :=
  next_eq (by
    (repeat' split) <;> simp)

theorem execRecoveryImageChunk_mem (data : List Byte) (last sig : Bool) (s : State)  :
    ∀ t, execRecoveryImageChunk data last sig s = .next t → t.mem = s.mem :=
  next_eq (by
    (repeat' split) <;> grind [modBoot_mem, runImage_mem, writeBootDir_mem])

theorem execPowerGoodRise_mem (rail : Nat) (failed : List (Nat × Nat)) (s : State) (hs : s.mem.wf = true) :
    ∀ t, execPowerGoodRise rail failed s = .next t → t.mem.wf = true :=
  next_wf (by
    (repeat' split) <;> grind [finishRails_mem, modLands_mem, raiseRail_mem])

theorem execPowerGoodTimeout_mem (rail : Nat) (lost : List Nat) (s : State) (hs : s.mem.wf = true) :
    ∀ t, execPowerGoodTimeout rail lost s = .next t → t.mem.wf = true :=
  next_wf (by
    (repeat' split) <;> simp_all)

theorem execPowerGoodFall_mem (rail : Nat) (lost : List Nat) (s : State) (hs : s.mem.wf = true) :
    ∀ t, execPowerGoodFall rail lost s = .next t → t.mem.wf = true :=
  next_wf (by
    (repeat' split) <;> simp_all)

theorem execPowerBrakeAssert_mem (s : State)  :
    ∀ t, execPowerBrakeAssert s = .next t → t.mem = s.mem :=
  next_eq (by
    (repeat' (first | with_reducible assumption | with_reducible first | (apply foldl_eqm <;> intros) | (apply foldl_eqm_snd <;> intros) | (apply foldl_eqm_fst <;> intros) | split)) <;> simp_all)

theorem execPowerBrakeRelease_mem (s : State)  :
    ∀ t, execPowerBrakeRelease s = .next t → t.mem = s.mem :=
  next_eq (by
    (repeat' (first | with_reducible assumption | with_reducible first | (apply foldl_eqm <;> intros) | (apply foldl_eqm_snd <;> intros) | (apply foldl_eqm_fst <;> intros) | split)) <;> simp_all)

theorem execWakeNAssert_mem (s : State)  :
    ∀ t, execWakeNAssert s = .next t → t.mem = s.mem :=
  next_eq (by
    (repeat' split) <;> simp)

@[simp] theorem tapRun_mem (s : State) (ir : TapIr) (f : Lands → Lands)  :
    (tapRun s ir f).mem = s.mem := by
  unfold tapRun
  (repeat' split) <;> simp

theorem execTapBypass_mem (data : List Bool) (s : State)  :
    ∀ t, execTapBypass data s = .next t → t.mem = s.mem :=
  next_eq (by
    simp)

theorem execTapSamplePreload_mem (pins data : List Bool) (s : State)  :
    ∀ t, execTapSamplePreload pins data s = .next t → t.mem = s.mem :=
  next_eq (by
    simp)

theorem execTapExtest_mem (pins data : List Bool) (s : State)  :
    ∀ t, execTapExtest pins data s = .next t → t.mem = s.mem :=
  next_eq (by
    simp)

theorem execTapIdcode_mem (s : State)  :
    ∀ t, execTapIdcode s = .next t → t.mem = s.mem :=
  next_eq (by
    simp)

theorem execTapReset_mem (s : State)  :
    ∀ t, execTapReset s = .next t → t.mem = s.mem :=
  next_eq (by
    simp)

end Sys2Proof.Machine
end

