-- ==== Sys2Proof/Laws/MemRole.lean ====
section
/-! SUPPORT. Every operation and command of Machine/Role.lean keeps the canonical form of memory; where it writes
no memory, memory is as before. -/

set_option maxRecDepth 4000

namespace Sys2Proof.Machine

@[simp] theorem modOst_mem (s : State) (f : Ostler → Ostler)  :
    (modOst s f).mem = s.mem := by
  unfold modOst
  rfl

theorem execOstlerHeartbeat_mem (s : State)  :
    ∀ t, execOstlerHeartbeat s = .next t → t.mem = s.mem :=
  next_eq (by
    (repeat' split) <;> simp)

@[simp] theorem takeover_mem (s : State) (planned : Bool) (dies : List Nat)  :
    (takeover s planned dies).mem = s.mem := by
  unfold takeover
  repeat' (first | with_reducible assumption | with_reducible rfl | with_reducible first | (apply foldl_eqm <;> intros) | (apply foldl_eqm_snd <;> intros) | (apply foldl_eqm_fst <;> intros) | simp only [applyRein_mem, modBoot_mem, modDie_mem, modOst_mem, noteUnit_mem, startBreach_mem] | split | dsimp only)

theorem execStandbyTakeover_mem (dies : List Nat) (s : State)  :
    ∀ t, execStandbyTakeover dies s = .next t → t.mem = s.mem :=
  next_eq (by
    (repeat' split) <;> simp)

theorem requestHandover_mem (s : State) (dies : List Nat)  :
    ∀ t, requestHandover s dies = .ok t → t.mem = s.mem := by
  intro t ht
  unfold requestHandover at ht
  (repeat' (first | split at ht | dsimp only at ht | (cases ht; done))) <;> (try simp only [Except.ok.injEq, reduceCtorEq] at ht) <;>
    (try subst ht) <;> simp

theorem execHandoverRequest_mem (dies : List Nat) (s : State) (hs : s.mem.wf = true) :
    ∀ t, execHandoverRequest dies s = .next t → t.mem.wf = true :=
  next_wf (by
    (repeat' split) <;> grind [ownWrite_mem, requestHandover_mem])

theorem execStandbySelfTestPass_mem (s : State)  :
    ∀ t, execStandbySelfTestPass s = .next t → t.mem = s.mem :=
  next_eq (by
    (repeat' split) <;> simp)

theorem execStandbySyncComplete_mem (s : State)  :
    ∀ t, execStandbySyncComplete s = .next t → t.mem = s.mem :=
  next_eq (by
    (repeat' split) <;> simp)

theorem execMgmtRingCommand_mem (epoch : Nat) (cmd : MgmtCmd) (s : State)  :
    ∀ t, execMgmtRingCommand epoch cmd s = .next t → t.mem = s.mem :=
  next_eq (by
    (repeat' split) <;> simp)

theorem execGroomHeartbeat_mem (groom : Nat) (s : State)  :
    ∀ t, execGroomHeartbeat groom s = .next t → t.mem = s.mem :=
  next_eq (by
    rfl)

theorem execGroomSilent_mem (groom : Nat) (resetOk : Bool) (lines engines : List Nat) (s : State) (hs : s.mem.wf = true) :
    ∀ t, execGroomSilent groom resetOk lines engines s = .next t → t.mem.wf = true :=
  next_wf (by
    (repeat' split) <;> simp_all)

theorem execGroomWatchdogRestart_mem (groom : Nat) (s : State)  :
    ∀ t, execGroomWatchdogRestart groom s = .next t → t.mem = s.mem :=
  next_eq (by
    (repeat' split) <;> simp)

@[simp] theorem restartFrom_mem (s : State) (i : Nat)  :
    (restartFrom s i).mem = s.mem := by
  unfold restartFrom
  (repeat' split) <;> simp

theorem execGroomRestartReport_mem (groom : Nat) (s : State) (hs : s.mem.wf = true) :
    ∀ t, execGroomRestartReport groom s = .next t → t.mem.wf = true :=
  next_wf (by
    repeat' (first | with_reducible assumption | with_reducible rfl | with_reducible first | (apply foldl_mem <;> intros) | (apply foldl_mem_snd <;> intros) | (apply foldl_mem_fst <;> intros) | simp only [modOst_mem, restartFrom_mem] | (with_reducible apply ite_wf) | (with_reducible apply takeReport_mem) | split | dsimp only))

theorem execGroomReportTimeout_mem (groom : Nat) (resetOk : Bool) (lines engines : List Nat) (s : State) (hs : s.mem.wf = true) :
    ∀ t, execGroomReportTimeout groom resetOk lines engines s = .next t → t.mem.wf = true :=
  next_wf (by
    (repeat' split) <;> simp_all)

theorem execGroomHoldTimeout_mem (lost : List Nat) (s : State) (hs : s.mem.wf = true) :
    ∀ t, execGroomHoldTimeout lost s = .next t → t.mem.wf = true :=
  next_wf (by
    (repeat' split) <;> simp_all)

end Sys2Proof.Machine
end

