-- ==== Sys2Proof/Laws/MemUpdate.lean ====
section
/-! SUPPORT. Every operation and command of Machine/Update.lean keeps the canonical form of memory; where it writes
no memory, memory is as before. -/

set_option maxRecDepth 4000

namespace Sys2Proof.Machine

theorem updateLoad_mem (s : State)  :
    ∀ t, updateLoad s = .ok t → t.mem = s.mem := by
  intro t ht
  unfold updateLoad at ht
  (repeat' (first | split at ht | dsimp only at ht | (cases ht; done))) <;> (try simp only [Except.ok.injEq, reduceCtorEq] at ht) <;>
    (try subst ht) <;> rfl

theorem updateGrooms_mem (s : State)  :
    ∀ t, updateGrooms s = .ok t → t.mem = s.mem := by
  intro t ht
  unfold updateGrooms at ht
  (repeat' (first | split at ht | dsimp only at ht | (cases ht; done))) <;> (try simp only [Except.ok.injEq, reduceCtorEq] at ht) <;>
    (try subst ht) <;> simp

theorem updateOstler_mem (s : State)  :
    ∀ t, updateOstler s = .ok t → t.mem = s.mem := by
  intro t ht
  unfold updateOstler at ht
  (repeat' (first | split at ht | dsimp only at ht | (cases ht; done))) <;> (try simp only [Except.ok.injEq, reduceCtorEq] at ht) <;>
    (try subst ht) <;> simp

theorem updateAtReset_mem (s : State)  :
    ∀ t, updateAtReset s = .ok t → t.mem = s.mem := by
  intro t ht
  unfold updateAtReset at ht
  (repeat' (first | split at ht | dsimp only at ht | (cases ht; done))) <;> (try simp only [Except.ok.injEq, reduceCtorEq] at ht) <;>
    (try subst ht) <;> rfl

theorem updateCommitSvn_mem (s : State)  :
    ∀ t, updateCommitSvn s = .ok t → t.mem = s.mem := by
  intro t ht
  unfold updateCommitSvn at ht
  (repeat' (first | split at ht | dsimp only at ht | (cases ht; done))) <;> (try simp only [Except.ok.injEq, reduceCtorEq] at ht) <;>
    (try subst ht) <;> rfl

theorem execUpdateLoad_mem (s : State) (hs : s.mem.wf = true) :
    ∀ t, execUpdateLoad s = .next t → t.mem.wf = true :=
  next_wf (by
    (repeat' split) <;> grind [ownWrite_mem, updateLoad_mem])

theorem execUpdateLoadComplete_mem (sig flash : Bool) (s : State)  :
    ∀ t, execUpdateLoadComplete sig flash s = .next t → t.mem = s.mem :=
  next_eq (by
    (repeat' split) <;> simp)

theorem execUpdateGrooms_mem (s : State) (hs : s.mem.wf = true) :
    ∀ t, execUpdateGrooms s = .next t → t.mem.wf = true :=
  next_wf (by
    (repeat' split) <;> grind [ownWrite_mem, updateGrooms_mem])

theorem execUpdateOstler_mem (s : State) (hs : s.mem.wf = true) :
    ∀ t, execUpdateOstler s = .next t → t.mem.wf = true :=
  next_wf (by
    (repeat' split) <;> grind [ownWrite_mem, updateOstler_mem])

theorem execUpdateAtReset_mem (s : State) (hs : s.mem.wf = true) :
    ∀ t, execUpdateAtReset s = .next t → t.mem.wf = true :=
  next_wf (by
    (repeat' split) <;> grind [ownWrite_mem, updateAtReset_mem])

theorem execUpdateCommitSvn_mem (s : State) (hs : s.mem.wf = true) :
    ∀ t, execUpdateCommitSvn s = .next t → t.mem.wf = true :=
  next_wf (by
    (repeat' split) <;> grind [ownWrite_mem, updateCommitSvn_mem])

@[simp] theorem takeLeaf_mem (s : State)  :
    (takeLeaf s).2.mem = s.mem := by
  unfold takeLeaf
  (repeat' split) <;> simp

theorem execRepairRecordCommit_mem (kind : Nat) (s : State)  :
    ∀ t, execRepairRecordCommit kind s = .next t → t.mem = s.mem :=
  next_eq (by
    (repeat' split) <;> simp)

theorem execBottomTreeCompute_mem (s : State)  :
    ∀ t, execBottomTreeCompute s = .next t → t.mem = s.mem :=
  next_eq (by
    (repeat' split) <;> simp)

theorem attest_mem (s : State) (reader : Nat) (nonce : List Byte)  :
    ∀ t, attest s reader nonce = .ok t → t.mem = s.mem := by
  intro t ht
  unfold attest at ht
  (repeat' (first | split at ht | dsimp only at ht | (cases ht; done))) <;> (try simp only [Except.ok.injEq, reduceCtorEq] at ht) <;>
    (try subst ht) <;> simp

theorem execAttestNonce_mem (reader : Nat) (nonce : List Byte) (s : State) (hs : s.mem.wf = true) :
    ∀ t, execAttestNonce reader nonce s = .next t → t.mem.wf = true :=
  next_wf (by
    (repeat' split) <;> grind [attest_mem, ownWrite_mem])

end Sys2Proof.Machine
end

