-- ==== Sys2Proof/Laws/MemDictWrite.lean ====
section
/-! SUPPORT. Every operation and command of Machine/DictWrite.lean keeps the canonical form of memory; where it writes
no memory, memory is as before. -/

set_option maxRecDepth 4000

namespace Sys2Proof.Machine

theorem stageWrite_mem (s : State) (step k : Nat) (v : List Byte)  :
    ∀ t, stageWrite s step k v = .ok t → t.mem = s.mem := by
  intro t ht
  unfold stageWrite at ht
  (repeat' (first | split at ht | dsimp only at ht | (cases ht; done))) <;> (try simp only [Except.ok.injEq, reduceCtorEq] at ht) <;>
    (try subst ht) <;> simp

theorem putValue_mem (s : State) (o : Obj) (ix sub : Nat) (v : List Byte)  :
    ∀ t, putValue s o ix sub v = .ok t → t.mem = s.mem := by
  intro t ht
  unfold putValue at ht
  (repeat' (first | split at ht | dsimp only at ht | (cases ht; done))) <;> (try simp only [Except.ok.injEq, reduceCtorEq] at ht) <;>
    (try subst ht) <;> ((repeat' split) <;> grind [persistPut_mem, putNow_mem])

@[simp] theorem teamChange_mem (s : State) (sub : Nat)  :
    (teamChange s sub).mem = s.mem := by
  unfold teamChange
  (repeat' (first | with_reducible assumption | with_reducible first | (apply foldl_eqm <;> intros) | (apply foldl_eqm_snd <;> intros) | (apply foldl_eqm_fst <;> intros) | split)) <;> simp_all

theorem updateCommand_mem (s : State) (n : Nat)  :
    ∀ t, updateCommand s n = .ok t → t.mem = s.mem := by
  intro t ht
  unfold updateCommand at ht
  (repeat' (first | split at ht | dsimp only at ht | (cases ht; done))) <;> (try simp only [Except.ok.injEq, reduceCtorEq] at ht) <;>
    (try subst ht) <;> ((repeat' split) <;> grind [updateAtReset_mem, updateCommitSvn_mem, updateGrooms_mem, updateLoad_mem, updateOstler_mem])

theorem writeEffect_mem (s : State) (env : DictEnv) (reader : Nat) (o : Obj) (ix sub : Nat) (v : List Byte)
    (hs : s.mem.wf = true) : ∀ t, writeEffect s env reader o ix sub v = .ok t → t.mem.wf = true := by
  unfold writeEffect
  refine ite_ok (ok_ok (by rw [setSel_mem]; exact hs)) ?_
  refine ite_ok (ite_ok (eq_ok hs (requestHandover_mem _ _)) (ok_ok hs)) ?_
  refine ite_ok (ok_ok (resetHostDie_mem _ _ _ hs)) ?_
  refine ite_ok (ok_ok (resetHostCore_mem _ _ _ hs)) ?_
  refine ite_ok (ok_ok (ite_wf (enterHobble_mem _ _ _ hs) hs)) ?_
  refine ite_ok (ite_ok (eq_ok hs (exitHobble_mem _)) (ok_ok hs)) ?_
  refine ite_ok (ite_ok (requestSleep_mem _ _ hs) (ok_ok hs)) ?_
  refine ite_ok (eq_ok hs (writeClusters_mem _ _ _ _)) ?_
  refine ite_ok (ite_ok (eq_ok hs (startPad_mem _ _)) (ok_ok (by rw [stopPad_mem]; exact hs))) ?_
  refine ite_ok (eq_ok hs (writeRingRange_mem _ _ _ _)) ?_
  refine ite_ok (ok_ok (by rw [modPad_mem]; exact hs)) ?_
  refine ite_ok (eq_ok hs (writeWeight_mem _ _ _)) ?_
  refine ite_ok ?_ ?_
  · split
    · next h =>
      apply ok_ok
      rw [teamChange_mem, putValue_mem _ _ _ _ _ _ h]
      exact hs
    · exact fun _ h => nomatch h
  refine ite_ok (declareLost_mem _ _ hs) ?_
  refine ite_ok (eq_ok hs (writeStreamQuery_mem _ _ _)) ?_
  refine ite_ok (eq_ok hs (writeStreamClose_mem _ _)) ?_
  refine ite_ok (eq_ok hs (writeTrigger_mem _ _)) ?_
  refine ite_ok (eq_ok hs (writeRate_mem _ _ _)) ?_
  refine ite_ok (eq_ok hs (writeSwRecord_mem _ _)) ?_
  refine ite_ok (ok_ok (by rw [setLend_mem]; exact hs)) ?_
  refine ite_ok (eq_ok hs (updateCommand_mem _ _)) ?_
  refine ite_ok (eq_ok hs (attest_mem _ _ _)) ?_
  exact eq_ok hs (putValue_mem _ _ _ _ _)

theorem writeItem_mem (s : State) (env : DictEnv) (viaOdp : Bool) (reader step ix sub ty : Nat) (v : List Byte) (hs : s.mem.wf = true) :
    ∀ t, writeItem s env viaOdp reader step ix sub ty v = .ok t → t.mem.wf = true := by
  intro t ht
  unfold writeItem at ht
  (repeat' (first | split at ht | dsimp only at ht | (cases ht; done))) <;> (try simp only [Except.ok.injEq, reduceCtorEq] at ht) <;>
    (try subst ht) <;> ((repeat' split) <;> grind [commitStore_mem, stageWrite_mem, writeEffect_mem])

end Sys2Proof.Machine
end

