-- ==== Sys2Proof/Laws/MemOdp.lean ====
section
/-! SUPPORT. Every operation and command of Machine/Odp.lean keeps the canonical form of memory; where it writes
no memory, memory is as before. -/

set_option maxRecDepth 4000

namespace Sys2Proof.Machine

@[simp] theorem readItem_mem (s : State) (staged : Bool) (reader : Nat) (i : ReqItem)  :
    (readItem s staged reader i).1.mem = s.mem := by
  unfold readItem
  (repeat' split) <;> simp

@[simp] theorem writeItems_mem (s : State) (env : DictEnv) (viaOdp : Bool) (reader step : Nat) (a1 : List ReqItem) (hs : s.mem.wf = true) :
    (writeItems s env viaOdp reader step a1).1.mem.wf = true := by
  fun_induction writeItems s env viaOdp reader step a1 <;> grind [writeItem_mem, memWrite_wf, memPut_wf, poisonGran_wf, zeroSpan_wf]

@[simp] theorem doRequest_mem (s : State) (env : DictEnv) (viaOdp : Bool) (reader : Nat) (q : DictReq) (hs : s.mem.wf = true) :
    (doRequest s env viaOdp reader q).1.mem.wf = true := by
  unfold doRequest
  (repeat' (first | with_reducible assumption | with_reducible first | (apply foldl_mem <;> intros) | (apply foldl_mem_snd <;> intros) | (apply foldl_mem_fst <;> intros) | split)) <;> grind [readItem_mem, writeItems_mem]

@[simp] theorem setClients_mem (s : State) (l : List Client)  :
    (setClients s l).mem = s.mem := by
  unfold setClients
  rfl

@[simp] theorem fileReply_mem (s : State) (num seq : Nat) (f : List Byte)  :
    (fileReply s num seq f).mem = s.mem := by
  unfold fileReply
  rfl

@[simp] theorem runReq_mem (s : State) (env : DictEnv) (p : OPath) (q : DictReq) (hs : s.mem.wf = true) :
    (runReq s env p q).1.mem.wf = true := by
  unfold runReq
  simp_all

@[simp] theorem byClient_mem (s : State) (env : DictEnv) (p : OPath) (f : List Byte) (q : DictReq) (hs : s.mem.wf = true) :
    (byClient s env p f q).1.mem.wf = true := by
  unfold byClient
  (repeat' split) <;> grind [runReq_mem, setClients_mem]

@[simp] theorem serve_mem (s : State) (env : DictEnv) (p : OPath) (f : List Byte) (hs : s.mem.wf = true) :
    (serve s env p f).1.mem.wf = true := by
  unfold serve
  (repeat' split) <;> simp_all

@[simp] theorem sendFrame_mem (s : State) (p : OPath) (f : List Byte)  :
    (sendFrame s p f).mem = s.mem := by
  unfold sendFrame
  rfl

@[simp] theorem odpArrives_mem (s : State) (row : Nat) (eid : Option Nat) (env : DictEnv) (f : List Byte) (hs : s.mem.wf = true) :
    (odpArrives s row eid env f).mem.wf = true := by
  unfold odpArrives
  (repeat' split) <;> grind [sendFrame_mem, serve_mem, wake_mem]

theorem execOdpRead_mem (eid : Option Nat) (frame : List Byte) (s : State) (hs : s.mem.wf = true) :
    ∀ t, execOdpRead eid frame s = .next t → t.mem.wf = true :=
  next_wf (by
    simp_all)

theorem execOdpWrite_mem (eid : Option Nat) (env : DictEnv) (frame : List Byte) (s : State) (hs : s.mem.wf = true) :
    ∀ t, execOdpWrite eid env frame s = .next t → t.mem.wf = true :=
  next_wf (by
    simp_all)

theorem execOdpWriteSet_mem (eid : Option Nat) (env : DictEnv) (frame : List Byte) (s : State) (hs : s.mem.wf = true) :
    ∀ t, execOdpWriteSet eid env frame s = .next t → t.mem.wf = true :=
  next_wf (by
    simp_all)

theorem execOdpReadStaged_mem (eid : Option Nat) (frame : List Byte) (s : State) (hs : s.mem.wf = true) :
    ∀ t, execOdpReadStaged eid frame s = .next t → t.mem.wf = true :=
  next_wf (by
    simp_all)

theorem execOdpEnum_mem (eid : Option Nat) (frame : List Byte) (s : State) (hs : s.mem.wf = true) :
    ∀ t, execOdpEnum eid frame s = .next t → t.mem.wf = true :=
  next_wf (by
    simp_all)

@[simp] theorem control_mem (s : State) (cmd : Nat) (r : List Byte)  :
    (control s cmd r).mem = s.mem := by
  unfold control
  (repeat' split) <;> simp

theorem execMctpSetEndpointId_mem (op eid : Nat) (s : State)  :
    ∀ t, execMctpSetEndpointId op eid s = .next t → t.mem = s.mem :=
  next_eq (by
    (repeat' split) <;> simp)

theorem execMctpGetEndpointId_mem (s : State)  :
    ∀ t, execMctpGetEndpointId s = .next t → t.mem = s.mem :=
  next_eq (by
    simp)

theorem execMctpGetVersionSupport_mem (type : Nat) (s : State)  :
    ∀ t, execMctpGetVersionSupport type s = .next t → t.mem = s.mem :=
  next_eq (by
    (repeat' split) <;> simp)

theorem execMctpGetMessageTypeSupport_mem (s : State)  :
    ∀ t, execMctpGetMessageTypeSupport s = .next t → t.mem = s.mem :=
  next_eq (by
    simp)

theorem execMctpGetVendorMsgSupport_mem (selector : Nat) (s : State)  :
    ∀ t, execMctpGetVendorMsgSupport selector s = .next t → t.mem = s.mem :=
  next_eq (by
    (repeat' split) <;> simp)

theorem execI3cEntdaa_mem (addr : Nat) (s : State)  :
    ∀ t, execI3cEntdaa addr s = .next t → t.mem = s.mem :=
  next_eq (by
    (repeat' split) <;> simp)

theorem execI3cSetdasa_mem (target addr : Nat) (s : State)  :
    ∀ t, execI3cSetdasa target addr s = .next t → t.mem = s.mem :=
  next_eq (by
    (repeat' split) <;> simp)

@[simp] theorem modMail_mem (s : State) (c : Nat) (f : Mailbox → Mailbox)  :
    (modMail s c f).mem = s.mem := by
  unfold modMail
  rfl

@[simp] theorem serveMail_mem (s : State) (c : Nat) (env : DictEnv) (hs : s.mem.wf = true) :
    (serveMail s c env).mem.wf = true := by
  unfold serveMail
  (repeat' split) <;> grind [deliverIrq_mem, modMail_mem, serve_mem]

theorem execMailboxSubmit_mem (ch : Nat) (w : W64) (env : DictEnv) (s : State) (hs : s.mem.wf = true) :
    ∀ t, execMailboxSubmit ch w env s = .next t → t.mem.wf = true :=
  next_wf (by
    (repeat' split) <;> grind [mailHead_mem, modMail_mem, serveMail_mem])

theorem execMailboxDoneClear_mem (x : MailboxWrite) (s : State)  :
    ∀ t, execMailboxDoneClear x s = .next t → t.mem = s.mem :=
  next_eq (by
    (repeat' split) <;> simp)

end Sys2Proof.Machine
end

