-- ==== Sys2Proof/Laws/State.lean ====
section
/-! SUPPORT. What each update of State writes and leaves, field by field: no later proof unfolds a record update. -/

namespace Sys2Proof.Machine

/-! setEng -/

@[simp] theorem setEng_pending (s : State) (ge : Nat) (e : Engine) : (setEng s ge e).pending = s.pending := rfl
@[simp] theorem setEng_free (s : State) (ge : Nat) (e : Engine) : (setEng s ge e).free = s.free := rfl
@[simp] theorem setEng_stamp (s : State) (ge : Nat) (e : Engine) : (setEng s ge e).stamp = s.stamp := rfl
@[simp] theorem setEng_map (s : State) (ge : Nat) (e : Engine) : (setEng s ge e).map = s.map := rfl
@[simp] theorem setEng_slots (s : State) (ge : Nat) (e : Engine) : (setEng s ge e).slots = s.slots := rfl
@[simp] theorem setEng_rein (s : State) (ge : Nat) (e : Engine) : (setEng s ge e).rein = s.rein := rfl
@[simp] theorem setEng_engines (s : State) (ge : Nat) (e : Engine) : (setEng s ge e).engines = sset {} s.engines ge e := rfl
@[simp] theorem setEng_attrCmd (s : State) (ge : Nat) (e : Engine) : (setEng s ge e).attrCmd = s.attrCmd := rfl
@[simp] theorem setEng_harn (s : State) (ge : Nat) (e : Engine) : (setEng s ge e).harn = s.harn := rfl
@[simp] theorem setEng_hcnt (s : State) (ge : Nat) (e : Engine) : (setEng s ge e).hcnt = s.hcnt := rfl
@[simp] theorem setEng_cmb (s : State) (ge : Nat) (e : Engine) : (setEng s ge e).cmb = s.cmb := rfl
@[simp] theorem setEng_trans (s : State) (ge : Nat) (e : Engine) : (setEng s ge e).trans = s.trans := rfl
@[simp] theorem setEng_offload (s : State) (ge : Nat) (e : Engine) : (setEng s ge e).offload = s.offload := rfl
@[simp] theorem setEng_ctxs (s : State) (ge : Nat) (e : Engine) : (setEng s ge e).ctxs = s.ctxs := rfl
@[simp] theorem setEng_padRanges (s : State) (ge : Nat) (e : Engine) : (setEng s ge e).padRanges = s.padRanges := rfl
@[simp] theorem setEng_raised (s : State) (ge : Nat) (e : Engine) : (setEng s ge e).raised = s.raised := rfl
@[simp] theorem setEng_dict (s : State) (ge : Nat) (e : Engine) : (setEng s ge e).dict = s.dict := rfl
@[simp] theorem setEng_ost (s : State) (ge : Nat) (e : Engine) : (setEng s ge e).ost = s.ost := rfl
@[simp] theorem setEng_rly (s : State) (ge : Nat) (e : Engine) : (setEng s ge e).rly = s.rly := rfl
@[simp] theorem setEng_team (s : State) (ge : Nat) (e : Engine) : (setEng s ge e).team = s.team := rfl
@[simp] theorem setEng_gens (s : State) (ge : Nat) (e : Engine) : (setEng s ge e).gens = s.gens := rfl
@[simp] theorem setEng_nvme (s : State) (ge : Nat) (e : Engine) : (setEng s ge e).nvme = s.nvme := rfl
@[simp] theorem setEng_ckpt (s : State) (ge : Nat) (e : Engine) : (setEng s ge e).ckpt = s.ckpt := rfl
@[simp] theorem setEng_pads (s : State) (ge : Nat) (e : Engine) : (setEng s ge e).pads = s.pads := rfl
@[simp] theorem setEng_claims (s : State) (ge : Nat) (e : Engine) : (setEng s ge e).claims = s.claims := rfl
@[simp] theorem setEng_rings (s : State) (ge : Nat) (e : Engine) : (setEng s ge e).rings = s.rings := rfl
@[simp] theorem setEng_hosts (s : State) (ge : Nat) (e : Engine) : (setEng s ge e).hosts = s.hosts := rfl
@[simp] theorem setEng_contain (s : State) (ge : Nat) (e : Engine) : (setEng s ge e).contain = s.contain := rfl
@[simp] theorem setEng_power (s : State) (ge : Nat) (e : Engine) : (setEng s ge e).power = s.power := rfl
@[simp] theorem setEng_book (s : State) (ge : Nat) (e : Engine) : (setEng s ge e).book = s.book := rfl
@[simp] theorem setEng_boot (s : State) (ge : Nat) (e : Engine) : (setEng s ge e).boot = s.boot := rfl
@[simp] theorem setEng_lands (s : State) (ge : Nat) (e : Engine) : (setEng s ge e).lands = s.lands := rfl
@[simp] theorem setEng_mmio (s : State) (ge : Nat) (e : Engine) : (setEng s ge e).mmio = s.mmio := rfl

/-! modEng -/

@[simp] theorem modEng_pending (s : State) (ge : Nat) (f : Engine → Engine) : (modEng s ge f).pending = s.pending := rfl
@[simp] theorem modEng_free (s : State) (ge : Nat) (f : Engine → Engine) : (modEng s ge f).free = s.free := rfl
@[simp] theorem modEng_stamp (s : State) (ge : Nat) (f : Engine → Engine) : (modEng s ge f).stamp = s.stamp := rfl
@[simp] theorem modEng_map (s : State) (ge : Nat) (f : Engine → Engine) : (modEng s ge f).map = s.map := rfl
@[simp] theorem modEng_slots (s : State) (ge : Nat) (f : Engine → Engine) : (modEng s ge f).slots = s.slots := rfl
@[simp] theorem modEng_rein (s : State) (ge : Nat) (f : Engine → Engine) : (modEng s ge f).rein = s.rein := rfl
@[simp] theorem modEng_engines (s : State) (ge : Nat) (f : Engine → Engine) : (modEng s ge f).engines = sset {} s.engines ge (f (eng s ge)) := rfl
@[simp] theorem modEng_attrCmd (s : State) (ge : Nat) (f : Engine → Engine) : (modEng s ge f).attrCmd = s.attrCmd := rfl
@[simp] theorem modEng_harn (s : State) (ge : Nat) (f : Engine → Engine) : (modEng s ge f).harn = s.harn := rfl
@[simp] theorem modEng_hcnt (s : State) (ge : Nat) (f : Engine → Engine) : (modEng s ge f).hcnt = s.hcnt := rfl
@[simp] theorem modEng_cmb (s : State) (ge : Nat) (f : Engine → Engine) : (modEng s ge f).cmb = s.cmb := rfl
@[simp] theorem modEng_trans (s : State) (ge : Nat) (f : Engine → Engine) : (modEng s ge f).trans = s.trans := rfl
@[simp] theorem modEng_offload (s : State) (ge : Nat) (f : Engine → Engine) : (modEng s ge f).offload = s.offload := rfl
@[simp] theorem modEng_ctxs (s : State) (ge : Nat) (f : Engine → Engine) : (modEng s ge f).ctxs = s.ctxs := rfl
@[simp] theorem modEng_padRanges (s : State) (ge : Nat) (f : Engine → Engine) : (modEng s ge f).padRanges = s.padRanges := rfl
@[simp] theorem modEng_raised (s : State) (ge : Nat) (f : Engine → Engine) : (modEng s ge f).raised = s.raised := rfl
@[simp] theorem modEng_dict (s : State) (ge : Nat) (f : Engine → Engine) : (modEng s ge f).dict = s.dict := rfl
@[simp] theorem modEng_ost (s : State) (ge : Nat) (f : Engine → Engine) : (modEng s ge f).ost = s.ost := rfl
@[simp] theorem modEng_rly (s : State) (ge : Nat) (f : Engine → Engine) : (modEng s ge f).rly = s.rly := rfl
@[simp] theorem modEng_team (s : State) (ge : Nat) (f : Engine → Engine) : (modEng s ge f).team = s.team := rfl
@[simp] theorem modEng_gens (s : State) (ge : Nat) (f : Engine → Engine) : (modEng s ge f).gens = s.gens := rfl
@[simp] theorem modEng_nvme (s : State) (ge : Nat) (f : Engine → Engine) : (modEng s ge f).nvme = s.nvme := rfl
@[simp] theorem modEng_ckpt (s : State) (ge : Nat) (f : Engine → Engine) : (modEng s ge f).ckpt = s.ckpt := rfl
@[simp] theorem modEng_pads (s : State) (ge : Nat) (f : Engine → Engine) : (modEng s ge f).pads = s.pads := rfl
@[simp] theorem modEng_claims (s : State) (ge : Nat) (f : Engine → Engine) : (modEng s ge f).claims = s.claims := rfl
@[simp] theorem modEng_rings (s : State) (ge : Nat) (f : Engine → Engine) : (modEng s ge f).rings = s.rings := rfl
@[simp] theorem modEng_hosts (s : State) (ge : Nat) (f : Engine → Engine) : (modEng s ge f).hosts = s.hosts := rfl
@[simp] theorem modEng_contain (s : State) (ge : Nat) (f : Engine → Engine) : (modEng s ge f).contain = s.contain := rfl
@[simp] theorem modEng_power (s : State) (ge : Nat) (f : Engine → Engine) : (modEng s ge f).power = s.power := rfl
@[simp] theorem modEng_book (s : State) (ge : Nat) (f : Engine → Engine) : (modEng s ge f).book = s.book := rfl
@[simp] theorem modEng_boot (s : State) (ge : Nat) (f : Engine → Engine) : (modEng s ge f).boot = s.boot := rfl
@[simp] theorem modEng_lands (s : State) (ge : Nat) (f : Engine → Engine) : (modEng s ge f).lands = s.lands := rfl
@[simp] theorem modEng_mmio (s : State) (ge : Nat) (f : Engine → Engine) : (modEng s ge f).mmio = s.mmio := rfl

/-! modArr -/

@[simp] theorem modArr_pending (s : State) (ge a : Nat) (f : Arr → Arr) : (modArr s ge a f).pending = s.pending := rfl
@[simp] theorem modArr_free (s : State) (ge a : Nat) (f : Arr → Arr) : (modArr s ge a f).free = s.free := rfl
@[simp] theorem modArr_stamp (s : State) (ge a : Nat) (f : Arr → Arr) : (modArr s ge a f).stamp = s.stamp := rfl
@[simp] theorem modArr_map (s : State) (ge a : Nat) (f : Arr → Arr) : (modArr s ge a f).map = s.map := rfl
@[simp] theorem modArr_slots (s : State) (ge a : Nat) (f : Arr → Arr) : (modArr s ge a f).slots = s.slots := rfl
@[simp] theorem modArr_rein (s : State) (ge a : Nat) (f : Arr → Arr) : (modArr s ge a f).rein = s.rein := rfl
@[simp] theorem modArr_attrCmd (s : State) (ge a : Nat) (f : Arr → Arr) : (modArr s ge a f).attrCmd = s.attrCmd := rfl
@[simp] theorem modArr_harn (s : State) (ge a : Nat) (f : Arr → Arr) : (modArr s ge a f).harn = s.harn := rfl
@[simp] theorem modArr_hcnt (s : State) (ge a : Nat) (f : Arr → Arr) : (modArr s ge a f).hcnt = s.hcnt := rfl
@[simp] theorem modArr_cmb (s : State) (ge a : Nat) (f : Arr → Arr) : (modArr s ge a f).cmb = s.cmb := rfl
@[simp] theorem modArr_trans (s : State) (ge a : Nat) (f : Arr → Arr) : (modArr s ge a f).trans = s.trans := rfl
@[simp] theorem modArr_offload (s : State) (ge a : Nat) (f : Arr → Arr) : (modArr s ge a f).offload = s.offload := rfl
@[simp] theorem modArr_ctxs (s : State) (ge a : Nat) (f : Arr → Arr) : (modArr s ge a f).ctxs = s.ctxs := rfl
@[simp] theorem modArr_padRanges (s : State) (ge a : Nat) (f : Arr → Arr) : (modArr s ge a f).padRanges = s.padRanges := rfl
@[simp] theorem modArr_raised (s : State) (ge a : Nat) (f : Arr → Arr) : (modArr s ge a f).raised = s.raised := rfl
@[simp] theorem modArr_dict (s : State) (ge a : Nat) (f : Arr → Arr) : (modArr s ge a f).dict = s.dict := rfl
@[simp] theorem modArr_ost (s : State) (ge a : Nat) (f : Arr → Arr) : (modArr s ge a f).ost = s.ost := rfl
@[simp] theorem modArr_rly (s : State) (ge a : Nat) (f : Arr → Arr) : (modArr s ge a f).rly = s.rly := rfl
@[simp] theorem modArr_team (s : State) (ge a : Nat) (f : Arr → Arr) : (modArr s ge a f).team = s.team := rfl
@[simp] theorem modArr_gens (s : State) (ge a : Nat) (f : Arr → Arr) : (modArr s ge a f).gens = s.gens := rfl
@[simp] theorem modArr_nvme (s : State) (ge a : Nat) (f : Arr → Arr) : (modArr s ge a f).nvme = s.nvme := rfl
@[simp] theorem modArr_ckpt (s : State) (ge a : Nat) (f : Arr → Arr) : (modArr s ge a f).ckpt = s.ckpt := rfl
@[simp] theorem modArr_pads (s : State) (ge a : Nat) (f : Arr → Arr) : (modArr s ge a f).pads = s.pads := rfl
@[simp] theorem modArr_claims (s : State) (ge a : Nat) (f : Arr → Arr) : (modArr s ge a f).claims = s.claims := rfl
@[simp] theorem modArr_rings (s : State) (ge a : Nat) (f : Arr → Arr) : (modArr s ge a f).rings = s.rings := rfl
@[simp] theorem modArr_hosts (s : State) (ge a : Nat) (f : Arr → Arr) : (modArr s ge a f).hosts = s.hosts := rfl
@[simp] theorem modArr_contain (s : State) (ge a : Nat) (f : Arr → Arr) : (modArr s ge a f).contain = s.contain := rfl
@[simp] theorem modArr_power (s : State) (ge a : Nat) (f : Arr → Arr) : (modArr s ge a f).power = s.power := rfl
@[simp] theorem modArr_book (s : State) (ge a : Nat) (f : Arr → Arr) : (modArr s ge a f).book = s.book := rfl
@[simp] theorem modArr_boot (s : State) (ge a : Nat) (f : Arr → Arr) : (modArr s ge a f).boot = s.boot := rfl
@[simp] theorem modArr_lands (s : State) (ge a : Nat) (f : Arr → Arr) : (modArr s ge a f).lands = s.lands := rfl
@[simp] theorem modArr_mmio (s : State) (ge a : Nat) (f : Arr → Arr) : (modArr s ge a f).mmio = s.mmio := rfl

/-! modAcc -/

@[simp] theorem modAcc_pending (s : State) (ge a : Nat) (f : Acc → Acc) : (modAcc s ge a f).pending = s.pending := rfl
@[simp] theorem modAcc_free (s : State) (ge a : Nat) (f : Acc → Acc) : (modAcc s ge a f).free = s.free := rfl
@[simp] theorem modAcc_stamp (s : State) (ge a : Nat) (f : Acc → Acc) : (modAcc s ge a f).stamp = s.stamp := rfl
@[simp] theorem modAcc_map (s : State) (ge a : Nat) (f : Acc → Acc) : (modAcc s ge a f).map = s.map := rfl
@[simp] theorem modAcc_slots (s : State) (ge a : Nat) (f : Acc → Acc) : (modAcc s ge a f).slots = s.slots := rfl
@[simp] theorem modAcc_rein (s : State) (ge a : Nat) (f : Acc → Acc) : (modAcc s ge a f).rein = s.rein := rfl
@[simp] theorem modAcc_attrCmd (s : State) (ge a : Nat) (f : Acc → Acc) : (modAcc s ge a f).attrCmd = s.attrCmd := rfl
@[simp] theorem modAcc_harn (s : State) (ge a : Nat) (f : Acc → Acc) : (modAcc s ge a f).harn = s.harn := rfl
@[simp] theorem modAcc_hcnt (s : State) (ge a : Nat) (f : Acc → Acc) : (modAcc s ge a f).hcnt = s.hcnt := rfl
@[simp] theorem modAcc_cmb (s : State) (ge a : Nat) (f : Acc → Acc) : (modAcc s ge a f).cmb = s.cmb := rfl
@[simp] theorem modAcc_trans (s : State) (ge a : Nat) (f : Acc → Acc) : (modAcc s ge a f).trans = s.trans := rfl
@[simp] theorem modAcc_offload (s : State) (ge a : Nat) (f : Acc → Acc) : (modAcc s ge a f).offload = s.offload := rfl
@[simp] theorem modAcc_ctxs (s : State) (ge a : Nat) (f : Acc → Acc) : (modAcc s ge a f).ctxs = s.ctxs := rfl
@[simp] theorem modAcc_padRanges (s : State) (ge a : Nat) (f : Acc → Acc) : (modAcc s ge a f).padRanges = s.padRanges := rfl
@[simp] theorem modAcc_raised (s : State) (ge a : Nat) (f : Acc → Acc) : (modAcc s ge a f).raised = s.raised := rfl
@[simp] theorem modAcc_dict (s : State) (ge a : Nat) (f : Acc → Acc) : (modAcc s ge a f).dict = s.dict := rfl
@[simp] theorem modAcc_ost (s : State) (ge a : Nat) (f : Acc → Acc) : (modAcc s ge a f).ost = s.ost := rfl
@[simp] theorem modAcc_rly (s : State) (ge a : Nat) (f : Acc → Acc) : (modAcc s ge a f).rly = s.rly := rfl
@[simp] theorem modAcc_team (s : State) (ge a : Nat) (f : Acc → Acc) : (modAcc s ge a f).team = s.team := rfl
@[simp] theorem modAcc_gens (s : State) (ge a : Nat) (f : Acc → Acc) : (modAcc s ge a f).gens = s.gens := rfl
@[simp] theorem modAcc_nvme (s : State) (ge a : Nat) (f : Acc → Acc) : (modAcc s ge a f).nvme = s.nvme := rfl
@[simp] theorem modAcc_ckpt (s : State) (ge a : Nat) (f : Acc → Acc) : (modAcc s ge a f).ckpt = s.ckpt := rfl
@[simp] theorem modAcc_pads (s : State) (ge a : Nat) (f : Acc → Acc) : (modAcc s ge a f).pads = s.pads := rfl
@[simp] theorem modAcc_claims (s : State) (ge a : Nat) (f : Acc → Acc) : (modAcc s ge a f).claims = s.claims := rfl
@[simp] theorem modAcc_rings (s : State) (ge a : Nat) (f : Acc → Acc) : (modAcc s ge a f).rings = s.rings := rfl
@[simp] theorem modAcc_hosts (s : State) (ge a : Nat) (f : Acc → Acc) : (modAcc s ge a f).hosts = s.hosts := rfl
@[simp] theorem modAcc_contain (s : State) (ge a : Nat) (f : Acc → Acc) : (modAcc s ge a f).contain = s.contain := rfl
@[simp] theorem modAcc_power (s : State) (ge a : Nat) (f : Acc → Acc) : (modAcc s ge a f).power = s.power := rfl
@[simp] theorem modAcc_book (s : State) (ge a : Nat) (f : Acc → Acc) : (modAcc s ge a f).book = s.book := rfl
@[simp] theorem modAcc_boot (s : State) (ge a : Nat) (f : Acc → Acc) : (modAcc s ge a f).boot = s.boot := rfl
@[simp] theorem modAcc_lands (s : State) (ge a : Nat) (f : Acc → Acc) : (modAcc s ge a f).lands = s.lands := rfl
@[simp] theorem modAcc_mmio (s : State) (ge a : Nat) (f : Acc → Acc) : (modAcc s ge a f).mmio = s.mmio := rfl

/-! modHarn -/

@[simp] theorem modHarn_pending (s : State) (f : Harness → Harness) : (modHarn s f).pending = s.pending := rfl
@[simp] theorem modHarn_free (s : State) (f : Harness → Harness) : (modHarn s f).free = s.free := rfl
@[simp] theorem modHarn_stamp (s : State) (f : Harness → Harness) : (modHarn s f).stamp = s.stamp := rfl
@[simp] theorem modHarn_map (s : State) (f : Harness → Harness) : (modHarn s f).map = s.map := rfl
@[simp] theorem modHarn_slots (s : State) (f : Harness → Harness) : (modHarn s f).slots = s.slots := rfl
@[simp] theorem modHarn_rein (s : State) (f : Harness → Harness) : (modHarn s f).rein = s.rein := rfl
@[simp] theorem modHarn_engines (s : State) (f : Harness → Harness) : (modHarn s f).engines = s.engines := rfl
@[simp] theorem modHarn_attrCmd (s : State) (f : Harness → Harness) : (modHarn s f).attrCmd = s.attrCmd := rfl
@[simp] theorem modHarn_harn (s : State) (f : Harness → Harness) : (modHarn s f).harn = f s.harn := rfl
@[simp] theorem modHarn_hcnt (s : State) (f : Harness → Harness) : (modHarn s f).hcnt = s.hcnt := rfl
@[simp] theorem modHarn_cmb (s : State) (f : Harness → Harness) : (modHarn s f).cmb = s.cmb := rfl
@[simp] theorem modHarn_trans (s : State) (f : Harness → Harness) : (modHarn s f).trans = s.trans := rfl
@[simp] theorem modHarn_offload (s : State) (f : Harness → Harness) : (modHarn s f).offload = s.offload := rfl
@[simp] theorem modHarn_ctxs (s : State) (f : Harness → Harness) : (modHarn s f).ctxs = s.ctxs := rfl
@[simp] theorem modHarn_padRanges (s : State) (f : Harness → Harness) : (modHarn s f).padRanges = s.padRanges := rfl
@[simp] theorem modHarn_raised (s : State) (f : Harness → Harness) : (modHarn s f).raised = s.raised := rfl
@[simp] theorem modHarn_dict (s : State) (f : Harness → Harness) : (modHarn s f).dict = s.dict := rfl
@[simp] theorem modHarn_ost (s : State) (f : Harness → Harness) : (modHarn s f).ost = s.ost := rfl
@[simp] theorem modHarn_rly (s : State) (f : Harness → Harness) : (modHarn s f).rly = s.rly := rfl
@[simp] theorem modHarn_team (s : State) (f : Harness → Harness) : (modHarn s f).team = s.team := rfl
@[simp] theorem modHarn_gens (s : State) (f : Harness → Harness) : (modHarn s f).gens = s.gens := rfl
@[simp] theorem modHarn_nvme (s : State) (f : Harness → Harness) : (modHarn s f).nvme = s.nvme := rfl
@[simp] theorem modHarn_ckpt (s : State) (f : Harness → Harness) : (modHarn s f).ckpt = s.ckpt := rfl
@[simp] theorem modHarn_pads (s : State) (f : Harness → Harness) : (modHarn s f).pads = s.pads := rfl
@[simp] theorem modHarn_claims (s : State) (f : Harness → Harness) : (modHarn s f).claims = s.claims := rfl
@[simp] theorem modHarn_rings (s : State) (f : Harness → Harness) : (modHarn s f).rings = s.rings := rfl
@[simp] theorem modHarn_hosts (s : State) (f : Harness → Harness) : (modHarn s f).hosts = s.hosts := rfl
@[simp] theorem modHarn_contain (s : State) (f : Harness → Harness) : (modHarn s f).contain = s.contain := rfl
@[simp] theorem modHarn_power (s : State) (f : Harness → Harness) : (modHarn s f).power = s.power := rfl
@[simp] theorem modHarn_book (s : State) (f : Harness → Harness) : (modHarn s f).book = s.book := rfl
@[simp] theorem modHarn_boot (s : State) (f : Harness → Harness) : (modHarn s f).boot = s.boot := rfl
@[simp] theorem modHarn_lands (s : State) (f : Harness → Harness) : (modHarn s f).lands = s.lands := rfl
@[simp] theorem modHarn_mmio (s : State) (f : Harness → Harness) : (modHarn s f).mmio = s.mmio := rfl

/-! setDir -/

@[simp] theorem setDir_pending (s : State) (l : Nat) (v : Option DirEnt) : (setDir s l v).pending = s.pending := rfl
@[simp] theorem setDir_free (s : State) (l : Nat) (v : Option DirEnt) : (setDir s l v).free = s.free := rfl
@[simp] theorem setDir_stamp (s : State) (l : Nat) (v : Option DirEnt) : (setDir s l v).stamp = s.stamp := rfl
@[simp] theorem setDir_map (s : State) (l : Nat) (v : Option DirEnt) : (setDir s l v).map = s.map := rfl
@[simp] theorem setDir_slots (s : State) (l : Nat) (v : Option DirEnt) : (setDir s l v).slots = s.slots := rfl
@[simp] theorem setDir_rein (s : State) (l : Nat) (v : Option DirEnt) : (setDir s l v).rein = s.rein := rfl
@[simp] theorem setDir_engines (s : State) (l : Nat) (v : Option DirEnt) : (setDir s l v).engines = s.engines := rfl
@[simp] theorem setDir_attrCmd (s : State) (l : Nat) (v : Option DirEnt) : (setDir s l v).attrCmd = s.attrCmd := rfl
@[simp] theorem setDir_hcnt (s : State) (l : Nat) (v : Option DirEnt) : (setDir s l v).hcnt = s.hcnt := rfl
@[simp] theorem setDir_cmb (s : State) (l : Nat) (v : Option DirEnt) : (setDir s l v).cmb = s.cmb := rfl
@[simp] theorem setDir_trans (s : State) (l : Nat) (v : Option DirEnt) : (setDir s l v).trans = s.trans := rfl
@[simp] theorem setDir_offload (s : State) (l : Nat) (v : Option DirEnt) : (setDir s l v).offload = s.offload := rfl
@[simp] theorem setDir_ctxs (s : State) (l : Nat) (v : Option DirEnt) : (setDir s l v).ctxs = s.ctxs := rfl
@[simp] theorem setDir_padRanges (s : State) (l : Nat) (v : Option DirEnt) : (setDir s l v).padRanges = s.padRanges := rfl
@[simp] theorem setDir_raised (s : State) (l : Nat) (v : Option DirEnt) : (setDir s l v).raised = s.raised := rfl
@[simp] theorem setDir_dict (s : State) (l : Nat) (v : Option DirEnt) : (setDir s l v).dict = s.dict := rfl
@[simp] theorem setDir_ost (s : State) (l : Nat) (v : Option DirEnt) : (setDir s l v).ost = s.ost := rfl
@[simp] theorem setDir_rly (s : State) (l : Nat) (v : Option DirEnt) : (setDir s l v).rly = s.rly := rfl
@[simp] theorem setDir_team (s : State) (l : Nat) (v : Option DirEnt) : (setDir s l v).team = s.team := rfl
@[simp] theorem setDir_gens (s : State) (l : Nat) (v : Option DirEnt) : (setDir s l v).gens = s.gens := rfl
@[simp] theorem setDir_nvme (s : State) (l : Nat) (v : Option DirEnt) : (setDir s l v).nvme = s.nvme := rfl
@[simp] theorem setDir_ckpt (s : State) (l : Nat) (v : Option DirEnt) : (setDir s l v).ckpt = s.ckpt := rfl
@[simp] theorem setDir_pads (s : State) (l : Nat) (v : Option DirEnt) : (setDir s l v).pads = s.pads := rfl
@[simp] theorem setDir_claims (s : State) (l : Nat) (v : Option DirEnt) : (setDir s l v).claims = s.claims := rfl
@[simp] theorem setDir_rings (s : State) (l : Nat) (v : Option DirEnt) : (setDir s l v).rings = s.rings := rfl
@[simp] theorem setDir_hosts (s : State) (l : Nat) (v : Option DirEnt) : (setDir s l v).hosts = s.hosts := rfl
@[simp] theorem setDir_contain (s : State) (l : Nat) (v : Option DirEnt) : (setDir s l v).contain = s.contain := rfl
@[simp] theorem setDir_power (s : State) (l : Nat) (v : Option DirEnt) : (setDir s l v).power = s.power := rfl
@[simp] theorem setDir_book (s : State) (l : Nat) (v : Option DirEnt) : (setDir s l v).book = s.book := rfl
@[simp] theorem setDir_boot (s : State) (l : Nat) (v : Option DirEnt) : (setDir s l v).boot = s.boot := rfl
@[simp] theorem setDir_lands (s : State) (l : Nat) (v : Option DirEnt) : (setDir s l v).lands = s.lands := rfl
@[simp] theorem setDir_mmio (s : State) (l : Nat) (v : Option DirEnt) : (setDir s l v).mmio = s.mmio := rfl

/-! setCached -/

@[simp] theorem setCached_pending (s : State) (a l : Nat) (v : Option CLine) : (setCached s a l v).pending = s.pending := rfl
@[simp] theorem setCached_free (s : State) (a l : Nat) (v : Option CLine) : (setCached s a l v).free = s.free := rfl
@[simp] theorem setCached_stamp (s : State) (a l : Nat) (v : Option CLine) : (setCached s a l v).stamp = s.stamp := rfl
@[simp] theorem setCached_map (s : State) (a l : Nat) (v : Option CLine) : (setCached s a l v).map = s.map := rfl
@[simp] theorem setCached_slots (s : State) (a l : Nat) (v : Option CLine) : (setCached s a l v).slots = s.slots := rfl
@[simp] theorem setCached_rein (s : State) (a l : Nat) (v : Option CLine) : (setCached s a l v).rein = s.rein := rfl
@[simp] theorem setCached_engines (s : State) (a l : Nat) (v : Option CLine) : (setCached s a l v).engines = s.engines := rfl
@[simp] theorem setCached_attrCmd (s : State) (a l : Nat) (v : Option CLine) : (setCached s a l v).attrCmd = s.attrCmd := rfl
@[simp] theorem setCached_hcnt (s : State) (a l : Nat) (v : Option CLine) : (setCached s a l v).hcnt = s.hcnt := rfl
@[simp] theorem setCached_cmb (s : State) (a l : Nat) (v : Option CLine) : (setCached s a l v).cmb = s.cmb := rfl
@[simp] theorem setCached_trans (s : State) (a l : Nat) (v : Option CLine) : (setCached s a l v).trans = s.trans := rfl
@[simp] theorem setCached_offload (s : State) (a l : Nat) (v : Option CLine) : (setCached s a l v).offload = s.offload := rfl
@[simp] theorem setCached_ctxs (s : State) (a l : Nat) (v : Option CLine) : (setCached s a l v).ctxs = s.ctxs := rfl
@[simp] theorem setCached_padRanges (s : State) (a l : Nat) (v : Option CLine) : (setCached s a l v).padRanges = s.padRanges := rfl
@[simp] theorem setCached_raised (s : State) (a l : Nat) (v : Option CLine) : (setCached s a l v).raised = s.raised := rfl
@[simp] theorem setCached_dict (s : State) (a l : Nat) (v : Option CLine) : (setCached s a l v).dict = s.dict := rfl
@[simp] theorem setCached_ost (s : State) (a l : Nat) (v : Option CLine) : (setCached s a l v).ost = s.ost := rfl
@[simp] theorem setCached_rly (s : State) (a l : Nat) (v : Option CLine) : (setCached s a l v).rly = s.rly := rfl
@[simp] theorem setCached_team (s : State) (a l : Nat) (v : Option CLine) : (setCached s a l v).team = s.team := rfl
@[simp] theorem setCached_gens (s : State) (a l : Nat) (v : Option CLine) : (setCached s a l v).gens = s.gens := rfl
@[simp] theorem setCached_nvme (s : State) (a l : Nat) (v : Option CLine) : (setCached s a l v).nvme = s.nvme := rfl
@[simp] theorem setCached_ckpt (s : State) (a l : Nat) (v : Option CLine) : (setCached s a l v).ckpt = s.ckpt := rfl
@[simp] theorem setCached_pads (s : State) (a l : Nat) (v : Option CLine) : (setCached s a l v).pads = s.pads := rfl
@[simp] theorem setCached_claims (s : State) (a l : Nat) (v : Option CLine) : (setCached s a l v).claims = s.claims := rfl
@[simp] theorem setCached_rings (s : State) (a l : Nat) (v : Option CLine) : (setCached s a l v).rings = s.rings := rfl
@[simp] theorem setCached_hosts (s : State) (a l : Nat) (v : Option CLine) : (setCached s a l v).hosts = s.hosts := rfl
@[simp] theorem setCached_contain (s : State) (a l : Nat) (v : Option CLine) : (setCached s a l v).contain = s.contain := rfl
@[simp] theorem setCached_power (s : State) (a l : Nat) (v : Option CLine) : (setCached s a l v).power = s.power := rfl
@[simp] theorem setCached_book (s : State) (a l : Nat) (v : Option CLine) : (setCached s a l v).book = s.book := rfl
@[simp] theorem setCached_boot (s : State) (a l : Nat) (v : Option CLine) : (setCached s a l v).boot = s.boot := rfl
@[simp] theorem setCached_lands (s : State) (a l : Nat) (v : Option CLine) : (setCached s a l v).lands = s.lands := rfl
@[simp] theorem setCached_mmio (s : State) (a l : Nat) (v : Option CLine) : (setCached s a l v).mmio = s.mmio := rfl

/-! modPower -/

@[simp] theorem modPower_pending (s : State) (f : Power → Power) : (modPower s f).pending = s.pending := rfl
@[simp] theorem modPower_free (s : State) (f : Power → Power) : (modPower s f).free = s.free := rfl
@[simp] theorem modPower_stamp (s : State) (f : Power → Power) : (modPower s f).stamp = s.stamp := rfl
@[simp] theorem modPower_map (s : State) (f : Power → Power) : (modPower s f).map = s.map := rfl
@[simp] theorem modPower_slots (s : State) (f : Power → Power) : (modPower s f).slots = s.slots := rfl
@[simp] theorem modPower_rein (s : State) (f : Power → Power) : (modPower s f).rein = s.rein := rfl
@[simp] theorem modPower_engines (s : State) (f : Power → Power) : (modPower s f).engines = s.engines := rfl
@[simp] theorem modPower_attrCmd (s : State) (f : Power → Power) : (modPower s f).attrCmd = s.attrCmd := rfl
@[simp] theorem modPower_harn (s : State) (f : Power → Power) : (modPower s f).harn = s.harn := rfl
@[simp] theorem modPower_hcnt (s : State) (f : Power → Power) : (modPower s f).hcnt = s.hcnt := rfl
@[simp] theorem modPower_cmb (s : State) (f : Power → Power) : (modPower s f).cmb = s.cmb := rfl
@[simp] theorem modPower_trans (s : State) (f : Power → Power) : (modPower s f).trans = s.trans := rfl
@[simp] theorem modPower_offload (s : State) (f : Power → Power) : (modPower s f).offload = s.offload := rfl
@[simp] theorem modPower_ctxs (s : State) (f : Power → Power) : (modPower s f).ctxs = s.ctxs := rfl
@[simp] theorem modPower_padRanges (s : State) (f : Power → Power) : (modPower s f).padRanges = s.padRanges := rfl
@[simp] theorem modPower_raised (s : State) (f : Power → Power) : (modPower s f).raised = s.raised := rfl
@[simp] theorem modPower_dict (s : State) (f : Power → Power) : (modPower s f).dict = s.dict := rfl
@[simp] theorem modPower_ost (s : State) (f : Power → Power) : (modPower s f).ost = s.ost := rfl
@[simp] theorem modPower_rly (s : State) (f : Power → Power) : (modPower s f).rly = s.rly := rfl
@[simp] theorem modPower_team (s : State) (f : Power → Power) : (modPower s f).team = s.team := rfl
@[simp] theorem modPower_gens (s : State) (f : Power → Power) : (modPower s f).gens = s.gens := rfl
@[simp] theorem modPower_nvme (s : State) (f : Power → Power) : (modPower s f).nvme = s.nvme := rfl
@[simp] theorem modPower_ckpt (s : State) (f : Power → Power) : (modPower s f).ckpt = s.ckpt := rfl
@[simp] theorem modPower_pads (s : State) (f : Power → Power) : (modPower s f).pads = s.pads := rfl
@[simp] theorem modPower_claims (s : State) (f : Power → Power) : (modPower s f).claims = s.claims := rfl
@[simp] theorem modPower_rings (s : State) (f : Power → Power) : (modPower s f).rings = s.rings := rfl
@[simp] theorem modPower_hosts (s : State) (f : Power → Power) : (modPower s f).hosts = s.hosts := rfl
@[simp] theorem modPower_contain (s : State) (f : Power → Power) : (modPower s f).contain = s.contain := rfl
@[simp] theorem modPower_power (s : State) (f : Power → Power) : (modPower s f).power = f s.power := rfl
@[simp] theorem modPower_book (s : State) (f : Power → Power) : (modPower s f).book = s.book := rfl
@[simp] theorem modPower_boot (s : State) (f : Power → Power) : (modPower s f).boot = s.boot := rfl
@[simp] theorem modPower_lands (s : State) (f : Power → Power) : (modPower s f).lands = s.lands := rfl
@[simp] theorem modPower_mmio (s : State) (f : Power → Power) : (modPower s f).mmio = s.mmio := rfl

/-! modDie -/

@[simp] theorem modDie_pending (s : State) (d : Nat) (f : DiePower → DiePower) : (modDie s d f).pending = s.pending := rfl
@[simp] theorem modDie_free (s : State) (d : Nat) (f : DiePower → DiePower) : (modDie s d f).free = s.free := rfl
@[simp] theorem modDie_stamp (s : State) (d : Nat) (f : DiePower → DiePower) : (modDie s d f).stamp = s.stamp := rfl
@[simp] theorem modDie_map (s : State) (d : Nat) (f : DiePower → DiePower) : (modDie s d f).map = s.map := rfl
@[simp] theorem modDie_slots (s : State) (d : Nat) (f : DiePower → DiePower) : (modDie s d f).slots = s.slots := rfl
@[simp] theorem modDie_rein (s : State) (d : Nat) (f : DiePower → DiePower) : (modDie s d f).rein = s.rein := rfl
@[simp] theorem modDie_engines (s : State) (d : Nat) (f : DiePower → DiePower) : (modDie s d f).engines = s.engines := rfl
@[simp] theorem modDie_attrCmd (s : State) (d : Nat) (f : DiePower → DiePower) : (modDie s d f).attrCmd = s.attrCmd := rfl
@[simp] theorem modDie_harn (s : State) (d : Nat) (f : DiePower → DiePower) : (modDie s d f).harn = s.harn := rfl
@[simp] theorem modDie_hcnt (s : State) (d : Nat) (f : DiePower → DiePower) : (modDie s d f).hcnt = s.hcnt := rfl
@[simp] theorem modDie_cmb (s : State) (d : Nat) (f : DiePower → DiePower) : (modDie s d f).cmb = s.cmb := rfl
@[simp] theorem modDie_trans (s : State) (d : Nat) (f : DiePower → DiePower) : (modDie s d f).trans = s.trans := rfl
@[simp] theorem modDie_offload (s : State) (d : Nat) (f : DiePower → DiePower) : (modDie s d f).offload = s.offload := rfl
@[simp] theorem modDie_ctxs (s : State) (d : Nat) (f : DiePower → DiePower) : (modDie s d f).ctxs = s.ctxs := rfl
@[simp] theorem modDie_padRanges (s : State) (d : Nat) (f : DiePower → DiePower) : (modDie s d f).padRanges = s.padRanges := rfl
@[simp] theorem modDie_raised (s : State) (d : Nat) (f : DiePower → DiePower) : (modDie s d f).raised = s.raised := rfl
@[simp] theorem modDie_dict (s : State) (d : Nat) (f : DiePower → DiePower) : (modDie s d f).dict = s.dict := rfl
@[simp] theorem modDie_ost (s : State) (d : Nat) (f : DiePower → DiePower) : (modDie s d f).ost = s.ost := rfl
@[simp] theorem modDie_rly (s : State) (d : Nat) (f : DiePower → DiePower) : (modDie s d f).rly = s.rly := rfl
@[simp] theorem modDie_team (s : State) (d : Nat) (f : DiePower → DiePower) : (modDie s d f).team = s.team := rfl
@[simp] theorem modDie_gens (s : State) (d : Nat) (f : DiePower → DiePower) : (modDie s d f).gens = s.gens := rfl
@[simp] theorem modDie_nvme (s : State) (d : Nat) (f : DiePower → DiePower) : (modDie s d f).nvme = s.nvme := rfl
@[simp] theorem modDie_ckpt (s : State) (d : Nat) (f : DiePower → DiePower) : (modDie s d f).ckpt = s.ckpt := rfl
@[simp] theorem modDie_pads (s : State) (d : Nat) (f : DiePower → DiePower) : (modDie s d f).pads = s.pads := rfl
@[simp] theorem modDie_claims (s : State) (d : Nat) (f : DiePower → DiePower) : (modDie s d f).claims = s.claims := rfl
@[simp] theorem modDie_rings (s : State) (d : Nat) (f : DiePower → DiePower) : (modDie s d f).rings = s.rings := rfl
@[simp] theorem modDie_hosts (s : State) (d : Nat) (f : DiePower → DiePower) : (modDie s d f).hosts = s.hosts := rfl
@[simp] theorem modDie_contain (s : State) (d : Nat) (f : DiePower → DiePower) : (modDie s d f).contain = s.contain := rfl
@[simp] theorem modDie_book (s : State) (d : Nat) (f : DiePower → DiePower) : (modDie s d f).book = s.book := rfl
@[simp] theorem modDie_boot (s : State) (d : Nat) (f : DiePower → DiePower) : (modDie s d f).boot = s.boot := rfl
@[simp] theorem modDie_lands (s : State) (d : Nat) (f : DiePower → DiePower) : (modDie s d f).lands = s.lands := rfl
@[simp] theorem modDie_mmio (s : State) (d : Nat) (f : DiePower → DiePower) : (modDie s d f).mmio = s.mmio := rfl

/-! modCtx -/

@[simp] theorem modCtx_pending (s : State) (c : Nat) (f : Ctx → Ctx) : (modCtx s c f).pending = s.pending := rfl
@[simp] theorem modCtx_free (s : State) (c : Nat) (f : Ctx → Ctx) : (modCtx s c f).free = s.free := rfl
@[simp] theorem modCtx_stamp (s : State) (c : Nat) (f : Ctx → Ctx) : (modCtx s c f).stamp = s.stamp := rfl
@[simp] theorem modCtx_map (s : State) (c : Nat) (f : Ctx → Ctx) : (modCtx s c f).map = s.map := rfl
@[simp] theorem modCtx_slots (s : State) (c : Nat) (f : Ctx → Ctx) : (modCtx s c f).slots = s.slots := rfl
@[simp] theorem modCtx_rein (s : State) (c : Nat) (f : Ctx → Ctx) : (modCtx s c f).rein = s.rein := rfl
@[simp] theorem modCtx_engines (s : State) (c : Nat) (f : Ctx → Ctx) : (modCtx s c f).engines = s.engines := rfl
@[simp] theorem modCtx_attrCmd (s : State) (c : Nat) (f : Ctx → Ctx) : (modCtx s c f).attrCmd = s.attrCmd := rfl
@[simp] theorem modCtx_harn (s : State) (c : Nat) (f : Ctx → Ctx) : (modCtx s c f).harn = s.harn := rfl
@[simp] theorem modCtx_hcnt (s : State) (c : Nat) (f : Ctx → Ctx) : (modCtx s c f).hcnt = s.hcnt := rfl
@[simp] theorem modCtx_cmb (s : State) (c : Nat) (f : Ctx → Ctx) : (modCtx s c f).cmb = s.cmb := rfl
@[simp] theorem modCtx_trans (s : State) (c : Nat) (f : Ctx → Ctx) : (modCtx s c f).trans = s.trans := rfl
@[simp] theorem modCtx_offload (s : State) (c : Nat) (f : Ctx → Ctx) : (modCtx s c f).offload = s.offload := rfl
@[simp] theorem modCtx_ctxs (s : State) (c : Nat) (f : Ctx → Ctx) : (modCtx s c f).ctxs = smod {} s.ctxs c f := rfl
@[simp] theorem modCtx_padRanges (s : State) (c : Nat) (f : Ctx → Ctx) : (modCtx s c f).padRanges = s.padRanges := rfl
@[simp] theorem modCtx_raised (s : State) (c : Nat) (f : Ctx → Ctx) : (modCtx s c f).raised = s.raised := rfl
@[simp] theorem modCtx_dict (s : State) (c : Nat) (f : Ctx → Ctx) : (modCtx s c f).dict = s.dict := rfl
@[simp] theorem modCtx_ost (s : State) (c : Nat) (f : Ctx → Ctx) : (modCtx s c f).ost = s.ost := rfl
@[simp] theorem modCtx_rly (s : State) (c : Nat) (f : Ctx → Ctx) : (modCtx s c f).rly = s.rly := rfl
@[simp] theorem modCtx_team (s : State) (c : Nat) (f : Ctx → Ctx) : (modCtx s c f).team = s.team := rfl
@[simp] theorem modCtx_gens (s : State) (c : Nat) (f : Ctx → Ctx) : (modCtx s c f).gens = s.gens := rfl
@[simp] theorem modCtx_nvme (s : State) (c : Nat) (f : Ctx → Ctx) : (modCtx s c f).nvme = s.nvme := rfl
@[simp] theorem modCtx_ckpt (s : State) (c : Nat) (f : Ctx → Ctx) : (modCtx s c f).ckpt = s.ckpt := rfl
@[simp] theorem modCtx_pads (s : State) (c : Nat) (f : Ctx → Ctx) : (modCtx s c f).pads = s.pads := rfl
@[simp] theorem modCtx_claims (s : State) (c : Nat) (f : Ctx → Ctx) : (modCtx s c f).claims = s.claims := rfl
@[simp] theorem modCtx_rings (s : State) (c : Nat) (f : Ctx → Ctx) : (modCtx s c f).rings = s.rings := rfl
@[simp] theorem modCtx_hosts (s : State) (c : Nat) (f : Ctx → Ctx) : (modCtx s c f).hosts = s.hosts := rfl
@[simp] theorem modCtx_contain (s : State) (c : Nat) (f : Ctx → Ctx) : (modCtx s c f).contain = s.contain := rfl
@[simp] theorem modCtx_power (s : State) (c : Nat) (f : Ctx → Ctx) : (modCtx s c f).power = s.power := rfl
@[simp] theorem modCtx_book (s : State) (c : Nat) (f : Ctx → Ctx) : (modCtx s c f).book = s.book := rfl
@[simp] theorem modCtx_boot (s : State) (c : Nat) (f : Ctx → Ctx) : (modCtx s c f).boot = s.boot := rfl
@[simp] theorem modCtx_lands (s : State) (c : Nat) (f : Ctx → Ctx) : (modCtx s c f).lands = s.lands := rfl
@[simp] theorem modCtx_mmio (s : State) (c : Nat) (f : Ctx → Ctx) : (modCtx s c f).mmio = s.mmio := rfl

/-! modPad -/

@[simp] theorem modPad_pending (s : State) (p : Nat) (f : Pad → Pad) : (modPad s p f).pending = s.pending := rfl
@[simp] theorem modPad_free (s : State) (p : Nat) (f : Pad → Pad) : (modPad s p f).free = s.free := rfl
@[simp] theorem modPad_stamp (s : State) (p : Nat) (f : Pad → Pad) : (modPad s p f).stamp = s.stamp := rfl
@[simp] theorem modPad_map (s : State) (p : Nat) (f : Pad → Pad) : (modPad s p f).map = s.map := rfl
@[simp] theorem modPad_slots (s : State) (p : Nat) (f : Pad → Pad) : (modPad s p f).slots = s.slots := rfl
@[simp] theorem modPad_rein (s : State) (p : Nat) (f : Pad → Pad) : (modPad s p f).rein = s.rein := rfl
@[simp] theorem modPad_engines (s : State) (p : Nat) (f : Pad → Pad) : (modPad s p f).engines = s.engines := rfl
@[simp] theorem modPad_attrCmd (s : State) (p : Nat) (f : Pad → Pad) : (modPad s p f).attrCmd = s.attrCmd := rfl
@[simp] theorem modPad_harn (s : State) (p : Nat) (f : Pad → Pad) : (modPad s p f).harn = s.harn := rfl
@[simp] theorem modPad_hcnt (s : State) (p : Nat) (f : Pad → Pad) : (modPad s p f).hcnt = s.hcnt := rfl
@[simp] theorem modPad_cmb (s : State) (p : Nat) (f : Pad → Pad) : (modPad s p f).cmb = s.cmb := rfl
@[simp] theorem modPad_trans (s : State) (p : Nat) (f : Pad → Pad) : (modPad s p f).trans = s.trans := rfl
@[simp] theorem modPad_offload (s : State) (p : Nat) (f : Pad → Pad) : (modPad s p f).offload = s.offload := rfl
@[simp] theorem modPad_ctxs (s : State) (p : Nat) (f : Pad → Pad) : (modPad s p f).ctxs = s.ctxs := rfl
@[simp] theorem modPad_padRanges (s : State) (p : Nat) (f : Pad → Pad) : (modPad s p f).padRanges = s.padRanges := rfl
@[simp] theorem modPad_raised (s : State) (p : Nat) (f : Pad → Pad) : (modPad s p f).raised = s.raised := rfl
@[simp] theorem modPad_dict (s : State) (p : Nat) (f : Pad → Pad) : (modPad s p f).dict = s.dict := rfl
@[simp] theorem modPad_ost (s : State) (p : Nat) (f : Pad → Pad) : (modPad s p f).ost = s.ost := rfl
@[simp] theorem modPad_rly (s : State) (p : Nat) (f : Pad → Pad) : (modPad s p f).rly = s.rly := rfl
@[simp] theorem modPad_team (s : State) (p : Nat) (f : Pad → Pad) : (modPad s p f).team = s.team := rfl
@[simp] theorem modPad_gens (s : State) (p : Nat) (f : Pad → Pad) : (modPad s p f).gens = s.gens := rfl
@[simp] theorem modPad_nvme (s : State) (p : Nat) (f : Pad → Pad) : (modPad s p f).nvme = s.nvme := rfl
@[simp] theorem modPad_ckpt (s : State) (p : Nat) (f : Pad → Pad) : (modPad s p f).ckpt = s.ckpt := rfl
@[simp] theorem modPad_pads (s : State) (p : Nat) (f : Pad → Pad) : (modPad s p f).pads = smod {} s.pads p f := rfl
@[simp] theorem modPad_claims (s : State) (p : Nat) (f : Pad → Pad) : (modPad s p f).claims = s.claims := rfl
@[simp] theorem modPad_rings (s : State) (p : Nat) (f : Pad → Pad) : (modPad s p f).rings = s.rings := rfl
@[simp] theorem modPad_hosts (s : State) (p : Nat) (f : Pad → Pad) : (modPad s p f).hosts = s.hosts := rfl
@[simp] theorem modPad_contain (s : State) (p : Nat) (f : Pad → Pad) : (modPad s p f).contain = s.contain := rfl
@[simp] theorem modPad_power (s : State) (p : Nat) (f : Pad → Pad) : (modPad s p f).power = s.power := rfl
@[simp] theorem modPad_book (s : State) (p : Nat) (f : Pad → Pad) : (modPad s p f).book = s.book := rfl
@[simp] theorem modPad_boot (s : State) (p : Nat) (f : Pad → Pad) : (modPad s p f).boot = s.boot := rfl
@[simp] theorem modPad_lands (s : State) (p : Nat) (f : Pad → Pad) : (modPad s p f).lands = s.lands := rfl
@[simp] theorem modPad_mmio (s : State) (p : Nat) (f : Pad → Pad) : (modPad s p f).mmio = s.mmio := rfl

/-! modRing -/

@[simp] theorem modRing_pending (s : State) (r : Nat) (f : Ring → Ring) : (modRing s r f).pending = s.pending := rfl
@[simp] theorem modRing_free (s : State) (r : Nat) (f : Ring → Ring) : (modRing s r f).free = s.free := rfl
@[simp] theorem modRing_stamp (s : State) (r : Nat) (f : Ring → Ring) : (modRing s r f).stamp = s.stamp := rfl
@[simp] theorem modRing_map (s : State) (r : Nat) (f : Ring → Ring) : (modRing s r f).map = s.map := rfl
@[simp] theorem modRing_slots (s : State) (r : Nat) (f : Ring → Ring) : (modRing s r f).slots = s.slots := rfl
@[simp] theorem modRing_rein (s : State) (r : Nat) (f : Ring → Ring) : (modRing s r f).rein = s.rein := rfl
@[simp] theorem modRing_engines (s : State) (r : Nat) (f : Ring → Ring) : (modRing s r f).engines = s.engines := rfl
@[simp] theorem modRing_attrCmd (s : State) (r : Nat) (f : Ring → Ring) : (modRing s r f).attrCmd = s.attrCmd := rfl
@[simp] theorem modRing_harn (s : State) (r : Nat) (f : Ring → Ring) : (modRing s r f).harn = s.harn := rfl
@[simp] theorem modRing_hcnt (s : State) (r : Nat) (f : Ring → Ring) : (modRing s r f).hcnt = s.hcnt := rfl
@[simp] theorem modRing_cmb (s : State) (r : Nat) (f : Ring → Ring) : (modRing s r f).cmb = s.cmb := rfl
@[simp] theorem modRing_trans (s : State) (r : Nat) (f : Ring → Ring) : (modRing s r f).trans = s.trans := rfl
@[simp] theorem modRing_offload (s : State) (r : Nat) (f : Ring → Ring) : (modRing s r f).offload = s.offload := rfl
@[simp] theorem modRing_ctxs (s : State) (r : Nat) (f : Ring → Ring) : (modRing s r f).ctxs = s.ctxs := rfl
@[simp] theorem modRing_padRanges (s : State) (r : Nat) (f : Ring → Ring) : (modRing s r f).padRanges = s.padRanges := rfl
@[simp] theorem modRing_raised (s : State) (r : Nat) (f : Ring → Ring) : (modRing s r f).raised = s.raised := rfl
@[simp] theorem modRing_dict (s : State) (r : Nat) (f : Ring → Ring) : (modRing s r f).dict = s.dict := rfl
@[simp] theorem modRing_ost (s : State) (r : Nat) (f : Ring → Ring) : (modRing s r f).ost = s.ost := rfl
@[simp] theorem modRing_rly (s : State) (r : Nat) (f : Ring → Ring) : (modRing s r f).rly = s.rly := rfl
@[simp] theorem modRing_team (s : State) (r : Nat) (f : Ring → Ring) : (modRing s r f).team = s.team := rfl
@[simp] theorem modRing_gens (s : State) (r : Nat) (f : Ring → Ring) : (modRing s r f).gens = s.gens := rfl
@[simp] theorem modRing_nvme (s : State) (r : Nat) (f : Ring → Ring) : (modRing s r f).nvme = s.nvme := rfl
@[simp] theorem modRing_ckpt (s : State) (r : Nat) (f : Ring → Ring) : (modRing s r f).ckpt = s.ckpt := rfl
@[simp] theorem modRing_pads (s : State) (r : Nat) (f : Ring → Ring) : (modRing s r f).pads = s.pads := rfl
@[simp] theorem modRing_claims (s : State) (r : Nat) (f : Ring → Ring) : (modRing s r f).claims = s.claims := rfl
@[simp] theorem modRing_rings (s : State) (r : Nat) (f : Ring → Ring) : (modRing s r f).rings = smod {} s.rings r f := rfl
@[simp] theorem modRing_hosts (s : State) (r : Nat) (f : Ring → Ring) : (modRing s r f).hosts = s.hosts := rfl
@[simp] theorem modRing_contain (s : State) (r : Nat) (f : Ring → Ring) : (modRing s r f).contain = s.contain := rfl
@[simp] theorem modRing_power (s : State) (r : Nat) (f : Ring → Ring) : (modRing s r f).power = s.power := rfl
@[simp] theorem modRing_book (s : State) (r : Nat) (f : Ring → Ring) : (modRing s r f).book = s.book := rfl
@[simp] theorem modRing_boot (s : State) (r : Nat) (f : Ring → Ring) : (modRing s r f).boot = s.boot := rfl
@[simp] theorem modRing_lands (s : State) (r : Nat) (f : Ring → Ring) : (modRing s r f).lands = s.lands := rfl
@[simp] theorem modRing_mmio (s : State) (r : Nat) (f : Ring → Ring) : (modRing s r f).mmio = s.mmio := rfl

/-! modCtl -/

@[simp] theorem modCtl_pending (s : State) (d : Nat) (f : RingCtl → RingCtl) : (modCtl s d f).pending = s.pending := rfl
@[simp] theorem modCtl_free (s : State) (d : Nat) (f : RingCtl → RingCtl) : (modCtl s d f).free = s.free := rfl
@[simp] theorem modCtl_stamp (s : State) (d : Nat) (f : RingCtl → RingCtl) : (modCtl s d f).stamp = s.stamp := rfl
@[simp] theorem modCtl_map (s : State) (d : Nat) (f : RingCtl → RingCtl) : (modCtl s d f).map = s.map := rfl
@[simp] theorem modCtl_slots (s : State) (d : Nat) (f : RingCtl → RingCtl) : (modCtl s d f).slots = s.slots := rfl
@[simp] theorem modCtl_rein (s : State) (d : Nat) (f : RingCtl → RingCtl) : (modCtl s d f).rein = s.rein := rfl
@[simp] theorem modCtl_engines (s : State) (d : Nat) (f : RingCtl → RingCtl) : (modCtl s d f).engines = s.engines := rfl
@[simp] theorem modCtl_attrCmd (s : State) (d : Nat) (f : RingCtl → RingCtl) : (modCtl s d f).attrCmd = s.attrCmd := rfl
@[simp] theorem modCtl_harn (s : State) (d : Nat) (f : RingCtl → RingCtl) : (modCtl s d f).harn = s.harn := rfl
@[simp] theorem modCtl_hcnt (s : State) (d : Nat) (f : RingCtl → RingCtl) : (modCtl s d f).hcnt = s.hcnt := rfl
@[simp] theorem modCtl_cmb (s : State) (d : Nat) (f : RingCtl → RingCtl) : (modCtl s d f).cmb = s.cmb := rfl
@[simp] theorem modCtl_trans (s : State) (d : Nat) (f : RingCtl → RingCtl) : (modCtl s d f).trans = s.trans := rfl
@[simp] theorem modCtl_offload (s : State) (d : Nat) (f : RingCtl → RingCtl) : (modCtl s d f).offload = s.offload := rfl
@[simp] theorem modCtl_ctxs (s : State) (d : Nat) (f : RingCtl → RingCtl) : (modCtl s d f).ctxs = s.ctxs := rfl
@[simp] theorem modCtl_padRanges (s : State) (d : Nat) (f : RingCtl → RingCtl) : (modCtl s d f).padRanges = s.padRanges := rfl
@[simp] theorem modCtl_raised (s : State) (d : Nat) (f : RingCtl → RingCtl) : (modCtl s d f).raised = s.raised := rfl
@[simp] theorem modCtl_dict (s : State) (d : Nat) (f : RingCtl → RingCtl) : (modCtl s d f).dict = s.dict := rfl
@[simp] theorem modCtl_ost (s : State) (d : Nat) (f : RingCtl → RingCtl) : (modCtl s d f).ost = s.ost := rfl
@[simp] theorem modCtl_rly (s : State) (d : Nat) (f : RingCtl → RingCtl) : (modCtl s d f).rly = s.rly := rfl
@[simp] theorem modCtl_team (s : State) (d : Nat) (f : RingCtl → RingCtl) : (modCtl s d f).team = s.team := rfl
@[simp] theorem modCtl_gens (s : State) (d : Nat) (f : RingCtl → RingCtl) : (modCtl s d f).gens = s.gens := rfl
@[simp] theorem modCtl_nvme (s : State) (d : Nat) (f : RingCtl → RingCtl) : (modCtl s d f).nvme = s.nvme := rfl
@[simp] theorem modCtl_ckpt (s : State) (d : Nat) (f : RingCtl → RingCtl) : (modCtl s d f).ckpt = s.ckpt := rfl
@[simp] theorem modCtl_pads (s : State) (d : Nat) (f : RingCtl → RingCtl) : (modCtl s d f).pads = s.pads := rfl
@[simp] theorem modCtl_claims (s : State) (d : Nat) (f : RingCtl → RingCtl) : (modCtl s d f).claims = s.claims := rfl
@[simp] theorem modCtl_rings (s : State) (d : Nat) (f : RingCtl → RingCtl) : (modCtl s d f).rings = s.rings := rfl
@[simp] theorem modCtl_contain (s : State) (d : Nat) (f : RingCtl → RingCtl) : (modCtl s d f).contain = s.contain := rfl
@[simp] theorem modCtl_power (s : State) (d : Nat) (f : RingCtl → RingCtl) : (modCtl s d f).power = s.power := rfl
@[simp] theorem modCtl_book (s : State) (d : Nat) (f : RingCtl → RingCtl) : (modCtl s d f).book = s.book := rfl
@[simp] theorem modCtl_boot (s : State) (d : Nat) (f : RingCtl → RingCtl) : (modCtl s d f).boot = s.boot := rfl
@[simp] theorem modCtl_lands (s : State) (d : Nat) (f : RingCtl → RingCtl) : (modCtl s d f).lands = s.lands := rfl
@[simp] theorem modCtl_mmio (s : State) (d : Nat) (f : RingCtl → RingCtl) : (modCtl s d f).mmio = s.mmio := rfl

/-! setStrm -/

@[simp] theorem setStrm_pending (s : State) (k : Nat) (v : Stream) : (setStrm s k v).pending = s.pending := rfl
@[simp] theorem setStrm_free (s : State) (k : Nat) (v : Stream) : (setStrm s k v).free = s.free := rfl
@[simp] theorem setStrm_stamp (s : State) (k : Nat) (v : Stream) : (setStrm s k v).stamp = s.stamp := rfl
@[simp] theorem setStrm_map (s : State) (k : Nat) (v : Stream) : (setStrm s k v).map = s.map := rfl
@[simp] theorem setStrm_slots (s : State) (k : Nat) (v : Stream) : (setStrm s k v).slots = s.slots := rfl
@[simp] theorem setStrm_rein (s : State) (k : Nat) (v : Stream) : (setStrm s k v).rein = s.rein := rfl
@[simp] theorem setStrm_engines (s : State) (k : Nat) (v : Stream) : (setStrm s k v).engines = s.engines := rfl
@[simp] theorem setStrm_attrCmd (s : State) (k : Nat) (v : Stream) : (setStrm s k v).attrCmd = s.attrCmd := rfl
@[simp] theorem setStrm_harn (s : State) (k : Nat) (v : Stream) : (setStrm s k v).harn = s.harn := rfl
@[simp] theorem setStrm_hcnt (s : State) (k : Nat) (v : Stream) : (setStrm s k v).hcnt = s.hcnt := rfl
@[simp] theorem setStrm_cmb (s : State) (k : Nat) (v : Stream) : (setStrm s k v).cmb = s.cmb := rfl
@[simp] theorem setStrm_trans (s : State) (k : Nat) (v : Stream) : (setStrm s k v).trans = s.trans := rfl
@[simp] theorem setStrm_offload (s : State) (k : Nat) (v : Stream) : (setStrm s k v).offload = s.offload := rfl
@[simp] theorem setStrm_ctxs (s : State) (k : Nat) (v : Stream) : (setStrm s k v).ctxs = s.ctxs := rfl
@[simp] theorem setStrm_padRanges (s : State) (k : Nat) (v : Stream) : (setStrm s k v).padRanges = s.padRanges := rfl
@[simp] theorem setStrm_raised (s : State) (k : Nat) (v : Stream) : (setStrm s k v).raised = s.raised := rfl
@[simp] theorem setStrm_dict (s : State) (k : Nat) (v : Stream) : (setStrm s k v).dict = s.dict := rfl
@[simp] theorem setStrm_ost (s : State) (k : Nat) (v : Stream) : (setStrm s k v).ost = s.ost := rfl
@[simp] theorem setStrm_team (s : State) (k : Nat) (v : Stream) : (setStrm s k v).team = s.team := rfl
@[simp] theorem setStrm_gens (s : State) (k : Nat) (v : Stream) : (setStrm s k v).gens = s.gens := rfl
@[simp] theorem setStrm_nvme (s : State) (k : Nat) (v : Stream) : (setStrm s k v).nvme = s.nvme := rfl
@[simp] theorem setStrm_ckpt (s : State) (k : Nat) (v : Stream) : (setStrm s k v).ckpt = s.ckpt := rfl
@[simp] theorem setStrm_pads (s : State) (k : Nat) (v : Stream) : (setStrm s k v).pads = s.pads := rfl
@[simp] theorem setStrm_claims (s : State) (k : Nat) (v : Stream) : (setStrm s k v).claims = s.claims := rfl
@[simp] theorem setStrm_rings (s : State) (k : Nat) (v : Stream) : (setStrm s k v).rings = s.rings := rfl
@[simp] theorem setStrm_hosts (s : State) (k : Nat) (v : Stream) : (setStrm s k v).hosts = s.hosts := rfl
@[simp] theorem setStrm_contain (s : State) (k : Nat) (v : Stream) : (setStrm s k v).contain = s.contain := rfl
@[simp] theorem setStrm_power (s : State) (k : Nat) (v : Stream) : (setStrm s k v).power = s.power := rfl
@[simp] theorem setStrm_book (s : State) (k : Nat) (v : Stream) : (setStrm s k v).book = s.book := rfl
@[simp] theorem setStrm_boot (s : State) (k : Nat) (v : Stream) : (setStrm s k v).boot = s.boot := rfl
@[simp] theorem setStrm_lands (s : State) (k : Nat) (v : Stream) : (setStrm s k v).lands = s.lands := rfl
@[simp] theorem setStrm_mmio (s : State) (k : Nat) (v : Stream) : (setStrm s k v).mmio = s.mmio := rfl

/-! modStrm -/

@[simp] theorem modStrm_pending (s : State) (k : Nat) (f : Stream → Stream) : (modStrm s k f).pending = s.pending := rfl
@[simp] theorem modStrm_free (s : State) (k : Nat) (f : Stream → Stream) : (modStrm s k f).free = s.free := rfl
@[simp] theorem modStrm_stamp (s : State) (k : Nat) (f : Stream → Stream) : (modStrm s k f).stamp = s.stamp := rfl
@[simp] theorem modStrm_map (s : State) (k : Nat) (f : Stream → Stream) : (modStrm s k f).map = s.map := rfl
@[simp] theorem modStrm_slots (s : State) (k : Nat) (f : Stream → Stream) : (modStrm s k f).slots = s.slots := rfl
@[simp] theorem modStrm_rein (s : State) (k : Nat) (f : Stream → Stream) : (modStrm s k f).rein = s.rein := rfl
@[simp] theorem modStrm_engines (s : State) (k : Nat) (f : Stream → Stream) : (modStrm s k f).engines = s.engines := rfl
@[simp] theorem modStrm_attrCmd (s : State) (k : Nat) (f : Stream → Stream) : (modStrm s k f).attrCmd = s.attrCmd := rfl
@[simp] theorem modStrm_harn (s : State) (k : Nat) (f : Stream → Stream) : (modStrm s k f).harn = s.harn := rfl
@[simp] theorem modStrm_hcnt (s : State) (k : Nat) (f : Stream → Stream) : (modStrm s k f).hcnt = s.hcnt := rfl
@[simp] theorem modStrm_cmb (s : State) (k : Nat) (f : Stream → Stream) : (modStrm s k f).cmb = s.cmb := rfl
@[simp] theorem modStrm_trans (s : State) (k : Nat) (f : Stream → Stream) : (modStrm s k f).trans = s.trans := rfl
@[simp] theorem modStrm_offload (s : State) (k : Nat) (f : Stream → Stream) : (modStrm s k f).offload = s.offload := rfl
@[simp] theorem modStrm_ctxs (s : State) (k : Nat) (f : Stream → Stream) : (modStrm s k f).ctxs = s.ctxs := rfl
@[simp] theorem modStrm_padRanges (s : State) (k : Nat) (f : Stream → Stream) : (modStrm s k f).padRanges = s.padRanges := rfl
@[simp] theorem modStrm_raised (s : State) (k : Nat) (f : Stream → Stream) : (modStrm s k f).raised = s.raised := rfl
@[simp] theorem modStrm_dict (s : State) (k : Nat) (f : Stream → Stream) : (modStrm s k f).dict = s.dict := rfl
@[simp] theorem modStrm_ost (s : State) (k : Nat) (f : Stream → Stream) : (modStrm s k f).ost = s.ost := rfl
@[simp] theorem modStrm_team (s : State) (k : Nat) (f : Stream → Stream) : (modStrm s k f).team = s.team := rfl
@[simp] theorem modStrm_gens (s : State) (k : Nat) (f : Stream → Stream) : (modStrm s k f).gens = s.gens := rfl
@[simp] theorem modStrm_nvme (s : State) (k : Nat) (f : Stream → Stream) : (modStrm s k f).nvme = s.nvme := rfl
@[simp] theorem modStrm_ckpt (s : State) (k : Nat) (f : Stream → Stream) : (modStrm s k f).ckpt = s.ckpt := rfl
@[simp] theorem modStrm_pads (s : State) (k : Nat) (f : Stream → Stream) : (modStrm s k f).pads = s.pads := rfl
@[simp] theorem modStrm_claims (s : State) (k : Nat) (f : Stream → Stream) : (modStrm s k f).claims = s.claims := rfl
@[simp] theorem modStrm_rings (s : State) (k : Nat) (f : Stream → Stream) : (modStrm s k f).rings = s.rings := rfl
@[simp] theorem modStrm_hosts (s : State) (k : Nat) (f : Stream → Stream) : (modStrm s k f).hosts = s.hosts := rfl
@[simp] theorem modStrm_contain (s : State) (k : Nat) (f : Stream → Stream) : (modStrm s k f).contain = s.contain := rfl
@[simp] theorem modStrm_power (s : State) (k : Nat) (f : Stream → Stream) : (modStrm s k f).power = s.power := rfl
@[simp] theorem modStrm_book (s : State) (k : Nat) (f : Stream → Stream) : (modStrm s k f).book = s.book := rfl
@[simp] theorem modStrm_boot (s : State) (k : Nat) (f : Stream → Stream) : (modStrm s k f).boot = s.boot := rfl
@[simp] theorem modStrm_lands (s : State) (k : Nat) (f : Stream → Stream) : (modStrm s k f).lands = s.lands := rfl
@[simp] theorem modStrm_mmio (s : State) (k : Nat) (f : Stream → Stream) : (modStrm s k f).mmio = s.mmio := rfl

/-! setSrx -/

@[simp] theorem setSrx_pending (s : State) (k : Nat) (v : StreamRx) : (setSrx s k v).pending = s.pending := rfl
@[simp] theorem setSrx_free (s : State) (k : Nat) (v : StreamRx) : (setSrx s k v).free = s.free := rfl
@[simp] theorem setSrx_stamp (s : State) (k : Nat) (v : StreamRx) : (setSrx s k v).stamp = s.stamp := rfl
@[simp] theorem setSrx_map (s : State) (k : Nat) (v : StreamRx) : (setSrx s k v).map = s.map := rfl
@[simp] theorem setSrx_slots (s : State) (k : Nat) (v : StreamRx) : (setSrx s k v).slots = s.slots := rfl
@[simp] theorem setSrx_rein (s : State) (k : Nat) (v : StreamRx) : (setSrx s k v).rein = s.rein := rfl
@[simp] theorem setSrx_engines (s : State) (k : Nat) (v : StreamRx) : (setSrx s k v).engines = s.engines := rfl
@[simp] theorem setSrx_attrCmd (s : State) (k : Nat) (v : StreamRx) : (setSrx s k v).attrCmd = s.attrCmd := rfl
@[simp] theorem setSrx_harn (s : State) (k : Nat) (v : StreamRx) : (setSrx s k v).harn = s.harn := rfl
@[simp] theorem setSrx_hcnt (s : State) (k : Nat) (v : StreamRx) : (setSrx s k v).hcnt = s.hcnt := rfl
@[simp] theorem setSrx_cmb (s : State) (k : Nat) (v : StreamRx) : (setSrx s k v).cmb = s.cmb := rfl
@[simp] theorem setSrx_trans (s : State) (k : Nat) (v : StreamRx) : (setSrx s k v).trans = s.trans := rfl
@[simp] theorem setSrx_offload (s : State) (k : Nat) (v : StreamRx) : (setSrx s k v).offload = s.offload := rfl
@[simp] theorem setSrx_ctxs (s : State) (k : Nat) (v : StreamRx) : (setSrx s k v).ctxs = s.ctxs := rfl
@[simp] theorem setSrx_padRanges (s : State) (k : Nat) (v : StreamRx) : (setSrx s k v).padRanges = s.padRanges := rfl
@[simp] theorem setSrx_raised (s : State) (k : Nat) (v : StreamRx) : (setSrx s k v).raised = s.raised := rfl
@[simp] theorem setSrx_dict (s : State) (k : Nat) (v : StreamRx) : (setSrx s k v).dict = s.dict := rfl
@[simp] theorem setSrx_ost (s : State) (k : Nat) (v : StreamRx) : (setSrx s k v).ost = s.ost := rfl
@[simp] theorem setSrx_team (s : State) (k : Nat) (v : StreamRx) : (setSrx s k v).team = s.team := rfl
@[simp] theorem setSrx_gens (s : State) (k : Nat) (v : StreamRx) : (setSrx s k v).gens = s.gens := rfl
@[simp] theorem setSrx_nvme (s : State) (k : Nat) (v : StreamRx) : (setSrx s k v).nvme = s.nvme := rfl
@[simp] theorem setSrx_ckpt (s : State) (k : Nat) (v : StreamRx) : (setSrx s k v).ckpt = s.ckpt := rfl
@[simp] theorem setSrx_pads (s : State) (k : Nat) (v : StreamRx) : (setSrx s k v).pads = s.pads := rfl
@[simp] theorem setSrx_claims (s : State) (k : Nat) (v : StreamRx) : (setSrx s k v).claims = s.claims := rfl
@[simp] theorem setSrx_rings (s : State) (k : Nat) (v : StreamRx) : (setSrx s k v).rings = s.rings := rfl
@[simp] theorem setSrx_hosts (s : State) (k : Nat) (v : StreamRx) : (setSrx s k v).hosts = s.hosts := rfl
@[simp] theorem setSrx_contain (s : State) (k : Nat) (v : StreamRx) : (setSrx s k v).contain = s.contain := rfl
@[simp] theorem setSrx_power (s : State) (k : Nat) (v : StreamRx) : (setSrx s k v).power = s.power := rfl
@[simp] theorem setSrx_book (s : State) (k : Nat) (v : StreamRx) : (setSrx s k v).book = s.book := rfl
@[simp] theorem setSrx_boot (s : State) (k : Nat) (v : StreamRx) : (setSrx s k v).boot = s.boot := rfl
@[simp] theorem setSrx_lands (s : State) (k : Nat) (v : StreamRx) : (setSrx s k v).lands = s.lands := rfl
@[simp] theorem setSrx_mmio (s : State) (k : Nat) (v : StreamRx) : (setSrx s k v).mmio = s.mmio := rfl

/-! modSrx -/

@[simp] theorem modSrx_pending (s : State) (k : Nat) (f : StreamRx → StreamRx) : (modSrx s k f).pending = s.pending := rfl
@[simp] theorem modSrx_free (s : State) (k : Nat) (f : StreamRx → StreamRx) : (modSrx s k f).free = s.free := rfl
@[simp] theorem modSrx_stamp (s : State) (k : Nat) (f : StreamRx → StreamRx) : (modSrx s k f).stamp = s.stamp := rfl
@[simp] theorem modSrx_map (s : State) (k : Nat) (f : StreamRx → StreamRx) : (modSrx s k f).map = s.map := rfl
@[simp] theorem modSrx_slots (s : State) (k : Nat) (f : StreamRx → StreamRx) : (modSrx s k f).slots = s.slots := rfl
@[simp] theorem modSrx_rein (s : State) (k : Nat) (f : StreamRx → StreamRx) : (modSrx s k f).rein = s.rein := rfl
@[simp] theorem modSrx_engines (s : State) (k : Nat) (f : StreamRx → StreamRx) : (modSrx s k f).engines = s.engines := rfl
@[simp] theorem modSrx_attrCmd (s : State) (k : Nat) (f : StreamRx → StreamRx) : (modSrx s k f).attrCmd = s.attrCmd := rfl
@[simp] theorem modSrx_harn (s : State) (k : Nat) (f : StreamRx → StreamRx) : (modSrx s k f).harn = s.harn := rfl
@[simp] theorem modSrx_hcnt (s : State) (k : Nat) (f : StreamRx → StreamRx) : (modSrx s k f).hcnt = s.hcnt := rfl
@[simp] theorem modSrx_cmb (s : State) (k : Nat) (f : StreamRx → StreamRx) : (modSrx s k f).cmb = s.cmb := rfl
@[simp] theorem modSrx_trans (s : State) (k : Nat) (f : StreamRx → StreamRx) : (modSrx s k f).trans = s.trans := rfl
@[simp] theorem modSrx_offload (s : State) (k : Nat) (f : StreamRx → StreamRx) : (modSrx s k f).offload = s.offload := rfl
@[simp] theorem modSrx_ctxs (s : State) (k : Nat) (f : StreamRx → StreamRx) : (modSrx s k f).ctxs = s.ctxs := rfl
@[simp] theorem modSrx_padRanges (s : State) (k : Nat) (f : StreamRx → StreamRx) : (modSrx s k f).padRanges = s.padRanges := rfl
@[simp] theorem modSrx_raised (s : State) (k : Nat) (f : StreamRx → StreamRx) : (modSrx s k f).raised = s.raised := rfl
@[simp] theorem modSrx_dict (s : State) (k : Nat) (f : StreamRx → StreamRx) : (modSrx s k f).dict = s.dict := rfl
@[simp] theorem modSrx_ost (s : State) (k : Nat) (f : StreamRx → StreamRx) : (modSrx s k f).ost = s.ost := rfl
@[simp] theorem modSrx_team (s : State) (k : Nat) (f : StreamRx → StreamRx) : (modSrx s k f).team = s.team := rfl
@[simp] theorem modSrx_gens (s : State) (k : Nat) (f : StreamRx → StreamRx) : (modSrx s k f).gens = s.gens := rfl
@[simp] theorem modSrx_nvme (s : State) (k : Nat) (f : StreamRx → StreamRx) : (modSrx s k f).nvme = s.nvme := rfl
@[simp] theorem modSrx_ckpt (s : State) (k : Nat) (f : StreamRx → StreamRx) : (modSrx s k f).ckpt = s.ckpt := rfl
@[simp] theorem modSrx_pads (s : State) (k : Nat) (f : StreamRx → StreamRx) : (modSrx s k f).pads = s.pads := rfl
@[simp] theorem modSrx_claims (s : State) (k : Nat) (f : StreamRx → StreamRx) : (modSrx s k f).claims = s.claims := rfl
@[simp] theorem modSrx_rings (s : State) (k : Nat) (f : StreamRx → StreamRx) : (modSrx s k f).rings = s.rings := rfl
@[simp] theorem modSrx_hosts (s : State) (k : Nat) (f : StreamRx → StreamRx) : (modSrx s k f).hosts = s.hosts := rfl
@[simp] theorem modSrx_contain (s : State) (k : Nat) (f : StreamRx → StreamRx) : (modSrx s k f).contain = s.contain := rfl
@[simp] theorem modSrx_power (s : State) (k : Nat) (f : StreamRx → StreamRx) : (modSrx s k f).power = s.power := rfl
@[simp] theorem modSrx_book (s : State) (k : Nat) (f : StreamRx → StreamRx) : (modSrx s k f).book = s.book := rfl
@[simp] theorem modSrx_boot (s : State) (k : Nat) (f : StreamRx → StreamRx) : (modSrx s k f).boot = s.boot := rfl
@[simp] theorem modSrx_lands (s : State) (k : Nat) (f : StreamRx → StreamRx) : (modSrx s k f).lands = s.lands := rfl
@[simp] theorem modSrx_mmio (s : State) (k : Nat) (f : StreamRx → StreamRx) : (modSrx s k f).mmio = s.mmio := rfl

/-! modStep -/

@[simp] theorem modStep_pending (s : State) (k : Nat) (f : StepSt → StepSt) : (modStep s k f).pending = s.pending := rfl
@[simp] theorem modStep_free (s : State) (k : Nat) (f : StepSt → StepSt) : (modStep s k f).free = s.free := rfl
@[simp] theorem modStep_stamp (s : State) (k : Nat) (f : StepSt → StepSt) : (modStep s k f).stamp = s.stamp := rfl
@[simp] theorem modStep_map (s : State) (k : Nat) (f : StepSt → StepSt) : (modStep s k f).map = s.map := rfl
@[simp] theorem modStep_slots (s : State) (k : Nat) (f : StepSt → StepSt) : (modStep s k f).slots = s.slots := rfl
@[simp] theorem modStep_rein (s : State) (k : Nat) (f : StepSt → StepSt) : (modStep s k f).rein = s.rein := rfl
@[simp] theorem modStep_engines (s : State) (k : Nat) (f : StepSt → StepSt) : (modStep s k f).engines = s.engines := rfl
@[simp] theorem modStep_attrCmd (s : State) (k : Nat) (f : StepSt → StepSt) : (modStep s k f).attrCmd = s.attrCmd := rfl
@[simp] theorem modStep_harn (s : State) (k : Nat) (f : StepSt → StepSt) : (modStep s k f).harn = s.harn := rfl
@[simp] theorem modStep_hcnt (s : State) (k : Nat) (f : StepSt → StepSt) : (modStep s k f).hcnt = s.hcnt := rfl
@[simp] theorem modStep_cmb (s : State) (k : Nat) (f : StepSt → StepSt) : (modStep s k f).cmb = s.cmb := rfl
@[simp] theorem modStep_trans (s : State) (k : Nat) (f : StepSt → StepSt) : (modStep s k f).trans = s.trans := rfl
@[simp] theorem modStep_offload (s : State) (k : Nat) (f : StepSt → StepSt) : (modStep s k f).offload = s.offload := rfl
@[simp] theorem modStep_ctxs (s : State) (k : Nat) (f : StepSt → StepSt) : (modStep s k f).ctxs = s.ctxs := rfl
@[simp] theorem modStep_padRanges (s : State) (k : Nat) (f : StepSt → StepSt) : (modStep s k f).padRanges = s.padRanges := rfl
@[simp] theorem modStep_raised (s : State) (k : Nat) (f : StepSt → StepSt) : (modStep s k f).raised = s.raised := rfl
@[simp] theorem modStep_dict (s : State) (k : Nat) (f : StepSt → StepSt) : (modStep s k f).dict = s.dict := rfl
@[simp] theorem modStep_ost (s : State) (k : Nat) (f : StepSt → StepSt) : (modStep s k f).ost = s.ost := rfl
@[simp] theorem modStep_team (s : State) (k : Nat) (f : StepSt → StepSt) : (modStep s k f).team = s.team := rfl
@[simp] theorem modStep_gens (s : State) (k : Nat) (f : StepSt → StepSt) : (modStep s k f).gens = s.gens := rfl
@[simp] theorem modStep_nvme (s : State) (k : Nat) (f : StepSt → StepSt) : (modStep s k f).nvme = s.nvme := rfl
@[simp] theorem modStep_ckpt (s : State) (k : Nat) (f : StepSt → StepSt) : (modStep s k f).ckpt = s.ckpt := rfl
@[simp] theorem modStep_pads (s : State) (k : Nat) (f : StepSt → StepSt) : (modStep s k f).pads = s.pads := rfl
@[simp] theorem modStep_claims (s : State) (k : Nat) (f : StepSt → StepSt) : (modStep s k f).claims = s.claims := rfl
@[simp] theorem modStep_rings (s : State) (k : Nat) (f : StepSt → StepSt) : (modStep s k f).rings = s.rings := rfl
@[simp] theorem modStep_hosts (s : State) (k : Nat) (f : StepSt → StepSt) : (modStep s k f).hosts = s.hosts := rfl
@[simp] theorem modStep_contain (s : State) (k : Nat) (f : StepSt → StepSt) : (modStep s k f).contain = s.contain := rfl
@[simp] theorem modStep_power (s : State) (k : Nat) (f : StepSt → StepSt) : (modStep s k f).power = s.power := rfl
@[simp] theorem modStep_book (s : State) (k : Nat) (f : StepSt → StepSt) : (modStep s k f).book = s.book := rfl
@[simp] theorem modStep_boot (s : State) (k : Nat) (f : StepSt → StepSt) : (modStep s k f).boot = s.boot := rfl
@[simp] theorem modStep_lands (s : State) (k : Nat) (f : StepSt → StepSt) : (modStep s k f).lands = s.lands := rfl
@[simp] theorem modStep_mmio (s : State) (k : Nat) (f : StepSt → StepSt) : (modStep s k f).mmio = s.mmio := rfl

/-! modPort -/

@[simp] theorem modPort_pending (s : State) (p : Nat) (f : Port → Port) : (modPort s p f).pending = s.pending := rfl
@[simp] theorem modPort_free (s : State) (p : Nat) (f : Port → Port) : (modPort s p f).free = s.free := rfl
@[simp] theorem modPort_stamp (s : State) (p : Nat) (f : Port → Port) : (modPort s p f).stamp = s.stamp := rfl
@[simp] theorem modPort_map (s : State) (p : Nat) (f : Port → Port) : (modPort s p f).map = s.map := rfl
@[simp] theorem modPort_slots (s : State) (p : Nat) (f : Port → Port) : (modPort s p f).slots = s.slots := rfl
@[simp] theorem modPort_rein (s : State) (p : Nat) (f : Port → Port) : (modPort s p f).rein = s.rein := rfl
@[simp] theorem modPort_engines (s : State) (p : Nat) (f : Port → Port) : (modPort s p f).engines = s.engines := rfl
@[simp] theorem modPort_attrCmd (s : State) (p : Nat) (f : Port → Port) : (modPort s p f).attrCmd = s.attrCmd := rfl
@[simp] theorem modPort_harn (s : State) (p : Nat) (f : Port → Port) : (modPort s p f).harn = s.harn := rfl
@[simp] theorem modPort_hcnt (s : State) (p : Nat) (f : Port → Port) : (modPort s p f).hcnt = s.hcnt := rfl
@[simp] theorem modPort_cmb (s : State) (p : Nat) (f : Port → Port) : (modPort s p f).cmb = s.cmb := rfl
@[simp] theorem modPort_trans (s : State) (p : Nat) (f : Port → Port) : (modPort s p f).trans = s.trans := rfl
@[simp] theorem modPort_offload (s : State) (p : Nat) (f : Port → Port) : (modPort s p f).offload = s.offload := rfl
@[simp] theorem modPort_ctxs (s : State) (p : Nat) (f : Port → Port) : (modPort s p f).ctxs = s.ctxs := rfl
@[simp] theorem modPort_padRanges (s : State) (p : Nat) (f : Port → Port) : (modPort s p f).padRanges = s.padRanges := rfl
@[simp] theorem modPort_raised (s : State) (p : Nat) (f : Port → Port) : (modPort s p f).raised = s.raised := rfl
@[simp] theorem modPort_dict (s : State) (p : Nat) (f : Port → Port) : (modPort s p f).dict = s.dict := rfl
@[simp] theorem modPort_ost (s : State) (p : Nat) (f : Port → Port) : (modPort s p f).ost = s.ost := rfl
@[simp] theorem modPort_team (s : State) (p : Nat) (f : Port → Port) : (modPort s p f).team = s.team := rfl
@[simp] theorem modPort_gens (s : State) (p : Nat) (f : Port → Port) : (modPort s p f).gens = s.gens := rfl
@[simp] theorem modPort_nvme (s : State) (p : Nat) (f : Port → Port) : (modPort s p f).nvme = s.nvme := rfl
@[simp] theorem modPort_ckpt (s : State) (p : Nat) (f : Port → Port) : (modPort s p f).ckpt = s.ckpt := rfl
@[simp] theorem modPort_pads (s : State) (p : Nat) (f : Port → Port) : (modPort s p f).pads = s.pads := rfl
@[simp] theorem modPort_claims (s : State) (p : Nat) (f : Port → Port) : (modPort s p f).claims = s.claims := rfl
@[simp] theorem modPort_rings (s : State) (p : Nat) (f : Port → Port) : (modPort s p f).rings = s.rings := rfl
@[simp] theorem modPort_hosts (s : State) (p : Nat) (f : Port → Port) : (modPort s p f).hosts = s.hosts := rfl
@[simp] theorem modPort_contain (s : State) (p : Nat) (f : Port → Port) : (modPort s p f).contain = s.contain := rfl
@[simp] theorem modPort_power (s : State) (p : Nat) (f : Port → Port) : (modPort s p f).power = s.power := rfl
@[simp] theorem modPort_book (s : State) (p : Nat) (f : Port → Port) : (modPort s p f).book = s.book := rfl
@[simp] theorem modPort_boot (s : State) (p : Nat) (f : Port → Port) : (modPort s p f).boot = s.boot := rfl
@[simp] theorem modPort_lands (s : State) (p : Nat) (f : Port → Port) : (modPort s p f).lands = s.lands := rfl
@[simp] theorem modPort_mmio (s : State) (p : Nat) (f : Port → Port) : (modPort s p f).mmio = s.mmio := rfl

/-! modBoot -/

@[simp] theorem modBoot_pending (s : State) (f : Boot → Boot) : (modBoot s f).pending = s.pending := rfl
@[simp] theorem modBoot_free (s : State) (f : Boot → Boot) : (modBoot s f).free = s.free := rfl
@[simp] theorem modBoot_stamp (s : State) (f : Boot → Boot) : (modBoot s f).stamp = s.stamp := rfl
@[simp] theorem modBoot_map (s : State) (f : Boot → Boot) : (modBoot s f).map = s.map := rfl
@[simp] theorem modBoot_slots (s : State) (f : Boot → Boot) : (modBoot s f).slots = s.slots := rfl
@[simp] theorem modBoot_rein (s : State) (f : Boot → Boot) : (modBoot s f).rein = s.rein := rfl
@[simp] theorem modBoot_engines (s : State) (f : Boot → Boot) : (modBoot s f).engines = s.engines := rfl
@[simp] theorem modBoot_attrCmd (s : State) (f : Boot → Boot) : (modBoot s f).attrCmd = s.attrCmd := rfl
@[simp] theorem modBoot_harn (s : State) (f : Boot → Boot) : (modBoot s f).harn = s.harn := rfl
@[simp] theorem modBoot_hcnt (s : State) (f : Boot → Boot) : (modBoot s f).hcnt = s.hcnt := rfl
@[simp] theorem modBoot_cmb (s : State) (f : Boot → Boot) : (modBoot s f).cmb = s.cmb := rfl
@[simp] theorem modBoot_trans (s : State) (f : Boot → Boot) : (modBoot s f).trans = s.trans := rfl
@[simp] theorem modBoot_offload (s : State) (f : Boot → Boot) : (modBoot s f).offload = s.offload := rfl
@[simp] theorem modBoot_ctxs (s : State) (f : Boot → Boot) : (modBoot s f).ctxs = s.ctxs := rfl
@[simp] theorem modBoot_padRanges (s : State) (f : Boot → Boot) : (modBoot s f).padRanges = s.padRanges := rfl
@[simp] theorem modBoot_raised (s : State) (f : Boot → Boot) : (modBoot s f).raised = s.raised := rfl
@[simp] theorem modBoot_dict (s : State) (f : Boot → Boot) : (modBoot s f).dict = s.dict := rfl
@[simp] theorem modBoot_ost (s : State) (f : Boot → Boot) : (modBoot s f).ost = s.ost := rfl
@[simp] theorem modBoot_rly (s : State) (f : Boot → Boot) : (modBoot s f).rly = s.rly := rfl
@[simp] theorem modBoot_team (s : State) (f : Boot → Boot) : (modBoot s f).team = s.team := rfl
@[simp] theorem modBoot_gens (s : State) (f : Boot → Boot) : (modBoot s f).gens = s.gens := rfl
@[simp] theorem modBoot_nvme (s : State) (f : Boot → Boot) : (modBoot s f).nvme = s.nvme := rfl
@[simp] theorem modBoot_ckpt (s : State) (f : Boot → Boot) : (modBoot s f).ckpt = s.ckpt := rfl
@[simp] theorem modBoot_pads (s : State) (f : Boot → Boot) : (modBoot s f).pads = s.pads := rfl
@[simp] theorem modBoot_claims (s : State) (f : Boot → Boot) : (modBoot s f).claims = s.claims := rfl
@[simp] theorem modBoot_rings (s : State) (f : Boot → Boot) : (modBoot s f).rings = s.rings := rfl
@[simp] theorem modBoot_hosts (s : State) (f : Boot → Boot) : (modBoot s f).hosts = s.hosts := rfl
@[simp] theorem modBoot_contain (s : State) (f : Boot → Boot) : (modBoot s f).contain = s.contain := rfl
@[simp] theorem modBoot_power (s : State) (f : Boot → Boot) : (modBoot s f).power = s.power := rfl
@[simp] theorem modBoot_book (s : State) (f : Boot → Boot) : (modBoot s f).book = s.book := rfl
@[simp] theorem modBoot_boot (s : State) (f : Boot → Boot) : (modBoot s f).boot = f s.boot := rfl
@[simp] theorem modBoot_lands (s : State) (f : Boot → Boot) : (modBoot s f).lands = s.lands := rfl
@[simp] theorem modBoot_mmio (s : State) (f : Boot → Boot) : (modBoot s f).mmio = s.mmio := rfl

/-! modOst -/

@[simp] theorem modOst_pending (s : State) (f : Ostler → Ostler) : (modOst s f).pending = s.pending := rfl
@[simp] theorem modOst_free (s : State) (f : Ostler → Ostler) : (modOst s f).free = s.free := rfl
@[simp] theorem modOst_stamp (s : State) (f : Ostler → Ostler) : (modOst s f).stamp = s.stamp := rfl
@[simp] theorem modOst_map (s : State) (f : Ostler → Ostler) : (modOst s f).map = s.map := rfl
@[simp] theorem modOst_slots (s : State) (f : Ostler → Ostler) : (modOst s f).slots = s.slots := rfl
@[simp] theorem modOst_rein (s : State) (f : Ostler → Ostler) : (modOst s f).rein = s.rein := rfl
@[simp] theorem modOst_engines (s : State) (f : Ostler → Ostler) : (modOst s f).engines = s.engines := rfl
@[simp] theorem modOst_attrCmd (s : State) (f : Ostler → Ostler) : (modOst s f).attrCmd = s.attrCmd := rfl
@[simp] theorem modOst_harn (s : State) (f : Ostler → Ostler) : (modOst s f).harn = s.harn := rfl
@[simp] theorem modOst_hcnt (s : State) (f : Ostler → Ostler) : (modOst s f).hcnt = s.hcnt := rfl
@[simp] theorem modOst_cmb (s : State) (f : Ostler → Ostler) : (modOst s f).cmb = s.cmb := rfl
@[simp] theorem modOst_trans (s : State) (f : Ostler → Ostler) : (modOst s f).trans = s.trans := rfl
@[simp] theorem modOst_offload (s : State) (f : Ostler → Ostler) : (modOst s f).offload = s.offload := rfl
@[simp] theorem modOst_ctxs (s : State) (f : Ostler → Ostler) : (modOst s f).ctxs = s.ctxs := rfl
@[simp] theorem modOst_padRanges (s : State) (f : Ostler → Ostler) : (modOst s f).padRanges = s.padRanges := rfl
@[simp] theorem modOst_raised (s : State) (f : Ostler → Ostler) : (modOst s f).raised = s.raised := rfl
@[simp] theorem modOst_dict (s : State) (f : Ostler → Ostler) : (modOst s f).dict = s.dict := rfl
@[simp] theorem modOst_ost (s : State) (f : Ostler → Ostler) : (modOst s f).ost = f s.ost := rfl
@[simp] theorem modOst_rly (s : State) (f : Ostler → Ostler) : (modOst s f).rly = s.rly := rfl
@[simp] theorem modOst_team (s : State) (f : Ostler → Ostler) : (modOst s f).team = s.team := rfl
@[simp] theorem modOst_gens (s : State) (f : Ostler → Ostler) : (modOst s f).gens = s.gens := rfl
@[simp] theorem modOst_nvme (s : State) (f : Ostler → Ostler) : (modOst s f).nvme = s.nvme := rfl
@[simp] theorem modOst_ckpt (s : State) (f : Ostler → Ostler) : (modOst s f).ckpt = s.ckpt := rfl
@[simp] theorem modOst_pads (s : State) (f : Ostler → Ostler) : (modOst s f).pads = s.pads := rfl
@[simp] theorem modOst_claims (s : State) (f : Ostler → Ostler) : (modOst s f).claims = s.claims := rfl
@[simp] theorem modOst_rings (s : State) (f : Ostler → Ostler) : (modOst s f).rings = s.rings := rfl
@[simp] theorem modOst_hosts (s : State) (f : Ostler → Ostler) : (modOst s f).hosts = s.hosts := rfl
@[simp] theorem modOst_contain (s : State) (f : Ostler → Ostler) : (modOst s f).contain = s.contain := rfl
@[simp] theorem modOst_power (s : State) (f : Ostler → Ostler) : (modOst s f).power = s.power := rfl
@[simp] theorem modOst_book (s : State) (f : Ostler → Ostler) : (modOst s f).book = s.book := rfl
@[simp] theorem modOst_boot (s : State) (f : Ostler → Ostler) : (modOst s f).boot = s.boot := rfl
@[simp] theorem modOst_lands (s : State) (f : Ostler → Ostler) : (modOst s f).lands = s.lands := rfl
@[simp] theorem modOst_mmio (s : State) (f : Ostler → Ostler) : (modOst s f).mmio = s.mmio := rfl

/-! modLands -/

@[simp] theorem modLands_pending (s : State) (f : Lands → Lands) : (modLands s f).pending = s.pending := rfl
@[simp] theorem modLands_free (s : State) (f : Lands → Lands) : (modLands s f).free = s.free := rfl
@[simp] theorem modLands_stamp (s : State) (f : Lands → Lands) : (modLands s f).stamp = s.stamp := rfl
@[simp] theorem modLands_map (s : State) (f : Lands → Lands) : (modLands s f).map = s.map := rfl
@[simp] theorem modLands_slots (s : State) (f : Lands → Lands) : (modLands s f).slots = s.slots := rfl
@[simp] theorem modLands_rein (s : State) (f : Lands → Lands) : (modLands s f).rein = s.rein := rfl
@[simp] theorem modLands_engines (s : State) (f : Lands → Lands) : (modLands s f).engines = s.engines := rfl
@[simp] theorem modLands_attrCmd (s : State) (f : Lands → Lands) : (modLands s f).attrCmd = s.attrCmd := rfl
@[simp] theorem modLands_harn (s : State) (f : Lands → Lands) : (modLands s f).harn = s.harn := rfl
@[simp] theorem modLands_hcnt (s : State) (f : Lands → Lands) : (modLands s f).hcnt = s.hcnt := rfl
@[simp] theorem modLands_cmb (s : State) (f : Lands → Lands) : (modLands s f).cmb = s.cmb := rfl
@[simp] theorem modLands_trans (s : State) (f : Lands → Lands) : (modLands s f).trans = s.trans := rfl
@[simp] theorem modLands_offload (s : State) (f : Lands → Lands) : (modLands s f).offload = s.offload := rfl
@[simp] theorem modLands_ctxs (s : State) (f : Lands → Lands) : (modLands s f).ctxs = s.ctxs := rfl
@[simp] theorem modLands_padRanges (s : State) (f : Lands → Lands) : (modLands s f).padRanges = s.padRanges := rfl
@[simp] theorem modLands_raised (s : State) (f : Lands → Lands) : (modLands s f).raised = s.raised := rfl
@[simp] theorem modLands_dict (s : State) (f : Lands → Lands) : (modLands s f).dict = s.dict := rfl
@[simp] theorem modLands_ost (s : State) (f : Lands → Lands) : (modLands s f).ost = s.ost := rfl
@[simp] theorem modLands_rly (s : State) (f : Lands → Lands) : (modLands s f).rly = s.rly := rfl
@[simp] theorem modLands_team (s : State) (f : Lands → Lands) : (modLands s f).team = s.team := rfl
@[simp] theorem modLands_gens (s : State) (f : Lands → Lands) : (modLands s f).gens = s.gens := rfl
@[simp] theorem modLands_nvme (s : State) (f : Lands → Lands) : (modLands s f).nvme = s.nvme := rfl
@[simp] theorem modLands_ckpt (s : State) (f : Lands → Lands) : (modLands s f).ckpt = s.ckpt := rfl
@[simp] theorem modLands_pads (s : State) (f : Lands → Lands) : (modLands s f).pads = s.pads := rfl
@[simp] theorem modLands_claims (s : State) (f : Lands → Lands) : (modLands s f).claims = s.claims := rfl
@[simp] theorem modLands_rings (s : State) (f : Lands → Lands) : (modLands s f).rings = s.rings := rfl
@[simp] theorem modLands_hosts (s : State) (f : Lands → Lands) : (modLands s f).hosts = s.hosts := rfl
@[simp] theorem modLands_contain (s : State) (f : Lands → Lands) : (modLands s f).contain = s.contain := rfl
@[simp] theorem modLands_power (s : State) (f : Lands → Lands) : (modLands s f).power = s.power := rfl
@[simp] theorem modLands_book (s : State) (f : Lands → Lands) : (modLands s f).book = s.book := rfl
@[simp] theorem modLands_boot (s : State) (f : Lands → Lands) : (modLands s f).boot = s.boot := rfl
@[simp] theorem modLands_lands (s : State) (f : Lands → Lands) : (modLands s f).lands = f s.lands := rfl
@[simp] theorem modLands_mmio (s : State) (f : Lands → Lands) : (modLands s f).mmio = s.mmio := rfl

/-! modBook -/

@[simp] theorem modBook_pending (s : State) (f : Studbook → Studbook) : (modBook s f).pending = s.pending := rfl
@[simp] theorem modBook_free (s : State) (f : Studbook → Studbook) : (modBook s f).free = s.free := rfl
@[simp] theorem modBook_stamp (s : State) (f : Studbook → Studbook) : (modBook s f).stamp = s.stamp := rfl
@[simp] theorem modBook_map (s : State) (f : Studbook → Studbook) : (modBook s f).map = s.map := rfl
@[simp] theorem modBook_slots (s : State) (f : Studbook → Studbook) : (modBook s f).slots = s.slots := rfl
@[simp] theorem modBook_rein (s : State) (f : Studbook → Studbook) : (modBook s f).rein = s.rein := rfl
@[simp] theorem modBook_engines (s : State) (f : Studbook → Studbook) : (modBook s f).engines = s.engines := rfl
@[simp] theorem modBook_attrCmd (s : State) (f : Studbook → Studbook) : (modBook s f).attrCmd = s.attrCmd := rfl
@[simp] theorem modBook_harn (s : State) (f : Studbook → Studbook) : (modBook s f).harn = s.harn := rfl
@[simp] theorem modBook_hcnt (s : State) (f : Studbook → Studbook) : (modBook s f).hcnt = s.hcnt := rfl
@[simp] theorem modBook_cmb (s : State) (f : Studbook → Studbook) : (modBook s f).cmb = s.cmb := rfl
@[simp] theorem modBook_trans (s : State) (f : Studbook → Studbook) : (modBook s f).trans = s.trans := rfl
@[simp] theorem modBook_offload (s : State) (f : Studbook → Studbook) : (modBook s f).offload = s.offload := rfl
@[simp] theorem modBook_ctxs (s : State) (f : Studbook → Studbook) : (modBook s f).ctxs = s.ctxs := rfl
@[simp] theorem modBook_padRanges (s : State) (f : Studbook → Studbook) : (modBook s f).padRanges = s.padRanges := rfl
@[simp] theorem modBook_raised (s : State) (f : Studbook → Studbook) : (modBook s f).raised = s.raised := rfl
@[simp] theorem modBook_dict (s : State) (f : Studbook → Studbook) : (modBook s f).dict = s.dict := rfl
@[simp] theorem modBook_ost (s : State) (f : Studbook → Studbook) : (modBook s f).ost = s.ost := rfl
@[simp] theorem modBook_rly (s : State) (f : Studbook → Studbook) : (modBook s f).rly = s.rly := rfl
@[simp] theorem modBook_team (s : State) (f : Studbook → Studbook) : (modBook s f).team = s.team := rfl
@[simp] theorem modBook_gens (s : State) (f : Studbook → Studbook) : (modBook s f).gens = s.gens := rfl
@[simp] theorem modBook_nvme (s : State) (f : Studbook → Studbook) : (modBook s f).nvme = s.nvme := rfl
@[simp] theorem modBook_ckpt (s : State) (f : Studbook → Studbook) : (modBook s f).ckpt = s.ckpt := rfl
@[simp] theorem modBook_pads (s : State) (f : Studbook → Studbook) : (modBook s f).pads = s.pads := rfl
@[simp] theorem modBook_claims (s : State) (f : Studbook → Studbook) : (modBook s f).claims = s.claims := rfl
@[simp] theorem modBook_rings (s : State) (f : Studbook → Studbook) : (modBook s f).rings = s.rings := rfl
@[simp] theorem modBook_hosts (s : State) (f : Studbook → Studbook) : (modBook s f).hosts = s.hosts := rfl
@[simp] theorem modBook_contain (s : State) (f : Studbook → Studbook) : (modBook s f).contain = s.contain := rfl
@[simp] theorem modBook_power (s : State) (f : Studbook → Studbook) : (modBook s f).power = s.power := rfl
@[simp] theorem modBook_book (s : State) (f : Studbook → Studbook) : (modBook s f).book = f s.book := rfl
@[simp] theorem modBook_boot (s : State) (f : Studbook → Studbook) : (modBook s f).boot = s.boot := rfl
@[simp] theorem modBook_lands (s : State) (f : Studbook → Studbook) : (modBook s f).lands = s.lands := rfl
@[simp] theorem modBook_mmio (s : State) (f : Studbook → Studbook) : (modBook s f).mmio = s.mmio := rfl

/-! modContain -/

@[simp] theorem modContain_pending (s : State) (f : Contain → Contain) : (modContain s f).pending = s.pending := rfl
@[simp] theorem modContain_free (s : State) (f : Contain → Contain) : (modContain s f).free = s.free := rfl
@[simp] theorem modContain_stamp (s : State) (f : Contain → Contain) : (modContain s f).stamp = s.stamp := rfl
@[simp] theorem modContain_map (s : State) (f : Contain → Contain) : (modContain s f).map = s.map := rfl
@[simp] theorem modContain_slots (s : State) (f : Contain → Contain) : (modContain s f).slots = s.slots := rfl
@[simp] theorem modContain_rein (s : State) (f : Contain → Contain) : (modContain s f).rein = s.rein := rfl
@[simp] theorem modContain_engines (s : State) (f : Contain → Contain) : (modContain s f).engines = s.engines := rfl
@[simp] theorem modContain_attrCmd (s : State) (f : Contain → Contain) : (modContain s f).attrCmd = s.attrCmd := rfl
@[simp] theorem modContain_harn (s : State) (f : Contain → Contain) : (modContain s f).harn = s.harn := rfl
@[simp] theorem modContain_hcnt (s : State) (f : Contain → Contain) : (modContain s f).hcnt = s.hcnt := rfl
@[simp] theorem modContain_cmb (s : State) (f : Contain → Contain) : (modContain s f).cmb = s.cmb := rfl
@[simp] theorem modContain_trans (s : State) (f : Contain → Contain) : (modContain s f).trans = s.trans := rfl
@[simp] theorem modContain_offload (s : State) (f : Contain → Contain) : (modContain s f).offload = s.offload := rfl
@[simp] theorem modContain_ctxs (s : State) (f : Contain → Contain) : (modContain s f).ctxs = s.ctxs := rfl
@[simp] theorem modContain_padRanges (s : State) (f : Contain → Contain) : (modContain s f).padRanges = s.padRanges := rfl
@[simp] theorem modContain_raised (s : State) (f : Contain → Contain) : (modContain s f).raised = s.raised := rfl
@[simp] theorem modContain_dict (s : State) (f : Contain → Contain) : (modContain s f).dict = s.dict := rfl
@[simp] theorem modContain_ost (s : State) (f : Contain → Contain) : (modContain s f).ost = s.ost := rfl
@[simp] theorem modContain_rly (s : State) (f : Contain → Contain) : (modContain s f).rly = s.rly := rfl
@[simp] theorem modContain_team (s : State) (f : Contain → Contain) : (modContain s f).team = s.team := rfl
@[simp] theorem modContain_gens (s : State) (f : Contain → Contain) : (modContain s f).gens = s.gens := rfl
@[simp] theorem modContain_nvme (s : State) (f : Contain → Contain) : (modContain s f).nvme = s.nvme := rfl
@[simp] theorem modContain_ckpt (s : State) (f : Contain → Contain) : (modContain s f).ckpt = s.ckpt := rfl
@[simp] theorem modContain_pads (s : State) (f : Contain → Contain) : (modContain s f).pads = s.pads := rfl
@[simp] theorem modContain_claims (s : State) (f : Contain → Contain) : (modContain s f).claims = s.claims := rfl
@[simp] theorem modContain_rings (s : State) (f : Contain → Contain) : (modContain s f).rings = s.rings := rfl
@[simp] theorem modContain_hosts (s : State) (f : Contain → Contain) : (modContain s f).hosts = s.hosts := rfl
@[simp] theorem modContain_contain (s : State) (f : Contain → Contain) : (modContain s f).contain = f s.contain := rfl
@[simp] theorem modContain_power (s : State) (f : Contain → Contain) : (modContain s f).power = s.power := rfl
@[simp] theorem modContain_book (s : State) (f : Contain → Contain) : (modContain s f).book = s.book := rfl
@[simp] theorem modContain_boot (s : State) (f : Contain → Contain) : (modContain s f).boot = s.boot := rfl
@[simp] theorem modContain_lands (s : State) (f : Contain → Contain) : (modContain s f).lands = s.lands := rfl
@[simp] theorem modContain_mmio (s : State) (f : Contain → Contain) : (modContain s f).mmio = s.mmio := rfl

/-! note -/

@[simp] theorem note_pending (s : State) (a n v k u : Nat) (l : List W64) : (note s a n v k u l).pending = s.pending := rfl
@[simp] theorem note_free (s : State) (a n v k u : Nat) (l : List W64) : (note s a n v k u l).free = s.free := rfl
@[simp] theorem note_stamp (s : State) (a n v k u : Nat) (l : List W64) : (note s a n v k u l).stamp = s.stamp := rfl
@[simp] theorem note_map (s : State) (a n v k u : Nat) (l : List W64) : (note s a n v k u l).map = s.map := rfl
@[simp] theorem note_slots (s : State) (a n v k u : Nat) (l : List W64) : (note s a n v k u l).slots = s.slots := rfl
@[simp] theorem note_rein (s : State) (a n v k u : Nat) (l : List W64) : (note s a n v k u l).rein = s.rein := rfl
@[simp] theorem note_engines (s : State) (a n v k u : Nat) (l : List W64) : (note s a n v k u l).engines = s.engines := rfl
@[simp] theorem note_attrCmd (s : State) (a n v k u : Nat) (l : List W64) : (note s a n v k u l).attrCmd = s.attrCmd := rfl
@[simp] theorem note_harn (s : State) (a n v k u : Nat) (l : List W64) : (note s a n v k u l).harn = s.harn := rfl
@[simp] theorem note_hcnt (s : State) (a n v k u : Nat) (l : List W64) : (note s a n v k u l).hcnt = s.hcnt := rfl
@[simp] theorem note_cmb (s : State) (a n v k u : Nat) (l : List W64) : (note s a n v k u l).cmb = s.cmb := rfl
@[simp] theorem note_trans (s : State) (a n v k u : Nat) (l : List W64) : (note s a n v k u l).trans = s.trans := rfl
@[simp] theorem note_offload (s : State) (a n v k u : Nat) (l : List W64) : (note s a n v k u l).offload = s.offload := rfl
@[simp] theorem note_ctxs (s : State) (a n v k u : Nat) (l : List W64) : (note s a n v k u l).ctxs = s.ctxs := rfl
@[simp] theorem note_padRanges (s : State) (a n v k u : Nat) (l : List W64) : (note s a n v k u l).padRanges = s.padRanges := rfl
@[simp] theorem note_dict (s : State) (a n v k u : Nat) (l : List W64) : (note s a n v k u l).dict = s.dict := rfl
@[simp] theorem note_ost (s : State) (a n v k u : Nat) (l : List W64) : (note s a n v k u l).ost = s.ost := rfl
@[simp] theorem note_rly (s : State) (a n v k u : Nat) (l : List W64) : (note s a n v k u l).rly = s.rly := rfl
@[simp] theorem note_team (s : State) (a n v k u : Nat) (l : List W64) : (note s a n v k u l).team = s.team := rfl
@[simp] theorem note_gens (s : State) (a n v k u : Nat) (l : List W64) : (note s a n v k u l).gens = s.gens := rfl
@[simp] theorem note_nvme (s : State) (a n v k u : Nat) (l : List W64) : (note s a n v k u l).nvme = s.nvme := rfl
@[simp] theorem note_ckpt (s : State) (a n v k u : Nat) (l : List W64) : (note s a n v k u l).ckpt = s.ckpt := rfl
@[simp] theorem note_pads (s : State) (a n v k u : Nat) (l : List W64) : (note s a n v k u l).pads = s.pads := rfl
@[simp] theorem note_claims (s : State) (a n v k u : Nat) (l : List W64) : (note s a n v k u l).claims = s.claims := rfl
@[simp] theorem note_rings (s : State) (a n v k u : Nat) (l : List W64) : (note s a n v k u l).rings = s.rings := rfl
@[simp] theorem note_hosts (s : State) (a n v k u : Nat) (l : List W64) : (note s a n v k u l).hosts = s.hosts := rfl
@[simp] theorem note_contain (s : State) (a n v k u : Nat) (l : List W64) : (note s a n v k u l).contain = s.contain := rfl
@[simp] theorem note_power (s : State) (a n v k u : Nat) (l : List W64) : (note s a n v k u l).power = s.power := rfl
@[simp] theorem note_book (s : State) (a n v k u : Nat) (l : List W64) : (note s a n v k u l).book = s.book := rfl
@[simp] theorem note_boot (s : State) (a n v k u : Nat) (l : List W64) : (note s a n v k u l).boot = s.boot := rfl
@[simp] theorem note_lands (s : State) (a n v k u : Nat) (l : List W64) : (note s a n v k u l).lands = s.lands := rfl
@[simp] theorem note_mmio (s : State) (a n v k u : Nat) (l : List W64) : (note s a n v k u l).mmio = s.mmio := rfl

/-! noteUnit -/

@[simp] theorem noteUnit_pending (s : State) (a n v k u : Nat) (l : List W64) : (noteUnit s a n v k u l).pending = s.pending := rfl
@[simp] theorem noteUnit_free (s : State) (a n v k u : Nat) (l : List W64) : (noteUnit s a n v k u l).free = s.free := rfl
@[simp] theorem noteUnit_stamp (s : State) (a n v k u : Nat) (l : List W64) : (noteUnit s a n v k u l).stamp = s.stamp := rfl
@[simp] theorem noteUnit_map (s : State) (a n v k u : Nat) (l : List W64) : (noteUnit s a n v k u l).map = s.map := rfl
@[simp] theorem noteUnit_slots (s : State) (a n v k u : Nat) (l : List W64) : (noteUnit s a n v k u l).slots = s.slots := rfl
@[simp] theorem noteUnit_rein (s : State) (a n v k u : Nat) (l : List W64) : (noteUnit s a n v k u l).rein = s.rein := rfl
@[simp] theorem noteUnit_engines (s : State) (a n v k u : Nat) (l : List W64) : (noteUnit s a n v k u l).engines = s.engines := rfl
@[simp] theorem noteUnit_attrCmd (s : State) (a n v k u : Nat) (l : List W64) : (noteUnit s a n v k u l).attrCmd = s.attrCmd := rfl
@[simp] theorem noteUnit_harn (s : State) (a n v k u : Nat) (l : List W64) : (noteUnit s a n v k u l).harn = s.harn := rfl
@[simp] theorem noteUnit_hcnt (s : State) (a n v k u : Nat) (l : List W64) : (noteUnit s a n v k u l).hcnt = s.hcnt := rfl
@[simp] theorem noteUnit_cmb (s : State) (a n v k u : Nat) (l : List W64) : (noteUnit s a n v k u l).cmb = s.cmb := rfl
@[simp] theorem noteUnit_trans (s : State) (a n v k u : Nat) (l : List W64) : (noteUnit s a n v k u l).trans = s.trans := rfl
@[simp] theorem noteUnit_offload (s : State) (a n v k u : Nat) (l : List W64) : (noteUnit s a n v k u l).offload = s.offload := rfl
@[simp] theorem noteUnit_ctxs (s : State) (a n v k u : Nat) (l : List W64) : (noteUnit s a n v k u l).ctxs = s.ctxs := rfl
@[simp] theorem noteUnit_padRanges (s : State) (a n v k u : Nat) (l : List W64) : (noteUnit s a n v k u l).padRanges = s.padRanges := rfl
@[simp] theorem noteUnit_dict (s : State) (a n v k u : Nat) (l : List W64) : (noteUnit s a n v k u l).dict = s.dict := rfl
@[simp] theorem noteUnit_ost (s : State) (a n v k u : Nat) (l : List W64) : (noteUnit s a n v k u l).ost = s.ost := rfl
@[simp] theorem noteUnit_rly (s : State) (a n v k u : Nat) (l : List W64) : (noteUnit s a n v k u l).rly = s.rly := rfl
@[simp] theorem noteUnit_team (s : State) (a n v k u : Nat) (l : List W64) : (noteUnit s a n v k u l).team = s.team := rfl
@[simp] theorem noteUnit_gens (s : State) (a n v k u : Nat) (l : List W64) : (noteUnit s a n v k u l).gens = s.gens := rfl
@[simp] theorem noteUnit_nvme (s : State) (a n v k u : Nat) (l : List W64) : (noteUnit s a n v k u l).nvme = s.nvme := rfl
@[simp] theorem noteUnit_ckpt (s : State) (a n v k u : Nat) (l : List W64) : (noteUnit s a n v k u l).ckpt = s.ckpt := rfl
@[simp] theorem noteUnit_pads (s : State) (a n v k u : Nat) (l : List W64) : (noteUnit s a n v k u l).pads = s.pads := rfl
@[simp] theorem noteUnit_claims (s : State) (a n v k u : Nat) (l : List W64) : (noteUnit s a n v k u l).claims = s.claims := rfl
@[simp] theorem noteUnit_rings (s : State) (a n v k u : Nat) (l : List W64) : (noteUnit s a n v k u l).rings = s.rings := rfl
@[simp] theorem noteUnit_hosts (s : State) (a n v k u : Nat) (l : List W64) : (noteUnit s a n v k u l).hosts = s.hosts := rfl
@[simp] theorem noteUnit_contain (s : State) (a n v k u : Nat) (l : List W64) : (noteUnit s a n v k u l).contain = s.contain := rfl
@[simp] theorem noteUnit_power (s : State) (a n v k u : Nat) (l : List W64) : (noteUnit s a n v k u l).power = s.power := rfl
@[simp] theorem noteUnit_book (s : State) (a n v k u : Nat) (l : List W64) : (noteUnit s a n v k u l).book = s.book := rfl
@[simp] theorem noteUnit_boot (s : State) (a n v k u : Nat) (l : List W64) : (noteUnit s a n v k u l).boot = s.boot := rfl
@[simp] theorem noteUnit_lands (s : State) (a n v k u : Nat) (l : List W64) : (noteUnit s a n v k u l).lands = s.lands := rfl
@[simp] theorem noteUnit_mmio (s : State) (a n v k u : Nat) (l : List W64) : (noteUnit s a n v k u l).mmio = s.mmio := rfl

/-! abortWith -/

@[simp] theorem abortWith_pending (s : State) (c : Nat) : (abortWith s c).pending = s.pending := rfl
@[simp] theorem abortWith_free (s : State) (c : Nat) : (abortWith s c).free = s.free := rfl
@[simp] theorem abortWith_stamp (s : State) (c : Nat) : (abortWith s c).stamp = s.stamp := rfl
@[simp] theorem abortWith_map (s : State) (c : Nat) : (abortWith s c).map = s.map := rfl
@[simp] theorem abortWith_slots (s : State) (c : Nat) : (abortWith s c).slots = s.slots := rfl
@[simp] theorem abortWith_rein (s : State) (c : Nat) : (abortWith s c).rein = s.rein := rfl
@[simp] theorem abortWith_engines (s : State) (c : Nat) : (abortWith s c).engines = s.engines := rfl
@[simp] theorem abortWith_attrCmd (s : State) (c : Nat) : (abortWith s c).attrCmd = s.attrCmd := rfl
@[simp] theorem abortWith_harn (s : State) (c : Nat) : (abortWith s c).harn = s.harn := rfl
@[simp] theorem abortWith_hcnt (s : State) (c : Nat) : (abortWith s c).hcnt = s.hcnt := rfl
@[simp] theorem abortWith_cmb (s : State) (c : Nat) : (abortWith s c).cmb = s.cmb := rfl
@[simp] theorem abortWith_trans (s : State) (c : Nat) : (abortWith s c).trans = s.trans := rfl
@[simp] theorem abortWith_offload (s : State) (c : Nat) : (abortWith s c).offload = s.offload := rfl
@[simp] theorem abortWith_ctxs (s : State) (c : Nat) : (abortWith s c).ctxs = s.ctxs := rfl
@[simp] theorem abortWith_padRanges (s : State) (c : Nat) : (abortWith s c).padRanges = s.padRanges := rfl
@[simp] theorem abortWith_raised (s : State) (c : Nat) : (abortWith s c).raised = s.raised := rfl
@[simp] theorem abortWith_dict (s : State) (c : Nat) : (abortWith s c).dict = { s.dict with abort := c } := rfl
@[simp] theorem abortWith_ost (s : State) (c : Nat) : (abortWith s c).ost = s.ost := rfl
@[simp] theorem abortWith_rly (s : State) (c : Nat) : (abortWith s c).rly = s.rly := rfl
@[simp] theorem abortWith_team (s : State) (c : Nat) : (abortWith s c).team = s.team := rfl
@[simp] theorem abortWith_gens (s : State) (c : Nat) : (abortWith s c).gens = s.gens := rfl
@[simp] theorem abortWith_nvme (s : State) (c : Nat) : (abortWith s c).nvme = s.nvme := rfl
@[simp] theorem abortWith_ckpt (s : State) (c : Nat) : (abortWith s c).ckpt = s.ckpt := rfl
@[simp] theorem abortWith_pads (s : State) (c : Nat) : (abortWith s c).pads = s.pads := rfl
@[simp] theorem abortWith_claims (s : State) (c : Nat) : (abortWith s c).claims = s.claims := rfl
@[simp] theorem abortWith_rings (s : State) (c : Nat) : (abortWith s c).rings = s.rings := rfl
@[simp] theorem abortWith_hosts (s : State) (c : Nat) : (abortWith s c).hosts = s.hosts := rfl
@[simp] theorem abortWith_contain (s : State) (c : Nat) : (abortWith s c).contain = s.contain := rfl
@[simp] theorem abortWith_power (s : State) (c : Nat) : (abortWith s c).power = s.power := rfl
@[simp] theorem abortWith_book (s : State) (c : Nat) : (abortWith s c).book = s.book := rfl
@[simp] theorem abortWith_boot (s : State) (c : Nat) : (abortWith s c).boot = s.boot := rfl
@[simp] theorem abortWith_lands (s : State) (c : Nat) : (abortWith s c).lands = s.lands := rfl
@[simp] theorem abortWith_mmio (s : State) (c : Nat) : (abortWith s c).mmio = s.mmio := rfl

/-! setPack -/

@[simp] theorem setPack_pending (s : State) (slot arr : Nat) (p : Packed) : (setPack s slot arr p).pending = s.pending := rfl
@[simp] theorem setPack_free (s : State) (slot arr : Nat) (p : Packed) : (setPack s slot arr p).free = s.free := rfl
@[simp] theorem setPack_stamp (s : State) (slot arr : Nat) (p : Packed) : (setPack s slot arr p).stamp = s.stamp := rfl
@[simp] theorem setPack_map (s : State) (slot arr : Nat) (p : Packed) : (setPack s slot arr p).map = s.map := rfl
@[simp] theorem setPack_slots (s : State) (slot arr : Nat) (p : Packed) : (setPack s slot arr p).slots = s.slots := rfl
@[simp] theorem setPack_rein (s : State) (slot arr : Nat) (p : Packed) : (setPack s slot arr p).rein = s.rein := rfl
@[simp] theorem setPack_engines (s : State) (slot arr : Nat) (p : Packed) : (setPack s slot arr p).engines = s.engines := rfl
@[simp] theorem setPack_attrCmd (s : State) (slot arr : Nat) (p : Packed) : (setPack s slot arr p).attrCmd = s.attrCmd := rfl
@[simp] theorem setPack_harn (s : State) (slot arr : Nat) (p : Packed) : (setPack s slot arr p).harn = s.harn := rfl
@[simp] theorem setPack_hcnt (s : State) (slot arr : Nat) (p : Packed) : (setPack s slot arr p).hcnt = s.hcnt := rfl
@[simp] theorem setPack_cmb (s : State) (slot arr : Nat) (p : Packed) : (setPack s slot arr p).cmb = s.cmb := rfl
@[simp] theorem setPack_trans (s : State) (slot arr : Nat) (p : Packed) : (setPack s slot arr p).trans = s.trans := rfl
@[simp] theorem setPack_offload (s : State) (slot arr : Nat) (p : Packed) : (setPack s slot arr p).offload = s.offload := rfl
@[simp] theorem setPack_ctxs (s : State) (slot arr : Nat) (p : Packed) : (setPack s slot arr p).ctxs = s.ctxs := rfl
@[simp] theorem setPack_padRanges (s : State) (slot arr : Nat) (p : Packed) : (setPack s slot arr p).padRanges = s.padRanges := rfl
@[simp] theorem setPack_raised (s : State) (slot arr : Nat) (p : Packed) : (setPack s slot arr p).raised = s.raised := rfl
@[simp] theorem setPack_dict (s : State) (slot arr : Nat) (p : Packed) : (setPack s slot arr p).dict = s.dict := rfl
@[simp] theorem setPack_ost (s : State) (slot arr : Nat) (p : Packed) : (setPack s slot arr p).ost = s.ost := rfl
@[simp] theorem setPack_rly (s : State) (slot arr : Nat) (p : Packed) : (setPack s slot arr p).rly = s.rly := rfl
@[simp] theorem setPack_team (s : State) (slot arr : Nat) (p : Packed) : (setPack s slot arr p).team = s.team := rfl
@[simp] theorem setPack_gens (s : State) (slot arr : Nat) (p : Packed) : (setPack s slot arr p).gens = s.gens := rfl
@[simp] theorem setPack_nvme (s : State) (slot arr : Nat) (p : Packed) : (setPack s slot arr p).nvme = s.nvme := rfl
@[simp] theorem setPack_ckpt (s : State) (slot arr : Nat) (p : Packed) : (setPack s slot arr p).ckpt = s.ckpt := rfl
@[simp] theorem setPack_pads (s : State) (slot arr : Nat) (p : Packed) : (setPack s slot arr p).pads = s.pads := rfl
@[simp] theorem setPack_claims (s : State) (slot arr : Nat) (p : Packed) : (setPack s slot arr p).claims = s.claims := rfl
@[simp] theorem setPack_rings (s : State) (slot arr : Nat) (p : Packed) : (setPack s slot arr p).rings = s.rings := rfl
@[simp] theorem setPack_hosts (s : State) (slot arr : Nat) (p : Packed) : (setPack s slot arr p).hosts = s.hosts := rfl
@[simp] theorem setPack_power (s : State) (slot arr : Nat) (p : Packed) : (setPack s slot arr p).power = s.power := rfl
@[simp] theorem setPack_book (s : State) (slot arr : Nat) (p : Packed) : (setPack s slot arr p).book = s.book := rfl
@[simp] theorem setPack_boot (s : State) (slot arr : Nat) (p : Packed) : (setPack s slot arr p).boot = s.boot := rfl
@[simp] theorem setPack_lands (s : State) (slot arr : Nat) (p : Packed) : (setPack s slot arr p).lands = s.lands := rfl
@[simp] theorem setPack_mmio (s : State) (slot arr : Nat) (p : Packed) : (setPack s slot arr p).mmio = s.mmio := rfl

/-! setCmb -/

@[simp] theorem setCmb_pending (s : State) (h i : Nat) (c : CmbEntry) : (setCmb s h i c).pending = s.pending := rfl
@[simp] theorem setCmb_free (s : State) (h i : Nat) (c : CmbEntry) : (setCmb s h i c).free = s.free := rfl
@[simp] theorem setCmb_stamp (s : State) (h i : Nat) (c : CmbEntry) : (setCmb s h i c).stamp = s.stamp := rfl
@[simp] theorem setCmb_map (s : State) (h i : Nat) (c : CmbEntry) : (setCmb s h i c).map = s.map := rfl
@[simp] theorem setCmb_slots (s : State) (h i : Nat) (c : CmbEntry) : (setCmb s h i c).slots = s.slots := rfl
@[simp] theorem setCmb_rein (s : State) (h i : Nat) (c : CmbEntry) : (setCmb s h i c).rein = s.rein := rfl
@[simp] theorem setCmb_engines (s : State) (h i : Nat) (c : CmbEntry) : (setCmb s h i c).engines = s.engines := rfl
@[simp] theorem setCmb_attrCmd (s : State) (h i : Nat) (c : CmbEntry) : (setCmb s h i c).attrCmd = s.attrCmd := rfl
@[simp] theorem setCmb_harn (s : State) (h i : Nat) (c : CmbEntry) : (setCmb s h i c).harn = s.harn := rfl
@[simp] theorem setCmb_hcnt (s : State) (h i : Nat) (c : CmbEntry) : (setCmb s h i c).hcnt = s.hcnt := rfl
@[simp] theorem setCmb_trans (s : State) (h i : Nat) (c : CmbEntry) : (setCmb s h i c).trans = s.trans := rfl
@[simp] theorem setCmb_offload (s : State) (h i : Nat) (c : CmbEntry) : (setCmb s h i c).offload = s.offload := rfl
@[simp] theorem setCmb_ctxs (s : State) (h i : Nat) (c : CmbEntry) : (setCmb s h i c).ctxs = s.ctxs := rfl
@[simp] theorem setCmb_padRanges (s : State) (h i : Nat) (c : CmbEntry) : (setCmb s h i c).padRanges = s.padRanges := rfl
@[simp] theorem setCmb_raised (s : State) (h i : Nat) (c : CmbEntry) : (setCmb s h i c).raised = s.raised := rfl
@[simp] theorem setCmb_dict (s : State) (h i : Nat) (c : CmbEntry) : (setCmb s h i c).dict = s.dict := rfl
@[simp] theorem setCmb_ost (s : State) (h i : Nat) (c : CmbEntry) : (setCmb s h i c).ost = s.ost := rfl
@[simp] theorem setCmb_rly (s : State) (h i : Nat) (c : CmbEntry) : (setCmb s h i c).rly = s.rly := rfl
@[simp] theorem setCmb_team (s : State) (h i : Nat) (c : CmbEntry) : (setCmb s h i c).team = s.team := rfl
@[simp] theorem setCmb_gens (s : State) (h i : Nat) (c : CmbEntry) : (setCmb s h i c).gens = s.gens := rfl
@[simp] theorem setCmb_nvme (s : State) (h i : Nat) (c : CmbEntry) : (setCmb s h i c).nvme = s.nvme := rfl
@[simp] theorem setCmb_ckpt (s : State) (h i : Nat) (c : CmbEntry) : (setCmb s h i c).ckpt = s.ckpt := rfl
@[simp] theorem setCmb_pads (s : State) (h i : Nat) (c : CmbEntry) : (setCmb s h i c).pads = s.pads := rfl
@[simp] theorem setCmb_claims (s : State) (h i : Nat) (c : CmbEntry) : (setCmb s h i c).claims = s.claims := rfl
@[simp] theorem setCmb_rings (s : State) (h i : Nat) (c : CmbEntry) : (setCmb s h i c).rings = s.rings := rfl
@[simp] theorem setCmb_hosts (s : State) (h i : Nat) (c : CmbEntry) : (setCmb s h i c).hosts = s.hosts := rfl
@[simp] theorem setCmb_contain (s : State) (h i : Nat) (c : CmbEntry) : (setCmb s h i c).contain = s.contain := rfl
@[simp] theorem setCmb_power (s : State) (h i : Nat) (c : CmbEntry) : (setCmb s h i c).power = s.power := rfl
@[simp] theorem setCmb_book (s : State) (h i : Nat) (c : CmbEntry) : (setCmb s h i c).book = s.book := rfl
@[simp] theorem setCmb_boot (s : State) (h i : Nat) (c : CmbEntry) : (setCmb s h i c).boot = s.boot := rfl
@[simp] theorem setCmb_lands (s : State) (h i : Nat) (c : CmbEntry) : (setCmb s h i c).lands = s.lands := rfl
@[simp] theorem setCmb_mmio (s : State) (h i : Nat) (c : CmbEntry) : (setCmb s h i c).mmio = s.mmio := rfl

/-! dropCopy -/

@[simp] theorem dropCopy_pending (s : State) (a l : Nat) : (dropCopy s a l).pending = s.pending := rfl
@[simp] theorem dropCopy_free (s : State) (a l : Nat) : (dropCopy s a l).free = s.free := rfl
@[simp] theorem dropCopy_stamp (s : State) (a l : Nat) : (dropCopy s a l).stamp = s.stamp := rfl
@[simp] theorem dropCopy_map (s : State) (a l : Nat) : (dropCopy s a l).map = s.map := rfl
@[simp] theorem dropCopy_slots (s : State) (a l : Nat) : (dropCopy s a l).slots = s.slots := rfl
@[simp] theorem dropCopy_rein (s : State) (a l : Nat) : (dropCopy s a l).rein = s.rein := rfl
@[simp] theorem dropCopy_engines (s : State) (a l : Nat) : (dropCopy s a l).engines = s.engines := rfl
@[simp] theorem dropCopy_attrCmd (s : State) (a l : Nat) : (dropCopy s a l).attrCmd = s.attrCmd := rfl
@[simp] theorem dropCopy_hcnt (s : State) (a l : Nat) : (dropCopy s a l).hcnt = s.hcnt := rfl
@[simp] theorem dropCopy_cmb (s : State) (a l : Nat) : (dropCopy s a l).cmb = s.cmb := rfl
@[simp] theorem dropCopy_trans (s : State) (a l : Nat) : (dropCopy s a l).trans = s.trans := rfl
@[simp] theorem dropCopy_offload (s : State) (a l : Nat) : (dropCopy s a l).offload = s.offload := rfl
@[simp] theorem dropCopy_ctxs (s : State) (a l : Nat) : (dropCopy s a l).ctxs = s.ctxs := rfl
@[simp] theorem dropCopy_padRanges (s : State) (a l : Nat) : (dropCopy s a l).padRanges = s.padRanges := rfl
@[simp] theorem dropCopy_raised (s : State) (a l : Nat) : (dropCopy s a l).raised = s.raised := rfl
@[simp] theorem dropCopy_dict (s : State) (a l : Nat) : (dropCopy s a l).dict = s.dict := rfl
@[simp] theorem dropCopy_ost (s : State) (a l : Nat) : (dropCopy s a l).ost = s.ost := rfl
@[simp] theorem dropCopy_rly (s : State) (a l : Nat) : (dropCopy s a l).rly = s.rly := rfl
@[simp] theorem dropCopy_team (s : State) (a l : Nat) : (dropCopy s a l).team = s.team := rfl
@[simp] theorem dropCopy_gens (s : State) (a l : Nat) : (dropCopy s a l).gens = s.gens := rfl
@[simp] theorem dropCopy_nvme (s : State) (a l : Nat) : (dropCopy s a l).nvme = s.nvme := rfl
@[simp] theorem dropCopy_ckpt (s : State) (a l : Nat) : (dropCopy s a l).ckpt = s.ckpt := rfl
@[simp] theorem dropCopy_pads (s : State) (a l : Nat) : (dropCopy s a l).pads = s.pads := rfl
@[simp] theorem dropCopy_claims (s : State) (a l : Nat) : (dropCopy s a l).claims = s.claims := rfl
@[simp] theorem dropCopy_rings (s : State) (a l : Nat) : (dropCopy s a l).rings = s.rings := rfl
@[simp] theorem dropCopy_hosts (s : State) (a l : Nat) : (dropCopy s a l).hosts = s.hosts := rfl
@[simp] theorem dropCopy_contain (s : State) (a l : Nat) : (dropCopy s a l).contain = s.contain := rfl
@[simp] theorem dropCopy_power (s : State) (a l : Nat) : (dropCopy s a l).power = s.power := rfl
@[simp] theorem dropCopy_book (s : State) (a l : Nat) : (dropCopy s a l).book = s.book := rfl
@[simp] theorem dropCopy_boot (s : State) (a l : Nat) : (dropCopy s a l).boot = s.boot := rfl
@[simp] theorem dropCopy_lands (s : State) (a l : Nat) : (dropCopy s a l).lands = s.lands := rfl
@[simp] theorem dropCopy_mmio (s : State) (a l : Nat) : (dropCopy s a l).mmio = s.mmio := rfl

/-! setTxn -/

@[simp] theorem setTxn_pending (s : State) (t : Txn) : (setTxn s t).pending = s.pending := rfl
@[simp] theorem setTxn_free (s : State) (t : Txn) : (setTxn s t).free = s.free := rfl
@[simp] theorem setTxn_stamp (s : State) (t : Txn) : (setTxn s t).stamp = s.stamp := rfl
@[simp] theorem setTxn_map (s : State) (t : Txn) : (setTxn s t).map = s.map := rfl
@[simp] theorem setTxn_slots (s : State) (t : Txn) : (setTxn s t).slots = s.slots := rfl
@[simp] theorem setTxn_rein (s : State) (t : Txn) : (setTxn s t).rein = s.rein := rfl
@[simp] theorem setTxn_engines (s : State) (t : Txn) : (setTxn s t).engines = s.engines := rfl
@[simp] theorem setTxn_attrCmd (s : State) (t : Txn) : (setTxn s t).attrCmd = s.attrCmd := rfl
@[simp] theorem setTxn_hcnt (s : State) (t : Txn) : (setTxn s t).hcnt = s.hcnt := rfl
@[simp] theorem setTxn_cmb (s : State) (t : Txn) : (setTxn s t).cmb = s.cmb := rfl
@[simp] theorem setTxn_trans (s : State) (t : Txn) : (setTxn s t).trans = s.trans := rfl
@[simp] theorem setTxn_offload (s : State) (t : Txn) : (setTxn s t).offload = s.offload := rfl
@[simp] theorem setTxn_ctxs (s : State) (t : Txn) : (setTxn s t).ctxs = s.ctxs := rfl
@[simp] theorem setTxn_padRanges (s : State) (t : Txn) : (setTxn s t).padRanges = s.padRanges := rfl
@[simp] theorem setTxn_raised (s : State) (t : Txn) : (setTxn s t).raised = s.raised := rfl
@[simp] theorem setTxn_dict (s : State) (t : Txn) : (setTxn s t).dict = s.dict := rfl
@[simp] theorem setTxn_ost (s : State) (t : Txn) : (setTxn s t).ost = s.ost := rfl
@[simp] theorem setTxn_rly (s : State) (t : Txn) : (setTxn s t).rly = s.rly := rfl
@[simp] theorem setTxn_team (s : State) (t : Txn) : (setTxn s t).team = s.team := rfl
@[simp] theorem setTxn_gens (s : State) (t : Txn) : (setTxn s t).gens = s.gens := rfl
@[simp] theorem setTxn_nvme (s : State) (t : Txn) : (setTxn s t).nvme = s.nvme := rfl
@[simp] theorem setTxn_ckpt (s : State) (t : Txn) : (setTxn s t).ckpt = s.ckpt := rfl
@[simp] theorem setTxn_pads (s : State) (t : Txn) : (setTxn s t).pads = s.pads := rfl
@[simp] theorem setTxn_claims (s : State) (t : Txn) : (setTxn s t).claims = s.claims := rfl
@[simp] theorem setTxn_rings (s : State) (t : Txn) : (setTxn s t).rings = s.rings := rfl
@[simp] theorem setTxn_hosts (s : State) (t : Txn) : (setTxn s t).hosts = s.hosts := rfl
@[simp] theorem setTxn_contain (s : State) (t : Txn) : (setTxn s t).contain = s.contain := rfl
@[simp] theorem setTxn_power (s : State) (t : Txn) : (setTxn s t).power = s.power := rfl
@[simp] theorem setTxn_book (s : State) (t : Txn) : (setTxn s t).book = s.book := rfl
@[simp] theorem setTxn_boot (s : State) (t : Txn) : (setTxn s t).boot = s.boot := rfl
@[simp] theorem setTxn_lands (s : State) (t : Txn) : (setTxn s t).lands = s.lands := rfl
@[simp] theorem setTxn_mmio (s : State) (t : Txn) : (setTxn s t).mmio = s.mmio := rfl

/-! modComb -/

@[simp] theorem modComb_pending (s : State) (id : Nat) (f : GComb → GComb) : (modComb s id f).pending = s.pending := rfl
@[simp] theorem modComb_free (s : State) (id : Nat) (f : GComb → GComb) : (modComb s id f).free = s.free := rfl
@[simp] theorem modComb_stamp (s : State) (id : Nat) (f : GComb → GComb) : (modComb s id f).stamp = s.stamp := rfl
@[simp] theorem modComb_map (s : State) (id : Nat) (f : GComb → GComb) : (modComb s id f).map = s.map := rfl
@[simp] theorem modComb_slots (s : State) (id : Nat) (f : GComb → GComb) : (modComb s id f).slots = s.slots := rfl
@[simp] theorem modComb_rein (s : State) (id : Nat) (f : GComb → GComb) : (modComb s id f).rein = s.rein := rfl
@[simp] theorem modComb_engines (s : State) (id : Nat) (f : GComb → GComb) : (modComb s id f).engines = s.engines := rfl
@[simp] theorem modComb_attrCmd (s : State) (id : Nat) (f : GComb → GComb) : (modComb s id f).attrCmd = s.attrCmd := rfl
@[simp] theorem modComb_harn (s : State) (id : Nat) (f : GComb → GComb) : (modComb s id f).harn = s.harn := rfl
@[simp] theorem modComb_hcnt (s : State) (id : Nat) (f : GComb → GComb) : (modComb s id f).hcnt = s.hcnt := rfl
@[simp] theorem modComb_cmb (s : State) (id : Nat) (f : GComb → GComb) : (modComb s id f).cmb = s.cmb := rfl
@[simp] theorem modComb_trans (s : State) (id : Nat) (f : GComb → GComb) : (modComb s id f).trans = s.trans := rfl
@[simp] theorem modComb_offload (s : State) (id : Nat) (f : GComb → GComb) : (modComb s id f).offload = s.offload := rfl
@[simp] theorem modComb_ctxs (s : State) (id : Nat) (f : GComb → GComb) : (modComb s id f).ctxs = s.ctxs := rfl
@[simp] theorem modComb_padRanges (s : State) (id : Nat) (f : GComb → GComb) : (modComb s id f).padRanges = s.padRanges := rfl
@[simp] theorem modComb_raised (s : State) (id : Nat) (f : GComb → GComb) : (modComb s id f).raised = s.raised := rfl
@[simp] theorem modComb_dict (s : State) (id : Nat) (f : GComb → GComb) : (modComb s id f).dict = s.dict := rfl
@[simp] theorem modComb_ost (s : State) (id : Nat) (f : GComb → GComb) : (modComb s id f).ost = s.ost := rfl
@[simp] theorem modComb_team (s : State) (id : Nat) (f : GComb → GComb) : (modComb s id f).team = s.team := rfl
@[simp] theorem modComb_gens (s : State) (id : Nat) (f : GComb → GComb) : (modComb s id f).gens = s.gens := rfl
@[simp] theorem modComb_nvme (s : State) (id : Nat) (f : GComb → GComb) : (modComb s id f).nvme = s.nvme := rfl
@[simp] theorem modComb_ckpt (s : State) (id : Nat) (f : GComb → GComb) : (modComb s id f).ckpt = s.ckpt := rfl
@[simp] theorem modComb_pads (s : State) (id : Nat) (f : GComb → GComb) : (modComb s id f).pads = s.pads := rfl
@[simp] theorem modComb_claims (s : State) (id : Nat) (f : GComb → GComb) : (modComb s id f).claims = s.claims := rfl
@[simp] theorem modComb_rings (s : State) (id : Nat) (f : GComb → GComb) : (modComb s id f).rings = s.rings := rfl
@[simp] theorem modComb_hosts (s : State) (id : Nat) (f : GComb → GComb) : (modComb s id f).hosts = s.hosts := rfl
@[simp] theorem modComb_contain (s : State) (id : Nat) (f : GComb → GComb) : (modComb s id f).contain = s.contain := rfl
@[simp] theorem modComb_power (s : State) (id : Nat) (f : GComb → GComb) : (modComb s id f).power = s.power := rfl
@[simp] theorem modComb_book (s : State) (id : Nat) (f : GComb → GComb) : (modComb s id f).book = s.book := rfl
@[simp] theorem modComb_boot (s : State) (id : Nat) (f : GComb → GComb) : (modComb s id f).boot = s.boot := rfl
@[simp] theorem modComb_lands (s : State) (id : Nat) (f : GComb → GComb) : (modComb s id f).lands = s.lands := rfl
@[simp] theorem modComb_mmio (s : State) (id : Nat) (f : GComb → GComb) : (modComb s id f).mmio = s.mmio := rfl

/-! modMail -/

@[simp] theorem modMail_pending (s : State) (c : Nat) (f : Mailbox → Mailbox) : (modMail s c f).pending = s.pending := rfl
@[simp] theorem modMail_free (s : State) (c : Nat) (f : Mailbox → Mailbox) : (modMail s c f).free = s.free := rfl
@[simp] theorem modMail_stamp (s : State) (c : Nat) (f : Mailbox → Mailbox) : (modMail s c f).stamp = s.stamp := rfl
@[simp] theorem modMail_map (s : State) (c : Nat) (f : Mailbox → Mailbox) : (modMail s c f).map = s.map := rfl
@[simp] theorem modMail_slots (s : State) (c : Nat) (f : Mailbox → Mailbox) : (modMail s c f).slots = s.slots := rfl
@[simp] theorem modMail_rein (s : State) (c : Nat) (f : Mailbox → Mailbox) : (modMail s c f).rein = s.rein := rfl
@[simp] theorem modMail_engines (s : State) (c : Nat) (f : Mailbox → Mailbox) : (modMail s c f).engines = s.engines := rfl
@[simp] theorem modMail_attrCmd (s : State) (c : Nat) (f : Mailbox → Mailbox) : (modMail s c f).attrCmd = s.attrCmd := rfl
@[simp] theorem modMail_harn (s : State) (c : Nat) (f : Mailbox → Mailbox) : (modMail s c f).harn = s.harn := rfl
@[simp] theorem modMail_hcnt (s : State) (c : Nat) (f : Mailbox → Mailbox) : (modMail s c f).hcnt = s.hcnt := rfl
@[simp] theorem modMail_cmb (s : State) (c : Nat) (f : Mailbox → Mailbox) : (modMail s c f).cmb = s.cmb := rfl
@[simp] theorem modMail_trans (s : State) (c : Nat) (f : Mailbox → Mailbox) : (modMail s c f).trans = s.trans := rfl
@[simp] theorem modMail_offload (s : State) (c : Nat) (f : Mailbox → Mailbox) : (modMail s c f).offload = s.offload := rfl
@[simp] theorem modMail_ctxs (s : State) (c : Nat) (f : Mailbox → Mailbox) : (modMail s c f).ctxs = s.ctxs := rfl
@[simp] theorem modMail_padRanges (s : State) (c : Nat) (f : Mailbox → Mailbox) : (modMail s c f).padRanges = s.padRanges := rfl
@[simp] theorem modMail_raised (s : State) (c : Nat) (f : Mailbox → Mailbox) : (modMail s c f).raised = s.raised := rfl
@[simp] theorem modMail_ost (s : State) (c : Nat) (f : Mailbox → Mailbox) : (modMail s c f).ost = s.ost := rfl
@[simp] theorem modMail_rly (s : State) (c : Nat) (f : Mailbox → Mailbox) : (modMail s c f).rly = s.rly := rfl
@[simp] theorem modMail_team (s : State) (c : Nat) (f : Mailbox → Mailbox) : (modMail s c f).team = s.team := rfl
@[simp] theorem modMail_gens (s : State) (c : Nat) (f : Mailbox → Mailbox) : (modMail s c f).gens = s.gens := rfl
@[simp] theorem modMail_nvme (s : State) (c : Nat) (f : Mailbox → Mailbox) : (modMail s c f).nvme = s.nvme := rfl
@[simp] theorem modMail_ckpt (s : State) (c : Nat) (f : Mailbox → Mailbox) : (modMail s c f).ckpt = s.ckpt := rfl
@[simp] theorem modMail_pads (s : State) (c : Nat) (f : Mailbox → Mailbox) : (modMail s c f).pads = s.pads := rfl
@[simp] theorem modMail_claims (s : State) (c : Nat) (f : Mailbox → Mailbox) : (modMail s c f).claims = s.claims := rfl
@[simp] theorem modMail_rings (s : State) (c : Nat) (f : Mailbox → Mailbox) : (modMail s c f).rings = s.rings := rfl
@[simp] theorem modMail_hosts (s : State) (c : Nat) (f : Mailbox → Mailbox) : (modMail s c f).hosts = s.hosts := rfl
@[simp] theorem modMail_contain (s : State) (c : Nat) (f : Mailbox → Mailbox) : (modMail s c f).contain = s.contain := rfl
@[simp] theorem modMail_power (s : State) (c : Nat) (f : Mailbox → Mailbox) : (modMail s c f).power = s.power := rfl
@[simp] theorem modMail_book (s : State) (c : Nat) (f : Mailbox → Mailbox) : (modMail s c f).book = s.book := rfl
@[simp] theorem modMail_boot (s : State) (c : Nat) (f : Mailbox → Mailbox) : (modMail s c f).boot = s.boot := rfl
@[simp] theorem modMail_lands (s : State) (c : Nat) (f : Mailbox → Mailbox) : (modMail s c f).lands = s.lands := rfl
@[simp] theorem modMail_mmio (s : State) (c : Nat) (f : Mailbox → Mailbox) : (modMail s c f).mmio = s.mmio := rfl

/-! setClients -/

@[simp] theorem setClients_pending (s : State) (l : List Client) : (setClients s l).pending = s.pending := rfl
@[simp] theorem setClients_free (s : State) (l : List Client) : (setClients s l).free = s.free := rfl
@[simp] theorem setClients_stamp (s : State) (l : List Client) : (setClients s l).stamp = s.stamp := rfl
@[simp] theorem setClients_map (s : State) (l : List Client) : (setClients s l).map = s.map := rfl
@[simp] theorem setClients_slots (s : State) (l : List Client) : (setClients s l).slots = s.slots := rfl
@[simp] theorem setClients_rein (s : State) (l : List Client) : (setClients s l).rein = s.rein := rfl
@[simp] theorem setClients_engines (s : State) (l : List Client) : (setClients s l).engines = s.engines := rfl
@[simp] theorem setClients_attrCmd (s : State) (l : List Client) : (setClients s l).attrCmd = s.attrCmd := rfl
@[simp] theorem setClients_harn (s : State) (l : List Client) : (setClients s l).harn = s.harn := rfl
@[simp] theorem setClients_hcnt (s : State) (l : List Client) : (setClients s l).hcnt = s.hcnt := rfl
@[simp] theorem setClients_cmb (s : State) (l : List Client) : (setClients s l).cmb = s.cmb := rfl
@[simp] theorem setClients_trans (s : State) (l : List Client) : (setClients s l).trans = s.trans := rfl
@[simp] theorem setClients_offload (s : State) (l : List Client) : (setClients s l).offload = s.offload := rfl
@[simp] theorem setClients_ctxs (s : State) (l : List Client) : (setClients s l).ctxs = s.ctxs := rfl
@[simp] theorem setClients_padRanges (s : State) (l : List Client) : (setClients s l).padRanges = s.padRanges := rfl
@[simp] theorem setClients_raised (s : State) (l : List Client) : (setClients s l).raised = s.raised := rfl
@[simp] theorem setClients_ost (s : State) (l : List Client) : (setClients s l).ost = s.ost := rfl
@[simp] theorem setClients_rly (s : State) (l : List Client) : (setClients s l).rly = s.rly := rfl
@[simp] theorem setClients_team (s : State) (l : List Client) : (setClients s l).team = s.team := rfl
@[simp] theorem setClients_gens (s : State) (l : List Client) : (setClients s l).gens = s.gens := rfl
@[simp] theorem setClients_nvme (s : State) (l : List Client) : (setClients s l).nvme = s.nvme := rfl
@[simp] theorem setClients_ckpt (s : State) (l : List Client) : (setClients s l).ckpt = s.ckpt := rfl
@[simp] theorem setClients_pads (s : State) (l : List Client) : (setClients s l).pads = s.pads := rfl
@[simp] theorem setClients_claims (s : State) (l : List Client) : (setClients s l).claims = s.claims := rfl
@[simp] theorem setClients_rings (s : State) (l : List Client) : (setClients s l).rings = s.rings := rfl
@[simp] theorem setClients_hosts (s : State) (l : List Client) : (setClients s l).hosts = s.hosts := rfl
@[simp] theorem setClients_contain (s : State) (l : List Client) : (setClients s l).contain = s.contain := rfl
@[simp] theorem setClients_power (s : State) (l : List Client) : (setClients s l).power = s.power := rfl
@[simp] theorem setClients_book (s : State) (l : List Client) : (setClients s l).book = s.book := rfl
@[simp] theorem setClients_boot (s : State) (l : List Client) : (setClients s l).boot = s.boot := rfl
@[simp] theorem setClients_lands (s : State) (l : List Client) : (setClients s l).lands = s.lands := rfl
@[simp] theorem setClients_mmio (s : State) (l : List Client) : (setClients s l).mmio = s.mmio := rfl

/-! setTransReg -/

@[simp] theorem setTransReg_pending (s : State) (inst o v : Nat) : (setTransReg s inst o v).pending = s.pending := rfl
@[simp] theorem setTransReg_free (s : State) (inst o v : Nat) : (setTransReg s inst o v).free = s.free := rfl
@[simp] theorem setTransReg_stamp (s : State) (inst o v : Nat) : (setTransReg s inst o v).stamp = s.stamp := rfl
@[simp] theorem setTransReg_map (s : State) (inst o v : Nat) : (setTransReg s inst o v).map = s.map := rfl
@[simp] theorem setTransReg_slots (s : State) (inst o v : Nat) : (setTransReg s inst o v).slots = s.slots := rfl
@[simp] theorem setTransReg_rein (s : State) (inst o v : Nat) : (setTransReg s inst o v).rein = s.rein := rfl
@[simp] theorem setTransReg_engines (s : State) (inst o v : Nat) : (setTransReg s inst o v).engines = s.engines := rfl
@[simp] theorem setTransReg_attrCmd (s : State) (inst o v : Nat) : (setTransReg s inst o v).attrCmd = s.attrCmd := rfl
@[simp] theorem setTransReg_harn (s : State) (inst o v : Nat) : (setTransReg s inst o v).harn = s.harn := rfl
@[simp] theorem setTransReg_hcnt (s : State) (inst o v : Nat) : (setTransReg s inst o v).hcnt = s.hcnt := rfl
@[simp] theorem setTransReg_cmb (s : State) (inst o v : Nat) : (setTransReg s inst o v).cmb = s.cmb := rfl
@[simp] theorem setTransReg_offload (s : State) (inst o v : Nat) : (setTransReg s inst o v).offload = s.offload := rfl
@[simp] theorem setTransReg_ctxs (s : State) (inst o v : Nat) : (setTransReg s inst o v).ctxs = s.ctxs := rfl
@[simp] theorem setTransReg_padRanges (s : State) (inst o v : Nat) : (setTransReg s inst o v).padRanges = s.padRanges := rfl
@[simp] theorem setTransReg_raised (s : State) (inst o v : Nat) : (setTransReg s inst o v).raised = s.raised := rfl
@[simp] theorem setTransReg_dict (s : State) (inst o v : Nat) : (setTransReg s inst o v).dict = s.dict := rfl
@[simp] theorem setTransReg_ost (s : State) (inst o v : Nat) : (setTransReg s inst o v).ost = s.ost := rfl
@[simp] theorem setTransReg_rly (s : State) (inst o v : Nat) : (setTransReg s inst o v).rly = s.rly := rfl
@[simp] theorem setTransReg_team (s : State) (inst o v : Nat) : (setTransReg s inst o v).team = s.team := rfl
@[simp] theorem setTransReg_gens (s : State) (inst o v : Nat) : (setTransReg s inst o v).gens = s.gens := rfl
@[simp] theorem setTransReg_nvme (s : State) (inst o v : Nat) : (setTransReg s inst o v).nvme = s.nvme := rfl
@[simp] theorem setTransReg_ckpt (s : State) (inst o v : Nat) : (setTransReg s inst o v).ckpt = s.ckpt := rfl
@[simp] theorem setTransReg_pads (s : State) (inst o v : Nat) : (setTransReg s inst o v).pads = s.pads := rfl
@[simp] theorem setTransReg_claims (s : State) (inst o v : Nat) : (setTransReg s inst o v).claims = s.claims := rfl
@[simp] theorem setTransReg_rings (s : State) (inst o v : Nat) : (setTransReg s inst o v).rings = s.rings := rfl
@[simp] theorem setTransReg_hosts (s : State) (inst o v : Nat) : (setTransReg s inst o v).hosts = s.hosts := rfl
@[simp] theorem setTransReg_contain (s : State) (inst o v : Nat) : (setTransReg s inst o v).contain = s.contain := rfl
@[simp] theorem setTransReg_power (s : State) (inst o v : Nat) : (setTransReg s inst o v).power = s.power := rfl
@[simp] theorem setTransReg_book (s : State) (inst o v : Nat) : (setTransReg s inst o v).book = s.book := rfl
@[simp] theorem setTransReg_boot (s : State) (inst o v : Nat) : (setTransReg s inst o v).boot = s.boot := rfl
@[simp] theorem setTransReg_lands (s : State) (inst o v : Nat) : (setTransReg s inst o v).lands = s.lands := rfl
@[simp] theorem setTransReg_mmio (s : State) (inst o v : Nat) : (setTransReg s inst o v).mmio = s.mmio := rfl

/-! An update of one engine, context, paddock or ring leaves the others. -/

@[simp] theorem eng_setEng_other (s : State) (ge g : Nat) (e : Engine) (h : g ≠ ge) : eng (setEng s ge e) g = eng s g :=
  sget_sset_other _ _ _ _ _ h

@[simp] theorem eng_modEng_other (s : State) (ge g : Nat) (f : Engine → Engine) (h : g ≠ ge) : eng (modEng s ge f) g = eng s g :=
  eng_setEng_other s ge g _ h

@[simp] theorem ctxOf_modCtx_other (s : State) (c k : Nat) (f : Ctx → Ctx) (h : k ≠ c) : ctxOf (modCtx s c f) k = ctxOf s k :=
  sget_smod_other _ _ _ _ _ h

@[simp] theorem padOf_modPad_other (s : State) (p k : Nat) (f : Pad → Pad) (h : k ≠ p) : padOf (modPad s p f) k = padOf s k :=
  sget_smod_other _ _ _ _ _ h

@[simp] theorem ringOf_modRing_other (s : State) (r k : Nat) (f : Ring → Ring) (h : k ≠ r) : ringOf (modRing s r f) k = ringOf s k :=
  sget_smod_other _ _ _ _ _ h

end Sys2Proof.Machine
end

