-- ==== Sys2Proof/Tests/Slice0.lean ====
section
/-! SUPPORT. Tests: terms that each check of WellFormed refuses, small states, and witnesses that the hypotheses of each
statement can be met. -/

set_option Elab.async false

namespace Sys2Proof.Tests

open Sys2Proof Sys2Proof.Machine

/-! ### States -/

/-- A device context of device 0 in the directory at 0x100000: a first stage of four levels whose root at 0x101000 maps the first
512 GiB onto themselves in one leaf, and no second stage (R206, R207). -/
def tTab : List (Nat × Byte) := [(0x100000, 1), (0x100018, 1), (0x100019, 1), (0x10001F, 0x90), (0x101000, 0xDF)]

/-- Engine 0 runs a stream of 8 instructions at address 0 for context 0 of paddock 0, with its quarter of the scratchpad; the device
directory lies at 0x100000, and addresses translate to themselves. -/
def tEng : State :=
  { engines := [(0, { seq := { state := .running, instrCount := 8, qlen := 16, worstWaves := 100, maxYieldGap := 100 },
                      spadPoison := [(1, true)] })],
    trans := { regs := [(0x10, 0x40002)] }, mem := { bytes := tTab },
    padRanges := [(0, 3), (1, 0x12000)] }

/-- tEng with its engine changed. -/
def tWith (f : Engine → Engine) : State := setEng tEng 0 (f (eng tEng 0))

/-- tEng with its sequencer changed. -/
def tSeq (f : Seq → Seq) : State := tWith fun e => { e with seq := f e.seq }

/-- A pre-emption is requested. -/
def tPre : State := tSeq fun q => { q with preemptReq := true }
/-- The stream waits at a yield point, at its end, and with an entry left in a move queue. -/
def tYield : State := tSeq fun q => { q with wait := .yieldPt 0x400000 }
def tEnd : State := tSeq fun q => { q with wait := .endPt 0x400000 }
def tTag : Tag := { pc := 0, stamp := 5 }
def tMov (m : MovOp) : State := tWith fun e => { e with units := { mq := [(0, [m])] } }
def tBusy : State := tMov (.fill [0, 0, 0, 0, 0, 0, 0, 0] 0 tTag)
/-- Counters past both bounds. -/
def tLate : State := tWith fun e => { e with cnt := { streamWaves := 101, yieldGap := 101 } }
/-- The stream's PC lies behind its last instruction. -/
def tNoFetch : State := tSeq fun q => { q with pc := 64 }
/-- Every queue of engine 0 is full. -/
def tFullQ : State := tWith fun e => { e with
  units := { mq := [(3, List.replicate 64 (.fill [] 0 tTag))], fmtLoads := [(6, [], tTag), (7, [], tTag)] },
  arrays := [(3, { queue := List.replicate 4 (.tclr 0 tTag) })],
  chain := { queue := List.replicate 4 (.cstat 0) } }
/-- Tile 4 of array 1 is declared for context 0. -/
def tTile : State := tWith fun e => { e with accs := [(1, { tiles := [(4, { declared := true })] })] }
/-- A load of slot 6 waits; n is its descriptor's address space. -/
def tFmt (n : W64) : State := tWith fun e => { e with units := { fmtLoads := [(6, [n <<< 57, 0, 0, 0, 0, 0, 0, 0], tTag)] } }

/-- A run record: tile 4, dense, both operands FP4 of slot 4, two passes, one row, the second pass next. -/
def tWords : List W64 := [0x10200221004, 0, 0, 0, 0, 0, 0, 0, 0x3000000000000000, 4, 0, 0, 0, 0, 0, 0,
  0x3000000000000000, 4, 0, 0, 0, 0, 0, 0]
def tRunState : RunState := { addr := 0, tag := tTag, words := tWords, kpass := 1, sub := 0, reexec := false, fresh := false }
def tSet : WSet := { cells := [], code := false, src := ([], 0, 0, 0, 0) }
/-- A set in the load buffer of bank 0, and one whose first grid row stands in the bank. -/
def tLoad : Load := { bank := 0, set := tSet, arrived := 32 }
def tLoad1 : Load := { tLoad with writing := true, written := 1 }
/-- A run waits for its weights in array 0, for its pass in array 1; array 2 holds a loaded buffer. -/
def tRun : State := tWith fun e => { e with
  arrays := [(0, { run := some tRunState }), (1, { run := some tRunState, loads := [tLoad1], bank0 := some tSet }),
             (2, { loads := [tLoad] })],
  accs := [(1, { tiles := [(4, { declared := true })] })] }
def tPass : Pass :=
  { seqNo := 9, tile := 0, half := 0, mode := 0, sub := 0, wslot := 4, aslot := 4, overwrite := true, zero := false, last := true,
    bank := 0, rows := [0], nextRow := 0, words := tWords, kpass := 0, reexec := false }
/-- A pass feeds in array 0; a finished tile waits in array 1. -/
def tFeed : State := tWith fun e => { e with
  arrays := [(0, { pass := some tPass }), (1, { held := [(4, 9)] })],
  accs := [(0, { log := [{ tile := 0, half := 0, records := [(0, tTag)], opened := true }] })] }
def tStopped : State := tWith fun e => { e with arrays := [(0, { stop := .stopped })] }
/-- Context 3 with full save is on engine 0 and stops. -/
def tFull : State := { tSeq (fun q => { q with context := 3 }) with
  ctxs := [(3, { admitted := true, onGang := true, st := .stopping, sched := { fullSave := true, clusters := 1, leMask := 1 } })] }

/-- A chain program of NOP stages with INPLACE set lies at address 0 and is next in the queue. -/
def tProg : ProgF := progF [0, 0, 0x4000000000, 0, 0, 0, 0, 0, 0, 0, 0, 0, 0, 0, 0, 0]
def tChainOp : ChainOp := .run 0 1 [[], [], [], []] [0, 0] 0 tTag
def tChain : State := tWith fun e => { e with
  chain := { queue := [tChainOp] }, spad := [(20, some 64)], spadPoison := [] }
def tChainRun : State := tWith fun e => { e with chain := {
  cur := some { op := tChainOp, reads := [], start := 0, own := [], outs := [], tally := none, inplace := true, groups := 1,
                entered := 0, reexec := false, shared := 0 } } }

/-- Engine 0 waits for COND 3, engine 1 for COND 5 with a time-out. -/
def tWait : State := { tEng with engines :=
  [(0, { seq := { state := .waiting, wait := .cond 3 0 0 0 5 0 } }), (1, { taken := true, seq := { state := .waiting, wait := .cond 5 0x10000 0 0 5 1024 } })] }
/-- A FENCE.FLAG of context 3 behind a write of the same context that is not yet acknowledged. -/
def tFence : State := { harn := {
  fences := [{ ctx := 3, stamp := 5, flag := some (64, 7) }],
  pendInv := [{ line := 1, agent := 0, ctx := 3, stamp := 5 }] } }

/-- Line 1 is open; cache 0 holds line 2 in M and line 3 in S. -/
def tLineM : CLine := { st := .m, data := [], poison := false }
def tTxn : Txn :=
  { id := 0, line := 1, agent := 0, req := .rs, data := .none, acks := [], fwd := none, granted := false, lost := false, result := none, buf := [], wasDirty := false }
def tHarn : State := { harn := {
  txns := [tTxn], lines := [(2, some tLineM), (3, some { tLineM with st := .s })],
  dir := [(1, some { dstate := .s, openTx := true, owner := 0, csharers := 0, hsharers := 0, eccMark := false, stamp := 0 })] } }
def tMsgs : State := { harn := {
  txns := [tTxn],
  msgs := [.forward 0 1 0 true true, .inval 0 1 0, .invAck 0 1 0, .data 0 1 0, .compAck 0 1 0, .retry 1 0 0] } }
/-- The owner's notice of line 2 is on its way. -/
def tPut : State := { harn := {
  puts := [(0, 2, .m)], wb := [(2, some tLineM)],
  dir := [(2, some { dstate := .x, openTx := false, owner := 0, csharers := 0, hsharers := 0, eccMark := false, stamp := 0 })] } }
def tDefer : State := { harn := {
  resv := [(0, 2)], lrDefer := [(0, 2)], deferred := [.inval 0 1 96],
  pendInv := [{ line := 5, agent := 0, ctx := 3, stamp := 5 }] } }
def tCreditA : Credit := { home := 0, num := 1, agent := 0, line := 1, req := .rs, data := .none, granted := false }
def tCredit : State := { harn := { credits := [tCreditA, { tCreditA with home := 1, num := 9, line := 99, granted := true }] } }
def tAckWait : State := { harn := { txns := [{ tTxn with acks := [5] }] } }
def tRecall : State := { harn := { recalls := [(0, 1, [4, 5])] } }

/-- A combine region of home 0 at address 0, epoch 5, two contributors, the first done. -/
def tCmbEnt : CmbEntry := { base := 0, size := 4096, expected := 2, owner := 3, countBase := 0x1000000, epoch := 5, state := .opened, doneCount := 1, done := 1 }
def tCmb : State := { cmb := { tab := [(2, tCmbEnt)] } }
def tCmbRoom : State := { mem := { attr := [(1, 2)] } }
def tCmbApply : State := { cmb := { tab := [(2, { tCmbEnt with state := .applying })] } }

/-- Engine 0's package has joined a team. -/
def tTeam : State := { tEng with dict := { val := [(0x600102, some [4, 0])] }, mem := { bytes := (16, 1) :: tTab } }
/-- mov.cdone stands behind a mov.cmb of another queue. -/
def tCdone : State := tWith fun e => { e with
  units := { mq := [(0, [.cdone [] 0 0 { pc := 0, stamp := 9 }]), (1, [.cmb [] [] 0 0 tTag])] } }

/-- Port 0 is up; stream 0 is open to member 1 in class 1, its path 0 on port 0, with one message to send. -/
def tMsg : TxMsg := { id := 1, op := none, tcls := 0, step := 0, data := [(1, false)], body := .plain, bundle := none }
def tPkt : Pkt := { psn := 3, path := 0, pathSeq := 0, msgId := 1, off := 0, len := 1, resend := false, rto := 8 }
def tStr : Stream := { st := .opened, peer := 1, cls := 1, limit := 8, unacked := [], tx := [tMsg], paths := [(0, some { port := 0, entropy := 0 })] }
def tRly (x : Stream) : State := { rly := { ports := [(0, { up := true })], streams := [(0, x)] } }
def tHdr : StepHdr := { team := 0, step := 0, member := 1, lsExp := 0, halve := false, ovf := false, inv := false, poison := false, digest64 := 0 }
def tFrame (type : Nat) : RFrame := { type := type, cls := 1, dst := 0, src := 0, step := some tHdr }
def tBadPort : Arrival := { port := 1 }
def tOldPort : Arrival := { port := 0, gen := 1 }
def tPort : Arrival := { port := 0 }

/-- Member 0 of a team of two, both valid; member 1 borrows 64 bytes at 0x330000; replica group 0 of block 0 on both; step 0 has
closed; region 0 of home 0 is a busy team region of step 7. -/
def tJob : State := { tEng with
  dict := { val := [(0x600102, some [2, 0]), (0x600201, some (leBytes 8 0x200000)), (0x801101, some (leBytes 8 0x310000)),
    (0x801102, some [1, 0, 0, 0]), (0x803006, some (leBytes 8 4096)), (0x80300C, some (leBytes 8 0x340000)),
    (0x803201, some (leBytes 8 0x300000)),
    (0x803202, some [1, 0, 0, 0]), (0x804001, some (leBytes 8 0x330000)), (0x804002, some (leBytes 8 64)),
    (0x804003, some [1, 0]), (0x805101, some (leBytes 8 0x350000))] },
  mem := { bytes := tTab ++ [(0x200010, 1), (0x200030, 1), (0x300002, 0x40), (0x300009, 0x40), (0x310002, 0x32),
    (0x310007, 8), (0x320000, 2), (0x340000, 0xF4), (0x340001, 1), (0x350000, 1)] },
  team := { lending := true, unequal := [(0, 0)], repairs := [(0, some 1, 0)], notice := some 3 },
  cmb := { tab := [(0, { tCmbEnt with team := true, epoch := 7 })] },
  rly := { steps := [(0, { timer := true, closed := true, verdict := none }), (7, { timer := true })],
           streams := [(0, { tStr with st := .failed })] } }

/-- Memory bytes of 64-bit words given with their addresses, addresses rising. -/
def tBytes (l : List (Nat × Nat)) : List (Nat × Byte) :=
  l.flatMap fun x => ((leBytes 8 x.2).zipIdx.map fun b => (x.1 + b.2, b.1)).filter fun b => b.2 != 0

/-- Ring 0 holds one command of eight words; its context 0 runs on engine 0's cluster; a scheduling block for context 1 lies at
0x330000, a stream header with one instruction at 0x340000, ring entry 0 at 0x350000, and home 0 has an open region at 0x600000. -/
def tRing (priv : Bool) (w : List Nat) : State := { tEng with
  dict := { val := [(0x120001, some (leBytes 8 0x350000))] },
  rings := [(0, { st := .active, base := 0x400000, log2 := 4, priv := priv, tail := 1 })],
  ctxs := [(0, { admitted := true, sched := { qlen := 16, leMask := 1, clusters := 1, weight := 1 } })],
  pads := [(0, { st := .running, mask := 1, ringCount := 8 })],
  padRanges := [(0, 3), (1, 0x12000)],
  cmb := { tab := [(2, { tCmbEnt with base := 0x600000 })] },
  mem := { attr := [(3, 2)], bytes := tTab ++ tBytes ([(0x330000, 0x2800), (0x330008, 1), (0x330018, 1),
    (0x340000, 0x100000001), (0x340008, 100), (0x340018, 1), (0x340020, crc64 0 (leBytes 8 0)),
    (0x350000, 0x400000400000), (0x350010, 0x350800)] ++ w.zipIdx.map fun x => (0x400000 + 8 * x.2, x.1)) } }
def tCmdOf (w : List Nat) : RingCmd := { idx := 0, words := w.map (BitVec.ofNat 64) }
/-- The command of tRing is next, whole, and passes the checks of every command. -/
def tGood (priv : Bool) (op : Nat) (w : List Nat) : Bool :=
  let s := tRing priv w
  let c := tCmdOf w
  nextCmd s 0 == some (c, false) && cOp c == op && chainOk c && !headBad c && compOk (takeCmd s 0 c) (ringOf (takeCmd s 0 c) 0) c
def tWrite : List Nat := [2, 0, 0x330000, 8, 0, 0, 0, 0]
def tCmbW : List Nat := [3, 0, 0x600040, 0x500000108, 0, 0, 0, 0]
def tWaitW : List Nat := [4, 0, 0x330000, 5, 9, 0, 0, 0]
def tCreate : List Nat := [5, 0, 0x330000, 7, 0, 0, 0, 0]
def tDestroy : List Nat := [6, 0, 0, 0, 0, 0, 0, 0]
def tLaunch : List Nat := [1, 0, 0x340000, 0, 0, 0, 0, 0]


/-! ### The manual's worked examples and constants -/

/-- Chapter 2's worked decode: FP4 code 0b0111 is O9 0x08C (6), FP8 E4M3 code 0x3C is 0x07C (1.5); the product is exactly 9. -/
theorem test_worked_decode : o9E2M1 7 = 0x08C ∧ o9E4M3 0x3C = 0x07C
    ∧ fxMul (decO9 0x08C) (decO9 0x07C) = .fin false 144 (-4) := by decide
/-- R148: the check value of CRC-64 over "123456789". -/
theorem test_crc64_check_value : crc64 0 [0x31, 0x32, 0x33, 0x34, 0x35, 0x36, 0x37, 0x38, 0x39] = 0x6C40DF5F0B497347 := by
  decide +kernel
/-- FIPS 180-4: SHA-256 of "abc". -/
theorem test_sha256_abc : sha256 [0x61, 0x62, 0x63] = [0xba, 0x78, 0x16, 0xbf, 0x8f, 0x01, 0xcf, 0xea, 0x41, 0x41, 0x40, 0xde,
    0x5d, 0xae, 0x22, 0x23, 0xb0, 0x03, 0x61, 0xa3, 0x96, 0x17, 0x7a, 0x9c, 0xb4, 0x10, 0xff, 0x61, 0xf2, 0x00, 0x15, 0xad] := by
  decide +kernel
/-- Chapter 0: cd3.c07.le5 is ge 349, and le2's ge 346 stands on slot e8 once the spare has replaced e2. -/
theorem test_spare_keeps_ge : slotOf State.reset 349 = 43 * 9 + 5
    ∧ slotOf { slots := { map := [(346, some 8)] } } 346 = 43 * 9 + 8 := by decide
/-- R453: codes 0x4003 and 0x600B share bucket 0x013. -/
theorem test_shared_bucket : bucketOf 0x4003 = 0x013 ∧ bucketOf 0x600B = 0x013 := by decide
/-- Chapter 15's worked example: from 7,800 W the floor falls 200 W per window; a load floor of 5,200 W holds it there, and the
ceiling is 5,400 W. -/
theorem test_slew_example :
    (match exec (.slewWindow 5200 [] true) { dict := { val := [(0x300601, some [0x50, 0x14])] } } with
     | .next t => (t.power.floor, t.power.ceiling)
     | _ => (0, none)) = (5200, some 5400)
    ∧ (match exec (.slewWindow 7800 [] true) {} with | .next t => t.power.floor | _ => 0) = 7600 := by decide +kernel
/-- R308: with member 0 LOST, member 1 is root and members 2 to 16 report to member 1. -/
def tLost : State := { dict := { val := [(0x600102, some [17, 0]), (0x600201, some (leBytes 8 0x200000))] },
                       mem := { bytes := [(0x200010, 2)] } }
theorem test_tree_without_root : rootMember tLost = 1 ∧ parentOf tLost 5 2 = 1 ∧ parentOf tLost 5 16 = 1 := by decide +kernel
/-- R197 and R198: hbm17's first address is homed at h17, and the alias example's address names its second granule. -/
theorem test_granule_homes : homeOf 0x132_0000_0000 = 17 ∧ canon { islands := 4 } 0x920_0000_9000 = some 0x132_0000_1000 := by decide
/-- The first command of a queue runs; behind it the queue's rest stays. -/
theorem test_queue_order :
    (match step { State.reset with pending := [.groomHeartbeat 0, .tokenRefill] } with
     | .next t => t.pending
     | _ => []) = [.tokenRefill] := by decide +kernel

theorem test_ill_formed_1 :
    (Instr.ctlNop 768).wf = false ∧ (Instr.ctlLi 0 32 0).wf = false ∧ (Instr.ctlAdd 0 0 32 0).wf = false
    ∧ (Instr.ctlAdd 0 0 0 32).wf = false ∧ (Instr.movCopy 0 4 0 0).wf = false ∧ (Instr.movCopy 0 0 16 0).wf = false
    ∧ (Instr.movCopy 0 0 0 16).wf = false ∧ (Instr.mtxRun 0 4 0 0).wf = false ∧ (Instr.mtxTsave 0 0 16 0).wf = false
    ∧ (Instr.finishedTileRaise 0 0 64).wf = false ∧ (Instr.arrayHwFault 0 0 128).wf = false
    ∧ (Instr.handshakeTimeout 0 5).wf = false ∧ (Instr.vchRun 0 32 0 0).wf = false ∧ (Instr.vchRun 0 0 32 0).wf = false
    ∧ (Instr.synWait 0 16 0 0 0 0).wf = false ∧ (Instr.fenceFlagMarker 34 0).wf = false
    ∧ (Instr.fenceFlagMarker 0 4096).wf = false ∧ (Instr.offloadStreamEnable 34 0 0).wf = false
    ∧ (Instr.offloadStreamEnable 31 0 0).wf = false ∧ (Instr.offloadStreamEnable 32 32 0).wf = false
    ∧ (Instr.iotinvalVma 3 0 false 0).wf = false ∧ (Instr.iotinvalVma 0 (2 ^ 24) false 0).wf = false := by decide

theorem test_ill_formed_2 :
    (Instr.iotinvalVma 0 0 false (2 ^ 57)).wf = false ∧ (Instr.iodirInvalPdt 0 0 (2 ^ 20)).wf = false
    ∧ (Instr.rs 98 0 0 false).wf = false ∧ (Instr.rs 0 (2 ^ 44) 0 false).wf = false
    ∧ (Instr.rs 97 0 47 false).wf = false ∧ (Instr.ru 0 0 ⟨0, .store [], false, false⟩).wf = false
    ∧ (Instr.ru 0 0 ⟨0, .amo 3 0 0, false, false⟩).wf = false ∧ (Instr.ru 0 0 ⟨0, .amo 8 9 0, false, false⟩).wf = false
    ∧ (Instr.upg 96 0 ⟨48, .lr⟩).wf = false ∧ (Instr.ru 0 0 ⟨0, .sc [], false, false⟩).wf = false ∧ (Instr.rnc 0 0 65 ⟨none, false⟩).wf = false
    ∧ (Instr.rnc 107 0 8 ⟨some { dev := 2 ^ 24, pid := none, relaxed := false }, false⟩).wf = false ∧ (Instr.wnc 0 0 [] ⟨false, none⟩).wf = false
    ∧ (Instr.wnc 108 0 [(0, false)] ⟨false, none⟩).wf = false ∧ (Instr.anc 0 0 2 0 ⟨0, false⟩).wf = false
    ∧ (Instr.anc 0 0 8 9 ⟨0, false⟩).wf = false ∧ (Instr.lrDeferEnd 96).wf = false
    ∧ (Instr.combineOpen 0 (List.replicate 9 0) 0).wf = false ∧ (Instr.combineOpen 0 (List.replicate 8 0) 4096).wf = false
    ∧ (Instr.combineContribution 0 5 0 0 ⟨[], [(0, false)]⟩ none).wf = false
    ∧ (Instr.combineContribution 0 0 (2 ^ 32) 0 ⟨[], [(0, false)]⟩ none).wf = false
    ∧ (Instr.combineContribution 0 0 0 256 ⟨[], [(0, false)]⟩ none).wf = false := by decide

theorem test_ill_formed_3 :
    (Instr.combineContribution 0 0 0 0 ⟨[], [(0, false)]⟩ (some 768)).wf = false ∧ (Instr.combineClose 0 (some 4096)).wf = false
    ∧ (Instr.portLinkUp ⟨18, 0⟩).wf = false ∧ (Instr.laneFailure 0 9).wf = false ∧ (Instr.packetTransmit 16384).wf = false
    ∧ (Instr.frameData { port := 18 } { type := 0, cls := 0, dst := 0, src := 0 }).wf = false
    ∧ (Instr.frameData { port := 0, vid := some 4096 } { type := 0, cls := 0, dst := 0, src := 0 }).wf = false
    ∧ (Instr.frameData { port := 0 } { type := 256, cls := 0, dst := 0, src := 0 }).wf = false
    ∧ (Instr.frameData { port := 0 } { type := 0, cls := 8, dst := 0, src := 0 }).wf = false
    ∧ (Instr.frameData { port := 0 } { type := 0, cls := 0, dst := 65536, src := 0 }).wf = false
    ∧ (Instr.frameData { port := 0 } { type := 0, cls := 0, dst := 0, src := 65536 }).wf = false
    ∧ (Instr.frameData { port := 0 } { type := 0, cls := 0, dst := 0, src := 0, path := 16 }).wf = false
    ∧ (Instr.frameData { port := 0 } { type := 0, cls := 0, dst := 0, src := 0, psn := 2 ^ 32 }).wf = false
    ∧ (Instr.frameData { port := 0 } { type := 0, cls := 0, dst := 0, src := 0, msgOff := 2 ^ 32 }).wf = false
    ∧ (Instr.retransmitTimeout 0 (2 ^ 32) 0).wf = false ∧ (Instr.stepDeadline (2 ^ 32)).wf = false
    ∧ (Instr.relayUnitFault 2).wf = false ∧ (Instr.streamClose 65536).wf = false
    ∧ (Instr.verdictReport 16384 0 false false).wf = false ∧ (Instr.verdictReceive 0 false false 128 0).wf = false
    ∧ (Instr.verdictReceive 0 false false (-129) 0).wf = false ∧ (Instr.verdictReceive 0 false false 0 65536).wf = false := by decide

theorem test_ill_formed_4 :
    (Instr.lendWriteRequest 0 (2 ^ 36) [(0, false)]).wf = false ∧ (Instr.lendReadRequest 0 0 (2 ^ 24)).wf = false
    ∧ (Instr.lendEnableWrite 256).wf = false ∧ (Instr.groupTallyReport 0 0 65536 0).wf = false
    ∧ (Instr.replicaTripleExchange 0 4194304 0 []).wf = false ∧ (Instr.declareLost 65536).wf = false
    ∧ (Instr.nvmeRingPoll 0 64).wf = false ∧ (Instr.nvmeCompletion 0 (2 ^ 32) 0 []).wf = false
    ∧ (Instr.nvmeCompletion 0 0 (2 ^ 15) []).wf = false ∧ (Instr.schedulerDecision 96 0 []).wf = false
    ∧ (Instr.schedulerDecision 0 0 [(4096, 0, 0, 0, 0)]).wf = false
    ∧ (Instr.paddockClustersWrite 0 false (2 ^ 64)).wf = false ∧ (Instr.ringRangeWrite 0 false 65536).wf = false
    ∧ (Instr.paddockRangeWrite 0 64 0 0).wf = false ∧ (Instr.paddockRangeWrite 0 0 2 0).wf = false
    ∧ (Instr.doorbell 32768 ⟨8, 0⟩).wf = false ∧ (Instr.doorbell 0 ⟨2, 0⟩).wf = false ∧ (Instr.ringEnable 8 0).wf = false
    ∧ (Instr.hostDieReset 256 []).wf = false ∧ (Instr.hostCoreReset 256 [] []).wf = false
    ∧ (Instr.hostDieResetExit 2).wf = false ∧ (Instr.registerWrite 98 0 8 0).wf = false := by decide

theorem test_ill_formed_5 :
    (Instr.registerWrite 95 0 8 0).wf = false ∧ (Instr.snapshotRead 96 ⟨0, 16⟩).wf = false ∧ (Instr.recorderFailure 2).wf = false
    ∧ (Instr.gaitMonitorSample 96 0 0).wf = false ∧ (Instr.gaitMonitorSample 0 65536 0).wf = false
    ∧ (Instr.gaitMonitorSample 0 0 65536).wf = false
    ∧ (Instr.governorInterval (List.replicate 9 0) 0 (List.replicate 2 0) (List.replicate 12 0) (List.replicate 32 0) [] []).wf = false
    ∧ (Instr.governorInterval (List.replicate 8 0) 0 (List.replicate 3 0) (List.replicate 12 0) (List.replicate 32 0) [] []).wf = false
    ∧ (Instr.governorInterval (List.replicate 8 0) 0 (List.replicate 2 0) (List.replicate 13 0) (List.replicate 32 0) [] []).wf = false
    ∧ (Instr.governorInterval (List.replicate 8 0) 0 (List.replicate 2 0) (List.replicate 12 0) (List.replicate 33 0) [] []).wf = false
    ∧ (Instr.governorInterval (List.replicate 8 0) 0 (List.replicate 2 0) (List.replicate 12 0) (List.replicate 32 0) [8] []).wf = false
    ∧ (Instr.sensorCheck 12 []).wf = false ∧ (Instr.eyeRetrainScan 1280).wf = false ∧ (Instr.slotAdmission 864).wf = false
    ∧ (Instr.containmentReport 20 0 false [] []).wf = false ∧ (Instr.containmentReport 0 4320 false [] []).wf = false
    ∧ (Instr.pkgResetRelease 4 ⟨false, {}⟩).wf = false ∧ (Instr.pkgResetRelease 0 ⟨false, { noSecret := [2] }⟩).wf = false ∧ (Instr.powerGoodRise 12 []).wf = false
    ∧ (Instr.standbyTakeover [8]).wf = false ∧ (Instr.mgmtRingCommand 0 (.drain 864)).wf = false
    ∧ (Instr.mgmtRingCommand 0 (.rein 8 0)).wf = false ∧ (Instr.mgmtRingCommand 0 (.rein 0 17)).wf = false
    ∧ (Instr.groomHeartbeat 12).wf = false := by decide

theorem test_ill_formed_6 :
    (Instr.repairRecordCommit 5).wf = false ∧ (Instr.repairRecordCommit 0).wf = false
    ∧ (Instr.attestNonce 0 (List.replicate 33 0)).wf = false ∧ (Instr.odpRead (some 256) []).wf = false
    ∧ (Instr.mctpSetEndpointId 4 0).wf = false ∧ (Instr.mctpSetEndpointId 0 256).wf = false
    ∧ (Instr.mctpGetVersionSupport 256).wf = false ∧ (Instr.mctpGetVendorMsgSupport 256).wf = false
    ∧ (Instr.i3cEntdaa 128).wf = false ∧ (Instr.i3cSetdasa 128 0).wf = false ∧ (Instr.mailboxSubmit 16 0 {}).wf = false ∧ (Instr.mailboxDoneClear ⟨16, 0⟩).wf = false := by decide

theorem test_oversized_1 :
    (Instr.streamQuerySelect 0 (List.replicate 2049 0)).wf = false := by
  simp only [Instr.wf, maxSize, List.length_replicate]; decide

theorem test_oversized_2 :
    (Instr.nvmeCompletion 0 0 0 (List.replicate 262145 0)).wf = false := by
  simp only [Instr.wf, maxSize, List.length_replicate]; decide

theorem test_oversized_3 :
    (Instr.recoveryImageChunk (List.replicate 16777217 0) false false).wf = false := by
  simp only [Instr.wf, maxSize, List.length_replicate]; decide

theorem test_oversized_4 :
    (Instr.odpRead none (List.replicate 9001 0)).wf = false := by
  simp only [Instr.wf, maxSize, List.length_replicate]; decide

/-! EmptyQueueLeavesTheBlockAlone -/

theorem test_wit_empty_queue : State.reset.pending = [] := rfl

/-! MemoryStaysCanonical -/

theorem test_wit_memory_canonical : State.reset.mem.wf = true ∧ step State.reset = .next State.reset := ⟨by decide, rfl⟩

/-! StacksLieLinearlyBesideTheirHomes -/

theorem test_wit_map : (31 : Nat) < 32 ∧ 0x11_FFFF_FFFF ≤ 0x11_FFFF_FFFF ∧ State.reset.map.retired ≠ some (31 / 4)
    ∧ ({ retired := some 4 } : MapCfg).retired = some (17 / 4) ∧ homeOf 0x132_0000_0000 = 17 := by decide

/-! AliasWindowsInterleaveTheirStacks -/

theorem test_wit_alias : ({ islands := 4 } : MapCfg).islands = 4 ∧ (2 : Nat) = 8 / ({ islands := 4 } : MapCfg).islands ∧ 4 % 2 = 0
    ∧ 4 + 2 ≤ 8 ∧ (∀ j, j < 2 → ({ islands := 4 } : MapCfg).retired ≠ some (4 + j))
    ∧ canon { islands := 4 } 0x920_0000_5123 = some 0x17A_0000_0123 := by decide

/-! NineBitOperandsHaveTheirValues -/

theorem test_wit_o9 : (31 : Nat) < 32 ∧ (7 : Nat) < 8 ∧ decO9 (256 * b2n true + 8 * 31 + 7) = .poison
    ∧ decO9 (256 * b2n true + 8 * 30 + 7) = .fin true 15 12 ∧ decO9 1 = .fin false 1 (-17) := by decide

/-! StreamWordsRoundTrip -/

theorem test_wit_words : (Instr.mtxTsave 767 3 15 63).wf = true ∧ encodeTheser (.mtxTsave 767 3 15 63) = some 0x3F01E0062A
    ∧ decodeTheser 767 0x3F01E0062A = some (.mtxTsave 767 3 15 63) ∧ (decodeTheser 5 0).isSome = true
    ∧ decodeTheser 0 (6 : W64).toNat = none ∧ ready tEng 0 [] = true := by decide

/-- Words written out from the fields of R172: add s3, s1, s2; mov.cmb d4, d2 on queue 3 with s5, contributor 7; mtx.tsave of array
3, tile 63, d15; vch.run with its program at s9, count at s4, FLAGS 1; rly.send d1, s2, s3, IMM 0x12A; syn.wait COND 5 on s1, s2, s3
with time-out 1. -/
theorem test_decode_words :
    decodeTheser 0 (0x03 * 2 ^ 3 + 3 * 2 ^ 9 + 1 * 2 ^ 14 + 2 * 2 ^ 19) = some (.ctlAdd 0 3 1 2)
    ∧ decodeTheser 0 (1 + 0x02 * 2 ^ 3 + 4 * 2 ^ 9 + 2 * 2 ^ 13 + 3 * 2 ^ 17 + 5 * 2 ^ 19 + 7 * 2 ^ 32) = some (.movCmb 0 3 2 4 5 7)
    ∧ decodeTheser 0 (2 + 0x05 * 2 ^ 3 + 3 * 2 ^ 9 + 15 * 2 ^ 21 + 63 * 2 ^ 32) = some (.mtxTsave 0 3 15 63)
    ∧ decodeTheser 0 (3 + 0x00 * 2 ^ 3 + 9 * 2 ^ 9 + 4 * 2 ^ 14 + 1 * 2 ^ 32) = some (.vchRun 0 9 4 1)
    ∧ decodeTheser 0 (4 + 0x01 * 2 ^ 3 + 1 * 2 ^ 13 + 2 * 2 ^ 17 + 3 * 2 ^ 22 + 0x12A * 2 ^ 32) = some (.rlySend 0 1 2 3 0x12A)
    ∧ decodeTheser 0 (5 + 0x02 * 2 ^ 3 + 5 * 2 ^ 9 + 1 * 2 ^ 13 + 2 * 2 ^ 18 + 3 * 2 ^ 23 + 0x10000 * 2 ^ 32) = some (.synWait 0 5 1 2 3 0x10000)
    ∧ decodeTheser 0 (1 + 0x00 * 2 ^ 3 + 1 * 2 ^ 24) = none ∧ decodeTheser 0 (0x0E * 2 ^ 3) = none := by decide

/-! ScalarRegisterWriteAndRead -/

theorem test_wit_scalar_register : swf 0 ({ regs := [(3, 5)] } : Engine).regs = true ∧ (31 : Nat) ≠ 0 := by decide

/-! CtlArithmeticWritesOneRegister -/

theorem test_wit_ctl_arithmetic : ready tEng 0 [] = true ∧ ready tEng 0 [31] = true ∧ ready tEng 0 [31, 1, 2] = true
    ∧ ready tEng 0 [0, 0] = true := by decide
theorem test_wit_shift_bounds : (63 : W32).toNat < 64 ∧ 64 ≤ (64 : W32).toNat := by decide

/-! BranchesGoToTheirTarget -/

theorem test_wit_branches : ready tEng 0 [1, 2] = true ∧ ready tEng 0 [31] = true ∧ ready tEng 0 [0] = true := by decide

/-! SequencerScratchpadAndDescriptorAccess -/

theorem test_wit_spad_access : ready tEng 0 [2, 1] = true ∧ ready tEng 0 [1] = true ∧ ready tEng 0 [2] = true
    ∧ (spadRead (eng tEng 0) (spadEa tEng 0 0 0) 64).any Prod.snd = false
    ∧ (spadRead (eng tEng 0) (spadEa tEng 0 0 64) 8).any Prod.snd = true
    ∧ (spadRead (eng tEng 0) (spadEa tEng 0 0 64) 64).any Prod.snd = true := by decide

/-! YieldPointsAndStreamEndWait -/

theorem test_wit_yield : ready tEng 0 [] = true ∧ wordIllegal (6 : W64).toNat = true ∧ 2 ^ 23 ≤ (0x800000 : W32).toNat
    ∧ (0x400000 : W32).toNat < 2 ^ 23 ∧ yieldFault (view (issued (eng tEng 0)) uSeq tEng.stamp) (0x400000 : W32).toNat = none
    ∧ yieldFault (view (issued (eng tEng 0)) uSeq tEng.stamp) (1 : W32).toNat = some (0x22, 1)
    ∧ (eng tEng 0).seq.preemptReq = false := by decide
theorem test_wit_yield_preempt : ready tPre 0 [] = true ∧ (eng tPre 0).seq.preemptReq = true
    ∧ yieldFault (view (issued (eng tPre 0)) uSeq tPre.stamp) 0x400000 = none := by decide

/-! StoppedEnginesSaveOrEnd -/

theorem test_wit_stopped : (eng tYield 0).seq.wait = .yieldPt 0x400000 ∧ unitsIdle (eng tYield 0) = true
    ∧ (eng tEnd 0).seq.wait = .endPt 0x400000 ∧ unitsIdle (eng tEnd 0) = true ∧ unitsIdle (eng tBusy 0) = false
    ∧ (eng tLate 0).seq.maxYieldGap < (eng tLate 0).cnt.yieldGap.toNat := by decide
theorem test_wit_overrun : ((eng tLate 0).seq.worstWaves.toNat : Int) < (eng tLate 0).cnt.streamWaves.toNat
      - (eng tLate 0).cnt.extwaitWaves.toNat - (eng tLate 0).cnt.reexecWaves.toNat - (eng tLate 0).cnt.stoppedWaves.toNat
    ∧ (eng tEng 0).cnt.yieldGap.toNat ≤ (eng tEng 0).seq.maxYieldGap
    ∧ ((eng tEng 0).cnt.streamWaves.toNat : Int) - (eng tEng 0).cnt.extwaitWaves.toNat - (eng tEng 0).cnt.reexecWaves.toNat
      - (eng tEng 0).cnt.stoppedWaves.toNat ≤ (eng tEng 0).seq.worstWaves.toNat := by decide

/-! IssueWaitsOrRaisesTheFetchFault -/

theorem test_wit_fetch_fault : canIssue (eng tNoFetch 0) = true ∧ regsFree (eng tNoFetch 0) [] = true
    ∧ slotRuns tNoFetch 0 = true ∧ (fetchFault tNoFetch 0).1 = some 0x2B := by decide
theorem test_wit_no_issue : canIssue (eng tEnd 0) = false := by decide

/-! MovInstructionsEnterTheirQueue -/

theorem test_wit_mov_issue : ready tEng 0 [] = true ∧ ready tEng 0 [5] = true ∧ (movq (eng tEng 0) 0).length < 64
    ∧ (255 : W32).toNat < 256 ∧ 256 ≤ (256 : W32).toNat ∧ 64 ≤ (movq (eng tFullQ 0) 3).length := by decide

/-! MovesAndSlotLoadsFinishWhole -/

/-- Descriptors of 2 rows of 8 scratchpad bytes at a base, 8 bytes apart. -/
def tRows (base : W64) : List W64 := [base, 0, 8, 0, 0, 0, 0x2000008, 0]
theorem test_wit_copy : movq (eng (tMov (.copy (tRows 0) (tRows 32) tTag)) 0) 0 = [.copy (tRows 0) (tRows 32) tTag]
    ∧ movHeld (tMov (.copy (tRows 0) (tRows 32) tTag)) 0 (.copy (tRows 0) (tRows 32) tTag) = false
    ∧ (dReserved (tRows 0) || dReserved (tRows 32)) = false ∧ dSpace (tRows 0) = 0 ∧ dSpace (tRows 32) = 0
    ∧ dExt0 (tRows 0) ≠ 0 ∧ dExt1 (tRows 0) ≠ 0 ∧ dExt0 (tRows 0) = dExt0 (tRows 32) ∧ dExt1 (tRows 0) = dExt1 (tRows 32)
    ∧ rowsMeet (dRows (tRows 0)) (dRows (tRows 32)) = false
    ∧ rowsInSpad (eng (tMov (.copy (tRows 0) (tRows 32) tTag)) 0) (dRows (tRows 0)) = none
    ∧ rowsInSpad (eng (tMov (.copy (tRows 0) (tRows 32) tTag)) 0) (dRows (tRows 32)) = none := by decide
theorem test_wit_slot_stands : slotStopped tEng 0 = false ∧ slotStopped (holdSlot tEng 0) 0 = true := by decide
theorem test_wit_copy_meets : rowsMeet (dRows (tRows 0)) (dRows (tRows 8)) = true := by decide
theorem test_wit_fill : dReserved (tRows 0) = false ∧ dExt0 (tRows 0) % 8 = 0
    ∧ movHeld (tMov (.fill (tRows 0) 7 tTag)) 0 (.fill (tRows 0) 7 tTag) = false
    ∧ dExt0 [0, 0, 8, 0, 0, 0, 0x2000009, 0] % 8 ≠ 0 := by decide
theorem test_wit_mov_held : movHeld tCdone 0 (.cdone [] 0 0 { pc := 0, stamp := 9 }) = true := by decide
theorem test_wit_fmt_load : slotBusy (eng (tFmt 1) 0) 6 5 = false
    ∧ (eng (tFmt 1) 0).units.fmtLoads = [(6, [0x200000000000000, 0, 0, 0, 0, 0, 0, 0], tTag)]
    ∧ dReserved [0x200000000000000, 0, 0, 0, 0, 0, 0, 0] = false ∧ dSpace [0x200000000000000, 0, 0, 0, 0, 0, 0, 0] = 1 := by decide

/-! HardwareFaultsOfTheEngine -/

theorem test_wit_move_fault : (eng tEng 0).seq.state ≠ .faulted ∧ movq (eng tEng 0) 0 = [] ∧ movFaulted (eng tEng 0) 0 = false
    ∧ movFaulted (markMov (eng tEng 0) 0) 0 = true ∧ movq (eng tBusy 0) 0 ≠ []
    ∧ movq (eng (tMov (.cmb [] [] 0 0 tTag)) 0) 0 = [.cmb [] [] 0 0 tTag] := by decide
theorem test_wit_move_fault_refused :
    (match (runCmb (tMov (.cmb [] [] 0 0 tTag)) 0 0 5 [] [] 0 0 true).1 with | .error e => e.1 | .ok _ => 0) = 0x23 := by decide

/-! MtxInstructionsEnterTheArrayQueue -/

theorem test_wit_mtx_issue : ready tEng 0 [4] = true ∧ arrayDepth (arrOf (eng tEng 0) 2) < 4
    ∧ (63 : W32).toNat < 64 ∧ 64 ≤ (64 : W32).toNat ∧ (0x2BF : W32).toNat < 1024 ∧ bits 0x2BF 7 6 = 2 ∧ bits 0x2BF 9 8 = 2
    ∧ bits 0xC0 7 6 = 3 ∧ 4 ≤ arrayDepth (arrOf (eng tFullQ 0) 3) ∧ (eng tEng 0).units.fmtLoads.length < 2
    ∧ 2 ≤ (eng tFullQ 0).units.fmtLoads.length := by decide

/-! TileInstructionsTakeEffect -/

theorem test_wit_tiles : tileBad (accOf (eng tTile 0) 1) 4 (eng tTile 0).seq.context = false
    ∧ tileBad (accOf (eng tTile 0) 1) 8 (eng tTile 0).seq.context = true
    ∧ 6 % tileSlots 2 0 ≠ 0 ∧ 8 % tileSlots 2 0 = 0
    ∧ ((tilesMeeting (accOf (eng tTile 0) 1) 4 1).any fun w => w.2.owner != 0) = false
    ∧ ((tilesMeeting (accOf (eng tTile 0) 1) 4 1).any fun w => w.2.owner != 7) = true := by decide
theorem test_wit_tile_image : dReserved (tRows 4096) = false ∧ dSpace (tRows 4096) = 0 ∧ dBase (tRows 4096) % 8 = 0
    ∧ spadOk (eng tTile 0) (dBase (tRows 4096)) (tileImageBytes (tileOf (accOf (eng tTile 0) 1) 4)) = true := by decide
theorem test_wit_tile_image_matches :
    let back (s : State) := raceBytes (eng s 0) (uArr 1) 5 false 4096 (spadRead (eng s 0) 4096 (tileImageBytes (tileOf (accOf (eng s 0) 1) 4)))
    imageMatches (tileOf (accOf (eng tTile 0) 1) 4) (back tTile) = true
    ∧ imageMatches { tileOf (accOf (eng tTile 0) 1) 4 with shape := 1 } (back tTile) = false := by decide +kernel

/-! ArrayPassesFeedAndDrain -/

theorem test_wit_array_calm : slotState tRun (slotOf tRun 0) = .inService ∧ sget 0 tRun.rein (dieOfGe 0) = 0
    ∧ (arrOf (eng tRun 0) 3).run = none ∧ slotStopped tRun 0 = false ∧ (packOf tRun (slotOf tRun 0) 0).on = false := by decide
theorem test_wit_array_shadow : (arrOf (eng tRun 0) 0).run = some tRunState ∧ (arrOf (eng tRun 0) 0).stop = .free
    ∧ (arrOf (eng tRun 0) 0).loads = []
    ∧ (loadPos (view (eng tRun 0) 5 5) (3 * rPasses tRunState.words + 1) 0 tRunState).isSome = true
    ∧ weightFormatOk (view (eng tRun 0) 5 5) tRunState.words = true ∧ weightFault (view (eng tRun 0) 5 5) tRunState = none := by
  decide
theorem test_wit_array_bank : (arrOf (eng tRun 0) 2).loads = [tLoad] ∧ bankWriteReady (arrOf (eng tRun 0) 2) [] tLoad = true := by decide
theorem test_wit_array_path : ({ tLoad with arrived := 0 } : Load).arrived < 31 ∧ tLoad.arrived = 32 ∧ tLoad.written < 31 := by decide
theorem test_wit_array_pass : (arrOf (eng tRun 0) 1).run = some tRunState ∧ (arrOf (eng tRun 0) 1).pass = none
    ∧ scoreHeld (eng tRun 0) 1 tRunState = false ∧ tRunState.fresh = false ∧ tRunState.kpass ≠ 0
    ∧ (waitingLoads (arrOf (eng tRun 0) 1)).head? = some tLoad1 ∧ rPolRest tRunState.words = false
    ∧ passRefusal (view (eng tRun 0) 6 5) (arrOf (eng tRun 0) 1) (accOf (eng tRun 0) 1) tRunState = none
    ∧ passFault (view (eng tRun 0) 6 5) tRunState = none ∧ loadWaits (view (eng tRun 0) 6 5) (arrOf (eng tRun 0) 1) tRunState = false
    ∧ loadWaits (view (eng tRun 0) 5 5) (arrOf (eng tRun 0) 0) tRunState = true ∧ needsLoad tRunState = true := by decide
theorem test_wit_array_refusals : passRefusal (eng tRun 0) { arrOf (eng tRun 0) 1 with loads := [{ tLoad1 with bad := true }] }
      (accOf (eng tRun 0) 1) tRunState = some 0x22
    ∧ openRefusal (arrOf (eng tFeed 0) 0) (accOf (eng tFeed 0) 0) [0x10200221000] = some 0x25
    ∧ passFault { eng tRun 0 with seq := { (eng tRun 0).seq with qlen := 0 } } tRunState ≠ none
    ∧ scoreHeld (setArr (eng tRun 0) 1 { arrOf (eng tRun 0) 1 with held := [(4, 9)] }) 1 { tRunState with fresh := true } = true := by
  decide
theorem test_wit_array_wave : arrActive (arrOf (eng tRun 0) 2) false = false ∧ (arrOf (eng tFeed 0) 0).stop = .free
    ∧ (arrOf (eng tFeed 0) 0).pass = some tPass ∧ (arrOf (eng tFeed 0) 0).credits ≠ 0
    ∧ bankPending (arrOf (eng tFeed 0) 0) 0 = false
    ∧ (arrOf (eng tFeed 0) 0).held = [] ∧ reexecLead (eng tFeed 0) 0 = false
    ∧ (setArr (eng tFeed 0) 0 { arrOf (eng tFeed 0) 0 with credits := 0 }).arrays ≠ [] ∧ heldOff tRun 0 = false := by decide
theorem test_wit_array_finished : (arrOf (eng tFeed 0) 1).held.find? (fun z => z.1 == 4) = some (4, 9)
    ∧ ftqFree (eng tFeed 0) = some 0 ∧ inFlight (arrOf (eng tFeed 0) 1) 4 = false
    ∧ (arrOf (eng tFeed 0) 1).stop = .free ∧ slotStopped tFeed 0 = false
    ∧ ftqFree { eng tFeed 0 with ftq := (List.range 16).map fun q => (q, some 1) } = none := by decide

/-! ArrayFaultsAndStops -/

theorem test_wit_array_fault : (accOf (eng tFeed 0) 0).log ≠ [] ∧ abandonedTiles (arrOf (eng tFeed 0) 0) = [0]
    ∧ redoRecords (accOf (eng tFeed 0) 0) [0] ≠ [] ∧ redoRecords (accOf (eng tFeed 0) 1) [] = []
    ∧ swf {} (eng tFeed 0).arrays = true ∧ (arrOf (eng tFeed 0) 0).pass = some tPass := by decide
theorem test_wit_array_fault_second :
    (arrOf (setArr (eng tFeed 0) 0 { arrOf (eng tFeed 0) 0 with hwPending := true }) 0).hwPending = true := by decide
theorem test_wit_array_resume : (arrOf (eng tStopped 0) 0).stop = .stopped ∧ (eng tStopped 0).seq.state = .running
    ∧ (arrOf (eng tEng 0) 0).stop ≠ .stopped := by decide
theorem test_wit_full_save : (ctxOf tFull 3).admitted = true ∧ (ctxOf tFull 3).onGang = true
    ∧ (ctxOf tFull 3).sched.fullSave = true ∧ (ctxOf tFull 3).st = .stopping ∧ gang (ctxOf tFull 3) = [0]
    ∧ (ctxOf tEng 3).sched.fullSave = false := by decide

/-! ChainInstructionsEnterTheQueue -/

theorem test_wit_vch_issue : ready tEng 0 [4] = true ∧ chainDepth (eng tEng 0) < 4 ∧ 4 ≤ chainDepth (eng tFullQ 0)
    ∧ progRegs (eng tEng 0) (rdS (eng tEng 0) 9).toNat = ([0, 0], 0, false) ∧ ready tEng 0 [9, 0, 0, 0] = true
    ∧ tallyHeld (eng tEng 0) 0 false = false ∧ (0x3FFF : W32).toNat < 2 ^ 14 ∧ 2 ^ 14 ≤ (0x4000 : W32).toNat
    ∧ bitAt 0xFE 0 = false ∧ bitAt 1 0 = true ∧ (eng tEng 0).chain.cur = none ∧ (eng tEng 0).chain.queue = [] := by decide

/-! ChainInstructionsStartAndComplete -/

theorem test_wit_chain_start : (eng tChain 0).chain.cur = none ∧ (eng tChain 0).chain.queue = [tChainOp]
    ∧ slotState tChain (slotOf tChain 0) = .inService ∧ sget 0 tChain.rein (dieOfGe 0) = 0
    ∧ (eng tChain 0).chain.stopped = false ∧ (eng tChain 0).units.fmtLoads = [] ∧ spadOk (eng tChain 0) 0 128 = true := by
  decide
theorem test_wit_chain_program : progBad tProg = false ∧ tProg.inplace = true
    ∧ startBad (eng tChain 0) tProg 1 (fun _ => []) = none ∧ outsMapped 0 [] tChain = (none, tChain) := ⟨by decide, by decide, by decide, rfl⟩
theorem test_wit_chain_deadlock :
    tileWait { eng tTile 0 with arrays := [(1, { held := [(4, 9)] })], ftq := (List.range 16).map fun q => (q, some 0) }
      false [] 0 false { tProg.in0 with kind := 2 } [0x400000000000000, 0x22000] = .deadlock := by decide
theorem test_wit_chain_done : (eng tChainRun 0).chain.cur.map ChainRun.outs = some [] ∧ (eng tChainRun 0).chain.cur.map ChainRun.groups = some 1
    ∧ (eng tChainRun 0).chain.cur.map ChainRun.inplace = some true ∧ fenceHolds tChainRun 0 5 = false
    ∧ (eng tChainRun 0).chain.cur.map (lateRace (eng tChainRun 0)) = some false
    ∧ slotStopped tChainRun 0 = false ∧ (eng tChainRun 0).chain.hwPending = false := by decide
theorem test_wit_chain_stopped : ({ (eng tChainRun 0).chain with stopped := true } : Chain).stopped = true
    ∧ ({ (eng tChain 0).chain with stopped := true } : Chain).cur = none := by decide
theorem test_wit_curve : curveImageBad [] = true := by decide

/-! SynInstructionsFenceAndWait -/

theorem test_wit_syn : ready tEng 0 [0, 0] = true ∧ ready tEng 0 [0, 0, 5] = true ∧ (rdS (eng tEng 0) 0).toNat % 8 = 0
    ∧ bits (0x10000 : W32).toNat 31 16 ≠ 0 ∧ bits (0xFF03 : W32).toNat 31 16 = 0 := by decide
theorem test_wit_syn_wait : swf {} tEng.engines = true ∧ (eng tWait 0).seq.wait = .cond 3 0 0 0 5 0
    ∧ condHolds (waitWaves (eng tWait 0) 3 8) 3 0 = true ∧ (eng tWait 1).seq.wait = .cond 5 0x10000 0 0 5 1024 := by decide

/-! FencesDrainHomesAndTranslations -/

theorem test_wit_fences : tFence.harn.fences.any (fun f => f.ctx == 3 && f.flag.isSome) = true
    ∧ tFence.harn.fences.find? (fun f => f.ctx == 3 && f.flag.isSome) = some { ctx := 3, stamp := 5, flag := some (64, 7) }
    ∧ ctxVisible tFence 3 5 = true ∧ ctxVisible tFence 3 6 = false
    ∧ tFence.harn.fences.any (fun f => f.ctx == 4 && f.flag.isSome) = false := by decide
theorem test_wit_stale_full : 4096 ≤ (List.replicate 4096 (0 : Nat)).length ∧ (sget [] State.reset.harn.stale 0).length < 4096 :=
  ⟨Nat.le_of_eq List.length_replicate.symm, by decide⟩
theorem test_wit_trans : State.reset.trans.fences.find? (fun f => f.1 == 1) = none
    ∧ ({ State.reset with trans := { fences := [(1, some (64, 7))] } } : State).trans.fences.find? (fun f => f.1 == 1)
      = some (1, some (64, 7)) ∧ canon State.reset.map 64 = some 64 ∧ (2 : Nat) ≠ 0 ∧ (2 ^ 20 - 1 : Nat) < 2 ^ 20 := by decide

/-! RegionAttributesAndOffloadStreams -/

theorem test_wit_attr : State.reset.attrCmd.busy = false ∧ bitAt (0x8000000000000001 : W64).toNat 63 = true
    ∧ (attrCheck State.reset 0 1).toOption = some [0] ∧ (attrCheck State.reset 1 1).toOption = none ∧ bitAt (0 : W64).toNat 63 = false := by decide
theorem test_wit_attr_busy : ({ State.reset with attrCmd := { run := (0, 1), busy := true } } : State).attrCmd.busy = true
    ∧ (attrRegions State.reset.map (attrBase 0) (attrCount 1)).toOption = some [0] := by decide

/-! MemoryStoresExactlyItsBytes -/

theorem test_wit_store : ({} : Mem).wf = true ∧ isLpHome (homeOf 0) = false
    ∧ ([((1 : Byte), true)] : List PByte).any Prod.snd = true ∧ (List.replicate 64 ((1 : Byte), false)).any Prod.snd = false
    ∧ (List.replicate 64 ((1 : Byte), false)).length = 64 ∧ ([((1 : Byte), false)] : List PByte).length ≠ 64 := by decide

/-! HarnessRequestsAtTheHome -/

theorem test_wit_harness : powered State.reset = true ∧ canon State.reset.map 64 = some 64 ∧ canon State.reset.map (2 ^ 44) = none
    ∧ mayCache State.reset 0 64 = true ∧ mayCache State.reset 96 64 = true ∧ cached State.reset 0 1 = none
    ∧ actFits 64 (.store [1]) = true ∧ isHost 96 = true ∧ isHost 0 = false ∧ walkerAct (.amo 8 4 0x40) = true
    ∧ writeRefused State.reset 64 false = false ∧ attrKind State.reset.mem 64 ≠ 2
    ∧ State.reset.harn.credits = [] ∧ outstanding State.reset 0 0 = 0 ∧ ownerOf State.reset 1 = none
    ∧ maySend State.reset 0 1 true = true ∧ lineBusy State.reset 1 = false ∧ State.reset.harn.queued = [] := by decide
theorem test_wit_harness_open : canOpen State.reset 1 = true ∧ canOpen tHarn 1 = false ∧ cached tHarn 0 2 = some tLineM
    ∧ tLineM.st = .m ∧ cached tHarn 0 3 = some { tLineM with st := .s } ∧ walkerAct (.store []) = false
    ∧ writeRefused { State.reset with mem := { attr := [(0, 2)] } } 64 true = true
    ∧ mayCache { State.reset with mem := { attr := [(0, 2)] } } 96 64 = false := by decide

/-! HarnessMessagesCreditsAndFailures -/

theorem test_wit_harn_msgs : canon tMsgs.map 64 = some 64 ∧ lrHolds tMsgs 0 1 = false
    ∧ tMsgs.harn.msgs = [.forward 0 1 0 true true, .inval 0 1 0, .invAck 0 1 0, .data 0 1 0, .compAck 0 1 0, .retry 1 0 0]
    ∧ (tMsgs.harn.txns.find? fun t => t.id == 0) = some tTxn ∧ tTxn.acks = [] ∧ cached tHarn 0 2 = some tLineM
    ∧ lineOpen tHarn 2 = false ∧ lineOpen tHarn 1 = true
    ∧ tPut.harn.puts.find? (fun p => p.1 == 0 && p.2.1 == 2) = some (0, 2, .m) ∧ ownerOf tPut 2 = some 0
    ∧ sget none tPut.harn.wb (ckey 0 2) = some tLineM ∧ ownerOf tMsgs 1 ≠ some 0 := by decide
theorem test_wit_harn_defer : lrHolds tDefer 96 1 = true ∧ agentOfCore 0 = 96
    ∧ lrHolds (modHarn tDefer fun h => { h with lrDefer := sset 0 h.lrDefer 0 0 }) 96 1 = false
    ∧ tDefer.harn.deferred = [.inval 0 1 96]
    ∧ tDefer.harn.pendInv.any (fun p => p.line == 5 && p.agent == 0 && !p.hit) = true ∧ State.reset.harn.deferred = [] := by
  decide
theorem test_wit_credits : (tCredit.harn.credits.find? fun c => c.home == 0 && !c.granted && canOpen tCredit c.line
      && !waitsBefore tCredit c.line c.num) = some tCreditA
    ∧ tCredit.harn.credits.any (fun c => c.home == 1 && c.num == 9 && c.granted) = true
    ∧ tCredit.harn.credits.any (fun c => c.home == 1 && c.num == 8 && c.granted) = false := by decide
theorem test_wit_harn_fail : (tAckWait.harn.txns.any fun t => t.line == 1 && (t.fwd == some 5 || t.acks.contains 5)) = true
    ∧ State.reset.harn.dir = [] ∧ State.reset.harn.txns = [] ∧ State.reset.harn.holds = [] ∧ (dirEnt tHarn 1).isSome = true
    ∧ sget false State.reset.harn.hwPending 0 = false ∧ sget false [(0, true)] 0 = true
    ∧ tRecall.harn.recalls.find? (fun r => r.1 == 0 && r.2.1 == 1 && r.2.2.contains 5) = some (0, 1, [4, 5])
    ∧ ([4, 5].filter fun x => x != 5) ≠ [] := by decide

/-! CombineRegionCommands -/

theorem test_wit_cmb : canon tCmb.map 64 = some 64 ∧ cmbFind tCmb 64 = some (2, tCmbEnt) ∧ tCmbEnt.state = .opened
    ∧ tCmbEnt.epoch = 5 ∧ tCmbEnt.expected = 2 ∧ bitAt tCmbEnt.done 0 = true ∧ bitAt tCmbEnt.done 1 = false
    ∧ tCmbEnt.owner = 3 ∧ cmbEnt tCmb 0 2 = tCmbEnt ∧ cmbFind tCmb 0x200000 = none ∧ contribType tCmbEnt = 0
    ∧ engineOfCtx tCmb 9 = none := by decide
theorem test_wit_cmb_contribute : (cmbEls tCmbEnt [] [(0, false), (0, false), (0, false), (0, false)]).isSome = true
    ∧ (cmbMasked tCmb 64 [] [] 0 4 1 false).1 = .late ∧ cmbEls tCmbEnt [] [(0, false)] = none ∧ cmbReserved [2 ^ 63, 0, 0, 0, 0, 0, 0, 0] = true
    ∧ cmbReserved [0, 0, 0, 0, 0, 0, 0, 0] = false ∧ tCmb.attrCmd.busy = false
    ∧ cmbOpenBad tCmb 0 (cmbOfWords [0, 0, 0, 0, 0, 0, 0, 0] 3) = true := by decide +kernel
theorem test_wit_cmb_open : (cmbOpen tCmbRoom 0 (cmbOfWords [0x200000, 0x40000001, 0x280000, 0, 0, 1, 0, 0] 3)).1 = .accepted := by
  decide +kernel
theorem test_wit_cmb_apply : cmbEnt tCmbApply 0 2 = { tCmbEnt with state := .applying } ∧ tCmbEnt.ordered = false
    ∧ tCmbEnt.flagAddr = 0 ∧ (cmbInUse State.reset 0).filter (fun e => cmbBusy e.2) = [] := by decide +kernel

/-! RelayInstructionsIssueOrRefuse -/

theorem test_wit_rly_issue : ready tTeam 0 [0, 0] = true ∧ ready tTeam 0 [0] = true ∧ (eng tTeam 0).units.rly.length < 256
    ∧ noTeam (issuedAs tTeam 0 id) = false ∧ keyBad 0 = false ∧ keyBad (2 ^ 21) = true ∧ keyClass (4 * 2 ^ 14) ≠ 2
    ∧ (0x12A ||| 0x12A = (0x12A : Nat)) ∧ (1 ||| 0x12A ≠ (0x12A : Nat)) := by decide
theorem test_wit_rly_noteam : noTeam (issuedAs tEng 0 id) = true := by decide
theorem test_wit_rly_full : 256 ≤ (eng (modEng tEng 0 fun e => { e with units := { e.units with
    rly := List.replicate 256 { id := 0, holds := false, pins := false } } }) 0).units.rly.length := by decide +kernel

/-! FramesOfDataFlowAreGatedThenLand -/

theorem test_wit_frames : staleTag (tRly tStr) 9 0 1 = true ∧ staleTag (tRly tStr) 9 1 0 = false
    ∧ frameBad (tRly tStr) tBadPort (tFrame 0) 0 = true
    ∧ (List.range 10).all (fun k => frameBad (tRly tStr) tPort (tFrame k) k == false) = true
    ∧ staleTag (tRly tStr) 9 0 0 = false ∧ frameStream (tRly tStr) tPort (tFrame 0) = true ∧ (strm (tRly tStr) 0).cls = 1
    ∧ (strm (tRly tStr) 0).st = .opened ∧ msgClass 1 = false ∧ (tFrame 0).psn < (srx (tRly tStr) 0).limit := by decide +kernel
theorem test_wit_frame_digest (h : StepHdr) : h.team = 0 → h.digest64 = digest64 (digestCur (tRly tStr)) →
    digestFault (tRly tStr) h = none := by
  intro ht hd
  have : od (tRly tStr) 0x6001 1 = 0 := by decide
  simp [digestFault, this, ht, hd]

/-! StreamsOpenCloseAndProbe -/

theorem test_wit_open_close : findStream (tRly tStr) 2 1 = none ∧ freeEntry (tRly tStr) 0 = some 1
    ∧ (strm (tRly { tStr with st := .opening }) 0).st = .opening ∧ unitOf 0 = 0
    ∧ streamIdle (tRly { tStr with tx := [] }) 0 = true ∧ digestFault (tRly tStr) { tHdr with team := 1 } = some 2 := by decide +kernel
/-- A unit whose table holds a stream in every entry has no free entry. -/
theorem test_wit_table_full : freeEntry { rly := { streams := (List.range 8192).map fun k => (k, tStr) } } 0 = none := by
  unfold freeEntry
  rw [Option.map_eq_none_iff, List.find?_eq_none]
  intro i hi
  have hs : ∀ n b j : Nat, b ≤ j → j < b + n → sget {} ((List.range' b n).map fun k => (k, tStr)) j = tStr := by
    intro n
    induction n with
    | zero => intro b j h1 h2; omega
    | succ n ih =>
      intro b j h1 h2
      by_cases hb : b = j
      · simp [List.range'_succ, sget, hb]
      · have := ih (b + 1) j (by omega) (by omega)
        simpa [List.range'_succ, sget, Ne.symm hb] using this
  have := hs 8192 0 i (by omega) (by simpa using List.mem_range.mp hi)
  have hl : strm { rly := { streams := (List.range 8192).map fun k => (k, tStr) } } (0 * 8192 + i) = tStr := by
    simpa [strm, List.range_eq_range'] using this
  rw [hl]; decide

/-! RelayTimersPortsAndPackets -/

theorem test_wit_packets : nextPkt (tRly tStr) tStr = some (tMsg, 0, 1, 0, none) ∧ bestPath tStr none = some 0
    ∧ pathOf tStr 0 = some { port := 0, entropy := 0 } ∧ tStr.peer ≠ selfNo (tRly tStr) ∧ tStr.unacked.length < 256
    ∧ 256 ≤ (List.replicate 256 tPkt).length ∧ msgClass 0 = true ∧ tMsg.started = false := by decide +kernel
theorem test_wit_timers : ([tPkt].find? fun y => y.psn == 3) = some tPkt ∧ upPorts { rly := { streams := [(0, tStr)] } } 0 = []
    ∧ ({ sinceAck := 1 } : StreamRx).sinceAck ≠ 0 := by decide
theorem test_wit_ports : (sget {} ({} : State).rly.ports 0).up = false ∧ powered {} = true
    ∧ od { dict := { val := [(0x603101, some [2])] } } 0x6031 1 ≠ 0 ∧ bitAt 0 8 = false
    ∧ ((List.range 8).any fun j => laneOf (0x76543210 : W32) j == 3) = true
    ∧ ((List.range 8).any fun j => laneOf (0x76543210 : W32) j == 8) = false ∧ spareLane 0x76543210 = 8
    ∧ spareLane 0x76543218 ≠ 8 := by decide

/-! StepsCloseAndStreamsAreReleased -/

theorem test_wit_steps : (stepOf {} 0).timer = false ∧ (stepOf tJob 7).timer = true ∧ (stepOf tJob 7).expired = false
    ∧ replaying tJob = false ∧ replaying { dict := { val := [(0x602101, some [1])] } } = true ∧ tJob.rly.combs = []
    ∧ tJob.rly.waiting = [] ∧ (∀ e ∈ tJob.rly.streams, e.2.st ≠ .mismatch) ∧ teamRegions tJob 6 = []
    ∧ (stepOf { rly := { steps := [(6, { timer := true })] } } 6).timer = true ∧ (stepOf tJob 7).closed = false
    ∧ ((teamRegions tJob 6).any fun r => cmbBusy r.2.2) = false := by decide
theorem test_wit_stream_close : (strm tJob 0).st = .failed ∧ streamIdle (tRly { tStr with tx := [] }) 0 = true
    ∧ tStr.peer ≠ selfNo (tRly tStr) ∧ streamIdle (tRly tStr) 0 = false ∧ (strm (tRly tStr) 0).st ≠ .failed
    ∧ leNat (List.replicate 64 255) ≥ 2 ^ 14 ∧ leNat (List.replicate 64 0) < 2 ^ 14 := by decide +kernel

/-! LossScaleVerdictsAndLentMemory -/

theorem test_wit_verdicts : (childrenOf tJob).contains 1 = true ∧ (childrenOf tJob).contains 0 = false
    ∧ ((stepOf tJob 0).reports.any fun r => r.1 == 1) = false ∧ (stepOf tJob 0).closed = true ∧ (stepOf tJob 0).reported = false
    ∧ selfNo { dict := { val := [(0x600103, some [1, 0])] } } ≠ rootMember { dict := { val := [(0x600103, some [1, 0])] } }
    ∧ od tJob 0x8020 3 ≤ 2000 ∧ tJob.team.clean + 1 < od tJob 0x8020 3 ∧ (stepOf tJob 0).verdict = none := by decide +kernel
theorem test_wit_lending : tJob.team.lending = true ∧ od tJob 0x8040 3 = 1 ∧ 0 + 64 ≤ od tJob 0x8040 2
    ∧ canon tJob.map (od tJob 0x8040 1 + 0) = some 0x330000 ∧ od tJob 0x8040 2 < 64 + 1 ∧ od tJob 0x8040 3 ≠ 2
    ∧ tJob.team.notice = some 3 ∧ curStep tJob < 3
    ∧ State.reset.team.notice = none ∧ (physRange tJob.map (od tJob 0x8040 1 + 0) 64).isSome = true := by
  decide +kernel

/-! ReplicasAreComparedAndRepaired -/

theorem test_wit_replicas : (stepOf tJob 0).closed = true ∧ (stepOf tJob 0).skipped = false ∧ (stepOf tJob 0).verdict = none
    ∧ ((teamRegions tJob 7).any fun r => cmbBusy r.2.2) = true ∧ repFind tJob 0 = some ⟨0, 1, [0, 1], 0⟩
    ∧ tJob.team.groupReps = [] ∧ 1 ≠ selfNo tJob ∧ 0 = selfNo tJob ∧ groupSettled tJob 0 0 ⟨0, 1, [0, 1], 0⟩ = true
    ∧ tJob.team.unequal.contains (0, 0) = true ∧ blkTriple tJob 0 0 = some (0, 0, 0) ∧ od tJob 0x8011 2 = 1 := by
  decide +kernel
theorem test_wit_settle : settleCopies [(0, 0, 0, 0, false), (1, 0, 0, 0, false)] = none
    ∧ settleCopies [(0, 0, 0, 0, false), (1, 5, 0, 0, true)] = some ([1], 1)
    ∧ [1].contains (selfNo tJob) = false := by decide
theorem test_wit_repair : ∃ t, installRepair tJob 0 0 0 false (List.replicate (64 + 12928) 0) = some t := by
  have h1 : blkAddr tJob 0 = some 0x320000 := by decide +kernel
  have h2 : uNat tJob 0 0x320000 8 = some 2 := by decide +kernel
  have h3 : 64 + bodyLen (cwKind 2) = 64 + 12928 := by decide
  simp only [installRepair, h1, h2, h3, bind, Option.bind, List.length_replicate]
  exact ⟨_, if_neg (by simp)⟩
theorem test_wit_members : tJob.team.repairs.find? (fun r => r.1 == 0) = some (0, some 1, 0) ∧ sget false tJob.team.suspect 1 = false
    ∧ ((tJob.rly.streams.filter fun e => e.2.peer == 1 && e.2.st != .closed).map Prod.fst).all
        (fun k => (strm tJob k).st == .failed) = true
    ∧ 1 < teamSize tJob ∧ memberAt tJob 1 = some 0x200020 := by decide +kernel

/-! NvmeRequestsAreSentAndCompleted -/

/-- Requests of every operation: one block at 0x330000 of context 0 with controller 0. -/
def tReq (op : Nat) : NvReq := { id := op, unit := 0, words := [BitVec.ofNat 64 op, 0, 1, 0x330000, 0, 0, 0, 0] }
def tNv : State := { tJob with nvme := { reqs := [tReq 0, tReq 1, tReq 2, tReq 3, tReq 4, tReq 5, { tReq 0 with id := 9, sent := true }] } }
theorem test_wit_nvme : (List.range 6).all (fun op => nvNext tNv 0 op == some (tReq op)) = true ∧ od tNv 0x8051 1 ≠ 0
    ∧ powered tNv = true ∧ min 256 ((physNat tNv (nvRingAt tNv 0 0) 4 + 2 ^ 32 - physNat tNv (nvRingAt tNv 0 0 + 4) 4) % 2 ^ 32) = 1
    ∧ tNv.nvme.reqs.find? (fun x => x.unit == 0 && x.id == 9 && x.sent) = some { tReq 0 with id := 9, sent := true }
    ∧ nvNlb (tReq 1) * 4096 = 4096 ∧ nvCtx (tReq 1) = 0 ∧ nvBuf (tReq 1) = 0x330000 := by decide +kernel
theorem test_wit_nvme_buf : (vPieces tNv none 0 .write 0x330000 4096).1.toOption = some [{ a := 0x330000, n := 4096, pma := true }]
    ∧ (vPieces tNv none 9 .write 0x330000 4096).1.toOption = none ∧ (uRead tNv 0 0x330000 4096).1.isSome = true
    ∧ (uRead tNv 9 0x330000 4096).1 = none := by decide +kernel

/-! CheckpointsAreTakenDrainedAndRestored -/

def tImage : CkptImage := { words := [5, 0, 0, 0, 0, 0, 0, 0x8000000000000005], entries := [], regions := [] }
theorem test_wit_ckpt : od tJob 0x8030 1 = 500 ∧ 500 % 500 = 0 ∧ physNat tJob (od tJob 0x8030 12) 8 = 500
    ∧ tJob.ckpt.copying = none ∧ tJob.ckpt.draining = none ∧ od tJob 0x8030 6 = 4096 ∧ od tJob 0x8030 7 ≠ 1
    ∧ 64 + (16 + mib2) * (ckptRegions tJob true).length + (ckptJournal tJob 0 500).1.length ≤ 4096
    ∧ (chainPrefix none [tImage]).getLast? = some tImage ∧ chainPrefix none [] = []
    ∧ od { dict := { val := [(0x803007, some [1])] } } 0x8030 7 = 1 := by decide +kernel

/-! SchedulerMovesContexts -/

def tCtx : Ctx := { admitted := true, sched := { qlen := 4, leMask := 1, clusters := 1, weight := 1 } }
/-- Contexts 0 and 1 share engine 0: 0 on the gang with its slice used, 1 runnable and resident. -/
def tTwo (c : Ctx) : State := { tEng with
  ctxs := [(0, c), (1, { tCtx with st := .runnable, resident := some 8, acct := { deficit := 5 } })],
  pads := [(0, { st := .running, mask := 1 })] }
theorem test_wit_sched : canDispatch (tTwo tCtx) 1 = true ∧ canDispatch (tTwo tCtx) 0 = false
    ∧ od (tTwo tCtx) 0x5110 2 ≤ 10 ^ 9
    ∧ ((padCtxs (tTwo tCtx) 0).any fun e => e.1 != 0 && e.2.st == .runnable && gangsMeet tCtx e.2
        && decide (tCtx.acct.deficit < e.2.acct.deficit)) = true
    ∧ (gang tCtx).any (fun ge => holds (eng tWait ge) 0 && extWait (eng tWait ge)) = false
    ∧ (gang { tCtx with sched := { tCtx.sched with leMask := 2 } }).any (fun ge =>
        holds (eng tWait ge) 0 && extWait (eng tWait ge)) = true
    ∧ padCtxs State.reset 0 = [] ∧ (padOf { pads := [(0, { st := .stopped })] } 0).st = .stopped := by decide +kernel
theorem test_wit_swap : pinned State.reset 0 = false ∧ gangStopped { ctxs := [(0, tCtx)] } 0 = true
    ∧ ((gang tCtx).all fun ge => slotState State.reset (slotOf State.reset ge) != .held) = true
    ∧ bindsOver { tCtx with resident := some 2 } 0 4 = true ∧ bindsOver { tCtx with resident := some 8 } 0 4 = false := by
  decide +kernel

/-! PaddocksAreConfiguredStartedAndDrained -/

def tPads : State := { State.reset with pads := [(0, { st := .stopped, mask := 1, ringCount := 8 }), (1, { mask := 2, ringFirst := 8, ringCount := 8 }),
  (2, { st := .running }), (3, { st := .draining })], padRanges := [(0, 1), (1, 1)], ctxs := [(5, { admitted := true })] }
theorem test_wit_paddocks : padIdle tPads 0 = true ∧ padIdle tPads 2 = false
    ∧ (tPads.pads.any fun e => e.1 != 0 && e.2.mask &&& 2 != 0) = true ∧ (tPads.pads.any fun e => e.1 != 0 && e.2.mask &&& 4 != 0) = false
    ∧ (commitStore tPads (storeKey 0 0x5100 2) (leBytes 8 4)).toOption.isSome = true ∧ 32768 < 32768 + 8
    ∧ padHasRange tPads 0 = true ∧ padHasRange tPads 1 = false ∧ (padOf tPads 0).ringCount ≠ 0
    ∧ allGuarantees tPads (admitted tPads) = true ∧ (padOf tPads 3).st = .draining ∧ padCtxs tPads 3 = []
    ∧ (ctxOf tPads 5).admitted = true ∧ bitAt (0x200 : W64).toNat 9 = true := by decide +kernel
theorem test_wit_range : rangeBad tPads 1 0x1200001 0 = true ∧ bitAt (0x1200000 : W64).toNat 0 = false := by decide
/-- A guaranteed context whose deadline has passed no longer fits. -/
theorem test_wit_guarantee : allGuarantees State.reset [(5, { admitted := true, acct := { guar := 1, budget := 9 }, sched := { clusters := 1, leMask := 1, weight := 1 } })] = false := by decide

/-! RingsAreServedInOrder -/

theorem test_wit_rings : (ringOf (tRing false tWrite) 0).st ≠ .disabled ∧ (1 + 2 ^ 32 - 0) % 2 ^ 32 ≤ 2 ^ 4 ∧ ¬ (20 + 2 ^ 32 - 0) % 2 ^ 32 ≤ 2 ^ 4
    ∧ (ringOf { rings := [(0, { st := .halted })] } 0).st = .halted ∧ (ringOf {} 0).st = .disabled
    ∧ bitAt (0x8000000000010000 : W64).toNat 63 = true ∧ bits (0x8000000000010000 : W64).toNat 17 16 = 1
    ∧ bitAt (0x8000000000010000 : W64).toNat 15 = false ∧ bits (0x8000000000010000 : W64).toNat 62 18 = 0
    ∧ bits (0x8000000000010000 : W64).toNat 14 0 = 0 ∧ bitAt (0x8000000000018000 : W64).toNat 15 = true
    ∧ bits (0x8000000000020000 : W64).toNat 17 16 = 2 ∧ bits (0x8000000000030000 : W64).toNat 17 16 = 3 := by decide
theorem test_wit_ring_entry : ringEntry (tRing false tWrite) 0 = [0x400000400000, 0, 0x350800, 0, 0, 0, 0, 0]
    ∧ bits 0x400000400000 48 44 = 4 ∧ bits 0x400000400000 63 50 = 0 ∧ bits 0x400000400000 11 0 = 0 ∧ bitAt 0x400000400000 49 = false
    ∧ 0x350800 % 8 = 0 ∧ (ctxOf (tRing false tWrite) 0).admitted = true
    ∧ (padOf (tRing false tWrite) (ctxOf (tRing false tWrite) 0).paddock).ringCount = 8 ∧ od State.reset 0x1200 1 = 0 := by
  decide +kernel

/-! CommandsCompleteWithTheirStatus -/

theorem test_wit_commands : tGood false 0 [0, 0, 0, 0, 0, 0, 0, 0] = true ∧ tGood false 2 tWrite = true ∧ tGood false 3 tCmbW = true
    ∧ tGood false 4 tWaitW = true ∧ tGood true 5 tCreate = true ∧ tGood false 5 tCreate = true ∧ tGood true 6 tDestroy = true
    ∧ tGood false 1 tLaunch = true ∧ nextCmd State.reset 0 = none ∧ headBad (tCmdOf [0x4000, 0, 0, 0, 0, 0, 0, 0]) = true
    ∧ chainOk (tCmdOf [0x100, 0, 0, 0, 0, 0, 0, 0]) = false ∧ 6 < cOp (tCmdOf [7, 0, 0, 0, 0, 0, 0, 0])
    ∧ compOk (tRing false tWrite) (ringOf (tRing false tWrite) 0) (tCmdOf [0, 2 ^ 56, 0, 0, 0, 0, 0, 0]) = false := by
  decide +kernel
theorem test_wit_write : (cpPieces (takeCmd (tRing false tWrite) 0 (tCmdOf tWrite)) (ringOf (tRing false tWrite) 0) 0x330000 8).1
      = some [{ a := 0x330000, n := 8, pma := true }]
    ∧ (cpPieces (takeCmd (tRing false tWrite) 0 (tCmdOf tWrite)) (ringOf (tRing false tWrite) 0) (2 ^ 56) 8).1 = none
    ∧ tailZero (tCmdOf tWrite) 8 = true := by decide +kernel
theorem test_wit_cmd_cmb : (cPieces (tRing false tCmbW) none 0 0x600040 1).1.toOption = some [{ a := 0x600040, n := 1, pma := true }]
    ∧ (cPieces (tRing false tCmbW) none 0 0x600040 8).1.toOption = some [{ a := 0x600040, n := 8, pma := true }]
    ∧ (cmbFind (tRing false tCmbW) 0x600040).any (fun e => e.2.widen) = false
    ∧ (cpContribute (tRing false tCmbW) [{ a := 0x600040, n := 8, pma := false }] (List.replicate 8 (0, false)) 5 1).1 = .accepted
    ∧ (cpContribute (tRing false tCmbW) [{ a := 0x600040, n := 8, pma := false }] (List.replicate 8 (0, false)) 4 1).1 = .late := by decide +kernel
theorem test_wit_cmd_wait : (waitValue (tRing false tWaitW) (ringOf (tRing false tWaitW) 0) (tCmdOf tWaitW)).1.map
      (fun d => (d.any Prod.snd, leNat (d.map Prod.fst))) = some (false, 0x2800)
    ∧ cW (tCmdOf tWaitW) 3 = 5 ∧ bits (cW (tCmdOf tWaitW) 4) 31 0 = 9
    ∧ waiting { rings := [(0, { cur := some (tCmdOf tWaitW) })] } 0 = some (tCmdOf tWaitW) := by decide +kernel
theorem test_wit_create : ∀ w, w = ((chunk 8 8 (physRead (tRing true tCreate) 0x330000 64)).map fun l => BitVec.ofNat 64 (leNat (l.map Prod.fst))) →
    admission (tRing true tCreate) w (ctxOfBlock (tRing true tCreate) w 0) = 0 ∧ freeCtx (tRing true tCreate) = 1 := by
  rintro w rfl; decide +kernel
theorem test_wit_launch : (checkHeaders (tRing false tLaunch) 0 ((List.range 8).map fun _ => 0x340000) [0]).1.toOption = some 100
    ∧ (ctxOf (tRing false tLaunch) 0).st ≠ .stranded ∧ (ctxOf (tRing false tLaunch) 0).faulted = false
    ∧ (ctxOf (tRing false tLaunch) 0).launch = none ∧ launchTurn (tRing false tLaunch) 0 = true
    ∧ (padOf (tRing false tLaunch) 0).st ≠ .stopped := by decide +kernel

/-! HostDiesResetAndReturn -/

theorem test_wit_host_dies : sget false State.reset.hosts.dieReset 0 = false
    ∧ sget false ({ hosts := { dieReset := [(0, true)] } } : State).hosts.dieReset 0 = true ∧ od State.reset 0x4020 3 = 0 := by decide

/-! RegistersAreReadLatchedAndWritten -/

theorem test_wit_registers : regWord State.reset 0 = .absent ∧ (0xF0000000000 : Nat) % 8 = 0
    ∧ (∃ w, regWord State.reset 0xF0600000010 = .word w ∧ rsGroup 0xF0600000010 = none)
    ∧ (∃ w, regWord State.reset 0xF0000001040 = .word w ∧ rsGroup 0xF0000001040 = some (0xF0000001040, 4))
    ∧ rsGroup 0xF0000001048 = some (0xF0000001040, 4) ∧ regWord State.reset 0xF2000000000 = .unstated
    ∧ rsGroup 0xF2000000000 = none ∧ bitAt (0 : W64).toNat 9 = false :=
  ⟨by decide, by decide, ⟨_, rfl, by decide⟩, ⟨_, rfl, by decide⟩, by decide, by decide, by decide, by decide⟩

/-! StudbookRecordsAreLimitedKeptAndRead -/

def tEvent (area : Nat) : Event := { area := area, num := 1, sev := 1, kind := 0, unit := 0, params := [] }
def tRec : Rec := { sev := 1, seq := 4 }
theorem test_wit_book : recorderRuns State.reset = true ∧ recorderRuns { book := { failed := 3 } } = false
    ∧ (formRec { raised := [tEvent 0] } (tEvent 0) 0).1.sev < 6 ∧ triggerFor State.reset 0x1001 = none
    ∧ (formRec State.reset { tEvent 1 with sev := 6 } 0).1.sev = 6
    ∧ (sget {} State.reset.book.buckets (bucketOf 0x1001)).tokens ≠ 0
    ∧ (sget {} ({ book := { buckets := [(bucketOf 0x1001, { tokens := 0 })] } } : State).book.buckets (bucketOf 0x1001)).tokens = 0
    ∧ slotFor State.reset tRec = some 0 ∧ bitAt State.reset.book.failed 1 = false := by decide +kernel
theorem test_wit_book_reads : recFrom { book := { ring := [(0, some tRec)], nextSeq := 5 } } 0 = some tRec
    ∧ (objRead { book := { ring := [(0, some tRec)], nextSeq := 5 } } 0 0x7000 3).toOption.isSome = true
    ∧ (objRead State.reset 0 0x7001 3).toOption.isSome = false := by decide +kernel
theorem test_wit_triggers : triggerBad [0, 1] = true ∧ triggerBad [] = false
    ∧ (commitStore State.reset (storeKey 0 0x7003 2) []).toOption.isSome = true
    ∧ bits 0x7F001 15 12 = 15 ∧ bits 0x1F001 18 16 = 1 ∧ bits 0x1F001 63 19 = 0 ∧ 5 < bits 0x7F001 18 16 := by decide +kernel

/-! GaitPowerAndBreachesAreKept -/

theorem test_wit_gait : (sget {} State.reset.power.monitors 0).faulty = false
    ∧ (sget {} ({ power := { monitors := [(0, { faulty := true })] } } : State).power.monitors 0).faulty = true
    ∧ (let v := max (101 * 1000000 / 100) (1000000 - 1000000 * 5 / 1000); 850000 ≤ v ∧ v ≤ 1150000)
    ∧ (let v := max (10 * 1000000 / 100) (850000 - 850000 * 5 / 1000); v < 850000) := by decide
theorem test_wit_power : 12 * (dieOf State.reset 0).cap < 10 * 1000 ∧ 10 * 700 ≤ 12 * (dieOf State.reset 0).cap
    ∧ breachHolds { rein := [(0, 4)] } = true
    ∧ ({ ost := { time := 100000000 } } : State).power.condAt + 100000000 ≤ ({ ost := { time := 100000000 } } : State).ost.time
    ∧ State.reset.power.demands.any (fun x => decide (x + 500 < 1000)) = false
    ∧ ({ power := { demands := [50] } } : State).power.demands.any (fun x => decide (x + 500 < 1000)) = true
    ∧ (dieOf { power := { dies := [(0, { avsFail := true })] } } 0).avsFail = true ∧ State.reset.lands.brake = false := by
  decide +kernel
theorem test_wit_breach_over : breachHolds State.reset = false := by
  unfold breachHolds
  rw [List.any_eq_false]
  intro d _
  simp only [Bool.or_eq_true, Bool.and_eq_true, bne_iff_ne, decide_eq_true_eq, beq_iff_eq, ne_eq, List.any_eq_true, not_or]
  exact ⟨fun h => h rfl, fun h => by obtain ⟨_, x, hx, _⟩ := h; cases hx⟩

/-! GovernorStepsVoltageAndRein -/

/-- Die 0 with the gait g at every cluster. -/
def tGait (g : Nat) (p : DiePower) : State :=
  { power := { monitors := (List.range 12).map fun k => (k, { gait := g }), dies := [(0, p)] } }
theorem test_wit_governor : State.reset.lands.brake = false ∧ (dieOf State.reset 0).avsFail = false ∧ dieGait State.reset 0 < 1600
    ∧ dieGait (tGait 1700 {}) 0 = 1700 ∧ dieGait (tGait 1610 {}) 0 = 1610 ∧ dieGait (tGait 2010 {}) 0 = 2010
    ∧ dieGait (tGait 2030 {}) 0 = 2030 ∧ (dieCap (tGait 1700 {}) 0 500).1 = 780
    ∧ 0 < (dieOf (tGait 1700 { duty := 3 }) 0).duty ∧ 100 * 700 < 98 * 780 ∧ 98 * 780 ≤ 100 * 770
    ∧ (dieOf (tGait 1700 { slow := true }) 0).slow = true ∧ powered (readTemps State.reset [] []) = true
    ∧ (readTemps State.reset [] []).ost.failed = false ∧ 100 + 0 + 700 ≤ od (readTemps State.reset [] []) 0x3000 1 := by
  decide +kernel
theorem test_wit_vmax (n : Nat) : n = max 700 (min 850 (Config.vmaxTrim 0)) →
    (dieOf State.reset 0).vddc < n ∧ (dieOf (tGait 0 { vddc := n }) 0).vddc = n := by
  intro h
  refine ⟨?_, rfl⟩
  rw [h]; exact Nat.lt_of_lt_of_le (by decide) (Nat.le_max_left _ _)

/-! HobbleSleepRailsAndTheTestPort -/

theorem test_wit_hobble : State.reset.power.hobble ≠ 2 ∧ ({ power := { hobble := 2 } } : State).power.hobble = 2
    ∧ hobbleClear { power := { hobble := 2 } } = true ∧ State.reset.ost.failed = false ∧ powered State.reset = true
    ∧ State.reset.pads.any (fun e => e.2.st != .unused && e.2.st != .stopped) = false
    ∧ tPads.pads.any (fun e => e.2.st != .unused && e.2.st != .stopped) = true ∧ bitAt (od State.reset 0x3009 3) 2 = true
    ∧ od { dict := { val := [(0x300805, some [1])] } } 0x3008 5 = 1 := by decide
/-- The first rail is enabled and its power-good is low during boot. -/
def tRail : State := { lands := { en := 2048, pg := 0 }, boot := { seq := .boot } }
theorem test_wit_rails : bitAt tRail.lands.en 11 = true ∧ bitAt tRail.lands.pg 11 = false ∧ tRail.boot.seq ≠ .none ∧ tRail.boot.seq ≠ .role
    ∧ nextRail tRail = some 11 ∧ nextRail State.reset = none ∧ State.reset.boot.seq = .none
    ∧ ({ boot := { testMode := true } } : State).boot.testMode = true := by decide

/-! ReportsAreEscalatedAbsorbedOrQueued -/

def tHandle (kind unit : Nat) : Handling := { kind := kind, unit := unit, level := levelOf kind }
theorem test_wit_reports : groomOf (2, 0) = some 0 ∧ sget .running State.reset.ost.grooms 0 ≠ .restarting
    ∧ ([tHandle 1 0].any fun x => (x.kind, x.unit) == (2, 0) || encloses (2, 0) (x.kind, x.unit)) = true
    ∧ ([tHandle 3 0].any fun x => encloses (x.kind, x.unit) (2, 0)) = true
    ∧ ([tHandle 3 0].any fun x => (x.kind, x.unit) == (2, 0) || encloses (2, 0) (x.kind, x.unit)) = false
    ∧ 8 ≤ ((List.range 8).map fun k => tHandle 2 (9 * k)).length
    ∧ sget .running ({ ost := { grooms := [(0, .restarting)] } } : State).ost.grooms 0 = .restarting := by decide
theorem test_wit_queues : 256 ≤ (List.replicate 256 (tHandle 2 9)).length ∧ 64 ≤ (List.replicate 64 (2, 9)).length
    ∧ enqueueReport [tHandle 2 0] (tHandle 3 0) = [tHandle 3 0, tHandle 2 0]
    ∧ enqueueReport [tHandle 3 0] (tHandle 2 0) = [tHandle 3 0, tHandle 2 0] := by decide +kernel

/-! SlotsAreTestedAndSparesReplaceThem -/

/-- Slot 0 stands in a state; its cluster's slot 8 is the spare. -/
def tSlot (x : SlotSt) : State := { slots := { st := [(0, x)] }, contain := { testResults := [(0, true)], packed := (List.range 4).map fun a => (a, { on := true }) } }
theorem test_wit_slots : slotState State.reset 0 = .inService ∧ slotState (tSlot .test) 0 = .test
    ∧ sget false (tSlot .test).contain.testResults 0 = true ∧ engineOn State.reset 0 = some 0 ∧ engineOn State.reset 8 = none
    ∧ gridEmpty (arrOf (eng State.reset 0) 0) = true ∧ gridEmpty (arrOf (eng tFeed 0) 0) = false
    ∧ slotPacked (tSlot .test) 0 = true ∧ slotIdle (tSlot .retired) 0 = true ∧ State.reset.boot.complete = true := by decide
theorem test_wit_remount : slotState (tSlot .held) 0 = .held ∧ (tSlot .held).contain.remounts.any (fun r => r.slot == 0) = false
    ∧ (spareOf (tSlot .held) 0).filter (fun p => slotState (tSlot .held) p != .held) = some 8
    ∧ spareOf { slots := { st := [(8, .retired)] } } 0 = none
    ∧ ([{ slot := 0, spare := 8, committed := true }, { slot := 1, spare := 8 }] : List Remount).find?
        (fun r => r.slot == 0 && r.committed) = some { slot := 0, spare := 8, committed := true }
    ∧ sget 0 State.reset.gens.copy 5 = sget 0 State.reset.gens.record 5 := by decide

/-! PackageResetsKeepWhatTheyKeep -/

theorem test_wit_resets : State.reset.lands.stby = true ∧ ({ lands := { stby := false } } : State).lands.stby = false
    ∧ State.reset.lands.inReset = false ∧ ({ lands := { inReset := true } } : State).lands.inReset = true ∧ bitAt 2 1 = true
    ∧ bitAt 0 1 = false ∧ ({ boot := { seq := .role } } : State).boot.seq = .role ∧ State.reset.boot.seq ≠ .role
    ∧ State.reset.boot.fw = true ∧ State.reset.boot.complete = true ∧ ({ boot := { complete := false } } : State).boot.complete = false := by
  decide

/-! TheRomChoosesAVerifiedImage -/

def tImg (svn prev : Nat) : Image :=
  { svn := svn, version := 9, prev := prev, hdr := [], fmtOk := true, keyOk := true, sigOk := true, secOk := true }
/-- A ROM that finds the images given in its two slots after w watchdog resets. -/
def tRom (a b : Option Image) (w : Nat) : State := { boot := { slots := [(0, a), (1, b)], watchdog := w } }
theorem test_wit_rom : bitAt State.reset.lands.straps 0 = false ∧ bitAt ({ lands := { straps := 1 } } : State).lands.straps 0 = true
    ∧ slotCheck (tRom (some (tImg 1 0)) none 0) 0 = 0 ∧ preferred (tRom none none 3) = 0
    ∧ slotCheck (tRom (some (tImg 1 0)) (some (tImg 1 0)) 3) 1 = 0 ∧ slotCheck (tRom none (some (tImg 1 0)) 0) 0 ≠ 0
    ∧ slotCheck (tRom none none 0) 0 ≠ 0 ∧ slotCheck (tRom none none 0) 1 ≠ 0
    ∧ ({ boot := { recovery := true } } : State).boot.recovery = true := by decide

/-! OstlerRoleHeartbeatsAndGrooms -/

def tOst (o : Ostler) : State := { ost := o }
theorem test_wit_ostler : State.reset.boot.fw = true ∧ State.reset.ost.failed = false ∧ State.reset.lands.stby = true
    ∧ (tOst { standby := .ready }).ost.standby = .ready ∧ State.reset.ost.standby = .absent ∧ State.reset.ost.mustTest = false ∧ hasSecret State.reset 1 = true
    ∧ State.reset.power.sleepState = 0 ∧ (tOst { standby := .syncing }).ost.standby = .syncing ∧ 2 ≠ State.reset.ost.epoch.toNat
    ∧ 1 = State.reset.ost.epoch.toNat ∧ sget .running State.reset.ost.grooms 0 = .running
    ∧ sget 0 (tOst { time := 10000000 }).ost.beats 0 + 10000000 ≤ (tOst { time := 10000000 }).ost.time
    ∧ sget .running (tOst { grooms := [(0, .restarting)] }).ost.grooms 0 = .restarting
    ∧ sget false (tOst { overflow := [(0, true)] }).ost.overflow 0 = true ∧ State.reset.boot.status ≠ 3
    ∧ (tOst { failed := true }).ost.failed = true := by decide

/-! UpdatesAndLeavesGoInOrder -/

/-- An image of version 9 and security version 2 is loaded and verified in the other slot; the update stands in a status. -/
def tUpd (st : Nat) : State := {
  dict := { val := [(0x900101, some (leBytes 8 0x200000)), (0x900102, some (leBytes 8 4096))] },
  mem := { bytes := [(0x20000C, 2)] },
  boot := { slots := [(0, some (tImg 2 0)), (1, some (tImg 2 0))], verified := [(0, true), (1, true)], status := st, groomsDone := 12 },
  ost := { standby := .ready } }
theorem test_wit_update : 4096 ≤ od (tUpd 2) 0x9001 2 ∧ od (tUpd 2) 0x9001 2 ≤ 2 ^ 24 ∧ (canon (tUpd 2).map (od (tUpd 2) 0x9001 1)).isSome
    ∧ (canon (tUpd 2).map (od (tUpd 2) 0x9001 1 + od (tUpd 2) 0x9001 2 - 1)).isSome ∧ ¬ 4096 ≤ od State.reset 0x9001 2
    ∧ loadedImage (tUpd 2) = some (tImg 2 0) ∧ loadedImage State.reset = none
    ∧ (slotVersion (tUpd 3) (tUpd 3).boot.running).toNat < 10 ∧ (tUpd 3).boot.groomsDone = 12
    ∧ ((runningImage (tUpd 0)).map Image.svn).getD 0 = 2 ∧ (tUpd 0).boot.rollback < 2
    ∧ ((runningImage State.reset).map Image.svn).getD 0 ≤ State.reset.boot.rollback := by decide
theorem test_wit_update_svn : imgN ((physRead (tUpd 2) 0x200000 4096).map Prod.fst) 12 4 = 2
    ∧ 2 < ({ boot := { rollback := 3 } } : State).boot.rollback := by decide +kernel
theorem test_wit_leaves : 2 ^ 20 < leavesLeft State.reset ∧ leavesLeft { boot := { rpmc1 := 2 ^ 18 } } ≤ 2 ^ 20
    ∧ State.reset.boot.lastEvidence = none ∧ (List.replicate 32 (0 : Byte)).length = 32
    ∧ 32768 - (4096 * 7) % 32768 ≤ 8192 ∧ 8192 < 32768 - (4096 * 1) % 32768 := by decide

/-! DictionaryRequestsAreServedOnEveryPath -/

/-- A request of one item that reads 0x6000 sub 1. -/
def tReqFrame (row : Byte) : List Byte := [1, row, 1, 0] ++ List.replicate 28 0 ++ [0, 0x60, 1, 3, 0, 0, 0, 0]
def tClient : Client := { num := 0, high := 5, lastMs := 0, replies := [(4, [])] }
theorem test_wit_requests : dictServed State.reset = true ∧ dictServed { boot := { fw := false } } = false
    ∧ fieldAt (tReqFrame 2) 1 1 = 2 ∧ State.reset.power.sleepState ≠ 2 ∧ bitAt (od State.reset 0x3009 3) 0 = true
    ∧ tagWrong State.reset (.odp 0) (tReqFrame 1) = false ∧ (parseReq (tReqFrame 1)).isSome = true
    ∧ parseReq (tReqFrame 9) = none ∧ keyZero State.reset = true ∧ clientOf (.odp 0) = 0
    ∧ [tClient].find? (fun c => c.num == 0) = some tClient ∧ tClient.replies.find? (fun r => r.1 == 4) = some (4, [])
    ∧ tClient.replies.find? (fun r => r.1 == 3) = none ∧ clientRoom State.reset = some []
    ∧ clientRoom { dict := { clients := (List.range 64).map fun k => { tClient with num := k } } } = none := by decide +kernel
theorem test_wit_tag : tagWrong { dict := { val := [(0x110003, some (leBytes 32 1))] } } (.odp 0) (tReqFrame 1) = true := by decide +kernel
theorem test_wit_mail : bitAt (1 : W64).toNat 0 = true ∧ bitAt (2 : W64).toNat 0 = false
    ∧ (sget {} State.reset.dict.mail 0).busy = false ∧ (sget {} State.reset.dict.mail 0).reqLen < 8
    ∧ (sget {} ({ dict := { mail := [(0, { busy := true })] } } : State).dict.mail 0).busy = true := by decide
theorem test_wit_writes (env : DictEnv) : (writeItems State.reset env true 0 0 [⟨0x6000, 1, 3, [0]⟩]).2.all (fun i => i.abort == 0) = false := by
  rfl

/-! MctpAndI3cGiveTheOstlerItsAddresses -/

theorem test_wit_mctp : dictServed State.reset = true ∧ State.reset.ost.i3c = 0 ∧ od State.reset 0x1100 4 = 48
    ∧ ({ ost := { i3c := 9 } } : State).ost.i3c ≠ 0 ∧ dictServed { ost := { failed := true } } = false := by decide
end Sys2Proof.Tests
end

section
/-! Command rings (R355 to R358, R369): what a doorbell does, which rings are in service, and the RING_CTL operations. -/

namespace Sys2Proof.Machine

/-! ### A change of one ring -/

/-- A ring that a change leaves other than the default reads back as changed, whatever the form of the table. -/
theorem ringOf_modRing_same (s : State) (r : Nat) (f : Ring → Ring) (h : f (ringOf s r) ≠ {}) :
    ringOf (modRing s r f) r = f (ringOf s r) :=
  sget_sset_new _ _ _ _ h

@[simp] theorem schedDie_modRing (s : State) (r c : Nat) (f : Ring → Ring) : schedDie (modRing s r f) c = schedDie s c := rfl

/-- A ring keeps its processor under a change that leaves its PRIV, CTX and DIE alone. -/
theorem ringDie_modRing_same (s : State) (r : Nat) (f : Ring → Ring) (h : f (ringOf s r) ≠ {})
    (hpriv : (f (ringOf s r)).priv = (ringOf s r).priv) (hctx : (f (ringOf s r)).ctx = (ringOf s r).ctx)
    (hdie : (f (ringOf s r)).die = (ringOf s r).die) : ringDie (modRing s r f) r = ringDie s r := by
  simp only [ringDie, ringOf_modRing_same s r f h, hpriv, hctx, hdie, schedDie_modRing]

/-! ### Doorbells (R357, R358) -/

@[simp] theorem doorKeep_stamp (s : State) (r width : Nat) (w : W64) : (doorKeep s r width w).stamp = s.stamp := by
  unfold doorKeep
  split <;> rfl

/-- The TAIL of a doorbell. -/
def doorTail (d : WriteWord) : Nat := d.v.toNat % 2 ^ 32

/-- The TAIL of a doorbell lies within the ring's size of HEAD. -/
def doorFits (s : State) (r : Nat) (d : WriteWord) : Prop :=
  (doorTail d + 2 ^ 32 - (ringOf s r).head) % 2 ^ 32 ≤ 2 ^ (ringOf s r).log2

/-- The ring after an accepted doorbell: TAIL moved, its place in the order taken, the blocks below TAIL seen. -/
def rungRing (s : State) (r : Nat) (d : WriteWord) : State :=
  let k := doorKeep s r d.width d.v
  modRing { k with stamp := s.stamp + 1 } r fun y => { y with
    tail := doorTail d, doors := y.doors ++ [(doorTail d, s.stamp)], seen := seeBlocks k (ringOf s r) (doorTail d) }

theorem ringDie_rungRing (s : State) (r : Nat) (d : WriteWord) :
    ringDie (rungRing s r d) r = ringDie (doorKeep s r d.width d.v) r := by
  refine ringDie_modRing_same _ r _ (fun h => ?_) rfl rfl rfl
  have hdoors := congrArg Ring.doors h
  simp at hdoors

theorem execDoorbell_of_disabled {s : State} {r : Nat} (d : WriteWord) (h : (ringOf s r).st = .disabled) :
    execDoorbell r d s = .next s :=
  congrArg ok (if_pos (.inl h))

section
variable {s : State} {r : Nat} {d : WriteWord}

theorem execDoorbell_of_fits (hst : (ringOf s r).st ≠ .disabled) (hdis : (ringOf s r).disabling = false)
    (hfit : doorFits s r d) : execDoorbell r d s = .next (modCtl (rungRing s r d) (ringDie (rungRing s r d) r) fun y =>
      { y with doorbells := y.doorbells + 1 }) := by
  have hopen : ¬ ((ringOf s r).st = .disabled ∨ (ringOf s r).disabling = true) := by simp [hst, hdis]
  refine (congrArg ok ((if_neg hopen).trans (if_pos hfit))).trans ?_
  rw [ringDie_rungRing, rungRing, doorKeep_stamp]
  rfl

theorem execDoorbell_of_beyond (hst : (ringOf s r).st ≠ .disabled) (hdis : (ringOf s r).disabling = false)
    (hfit : ¬ doorFits s r d) : execDoorbell r d s =
      (let k := doorKeep s r d.width d.v
       let late := modRing k r fun y => { y with tailError := true }
       .next (note { late with hosts := { late.hosts with tailErrors := late.hosts.tailErrors + 1 } } 9 1 1 11 (ringDie k r)
        [BitVec.ofNat 64 r, BitVec.ofNat 64 (doorTail d)])) := by
  have hopen : ¬ ((ringOf s r).st = .disabled ∨ (ringOf s r).disabling = true) := by simp [hst, hdis]
  exact congrArg ok ((if_neg hopen).trans (if_neg hfit))
end

/-! ### Continue and reset -/

theorem execDoorbellContinue_of_halted {s : State} {r : Nat} (h : (ringOf s r).st = .halted) :
    execDoorbellContinue r s = .next (modRing s r fun y => { y with st := .active, tailError := false }) :=
  congrArg ok (if_pos h)

theorem execDoorbellContinue_of_not_halted {s : State} {r : Nat} (h : (ringOf s r).st ≠ .halted) :
    execDoorbellContinue r s = .next s :=
  congrArg ok (if_neg h)

theorem execDoorbellReset_of_disabled {s : State} {r : Nat} (h : (ringOf s r).st = .disabled) :
    execDoorbellReset r s = .next s :=
  congrArg ok (if_pos h)

theorem execDoorbellReset_of_enabled {s : State} {r : Nat} (h : (ringOf s r).st ≠ .disabled) :
    execDoorbellReset r s = .next (resetRing s r) :=
  congrArg ok (if_neg h)

/-! ### Rings in service (R369) -/

/-- A ring behind 256 pending rings of its processor, with a command in progress or an older doorbell, starts no command. -/
theorem nextCmd_of_crowded (s : State) (r : Nat)
    (h : 256 ≤ (s.rings.filter fun o => o.1 != r && ringPending o.2 && ringDie s o.1 == ringDie s r
      && (o.2.cur.isSome || decide (doorOrder o.2 < doorOrder (ringOf s r)))).length) : nextCmd s r = none := by
  have hserved : ringServed s r = false := by
    simp only [ringServed, Bool.and_eq_false_iff, decide_eq_false_iff_not, Nat.not_lt]
    exact .inr h
  simp [nextCmd, hserved]

theorem runCmd_of_no_command (s : State) (r op : Nat) (work : State → Ring → RingCmd → State) (h : nextCmd s r = none) :
    runCmd s r op work = s := by
  simp [runCmd, h]

/-! ### RING_CTL (R356) -/

/-- A RING_CTL word asks for an operation on a ring, and its reserved fields are 0. -/
structure CtlAsks (w : W64) (op r : Nat) : Prop where
  go : bitAt w.toNat 63 = true
  op : bits w.toNat 17 16 = op
  bit15 : bitAt w.toNat 15 = false
  high : bits w.toNat 62 18 = 0
  ring : bits w.toNat 14 0 = r

/-- The word is kept with GO cleared. -/
def ctlWritten (s : State) (die : Nat) (w : W64) : State := modCtl s die fun y => { y with word := w &&& 0x7FFFFFFFFFFFFFFF }

/-- RESULT is given. -/
def ctlResult (die n : Nat) (t : State) : State := modCtl t die fun y => { y with result := n }

theorem ringOp_of_no_go (s : State) (die op : Nat) (w : W64) (f : State → Nat → Nat × State) (h : bitAt w.toNat 63 = false) :
    ringOp s die op w f = s := by
  simp [ringOp, h]

/-- A word with GO set and the given OP: reserved fields are refused with RESULT 1, else the operation gives RESULT and state. -/
theorem ringOp_of_go (s : State) (die op : Nat) (w : W64) (f : State → Nat → Nat × State) (hgo : bitAt w.toNat 63 = true)
    (hop : bits w.toNat 17 16 = op) : ringOp s die op w f =
      (let x := if ctlBad w then (1, ctlWritten s die w) else f (ctlWritten s die w) (ctlRing w)
       ctlResult die x.1 x.2) :=
  if_neg (by simp [ctlOp, hgo, hop])

theorem ringOp_of_reserved (s : State) (die op : Nat) (w : W64) (f : State → Nat → Nat × State) (hgo : bitAt w.toNat 63 = true)
    (hop : bits w.toNat 17 16 = op) (h15 : bitAt w.toNat 15 = true) :
    ringOp s die op w f = ctlResult die 1 (ctlWritten s die w) := by
  have hbad : ctlBad w = true := by simp [ctlBad, h15]
  rw [ringOp_of_go s die op w f hgo hop, if_pos hbad]

/-- An operation that is asked for gives its own RESULT and state. -/
theorem ringOp_of_asks (s t : State) (die op r n : Nat) (w : W64) (f : State → Nat → Nat × State) (h : CtlAsks w op r)
    (hf : f (ctlWritten s die w) r = (n, t)) : ringOp s die op w f = ctlResult die n t := by
  obtain ⟨hgo, hop, h15, hhigh, rfl⟩ := h
  have hclean : ctlBad w = false := by simp [ctlBad, h15, hhigh]
  simp only [ringOp_of_go s die op w f hgo hop, hclean, Bool.false_eq_true, if_false, ctlRing, hf]

section
variable {s : State} {die r : Nat} {w : W64}

/-! DISABLE -/

theorem execRingDisable_of_disabled (h : CtlAsks w 2 r) (hst : (ringOf (ctlWritten s die w) r).st = .disabled) :
    execRingDisable die w s = .next (ctlResult die 4 (ctlWritten s die w)) :=
  congrArg _ (ringOp_of_asks s _ die 2 r 4 w _ h (by simp [hst]))

theorem execRingDisable_of_idle (h : CtlAsks w 2 r) (hst : (ringOf (ctlWritten s die w) r).st ≠ .disabled)
    (hcur : (ringOf (ctlWritten s die w) r).cur = none) :
    execRingDisable die w s = .next (ctlResult die 0 (modRing (ctlWritten s die w) r fun y =>
      { y with st := .disabled, head := y.tail, doors := [], seen := [] })) :=
  congrArg _ (ringOp_of_asks s _ die 2 r 0 w _ h (by simp [hst, hcur]))

theorem execRingDisable_of_busy (h : CtlAsks w 2 r) (hst : (ringOf (ctlWritten s die w) r).st ≠ .disabled)
    (hcur : (ringOf (ctlWritten s die w) r).cur.isSome = true) :
    execRingDisable die w s = .next (ctlResult die 0 (modRing (ctlWritten s die w) r fun y =>
      { y with disabling := true, head := y.tail, doors := [], seen := [] })) :=
  congrArg _ (ringOp_of_asks s _ die 2 r 0 w _ h (by simp [hst, hcur]))

/-! RESET -/

theorem execRingCtlReset_of_disabled (h : CtlAsks w 3 r) (hst : (ringOf (ctlWritten s die w) r).st = .disabled) :
    execRingCtlReset die w s = .next (ctlResult die 4 (ctlWritten s die w)) :=
  congrArg _ (ringOp_of_asks s _ die 3 r 4 w _ h (by simp [hst]))

theorem execRingCtlReset_of_enabled (h : CtlAsks w 3 r) (hst : (ringOf (ctlWritten s die w) r).st ≠ .disabled) :
    execRingCtlReset die w s = .next (ctlResult die 0 (resetRing (ctlWritten s die w) r)) :=
  congrArg _ (ringOp_of_asks s _ die 3 r 0 w _ h (by simp [hst]))

/-! ENABLE -/

/-- Word i of a ring's table entry. -/
def entryWord (s : State) (r i : Nat) : Nat := (ringEntry s r).getD i 0

/-- A table entry is valid (R355): its reserved fields are 0 and its size is in range. -/
def entryValid (s : State) (r lg : Nat) : Prop :=
  let e := entryWord s r
  bits (e 0) 63 50 = 0 ∧ bits (e 0) 11 0 = 0 ∧ bits (e 1) 63 15 = 0 ∧ bits (e 2) 63 44 = 0 ∧ e 2 % 8 = 0
    ∧ bits (e 3) 63 22 = 0 ∧ e 4 = 0 ∧ e 5 = 0 ∧ e 6 = 0 ∧ e 7 = 0 ∧ bits (e 0) 48 44 = lg ∧ 4 ≤ lg ∧ lg ≤ 16

/-- A ring lies in the range of a paddock. -/
def ringInPad (r : Nat) (p : Pad) : Bool := decide (p.ringFirst ≤ r ∧ r < p.ringFirst + p.ringCount)

/-- A user ring as its table entry gives it, with HEAD and TAIL 0 and the state ACTIVE. -/
def entryRing (s : State) (r lg c : Nat) : Ring :=
  let e := entryWord s r
  { st := .active, base := bits (e 0) 43 0, log2 := lg, priv := false, ctx := c, die := bits (e 1) 14 12,
    headAddr := bits (e 2) 43 0, irq := bits (e 3) 31 0 }

theorem execRingEnable_of_no_table (h : CtlAsks w 1 r) (htab : od (ctlWritten s die w) 0x1200 1 = 0) :
    execRingEnable die w s = .next (ctlResult die 5 (ctlWritten s die w)) :=
  congrArg _ (ringOp_of_asks s _ die 1 r 5 w _ h (by simp [htab]))

theorem execRingEnable_of_enabled {lg : Nat} (h : CtlAsks w 1 r) (htab : od (ctlWritten s die w) 0x1200 1 ≠ 0)
    (hent : entryValid (ctlWritten s die w) r lg) (hst : (ringOf (ctlWritten s die w) r).st ≠ .disabled) :
    execRingEnable die w s = .next (ctlResult die 4 (ctlWritten s die w)) := by
  obtain ⟨h0, h0', h1, h2, h2', h3, h4, h5, h6, h7, rfl, hlo, hhi⟩ := hent
  unfold entryWord at *
  exact congrArg _ (ringOp_of_asks s _ die 1 r 4 w _ h (by simp_all [Nat.not_lt.mpr]))

theorem execRingEnable_of_user {lg c : Nat} (h : CtlAsks w 1 r) (htab : od (ctlWritten s die w) 0x1200 1 ≠ 0)
    (hent : entryValid (ctlWritten s die w) r lg) (hst : (ringOf (ctlWritten s die w) r).st = .disabled)
    (huser : bitAt (entryWord (ctlWritten s die w) r 0) 49 = false) (hctx : bits (entryWord (ctlWritten s die w) r 1) 11 0 = c)
    (hadm : (ctxOf (ctlWritten s die w) c).admitted = true)
    (hpad : ringInPad r (padOf (ctlWritten s die w) (ctxOf (ctlWritten s die w) c).paddock) = true) :
    execRingEnable die w s = .next (ctlResult die 0 { ctlWritten s die w with
      rings := sset {} (ctlWritten s die w).rings r (entryRing (ctlWritten s die w) r lg c) }) := by
  obtain ⟨h0, h0', h1, h2, h2', h3, h4, h5, h6, h7, rfl, hlo, hhi⟩ := hent
  subst hctx
  unfold entryWord ringInPad at *
  exact congrArg _ (ringOp_of_asks s _ die 1 r 0 w _ h (by simp_all [entryRing, entryWord]))
end

/-! ### The statement -/

/-- Settles O45: the doorbell's three cases, the crowded ring, and each RING_CTL operation by what its word and the ring's
state are. -/
theorem ringsAreServedInOrder : Obligations.RingsAreServedInOrder := by
  intro s r die lg c width w tail x v k fits rung late reset go clean s0 ans e entry inPad
  have asks (op : Nat) (hgo : go op) (hc : clean) : CtlAsks w op r := ⟨hgo.1, hgo.2, hc.1, hc.2.1, hc.2.2⟩
  refine ⟨?_, ?_, ?_, ?_, ?_, ?_, ?_, ?_, ?_, ?_, ?_⟩
  · intro h
    exact ⟨execDoorbell_of_disabled _ h, execDoorbellReset_of_disabled h⟩
  · intro hst hdis
    exact ⟨execDoorbell_of_fits (d := ⟨width, tail⟩) hst hdis, execDoorbell_of_beyond (d := ⟨width, tail⟩) hst hdis⟩
  · intro h
    have hnone : nextCmd s r = none := nextCmd_of_crowded s r h
    exact ⟨hnone, congrArg ok (runCmd_of_no_command _ _ _ _ hnone), congrArg ok (runCmd_of_no_command _ _ _ _ hnone)⟩
  · exact execDoorbellContinue_of_halted
  · exact execDoorbellContinue_of_not_halted
  · exact execDoorbellReset_of_enabled
  · intro h
    exact ⟨congrArg ok (ringOp_of_no_go _ _ _ _ _ h), congrArg ok (ringOp_of_no_go _ _ _ _ _ h),
      congrArg ok (ringOp_of_no_go _ _ _ _ _ h)⟩
  · intro h
    exact ⟨fun hgo => congrArg ok (ringOp_of_reserved _ _ _ _ _ hgo.1 hgo.2 h),
      fun hgo => congrArg ok (ringOp_of_reserved _ _ _ _ _ hgo.1 hgo.2 h),
      fun hgo => congrArg ok (ringOp_of_reserved _ _ _ _ _ hgo.1 hgo.2 h)⟩
  · intro hc hst
    exact ⟨fun hgo => execRingDisable_of_disabled (asks 2 hgo hc) hst,
      fun hgo => execRingCtlReset_of_disabled (asks 3 hgo hc) hst⟩
  · intro hc hst
    exact ⟨fun hgo => execRingDisable_of_idle (asks 2 hgo hc) hst, fun hgo => execRingDisable_of_busy (asks 2 hgo hc) hst,
      fun hgo => execRingCtlReset_of_enabled (asks 3 hgo hc) hst⟩
  · intro hc hgo
    have h := asks 1 hgo hc
    refine ⟨execRingEnable_of_no_table h, fun htab hent => ⟨execRingEnable_of_enabled h htab hent, ?_⟩⟩
    intro hst huser hctx
    exact execRingEnable_of_user h htab hent hst huser hctx

end Sys2Proof.Machine
end

section
/-! Registers (R10, R92, R154, R201, R202, R457): what a read gives, what a write replaces, and the bits that a 1 clears. -/

namespace Sys2Proof.Machine

/-! ### Accesses (R202) -/

/-- An access of 4 or 8 bytes, aligned to its width. -/
def accessFits (pa width : Nat) : Prop := (width = 4 ∨ width = 8) ∧ pa % width = 0

/-- What the model refuses: the access does not fit, or no register lies there. -/
theorem access_refused_iff (s : State) (pa width : Nat) :
    ((width ≠ 4 ∧ width ≠ 8) ∨ pa % width ≠ 0 ∨ regWord s (pa / 8 * 8) = .absent)
      ↔ ¬ accessFits pa width ∨ regWord s (pa / 8 * 8) = .absent := by
  rw [accessFits, Decidable.not_and_iff_not_or_not, not_or, or_assoc]

theorem access_served {s : State} {pa width : Nat} (hfit : accessFits pa width) (hreg : regWord s (pa / 8 * 8) ≠ .absent) :
    ¬ ((width ≠ 4 ∧ width ≠ 8) ∨ pa % width ≠ 0 ∨ regWord s (pa / 8 * 8) = .absent) := by
  rw [access_refused_iff]
  exact not_or.mpr ⟨fun h => h hfit, hreg⟩

/-! ### Reads (R92, R154) -/

theorem regValue_of_word {s : State} {r : Nat} {w : W64} (h : regWord s r = .word w) : regValue s r = w := by
  simp [regValue, h]

theorem regValue_of_unstated {s : State} {r : Nat} (h : regWord s r = .unstated) : regValue s r = Config.freeWord s.free := by
  simp [regValue, h]

section
variable {s : State} {agent pa width b n : Nat}

theorem execSnapshotRead_of_refused (h : ¬ accessFits pa width ∨ regWord s (pa / 8 * 8) = .absent) :
    execSnapshotRead agent ⟨pa, width⟩ s = .next (reply s (.fault agent pa)) :=
  congrArg ok (if_pos ((access_refused_iff s pa width).mpr h))

/-- A register outside every group is read alone; a value that is not stated uses up a free one. -/
theorem execSnapshotRead_of_alone (hfit : accessFits pa width) (hreg : regWord s (pa / 8 * 8) ≠ .absent)
    (hgroup : rsGroup (pa / 8 * 8) = none) : execSnapshotRead agent ⟨pa, width⟩ s =
      .next (gotReg (if regWord s (pa / 8 * 8) = .unstated then { s with free := s.free + 1 } else s) pa
        (partWord (regValue s (pa / 8 * 8)) pa width)) := by
  refine (congrArg ok (if_neg (access_served hfit hreg))).trans ?_
  simp only [hgroup, ok]

/-- The first register of a group is read and latches the whole group. -/
theorem execSnapshotRead_of_first (hfit : accessFits pa width) (hreg : regWord s (pa / 8 * 8) ≠ .absent)
    (hgroup : rsGroup (pa / 8 * 8) = some (b, n)) (hfirst : pa / 8 * 8 = b) : execSnapshotRead agent ⟨pa, width⟩ s =
      .next (gotReg
        { s with mmio := { s.mmio with
            latch := ssetRun 0 s.mmio.latch b ((List.range n).map fun i => regValue s (b + 8 * i)) } } pa
        (partWord (regValue s (pa / 8 * 8)) pa width)) := by
  refine (congrArg ok (if_neg (access_served hfit hreg))).trans ?_
  simp only [hgroup, if_pos hfirst, ok]

/-- Another register of a group gives what was latched. -/
theorem execSnapshotRead_of_latched (hfit : accessFits pa width) (hreg : regWord s (pa / 8 * 8) ≠ .absent)
    (hgroup : rsGroup (pa / 8 * 8) = some (b, n)) (hother : pa / 8 * 8 ≠ b) : execSnapshotRead agent ⟨pa, width⟩ s =
      .next (gotReg s pa (partWord (sget 0 s.mmio.latch (pa / 8 * 8)) pa width)) := by
  refine (congrArg ok (if_neg (access_served hfit hreg))).trans ?_
  simp only [hgroup, if_neg hother, ok]
end

/-! ### The part of a word that an access covers -/

theorem partWord_eight (w : W64) (pa : Nat) : partWord w pa 8 = w := rfl

theorem partWord_low (w : W64) {pa : Nat} (h : pa % 8 = 0) : (partWord w pa 4).toNat = w.toNat % 2 ^ 32 := by
  rw [partWord, if_neg (by decide), h, BitVec.toNat_ofNat]
  omega

theorem partWord_high (w : W64) {pa : Nat} (h : pa % 8 = 4) : (partWord w pa 4).toNat = w.toNat / 2 ^ 32 := by
  have hw := w.isLt
  rw [partWord, if_neg (by decide), h, BitVec.toNat_ofNat]
  omega

theorem mergeWord_eight (w : W64) (pa : Nat) (v : W64) : mergeWord w pa 8 v = v := rfl

theorem mergeWord_low (w v : W64) {pa : Nat} (h : pa % 8 = 0) :
    (mergeWord w pa 4 v).toNat = w.toNat / 2 ^ 32 * 2 ^ 32 + v.toNat % 2 ^ 32 := by
  have hw := w.isLt
  rw [mergeWord, if_neg (by decide), if_pos h, BitVec.toNat_ofNat]
  omega

theorem mergeWord_high (w v : W64) {pa : Nat} (h : pa % 8 = 4) :
    (mergeWord w pa 4 v).toNat = w.toNat % 2 ^ 32 + v.toNat % 2 ^ 32 * 2 ^ 32 := by
  rw [mergeWord, if_neg (by decide), if_neg (by omega), BitVec.toNat_ofNat]
  omega

/-! ### Writes (R201, R457) -/

/-- An address of a PCIe configuration or memory window. -/
def inPcieWindow (pa : Nat) : Prop := (0xF2000000000 ≤ pa ∧ pa < 0xF2040000000) ∨ (0xF4000000000 ≤ pa ∧ pa < 0xF8000000000)

/-- The windows begin and end at whole registers. -/
theorem inPcieWindow_reg (pa : Nat) : inPcieWindow (pa / 8 * 8) ↔ inPcieWindow pa := by
  unfold inPcieWindow
  omega

section
variable {s : State} {agent pa width : Nat} {v : W64}

theorem execRegisterWrite_of_refused (h : ¬ accessFits pa width ∨ regWord s (pa / 8 * 8) = .absent) :
    execRegisterWrite agent pa width v s = .next (reply s (.fault agent pa)) :=
  congrArg ok (if_pos ((access_refused_iff s pa width).mpr h))

theorem execRegisterWrite_of_pcie (hfit : accessFits pa width) (hreg : regWord s (pa / 8 * 8) ≠ .absent) (hpcie : inPcieWindow pa) :
    execRegisterWrite agent pa width v s =
      .next (if noFunction s (pa / 8 * 8) || bitAt s.lands.portReset (portOf (pa / 8 * 8)) then s
        else { s with mmio := { s.mmio with out := s.mmio.out ++ [(pa, width, v)] } }) :=
  congrArg ok ((if_neg (access_served hfit hreg)).trans (if_pos hpcie))

theorem execRegisterWrite_of_own (hfit : accessFits pa width) (hreg : regWord s (pa / 8 * 8) ≠ .absent) (hpcie : ¬ inPcieWindow pa) :
    execRegisterWrite agent pa width v s =
      .next (putReg s (pa / 8 * 8) (mergeWord (oldWord s (pa / 8 * 8)) pa width v)) :=
  congrArg ok ((if_neg (access_served hfit hreg)).trans (if_neg hpcie))
end

/-- The Studbook's CURSOR takes the word written (R457). -/
theorem putReg_cursor (s : State) (w : W64) : putReg s 0xF0300000000 w = { s with book := { s.book with cursor := w } } := by
  simp [putReg]

/-! ### Bits that a 1 clears -/

/-- The status flags of an engine's chain stay unless their bit is written 1 (R154). -/
theorem execChainStatusW1c_eq (ge : Nat) (v : W64) (s : State) :
    execChainStatusW1c ge v s = .next (setEng s ge { eng s ge with chain := chainClear (eng s ge).chain v.toNat }) := rfl

theorem execRangeErrorW1c_of_zero (s : State) (p : Nat) (v : W64) (h : bitAt v.toNat 9 = false) :
    execRangeErrorW1c p v s = .next s := by
  simp [execRangeErrorW1c, h, ok]

/-! ### The statement -/

/-- Settles O48: reads by the register's group, writes by its window, the halves of a word as numbers, and the two W1C rows. -/
theorem registersAreReadLatchedAndWritten : Obligations.RegistersAreReadLatchedAndWritten := by
  intro s agent pa b n width ge p w v got group reg pcie fault c cleared fits
  have hwindow : pcie = true ↔ inPcieWindow pa := decide_eq_true_iff.trans (inPcieWindow_reg pa)
  refine ⟨execSnapshotRead_of_refused, ?_, ?_, partWord_eight w pa, partWord_low w, partWord_high w, ?_, ?_, putReg_cursor s w,
    ⟨mergeWord_eight w pa v, mergeWord_low w v, mergeWord_high w v⟩, execChainStatusW1c_eq ge v s,
    execRangeErrorW1c_of_zero s p v⟩
  · intro hfit (hword : regWord s (pa / 8 * 8) = .word w)
    have hreg : regWord s (pa / 8 * 8) ≠ .absent := by simp [hword]
    have hvalue : regValue s (pa / 8 * 8) = w := regValue_of_word hword
    refine ⟨fun hg => ?_, fun hg hother => execSnapshotRead_of_latched hfit hreg hg hother, fun hg hfirst => ?_⟩
    · refine (execSnapshotRead_of_alone hfit hreg hg).trans ?_
      rw [hvalue, if_neg (by simp [hword])]
      rfl
    · refine (execSnapshotRead_of_first hfit hreg hg hfirst).trans ?_
      rw [hvalue]
      rfl
  · intro hfit (hword : regWord s (pa / 8 * 8) = .unstated) hg
    have hreg : regWord s (pa / 8 * 8) ≠ .absent := by simp [hword]
    refine (execSnapshotRead_of_alone hfit hreg hg).trans ?_
    rw [regValue_of_unstated hword, if_pos hword]
    rfl
  · intro h
    exact congrArg ok (if_pos h)
  · intro hwidth haligned hreg
    have hfit : accessFits pa width := ⟨hwidth, haligned⟩
    refine ⟨fun hp hout => ?_, fun hp hin => ?_, fun hp => ?_⟩
    · exact (execRegisterWrite_of_pcie hfit hreg (hwindow.mp hp)).trans (congrArg _ (if_pos hout))
    · exact (execRegisterWrite_of_pcie hfit hreg (hwindow.mp hp)).trans (congrArg _ (if_neg (Bool.eq_false_iff.mp hin)))
    · exact execRegisterWrite_of_own hfit hreg (fun hin => Bool.eq_false_iff.mp hp (hwindow.mpr hin))

end Sys2Proof.Machine
end

section
/-! Requests to the dictionary (R373, R374, R413, R415, R418 to R421): when a frame is served, how a request is answered by its
client and SEQ, what its writes leave, and the mailbox. -/

namespace Sys2Proof.Machine

/-! ### Frames that arrive (R443) -/

/-- The path a frame comes on: MCTP from an endpoint, or ODP under the client number in its header. -/
def framePath (eid : Option Nat) (f : List Byte) : OPath := match eid with | some e => .mctp e | none => .odp (fieldAt f 4 2)

/-- What goes out: on MCTP the message header stands before the frame (R421). -/
def frameOut (eid : Option Nat) (r : List Byte) : List Byte := match eid with | some _ => [0, 0, 0xC1, 0xE5, 0x01] ++ r | none => r

/-- The state after a request is served and its answer sent. -/
def answered (eid : Option Nat) (f : List Byte) (x : State × Answer) : State :=
  match x.2.frame with
  | some r => sendFrame x.1 (framePath eid f) (frameOut eid r)
  | none => x.1

/-- A package that sleeps wakes on a frame. -/
def awake (s : State) : State := if s.power.sleepState == 2 then wake s else s

section
variable {s : State} {row : Nat} {eid : Option Nat} {env : DictEnv} {f : List Byte}

theorem odpArrives_of_unserved (h : dictServed s = false) : odpArrives s row eid env f = s :=
  if_pos (by simp [h])

/-- A frame of the row's opcode, on a path that wakes the package where it sleeps, is served and answered. -/
theorem odpArrives_of_heard (hserved : dictServed s = true) (hop : fieldAt f 1 1 = row)
    (hwake : s.power.sleepState = 2 → bitAt (od s 0x3009 3) (b2n eid.isSome) = true) :
    odpArrives s row eid env f = answered eid f (serve (awake s) env (framePath eid f) f) := by
  have hasleep : (s.power.sleepState == 2 && !bitAt (od s 0x3009 3) (b2n eid.isSome)) = false := by
    cases h : s.power.sleepState == 2 with
    | false => rfl
    | true => simp [hwake (beq_iff_eq.mp h)]
  have hopen : ¬ ((!dictServed s || (fieldAt f 1 1 != row && decide (1 ≤ fieldAt f 1 1 ∧ fieldAt f 1 1 ≤ 5))
      || (s.power.sleepState == 2 && !bitAt (od s 0x3009 3) (b2n eid.isSome))) = true) := by
    simp [hserved, hop, hasleep]
  exact if_neg hopen
end

/-! ### Frames that are refused whole (R418, R420) -/

section
variable {s : State} {env : DictEnv} {p : OPath} {f : List Byte}

theorem serve_of_short {e : Nat} (h : f.length < 32) : serve s env (.odp e) f = (s, {}) :=
  if_pos h

theorem serve_of_wrong_tag (h : 32 ≤ f.length) (htag : tagWrong s p f = true) :
    serve s env p f =
      (let t := { s with dict := { s.dict with authFailures := s.dict.authFailures + 1 } }
       (t, { frame := some (tagged t p (respFrame (fieldAt f 1 1) (fieldAt f 4 2) (fieldAt f 8 4) (fieldAt f 12 4) [])) })) :=
  (if_neg (Nat.not_lt.mpr h)).trans (if_pos htag)

theorem serve_of_bad_frame (h : 32 ≤ f.length) (htag : tagWrong s p f = false) (hreq : parseReq f = none) :
    serve s env p f = (s, refuseWhole p f aBADFRAME) := by
  simp [serve, Nat.not_lt.mpr h, htag, hreq]

theorem serve_of_request {q : DictReq} (h : 32 ≤ f.length) (htag : tagWrong s p f = false) (hreq : parseReq f = some q) :
    serve s env p f = byClient s env p f q := by
  simp [serve, Nat.not_lt.mpr h, htag, hreq]
end

/-! ### Requests by client and SEQ (R419) -/

/-- The client of a path, where it has a place. -/
def knownClient (s : State) (p : OPath) : Option Client := s.dict.clients.find? fun c => c.num == clientOf p

/-- The answer on file under a SEQ. -/
def filedReply (c : Client) (seq : Nat) : Option (Nat × List Byte) := c.replies.find? fun r => r.1 == seq

/-- The client of a path is noted as heard now. -/
def clientSeen (s : State) (p : OPath) : State :=
  setClients s (s.dict.clients.map fun x => if x.num = clientOf p then { x with lastMs := nowMs s } else x)

section
variable {s : State} {env : DictEnv} {p : OPath} {f : List Byte} {q : DictReq}

theorem byClient_of_filed {c : Client} {r : Nat × List Byte} (hc : knownClient s p = some c) (hr : filedReply c q.seq = some r) :
    byClient s env p f q = (clientSeen s p, { frame := some r.2 }) := by
  unfold knownClient at hc
  unfold filedReply at hr
  simp only [byClient, hc, hr, clientSeen]

theorem byClient_of_unfiled {c : Client} (hc : knownClient s p = some c) (hr : filedReply c q.seq = none) :
    byClient s env p f q = if q.seq < c.high then (clientSeen s p, refuseWhole p f aSEQUENCE) else runReq (clientSeen s p) env p q := by
  unfold knownClient at hc
  unfold filedReply at hr
  simp only [byClient, hc, hr, clientSeen]

theorem byClient_of_no_room (hc : knownClient s p = none) (hl : clientRoom s = none) : byClient s env p f q =
    (s, { frame := some (tagged s p (respFrame q.op (clientOf p) q.seq q.step (q.items.map fun i => wrote i aBUSY))) }) := by
  unfold knownClient at hc
  simp only [byClient, hc, hl]

theorem byClient_of_room {l : List Client} (hc : knownClient s p = none) (hl : clientRoom s = some l) : byClient s env p f q =
    runReq (setClients s (l ++ [{ num := clientOf p, high := q.seq, lastMs := nowMs s, replies := [] }])) env p q := by
  unfold knownClient at hc
  simp only [byClient, hc, hl]
end

theorem clientRoom_of_free {s : State} (h : s.dict.clients.length < 64) : clientRoom s = some s.dict.clients :=
  if_pos h

/-! ### Writes (R415, R420) -/

theorem writeItem_of_keyZero {s : State} (env : DictEnv) (reader step ix sub ty : Nat) (v : List Byte) (h : keyZero s = true) :
    writeItem s env true reader step ix sub ty v = .error aAUTH :=
  if_pos (by simp [h])

/-- Every item has its answer. -/
theorem writeItems_length (s : State) (env : DictEnv) (viaOdp : Bool) (reader step : Nat) (items : List ReqItem) :
    (writeItems s env viaOdp reader step items).2.length = items.length := by
  induction items generalizing s with
  | nil => rfl
  | cons i rest ih =>
    unfold writeItems
    split <;> simp [ih]

/-- Every item of a request is accepted. -/
def allAccepted (l : List RespItem) : Prop := (l.all fun i => i.abort == 0) = true

section
variable {s : State} {env : DictEnv} {viaOdp : Bool} {reader : Nat} {q : DictReq}

theorem doRequest_of_set (hop : q.op = 3) : doRequest s env viaOdp reader q =
    (let x := writeItems s env viaOdp reader q.step q.items
     (if x.2.all fun i => i.abort == 0 then x.1 else s, x.2)) := by
  simp [doRequest, hop]

theorem doRequest_of_set_refused (hop : q.op = 3)
    (hall : ¬ allAccepted (writeItems s env viaOdp reader q.step q.items).2) : (doRequest s env viaOdp reader q).1 = s := by
  rw [doRequest_of_set hop]
  exact if_neg hall

theorem doRequest_of_set_accepted (hop : q.op = 3)
    (hall : allAccepted (writeItems s env viaOdp reader q.step q.items).2) :
    doRequest s env viaOdp reader q = writeItems s env viaOdp reader q.step q.items := by
  rw [doRequest_of_set hop]
  exact congrArg (·, _) (if_pos hall)
end

/-! ### The mailbox (R373, R374) -/

section
variable {s : State} {ch : Nat} {w : W64} {env : DictEnv}

theorem execMailboxSubmit_of_no_go (h : 16 ≤ ch ∨ bitAt w.toNat 0 = false) : execMailboxSubmit ch w env s = .next s :=
  congrArg ok (if_pos h)

/-- A write with GO sets REQ_LEN and the reserved bits; a channel that is not busy becomes so, and an Ostler that serves the
dictionary serves it. -/
theorem execMailboxSubmit_of_go (hch : ch < 16) (hgo : bitAt w.toNat 0 = true) : execMailboxSubmit ch w env s =
    ok (if (mailOf s ch).busy then mailHead s ch w.toNat else
      if dictServed s then serveMail (modMail (mailHead s ch w.toNat) ch fun y => { y with busy := true }) ch env
      else modMail (mailHead s ch w.toNat) ch fun y => { y with busy := true }) :=
  congrArg ok (if_neg (by simp [hch, hgo]))

theorem serveMail_of_bad_length (s : State) (h : (mailOf s ch).reqLen < 8 ∨ 1792 < (mailOf s ch).reqLen) : serveMail s ch env =
    deliverIrq (modMail s ch fun y =>
      { y with resp := [], respLen := 0, abort := aBADFRAME, busy := false, done := true, served := y.served + 1 })
      (mailOf s ch).irqTarget := by
  simp only [serveMail, if_pos h]
  rfl

theorem execMailboxDoneClear_of_done (hch : ch < 16) (hgo : bitAt w.toNat 0 = false) (hdone : bitAt w.toNat 2 = true) :
    execMailboxDoneClear ⟨ch, w⟩ s = .next (mailHead s ch w.toNat) :=
  congrArg ok (if_neg (by simp [hch, hgo, hdone]))

theorem execMailboxDoneClear_of_other (h : 16 ≤ ch ∨ bitAt w.toNat 0 = true ∨ bitAt w.toNat 2 = false) :
    execMailboxDoneClear ⟨ch, w⟩ s = .next s :=
  congrArg ok (if_pos h)
end

/-! ### The statement -/

/-- Settles O59: the frame that arrives on each path, the answer by TAG, form, client and SEQ, what WRITE_SET leaves, and the
mailbox channel. -/
theorem dictionaryRequestsAreServedOnEveryPath : Obligations.DictionaryRequestsAreServedOnEveryPath := by
  intro s eid env f r q c l n ch reader step w items i p path asleep s1 heard after mail put go cl counted seen known fresh
  have arrives (row : Nat) (e : DictEnv) (h : heard row) : ok (odpArrives s row eid e f) = .next (after e) := by
    obtain ⟨hserved, hop, hwake⟩ := h
    refine congrArg ok ((odpArrives_of_heard hserved hop hwake).trans ?_)
    cases eid <;> rfl
  have unserved (h : dictServed s = false) (row : Nat) (e : DictEnv) : ok (odpArrives s row eid e f) = .next s :=
    congrArg ok (odpArrives_of_unserved h)
  refine ⟨arrives 1 {}, arrives 2 env, arrives 3 env, arrives 4 {}, arrives 5 {}, ?_, ?_, serve_of_wrong_tag, ?_,
    byClient_of_filed, ?_, ?_, byClient_of_no_room, byClient_of_room, clientRoom_of_free, ?_, ?_, ?_, ?_, ?_, ?_, ?_, ?_, ?_⟩
  · intro h
    exact ⟨unserved h 1 {}, unserved h 2 env, unserved h 3 env, unserved h 4 {}, unserved h 5 {}⟩
  · intro h e
    exact serve_of_short h
  · intro h htag
    exact ⟨serve_of_bad_frame h htag, serve_of_request h htag⟩
  · intro hc hr hold
    exact (byClient_of_unfiled hc hr).trans (if_pos hold)
  · intro hc hr hnew
    exact (byClient_of_unfiled hc hr).trans (if_neg (Nat.not_lt.mpr hnew))
  · exact writeItem_of_keyZero env reader step i.ix i.sub i.ty i.data
  · exact writeItems_length s env true reader step items
  · exact doRequest_of_set_refused
  · exact doRequest_of_set_accepted
  · exact execMailboxSubmit_of_no_go
  · intro hch hgo
    have hsubmit := execMailboxSubmit_of_go (s := s) (env := env) hch hgo
    refine ⟨fun hbusy => hsubmit.trans (congrArg ok (if_pos hbusy)), fun hbusy hserved => ?_, fun hbusy hserved => ?_⟩
    · exact hsubmit.trans (congrArg ok ((if_neg (Bool.eq_false_iff.mp hbusy)).trans (if_neg (Bool.eq_false_iff.mp hserved))))
    · exact hsubmit.trans (congrArg ok ((if_neg (Bool.eq_false_iff.mp hbusy)).trans (if_pos hserved)))
  · exact fun t => serveMail_of_bad_length t
  · exact execMailboxDoneClear_of_done
  · exact execMailboxDoneClear_of_other

end Sys2Proof.Machine
end

section
/-! What engines and arrays read as after a write, and what leaves the slots' states and places alone (R21, R380): accesses to
memory, raised faults, and the work of an engine's arrays and chain. -/

namespace Sys2Proof.Machine

/-- An engine that is not a fresh one is read back. -/
theorem eng_setEng_new (s : State) (ge : Nat) (e : Engine) (h : e ≠ {}) : eng (setEng s ge e) ge = e :=
  sget_sset_new _ _ _ _ h

/-- An array that is written is read back. -/
theorem arrOf_setArr_same {e : Engine} {a : Nat} {x : Arr} (h : swf {} e.arrays = true) : arrOf (setArr e a x) a = x :=
  sget_sset_same _ _ _ _ h

/-- A fold of operations that keep a part of the state keeps it. -/
theorem foldl_keeps {β σ γ : Type} (part : σ → γ) (g : σ → β → σ) (hg : ∀ t x, part (g t x) = part t) (l : List β) (s : σ) :
    part (l.foldl g s) = part s := by
  induction l generalizing s with
  | nil => rfl
  | cons x r ih => exact (ih _).trans (hg s x)

theorem foldl_slots {β : Type} (g : State → β → State) (hg : ∀ t x, (g t x).slots = t.slots) (l : List β) (s : State) :
    (l.foldl g s).slots = s.slots :=
  foldl_keeps State.slots g hg l s

theorem foldl_snd_slots {α β : Type} (g : α × State → β → α × State) (hg : ∀ t x, (g t x).2.slots = t.2.slots) (l : List β)
    (x : α × State) : (l.foldl g x).2.slots = x.2.slots :=
  foldl_keeps (fun y : α × State => y.2.slots) g hg l x

/-! ### Accesses to memory -/

theorem memSide_slots {s t : State} (h : memSide s t) : t.slots = s.slots := by
  obtain ⟨-, -, hslots, -⟩ := memSide_fields h
  exact hslots

@[simp] theorem vPieces_slots (s : State) (w : Option Nat) (ctx : Nat) (k : AccKind) (va n : Nat) :
    (vPieces s w ctx k va n).2.slots = s.slots :=
  memSide_slots (vRange_side s w ctx k false _ va n)

@[simp] theorem cPieces_slots (s : State) (w : Option Nat) (ctx va n : Nat) : (cPieces s w ctx va n).2.slots = s.slots :=
  memSide_slots (vRange_side s w ctx .write true _ va n)

@[simp] theorem engReadLine_slots (s : State) (ge : Nat) (pma : Bool) (line : Nat) :
    (engReadLine s ge pma line).2.slots = s.slots := by
  have hfill (t : State) (a : Nat) : (fillShared t a line).slots = t.slots := memSide_slots (fillShared_side t a line)
  unfold engReadLine
  dsimp only
  split
  · rfl
  · split
    · exact hfill _ _
    · rfl

@[simp] theorem engReadPiece_slots (s : State) (ge : Nat) (p : Piece) : (engReadPiece s ge p).2.slots = s.slots := by
  unfold engReadPiece
  refine foldl_snd_slots _ (fun _ _ => ?_) _ _
  exact engReadLine_slots _ _ _ _

@[simp] theorem readPieces_slots (s : State) (ge : Nat) (l : List Piece) : (readPieces s ge l).2.slots = s.slots := by
  unfold readPieces
  refine foldl_snd_slots _ (fun _ _ => ?_) _ _
  exact engReadPiece_slots _ _ _

@[simp] theorem recallOwner_slots (s : State) (line : Nat) : (recallOwner s line).slots = s.slots :=
  memSide_slots (recallOwner_side s line)

@[simp] theorem patchTxns_slots (s : State) (a : Nat) (d : List PByte) : (patchTxns s a d).slots = s.slots :=
  memSide_slots (patchTxns_side s a d)

@[simp] theorem drainOldest_slots (s : State) (h : Nat) : (drainOldest s h).slots = s.slots :=
  memSide_slots (drainOldest_side s h)

@[simp] theorem wncNow_slots (s : State) (ctx stamp : Nat) (defer : Bool) (a : Nat) (d : List PByte) :
    (wncNow s ctx stamp defer a d).slots = s.slots := by
  unfold wncNow
  extract_lets line h s1 s2 hs
  have hwritten : s2.slots = s.slots := (patchTxns_slots _ _ _).trans (recallOwner_slots _ _)
  split
  · split
    · exact hwritten
    · exact (drainOldest_slots s2 h).trans hwritten
  · show (if lineOpen s2 line then s2 else setDir s2 line none).slots = s.slots
    split
    · exact hwritten
    · exact hwritten

@[simp] theorem wncLine_slots (s : State) (ctx stamp : Nat) (defer : Bool) (a : Nat) (d : List PByte) :
    (wncLine s ctx stamp defer a d).slots = s.slots := by
  unfold wncLine
  split
  · rfl
  · exact wncNow_slots _ _ _ _ _ _

@[simp] theorem homeWrite_slots (s : State) (ctx stamp : Nat) (defer : Bool) (a : Nat) (d : List PByte) :
    (homeWrite s ctx stamp defer a d).slots = s.slots := by
  unfold homeWrite
  exact foldl_slots _ (fun _ _ => wncLine_slots _ _ _ _ _ _) _ _

@[simp] theorem writePieces_slots (s : State) (ctx stamp : Nat) (l : List Piece) (d : List PByte) :
    (writePieces s ctx stamp l d).slots = s.slots := by
  induction l generalizing s d with
  | nil => rfl
  | cons p r ih => exact (ih _ _).trans (homeWrite_slots _ _ _ _ _ _)

@[simp] theorem vRead_slots (s : State) (ge va n : Nat) : (vRead s ge va n).2.slots = s.slots := by
  have h := vPieces_slots s (walker ge) (eng s ge).seq.context .read va n
  unfold vRead
  split
  · next hv => rw [hv] at h; exact (readPieces_slots _ _ _).trans h
  · next hv => rw [hv] at h; exact h

@[simp] theorem vWrite_slots (s : State) (ge stamp va : Nat) (d : List PByte) : (vWrite s ge stamp va d).2.slots = s.slots := by
  have h := vPieces_slots s (walker ge) (eng s ge).seq.context .write va d.length
  unfold vWrite
  split
  · next hv => rw [hv] at h; exact (writePieces_slots _ _ _ _ _).trans h
  · next hv => rw [hv] at h; exact h

@[simp] theorem checkRows_slots (s : State) (ge space : Nat) (l : List (Nat × Nat)) :
    (checkRows s ge space l).2.slots = s.slots := by
  induction l generalizing s with
  | nil => rfl
  | cons x r ih =>
    obtain ⟨a, n⟩ := x
    have h := vPieces_slots s (walker ge) (eng s ge).seq.context .write a n
    unfold checkRows
    split
    · exact ih s
    · split
      · next hv => rw [hv] at h; exact h
      · next hv => rw [hv] at h; exact (ih _).trans h

@[simp] theorem readRows_slots (s : State) (ge u stamp space : Nat) (l : List (Nat × Nat)) :
    (readRows s ge u stamp space l).2.slots = s.slots := by
  induction l generalizing s with
  | nil => rfl
  | cons x r ih =>
    obtain ⟨a, n⟩ := x
    have h := vRead_slots s ge a n
    have hs := ih s
    unfold readRows
    split
    · split
      · next hv => rw [hv] at hs; exact hs
      · next hv => rw [hv] at hs; exact hs
    · split
      · next hv => rw [hv] at h; exact h
      · next t hv =>
        have ht := ih t
        rw [hv] at h
        split
        · next hr => rw [hr] at ht; exact ht.trans h
        · next hr => rw [hr] at ht; exact ht.trans h

@[simp] theorem writeRows_slots (s : State) (ge u stamp space : Nat) (l : List (Nat × List PByte)) :
    (writeRows s ge u stamp space l).slots = s.slots := by
  induction l generalizing s with
  | nil => rfl
  | cons x r ih =>
    unfold writeRows
    split
    · exact ih _
    · exact (ih _).trans (vWrite_slots _ _ _ _ _)

/-! ### Contributions -/

theorem cmbStage_slots (s : State) (h i idx a : Nat) (d : CmbEls) : (cmbStage s h i idx a d).slots = s.slots := rfl

theorem cmbArrive_slots (s : State) (h i a : Nat) (d : CmbEls) : (cmbArrive s h i a d).slots = s.slots := rfl

theorem cmbMasked_slots (s : State) (a : Nat) (mask : List Bool) (d : List PByte) (type epoch idx : Nat) (relay : Bool) :
    (cmbMasked s a mask d type epoch idx relay).2.slots = s.slots := by
  unfold cmbMasked
  (repeat' (first | rfl | split | dsimp only))
  · exact foldl_slots _ (fun _ _ => cmbStage_slots _ _ _ _ _ _) _ _
  · exact foldl_slots _ (fun _ _ => cmbArrive_slots _ _ _ _ _) _ _

@[simp] theorem sendPieces_slots (s : State) (type epoch idx : Nat) (widen : Bool) (l : List Piece) (d : List PByte) (bad : Bool) :
    (sendPieces s type epoch idx widen l d bad).2.slots = s.slots := by
  induction l generalizing s d bad with
  | nil => rfl
  | cons p r ih => exact (ih _ _ _).trans (cmbMasked_slots _ _ _ _ _ _ _ _)

@[simp] theorem cmbAt_slots (s : State) (ge va : Nat) : (cmbAt s ge va).2.slots = s.slots := by
  have h := cPieces_slots s (walker ge) (eng s ge).seq.context va 1
  unfold cmbAt
  split
  · next hv => rw [hv] at h; exact h
  · next hv =>
    rw [hv] at h
    split <;> exact h

@[simp] theorem sendRow_slots (s : State) (ge va : Nat) (d : List PByte) (type epoch idx : Nat) :
    (sendRow s ge va d type epoch idx).2.slots = s.slots := by
  have h := cmbAt_slots s ge va
  unfold sendRow
  split
  · next hv => rw [hv] at h; exact h
  · next hv => rw [hv] at h; exact h
  · next c t hv =>
    rw [hv] at h
    have hp := cPieces_slots t (walker ge) (eng t ge).seq.context va (if c.widen then 2 * d.length else d.length)
    dsimp only
    split
    · next hc => rw [hc] at hp; exact hp.trans h
    · next hc => rw [hc] at hp; exact (sendPieces_slots _ _ _ _ _ _ _ _).trans (hp.trans h)

/-! ### Raised faults -/

@[simp] theorem raise_slots (s : State) (ge source arr code : Nat) (pc addr : W64) :
    (raise s ge source arr code pc addr).slots = s.slots := by
  unfold raise
  dsimp only
  split <;> rfl

@[simp] theorem raiseSeq_slots (s : State) (ge code : Nat) (t : Tag) (addr : Nat) : (raiseSeq s ge code t addr).slots = s.slots :=
  raise_slots _ _ _ _ _ _ _

@[simp] theorem raiseArr_slots (s : State) (ge a code : Nat) (t : Tag) : (raiseArr s ge a code t).slots = s.slots :=
  raise_slots _ _ _ _ _ _ _

@[simp] theorem raiseUnrec_slots (s : State) (ge : Nat) (t : Tag) : (raiseUnrec s ge t).slots = s.slots :=
  raiseSeq_slots _ _ _ _ _

/-! ### The work of the arrays and of the chain -/

@[simp] theorem runTileOp_slots (s : State) (ge a : Nat) (op : ArrOp) : (runTileOp s ge a op).slots = s.slots := by
  unfold runTileOp
  dsimp only
  split
  · rfl
  · split <;> simp
  · split <;> simp
  · split <;> simp
  · split <;> simp
  · next t d tg =>
    have h := checkRows_slots s ge (dSpace d) [(dBase d, (tileImage (accOf (eng s ge) a) t).length)]
    split
    · simp
    · split
      · simp
      · split
        · next hc => rw [hc] at h; simpa using h
        · next hc => rw [hc] at h; simpa using h
  · next t d tg =>
    have h := readRows_slots s ge (uArr a) tg.stamp (dSpace d) [(dBase d, tileImageBytes (tileOf (accOf (eng s ge) a) t))]
    split
    · simp
    · split
      · simp
      · split
        · next hc => rw [hc] at h; simpa using h
        · next hc =>
          rw [hc] at h
          split
          · simpa using h
          · simpa using h
  · split <;> simp

@[simp] theorem beginRun_slots (s : State) (ge a addr : Nat) (tg : Tag) (re : Bool) :
    (beginRun s ge a addr tg re).slots = s.slots := by
  unfold beginRun
  dsimp only
  (repeat' split) <;> simp

@[simp] theorem advance_slots (f : Nat) (s : State) (ge a : Nat) : (advance f s ge a).slots = s.slots := by
  induction f generalizing s with
  | zero => rfl
  | succ f ih =>
    unfold advance
    extract_lets
    (repeat' split) <;> simp [ih]

@[simp] theorem writeOut_slots (s : State) (ge : Nat) (tg : Tag) (bad : Bool) (o : ChainOut) :
    (writeOut s ge tg bad o).slots = s.slots := by
  cases o with
  | mem a d =>
    have h := vWrite_slots s ge tg.stamp a
      (raceBytes (eng s ge) uChain tg.stamp true a (if bad then d.map fun b => (b.1, true) else d))
    simp only [writeOut]
    split
    · next hv => rw [hv] at h; exact h
    · next hv => rw [hv] at h; exact (raiseSeq_slots _ _ _ _ _).trans h
  | cmb a i ep ty d =>
    have h := sendRow_slots s ge a (if bad then d.map fun b => (b.1, true) else d) ty ep i
    simp only [writeOut]
    split
    · next hv => rw [hv] at h; exact h
    · next hv => rw [hv] at h; exact (raiseSeq_slots _ _ _ _ _).trans h
    · next hv => rw [hv] at h; exact (raiseSeq_slots _ _ _ _ _).trans h
  | count a k v =>
    simp only [writeOut]
    split <;> simp
  | spad a d => exact modEng_slots _ _ _
  | tileEl a k v p => exact modAcc_slots _ _ _ _
  | tflag a t p i l f => exact modAcc_slots _ _ _ _

@[simp] theorem writeOuts_slots (s : State) (ge : Nat) (tg : Tag) (bad : Bool) (g h : Nat) (l : List (Nat × ChainOut)) :
    (writeOuts s ge tg bad g h l).slots = s.slots := by
  unfold writeOuts
  exact foldl_slots _ (fun _ _ => writeOut_slots _ _ _ _ _) _ _

@[simp] theorem abandonChain_slots (s : State) (ge : Nat) : (abandonChain s ge).slots = s.slots := by
  unfold abandonChain
  split
  · rfl
  · dsimp only
    split <;> simp

@[simp] theorem afterAbandon_slots (e : Engine) (s : State) (ge a : Nat) : (afterAbandon e s ge a).slots = s.slots := by
  unfold afterAbandon
  dsimp only
  split <;> simp

/-! ### The state of a slot -/

/-- A slot's state as set, whatever repair records and generations it makes due. -/
@[simp] theorem setSlot_st (s : State) (p : Nat) (v : SlotSt) : (setSlot s p v).slots.st = sset .inService s.slots.st p v := by
  unfold setSlot
  dsimp only
  (repeat' split) <;> rfl

@[simp] theorem setSlot_map (s : State) (p : Nat) (v : SlotSt) : (setSlot s p v).slots.map = s.slots.map := by
  unfold setSlot
  dsimp only
  (repeat' split) <;> rfl

/-- The states of the slots are read from the slot table alone, and so are the places of the engines. -/
theorem slotState_congr {s t : State} (h : t.slots = s.slots) (p : Nat) : slotState t p = slotState s p := by
  unfold slotState
  rw [h]

theorem slotOf_congr {s t : State} (h : t.slots = s.slots) (ge : Nat) : slotOf t ge = slotOf s ge := by
  unfold slotOf
  rw [h]

theorem slotState_holdSlot (s : State) (ge : Nat) : slotState (holdSlot s ge) (slotOf s ge) = .held := by
  unfold slotState holdSlot
  rw [setSlot_st]
  exact sget_sset_new _ _ _ _ (by decide)

end Sys2Proof.Machine
end

section
/-! The state after reset (R21, R35, R66, R92, R146, R211, R355, R406): what its units read as. -/

namespace Sys2Proof.Machine

theorem eng_reset (ge : Nat) : eng State.reset ge = {} := rfl

theorem attrKind_reset (a : Nat) : attrKind State.reset.mem a = 0 := rfl

theorem bitAt_zero (n : Nat) : bitAt 0 n = false := by
  simp [bitAt]

theorem attrRpoison_reset (a : Nat) : attrRpoison State.reset.mem a = false :=
  bitAt_zero 2

theorem granPoison_reset (a : Nat) : granPoison State.reset.mem a = false := attrRpoison_reset a

theorem slotState_reset (p : Nat) : slotState State.reset p = .inService := rfl

theorem slotOf_reset (ge : Nat) : slotOf State.reset ge = ge / 8 * 9 + ge % 8 := rfl

/-- Settles O8: every engine is a fresh one, and each table of the package is empty. -/
theorem resetLeavesTheStatedValues : Obligations.ResetLeavesTheStatedValues := by
  unfold Obligations.ResetLeavesTheStatedValues
  intro s
  refine ⟨rfl, ?slots, ?arrays, ?idle, ?memory, ⟨rfl, rfl, rfl⟩, ?rings, ?pads, ?places, ⟨rfl, rfl⟩, ⟨rfl, rfl⟩, rfl, rfl, rfl⟩
  case slots =>
    intro ge k
    rw [eng_reset]
    exact ⟨rfl, rfl⟩
  case arrays =>
    intro ge a
    rw [eng_reset]
    exact ⟨rfl, rfl, rfl, rfl, rfl, rfl, rfl, fun _ => rfl⟩
  case idle =>
    intro ge
    rw [eng_reset]
  case memory => exact fun a => ⟨attrKind_reset a, granPoison_reset a⟩
  case rings => exact fun _ => rfl
  case pads => exact fun _ => rfl
  case places => exact fun ge => ⟨slotState_reset ge, slotOf_reset ge⟩

end Sys2Proof.Machine
end

section
/-! Hardware faults of an engine (R21, R22, R87, R181 to R183, R378): the move queues, REG_ECC, and what HELD leaves. -/

namespace Sys2Proof.Machine

/-! ### The marks of a move queue -/

theorem movFaulted_iff (e : Engine) (q : Nat) :
    movFaulted e q = true ↔ sget false e.units.mqFault q = true ∨ sget false e.units.mqFault (4 + q) = true := by
  simp [movFaulted]

/-- A fault marks its queue. -/
theorem markMov_queue (e : Engine) (q : Nat) : sget false (markMov e q).units.mqFault q = true := by
  have hmark : sget false (sset false e.units.mqFault q true) q = true := sget_sset_new _ _ _ _ (by decide)
  unfold markMov
  dsimp only
  split
  · exact hmark
  · rw [sget_sset_other _ _ _ _ _ (by omega)]
    exact hmark

/-- A fault marks the entry in progress. -/
theorem markMov_entry (e : Engine) (q : Nat) (h : movq e q ≠ []) : sget false (markMov e q).units.mqFault (4 + q) = true := by
  unfold markMov
  dsimp only
  rw [if_neg (by simpa using h)]
  exact sget_sset_new _ _ _ _ (by decide)

/-! ### MOVE_UNIT -/

/-- The fault is reported and marked: code 4 with severity 3 where one stands, else code 3 with severity 2. -/
def moveFaultNoted (s : State) (ge q : Nat) : State :=
  modEng (note s 3 (if movFaulted (eng s ge) q then 4 else 3) (if movFaulted (eng s ge) q then 3 else 2) 2 ge []) ge fun x =>
    markMov x q

/-- A second fault holds the engine. -/
def heldAtSecond (s : State) (ge q : Nat) (v : State) : State := if movFaulted (eng s ge) q then holdEngine v ge else v

theorem execMoveUnitFault_of_no_cmb {s : State} {ge q : Nat} (h : ∀ ds dd c ep g r, movq (eng s ge) q ≠ .cmb ds dd c ep g :: r) :
    execMoveUnitFault ge q s = .next (heldAtSecond s ge q (moveFaultNoted s ge q)) := by
  refine congrArg (fun v => ok (heldAtSecond s ge q v)) ?_
  split
  · next hq => exact absurd hq (h _ _ _ _ _ _)
  · rfl

section
variable {s t : State} {ge q c ep : Nat} {ds dd : List W64} {g : Tag} {r : List MovOp}

theorem execMoveUnitFault_of_cmb_sent {u : State} (h : movq (eng s ge) q = .cmb ds dd c ep g :: r)
    (hrun : runCmb (moveFaultNoted s ge q) ge q g.stamp ds dd c ep true = (.ok u, t)) :
    execMoveUnitFault ge q s = .next (heldAtSecond s ge q (modEng t ge fun x => popMov x q)) := by
  refine congrArg (fun v => ok (heldAtSecond s ge q v)) ?_
  rw [h]
  unfold moveFaultNoted at hrun
  simp only [noteEngine, hrun]

theorem execMoveUnitFault_of_cmb_refused {er : Nat × Nat} (h : movq (eng s ge) q = .cmb ds dd c ep g :: r)
    (hrun : runCmb (moveFaultNoted s ge q) ge q g.stamp ds dd c ep true = (.error er, t)) :
    execMoveUnitFault ge q s
      = .next (heldAtSecond s ge q (raiseSeq (modEng t ge fun x => popMov x q) ge er.1 g er.2)) := by
  refine congrArg (fun v => ok (heldAtSecond s ge q v)) ?_
  rw [h]
  unfold moveFaultNoted at hrun
  simp only [noteEngine, hrun]
end

/-! ### UNRECOVERABLE -/

/-- A context that is marked is read back with its mark. -/
theorem ctxOf_smod_same (s : State) (c : Nat) (f : Ctx → Ctx) (h : f (ctxOf s c) ≠ {}) :
    sget {} (smod {} s.ctxs c f) c = f (ctxOf s c) :=
  sget_sset_new _ _ _ _ h

/-- A fault marks the context FAULTED and leaves the rest of it. -/
theorem ctxOf_faultCtx (s : State) (c : Nat) : ctxOf (faultCtx s c) c = { ctxOf s c with faulted := true } :=
  ctxOf_smod_same s c (fun x => { x with faulted := true }) fun h => by simpa using congrArg Ctx.faulted h

theorem ctxOf_faultCtx_faulted (s : State) (c : Nat) : (ctxOf (faultCtx s c) c).faulted = true := by
  rw [ctxOf_faultCtx]

theorem ctxOf_faultCtx_unrec (s : State) (c : Nat) : (ctxOf (faultCtx s c) c).unrec = (ctxOf s c).unrec := by
  rw [ctxOf_faultCtx]

section
variable {s : State} {ge source arr code : Nat} {pc addr : W64}

/-- A fault of an engine that has none stops the stream with its registers set. -/
theorem raise_of_unfaulted (h : (eng s ge).seq.state ≠ .faulted) :
    raise s ge source arr code pc addr = faultCtx (setEng s ge { eng s ge with seq := { (eng s ge).seq with
      state := .faulted, wait := .none, faultCode := code, faultSource := source, faultArray := arr,
      faultPc := pc, faultAddr := addr, pc := pc } }) (eng s ge).seq.context :=
  if_neg h

/-- A further fault is counted. -/
theorem raise_of_faulted (h : (eng s ge).seq.state = .faulted) : raise s ge source arr code pc addr =
    setEng s ge { eng s ge with seq := { (eng s ge).seq with moreFaults := satInc 65535 (eng s ge).seq.moreFaults } } :=
  if_pos h

theorem raise_seq_of_unfaulted (h : (eng s ge).seq.state ≠ .faulted) :
    (eng (raise s ge source arr code pc addr) ge).seq = { (eng s ge).seq with
      state := .faulted, wait := .none, faultCode := code, faultSource := source, faultArray := arr,
      faultPc := pc, faultAddr := addr, pc := pc } := by
  rw [raise_of_unfaulted h]
  exact congrArg Engine.seq (eng_setEng_new s ge _ fun he => by simpa using congrArg (fun e : Engine => e.seq.state) he)

theorem raise_ctx_faulted (h : (eng s ge).seq.state ≠ .faulted) :
    (ctxOf (raise s ge source arr code pc addr) (eng s ge).seq.context).faulted = true := by
  rw [raise_of_unfaulted h]
  exact ctxOf_faultCtx_faulted _ _

/-- A fault leaves UNRECOVERABLE as it is. -/
theorem raise_ctx_unrec :
    (ctxOf (raise s ge source arr code pc addr) (eng s ge).seq.context).unrec = (ctxOf s (eng s ge).seq.context).unrec := by
  by_cases h : (eng s ge).seq.state = .faulted
  · rw [raise_of_faulted h]
    rfl
  · rw [raise_of_unfaulted h]
    exact ctxOf_faultCtx_unrec _ _
end

/-- The state in which UNRECOVERABLE is raised: the context is marked. -/
def unrecMarked (s : State) (ge : Nat) : State :=
  { s with ctxs := smod {} s.ctxs (eng s ge).seq.context fun x => { x with unrec := true } }

theorem raiseUnrec_eq (s : State) (ge : Nat) (t : Tag) :
    raiseUnrec s ge t = raise (unrecMarked s ge) ge 0 0 0x2F t.pc 0 := rfl

theorem ctxOf_unrecMarked (s : State) (ge : Nat) : (ctxOf (unrecMarked s ge) (eng s ge).seq.context).unrec = true := by
  unfold ctxOf unrecMarked
  rw [ctxOf_smod_same s _ _ (fun h => by simpa using congrArg Ctx.unrec h)]

/-! ### HELD -/

theorem holdEngine_of_held {s : State} {ge : Nat} (h : slotState s (slotOf s ge) = .held) : holdEngine s ge = s :=
  if_pos (by simp [h])

/-- The work that HELD abandons leaves the slot table alone until the slot itself is held. -/
theorem slotState_holdEngine (s : State) (ge : Nat) : slotState (holdEngine s ge) (slotOf s ge) = .held := by
  by_cases h : slotState s (slotOf s ge) = .held
  · rw [holdEngine_of_held h, h]
  · let s1 := abandonChain (modEng s ge fun e => (List.range 4).foldl abandonArr e) ge
    let t := (List.range 4).foldl (fun t a => afterAbandon (eng s ge) t ge a) s1
    have heq : holdEngine s ge = holdSlot t ge := if_neg (by simpa using h)
    have hslots : t.slots = s.slots :=
      (foldl_slots _ (fun u a => afterAbandon_slots (eng s ge) u ge a) _ s1).trans (abandonChain_slots _ _)
    rw [heq, ← slotOf_congr hslots]
    exact slotState_holdSlot t ge

/-- Reading a bank's set again touches the load path only. -/
theorem reloadBank_eq (e : Engine) (a : Nat) (x : Arr) : reloadBank e a x =
    { x with loads := (reloadBank e a x).loads, lastBank := (reloadBank e a x).lastBank, lastSrc := (reloadBank e a x).lastSrc } := by
  unfold reloadBank
  (repeat' split) <;> rfl

/-- The run of abandoned passes is taken from its front again, or ends. -/
theorem abandonRun_eq (x : Arr) (tiles : List Nat) :
    abandonRun x tiles = { x with run := (abandonRun x tiles).run, queue := (abandonRun x tiles).queue } := by
  unfold abandonRun
  (repeat' split) <;> rfl

/-- An array whose passes are abandoned, before a bank's set is read again. -/
def emptiedArr (x : Arr) : Arr :=
  abandonRun { dropBanks x with rows := [], drain := [], fed := [], pass := none, credits := 64,
                                held := x.held.filter fun y => !(abandonedTiles x).contains y.1 } (abandonedTiles x)

theorem arrOf_abandonArr {e : Engine} {a : Nat} (h : swf {} e.arrays = true) :
    arrOf (abandonArr e a) a
      = reloadBank (setAcc e a (abandonAcc (accOf e a) (abandonedTiles (arrOf e a)))) a (emptiedArr (arrOf e a)) :=
  arrOf_setArr_same h

/-! ### The statement -/

/-- Settles O20: the fault of a move queue by its front entry, REG_ECC, and what HELD discards. -/
theorem hardwareFaultsOfTheEngine : Obligations.HardwareFaultsOfTheEngine := by
  refine ⟨?_, ?_⟩
  · intro s ge q ds dd c ep g r er u t e second s1 done
    refine ⟨execMoveUnitFault_of_no_cmb, ?_, movFaulted_iff e q, fun x => ⟨markMov_queue x q, markMov_entry x q, rfl⟩⟩
    intro h
    exact ⟨execMoveUnitFault_of_cmb_sent h, execMoveUnitFault_of_cmb_refused h⟩
  · intro s u ge t
    refine ⟨rfl, ?_, slotState_holdEngine s ge, holdEngine_of_held, ?_⟩
    · intro e v
      have hv : v = raise (unrecMarked u ge) ge 0 0 0x2F t.pc 0 := raiseUnrec_eq u ge t
      rw [hv]
      exact ⟨fun h => ⟨raise_seq_of_unfaulted (s := unrecMarked u ge) h, raise_ctx_faulted (s := unrecMarked u ge) h⟩,
        (raise_ctx_unrec (s := unrecMarked u ge)).trans (ctxOf_unrecMarked u ge)⟩
    · intro e a h x
      have hx : x = _ := arrOf_abandonArr h
      rw [hx, reloadBank_eq, emptiedArr, abandonRun_eq]
      exact ⟨rfl, rfl, rfl⟩

end Sys2Proof.Machine
end

section
/-! Move entries and format slot loads (R36 to R38, R162, R171, R174, R175, R217, R225, R226): what finishes whole, and what is
refused. -/

namespace Sys2Proof.Machine

/-! ### Rows in the scratchpad -/

/-- Rows in the scratchpad are read without an access to memory. -/
theorem readRows_spad (s : State) (ge u stamp : Nat) (l : List (Nat × Nat)) : readRows s ge u stamp 0 l =
    (.ok (l.map fun r => raceBytes (eng s ge) u stamp false r.1 (spadRead (eng s ge) r.1 r.2)), s) := by
  induction l with
  | nil => rfl
  | cons r l ih =>
    unfold readRows
    rw [if_pos rfl, ih]
    rfl

theorem checkRows_spad (s : State) (ge : Nat) (l : List (Nat × Nat)) : checkRows s ge 0 l = (none, s) := by
  induction l with
  | nil => rfl
  | cons r l ih => exact ih

/-! ### Copies and fills -/

section
variable {s : State} {ge u stamp : Nat} {ds dd : List W64} {v : W64}

theorem runCopy_of_bad (h : copyBad ds dd = true) : runCopy s ge u stamp ds dd = (.error (0x23, 0), s) :=
  if_pos h

/-- A copy within the scratchpad whose rows lie in the binding writes each destination row with its source row. -/
theorem runCopy_of_spad (h : copyBad ds dd = false) (hsrc : dSpace ds = 0) (hdst : dSpace dd = 0)
    (hin : rowsInSpad (eng s ge) (dRows ds) = none) (hout : rowsInSpad (eng s ge) (dRows dd) = none) :
    runCopy s ge u stamp ds dd =
      (let w := writeRows s ge u stamp 0 (((dRows dd).map Prod.fst).zip
        ((dRows ds).map fun r => raceBytes (eng s ge) u stamp false r.1 (spadRead (eng s ge) r.1 r.2)))
       (.ok w, w)) := by
  simp [runCopy, h, hsrc, hdst, hin, hout, readRows_spad, checkRows_spad]

theorem runFill_of_bad (h : fillBad dd = true) : runFill s ge u stamp dd v = (.error (0x23, 0), s) :=
  if_pos h

theorem runFill_of_spad (h : fillBad dd = false) (hdst : dSpace dd = 0) (hout : rowsInSpad (eng s ge) (dRows dd) = none) :
    runFill s ge u stamp dd v =
      (let w := writeRows s ge u stamp 0 ((dRows dd).map fun r => (r.1, fillBytes v r.2))
       (.ok w, w)) := by
  simp [runFill, h, hdst, hout, checkRows_spad]
end

/-- What a copy's descriptors break (R174). -/
theorem copyBad_of_refused {ds dd : List W64} (h : dReserved ds = true ∨ dReserved dd = true ∨ dExt0 ds ≠ dExt0 dd
    ∨ dExt1 ds ≠ dExt1 dd ∨ dSpace ds = dSpace dd ∧ rowsMeet (dRows ds) (dRows dd) = true) : copyBad ds dd = true := by
  unfold copyBad
  obtain h | h | h | h | ⟨hsp, hmeet⟩ := h
  · simp [h]
  · simp [h]
  · simp [h]
  · simp [h]
  · simp [hsp, hmeet]

theorem fillBad_of_partial {dd : List W64} (h : dExt0 dd % 8 ≠ 0) : fillBad dd = true := by
  simp [fillBad, h]

/-! ### The front entry of a move queue -/

/-- The front entry leaves its queue. -/
def frontFreed (ge q : Nat) (t : State) : State := modEng t ge fun x => popMov x q

/-- The front entry has finished: it leaves the queue, and what it wrote is noted as ended. -/
def frontEnded (ge q : Nat) (m : MovOp) (t : State) : State := modEng t ge fun x => land (popMov x q) t.stamp (movSpans q m)

section
variable {s t : State} {ge q : Nat} {m : MovOp} {rest : List MovOp}

theorem execMovTransferComplete_of_empty (h : movq (eng s ge) q = []) : execMovTransferComplete ge q s = .next s := by
  simp [execMovTransferComplete, h, ok]

theorem execMovTransferComplete_of_waiting (h : movq (eng s ge) q = m :: rest)
    (hwait : slotStopped s ge = true ∨ movHeld s ge m = true) : execMovTransferComplete ge q s = .next s := by
  have hstays : (slotStopped s ge || movHeld s ge m) = true := by simpa using hwait
  simp [execMovTransferComplete, h, hstays, ok]

/-- An entry whose slot runs and that nothing holds. -/
def MovRuns (s : State) (ge : Nat) (m : MovOp) : Prop := slotStopped s ge = false ∧ movHeld s ge m = false

theorem execMovTransferComplete_of_runs (h : movq (eng s ge) q = m :: rest) (hruns : MovRuns s ge m) :
    execMovTransferComplete ge q s = .next (match runMov s ge q m with
      | (.ok _, t) => frontEnded ge q m t
      | (.error c, t) => raiseSeq (frontFreed ge q t) ge c.1 (movTag m) c.2) := by
  obtain ⟨hslot, hheld⟩ := hruns
  simp only [execMovTransferComplete, h, hslot, hheld, Bool.or_self, Bool.false_eq_true, if_false, ok]
  rfl

theorem execMovTransferComplete_of_done {u : State} (h : movq (eng s ge) q = m :: rest) (hruns : MovRuns s ge m)
    (hrun : runMov s ge q m = (.ok u, t)) : execMovTransferComplete ge q s = .next (frontEnded ge q m t) := by
  rw [execMovTransferComplete_of_runs h hruns, hrun]

theorem execMovTransferComplete_of_refused {c : Nat × Nat} (h : movq (eng s ge) q = m :: rest) (hruns : MovRuns s ge m)
    (hrun : runMov s ge q m = (.error c, t)) :
    execMovTransferComplete ge q s = .next (raiseSeq (frontFreed ge q t) ge c.1 (movTag m) c.2) := by
  rw [execMovTransferComplete_of_runs h hruns, hrun]
end

/-! ### Format slot loads -/

/-- The oldest load is taken. -/
def loadTaken (s : State) (ge : Nat) (r : List (Nat × List W64 × Tag)) : State :=
  setEng s ge { eng s ge with units := { (eng s ge).units with fmtLoads := r } }

/-- Each array goes on with its queue. -/
def arraysGoOn (ge : Nat) (t : State) : State := [0, 1, 2, 3].foldl (fun x a => advance 5 x ge a) t

section
variable {s t : State} {ge slot : Nat} {d : List W64} {g : Tag} {r : List (Nat × List W64 × Tag)}

theorem execFormatSlotLoad_of_none (h : (eng s ge).units.fmtLoads = []) : execFormatSlotLoad ge s = .next s := by
  simp [execFormatSlotLoad, h, ok]

theorem execFormatSlotLoad_of_waiting (h : (eng s ge).units.fmtLoads = (slot, d, g) :: r)
    (hwait : slotStopped s ge = true ∨ slotBusy (eng s ge) slot g.stamp = true) : execFormatSlotLoad ge s = .next s := by
  have hstays : (slotStopped s ge || slotBusy (eng s ge) slot g.stamp) = true := by simpa using hwait
  simp [execFormatSlotLoad, h, hstays, ok]

/-- What the oldest load does where nothing holds it. -/
theorem execFormatSlotLoad_of_runs (h : (eng s ge).units.fmtLoads = (slot, d, g) :: r) (hslot : slotStopped s ge = false)
    (hbusy : slotBusy (eng s ge) slot g.stamp = false) :
    execFormatSlotLoad ge s = .next (
      if dReserved d = true ∨ dSpace d ≠ 1 then arraysGoOn ge (raiseSeq (loadTaken s ge r) ge 0x23 g 0) else
      match vRead (loadTaken s ge r) ge (dBase d) 576 with
      | (.error c, t) => arraysGoOn ge (raiseSeq t ge c.1 g c.2)
      | (.ok img, t) =>
        let b := (raceBytes (eng s ge) uFmt g.stamp true (dBase d) img).map Prod.fst
        if img.any Prod.snd || fmtImageBad slot b then arraysGoOn ge (raiseSeq t ge 0x27 g (dBase d))
        else arraysGoOn ge (modEng t ge fun x => { x with fmt := sset {} x.fmt slot (fmtOfImage b) })) := by
  simp only [execFormatSlotLoad, h, hslot, hbusy, Bool.or_self, Bool.false_eq_true, if_false, ok]
  rfl

section
variable (h : (eng s ge).units.fmtLoads = (slot, d, g) :: r) (hslot : slotStopped s ge = false)
  (hbusy : slotBusy (eng s ge) slot g.stamp = false)
include h hslot hbusy

theorem execFormatSlotLoad_of_bad_descriptor (hbad : dReserved d = true ∨ dSpace d ≠ 1) :
    execFormatSlotLoad ge s = .next (arraysGoOn ge (raiseSeq (loadTaken s ge r) ge 0x23 g 0)) := by
  rw [execFormatSlotLoad_of_runs h hslot hbusy, if_pos hbad]

/-- An image that is read replaces the slot, or is refused where it has poison or breaks R37. -/
theorem execFormatSlotLoad_of_image {img : List PByte} (hres : dReserved d = false) (hsp : dSpace d = 1)
    (hread : vRead (loadTaken s ge r) ge (dBase d) 576 = (.ok img, t)) :
    execFormatSlotLoad ge s = .next (
      let b := (raceBytes (eng s ge) uFmt g.stamp true (dBase d) img).map Prod.fst
      if img.any Prod.snd || fmtImageBad slot b then arraysGoOn ge (raiseSeq t ge 0x27 g (dBase d))
      else arraysGoOn ge (modEng t ge fun x => { x with fmt := sset {} x.fmt slot (fmtOfImage b) })) := by
  rw [execFormatSlotLoad_of_runs h hslot hbusy, if_neg (by simp [hres, hsp]), hread]

theorem execFormatSlotLoad_of_failed_read {c : Nat × Nat} (hres : dReserved d = false) (hsp : dSpace d = 1)
    (hread : vRead (loadTaken s ge r) ge (dBase d) 576 = (.error c, t)) :
    execFormatSlotLoad ge s = .next (arraysGoOn ge (raiseSeq t ge c.1 g c.2)) := by
  rw [execFormatSlotLoad_of_runs h hslot hbusy, if_neg (by simp [hres, hsp]), hread]
end
end

/-! ### The statement -/

/-- Settles O19: the front entry of a move queue and the oldest format slot load, each by what holds it, what its descriptors
are and what its accesses answer. -/
theorem movesAndSlotLoadsFinishWhole : Obligations.MovesAndSlotLoadsFinishWhole := by
  refine ⟨?_, ?_⟩
  · intro s ge q m rest ds dd v g e frees ends runs refuses
    refine ⟨execMovTransferComplete_of_empty, execMovTransferComplete_of_waiting,
      fun u t => execMovTransferComplete_of_done, fun c t => execMovTransferComplete_of_refused, ?copies, ?fills⟩
    case copies =>
      rintro hq rfl hruns
      refine ⟨?_, fun hbad => execMovTransferComplete_of_refused hq hruns (runCopy_of_bad (copyBad_of_refused hbad))⟩
      intro hres hsrc hdst h0 h1 he0 he1 hmeet hin hout
      have hgood : copyBad ds dd = false := by
        simp [copyBad, hres, hsrc, hdst, h0, h1, ← he0, ← he1, hmeet]
      exact execMovTransferComplete_of_done hq hruns (runCopy_of_spad hgood hsrc hdst hin hout)
    case fills =>
      rintro hq rfl hruns
      refine ⟨?_, fun hpart => execMovTransferComplete_of_refused hq hruns (runFill_of_bad (fillBad_of_partial hpart))⟩
      intro hres hdst h0 h1 h8 hout
      have hgood : fillBad dd = false := by simp [fillBad, hres, hdst, h0, h1, h8]
      exact execMovTransferComplete_of_done hq hruns (runFill_of_spad hgood hdst hout)
  · intro s t ge slot d g r img c e s1 go
    refine ⟨execFormatSlotLoad_of_none, fun h => ⟨execFormatSlotLoad_of_waiting h, fun hslot hbusy => ?_⟩⟩
    refine ⟨execFormatSlotLoad_of_bad_descriptor h hslot hbusy, fun hres hsp => ⟨fun hread => ?_, ?_⟩⟩
    · have himage := execFormatSlotLoad_of_image h hslot hbusy hres hsp hread
      exact ⟨fun hgood => himage.trans (congrArg _ (if_neg (Bool.eq_false_iff.mp hgood))),
        fun hbad => himage.trans (congrArg _ (if_pos hbad))⟩
    · exact execFormatSlotLoad_of_failed_read h hslot hbusy hres hsp

end Sys2Proof.Machine
end

section
/-! An array's hardware fault and timeout, and the full-save stop and its resumption (R22, R66, R86 to R88, R131, R155, R157,
R186). -/

namespace Sys2Proof.Machine

/-! ### Abandoned passes -/

/-- The grid is empty, no pass is open or fed, the credits are full and the banks invalid. -/
theorem arrOf_abandonArr_emptied {e : Engine} {a : Nat} (h : swf {} e.arrays = true) :
    let x := arrOf e a
    let y := arrOf (abandonArr e a) a
    y.rows = [] ∧ y.drain = [] ∧ y.fed = [] ∧ y.pass = none ∧ y.credits = 64 ∧ y.bank0 = none ∧ y.bank1 = none
      ∧ y.held = x.held.filter fun z => !(abandonedTiles x).contains z.1 := by
  intro x y
  have hy : y = _ := arrOf_abandonArr h
  rw [hy, reloadBank_eq, emptiedArr, abandonRun_eq]
  exact ⟨rfl, rfl, rfl, rfl, rfl, rfl, rfl, rfl⟩

/-- With no operation to take again, the array goes on with its queue. -/
theorem afterAbandon_of_no_records {e : Engine} {s : State} {ge a : Nat}
    (h : redoRecords (accOf e a) (abandonedTiles (arrOf e a)) = []) : afterAbandon e s ge a = advance 5 s ge a :=
  congrArg (advance 5 · ge a) (if_pos (by simp [h]))

theorem afterAbandon_of_records {e : Engine} {s : State} {ge a : Nat}
    (h : redoRecords (accOf e a) (abandonedTiles (arrOf e a)) ≠ []) :
    afterAbandon e s ge a = advance 5 (note s 3 5 1 2 ge [BitVec.ofNat 64 a]) ge a :=
  congrArg (advance 5 · ge a) (if_neg (by simpa using h))

theorem execHandshakeTimeout_of_array {ge a : Nat} {s : State} (h : a < 4) :
    execHandshakeTimeout ge a s = execArrayHwFault ge a 3 s :=
  congrArg ok (if_pos h)

theorem execHandshakeTimeout_of_chain {ge a : Nat} {s : State} (h : 4 ≤ a) :
    execHandshakeTimeout ge a s = execChainHwFault ge 3 s :=
  congrArg ok (if_neg (Nat.not_lt.mpr h))

/-! ### The resumption of a full save -/

section
variable {s : State} {ge a : Nat}

theorem execFullSaveResume_of_stopped (hstop : (arrOf (eng s ge) a).stop = .stopped)
    (hstate : (eng s ge).seq.state = .running ∨ (eng s ge).seq.state = .waiting ∨ (eng s ge).seq.state = .yielding) :
    execFullSaveResume ge a s
      = .next (setEng s ge (setArr (eng s ge) a { reloadBank (eng s ge) a (arrOf (eng s ge) a) with stop := .free })) :=
  congrArg ok (if_pos ⟨hstop, hstate⟩)

theorem execFullSaveResume_of_other (hstop : (arrOf (eng s ge) a).stop ≠ .stopped) : execFullSaveResume ge a s = .next s :=
  congrArg ok (if_neg fun h => hstop h.1)
end

/-- The set of a suspended pass is read again into the pass's bank. -/
theorem reloadBank_of_pass {e : Engine} {a : Nat} {x : Arr} {p : Pass} (h : x.pass = some p) :
    reloadBank e a x = loadAgain (view e (uArr a) p.stamp) x p.bank p.words p.kpass p.sub := by
  simp only [reloadBank, h]

/-! ### The stop of a full save -/

/-- A context that is on its gang and stopping under full save. -/
structure StopsWhole (x : Ctx) : Prop where
  admitted : x.admitted = true
  onGang : x.onGang = true
  fullSave : x.sched.fullSave = true
  stopping : x.st = .stopping

theorem execFullSaveStop_of_partial {s : State} {ctx : Nat} (waves : Nat) (h : (ctxOf s ctx).sched.fullSave = false) :
    execFullSaveStop ctx waves s = .next s :=
  congrArg ok (if_pos (by simp [h]))

/-- The gang's engines count the waves up to the stop and stop. -/
def gangStops (s : State) (ctx waves : Nat) : State :=
  (gang (ctxOf s ctx)).foldl (fun t h => modEng t h fun z => if holds z ctx then stopEngine (addWaves z waves) ctx else z) s

theorem execFullSaveStop_of_whole {s : State} {ctx waves : Nat} (h : StopsWhole (ctxOf s ctx)) :
    execFullSaveStop ctx waves s = .next (modCtx (modPad (leaveGang (gangStops s ctx waves) ctx) (ctxOf s ctx).paddock fun p =>
      { p with fullSaves := p.fullSaves + 1 }) ctx fun z => { z with swap := .out }) :=
  congrArg ok (if_neg (by simp [h.admitted, h.onGang, h.fullSave, h.stopping]))

/-- The sequencer and the chain of an engine. -/
def seqChain (e : Engine) : Seq × Chain := (e.seq, e.chain)

/-- Finished tiles taken back from the queue leave the sequencer and the chain alone. -/
theorem holdFinished_seqChain (e : Engine) (ctx : Nat) : seqChain (holdFinished e ctx) = seqChain e := by
  unfold holdFinished
  refine foldl_keeps seqChain _ (fun t q => ?_) _ e
  (repeat' split) <;> rfl

theorem stopArrays_seqChain (e : Engine) : seqChain ((List.range 4).foldl stopArray e) = seqChain e :=
  foldl_keeps seqChain stopArray (fun _ _ => rfl) _ e

/-- An engine whose arrays have stopped, with its finished tiles back at the arrays. -/
theorem stoppedUnits_seqChain (e : Engine) (ctx : Nat) :
    seqChain (holdFinished ((List.range 4).foldl stopArray e) ctx) = seqChain e :=
  (holdFinished_seqChain _ _).trans (stopArrays_seqChain e)

/-- A stopped engine keeps its sequencer but for the state, and its chain but for the mark. -/
theorem stopEngine_eq (e : Engine) (ctx : Nat) : ∃ u : Engine, seqChain u = seqChain e ∧ stopEngine e ctx =
    (if u.seq.state = .idle ∨ u.seq.state = .faulted then modChain u fun c => { c with stopped := true } else
      { modChain u fun c => { c with stopped := true } with seq := { u.seq with state := .saved, preemptReq := false } }) := by
  have hkeep := stoppedUnits_seqChain e ctx
  unfold stopEngine
  generalize holdFinished ((List.range 4).foldl stopArray e) ctx = u at hkeep ⊢
  exact ⟨u, hkeep, rfl⟩

theorem stopEngine_chain (e : Engine) (ctx : Nat) : (stopEngine e ctx).chain = { e.chain with stopped := true } := by
  obtain ⟨u, hkeep, hstop⟩ := stopEngine_eq e ctx
  obtain ⟨-, hchain⟩ := Prod.mk.inj hkeep
  rw [hstop, ← hchain]
  split <;> rfl

theorem stopEngine_seq {e : Engine} (ctx : Nat) (hidle : e.seq.state ≠ .idle) (hfault : e.seq.state ≠ .faulted) :
    (stopEngine e ctx).seq = { e.seq with state := .saved, preemptReq := false } := by
  obtain ⟨u, hkeep, hstop⟩ := stopEngine_eq e ctx
  obtain ⟨hseq, -⟩ := Prod.mk.inj hkeep
  rw [← hseq] at hidle hfault
  rw [hstop, if_neg (not_or.mpr ⟨hidle, hfault⟩), hseq]

/-! ### The statement -/

/-- Settles O24: what a fault reports and abandons, the two timeouts, and the full save's stop and resumption. -/
theorem arrayFaultsAndStops : Obligations.ArrayFaultsAndStops := by
  intro s ge a code ctx waves p e x c tiles fault free
  refine ⟨rfl, arrOf_abandonArr_emptied, rfl, rfl, afterAbandon_of_no_records, afterAbandon_of_records,
    execHandshakeTimeout_of_array, execHandshakeTimeout_of_chain, execFullSaveResume_of_stopped, reloadBank_of_pass,
    execFullSaveResume_of_other, ⟨execFullSaveStop_of_partial waves, ?_⟩, stopEngine_chain e ctx, stopEngine_seq ctx⟩
  intro hadm hgang hfull hstop
  exact execFullSaveStop_of_whole ⟨hadm, hgang, hfull, hstop⟩

end Sys2Proof.Machine
end

section
/-! The passes of an array (R59, R61, R64, R65, R68, R69, R75, R79, R92, R102, R128): shadow loads and bank writes, pass starts,
waves and finished tiles. -/

namespace Sys2Proof.Machine

/-- The slot is in service and its die is not reined. -/
structure Calm (s : State) (ge : Nat) : Prop where
  inService : slotState s (slotOf s ge) = .inService
  unreined : sget 0 s.rein (dieOfGe ge) = 0

/-- A calm engine issues in every wave. -/
theorem issueHeld_of_calm {s : State} {ge : Nat} (h : Calm s ge) : issueHeld s ge = (false, s) := by
  have hon : heldOff s ge = false := by simp [heldOff, h.inService, h.unreined]
  simp [issueHeld, hon, h.unreined]

/-- A change of an array depends on what it makes of the array as it stands. -/
theorem modArr_congr {s : State} {ge a : Nat} {f g : Arr → Arr} (h : f (arrOf (eng s ge) a) = g (arrOf (eng s ge) a)) :
    modArr s ge a f = modArr s ge a g :=
  congrArg (fun x => setEng s ge (setArr (eng s ge) a x)) h

/-! ### Shadow loads (R64) -/

/-- The load path is ready for the next set: every set in it has arrived and is good, and the buffer of the next bank is empty. -/
def PathReady (x : Arr) : Prop := ∀ w ∈ x.loads, w.arrived = 32 ∧ w.bad = false ∧ (w.bank = loadBank x → w.written = 32)

/-- No set of a ready path keeps the next one waiting. -/
theorem pathReady_any {x : Arr} (h : PathReady x) : x.loads.any (fun l =>
    decide (l.arrived < 32) || l.bad || (l.bank == loadBank x && decide (l.written < 32))) = false := by
  rw [List.any_eq_false]
  intro w hw
  obtain ⟨harr, hbad, hwritten⟩ := h w hw
  by_cases hbank : w.bank = loadBank x
  · simp [harr, hbad, hwritten hbank]
  · simp [harr, hbad, hbank]

/-- The load of a weight set into the buffer of the bank it is bound for. -/
def freshLoad (v : Engine) (x : Arr) (n : RunState) : Load :=
  { bank := loadBank x, set := weightSet v n.words n.kpass n.sub,
    bad := metaFault (weightSet v n.words n.kpass n.sub) (rMode n.words) }

section
variable {s : State} {ge a : Nat}

theorem execShadowLoadRead_of_next {r n : RunState} (hcalm : Calm s ge) (hrun : (arrOf (eng s ge) a).run = some r)
    (hfree : (arrOf (eng s ge) a).stop = .free) (hready : PathReady (arrOf (eng s ge) a))
    (hpos : loadPos (view (eng s ge) (uArr a) r.tag.stamp) (3 * rPasses r.words + 1) (waitingLoads (arrOf (eng s ge) a)).length r
      = some n)
    (hformat : weightFormatOk (view (eng s ge) (uArr a) r.tag.stamp) n.words = true)
    (hfault : weightFault (view (eng s ge) (uArr a) r.tag.stamp) n = none) :
    execShadowLoadRead ge a s = .next (modArr s ge a fun y => { y with
      loads := y.loads ++ [freshLoad (view (eng s ge) (uArr a) r.tag.stamp) (arrOf (eng s ge) a) n] }) := by
  unfold execShadowLoadRead
  rw [issueHeld_of_calm hcalm]
  simp only [hrun, hfree, pathReady_any hready, hpos, hformat, hfault]
  rfl

theorem execShadowLoadRead_of_no_run (hcalm : Calm s ge) (hrun : (arrOf (eng s ge) a).run = none) :
    execShadowLoadRead ge a s = .next s := by
  unfold execShadowLoadRead
  rw [issueHeld_of_calm hcalm]
  simp only [hrun, ok]
end

section
variable {x : Arr} {l : Load}

/-- The path brings one grid row into the buffer. -/
theorem loadWave_of_arriving (h : x.loads = [l]) (harr : l.arrived < 31) (hwritten : l.written = 0) :
    loadWave x = { x with loads := [{ l with arrived := l.arrived + 1 }] } := by
  have hlt : l.arrived < 32 := by omega
  have hne : l.arrived ≠ 31 := by omega
  simp [loadWave, h, arriveWave, writeWave, writesNow, hlt, hne, hwritten]

/-- The path writes one grid row of a set whose write has begun into its bank. -/
theorem loadWave_of_writing (h : x.loads = [l]) (harr : l.arrived = 32) (hwriting : l.writing = true) (hwritten : l.written < 31) :
    loadWave x = { setBank x l.bank (some (putGridRow (bankOf x l.bank) l.set l.written)) with
      loads := [{ l with written := l.written + 1 }] } := by
  have hlt : l.written < 32 := by omega
  have hne : l.written ≠ 31 := by omega
  simp [loadWave, h, arriveWave, writeWave, writesNow, harr, hwriting, hlt, hne]
end

/-! ### Bank writes (R64) -/

theorem bankWriteReady_iff (x : Arr) (pre : List Load) (l : Load) : bankWriteReady x pre l = true ↔
    l.writing = false ∧ l.bad = false ∧ 31 ≤ l.arrived ∧ (∀ w ∈ pre, w.bank ≠ l.bank) ∧ (∀ o, x.pass = some o → o.bank ≠ l.bank)
      ∧ ∀ w ∈ x.rows, w.kind = .valid → w.bank = l.bank → 32 ≤ w.age := by
  have hrow (w : RowSlot) : (w.kind != .valid || w.bank != l.bank || decide (32 ≤ w.age)) = true
      ↔ (w.kind = .valid → w.bank = l.bank → 32 ≤ w.age) := by
    simp only [Bool.or_eq_true, bne_iff_ne, decide_eq_true_eq]
    constructor
    · rintro ((hkind | hbank) | hage) hvalid hsame
      · exact absurd hvalid hkind
      · exact absurd hsame hbank
      · exact hage
    · intro hold
      by_cases hvalid : w.kind = .valid
      · by_cases hsame : w.bank = l.bank
        · exact .inr (hold hvalid hsame)
        · exact .inl (.inr hsame)
      · exact .inl (.inl hvalid)
  cases hpass : x.pass with
  | none => simp [bankWriteReady, hpass, hrow, and_assoc]
  | some o => simp [bankWriteReady, hpass, hrow, and_assoc]

/-- A set whose write has begun is passed over. -/
theorem bankWriteReady_of_writing {x : Arr} {pre : List Load} {l : Load} (h : l.writing = true) :
    bankWriteReady x pre l = false := by
  simp [bankWriteReady, h]

/-- The write of the oldest set that is ready begins. -/
theorem beginWrite_of_first {x : Arr} {before pre post : List Load} {l : Load} (hpre : ∀ w ∈ pre, w.writing = true)
    (hready : bankWriteReady x (before ++ pre) l = true) :
    beginWrite x before (pre ++ l :: post) = pre ++ { l with writing := true } :: post := by
  induction pre generalizing before with
  | nil =>
    rw [List.append_nil] at hready
    exact if_pos hready
  | cons w pre ih =>
    have hw : bankWriteReady x before w = false := bankWriteReady_of_writing (hpre w List.mem_cons_self)
    have hrest := ih (before := before ++ [w]) (fun u hu => hpre u (List.mem_cons_of_mem _ hu)) (by simpa using hready)
    rw [List.cons_append, beginWrite, if_neg (Bool.eq_false_iff.mp hw), hrest]
    rfl

theorem execShadowLoadBankWrite_of_ready {s : State} {ge a : Nat} {pre post : List Load} {l : Load}
    (h : (arrOf (eng s ge) a).loads = pre ++ l :: post) (hpre : ∀ w ∈ pre, w.writing = true)
    (hready : bankWriteReady (arrOf (eng s ge) a) pre l = true) :
    execShadowLoadBankWrite ge a s
      = .next (modArr s ge a fun y => { y with loads := pre ++ { l with writing := true } :: post }) := by
  refine congrArg ok (modArr_congr ?_)
  rw [h, beginWrite_of_first (before := []) hpre hready]

/-! ### Pass starts (R61, R65, R68, R75) -/

/-- The array and its accumulator store are written back, and the array goes on with its queue. -/
def putArray (s : State) (ge a : Nat) (z : Arr × Acc) : State :=
  advance 5 (setEng s ge (setAcc (setArr (eng s ge) a z.1) a z.2)) ge a

/-- The run ends with what it raises, and the array goes on with its queue. -/
def runEnds (s : State) (ge a : Nat) (f : State → State) : State :=
  advance 5 (f (modArr s ge a fun y => { dropLoads y with run := none })) ge a

/-- The array has a run and no open pass. -/
structure BetweenPasses (s : State) (ge a : Nat) (r : RunState) : Prop where
  calm : Calm s ge
  run : (arrOf (eng s ge) a).run = some r
  noPass : (arrOf (eng s ge) a).pass = none

section
variable {s : State} {ge a : Nat} {r : RunState}

theorem execPassStart_of_held (h : BetweenPasses s ge a r) (hheld : scoreHeld (eng s ge) a r = true) :
    execPassStart ge a s = .next s := by
  unfold execPassStart
  rw [issueHeld_of_calm h.calm]
  simp only [h.run, h.noPass, hheld, Bool.or_true, if_true, ok]

/-- What the next pass of a run does where nothing holds it. -/
theorem execPassStart_of_next (h : BetweenPasses s ge a r) (hfree : (arrOf (eng s ge) a).stop = .free)
    (hscore : scoreHeld (eng s ge) a r = false) : execPassStart ge a s = .next (
      let x := arrOf (eng s ge) a
      let c := accOf (eng s ge) a
      let v := view (eng s ge) (uArr a) r.tag.stamp
      match (if r.fresh then openRefusal x c r.words else none), passRefusal v x c r, passFault v r with
      | some code, _, _ => runEnds s ge a fun t => raiseSeq t ge code r.tag r.addr
      | none, some code, _ => runEnds s ge a fun t => raiseArr t ge a code r.tag
      | none, none, some addr => runEnds s ge a fun t => raiseSeq t ge cSPAD r.tag addr
      | none, none, none => if loadWaits v x r then s else putArray s ge a (beginPass v x c r (bitmapBit v r == some false))) := by
  unfold execPassStart
  rw [issueHeld_of_calm h.calm]
  simp only [h.run, h.noPass, hfree, hscore]
  rfl

/-- A run that is not fresh, or whose opening is not refused, is not refused at its opening. -/
theorem opening_of_unrefused {x : Arr} {c : Acc} (h : r.fresh = false ∨ openRefusal x c r.words = none) :
    (if r.fresh then openRefusal x c r.words else none) = none := by
  obtain h | h := h
  · simp [h]
  · simp [h]

section
variable {code addr : Nat} (h : BetweenPasses s ge a r) (hfree : (arrOf (eng s ge) a).stop = .free)
  (hscore : scoreHeld (eng s ge) a r = false)
include h hfree hscore

theorem execPassStart_of_opening_refused (hfresh : r.fresh = true)
    (hopen : openRefusal (arrOf (eng s ge) a) (accOf (eng s ge) a) r.words = some code) :
    execPassStart ge a s = .next (runEnds s ge a fun t => raiseSeq t ge code r.tag r.addr) := by
  rw [execPassStart_of_next h hfree hscore]
  simp only [hfresh, if_true, hopen]

variable (hopen : r.fresh = false ∨ openRefusal (arrOf (eng s ge) a) (accOf (eng s ge) a) r.words = none)
include hopen

theorem execPassStart_of_refused (href : passRefusal (view (eng s ge) (uArr a) r.tag.stamp) (arrOf (eng s ge) a)
    (accOf (eng s ge) a) r = some code) :
    execPassStart ge a s = .next (runEnds s ge a fun t => raiseArr t ge a code r.tag) := by
  rw [execPassStart_of_next h hfree hscore]
  simp only [opening_of_unrefused hopen, href]

variable (href : passRefusal (view (eng s ge) (uArr a) r.tag.stamp) (arrOf (eng s ge) a) (accOf (eng s ge) a) r = none)
include href

theorem execPassStart_of_fault (hfault : passFault (view (eng s ge) (uArr a) r.tag.stamp) r = some addr) :
    execPassStart ge a s = .next (runEnds s ge a fun t => raiseSeq t ge cSPAD r.tag addr) := by
  rw [execPassStart_of_next h hfree hscore]
  simp only [opening_of_unrefused hopen, href, hfault]

variable (hfault : passFault (view (eng s ge) (uArr a) r.tag.stamp) r = none)
include hfault

theorem execPassStart_of_waiting (hwait : loadWaits (view (eng s ge) (uArr a) r.tag.stamp) (arrOf (eng s ge) a) r = true) :
    execPassStart ge a s = .next s := by
  rw [execPassStart_of_next h hfree hscore]
  simp only [opening_of_unrefused hopen, href, hfault, hwait, if_true]

theorem execPassStart_of_begins (hwait : loadWaits (view (eng s ge) (uArr a) r.tag.stamp) (arrOf (eng s ge) a) r = false) :
    execPassStart ge a s = .next (putArray s ge a (beginPass (view (eng s ge) (uArr a) r.tag.stamp) (arrOf (eng s ge) a)
      (accOf (eng s ge) a) r (bitmapBit (view (eng s ge) (uArr a) r.tag.stamp) r == some false))) := by
  rw [execPassStart_of_next h hfree hscore]
  simp only [opening_of_unrefused hopen, href, hfault, hwait, Bool.false_eq_true, if_false]
end
end

/-! ### The pass that begins (R61, R75) -/

section
variable {v : Engine} {x : Arr} {c : Acc} {r : RunState} {l : Load}

/-- A later pass that neither overwrites nor zeroes adds to its tile, from the set that is waiting. -/
theorem passOf_of_later (hk : r.kpass ≠ 0) (hrest : rPolRest r.words = false) (hneeds : needsLoad r = true)
    (hset : (waitingLoads x).head? = some l) : passOf v x r false =
      { seqNo := (x.passSeq + 1).toNat, tile := rTile r.words, half := rHalf r.words, mode := rMode r.words, sub := r.sub,
        wslot := rWslot r.words, aslot := rAslot r.words, overwrite := false, zero := false,
        last := rTileLast r.words && (decide (r.kpass + 1 = rPasses r.words) && (r.sub == 0 || r.sub == 3)),
        final := decide (r.kpass + 1 = rPasses r.words) && (r.sub == 0 || r.sub == 3), bank := l.bank, rows := passRows v r.words,
        nextRow := 0, words := r.words, kpass := r.kpass, reexec := r.reexec, stamp := r.tag.stamp } := by
  simp [passOf, hk, hrest, hneeds, hset]

/-- A later pass under a clear bitmap bit neither overwrites nor zeroes. -/
theorem passOf_skipped_overwrite (hk : r.kpass ≠ 0) : (passOf v x r true).overwrite = false := by
  simp [passOf, hk]

/-- The pass opens on the waiting set's bank, its count and its chain go on in the tile, and UNUSED codes mark it. -/
theorem beginPass_of_load (hfresh : r.fresh = false) (hk : r.kpass ≠ 0) (hrest : rPolRest r.words = false)
    (hneeds : needsLoad r = true) (hset : (waitingLoads x).head? = some l) : beginPass v x c r false =
      (let t := rTile r.words
       let counted := setTile c t (addCount (setChain (tileOf c t) (rHalf r.words) true) (rHalf r.words))
       settle (passBoundary { x with
          pass := some (passOf v x r false), run := nextPos r, passSeq := x.passSeq + 1, lastBank := l.bank,
          modeBits := rMode r.words, lastSrc := some (setSrc v r.words r.kpass r.sub),
          loads := (takeLoad x.loads).filter fun w => !(w.taken && w.written == 32) })
        (setTile counted t { tileOf counted t with code := (tileOf counted t).code || l.set.code })) := by
  have hpass := passOf_of_later (v := v) hk hrest hneeds hset
  simp [beginPass, hpass, hfresh, hneeds, hset, zeroBehind, passTile, countPass]

/-- A skipped pass takes a PASS_SEQ and leaves every element and count. -/
theorem beginPass_of_skip (hfresh : r.fresh = false) (hk : r.kpass ≠ 0) : beginPass v x c r true =
    settle { x with passSeq := x.passSeq + 1, run := nextK r, fed := x.fed ++ [passOf v x r true] }
      (setTile c (rTile r.words) (setChain (tileOf c (rTile r.words)) (rHalf r.words) true)) := by
  have hover := passOf_skipped_overwrite (v := v) (x := x) hk
  simp [beginPass, hover, hfresh, zeroBehind, passTile]
  rfl
end

/-! ### Waves (R59, R69, R92, R102) -/

theorem execArrayWave_of_packed {s : State} {ge a : Nat} {dry busy fill : Bool} (h : (packOf s (slotOf s ge) a).on = true) :
    execArrayWave ge a dry busy fill s = .next (setPack s (slotOf s ge) a (quadsWave (packOf s (slotOf s ge) a))) :=
  congrArg ok (if_pos h)

theorem execArrayWave_of_unpacked {s : State} {ge a : Nat} {dry busy fill : Bool} (h : (packOf s (slotOf s ge) a).on = false) :
    execArrayWave ge a dry busy fill s = .next (arrayWave s ge a dry busy fill) :=
  congrArg ok (if_neg (Bool.eq_false_iff.mp h))

@[simp] theorem setBank_held (x : Arr) (b : Nat) (v : Option WSet) : (setBank x b v).held = x.held := by
  unfold setBank
  split <;> rfl

@[simp] theorem loadWave_held (x : Arr) : (loadWave x).held = x.held := by
  unfold loadWave
  dsimp only
  split
  · exact setBank_held _ _ _
  · rfl

/-- The cells and the load path leave the finished tiles alone. -/
@[simp] theorem gridWave_held (x : Arr) (c : Acc) : (gridWave x c).1.held = x.held := loadWave_held _

/-- The end of a pass touches the open pass and the fed passes only. -/
theorem passBoundary_eq (x : Arr) : passBoundary x = { x with pass := (passBoundary x).pass, fed := (passBoundary x).fed } := by
  unfold passBoundary
  (repeat' split) <;> rfl

section
variable (e : Engine) (a : Nat) (x : Arr) (c : Acc) (p : Pass)

theorem feedRow_held : (feedRow e a x c p).1.held = x.held := by
  rw [feedRow, passBoundary_eq]

/-- A fed row enters the grid. -/
theorem feedRow_rows_length : (feedRow e a x c p).1.rows.length = x.rows.length + 1 := by
  rw [feedRow, passBoundary_eq]
  exact List.length_append

/-- A fed row spends a credit. -/
theorem feedRow_credits : (feedRow e a x c p).1.credits = x.credits - 1 := by
  rw [feedRow, passBoundary_eq]
end

section
variable {s : State} {ge a : Nat} {dry busy : Bool}

theorem arrayWave_of_stopped {fill : Bool} (h : slotStopped s ge = true) : arrayWave s ge a dry busy fill = s :=
  if_pos h

/-- An array with nothing to do moves its load path. -/
theorem arrayWave_of_inactive {fill : Bool} (h : slotStopped s ge = false)
    (hidle : arrActive (arrOf (eng s ge) a) (heldOff s ge) = false) :
    arrayWave s ge a dry busy fill = modArr s ge a fun y => if y.stop == .free then loadWave y else y :=
  (if_neg (Bool.eq_false_iff.mp h)).trans (if_neg (Bool.eq_false_iff.mp hidle))

/-- An active array that neither holds a finished tile back nor leads a re-execution. -/
structure PlainWave (s : State) (ge a : Nat) : Prop where
  runs : slotStopped s ge = false
  active : arrActive (arrOf (eng s ge) a) (heldOff s ge) = true
  noHeld : (arrOf (eng s ge) a).held = []
  noRedo : reexecLead (eng s ge) a = false

/-- What the feeder does in a wave without filler rows. -/
def feederWave (s : State) (ge a : Nat) (dry : Bool) : Arr × Acc :=
  let b := feederChoice (eng s ge) a dry (heldOff s ge)
  let f := match (arrOf (eng s ge) a).pass, b with
    | some p, .none => feedRow (eng s ge) a (arrOf (eng s ge) a) (accOf (eng s ge) a) p
    | _, _ => (arrOf (eng s ge) a, accOf (eng s ge) a)
  gridWave f.1 (countWave f.2 b false)

theorem arrayWave_of_plain (h : PlainWave s ge a) : arrayWave s ge a dry busy false =
    (let g := feederWave s ge a dry
     putArray s ge a (if busy || (!g.1.held.isEmpty && (ftqFree (eng s ge)).isNone) then g else drainAll g.1 g.2)) := by
  refine (if_neg (Bool.eq_false_iff.mp h.runs)).trans ((if_pos h.active).trans ?_)
  simp only [activeWave, h.noRedo, Bool.false_and, Bool.false_eq_true, if_false]
  rfl

/-- No finished tile waits after the wave either. -/
theorem feederWave_held (h : PlainWave s ge a) : (feederWave s ge a dry).1.held = [] := by
  unfold feederWave
  rw [gridWave_held]
  split
  · rw [feedRow_held, h.noHeld]
  · exact h.noHeld

/-- The write port is busy with other work: the drain waits. -/
theorem arrayWave_of_plain_busy (h : PlainWave s ge a) :
    arrayWave s ge a dry true false = putArray s ge a (feederWave s ge a dry) := by
  rw [arrayWave_of_plain h]
  rfl

theorem arrayWave_of_plain_drained (h : PlainWave s ge a) : arrayWave s ge a dry false false =
    putArray s ge a (drainAll (feederWave s ge a dry).1 (feederWave s ge a dry).2) := by
  rw [arrayWave_of_plain h]
  simp only [feederWave_held h, List.isEmpty_nil, Bool.not_true, Bool.false_and, Bool.or_self, Bool.false_eq_true, if_false]

/-! What the feeder chooses -/

section
variable {p : Pass} (hpass : (arrOf (eng s ge) a).pass = some p) (hbank : bankPending (arrOf (eng s ge) a) p.bank = false)
include hpass hbank

theorem feederWave_of_fed (hcredit : (arrOf (eng s ge) a).credits ≠ 0) : feederWave s ge a false =
    (let f := feedRow (eng s ge) a (arrOf (eng s ge) a) (accOf (eng s ge) a) p
     gridWave f.1 { f.2 with validWaves := f.2.validWaves + 1 }) := by
  simp [feederWave, feederChoice, hpass, hbank, hcredit, countWave]

theorem feederWave_of_dry (hcredit : (arrOf (eng s ge) a).credits ≠ 0) : feederWave s ge a true =
    gridWave (arrOf (eng s ge) a) { accOf (eng s ge) a with bubbleDry := (accOf (eng s ge) a).bubbleDry + 1 } := by
  simp [feederWave, feederChoice, hpass, hbank, hcredit, countWave]

theorem feederWave_of_no_credit (hcredit : (arrOf (eng s ge) a).credits = 0) : feederWave s ge a dry =
    gridWave (arrOf (eng s ge) a) { accOf (eng s ge) a with bubbleDrain := (accOf (eng s ge) a).bubbleDrain + 1 } := by
  simp [feederWave, feederChoice, hpass, hbank, hcredit, countWave]
end

theorem feederWave_of_load_wait {r : RunState} (hpass : (arrOf (eng s ge) a).pass = none)
    (hrun : (arrOf (eng s ge) a).run = some r) (hoff : heldOff s ge = false) (hscore : scoreHeld (eng s ge) a r = false)
    (hwait : loadWaits (eng s ge) (arrOf (eng s ge) a) r = true) : feederWave s ge a dry =
    gridWave (arrOf (eng s ge) a) { accOf (eng s ge) a with bubbleLoad := (accOf (eng s ge) a).bubbleLoad + 1 } := by
  simp [feederWave, feederChoice, hpass, hrun, hoff, hscore, hwait, countWave]
end

theorem arrActive_of_pass {x : Arr} {p : Pass} (off : Bool) (hfree : x.stop = .free) (h : x.pass = some p) :
    arrActive x off = true := by
  simp [arrActive, hfree, h]

theorem arrActive_of_run {x : Arr} {r : RunState} (hfree : x.stop = .free) (h : x.run = some r) : arrActive x false = true := by
  simp [arrActive, hfree, h]

/-! ### Finished tiles (R128) -/

section
variable {s : State} {ge a tile q : Nat} {y : Nat × Nat}

/-- The engine with a finished tile in entry q of the queue, and FINISHED set in the tile. -/
def tileRaised (e : Engine) (a tile q : Nat) (y : Nat × Nat) : Engine :=
  let f := setAcc (setArr e a { arrOf e a with held := (arrOf e a).held.filter fun z => z.1 ≠ tile }) a
    (setTile (accOf e a) tile { tileOf (accOf e a) tile with finished := true })
  { f with ftq := sset none e.ftq q (some (ftDescriptor a tile (tileOf (accOf e a) tile) y.2)) }

theorem execFinishedTileRaise_of_free (hheld : (arrOf (eng s ge) a).held.find? (fun z => z.1 == tile) = some y)
    (hroom : ftqFree (eng s ge) = some q) (hflight : inFlight (arrOf (eng s ge) a) tile = false)
    (hfree : (arrOf (eng s ge) a).stop = .free) (hslot : slotStopped s ge = false) :
    execFinishedTileRaise ge a tile s = .next (setEng s ge (tileRaised (eng s ge) a tile q y)) := by
  have hgoes : (inFlight (arrOf (eng s ge) a) tile || (arrOf (eng s ge) a).stop != .free || slotStopped s ge) = false := by
    simp [hflight, hfree, hslot]
  simp only [execFinishedTileRaise, hheld, hroom]
  exact congrArg ok (if_neg (Bool.eq_false_iff.mp hgoes))

theorem execFinishedTileRaise_of_full (hroom : ftqFree (eng s ge) = none) : execFinishedTileRaise ge a tile s = .next s := by
  cases hheld : (arrOf (eng s ge) a).held.find? (fun z => z.1 == tile) with
  | none => simp only [execFinishedTileRaise, hheld, ok]
  | some y => simp only [execFinishedTileRaise, hheld, hroom, ok]
end

/-! ### The statement -/

/-- Settles O23: the shadow load and the bank write, the next pass by what holds or refuses it, the wave by what its feeder
chooses, and the finished tile. -/
theorem arrayPassesFeedAndDrain : Obligations.ArrayPassesFeedAndDrain := by
  intro s ge a tile q code addr dry busy fill r n p l pre post y e x c v put calm ends
  have toCalm (h : calm) : Calm s ge := ⟨h.1, h.2⟩
  refine ⟨?_, ?_, ?_, execShadowLoadBankWrite_of_ready, bankWriteReady_iff x pre l, ?_, ?_, ?_, execArrayWave_of_packed, ?_,
    ⟨feedRow_rows_length e a x c p, feedRow_credits e a x c p⟩, ?_, execFinishedTileRaise_of_full⟩
  · intro h
    exact execShadowLoadRead_of_next (toCalm h)
  · intro h
    exact execShadowLoadRead_of_no_run (toCalm h)
  · intro h
    exact ⟨loadWave_of_arriving h, loadWave_of_writing h⟩
  · intro h hrun hpass hfree hscore
    have hnext : BetweenPasses s ge a r := ⟨toCalm h, hrun, hpass⟩
    refine ⟨execPassStart_of_opening_refused hnext hfree hscore, fun hopen => ?_⟩
    refine ⟨execPassStart_of_refused hnext hfree hscore hopen, execPassStart_of_fault hnext hfree hscore hopen, ?_⟩
    intro href hfault
    exact ⟨execPassStart_of_waiting hnext hfree hscore hopen href hfault,
      execPassStart_of_begins hnext hfree hscore hopen href hfault⟩
  · intro hrun hpass hheld h
    exact execPassStart_of_held ⟨toCalm h, hrun, hpass⟩ hheld
  · intro hfresh hk hrest
    refine ⟨fun hneeds hset => ?_, beginPass_of_skip hfresh hk⟩
    rw [beginPass_of_load hfresh hk hrest hneeds hset, passOf_of_later hk hrest hneeds hset]
  · intro hout
    have wave (d b f : Bool) := execArrayWave_of_unpacked (ge := ge) (dry := d) (busy := b) (fill := f) hout
    refine ⟨fun h => (wave dry busy fill).trans (congrArg _ (arrayWave_of_stopped h)),
      fun h hidle => (wave dry busy fill).trans (congrArg _ (arrayWave_of_inactive h hidle)), fun h hfree hheld hredo => ?_⟩
    have ofOpen (hpass : x.pass = some p) : PlainWave s ge a := ⟨h, arrActive_of_pass _ hfree hpass, hheld, hredo⟩
    refine ⟨fun hpass hbank hcredit => ?_, fun hpass hbank hcredit => ?_, fun hpass hrun hoff hscore hwait => ?_⟩
    · have hfed := arrayWave_of_plain_drained (dry := false) (ofOpen hpass)
      have hdry := arrayWave_of_plain_drained (dry := true) (ofOpen hpass)
      rw [feederWave_of_fed hpass hbank hcredit] at hfed
      rw [feederWave_of_dry hpass hbank hcredit] at hdry
      exact ⟨(wave false false false).trans (congrArg _ hfed), (wave true false false).trans (congrArg _ hdry)⟩
    · have hbusy := arrayWave_of_plain_busy (dry := dry) (ofOpen hpass)
      rw [feederWave_of_no_credit hpass hbank hcredit] at hbusy
      exact (wave dry true false).trans (congrArg _ hbusy)
    · have hplain : PlainWave s ge a := ⟨h, hoff ▸ arrActive_of_run hfree hrun, hheld, hredo⟩
      have hload := arrayWave_of_plain_drained (dry := dry) hplain
      rw [feederWave_of_load_wait hpass hrun hoff hscore hwait] at hload
      exact (wave dry false false).trans (congrArg _ hload)
  · intro hheld hroom hflight hfree hslot
    exact ⟨_, execFinishedTileRaise_of_free hheld hroom hflight hfree hslot, rfl, rfl, rfl, rfl⟩

end Sys2Proof.Machine
end

section
/-! Slots in service, their packed-mode test, Remount and readmission (R16, R22, R66, R79 to R82, R380 to R383). -/

namespace Sys2Proof.Machine

/-! ### Drain and admission -/

section
variable {s : State} {slot arr ge : Nat}

theorem execDrainRequest_of_inService (h : slotState s slot = .inService) :
    execDrainRequest slot s = .next (setSlot s slot .draining) :=
  congrArg ok (if_pos h)

theorem execDrainRequest_of_other (h : slotState s slot ≠ .inService) : execDrainRequest slot s = .next s :=
  congrArg ok (if_neg h)

/-- Out of packed mode on all four arrays. -/
theorem unpacked_iff (s : State) (slot : Nat) :
    ((List.range 4).all fun a => !(packOf s slot a).on) = true ↔ ∀ a < 4, (packOf s slot a).on = false := by
  simp

theorem execSlotAdmission_of_passed (htest : slotState s slot = .test) (hpass : sget false s.contain.testResults slot = true)
    (hout : ∀ a < 4, (packOf s slot a).on = false) : execSlotAdmission slot s = .next (setSlot s slot .inService) :=
  congrArg ok (if_pos ⟨htest, hpass, (unpacked_iff s slot).mpr hout⟩)

theorem execSlotAdmission_of_unready (h : slotState s slot ≠ .test ∨ sget false s.contain.testResults slot = false
    ∨ ∃ a < 4, (packOf s slot a).on = true) : execSlotAdmission slot s = .next s := by
  refine congrArg ok (if_neg ?_)
  rintro ⟨htest, hpass, hall⟩
  obtain h | h | ⟨a, ha, hon⟩ := h
  · exact h htest
  · exact Bool.false_ne_true (h.symm.trans hpass)
  · exact Bool.false_ne_true (((unpacked_iff s slot).mp hall a ha).symm.trans hon)

/-! ### Packed mode -/

/-- An array enters or leaves packed mode, with four fresh quadrants or none. -/
def packsArr (s : State) (slot arr : Nat) (on : Bool) : State :=
  setPack s slot arr { on := on, quads := if on then List.replicate 4 {} else [] }

theorem setPacked_of_no_engine (on : Bool) (h : engineOn s slot = none) : setPacked s slot arr on = packsArr s slot arr on := by
  simp only [setPacked, h]
  rfl

theorem setPacked_of_empty (on : Bool) (h : engineOn s slot = some ge) (hempty : gridEmpty (arrOf (eng s ge) arr) = true) :
    setPacked s slot arr on
      = modEng (packsArr s slot arr on) ge fun e => clearArray e arr (if on then .packed else .free) := by
  simp only [setPacked, h, hempty, if_true]
  rfl

theorem setPacked_of_rows (on : Bool) (h : engineOn s slot = some ge) (hrows : gridEmpty (arrOf (eng s ge) arr) = false) :
    setPacked s slot arr on = s := by
  simp only [setPacked, h, hrows, Bool.false_eq_true, if_false]

theorem execPackedModeEnter_of_able (h : inTest s slot = true) :
    execPackedModeEnter slot arr s = .next (setPacked s slot arr true) :=
  congrArg ok (if_pos h)

theorem execPackedModeEnter_of_idle (h : inTest s slot = false) (hidle : slotIdle s slot = true) :
    execPackedModeEnter slot arr s = .next (setPacked (setSlot s slot .test) slot arr true) :=
  congrArg ok ((if_neg (Bool.eq_false_iff.mp h)).trans (if_pos hidle))

theorem execPackedModeEnter_of_busy (h : inTest s slot = false) (hidle : slotIdle s slot = false) :
    execPackedModeEnter slot arr s = .next s :=
  congrArg ok ((if_neg (Bool.eq_false_iff.mp h)).trans (if_neg (Bool.eq_false_iff.mp hidle)))

theorem execPackedModeExit_of_packed (h : (packOf s slot arr).on = true) :
    execPackedModeExit slot arr s = .next (setPacked s slot arr false) :=
  congrArg ok (if_pos h)

theorem execPackedModeExit_of_unpacked (h : (packOf s slot arr).on = false) : execPackedModeExit slot arr s = .next s :=
  congrArg ok (if_neg (Bool.eq_false_iff.mp h))

/-- With rows in the grid, an array stays as it is. -/
theorem execPackedModeExit_of_rows (h : engineOn s slot = some ge) (hrows : gridEmpty (arrOf (eng s ge) arr) = false) :
    execPackedModeExit slot arr s = .next s := by
  cases hon : (packOf s slot arr).on with
  | false => exact execPackedModeExit_of_unpacked hon
  | true => rw [execPackedModeExit_of_packed hon, setPacked_of_rows false h hrows]
end

/-! ### The test -/

section
variable {s : State} {slot : Nat} {prog : TestProgram} {bad : List (Nat × Nat × W64)}

theorem execPackedModeTest_of_unready (h : inTest s slot = false ∨ slotPacked s slot = false) :
    execPackedModeTest slot ⟨prog, bad⟩ s = .next s := by
  have hnot : (!(inTest s slot && slotPacked s slot)) = true := by
    obtain h | h := h
    · simp [h]
    · simp [h]
  exact congrArg ok (if_pos hnot)

theorem execPackedModeTest_of_ready (hable : inTest s slot = true) (hpacked : slotPacked s slot = true) :
    execPackedModeTest slot ⟨prog, bad⟩ s = .next (
      let ran := testSlot s slot prog bad
      if !ran.1 && (engineOn s slot).isNone then setSlot (testResult ran.2 slot ran.1) slot .retired
      else testResult ran.2 slot ran.1) :=
  congrArg ok (if_neg (by simp [hable, hpacked]))

/-- A slot that passes, or that carries an engine, keeps its state. -/
theorem execPackedModeTest_of_kept (hable : inTest s slot = true) (hpacked : slotPacked s slot = true)
    (hkept : (testSlot s slot prog bad).1 = true ∨ (engineOn s slot).isSome = true) :
    execPackedModeTest slot ⟨prog, bad⟩ s
      = .next (testResult (testSlot s slot prog bad).2 slot (testSlot s slot prog bad).1) := by
  have hstays : (!(testSlot s slot prog bad).1 && (engineOn s slot).isNone) = false := by
    obtain h | h := hkept
    · simp [h]
    · obtain ⟨ge, hge⟩ := Option.isSome_iff_exists.mp h
      simp [hge]
  rw [execPackedModeTest_of_ready hable hpacked]
  exact congrArg _ (if_neg (Bool.eq_false_iff.mp hstays))

/-- A spare that fails is RETIRED. -/
theorem execPackedModeTest_of_failed_spare (hable : inTest s slot = true) (hpacked : slotPacked s slot = true)
    (hfail : (testSlot s slot prog bad).1 = false) (hspare : engineOn s slot = none) :
    execPackedModeTest slot ⟨prog, bad⟩ s
      = .next (setSlot (testResult (testSlot s slot prog bad).2 slot false) slot .retired) := by
  rw [execPackedModeTest_of_ready hable hpacked]
  simp only [hfail, hspare, Option.isNone_none, Bool.not_false, Bool.and_self, if_true]

theorem testSpare_of_failed (h : (testSpare s slot prog bad).1 = false) :
    ∃ u, (testSpare s slot prog bad).2 = setSlot u slot .retired :=
  ⟨_, if_neg (Bool.eq_false_iff.mp h)⟩
end

/-- Every spare of the die that is not RETIRED is tested. -/
def sparesTested (s : State) (die : Nat) (prog : TestProgram) (bads : List (Nat × Nat × Nat × W64)) : State :=
  (((List.range 12).map fun k => spareOf s (die * 12 + k)).filterMap id).foldl
    (fun t p => (testSpare t p prog ((bads.filter fun b => b.1 == p).map Prod.snd)).2) s

theorem execSpareTestInterval_eq (s : State) (die : Nat) (prog : TestProgram) (bads : List (Nat × Nat × Nat × W64)) :
    execSpareTestInterval die ⟨prog, bads⟩ s = .next (modContain (sparesTested s die prog bads) fun c =>
      { c with spareTests := c.spareTests + 1 }) := rfl

/-! ### Remount -/

/-- A HELD slot that carries an engine and has no Remount under way. -/
def CanRemount (s : State) (slot : Nat) : Prop :=
  slotState s slot = .held ∧ s.contain.remounts.any (fun r => r.slot == slot) = false ∧ (engineOn s slot).isSome

/-- The spare of a cluster that is neither held nor kept for another slot. -/
def freeSpare (s : State) (cluster : Nat) : Option Nat :=
  (spareOf s cluster).filter fun p => slotState s p != .held && !s.contain.remounts.any fun r => r.spare == p

/-- The engine whose state is lost with its slot. -/
def lostEngine (s : State) (slot : Nat) (readable : Bool) : List Nat := if readable then [] else (engineOn s slot).toList

section
variable {s : State} {slot p ge : Nat} {readable : Bool} {prog : TestProgram} {bad : List (Nat × Nat × W64)} {r : Remount}

theorem execRemount_of_unable (h : ¬ CanRemount s slot) : execRemount slot ⟨prog, bad⟩ readable s = .next s := by
  refine congrArg ok (if_pos ?_)
  cases hheld : slotState s slot != .held with
  | true => rfl
  | false =>
    cases hnone : s.contain.remounts.any fun r => r.slot == slot with
    | true => rfl
    | false =>
      cases hon : engineOn s slot with
      | none => rfl
      | some ge => exact absurd ⟨bne_eq_false_iff_eq.mp hheld, hnone, by simp [hon]⟩ h

theorem execRemount_of_able (h : CanRemount s slot) : execRemount slot ⟨prog, bad⟩ readable s = .next (
    match freeSpare s (slot / 9) with
    | none => clusterLeaves s (slot / 9) (lostEngine s slot readable)
    | some p =>
      if (testSpare s p prog bad).1 then modContain (testSpare s p prog bad).2 fun c =>
        { c with remounts := c.remounts ++ [{ slot := slot, spare := p }] }
      else clusterLeaves (testSpare s p prog bad).2 (slot / 9) (lostEngine s slot readable)) := by
  obtain ⟨hheld, hnone, hon⟩ := h
  obtain ⟨ge, hge⟩ := Option.isSome_iff_exists.mp hon
  exact congrArg ok (if_neg (by simp [hheld, hnone, hge]))

theorem execRemount_of_no_spare (h : CanRemount s slot) (hfree : freeSpare s (slot / 9) = none) :
    execRemount slot ⟨prog, bad⟩ readable s = .next (clusterLeaves s (slot / 9) (lostEngine s slot readable)) := by
  rw [execRemount_of_able h, hfree]

theorem execRemount_of_passed (h : CanRemount s slot) (hfree : freeSpare s (slot / 9) = some p)
    (hpass : (testSpare s p prog bad).1 = true) :
    execRemount slot ⟨prog, bad⟩ readable s = .next (modContain (testSpare s p prog bad).2 fun c =>
      { c with remounts := c.remounts ++ [{ slot := slot, spare := p }] }) := by
  rw [execRemount_of_able h, hfree]
  exact congrArg _ (if_pos hpass)

theorem execRemount_of_failed (h : CanRemount s slot) (hfree : freeSpare s (slot / 9) = some p)
    (hfail : (testSpare s p prog bad).1 = false) :
    execRemount slot ⟨prog, bad⟩ readable s
      = .next (clusterLeaves (testSpare s p prog bad).2 (slot / 9) (lostEngine s slot readable)) := by
  rw [execRemount_of_able h, hfree]
  exact congrArg _ (if_neg (Bool.eq_false_iff.mp hfail))

/-- A Remount of the slot waits for its commit. -/
def remountWaits (s : State) (slot : Nat) : Bool := s.contain.remounts.any fun r => r.slot == slot && !r.committed

theorem execSpareMapCommit_of_waiting (h : s.ost.failed = true ∨ remountWaits s slot = false) :
    execSpareMapCommit slot s = .next s := by
  have hstays : (s.ost.failed || !remountWaits s slot) = true := by
    obtain h | h := h
    · simp [h]
    · simp [h]
  exact congrArg ok (if_pos hstays)

theorem execSpareMapCommit_of_served (hserved : s.ost.failed = false) (hwaits : remountWaits s slot = true) :
    execSpareMapCommit slot s = .next (repairDue (modContain s fun c => { c with
      remounts := c.remounts.map fun r => if r.slot = slot then { r with committed := true } else r }) 1) := by
  have hgoes : (s.ost.failed || !remountWaits s slot) = false := by simp [hserved, hwaits]
  exact congrArg ok (if_neg (Bool.eq_false_iff.mp hgoes))

/-- The committed Remount of a slot. -/
def committedRemount (s : State) (slot : Nat) : Option Remount := s.contain.remounts.find? fun r => r.slot == slot && r.committed

theorem execRemountResume_of_uncommitted (h : committedRemount s slot = none) :
    execRemountResume slot readable s = .next s := by
  unfold committedRemount at h
  simp only [execRemountResume, h, ok]

/-- The engine stands on the spare, in service, and its old slot is RETIRED. -/
def remounted (s : State) (slot p ge : Nat) : State :=
  modContain (setSlot (setSlot (mapEngine s ge p) p .inService) slot .retired) fun c =>
    { c with remounts := c.remounts.filter fun x => x.slot != slot }

theorem execRemountResume_of_committed (h : committedRemount s slot = some r) (hspare : r.spare = p)
    (hon : engineOn s slot = some ge) : execRemountResume slot readable s = .next (noteUnit (unitEvent
      (if readable then remounted s slot p ge else loseEngine (remounted s slot p ge) ge) 2 slot) 13 7 1 2 slot
        [BitVec.ofNat 64 p]) := by
  subst hspare
  unfold committedRemount at h
  simp only [execRemountResume, h, hon, ok]
  rfl
end

/-! ### Readmission and retirement -/

section
variable {s : State} {slot p ge kind unit : Nat}

/-- A unit that is admitted: its Groom's copy takes the record, and the unit is no longer retired. -/
theorem admitUnit_of_passed (s : State) (kind unit : Nat) (bySleep : Bool) :
    let a := admitKind s kind unit (contentsStand s kind unit bySleep)
    let k := kind * 4096 + unit
    ∃ t, execUnitReadmission kind unit true bySleep s = .next t ∧ t.gens.copy = sset 0 a.gens.copy k (sget 0 a.gens.record k)
      ∧ t.contain.retired = sset false a.contain.retired k false ∧ t.slots = a.slots ∧ t.mem = a.mem :=
  ⟨_, rfl, rfl, rfl, rfl, rfl⟩

theorem retireSlot_of_no_engine (h : engineOn s slot = none) : retireSlot s slot = setSlot s slot .retired := by
  simp only [retireSlot, h]

theorem retireSlot_of_engine (h : engineOn s slot = some ge) : retireSlot s slot =
    (match freeSpare (setSlot s slot .retired) (slot / 9) with
     | none => clusterLeaves (setSlot s slot .retired) (slot / 9) [ge]
     | some p => setSlot (loseEngine (mapEngine (setSlot s slot .retired) ge p) ge) p .inService) := by
  simp only [retireSlot, h]
  rfl

/-- The engine of a retired slot starts anew on the cluster's spare. -/
theorem retireSlot_of_spare (h : engineOn s slot = some ge) (hfree : freeSpare (setSlot s slot .retired) (slot / 9) = some p) :
    retireSlot s slot = setSlot (loseEngine (mapEngine (setSlot s slot .retired) ge p) ge) p .inService := by
  rw [retireSlot_of_engine h, hfree]

theorem retireSlot_of_no_spare (h : engineOn s slot = some ge) (hfree : freeSpare (setSlot s slot .retired) (slot / 9) = none) :
    retireSlot s slot = clusterLeaves (setSlot s slot .retired) (slot / 9) [ge] := by
  rw [retireSlot_of_engine h, hfree]

@[simp] theorem initEngineOn_slots (s : State) (slot : Nat) : (initEngineOn s slot).slots = s.slots := by
  unfold initEngineOn
  split <;> rfl

theorem admitKind_slot_st (s : State) (slot : Nat) (stand : Bool) :
    (admitKind s 2 slot stand).slots.st = sset .inService s.slots.st slot .inService := by
  have hkind : admitKind s 2 slot stand = setSlot (initEngineOn s slot) slot .inService := if_pos rfl
  rw [hkind, setSlot_st, initEngineOn_slots]

/-- Without a sleep, a unit's contents stand where its Groom's copy is the record. -/
theorem contentsStand_iff (s : State) (kind unit : Nat) : contentsStand s kind unit false = true ↔
    sget 0 s.gens.copy (kind * 4096 + unit) = sget 0 s.gens.record (kind * 4096 + unit) := by
  simp [contentsStand]
end

/-! ### The statement -/

/-- Settles O54: the commands on one slot, then Remount by its steps, readmission and retirement. -/
theorem slotsAreTestedAndSparesReplaceThem : Obligations.SlotsAreTestedAndSparesReplaceThem := by
  refine ⟨?_, ?_⟩
  · intro s slot arr die ge prog bad bads st at_ packs tested empty spares able ran one all
    refine ⟨execDrainRequest_of_inService, execDrainRequest_of_other, execSlotAdmission_of_passed, execSlotAdmission_of_unready,
      ?_, ?_, execPackedModeEnter_of_idle, ?_, ?_, ?_, ?_, execPackedModeTest_of_unready, execPackedModeTest_of_kept,
      execPackedModeTest_of_failed_spare, ?_⟩
    · intro hable hon hempty
      exact (execPackedModeEnter_of_able hable).trans (congrArg _ (setPacked_of_empty true hon hempty))
    · intro hable hon
      exact (execPackedModeEnter_of_able hable).trans (congrArg _ (setPacked_of_no_engine true hon))
    · rintro (⟨hable, hidle⟩ | ⟨hable, hon, hrows⟩)
      · exact execPackedModeEnter_of_busy hable hidle
      · exact (execPackedModeEnter_of_able hable).trans (congrArg _ (setPacked_of_rows true hon hrows))
    · intro hpacked hon hempty
      exact (execPackedModeExit_of_packed hpacked).trans (congrArg _ (setPacked_of_empty false hon hempty))
    · intro hpacked hon
      exact (execPackedModeExit_of_packed hpacked).trans (congrArg _ (setPacked_of_no_engine false hon))
    · rintro (hout | ⟨hon, hrows⟩)
      · exact execPackedModeExit_of_unpacked hout
      · exact execPackedModeExit_of_rows hon hrows
    · have hall : all = sparesTested s die prog bads :=
        congrArg (fun test => spares.foldl test s) (funext fun t => funext fun p => rfl)
      rw [hall]
      exact execSpareTestInterval_eq s die prog bads
  · intro s slot kind unit p ge pass readable bySleep r prog bad cont lost able free waits done put settled k admitted out
    refine ⟨execRemount_of_unable, execRemount_of_no_spare, ?_, execSpareMapCommit_of_waiting, execSpareMapCommit_of_served,
      execRemountResume_of_uncommitted, ?_, rfl, admitUnit_of_passed s kind unit bySleep, setSlot_st s slot .held,
      retireSlot_of_no_engine, ?_, admitKind_slot_st s slot pass, contentsStand_iff s kind unit⟩
    · intro hable hfree
      exact ⟨execRemount_of_passed hable hfree, fun hfail => ⟨execRemount_of_failed hable hfree hfail, testSpare_of_failed hfail⟩⟩
    · intro hcommitted hspare hon
      exact ⟨execRemountResume_of_committed (readable := true) hcommitted hspare hon,
        execRemountResume_of_committed (readable := false) hcommitted hspare hon⟩
    · intro hon
      exact ⟨retireSlot_of_spare hon, retireSlot_of_no_spare hon⟩

end Sys2Proof.Machine
end

section
/-! Nine-bit operands (R27, R28): the fields S, E and F of an O9 word, and the value of each class. -/

namespace Sys2Proof.Machine

/-! ### The fields of a word (R27) -/

section
variable {s t : Bool} {e f m : Nat} {k : Int}

/-- The O9 word with sign S, exponent E and fraction F. -/
def o9Word (s : Bool) (e f : Nat) : Nat := 256 * b2n s + 8 * e + f

theorem bitAt_o9Word (he : e < 32) (hf : f < 8) : bitAt (o9Word s e f) 8 = s := by
  have hhigh : o9Word s e f / 2 ^ 8 = b2n s := by
    rw [o9Word]
    omega
  rw [bitAt, Nat.shiftRight_eq_div_pow, hhigh]
  cases s <;> rfl

theorem bits_o9Word (he : e < 32) (hf : f < 8) : bits (o9Word s e f) 7 3 = e := by
  rw [bits, Nat.shiftRight_eq_div_pow, o9Word]
  omega

theorem o9Word_mod (hf : f < 8) : o9Word s e f % 8 = f := by
  rw [o9Word]
  omega

/-- Every 9-bit pattern is the word of its own fields. -/
theorem o9Word_of_fields {v : Nat} (hv : v < 512) : o9Word (bitAt v 8) (bits v 7 3) (v % 8) = v := by
  have hsign : b2n (bitAt v 8) = v / 2 ^ 8 := by
    rw [bitAt, Nat.shiftRight_eq_div_pow, b2n]
    simp only [beq_iff_eq]
    split <;> omega
  rw [o9Word, hsign, bits, Nat.shiftRight_eq_div_pow]
  omega

/-! ### The value of each class (R28) -/

theorem decO9_o9Word (he : e < 32) (hf : f < 8) : decO9 (o9Word s e f) =
    if e = 31 then (if f = 0 then .inf s else if f = 7 then .poison else .nan)
    else if e = 0 then .fin s f (-17)
    else .fin s (8 + f) ((e : Int) - 18) := by
  simp only [decO9, bitAt_o9Word he hf, bits_o9Word he hf, o9Word_mod hf]

/-- With E 0 the fraction counts multiples of 2 ^ -17; F 0 is the zero. -/
theorem decO9_of_exp_zero (hf : f < 8) : decO9 (o9Word s 0 f) = .fin s f (-17) := by
  rw [decO9_o9Word (by decide) hf, if_neg (by decide), if_pos rfl]

theorem decO9_of_normal (hf : f < 8) (hlow : 1 ≤ e) (hhigh : e ≤ 30) :
    decO9 (o9Word s e f) = .fin s (8 + f) ((e : Int) - 18) := by
  rw [decO9_o9Word (by omega) hf, if_neg (by omega), if_neg (by omega)]

theorem decO9_of_infinity : decO9 (o9Word s 31 0) = .inf s := by
  rw [decO9_o9Word (by decide) (by decide), if_pos rfl, if_pos rfl]

theorem decO9_of_nan (hlow : 1 ≤ f) (hhigh : f ≤ 6) : decO9 (o9Word s 31 f) = .nan := by
  rw [decO9_o9Word (by decide) (by omega), if_pos rfl, if_neg (by omega), if_neg (by omega)]

theorem decO9_of_poison : decO9 (o9Word s 31 7) = .poison := by
  rw [decO9_o9Word (by decide) (by decide), if_pos rfl, if_neg (by decide), if_pos rfl]

/-! ### The finite values -/

/-- A finite operand is a zero or subnormal, or a normal. -/
theorem decO9_fin_cases (he : e < 32) (hf : f < 8) (h : decO9 (o9Word s e f) = .fin t m k) :
    (m = f ∧ k = -17) ∨ (1 ≤ e ∧ e ≤ 30 ∧ m = 8 + f ∧ k = (e : Int) - 18) := by
  rw [decO9_o9Word he hf] at h
  split at h
  case isTrue =>
    split at h
    · cases h
    · split at h <;> cases h
  case isFalse hfinite =>
    split at h
    case isTrue =>
      cases h
      exact .inl ⟨rfl, rfl⟩
    case isFalse hnormal =>
      cases h
      exact .inr ⟨by omega, by omega, rfl, rfl⟩

/-- A finite operand is a multiple of 2 ^ -17 of four significant bits, and at most 15 * 2 ^ 12. -/
theorem decO9_fin_bounds (he : e < 32) (hf : f < 8) (h : decO9 (o9Word s e f) = .fin t m k) :
    -17 ≤ k ∧ m < 2 ^ 4 ∧ m * 2 ^ (k + 17).toNat ≤ 61440 * 2 ^ 17 := by
  have hscale : -17 ≤ k ∧ k ≤ 12 ∧ m ≤ 15 := by
    obtain ⟨hm, hk⟩ | ⟨hlow, hhigh, hm, hk⟩ := decO9_fin_cases he hf h
    · omega
    · omega
  obtain ⟨hlow, hhigh, hm⟩ := hscale
  have hpow : 2 ^ (k + 17).toNat ≤ 2 ^ 29 := Nat.pow_le_pow_right (by decide) (by omega)
  refine ⟨hlow, by omega, ?_⟩
  calc m * 2 ^ (k + 17).toNat ≤ 15 * 2 ^ 29 := Nat.mul_le_mul hm hpow
    _ = 61440 * 2 ^ 17 := by decide
end

/-! ### The statement -/

/-- Settles O7: the classes by E and F, the bounds of the finite values, and the fields of a 9-bit pattern. -/
theorem nineBitOperandsHaveTheirValues : Obligations.NineBitOperandsHaveTheirValues := by
  intro s e f he hf w
  refine ⟨?_, ?_, decO9_of_normal hf, ?_, ?_, ?_, ⟨?_, ?_⟩, fun m k => decO9_fin_bounds he hf, ⟨?_, by decide⟩, ⟨?_, ?_⟩, ?_⟩
  · rintro rfl rfl
    exact ⟨-17, decO9_of_exp_zero hf⟩
  · rintro rfl -
    exact decO9_of_exp_zero hf
  · rintro rfl rfl
    exact decO9_of_infinity
  · rintro rfl hlow hhigh
    exact decO9_of_nan hlow hhigh
  · rintro rfl rfl
    exact decO9_of_poison
  · exact decO9_of_nan (s := false) (f := 1) (by decide) (by decide)
  · exact decO9_of_poison (s := true)
  · exact decO9_of_normal (s := false) (e := 30) (f := 7) (by decide) (by decide) (by decide)
  · exact decO9_of_normal (s := false) (e := 1) (f := 0) (by decide) (by decide) (by decide)
  · exact decO9_of_exp_zero (s := false) (f := 1) (by decide)
  · intro v hv
    exact ⟨bitAt v 8, bits v 7 3, v % 8, Nat.mod_lt _ (by decide), Nat.mod_lt _ (by decide), (o9Word_of_fields hv).symm⟩

end Sys2Proof.Machine
end

section
/-! Tile instructions (R93 to R99, R162, R168, R175): what each does to the tile store, the scratchpad and sRD, and where it raises
TILE. -/

namespace Sys2Proof.Machine

/-! ### Slots that are cleared -/

theorem sget_sclear_inside {α : Type} (d : α) (m : SMap α) {b e k : Nat} (hb : b ≤ k) (he : k < e) :
    sget d (sclear m b e) k = d := by
  induction m with
  | nil => rfl
  | cons x r ih =>
    obtain ⟨j, v⟩ := x
    unfold sclear at ih ⊢
    by_cases hj : j < b ∨ e ≤ j
    · have hne : k ≠ j := by omega
      simpa [List.filter_cons, hj, sget, hne] using ih
    · simpa [List.filter_cons, hj] using ih

theorem sget_sclear_outside {α : Type} (d : α) (m : SMap α) {b e k : Nat} (h : k < b ∨ e ≤ k) :
    sget d (sclear m b e) k = sget d m k := by
  induction m with
  | nil => rfl
  | cons x r ih =>
    obtain ⟨j, v⟩ := x
    unfold sclear at ih ⊢
    by_cases hk : k = j
    · subst hk
      simp [h, sget]
    · by_cases hj : j < b ∨ e ≤ j <;> simpa [List.filter_cons, hj, sget, hk] using ih

section
variable {x : Acc} {t n k : Nat}

/-- An element of cleared slots is +0 and unpoisoned. -/
theorem zeroSlots_inside (hlo : t * 1024 ≤ k) (hhi : k < (t + n) * 1024) :
    elemAt (zeroSlots x t n) k = 0 ∧ sget false (zeroSlots x t n).poison k = false := by
  have helem : sget none (zeroSlots x t n).elems k = none := sget_sclear_inside _ _ hlo hhi
  have hseed : sget 0 (zeroSlots x t n).elemSeed (k / 1024) = 0 := sget_sclear_inside _ _ (by omega) (by omega)
  exact ⟨by simp [elemAt, helem, hseed], sget_sclear_inside _ _ hlo hhi⟩

theorem zeroSlots_outside (h : k < t * 1024 ∨ (t + n) * 1024 ≤ k) :
    elemAt (zeroSlots x t n) k = elemAt x k ∧ sget false (zeroSlots x t n).poison k = sget false x.poison k := by
  have helem : sget none (zeroSlots x t n).elems k = sget none x.elems k := sget_sclear_outside _ _ h
  have hseed : sget 0 (zeroSlots x t n).elemSeed (k / 1024) = sget 0 x.elemSeed (k / 1024) := sget_sclear_outside _ _ (by omega)
  exact ⟨by simp only [elemAt, helem, hseed], sget_sclear_outside _ _ h⟩
end

/-! ### The image of a tile (R97, R175) -/

@[simp] theorem leBytes_length (n w : Nat) : (leBytes n w).length = n := by
  induction n generalizing w with
  | zero => rfl
  | succ n ih => simp [leBytes, ih]

/-- The bytes of a number, each with the same poison mark. -/
theorem markedBytes_length (n w : Nat) (p : Bool) : ((leBytes n w).map (·, p)).length = n :=
  (List.length_map _).trans (leBytes_length n w)

theorem length_flatMap_range {α : Type} (n k : Nat) (f : Nat → List α) (hf : ∀ i, (f i).length = k) :
    ((List.range n).flatMap f).length = k * n := by
  induction n with
  | zero => rfl
  | succ n ih =>
    rw [List.range_succ, List.flatMap_append, List.length_append, ih, List.flatMap_singleton, hf, Nat.mul_succ]

theorem tileImage_length (c : Acc) (t : Nat) : (tileImage c t).length = tileImageBytes (tileOf c t) := by
  unfold tileImage tileImageBytes
  dsimp only
  rw [List.length_append, List.length_append, markedBytes_length,
    length_flatMap_range _ 4 _ fun _ => markedBytes_length _ _ _]
  by_cases hf : (tileOf c t).format = 0
  · rw [if_pos hf, if_pos hf, List.length_nil]
  · rw [if_neg hf, if_neg hf, length_flatMap_range _ 4 _ fun _ => markedBytes_length _ _ _]

section
variable {s : State} {ge a t : Nat} {d : List W64} {g : Tag}

/-- An image descriptor of the scratchpad whose image lies in the binding breaks no rule of R171 and R168. -/
theorem imageDescFault_of_spad {e : Engine} {n : Nat} (hres : dReserved d = false) (hsp : dSpace d = 0) (hbase : dBase d % 8 = 0)
    (hin : spadOk e (dBase d) n = true) : imageDescFault e d n = none := by
  simp [imageDescFault, hres, hsp, hbase, hin]

/-! ### Where TILE is raised (R96) -/

/-- An instruction on a tile that is undeclared or another context's raises TILE, and a TSTAT frees its register. -/
theorem runTileOp_of_bad (rd : Nat) (h : tileBad (accOf (eng s ge) a) t (eng s ge).seq.context = true) :
    runTileOp s ge a (.trel t g) = raiseArr s ge a 0x25 g ∧ runTileOp s ge a (.tzero t g) = raiseArr s ge a 0x25 g
    ∧ runTileOp s ge a (.tclr t g) = raiseArr s ge a 0x25 g ∧ runTileOp s ge a (.tsave t d g) = raiseArr s ge a 0x25 g
    ∧ runTileOp s ge a (.trest t d g) = raiseArr s ge a 0x25 g
    ∧ runTileOp s ge a (.tstat t rd g) = raiseArr (modEng s ge fun y => unpend y rd) ge a 0x25 g :=
  ⟨if_pos h, if_pos h, if_pos h, if_pos h, if_pos h, if_pos h⟩

/-! ### Tiles of the context's own (R95, R99, R175) -/

section
variable (h : tileBad (accOf (eng s ge) a) t (eng s ge).seq.context = false)
include h

theorem runTileOp_trel : runTileOp s ge a (.trel t g) = modAcc s ge a fun y =>
    { setTile y t {} with log := y.log.filter fun o => o.tile ≠ t } :=
  if_neg (by simp [h])

theorem runTileOp_tzero : runTileOp s ge a (.tzero t g) = modAcc s ge a fun y =>
    let z := closeOps (zeroTile y t (tileOf y t)) t
    setTile z t { tileOf z t with poison := false, over0 := false, over1 := false, count0 := 0, count1 := 0 } :=
  if_neg (by simp [h])

theorem runTileOp_tclr : runTileOp s ge a (.tclr t g) = modAcc s ge a fun y =>
    setTile (closeOps y t) t (clearSticky (tileOf (closeOps y t) t)) :=
  if_neg (by simp [h])

theorem runTileOp_tstat (rd : Nat) : runTileOp s ge a (.tstat t rd g) =
    modEng (modEng s ge fun y => unpend y rd) ge fun y => wrS y rd (tileStatus (tileOf (accOf (eng s ge) a) t)) :=
  if_neg (by simp [h])

section
variable (hres : dReserved d = false) (hsp : dSpace d = 0) (hbase : dBase d % 8 = 0)
  (hin : spadOk (eng s ge) (dBase d) (tileImageBytes (tileOf (accOf (eng s ge) a) t)) = true)
include hres hsp hbase hin

/-- A save to the scratchpad writes the image and closes the tile's operations. -/
theorem runTileOp_tsave_spad : runTileOp s ge a (.tsave t d g) =
    (let img := tileImage (accOf (eng s ge) a) t
     modEng (modAcc (modEng s ge fun y => raceWrite y (uArr a) g.stamp (dBase d) img) ge a fun y => closeOps y t) ge
      fun y => land y s.stamp (spansOf (uArr a) g.stamp false [(dBase d, img.length)])) := by
  have hdesc : imageDescFault (eng s ge) d (tileImage (accOf (eng s ge) a) t).length = none := by
    rw [tileImage_length]
    exact imageDescFault_of_spad hres hsp hbase hin
  simp [runTileOp, h, hdesc, hsp, checkRows_spad, writeRows]

/-- A restore from the scratchpad reads the image there, and raises TILE where it is not one of the tile. -/
theorem runTileOp_trest_spad : runTileOp s ge a (.trest t d g) =
    (let v := tileOf (accOf (eng s ge) a) t
     let back := raceBytes (eng s ge) (uArr a) g.stamp false (dBase d) (spadRead (eng s ge) (dBase d) (tileImageBytes v))
     if imageMatches v back then modAcc s ge a fun y => tileRestore (closeOps y t) t back else raiseArr s ge a 0x25 g) := by
  have hdesc := imageDescFault_of_spad hres hsp hbase hin
  simp [runTileOp, h, hdesc, hsp, readRows_spad]
end
end
end

/-! ### The statement -/

/-- Settles O22: each instruction on a tile that is refused, on one of the context's own, the images in the scratchpad, the
declaration, and the elements of cleared slots. -/
theorem tileInstructionsTakeEffect : Obligations.TileInstructionsTakeEffect := by
  intro s ge a t rd sh f d g x k e c ctx n v own released tileFault
  refine ⟨runTileOp_of_bad rd, fun h => ⟨runTileOp_trel h, runTileOp_tzero h, runTileOp_tclr h, runTileOp_tstat h rd⟩,
    ?images, fun h => if_pos h, ?declares, zeroSlots_inside, zeroSlots_outside⟩
  case images =>
    intro h hres hsp hbase img
    refine ⟨tileImage_length c t, fun hin => ⟨runTileOp_tsave_spad h hres hsp hbase hin, ?_⟩⟩
    have hback := runTileOp_trest_spad (g := g) h hres hsp hbase hin
    exact ⟨fun hmatch => hback.trans (if_pos hmatch), fun hmatch => hback.trans (if_neg (Bool.eq_false_iff.mp hmatch))⟩
  case declares =>
    intro haligned hmine
    exact if_neg (not_or.mpr ⟨fun hoff => hoff haligned, Bool.eq_false_iff.mp hmine⟩)

end Sys2Proof.Machine
end

section
/-! Combine regions (R109 to R111, R116 to R119, R127, R291): the open operation, contributions and DONE markers by what the home
answers, the close and the apply, refusals on their way back, a unit's fault and the early retry. -/

namespace Sys2Proof.Machine

/-! ### The open operation (R109, R116) -/

section
variable {s t : State} {home owner : Nat} {words : List W64}

theorem not_attrChanging_of_idle {c : MapCfg} {x : AttrCmd} (h : x.busy = false) (region : Nat) :
    attrChanging c x region = false := by
  simp [attrChanging, attrLeft, h]

theorem cmbOpen_of_bad {c : CmbEntry} (h : cmbOpenBad s home c = true) : cmbOpen s home c = (.refused, s) :=
  if_pos h

/-- An open with a reserved field, of an owner that no engine runs, leaves the state alone. -/
theorem execCombineOpen_of_reserved (hres : cmbReserved words = true) (hown : engineOfCtx s owner = none) :
    execCombineOpen home words owner s = .next s := by
  simp [execCombineOpen, hres, hown, ok]

section
variable (hres : cmbReserved words = false) (hlen : words.length = 8) (hidle : s.attrCmd.busy = false)
include hres hlen hidle

theorem execCombineOpen_of_accepted (h : cmbOpen s home (cmbOfWords words owner) = (.accepted, t)) :
    execCombineOpen home words owner s = .next (regionOpened t) := by
  simp [execCombineOpen, hres, hlen, not_attrChanging_of_idle hidle, h, ok]

theorem execCombineOpen_of_bad (h : cmbOpenBad s home (cmbOfWords words owner) = true) (hown : engineOfCtx s owner = none) :
    execCombineOpen home words owner s = .next s := by
  simp [execCombineOpen, hres, hlen, not_attrChanging_of_idle hidle, cmbOpen_of_bad h, hown, ok]
end
end

/-! ### What a home answers to a contribution (R110, R111, R119) -/

/-- A contribution that its region takes, whatever its epoch: whole elements of the region's type, from a contributor that is
expected, aligned, within the region; over Relay only to a TEAM region. -/
structure CmbFits (c : CmbEntry) (a type idx : Nat) (mask : List Bool) (d : List PByte) (relay : Bool) (l : CmbEls) : Prop where
  els : cmbEls c mask d = some l
  type : type = contribType c
  expected : idx < c.expected
  team : relay = true → c.team = true
  aligned : a % elemBytes c.elem = 0
  within : a + l.length * elemBytes c.elem ≤ c.base + c.size * 64

/-- The elements go in granule by granule: staged in ordered mode, else combined on arrival (R111, R122). -/
def cmbTake (s : State) (c : CmbEntry) (a i idx : Nat) (l : CmbEls) : State :=
  ((elsByGranule (elemBytes c.elem) l.length a l).filter fun x => x.2.any Option.isSome).foldl (fun t x =>
    if c.ordered then cmbStage t (homeOf a) i idx x.1 x.2 else cmbArrive t (homeOf a) i x.1 x.2) s

section
variable {s : State} {a type epoch idx i : Nat} {mask : List Bool} {d : List PByte} {relay : Bool} {c : CmbEntry} {l : CmbEls}

theorem cmbMasked_of_none (h : cmbFind s a = none) : cmbMasked s a mask d type epoch idx relay = (.early, s) := by
  simp [cmbMasked, h]

/-- What a home answers to a contribution that its region takes, by the epochs. -/
theorem cmbMasked_of_fits (h : cmbFind s a = some (i, c)) (hfit : CmbFits c a type idx mask d relay l) :
    cmbMasked s a mask d type epoch idx relay =
      (if c.state ≠ .opened ∨ epoch < c.epoch then
        if c.epoch < epoch then (.early, s)
        else (.late, setCmb s (homeOf a) i { c with lateCount := satInc 65535 c.lateCount })
      else if c.epoch < epoch then (.early, s) else (.accepted, cmbTake s c a i idx l)) := by
  obtain ⟨hels, htype, hidx, hteam, halign, hwithin⟩ := hfit
  have hgood : ¬ (type ≠ contribType c ∨ c.expected ≤ idx ∨ (relay = true ∧ (!c.team) = true) ∨ a % elemBytes c.elem ≠ 0
      ∨ c.base + c.size * 64 < a + l.length * elemBytes c.elem) := by
    simp [htype, hidx, halign, hwithin]
    exact hteam
  simp only [cmbMasked, h, hels, if_neg hgood]
  rfl

/-- A contribution that its region does not take is refused, and changes nothing. -/
theorem cmbMasked_of_not_fits (h : cmbFind s a = some (i, c)) (hbad : ∀ l, ¬ CmbFits c a type idx mask d relay l) :
    cmbMasked s a mask d type epoch idx relay = (.refused, s) := by
  simp only [cmbMasked, h]
  cases hels : cmbEls c mask d with
  | none => rfl
  | some l =>
    refine if_pos (Decidable.byContradiction fun hgood => ?_)
    simp only [not_or, Decidable.not_not, not_and, Bool.not_eq_true, Bool.not_eq_false', Nat.not_le, Nat.not_lt] at hgood
    obtain ⟨htype, hidx, hteam, halign, hwithin⟩ := hgood
    exact hbad l ⟨hels, htype, hidx, hteam, halign, hwithin⟩

/-- A late answer counts LATE_COUNT and changes nothing else. -/
theorem cmbMasked_late {t : State} (h : cmbFind s a = some (i, c))
    (hlate : cmbMasked s a mask d type epoch idx relay = (.late, t)) :
    t = setCmb s (homeOf a) i { c with lateCount := satInc 65535 c.lateCount } := by
  by_cases hfit : ∃ l, CmbFits c a type idx mask d relay l
  · obtain ⟨l, hfit⟩ := hfit
    rw [cmbMasked_of_fits h hfit] at hlate
    split at hlate
    · split at hlate
      · cases hlate
      · exact (Prod.mk.inj hlate).2.symm
    · split at hlate <;> cases hlate
  · rw [cmbMasked_of_not_fits h (not_exists.mp hfit)] at hlate
    cases hlate
end

/-! ### Contributions and DONE markers as they arrive (R111, R117, R119) -/

/-- A contribution, or a DONE marker, on its way back. -/
def cmbBack (a type epoch idx : Nat) (done late : Bool) (mask : List Bool) (d : List PByte) : RelayHeld :=
  { pa := a, contrib := idx, epoch := epoch, type := type, done := done, data := d, mask := mask, late := late }

section
variable {s t : State} {pa a type epoch idx : Nat} {mask : List Bool} {d : List PByte} {src : Option Nat} {r : CmbRes}
  (hpa : canon s.map pa = some a)
include hpa

theorem execCombineContribution_of_accepted (h : cmbMasked s a mask d type epoch idx src.isNone = (.accepted, t)) :
    execCombineContribution pa type epoch idx ⟨mask, d⟩ src s = .next t := by
  simp [execCombineContribution, hpa, h, ok]

theorem execCombineContribution_of_refused (h : cmbMasked s a mask d type epoch idx src.isNone = (r, t)) (hr : r ≠ .accepted) :
    execCombineContribution pa type epoch idx ⟨mask, d⟩ src s
      = .next (refusedMsg t src (cmbBack a type epoch idx false (r == .late) mask d)) := by
  simp [execCombineContribution, hpa, h, hr, ok, cmbBack]

theorem execCombineDone_of_accepted (h : cmbDone s a epoch idx = (.accepted, t)) :
    execCombineDone pa epoch idx src s = .next (teamClose t a) := by
  simp [execCombineDone, hpa, h, ok]

theorem execCombineDone_of_refused (h : cmbDone s a epoch idx = (r, t)) (hr : r ≠ .accepted) :
    execCombineDone pa epoch idx src s = .next (refusedMsg t src (cmbBack a 0 epoch idx true (r == .late) [] [])) := by
  simp [execCombineDone, hpa, h, hr, ok, cmbBack]
end

/-! ### What a home answers to a DONE marker (R117, R118) -/

section
variable {s : State} {a epoch idx i : Nat} {c : CmbEntry}

theorem cmbDone_of_none (h : cmbFind s a = none) : cmbDone s a epoch idx = (.early, s) := by
  simp [cmbDone, h]

theorem cmbDone_of_later (h : cmbFind s a = some (i, c)) (hep : c.epoch < epoch) : cmbDone s a epoch idx = (.early, s) := by
  simp [cmbDone, h, hep]

section
variable (h : cmbFind s a = some (i, c)) (hst : c.state = .opened) (hep : epoch = c.epoch) (hidx : idx < c.expected)
include h hst hep hidx

/-- A contributor whose DONE was there already sets DUPLICATE. -/
theorem cmbDone_of_repeated (hdone : bitAt c.done idx = true) :
    cmbDone s a epoch idx = (.accepted, setCmb s (homeOf a) i { c with duplicate := true }) := by
  simp [cmbDone, h, hst, hep, hidx, hdone]

/-- A new DONE sets its bit and is counted; at EXPECTED the epoch closes. -/
theorem cmbDone_of_new (hdone : bitAt c.done idx = false) : cmbDone s a epoch idx = (.accepted,
    (let u := setCmb s (homeOf a) i { c with done := setBit c.done idx, doneCount := c.doneCount + 1 }
     if c.doneCount + 1 ≥ c.expected then cmbClose u (homeOf a) i else u)) := by
  simp [cmbDone, h, hst, hep, hidx, hdone]
end
end

/-! ### Close and apply (R118) -/

section
variable {s : State} {pa a i owner : Nat} {c : CmbEntry}

theorem cmbClose_of_opened (hc : cmbEnt s (homeOf a) i = c) (hst : c.state = .opened) : cmbClose s (homeOf a) i =
    setCmb s (homeOf a) i { c with state := .applying, forced := c.forced || decide (c.doneCount < c.expected) } := by
  subst hc
  exact if_pos hst

/-- Applying an arrival-mode region without a flag closes it; memory holds its sums already. -/
theorem cmbApplied_of_arrival (hc : cmbEnt s (homeOf a) i = c) (hst : c.state = .applying) (hord : c.ordered = false)
    (hflag : c.flagAddr = 0) : cmbApplied s (homeOf a) i = setCmb { s with cmb := { s.cmb with closes := s.cmb.closes + 1 } }
      (homeOf a) i { c with state := .closed, closedAt := s.cmb.closes + 1 } := by
  simp [cmbApplied, hc, hst, hord, hflag]

section
variable (hpa : canon s.map pa = some a) (h : cmbFind s a = some (i, c))
include hpa h

theorem execCombineClose_of_owner (hown : c.owner = owner) :
    execCombineClose pa (some owner) s = .next (cmbClose s (homeOf a) i) := by
  simp [execCombineClose, hpa, cmbCloseReq, h, hown, ok]

theorem execCombineClose_of_other (hown : c.owner ≠ owner) (heng : engineOfCtx s owner = none) :
    execCombineClose pa (some owner) s = .next s := by
  simp [execCombineClose, hpa, cmbCloseReq, h, hown, heng, ok]

theorem execCombineApplyComplete_of_other (hst : c.state ≠ .applying) : execCombineApplyComplete pa s = .next s := by
  simp [execCombineApplyComplete, hpa, h, hst, ok]

theorem execCombineApplyComplete_of_applying (hst : c.state = .applying) :
    execCombineApplyComplete pa s = .next (regionClosed (cmbApplied s (homeOf a) i) c.base) := by
  simp [execCombineApplyComplete, hpa, h, hst, ok]
end
end

/-! ### Refusals, unit faults and the early retry (R119, R127, R291) -/

/-- The oldest refusal is taken from those on their way. -/
def refusalTaken (s : State) (rest : List (Option Nat × RelayHeld)) : State := { s with cmb := { s.cmb with refusals := rest } }

section
variable {s t : State} {r : RelayHeld} {rest : List (Option Nat × RelayHeld)}

theorem execCombineRefusal_of_none (h : s.cmb.refusals = []) : execCombineRefusal s = .next s := by
  simp [execCombineRefusal, h, ok]

theorem execCombineRefusal_of_engine {ge : Nat} (h : s.cmb.refusals = (some ge, r) :: rest) : execCombineRefusal s =
    .next (raiseSeq (refusalTaken s rest) ge 0x2A { pc := (eng s ge).seq.pc, stamp := 0 } r.pa) := by
  simp only [execCombineRefusal, h]
  rfl

theorem execCombineRefusal_of_early (h : s.cmb.refusals = (none, r) :: rest) (hearly : r.late = false) : execCombineRefusal s =
    .next { s with cmb := { s.cmb with refusals := rest, relayHeld := s.cmb.relayHeld ++ [r] } } := by
  simp [execCombineRefusal, h, hearly, ok]

/-- A unit's fault at a home without an open epoch is marked and reported, and poisons nothing. -/
theorem execCombineUnitFault_of_calm {home : Nat} (h : (cmbInUse s home).filter (fun e => cmbBusy e.2) = []) :
    execCombineUnitFault home s =
      .next (note { s with cmb := { s.cmb with hwPending := sset false s.cmb.hwPending home true } } 4 1
        (if sget false s.cmb.hwPending home then 5 else 4) 10 home []) := by
  have hcalm : cmbUnitFault s home = s := by simp [cmbUnitFault, h]
  simp [execCombineUnitFault, hcalm, ok]

theorem execEarlyRetry_of_none (h : s.cmb.relayHeld.find? (fun r => !r.late) = none) : execEarlyRetry s = .next s := by
  simp [execEarlyRetry, h, ok]

theorem execEarlyRetry_of_accepted (h : s.cmb.relayHeld.find? (fun r => !r.late) = some r) (hdone : r.done = false)
    (hmasked : cmbMasked { s with cmb := { s.cmb with relayHeld := s.cmb.relayHeld.erase r } } r.pa r.mask r.data r.type r.epoch
      r.contrib true = (.accepted, t)) : execEarlyRetry s = .next t := by
  simp [execEarlyRetry, h, hdone, hmasked, ok]
end

/-! ### The statement -/

/-- Settles O33: the open operation, a contribution and a DONE marker where no region is and by what the region's entry is, the
close, the apply, refusals, unit faults and the early retry. -/
theorem combineRegionCommands : Obligations.CombineRegionCommands := by
  intro s t pa a type epoch idx owner home i ge words mask d l c r rest back msg put
  refine ⟨execCombineOpen_of_reserved, ?opens, ?absent, ?present, execCombineRefusal_of_none, execCombineRefusal_of_engine,
    execCombineRefusal_of_early, execCombineUnitFault_of_calm, execEarlyRetry_of_none, execEarlyRetry_of_accepted⟩
  case opens =>
    intro hres hlen hidle
    exact ⟨execCombineOpen_of_accepted hres hlen hidle, execCombineOpen_of_bad hres hlen hidle⟩
  case absent =>
    intro hpa hnone
    exact ⟨execCombineContribution_of_refused hpa (cmbMasked_of_none hnone) (by decide),
      execCombineDone_of_refused hpa (cmbDone_of_none hnone) (by decide)⟩
  case present =>
    intro hpa hfind
    refine ⟨?taken, ?refused, ?late, ?later, ?done, execCombineClose_of_owner hpa hfind, execCombineClose_of_other hpa hfind,
      cmbClose_of_opened, execCombineApplyComplete_of_other hpa hfind, ?applied⟩
    case taken =>
      intro hels htype hidx halign hwithin hst hep
      have hfit : CmbFits c a type idx mask d false l := ⟨hels, htype, hidx, by simp, halign, hwithin⟩
      refine execCombineContribution_of_accepted hpa ?_
      rw [Option.isNone_some, cmbMasked_of_fits hfind hfit, if_neg (by simp [hst, hep]), if_neg (by simp [hep])]
      rfl
    case refused =>
      intro hbad
      have hnot : ∀ l, ¬ CmbFits c a type idx mask d false l := by
        rintro l ⟨hels, htype, hidx, -, halign, -⟩
        obtain hb | hb | hb | hb := hbad
        · simp [hels] at hb
        · exact hb htype
        · omega
        · exact hb halign
      exact execCombineContribution_of_refused hpa (cmbMasked_of_not_fits hfind hnot) (by decide)
    case late =>
      intro hlate
      exact ⟨execCombineContribution_of_refused (src := some ge) (r := .late) hpa hlate (by decide), cmbMasked_late hfind hlate⟩
    case later =>
      intro hep
      exact execCombineDone_of_refused hpa (cmbDone_of_later hfind hep) (by decide)
    case done =>
      intro hst hep hidx
      exact ⟨fun hdone => execCombineDone_of_accepted hpa (cmbDone_of_repeated hfind hst hep hidx hdone),
        fun hdone => execCombineDone_of_accepted hpa (cmbDone_of_new hfind hst hep hidx hdone)⟩
    case applied =>
      intro hent hst hord hflag
      rw [← cmbApplied_of_arrival hent hst hord hflag]
      exact execCombineApplyComplete_of_applying hpa hfind hst

end Sys2Proof.Machine
end

section
/-! The commands of a ring (R110, R217, R218, R359 to R361, R363 to R367): when the next command runs, what refuses it, and the
status each opcode completes with. -/

namespace Sys2Proof.Machine

/-! ### The next command (R359 to R361) -/

/-- The next command of a ring is whole and unpoisoned, has the opcode with the CHAIN stated, and no fence holds it. -/
structure CmdIsNext (s : State) (r : Nat) (c : RingCmd) (op : Nat) : Prop where
  next : nextCmd s r = some (c, false)
  op : cOp c = op
  chain : chainOk c = true
  free : cmdWaits s r c = false

/-- The ring as the command finds it, HEAD past the command. -/
def cmdRing (s : State) (r : Nat) (c : RingCmd) : Ring := ringOf (takeCmd s r c) r

/-- The next command keeps the header's reserved fields 0, and its record has a place. -/
structure CmdStarts (s : State) (r : Nat) (c : RingCmd) (op : Nat) : Prop where
  isNext : CmdIsNext s r c op
  head : headBad c = false
  record : compOk (takeCmd s r c) (cmdRing s r c) c = true

/-- The command completes with a status and its detail, for the ring's context, with RESULT 0. -/
def cmdDone (s : State) (r : Nat) (c : RingCmd) (v : State) (status detail : Nat) : State :=
  complete v r status detail (cmdRing s r c).ctx 0

section
variable {s : State} {r op : Nat} {c : RingCmd} {work : State → Ring → RingCmd → State}

theorem runCmd_of_poison (h : nextCmd s r = some (c, true)) :
    runCmd s r op work = complete (takeCmd s r c) r 9 0 (ringOf s r).ctx 0 := by
  simp only [runCmd, h]

theorem runCmd_of_waits (h : nextCmd s r = some (c, false)) (hwait : cmdWaits s r c = true) : runCmd s r op work = s := by
  simp [runCmd, h, hwait]

/-- The next command by its header's reserved fields, the place of its record, and its own work. -/
theorem runCmd_of_next (h : CmdIsNext s r c op) : runCmd s r op work =
    (if headBad c then cmdDone s r c (takeCmd s r c) 1 0
     else if !compOk (takeCmd s r c) (cmdRing s r c) c then
       cmdDone s r c (modRing (takeCmd s r c) r fun q => { q with cur := some { c with words := c.words.set 1 0 } }) 7 0
     else work (takeCmd s r c) (cmdRing s r c) c) := by
  obtain ⟨hnext, hop, hchain, hfree⟩ := h
  have hruns : ¬ (cOp c ≠ op ∨ (!chainOk c) = true ∨ cmdWaits s r c = true) := by simp [hop, hchain, hfree]
  simp only [runCmd, hnext, if_neg hruns]
  rfl

theorem runCmd_of_bad_header (h : CmdIsNext s r c op) (hbad : headBad c = true) :
    runCmd s r op work = cmdDone s r c (takeCmd s r c) 1 0 :=
  (runCmd_of_next h).trans (if_pos hbad)

/-- A command whose record has no place completes without a record. -/
theorem runCmd_of_no_place (h : CmdIsNext s r c op) (hhead : headBad c = false)
    (hplace : compOk (takeCmd s r c) (cmdRing s r c) c = false) : runCmd s r op work =
      cmdDone s r c (modRing (takeCmd s r c) r fun q => { q with cur := some { c with words := c.words.set 1 0 } }) 7 0 := by
  simp [runCmd_of_next h, hhead, hplace]

theorem runCmd_of_starts (h : CmdStarts s r c op) : runCmd s r op work = work (takeCmd s r c) (cmdRing s r c) c := by
  obtain ⟨hnext, hhead, hplace⟩ := h
  simp [runCmd_of_next hnext, hhead, hplace]

/-- The commands other than LAUNCH, each with its opcode. -/
def plainCmds (r : Nat) : List (Nat × Instr) :=
  [(0, .cmdNop r), (2, .cmdWrite r), (3, .cmdCmb r), (4, .cmdWait r), (5, .cmdCreate r), (6, .cmdDestroy r)]

theorem execCmdDestroy_of_runs {n : Nat} (h : destroyRuns s r = some n) : execCmdDestroy r s = .next (preempt s n) := by
  simp [execCmdDestroy, h, ok]

/-- Each of these commands runs as the ring's next one; a DESTROY does once the context's streams have stopped. -/
theorem exec_plainCmd : ∀ i ∈ plainCmds r, (i.1 = 6 → destroyRuns s r = none) →
    ∃ work, exec i.2 s = .next (runCmd s r i.1 work) := by
  simp only [plainCmds, List.forall_mem_cons]
  refine ⟨fun _ => ⟨_, rfl⟩, fun _ => ⟨_, rfl⟩, fun _ => ⟨_, rfl⟩, fun _ => ⟨_, rfl⟩, fun _ => ⟨_, rfl⟩, fun hstop => ?_,
    by simp⟩
  show ∃ work, execCmdDestroy r s = .next (runCmd s r 6 work)
  simp only [execCmdDestroy, hstop trivial]
  exact ⟨_, rfl⟩

/-! ### Unknown opcodes, NOP and WRITE (R361, R364) -/

theorem execCmdUnknownOpcode_of_unlisted (h : nextCmd s r = some (c, false)) (hbad : 6 < cOp c ∨ chainOk c = false) :
    execCmdUnknownOpcode r s = .next (complete (takeCmd s r c) r 1 0 (ringOf s r).ctx 0) := by
  simp only [execCmdUnknownOpcode, h, if_pos (show 6 < cOp c ∨ (!chainOk c) = true by simpa using hbad), ok]

theorem execCmdNop_of_zero (h : CmdStarts s r c 0) (hzero : wordsZero c [2, 3, 4, 5, 6, 7] = true) :
    execCmdNop r s = .next (cmdDone s r c (takeCmd s r c) 0 0) :=
  congrArg ok ((runCmd_of_starts h).trans (if_pos hzero))

/-- LENGTH of a WRITE or CMB. -/
def cmdLen (c : RingCmd) : Nat := bits (cW c 3) 7 0

/-- The payload of a WRITE or CMB. -/
def cmdPayload (c : RingCmd) : List PByte := ((cPayload c).take (cmdLen c)).map (·, false)

/-- A WRITE's operands: LENGTH in range, reserved fields and the payload beyond LENGTH 0. -/
structure WriteFits (c : RingCmd) : Prop where
  nonempty : cmdLen c ≠ 0
  atMost : cmdLen c ≤ 224
  word3 : bits (cW c 3) 63 8 = 0
  word2 : bits (cW c 2) 63 57 = 0
  tail : tailZero c (cmdLen c) = true

/-- None of a WRITE's operand checks fails. -/
theorem WriteFits.not_refused (h : WriteFits c) : ¬ (cmdLen c = 0 ∨ 224 < cmdLen c ∨ bits (cW c 3) 63 8 ≠ 0
    ∨ bits (cW c 2) 63 57 ≠ 0 ∨ (!tailZero c (cmdLen c)) = true) := by
  obtain ⟨hsome, hmost, h3, h2, htail⟩ := h
  simp [hsome, hmost, h3, h2, htail]

section
variable {t : State} {l : List Piece} (h : CmdStarts s r c 2) (hfit : WriteFits c)
include h hfit

theorem execCmdWrite_of_failed_check
    (hp : cpPieces (takeCmd s r c) (cmdRing s r c) (bits (cW c 2) 56 0) (cmdLen c) = (none, t)) :
    execCmdWrite r s = .next (cmdDone s r c t 7 0) := by
  refine congrArg ok ((runCmd_of_starts h).trans ((if_neg hfit.not_refused).trans ?_))
  unfold cmdLen at hp
  simp only [hp]
  rfl

theorem execCmdWrite_of_pieces
    (hp : cpPieces (takeCmd s r c) (cmdRing s r c) (bits (cW c 2) 56 0) (cmdLen c) = (some l, t)) :
    execCmdWrite r s = .next (cmdDone s r c (cpWrite t (cmdRing s r c) l (cmdPayload c)) 0 0) := by
  refine congrArg ok ((runCmd_of_starts h).trans ((if_neg hfit.not_refused).trans ?_))
  unfold cmdLen at hp
  simp only [hp]
  rfl
end

/-! ### CMB (R110, R364) -/

theorem execCmdCmb_of_privileged (h : CmdStarts s r c 3) (hpriv : (cmdRing s r c).priv = true) :
    execCmdCmb r s = .next (cmdDone s r c (takeCmd s r c) 1 0) :=
  congrArg ok ((runCmd_of_starts h).trans (if_pos (by simp [hpriv])))

/-- A CMB's operands: LENGTH in range, reserved fields and the payload beyond LENGTH 0, and no DONE asked for. -/
structure CmbCmdFits (c : RingCmd) : Prop where
  atLeast : 4 ≤ cmdLen c
  atMost : cmdLen c ≤ 224
  word3 : bits (cW c 3) 31 17 = 0
  word2 : bits (cW c 2) 63 57 = 0
  tail : tailZero c (cmdLen c) = true
  noDone : bitAt (cW c 3) 16 = false

/-- A CMB's payload reaches the home of one region, or is refused before any of it is applied. -/
def cmbSent (u : State) (l : List Piece) (c : RingCmd) : CmbRes × State :=
  if oneRegion u l then cpContribute u l (cmdPayload c) (bits (cW c 3) 63 32) (bits (cW c 3) 15 8) else (.refused, u)

section
variable {t u : State} {p : Piece} {l : List Piece} (h : CmdStarts s r c 3) (hpriv : (cmdRing s r c).priv = false)
  (hfit : CmbCmdFits c)
  (hfirst : cPieces (takeCmd s r c) none (cmdRing s r c).ctx (bits (cW c 2) 56 0) 1 = (.ok [p], t))
  (hall : cPieces t none (cmdRing s r c).ctx (bits (cW c 2) 56 0)
    (if (cmbFind t p.a).any (fun e => e.2.widen) then 2 * cmdLen c else cmdLen c) = (.ok l, u))
include h hpriv hfit hfirst hall

/-- A CMB whose region is found completes by what the home answers to its payload. -/
theorem execCmdCmb_of_pieces : execCmdCmb r s = .next (
    if (cmbSent u l c).1 ≠ .accepted then cmdDone s r c (cmbSent u l c).2 8 (cmbDetail (cmbSent u l c).1)
    else cmdDone s r c (cmbSent u l c).2 0 0) := by
  obtain ⟨hleast, hmost, h3, h2, htail, hnodone⟩ := hfit
  have hread (b : Bool) (hb : b = (cmbFind t p.a).any fun e => e.2.widen) :
      cPieces t none (cmdRing s r c).ctx (bits (cW c 2) 56 0) (if b then 2 * bits (cW c 3) 7 0 else bits (cW c 3) 7 0)
        = (.ok l, u) := hb ▸ hall
  refine congrArg ok ((runCmd_of_starts h).trans ((if_neg ?_).trans ?_))
  · unfold cmdLen at *
    simp [hpriv, hleast, hmost, h3, h2, htail]
  · simp only [hfirst]
    rw [hread]
    · simp only [hnodone, Bool.false_eq_true, if_false]
      rfl
    · cases cmbFind t p.a <;> rfl

theorem execCmdCmb_of_two_regions (hone : oneRegion u l = false) : execCmdCmb r s = .next (cmdDone s r c u 8 3) := by
  rw [execCmdCmb_of_pieces h hpriv hfit hfirst hall]
  simp [cmbSent, hone, cmbDetail]

theorem execCmdCmb_of_accepted (hone : oneRegion u l = true) :
    let sent := cpContribute u l (cmdPayload c) (bits (cW c 3) 63 32) (bits (cW c 3) 15 8)
    sent.1 = .accepted → execCmdCmb r s = .next (cmdDone s r c sent.2 0 0) := by
  intro sent hsent
  rw [execCmdCmb_of_pieces h hpriv hfit hfirst hall]
  simp [cmbSent, hone, sent, hsent]

theorem execCmdCmb_of_refused (hone : oneRegion u l = true) :
    let sent := cpContribute u l (cmdPayload c) (bits (cW c 3) 63 32) (bits (cW c 3) 15 8)
    sent.1 ≠ .accepted → execCmdCmb r s = .next (cmdDone s r c sent.2 8 (cmbDetail sent.1)) := by
  intro sent hsent
  rw [execCmdCmb_of_pieces h hpriv hfit hfirst hall]
  simp [cmbSent, hone, sent, hsent]
end

/-! ### WAIT (R365) -/

section
variable {t : State} {d : List PByte}

theorem execCmdWait_of_readable (h : CmdStarts s r c 4) (h2 : bits (cW c 2) 63 57 = 0) (halign : cW c 2 % 8 = 0)
    (h4 : bits (cW c 4) 63 32 = 0) (hzero : wordsZero c [5, 6, 7] = true)
    (hv : waitValue (takeCmd s r c) (cmdRing s r c) c = (some d, t)) : execCmdWait r s = .next t := by
  refine congrArg ok ((runCmd_of_starts h).trans ((if_neg (by simp [h2, halign, h4, hzero])).trans ?_))
  rw [hv]

section
variable (h : waiting s r = some c)
include h

/-- A poll that reads the location completes the WAIT where VALUE is reached without poison. -/
theorem execCmdWaitPoll_of_read (hv : waitValue s (ringOf s r) c = (some d, t)) : execCmdWaitPoll r s =
    .next (if !d.any Prod.snd && decide (cW c 3 ≤ leNat (d.map Prod.fst)) then complete t r 0 0 (ringOf s r).ctx 0 else t) := by
  simp only [execCmdWaitPoll, h, hv, ok]

theorem execCmdWaitPoll_of_reached (hv : waitValue s (ringOf s r) c = (some d, t)) (hclean : d.any Prod.snd = false)
    (hval : cW c 3 ≤ leNat (d.map Prod.fst)) : execCmdWaitPoll r s = .next (complete t r 0 0 (ringOf s r).ctx 0) := by
  rw [execCmdWaitPoll_of_read h hv, if_pos (by simp only [hclean, hval]; decide)]

theorem execCmdWaitPoll_of_below (hv : waitValue s (ringOf s r) c = (some d, t)) (hval : leNat (d.map Prod.fst) < cW c 3) :
    execCmdWaitPoll r s = .next t := by
  rw [execCmdWaitPoll_of_read h hv, if_neg (by simp [hval])]

theorem execCmdWaitTimeout_of_limit (hlim : bits (cW c 4) 31 0 ≠ 0) :
    execCmdWaitTimeout r s = .next (complete s r 10 0 (ringOf s r).ctx 0) := by
  simp only [execCmdWaitTimeout, h, if_neg hlim, ok]

theorem execCmdWaitTimeout_of_no_limit (hlim : bits (cW c 4) 31 0 = 0) : execCmdWaitTimeout r s = .next s := by
  simp only [execCmdWaitTimeout, h, if_pos hlim, ok]
end
end

/-! ### CREATE and DESTROY (R366) -/

theorem execCmdCreate_of_user (h : CmdStarts s r c 5) (hpriv : (cmdRing s r c).priv = false) :
    execCmdCreate r s = .next (cmdDone s r c (takeCmd s r c) 2 0) :=
  congrArg ok ((runCmd_of_starts h).trans (if_pos (by simp [hpriv])))

/-- The address of a CREATE's scheduling block. -/
def blockPa (c : RingCmd) : Nat := bits (cW c 2) 43 0

/-- A CREATE's operands on a privileged ring, with a scheduling block that memory holds unpoisoned. -/
structure CreateFits (s : State) (x : Ring) (c : RingCmd) : Prop where
  priv : x.priv = true
  word2 : bits (cW c 2) 63 44 = 0
  aligned : blockPa c % 64 = 0
  zero : wordsZero c [4, 5, 6, 7] = true
  present : (canon s.map (blockPa c)).isSome = true
  clean : (physRead s (blockPa c) 64).any Prod.snd = false

/-- The words of a CREATE's scheduling block. -/
def createWords (s : State) (c : RingCmd) : List W64 :=
  (chunk 8 8 (physRead s (blockPa c) 64)).map fun l => BitVec.ofNat 64 (leNat (l.map Prod.fst))

/-- The context that a CREATE describes. -/
def createCtx (s : State) (c : RingCmd) : Ctx := ctxOfBlock s (createWords s c) (c.words.getD 3 0)

/-- The result of a CREATE's admission. -/
def createResult (s : State) (c : RingCmd) : Nat := admission s (createWords s c) (createCtx s c)

/-- The context admitted under the lowest free number, which keeps its account's sequence. -/
def createdCtx (s : State) (c : RingCmd) : State :=
  let k := createCtx s c
  { s with ctxs := sset {} s.ctxs (freeCtx s) { k with acct := { k.acct with seq := (ctxOf s (freeCtx s)).acct.seq } } }

section
variable (h : CmdStarts s r c 5) (hfit : CreateFits (takeCmd s r c) (cmdRing s r c) c)
include h hfit

/-- A CREATE by the result of the admission and the first stage of the context's device context. -/
theorem execCmdCreate_of_fits : execCmdCreate r s = .next (
    let v := takeCmd s r c
    let n := createResult v c
    let res := if n ≠ 0 then n else if bareDc v (freeCtx v) then 1 else 0
    if res ≠ 0 then complete v r 6 res 0 0
    else complete (writeAccount (createdCtx v c) (freeCtx v)) r 0 0 (freeCtx v) (freeCtx v)) := by
  obtain ⟨hpriv, h2, halign, hzero, hpresent, hclean⟩ := hfit
  have hplace : (canon (takeCmd s r c).map (blockPa c)).isNone = false := by
    rw [← Option.not_isSome, hpresent, Bool.not_true]
  refine congrArg ok ((runCmd_of_starts h).trans ?_)
  unfold createResult createdCtx createCtx createWords
  unfold blockPa at *
  simp [hpriv, h2, halign, hzero, hplace, hclean]

theorem execCmdCreate_of_admitted (hadm : createResult (takeCmd s r c) c = 0)
    (hbare : bareDc (takeCmd s r c) (freeCtx (takeCmd s r c)) = false) : execCmdCreate r s =
      .next (complete (writeAccount (createdCtx (takeCmd s r c) c) (freeCtx (takeCmd s r c))) r 0 0 (freeCtx (takeCmd s r c))
        (freeCtx (takeCmd s r c))) := by
  simp [execCmdCreate_of_fits h hfit, hadm, hbare]

theorem execCmdCreate_of_bare (hadm : createResult (takeCmd s r c) c = 0)
    (hbare : bareDc (takeCmd s r c) (freeCtx (takeCmd s r c)) = true) :
    execCmdCreate r s = .next (complete (takeCmd s r c) r 6 1 0 0) := by
  simp [execCmdCreate_of_fits h hfit, hadm, hbare]

theorem execCmdCreate_of_not_admitted {n : Nat}
    (hadm : createResult (takeCmd s r c) c = n) (hn : n ≠ 0) :
    execCmdCreate r s = .next (complete (takeCmd s r c) r 6 n 0 0) := by
  simp [execCmdCreate_of_fits h hfit, hadm, hn]
end

section
variable (h : CmdStarts s r c 6) (hstop : destroyRuns s r = none)
include h hstop

/-- A DESTROY whose context has no running streams is the ring's next command. -/
theorem execCmdDestroy_of_starts : execCmdDestroy r s = .next (
    let v := takeCmd s r c
    let n := bits (cW c 2) 11 0
    if !(cmdRing s r c).priv then cmdDone s r c v 2 0
    else if bits (cW c 2) 63 12 ≠ 0 ∨ !wordsZero c [3, 4, 5, 6, 7] then complete v r 1 0 0 0
    else if !(ctxOf v n).admitted then complete v r 3 3 n 0
    else complete (destroyCtx v n) r 0 0 n 0) := by
  simp only [execCmdDestroy, hstop, runCmd_of_starts h, ok]
  rfl

theorem execCmdDestroy_of_user (hpriv : (cmdRing s r c).priv = false) :
    execCmdDestroy r s = .next (cmdDone s r c (takeCmd s r c) 2 0) := by
  simp [execCmdDestroy_of_starts h hstop, hpriv]

section
variable {n : Nat} (hpriv : (cmdRing s r c).priv = true) (hn : cW c 2 = n) (hlow : bits n 11 0 = n) (hhigh : bits n 63 12 = 0)
  (hzero : wordsZero c [3, 4, 5, 6, 7] = true)
include hpriv hn hlow hhigh hzero

theorem execCmdDestroy_of_admitted (hadm : (ctxOf (takeCmd s r c) n).admitted = true) :
    execCmdDestroy r s = .next (complete (destroyCtx (takeCmd s r c) n) r 0 0 n 0) := by
  simp [execCmdDestroy_of_starts h hstop, hpriv, hn, hlow, hhigh, hzero, hadm]

theorem execCmdDestroy_of_not_admitted (hadm : (ctxOf (takeCmd s r c) n).admitted = false) :
    execCmdDestroy r s = .next (complete (takeCmd s r c) r 3 3 n 0) := by
  simp [execCmdDestroy_of_starts h hstop, hpriv, hn, hlow, hhigh, hzero, hadm]
end
end

/-! ### LAUNCH (R362, R363) -/

/-- A LAUNCH of a user ring waits: its paddock is STOPPED, or its context has a LAUNCH, in progress or of an earlier doorbell. -/
def launchWaits (s : State) (r : Nat) : Bool :=
  let x := ringOf s r
  let k := ctxOf s x.ctx
  !x.priv && k.admitted && ((padOf s k.paddock).st == .stopped || k.launch.isSome || !launchTurn s r)

theorem execCmdLaunch_of_waits (h : launchWaits s r = true) : execCmdLaunch r s = .next s :=
  congrArg ok (if_pos h)

/-- A LAUNCH's operands on a user ring without a table, for an admitted context. -/
structure LaunchFits (s : State) (x : Ring) (c : RingCmd) : Prop where
  priv : x.priv = false
  word2 : bits (cW c 2) 63 57 = 0
  word3 : bits (cW c 3) 63 1 = 0
  chain : cChain c = 0
  admitted : (ctxOf s x.ctx).admitted = true

/-- Eight headers at one address. -/
def sameHeaders (c : RingCmd) : List Nat := (List.range 8).map fun _ => bits (cW c 2) 56 0

/-- The context is RUNNABLE with the LAUNCH, its budget debited. -/
def launchedCtx (r worst : Nat) (c : RingCmd) (q : Ctx) : Ctx :=
  { q with
    faulted := false, unrec := false, st := .runnable,
    acct := if q.acct.guar != 1 then q.acct
      else if q.acct.budget < worst then { q.acct with guar := 2 }
      else { q.acct with budget := q.acct.budget - worst },
    launch := some { ring := r, hdrs := sameHeaders c, billed0 := q.acct.billed,
                     args := (List.range 4).map (fun i => c.words.getD (4 + i) 0) ++ (List.range 4).map fun _ => 0 } }

section
variable (hturn : launchWaits s r = false) (h : CmdStarts s r c 1) (hfit : LaunchFits (takeCmd s r c) (cmdRing s r c) c)
include hturn h hfit

theorem execCmdLaunch_of_stranded (hst : (ctxOf (takeCmd s r c) (cmdRing s r c).ctx).st = .stranded) :
    execCmdLaunch r s = .next (cmdDone s r c (takeCmd s r c) 3 2) := by
  obtain ⟨hpriv, h2, h3, hchain, hadm⟩ := hfit
  refine congrArg ok ((if_neg (Bool.eq_false_iff.mp hturn)).trans ((runCmd_of_starts h).trans ?_))
  simp [hpriv, h2, h3, hchain, hadm, hst, cmdDone]

section
variable (hst : (ctxOf (takeCmd s r c) (cmdRing s r c).ctx).st ≠ .stranded)
include hst

theorem execCmdLaunch_of_faulted (hfault : (ctxOf (takeCmd s r c) (cmdRing s r c).ctx).faulted = true)
    (hclear : bitAt (cW c 0) 13 = false) : execCmdLaunch r s = .next (cmdDone s r c (takeCmd s r c) 3 1) := by
  obtain ⟨hpriv, h2, h3, hchain, hadm⟩ := hfit
  refine congrArg ok ((if_neg (Bool.eq_false_iff.mp hturn)).trans ((runCmd_of_starts h).trans ?_))
  simp [hpriv, h2, h3, hchain, hadm, hst, hfault, hclear, cmdDone]

/-- A LAUNCH whose headers are good makes the context RUNNABLE and stays in progress. -/
theorem execCmdLaunch_of_good {t : State} {worst : Nat} (hfault : (ctxOf (takeCmd s r c) (cmdRing s r c).ctx).faulted = false)
    (htab : bitAt (cW c 3) 0 = false) (hguar : (ctxOf (takeCmd s r c) (cmdRing s r c).ctx).acct.guar ≠ 1)
    (hhead : checkHeaders (takeCmd s r c) (cmdRing s r c).ctx (sameHeaders c)
      (maskList 8 (ctxOf (takeCmd s r c) (cmdRing s r c).ctx).sched.leMask) = (.ok worst, t)) :
    execCmdLaunch r s = .next (modCtx t (cmdRing s r c).ctx (launchedCtx r worst c)) := by
  obtain ⟨hpriv, h2, h3, hchain, hadm⟩ := hfit
  refine congrArg ok ((if_neg (Bool.eq_false_iff.mp hturn)).trans ((runCmd_of_starts h).trans ((if_neg ?_).trans
    ((if_neg ?_).trans ((if_neg ?_).trans ((if_neg ?_).trans ?_))))))
  · simp [hpriv, h2, h3, hchain]
  · simp [hadm]
  · simp [hst]
  · simp [hfault]
  · unfold sameHeaders at hhead
    simp only [htab, Bool.false_eq_true, if_false, hhead, hchain, hguar, false_and, Nat.zero_ne_one]
    rfl
end
end

section
variable {ctx : Nat} {k : Launch} (h : (ctxOf s ctx).launch = some k) (hpow : powered s = true)
  (hflag : flagWaits s ctx k.ring = false)
include h hpow hflag

theorem execLaunchComplete_of_faulted (hfault : (ctxOf s ctx).faulted = true) :
    execLaunchComplete ctx s = .next (finishLaunch (endStreams s ctx) ctx 5 0 (faultResult s ctx)) := by
  simp [execLaunchComplete, h, hpow, hflag, hfault, ok]

theorem execLaunchComplete_of_ended (hfault : (ctxOf s ctx).faulted = false) (hstart : k.started = true)
    (hgang : (ctxOf s ctx).onGang = true) (hidle : (gang (ctxOf s ctx)).all (fun ge => (eng s ge).seq.state == .idle) = true) :
    execLaunchComplete ctx s = .next (finishLaunch s ctx 0 0 ((ctxOf s ctx).acct.billed - k.billed0).toNat) := by
  simp only [execLaunchComplete, h, hpow, hflag, hfault, hstart, hgang, hidle, ok]
  rfl
end
end

/-! ### The statement -/

/-- Settles O46: the next command by what holds or refuses it, then each opcode by its operands and what its accesses answer. -/
theorem commandsCompleteWithTheirStatus : Obligations.CommandsCompleteWithTheirStatus := by
  intro s t u r n ctx worst c l l2 p d k x s1 y done next good all len pay sent a blk words K made C waits kern
  have isNext (op : Nat) (h : next op) : CmdIsNext s r c op := ⟨h.1, h.2.1, h.2.2.1, h.2.2.2⟩
  have starts (op : Nat) (h : good op) : CmdStarts s r c op := ⟨isNext op h.1, h.2.1, h.2.2⟩
  refine ⟨?each, execCmdUnknownOpcode_of_unlisted, fun h => execCmdNop_of_zero (starts 0 h), ?write,
    fun h => execCmdCmb_of_privileged (starts 3 h), ?cmb, fun h => execCmdWait_of_readable (starts 4 h), ?poll,
    execCmdWaitTimeout_of_limit, execCmdWaitTimeout_of_no_limit, ?user, ?create, fun m => execCmdDestroy_of_runs, ?destroy,
    execCmdLaunch_of_waits, ?launch, ?complete⟩
  case each =>
    intro i hi hstop
    obtain ⟨work, hwork⟩ := exec_plainCmd i hi hstop
    rw [hwork]
    exact ⟨fun h => congrArg ok (runCmd_of_no_command _ _ _ _ h), fun h => congrArg ok (runCmd_of_poison h),
      fun h hwait => congrArg ok (runCmd_of_waits h hwait), fun h hbad => congrArg ok (runCmd_of_bad_header (isNext _ h) hbad),
      fun h hhead hplace => congrArg ok (runCmd_of_no_place (isNext _ h) hhead hplace)⟩
  case write =>
    intro h hsome hmost h3 h2 htail
    have hfit : WriteFits c := ⟨hsome, hmost, h3, h2, htail⟩
    exact ⟨execCmdWrite_of_failed_check (starts 2 h) hfit, execCmdWrite_of_pieces (starts 2 h) hfit⟩
  case cmb =>
    intro h hpriv hleast hmost hw3 hw2 htail hdone hfirst hall
    have hfit : CmbCmdFits c := ⟨hleast, hmost, hw3, hw2, htail, hdone⟩
    have h3 := starts 3 h
    exact ⟨execCmdCmb_of_two_regions h3 hpriv hfit hfirst hall, execCmdCmb_of_accepted h3 hpriv hfit hfirst hall,
      execCmdCmb_of_refused h3 hpriv hfit hfirst hall⟩
  case poll =>
    intro h hv
    exact ⟨execCmdWaitPoll_of_reached h hv, execCmdWaitPoll_of_below h hv⟩
  case user =>
    intro hpriv
    exact ⟨fun h => execCmdCreate_of_user (starts 5 h) hpriv, fun h hstop => execCmdDestroy_of_user (starts 6 h) hstop hpriv⟩
  case create =>
    intro h hpriv h2 halign hzero hpresent hclean
    have hfit : CreateFits s1 y c := ⟨hpriv, h2, halign, hzero, hpresent, hclean⟩
    exact ⟨execCmdCreate_of_admitted (starts 5 h) hfit, execCmdCreate_of_bare (starts 5 h) hfit,
      execCmdCreate_of_not_admitted (starts 5 h) hfit⟩
  case destroy =>
    intro h hstop hpriv hn _ hlow hhigh hzero
    exact ⟨execCmdDestroy_of_admitted (starts 6 h) hstop hpriv hn hlow hhigh hzero,
      execCmdDestroy_of_not_admitted (starts 6 h) hstop hpriv hn hlow hhigh hzero⟩
  case launch =>
    intro hturn h hpriv h2 h3 hchain hadm
    have hfit : LaunchFits s1 y c := ⟨hpriv, h2, h3, hchain, hadm⟩
    exact ⟨execCmdLaunch_of_stranded hturn (starts 1 h) hfit, execCmdLaunch_of_faulted hturn (starts 1 h) hfit,
      fun hst => execCmdLaunch_of_good hturn (starts 1 h) hfit hst⟩
  case complete =>
    intro h hpow hflag
    exact ⟨execLaunchComplete_of_faulted h hpow hflag, execLaunchComplete_of_ended h hpow hflag⟩

end Sys2Proof.Machine
end

section
/-! The vector chain (R129, R132, R135, R140, R145, R148, R154 to R157, R163): curve loads, the start of an instruction and its
refusals, its groups and completion, and its hardware faults. -/

namespace Sys2Proof.Machine

/-! ### Curve loads (R145) -/

/-- A curve load heads the queue of an idle chain, its slot is not stopped, and its descriptor names memory and is well formed. -/
structure CurveIsNext (s : State) (ge slot : Nat) (d : List W64) (g : Tag) (q : List ChainOp) : Prop where
  idle : (eng s ge).chain.cur = none
  queue : (eng s ge).chain.queue = .curve slot d g :: q
  runs : slotStopped s ge = false
  reserved : dReserved d = false
  space : dSpace d = 1

/-- The bytes of a curve image as the load reads them: free where a race leaves them undefined. -/
def curveBytes (e : Engine) (d : List W64) (g : Tag) (img : List PByte) : List Byte :=
  (raceBytes e uChain g.stamp true (dBase d) img).map Prod.fst

section
variable {s t : State} {ge slot : Nat} {d : List W64} {g : Tag} {q : List ChainOp} {img : List PByte}

/-- A load whose image is read replaces its slot, or raises CURVE_LOAD; either way it leaves the queue. -/
theorem execCurveSlotLoad_of_read (h : CurveIsNext s ge slot d g q) (hread : vRead s ge (dBase d) 1088 = (.ok img, t)) :
    execCurveSlotLoad ge s = .next (
      if img.any Prod.snd || curveImageBad (curveBytes (eng s ge) d g img)
      then modEng (raiseChain t ge 0x27 g (dBase d)) ge popChain
      else modEng (modEng t ge fun x =>
        { x with curves := sset {} x.curves slot (curveOfImage (curveBytes (eng s ge) d g img)) }) ge popChain) := by
  simp [execCurveSlotLoad, h.idle, h.queue, h.runs, h.reserved, h.space, hread, curveBytes, ok]

theorem execCurveSlotLoad_of_good (h : CurveIsNext s ge slot d g q) (hread : vRead s ge (dBase d) 1088 = (.ok img, t))
    (hgood : (img.any Prod.snd || curveImageBad (curveBytes (eng s ge) d g img)) = false) :
    execCurveSlotLoad ge s = .next (modEng (modEng t ge fun x =>
      { x with curves := sset {} x.curves slot (curveOfImage (curveBytes (eng s ge) d g img)) }) ge popChain) := by
  rw [execCurveSlotLoad_of_read h hread, hgood]
  rfl

theorem execCurveSlotLoad_of_bad (h : CurveIsNext s ge slot d g q) (hread : vRead s ge (dBase d) 1088 = (.ok img, t))
    (hbad : (img.any Prod.snd || curveImageBad (curveBytes (eng s ge) d g img)) = true) :
    execCurveSlotLoad ge s = .next (modEng (raiseChain t ge 0x27 g (dBase d)) ge popChain) := by
  rw [execCurveSlotLoad_of_read h hread, hbad]
  rfl
end

/-! ### The start (R129, R135, R140, R157) -/

/-- A chain instruction heads the queue of an idle chain, and neither its slot nor rein holds issue. -/
structure RunIsNext (s : State) (ge a n : Nat) (descs : List (List W64)) (regs : List W64) (pend : Nat) (g : Tag)
    (q : List ChainOp) : Prop where
  calm : Calm s ge
  idle : (eng s ge).chain.cur = none
  queue : (eng s ge).chain.queue = .run a n descs regs pend g :: q

section
variable {s : State} {ge a n pend : Nat} {descs : List (List W64)} {regs : List W64} {g : Tag} {q : List ChainOp}

/-- After a full-save stop no instruction starts. -/
theorem execChainInstrStart_of_stopped (h : RunIsNext s ge a n descs regs pend g q) (hstop : (eng s ge).chain.stopped = true) :
    execChainInstrStart ge s = .next s := by
  simp [execChainInstrStart, h.idle, h.queue, issueHeld_of_calm h.calm, hstop, ok]

/-- With every earlier format load done the program is taken up. -/
theorem execChainInstrStart_of_free (h : RunIsNext s ge a n descs regs pend g q) (hfree : (eng s ge).chain.stopped = false)
    (hfmt : ∀ l ∈ (eng s ge).units.fmtLoads, g.stamp ≤ l.2.2.stamp) :
    execChainInstrStart ge s = .next (chainProgram s ge (eng s ge) a n descs regs pend g) := by
  have hnone : (eng s ge).units.fmtLoads.any (fun l => decide (l.2.2.stamp < g.stamp)) = false :=
    List.any_eq_false.mpr fun l hl => by simpa using hfmt l hl
  simp only [execChainInstrStart, h.idle, h.queue, issueHeld_of_calm h.calm, hfree, hnone]
  rfl
end

/-! What a program asks of its place, its words and its tiles -/

/-- The program that an instruction reads at its address. -/
def progAt (e : Engine) (a : Nat) (g : Tag) : ProgF := progF (spadWords (view e uChain g.stamp) a 16)

/-- The descriptor in a register as it was at issue. -/
def descAt (descs : List (List W64)) (i : Nat) : List W64 := descs.getD i []

/-- The tiles whose finished-tile entries the program itself consumes. -/
def finishedReads (p : ProgF) (descs : List (List W64)) : List (Nat × Nat) :=
  (([p.in0, p.in1, p.in2].filter fun f => f.kind == 2).map fun f =>
    (dArray (descAt descs f.dreg), dTile (descAt descs f.dreg))).eraseDups

/-- What each stream of the program finds at its tile. -/
def streamWaits (e : Engine) (p : ProgF) (descs : List (List W64)) (g : Tag) : List TileWait :=
  ([p.in0, p.in1, p.in2].map fun f =>
    tileWait e e.chain.plainRead (finishedReads p descs) g.stamp false f (descAt descs f.dreg))
  ++ ([p.out0, p.out1].map fun f =>
    tileWait e e.chain.plainRead (finishedReads p descs) g.stamp true f (descAt descs f.dreg))

section
variable {s : State} {ge a n pend : Nat} {e : Engine} {descs : List (List W64)} {regs : List W64} {g : Tag}

theorem chainProgram_of_misaligned (h : a % 128 ≠ 0) :
    chainProgram s ge e a n descs regs pend g = refuseChain s ge pend g (0, 0x22, a) :=
  if_pos h

section
variable (halign : a % 128 = 0)
include halign

theorem chainProgram_of_unbound (h : spadOk e a 128 = false) :
    chainProgram s ge e a n descs regs pend g = refuseChain s ge pend g (0, 0x21, a) := by
  simp [chainProgram, halign, h, cSPAD]

variable (hin : spadOk e a 128 = true)
include hin

theorem chainProgram_of_bad (h : progBad (progAt e a g) = true) :
    chainProgram s ge e a n descs regs pend g = refuseChain s ge pend g (2, 0x20, 0) := by
  unfold progAt at h
  simp [chainProgram, halign, hin, h]

/-- A program that breaks no rule of its own is held or refused by its tiles, then by its streams, then by its outputs. -/
theorem chainProgram_of_sound (hsound : progBad (progAt e a g) = false) :
    chainProgram s ge e a n descs regs pend g =
      if (streamWaits e (progAt e a g) descs g).contains .deadlock then refuseChain s ge pend g (2, 0x26, 0)
      else if (streamWaits e (progAt e a g) descs g).contains .wait then s
      else match startBad e (progAt e a g) n (descAt descs) with
        | some r => refuseChain s ge pend g r
        | none => chainRegions s ge a n descs regs pend g (progAt e a g) (finishedReads (progAt e a g) descs) := by
  unfold chainProgram
  rw [if_neg (by simp [halign]), if_neg (by simp [hin])]
  exact if_neg (by simpa [progAt] using hsound)

section
variable (hsound : progBad (progAt e a g) = false)
include hsound

theorem chainProgram_of_deadlock (hdead : (streamWaits e (progAt e a g) descs g).contains .deadlock = true) :
    chainProgram s ge e a n descs regs pend g = refuseChain s ge pend g (2, 0x26, 0) := by
  rw [chainProgram_of_sound halign hin hsound, if_pos hdead]

variable (hlive : (streamWaits e (progAt e a g) descs g).contains .deadlock = false)
include hlive

theorem chainProgram_of_wait (hwait : (streamWaits e (progAt e a g) descs g).contains .wait = true) :
    chainProgram s ge e a n descs regs pend g = s := by
  rw [chainProgram_of_sound halign hin hsound, hlive, hwait]
  rfl

theorem chainProgram_of_ready (hready : (streamWaits e (progAt e a g) descs g).contains .wait = false)
    (hstart : startBad e (progAt e a g) n (descAt descs) = none) :
    chainProgram s ge e a n descs regs pend g
      = chainRegions s ge a n descs regs pend g (progAt e a g) (finishedReads (progAt e a g) descs) := by
  rw [chainProgram_of_sound halign hin hsound, hlive, hready, hstart]
  rfl
end
end
end

/-! What the start takes over -/

/-- What a program computes from its inputs as the engine reads them. -/
def workOf (s : State) (ge n : Nat) (p : ProgF) (descs : List (List W64)) (regs : List W64) (g : Tag) (c0 c1 : Nat) : ChainWork :=
  chainCompute (view (eng s ge) uChain g.stamp) (ctxOf s (eng s ge).seq.context).seed p n (descAt descs) regs c0 c1

/-- The ranges that a program's inputs read. -/
def readsOf (e : Engine) (p : ProgF) (n : Nat) (descs : List (List W64)) : List (Nat × Nat) :=
  [p.in0, p.in1, p.in2].flatMap fun f => inRanges e f (descAt descs f.dreg) n

/-- The outputs of a program stay off its inputs, in the tiles and in the scratchpad. -/
def Apart (e : Engine) (p : ProgF) (n : Nat) (descs : List (List W64)) (w : ChainWork) : Prop :=
  (tilesRead p (descAt descs)).any (tilesWritten p (descAt descs)).contains = false
  ∧ rowsMeet (readsOf e p n descs) (outRanges w.1) = false

/-- The engine with the operations on the tiles given closed (R184). -/
def closeTiles (e : Engine) (l : List (Nat × Nat)) : Engine :=
  l.foldl (fun z b => setAcc z b.1 (closeOps (accOf z b.1) b.2)) e

/-- Closing operations leaves all but the accumulators alone. -/
theorem closeTiles_eq (e : Engine) (l : List (Nat × Nat)) : closeTiles e l = { e with accs := (closeTiles e l).accs } := by
  have hkept : { closeTiles e l with accs := [] } = { e with accs := [] } :=
    foldl_keeps (fun x : Engine => { x with accs := [] }) (fun z b => setAcc z b.1 (closeOps (accOf z b.1) b.2))
      (fun _ _ => rfl) l e
  exact congrArg (fun x : Engine => { x with accs := (closeTiles e l).accs }) hkept

/-- The engine takes over an instruction at its place in the order: it is in progress with no group entered, and counted. -/
def takeOver (start n : Nat) (op : ChainOp) (reads own : List (Nat × Nat)) (inplace : Bool) (w : ChainWork)
    (e : Engine) : Engine :=
  let run : ChainRun := { op := op, reads := reads, start := start, own := own, outs := w.1, tally := w.2.2, inplace := inplace,
                          groups := (n + 127) / 128, entered := 0, reexec := e.chain.reexec, shared := 0 }
  { e with chain := { chainFlags e.chain w.2.1 with
      queue := e.chain.queue.tail, cur := some run, instrSeq := e.chain.instrSeq + 1, reexec := false, plainRead := false } }

/-- The start changes the chain and the accumulators of the tiles written, and nothing else of the engine. -/
theorem chainTake_eq (s : State) (ge n : Nat) (op : ChainOp) (reads own tiles : List (Nat × Nat)) (inplace : Bool)
    (w : ChainWork) :
    chainTake s ge n op reads own tiles inplace w = setEng s ge (takeOver s.stamp n op reads own inplace w
      { eng s ge with accs := (closeTiles (eng s ge) tiles).accs }) := by
  rw [← closeTiles_eq]
  rfl

section
variable {s : State} {ge a n pend c0 c1 : Nat} {descs : List (List W64)} {regs : List W64} {g : Tag} {p : ProgF}
  {own : List (Nat × Nat)}

/-- Outputs that are mapped and meet the inputs only where INPLACE allows are taken over. -/
theorem chainOutputs_of_mapped (hmapped : outsMapped ge (workOf s ge n p descs regs g c0 c1).1 s = (none, s))
    (hplace : p.inplace = true ∨ Apart (eng s ge) p n descs (workOf s ge n p descs regs g c0 c1)) :
    chainOutputs s ge a n descs regs pend g p own c0 c1 = setEng s ge (takeOver s.stamp n (.run a n descs regs pend g)
      (readsOf (eng s ge) p n descs) own p.inplace (workOf s ge n p descs regs g c0 c1)
      { eng s ge with accs := (closeTiles (eng s ge) (tilesWritten p (descAt descs))).accs }) := by
  have hallowed : (((tilesRead p (descAt descs)).any (tilesWritten p (descAt descs)).contains
      || rowsMeet (readsOf (eng s ge) p n descs) (outRanges (workOf s ge n p descs regs g c0 c1).1)) && !p.inplace) = false := by
    obtain hin | ⟨htiles, hrows⟩ := hplace
    · simp [hin]
    · simp [htiles, hrows]
  unfold workOf descAt at hmapped
  rw [← chainTake_eq]
  unfold chainOutputs
  dsimp only
  rw [hmapped]
  exact if_neg (Bool.eq_false_iff.mp hallowed)

/-- Combine outputs that find their regions let the outputs follow. -/
theorem chainRegions_of_steps (h0 : combineStep s ge p.out0 (descAt descs p.out0.dreg) = (.ok c0, s))
    (h1 : combineStep s ge p.out1 (descAt descs p.out1.dreg) = (.ok c1, s)) :
    chainRegions s ge a n descs regs pend g p own = chainOutputs s ge a n descs regs pend g p own c0 c1 := by
  unfold descAt at h0 h1
  simp only [chainRegions, h0, h1]
end

/-! ### Groups and completion (R132, R148, R154) -/

section
variable {s : State} {ge : Nat} {x : ChainGroups}

theorem execChainInstrComplete_of_idle (h : (eng s ge).chain.cur = none) : execChainInstrComplete ge x s = .next s := by
  simp [execChainInstrComplete, h, ok]

section
variable {r : ChainRun} (hcur : (eng s ge).chain.cur = some r)
include hcur

/-- A full-save stop, a slot that stands still or a fence keeps every group out. -/
theorem execChainInstrComplete_of_held (hheld : (eng s ge).chain.stopped = true ∨ slotStopped s ge = true
      ∨ fenceHolds s (eng s ge).seq.context (chainTag r.op).1.stamp = true) :
    execChainInstrComplete ge x s = .next s := by
  have hany : ((eng s ge).chain.stopped || slotStopped s ge
      || fenceHolds s (eng s ge).seq.context (chainTag r.op).1.stamp) = true := by simpa [or_assoc] using hheld
  simp only [execChainInstrComplete, hcur, hany, ok]
  rfl

/-- Groups that enter write their outputs; the last of them ends the instruction. -/
theorem execChainInstrComplete_of_entering (hfree : (eng s ge).chain.stopped = false) (hruns : slotStopped s ge = false)
    (hfence : fenceHolds s (eng s ge).seq.context (chainTag r.op).1.stamp = false) (hrace : lateRace (eng s ge) r = false) :
    execChainInstrComplete ge x s = .next (
      let k := min x.groups (r.groups - r.entered)
      let u := writeOuts (modEng s ge fun y => chainEnter y r k x.dry) ge (chainTag r.op).1 false r.entered (r.entered + k) r.outs
      modEng u ge fun y => land (if r.entered + k = r.groups then chainDone y r else y) u.stamp
        (groupSpans (chainTag r.op).1.stamp r.entered (r.entered + k) r.outs)) := by
  simp only [execChainInstrComplete, hcur, hfree, hruns, hfence, hrace, ok]
  rfl
end
end

/-! ### Hardware faults (R156) -/

section
variable {s : State} {ge : Nat} {r : ChainRun} (hcur : (eng s ge).chain.cur = some r)
include hcur

/-- An instruction with INPLACE 0 goes back to the head of the queue, to be re-executed. -/
theorem abandonChain_of_rerun (h : r.inplace = false) :
    abandonChain s ge = modEng (modEng (writeOuts s ge (chainTag r.op).1 true 0 r.groups r.outs) ge fun x =>
      consumeFt (modChain x fun c => { c with cur := none }) r.own) ge fun x => modChain x fun c =>
        { c with queue := r.op :: c.queue, reexec := true, plainRead := true } := by
  simp [abandonChain, hcur, h]

/-- An instruction with INPLACE 1 cannot be run again. -/
theorem abandonChain_of_inplace (h : r.inplace = true) :
    abandonChain s ge = raiseUnrec (modEng (modEng (writeOuts s ge (chainTag r.op).1 true 0 r.groups r.outs) ge fun x =>
      consumeFt (modChain x fun c => { c with cur := none }) r.own) ge fun x =>
        advanceChain 4 (unpend x (chainTag r.op).2)) ge (chainTag r.op).1 := by
  simp [abandonChain, hcur, h]
end

/-! ### The statement -/

/-- Settles O26: the curve load at the head, the start by the first check that holds or refuses it, the groups that enter, and
what a hardware fault abandons. -/
theorem chainInstructionsStartAndComplete : Obligations.ChainInstructionsStartAndComplete := by
  intro s t ge slot a n pend groups dry code c0 c1 d descs regs g q img r e ch pop v p ds op own waits reads work bytes calm
  have isNext (h : calm) (hidle : ch.cur = none) (hq : ch.queue = op :: q) : RunIsNext s ge a n descs regs pend g q :=
    ⟨⟨h.1, h.2⟩, hidle, hq⟩
  refine ⟨?curve, ?start, fun hidle hq h => execChainInstrStart_of_stopped (isNext h hidle hq),
    execChainInstrComplete_of_idle, fun hcur => ⟨execChainInstrComplete_of_held hcur, execChainInstrComplete_of_entering hcur⟩,
    ⟨rfl, rfl, rfl⟩, rfl, fun _ => rfl, fun hcur => ⟨abandonChain_of_rerun hcur, abandonChain_of_inplace hcur⟩⟩
  case curve =>
    intro hidle hq hruns hres hspace hread
    have hnext : CurveIsNext s ge slot d g q := ⟨hidle, hq, hruns, hres, hspace⟩
    exact ⟨execCurveSlotLoad_of_good hnext hread, execCurveSlotLoad_of_bad hnext hread⟩
  case start =>
    intro hidle hq h hfree hfmt
    have hrun : exec (.chainInstrStart ge) s = .next (chainProgram s ge e a n descs regs pend g) :=
      execChainInstrStart_of_free (isNext h hidle hq) hfree hfmt
    have answers {u : State} (hu : chainProgram s ge e a n descs regs pend g = u) : exec (.chainInstrStart ge) s = .next u :=
      hrun.trans (congrArg _ hu)
    refine ⟨fun hmis => answers (chainProgram_of_misaligned hmis),
      fun halign hout => answers (chainProgram_of_unbound halign hout), fun halign hin => ?_⟩
    refine ⟨fun hbad => answers (chainProgram_of_bad halign hin hbad), fun hsound => ?_⟩
    refine ⟨fun hdead => answers (chainProgram_of_deadlock halign hin hsound hdead),
      fun hlive hwait => answers (chainProgram_of_wait halign hin hsound hlive hwait), ?_⟩
    intro hlive hready hstart h0 h1 hmapped hplace
    have hstarts : exec (.chainInstrStart ge) s = .next (chainRegions s ge a n descs regs pend g p own) :=
      answers (chainProgram_of_ready halign hin hsound hlive hready hstart)
    have htaken : chainRegions s ge a n descs regs pend g p own = setEng s ge (takeOver s.stamp n op reads own p.inplace work
        { e with accs := (closeTiles e (tilesWritten p ds)).accs }) :=
      (chainRegions_of_steps h0 h1).trans (chainOutputs_of_mapped hmapped hplace)
    exact ⟨_, hstarts.trans (congrArg _ htaken), rfl, congrArg List.tail hq, rfl, rfl, rfl, rfl⟩

end Sys2Proof.Machine
end

section
/-! The words of a stream's instructions (R172 to R175, R178 to R180): the fields of each class's word, the instruction that the
fields name, and how it is read back from its own word. -/

namespace Sys2Proof

open Sys2Proof.Machine

/-! ### Fields -/

theorem bits_lt (w hi lo : Nat) : bits w hi lo < 2 ^ (hi + 1 - lo) := Nat.mod_lt _ (Nat.two_pow_pos _)

theorem bits_eq (w hi lo : Nat) : bits w hi lo = w / 2 ^ lo % 2 ^ (hi + 1 - lo) := by
  rw [bits, Nat.shiftRight_eq_div_pow]

/-- A word whose upper half is an IMM is a word of 64 bits with that IMM. -/
theorem word_of_halves {low : Nat} (imm : W32) (h : low < 2 ^ 32) :
    low + 2 ^ 32 * imm.toNat < 2 ^ 64 ∧ immOf (low + 2 ^ 32 * imm.toNat) = imm := by
  have himm := imm.isLt
  refine ⟨by omega, BitVec.eq_of_toNat_eq ?_⟩
  rw [immOf, BitVec.toNat_ofNat, bits_eq]
  omega

/-- An instruction of engine ge that its own word names again. -/
def ReadsBack (ge : Nat) (i : Instr) : Prop :=
  i.wf = true ∧ ∃ w, encodeTheser i = some w ∧ w < 2 ^ 64 ∧ decodeTheser ge w = some i

/-! ### CTL (R173) -/

/-- The CTL instruction that the fields name. -/
def ctlInstr (ge op rd ra rb : Nat) (imm : W32) : Option Instr :=
  match op with
  | 0x00 => some (.ctlNop ge)
  | 0x01 => some (.ctlLi ge rd imm)
  | 0x02 => some (.ctlLih ge rd imm)
  | 0x03 => some (.ctlAdd ge rd ra rb)
  | 0x04 => some (.ctlSub ge rd ra rb)
  | 0x05 => some (.ctlMul ge rd ra rb)
  | 0x06 => some (.ctlAnd ge rd ra rb)
  | 0x07 => some (.ctlOr ge rd ra rb)
  | 0x08 => some (.ctlXor ge rd ra rb)
  | 0x09 => some (.ctlAddi ge rd ra imm)
  | 0x0A => some (.ctlSlli ge rd ra imm)
  | 0x0B => some (.ctlSrli ge rd ra imm)
  | 0x0C => some (.ctlSrai ge rd ra imm)
  | 0x0D => some (.ctlAndi ge rd ra imm)
  | 0x10 => some (.ctlBeq ge ra rb imm)
  | 0x11 => some (.ctlBne ge ra rb imm)
  | 0x12 => some (.ctlBlt ge ra rb imm)
  | 0x13 => some (.ctlBge ge ra rb imm)
  | 0x14 => some (.ctlBltu ge ra rb imm)
  | 0x15 => some (.ctlBgeu ge ra rb imm)
  | 0x16 => some (.ctlJal ge rd imm)
  | 0x17 => some (.ctlJr ge ra)
  | 0x18 => some (.ctlLds ge rd ra imm)
  | 0x19 => some (.ctlSts ge ra rb imm)
  | 0x1A => some (.ctlDld ge rd ra imm)
  | 0x1B => some (.ctlDst ge ra rb imm)
  | 0x1C => some (.ctlDsetw ge rd ra imm)
  | 0x1D => some (.ctlDaddw ge rd ra imm)
  | 0x1E => some (.ctlRds ge rd imm)
  | 0x30 => some (.ctlYieldpt ge imm)
  | 0x3E => some (.ctlFault ge imm)
  | 0x3F => some (.ctlEnd ge imm)
  | _ => none

theorem decodeCtl_eq (ge w : Nat) : decodeCtl ge w = if bits w 31 24 ≠ 0 then none else
    ctlInstr ge (bits w 8 3) (bits w 13 9) (bits w 18 14) (bits w 23 19) (immOf w) := rfl

section
variable {ge op rd ra rb : Nat} {imm : W32} {i : Instr} (hfit : ge < 768 ∧ op < 64 ∧ rd < 32 ∧ ra < 32 ∧ rb < 32)
include hfit

theorem decodeTheser_ctlWord : ctlWord op rd ra rb imm < 2 ^ 64 ∧
    decodeTheser ge (ctlWord op rd ra rb imm) = ctlInstr ge op rd ra rb imm := by
  let w := ctlWord op rd ra rb imm
  obtain ⟨hword, himm⟩ : w < 2 ^ 64 ∧ immOf w = imm :=
    word_of_halves (low := 8 * op + 2 ^ 9 * rd + 2 ^ 14 * ra + 2 ^ 19 * rb) imm (by omega)
  have hfields : bits w 2 0 = 0 ∧ bits w 8 3 = op ∧ bits w 13 9 = rd ∧ bits w 18 14 = ra ∧ bits w 23 19 = rb
      ∧ bits w 31 24 = 0 := by
    simp only [bits_eq, w, ctlWord]
    omega
  obtain ⟨hcls, hop, hrd, hra, hrb, hres⟩ := hfields
  refine ⟨hword, ?_⟩
  change decodeTheser ge w = _
  rw [decodeTheser, hcls]
  simp [decodeCtl_eq, hop, hrd, hra, hrb, hres, himm]

theorem readsBack_ctl (hwf : i.wf = true) (henc : encodeTheser i = some (ctlWord op rd ra rb imm))
    (hname : ctlInstr ge op rd ra rb imm = some i) : ReadsBack ge i :=
  have h := decodeTheser_ctlWord (imm := imm) hfit
  ⟨hwf, _, henc, h.1, h.2.trans hname⟩

theorem readsBack_of_ctlInstr (h : ctlInstr ge op rd ra rb imm = some i) : ReadsBack ge i := by
  unfold ctlInstr at h
  split at h
  case h_33 => cases h
  all_goals
    cases h
    refine readsBack_ctl ?_ ?_ rfl rfl
    · omega
    · simp only [Instr.wf, below, Bool.and_eq_true, decide_eq_true_eq]
      omega

omit hfit in
theorem ctlInstr_listed (h : (ctlInstr ge op rd ra rb imm).isSome = true) :
    op ≤ 0x0D ∨ (0x10 ≤ op ∧ op ≤ 0x1E) ∨ op = 0x30 ∨ op = 0x3E ∨ op = 0x3F := by
  unfold ctlInstr at h
  split at h
  case h_33 => cases h
  all_goals decide
end

/-! ### MOV (R174) -/

/-- The MOV instruction that the fields name. -/
def movInstr (ge op dd ds q ra : Nat) (imm : W32) : Option Instr :=
  match op with
  | 0x00 => if imm = 0 then some (.movCopy ge q ds dd) else none
  | 0x01 => if imm = 0 then some (.movFill ge q dd ra) else none
  | 0x02 => some (.movCmb ge q ds dd ra imm)
  | 0x03 => some (.movCdone ge q dd ra imm)
  | 0x04 => if imm = 0 then some (.movCopen ge q ds) else none
  | 0x05 => if imm = 0 then some (.movCclose ge q dd) else none
  | _ => none

theorem decodeMov_eq (ge w : Nat) : decodeMov ge w = if bits w 31 24 ≠ 0 then none else
    movInstr ge (bits w 8 3) (bits w 12 9) (bits w 16 13) (bits w 18 17) (bits w 23 19) (immOf w) := rfl

section
variable {ge op dd ds q ra : Nat} {imm : W32} {i : Instr}
  (hfit : ge < 768 ∧ op < 64 ∧ dd < 16 ∧ ds < 16 ∧ q < 4 ∧ ra < 32)
include hfit

theorem decodeTheser_movWord : movWord op dd ds q ra imm < 2 ^ 64 ∧
    decodeTheser ge (movWord op dd ds q ra imm) = movInstr ge op dd ds q ra imm := by
  let w := movWord op dd ds q ra imm
  obtain ⟨hword, himm⟩ : w < 2 ^ 64 ∧ immOf w = imm :=
    word_of_halves (low := 1 + 8 * op + 2 ^ 9 * dd + 2 ^ 13 * ds + 2 ^ 17 * q + 2 ^ 19 * ra) imm (by omega)
  have hfields : bits w 2 0 = 1 ∧ bits w 8 3 = op ∧ bits w 12 9 = dd ∧ bits w 16 13 = ds ∧ bits w 18 17 = q ∧ bits w 23 19 = ra
      ∧ bits w 31 24 = 0 := by
    simp only [bits_eq, w, movWord]
    omega
  obtain ⟨hcls, hop, hdd, hds, hq, hra, hres⟩ := hfields
  refine ⟨hword, ?_⟩
  change decodeTheser ge w = _
  rw [decodeTheser, hcls]
  simp [decodeMov_eq, hop, hdd, hds, hq, hra, hres, himm]

theorem readsBack_mov (hwf : i.wf = true) (henc : encodeTheser i = some (movWord op dd ds q ra imm))
    (hname : movInstr ge op dd ds q ra imm = some i) : ReadsBack ge i :=
  have h := decodeTheser_movWord (imm := imm) hfit
  ⟨hwf, _, henc, h.1, h.2.trans hname⟩

theorem readsBack_of_movInstr (h : movInstr ge op dd ds q ra imm = some i) : ReadsBack ge i := by
  unfold movInstr at h
  split at h
  case h_7 => cases h
  case h_1 | h_2 | h_5 | h_6 =>
    obtain ⟨rfl, h⟩ := Option.ite_none_right_eq_some.mp h
    cases h
    refine readsBack_mov ?_ ?_ rfl rfl
    · omega
    · simp only [Instr.wf, below, Bool.and_eq_true, decide_eq_true_eq]
      omega
  all_goals
    cases h
    refine readsBack_mov ?_ ?_ rfl rfl
    · omega
    · simp only [Instr.wf, below, Bool.and_eq_true, decide_eq_true_eq]
      omega

omit hfit in
theorem movInstr_listed (h : (movInstr ge op dd ds q ra imm).isSome = true) : op ≤ 5 := by
  unfold movInstr at h
  split at h
  case h_7 => cases h
  all_goals decide
end

/-! ### MTX (R175) -/

/-- The MTX instruction that the fields name. -/
def mtxInstr (ge op arr rb rd dr : Nat) (imm : W32) : Option Instr :=
  match op with
  | 0x00 => some (.mtxRun ge arr rb imm)
  | 0x01 => some (.mtxTdecl ge arr imm)
  | 0x02 => some (.mtxTrel ge arr imm)
  | 0x03 => some (.mtxTzero ge arr imm)
  | 0x04 => some (.mtxTclr ge arr imm)
  | 0x05 => some (.mtxTsave ge arr dr imm)
  | 0x06 => some (.mtxTrest ge arr dr imm)
  | 0x07 => some (.mtxTstat ge arr rd imm)
  | 0x08 => if arr = 0 then some (.mtxFmtld ge dr imm) else none
  | _ => none

theorem decodeMtx_eq (ge w : Nat) : decodeMtx ge w = if bits w 31 25 ≠ 0 then none else
    mtxInstr ge (bits w 8 3) (bits w 10 9) (bits w 15 11) (bits w 20 16) (bits w 24 21) (immOf w) := rfl

section
variable {ge op arr rb rd dr : Nat} {imm : W32} {i : Instr}
  (hfit : ge < 768 ∧ op < 64 ∧ arr < 4 ∧ rb < 32 ∧ rd < 32 ∧ dr < 16)
include hfit

theorem decodeTheser_mtxWord : mtxWord op arr rb rd dr imm < 2 ^ 64 ∧
    decodeTheser ge (mtxWord op arr rb rd dr imm) = mtxInstr ge op arr rb rd dr imm := by
  let w := mtxWord op arr rb rd dr imm
  obtain ⟨hword, himm⟩ : w < 2 ^ 64 ∧ immOf w = imm :=
    word_of_halves (low := 2 + 8 * op + 2 ^ 9 * arr + 2 ^ 11 * rb + 2 ^ 16 * rd + 2 ^ 21 * dr) imm (by omega)
  have hfields : bits w 2 0 = 2 ∧ bits w 8 3 = op ∧ bits w 10 9 = arr ∧ bits w 15 11 = rb ∧ bits w 20 16 = rd ∧ bits w 24 21 = dr
      ∧ bits w 31 25 = 0 := by
    simp only [bits_eq, w, mtxWord]
    omega
  obtain ⟨hcls, hop, harr, hrb, hrd, hdr, hres⟩ := hfields
  refine ⟨hword, ?_⟩
  change decodeTheser ge w = _
  rw [decodeTheser, hcls]
  simp [decodeMtx_eq, hop, harr, hrb, hrd, hdr, hres, himm]

theorem readsBack_mtx (hwf : i.wf = true) (henc : encodeTheser i = some (mtxWord op arr rb rd dr imm))
    (hname : mtxInstr ge op arr rb rd dr imm = some i) : ReadsBack ge i :=
  have h := decodeTheser_mtxWord (imm := imm) hfit
  ⟨hwf, _, henc, h.1, h.2.trans hname⟩

theorem readsBack_of_mtxInstr (h : mtxInstr ge op arr rb rd dr imm = some i) : ReadsBack ge i := by
  unfold mtxInstr at h
  split at h
  case h_10 => cases h
  case h_9 =>
    obtain ⟨rfl, h⟩ := Option.ite_none_right_eq_some.mp h
    cases h
    refine readsBack_mtx ?_ ?_ rfl rfl
    · omega
    · simp only [Instr.wf, below, Bool.and_eq_true, decide_eq_true_eq]
      omega
  all_goals
    cases h
    refine readsBack_mtx ?_ ?_ rfl rfl
    · omega
    · simp only [Instr.wf, below, Bool.and_eq_true, decide_eq_true_eq]
      omega

omit hfit in
theorem mtxInstr_listed (h : (mtxInstr ge op arr rb rd dr imm).isSome = true) : op ≤ 8 := by
  unfold mtxInstr at h
  split at h
  case h_10 => cases h
  all_goals decide
end

/-! ### VCH (R178) -/

/-- The VCH instruction that the fields name. -/
def vchInstr (ge op rp rc dr rd : Nat) (imm : W32) : Option Instr :=
  match op with
  | 0x00 => some (.vchRun ge rp rc imm)
  | 0x01 => some (.vchCrvld ge dr imm)
  | 0x02 => some (.vchCclr ge imm)
  | 0x03 => if imm = 0 then some (.vchCstat ge rd) else none
  | _ => none

theorem decodeVch_eq (ge w : Nat) : decodeVch ge w = if bits w 31 28 ≠ 0 then none else
    vchInstr ge (bits w 8 3) (bits w 13 9) (bits w 18 14) (bits w 22 19) (bits w 27 23) (immOf w) := rfl

section
variable {ge op rp rc dr rd : Nat} {imm : W32} {i : Instr}
  (hfit : ge < 768 ∧ op < 64 ∧ rp < 32 ∧ rc < 32 ∧ dr < 16 ∧ rd < 32)
include hfit

theorem decodeTheser_vchWord : vchWord op rp rc dr rd imm < 2 ^ 64 ∧
    decodeTheser ge (vchWord op rp rc dr rd imm) = vchInstr ge op rp rc dr rd imm := by
  let w := vchWord op rp rc dr rd imm
  obtain ⟨hword, himm⟩ : w < 2 ^ 64 ∧ immOf w = imm :=
    word_of_halves (low := 3 + 8 * op + 2 ^ 9 * rp + 2 ^ 14 * rc + 2 ^ 19 * dr + 2 ^ 23 * rd) imm (by omega)
  have hfields : bits w 2 0 = 3 ∧ bits w 8 3 = op ∧ bits w 13 9 = rp ∧ bits w 18 14 = rc ∧ bits w 22 19 = dr ∧ bits w 27 23 = rd
      ∧ bits w 31 28 = 0 := by
    simp only [bits_eq, w, vchWord]
    omega
  obtain ⟨hcls, hop, hrp, hrc, hdr, hrd, hres⟩ := hfields
  refine ⟨hword, ?_⟩
  change decodeTheser ge w = _
  rw [decodeTheser, hcls]
  simp [decodeVch_eq, hop, hrp, hrc, hdr, hrd, hres, himm]

theorem readsBack_vch (hwf : i.wf = true) (henc : encodeTheser i = some (vchWord op rp rc dr rd imm))
    (hname : vchInstr ge op rp rc dr rd imm = some i) : ReadsBack ge i :=
  have h := decodeTheser_vchWord (imm := imm) hfit
  ⟨hwf, _, henc, h.1, h.2.trans hname⟩

theorem readsBack_of_vchInstr (h : vchInstr ge op rp rc dr rd imm = some i) : ReadsBack ge i := by
  unfold vchInstr at h
  split at h
  case h_5 => cases h
  case h_4 =>
    obtain ⟨rfl, h⟩ := Option.ite_none_right_eq_some.mp h
    cases h
    refine readsBack_vch ?_ ?_ rfl rfl
    · omega
    · simp only [Instr.wf, below, Bool.and_eq_true, decide_eq_true_eq]
      omega
  all_goals
    cases h
    refine readsBack_vch ?_ ?_ rfl rfl
    · omega
    · simp only [Instr.wf, below, Bool.and_eq_true, decide_eq_true_eq]
      omega

omit hfit in
theorem vchInstr_listed (h : (vchInstr ge op rp rc dr rd imm).isSome = true) : op ≤ 3 := by
  unfold vchInstr at h
  split at h
  case h_5 => cases h
  all_goals decide
end

/-! ### RLY (R179) -/

/-- The RLY instruction that the fields name. -/
def rlyInstr (ge op dd ds ra rb : Nat) (imm : W32) : Option Instr :=
  match op with
  | 0x00 => some (.rlyDispatch ge ds dd ra rb imm)
  | 0x01 => some (.rlySend ge ds ra rb imm)
  | 0x02 => some (.rlyPostrx ge dd ra rb imm)
  | 0x03 => some (.rlyReturn ge ds dd ra imm)
  | 0x04 => some (.rlyStepflags ge ra imm)
  | 0x05 => some (.rlyCancelrx ge ra imm)
  | _ => none

theorem decodeRly_eq (ge w : Nat) : decodeRly ge w = if bits w 31 27 ≠ 0 then none else
    rlyInstr ge (bits w 8 3) (bits w 12 9) (bits w 16 13) (bits w 21 17) (bits w 26 22) (immOf w) := rfl

section
variable {ge op dd ds ra rb : Nat} {imm : W32} {i : Instr}
  (hfit : ge < 768 ∧ op < 64 ∧ dd < 16 ∧ ds < 16 ∧ ra < 32 ∧ rb < 32)
include hfit

theorem decodeTheser_rlyWord : rlyWord op dd ds ra rb imm < 2 ^ 64 ∧
    decodeTheser ge (rlyWord op dd ds ra rb imm) = rlyInstr ge op dd ds ra rb imm := by
  let w := rlyWord op dd ds ra rb imm
  obtain ⟨hword, himm⟩ : w < 2 ^ 64 ∧ immOf w = imm :=
    word_of_halves (low := 4 + 8 * op + 2 ^ 9 * dd + 2 ^ 13 * ds + 2 ^ 17 * ra + 2 ^ 22 * rb) imm (by omega)
  have hfields : bits w 2 0 = 4 ∧ bits w 8 3 = op ∧ bits w 12 9 = dd ∧ bits w 16 13 = ds ∧ bits w 21 17 = ra ∧ bits w 26 22 = rb
      ∧ bits w 31 27 = 0 := by
    simp only [bits_eq, w, rlyWord]
    omega
  obtain ⟨hcls, hop, hdd, hds, hra, hrb, hres⟩ := hfields
  refine ⟨hword, ?_⟩
  change decodeTheser ge w = _
  rw [decodeTheser, hcls]
  simp [decodeRly_eq, hop, hdd, hds, hra, hrb, hres, himm]

theorem readsBack_rly (hwf : i.wf = true) (henc : encodeTheser i = some (rlyWord op dd ds ra rb imm))
    (hname : rlyInstr ge op dd ds ra rb imm = some i) : ReadsBack ge i :=
  have h := decodeTheser_rlyWord (imm := imm) hfit
  ⟨hwf, _, henc, h.1, h.2.trans hname⟩

theorem readsBack_of_rlyInstr (h : rlyInstr ge op dd ds ra rb imm = some i) : ReadsBack ge i := by
  unfold rlyInstr at h
  split at h
  case h_7 => cases h
  all_goals
    cases h
    refine readsBack_rly ?_ ?_ rfl rfl
    · omega
    · simp only [Instr.wf, below, Bool.and_eq_true, decide_eq_true_eq]
      omega

omit hfit in
theorem rlyInstr_listed (h : (rlyInstr ge op dd ds ra rb imm).isSome = true) : op ≤ 5 := by
  unfold rlyInstr at h
  split at h
  case h_7 => cases h
  all_goals decide
end

/-! ### SYN (R180) -/

/-- The SYN instruction that the fields name. -/
def synInstr (ge op cond ra rb rd : Nat) (imm : W32) : Option Instr :=
  match op with
  | 0x00 => if imm = 0 then some (.synFenceData ge) else none
  | 0x01 => if imm = 0 then some (.synFenceFlag ge ra rb) else none
  | 0x02 => some (.synWait ge cond ra rb rd imm)
  | _ => none

theorem decodeSyn_eq (ge w : Nat) : decodeSyn ge w = if bits w 31 28 ≠ 0 then none else
    synInstr ge (bits w 8 3) (bits w 12 9) (bits w 17 13) (bits w 22 18) (bits w 27 23) (immOf w) := rfl

section
variable {ge op cond ra rb rd : Nat} {imm : W32} {i : Instr}
  (hfit : ge < 768 ∧ op < 64 ∧ cond < 16 ∧ ra < 32 ∧ rb < 32 ∧ rd < 32)
include hfit

theorem decodeTheser_synWord : synWord op cond ra rb rd imm < 2 ^ 64 ∧
    decodeTheser ge (synWord op cond ra rb rd imm) = synInstr ge op cond ra rb rd imm := by
  let w := synWord op cond ra rb rd imm
  obtain ⟨hword, himm⟩ : w < 2 ^ 64 ∧ immOf w = imm :=
    word_of_halves (low := 5 + 8 * op + 2 ^ 9 * cond + 2 ^ 13 * ra + 2 ^ 18 * rb + 2 ^ 23 * rd) imm (by omega)
  have hfields : bits w 2 0 = 5 ∧ bits w 8 3 = op ∧ bits w 12 9 = cond ∧ bits w 17 13 = ra ∧ bits w 22 18 = rb ∧ bits w 27 23 = rd
      ∧ bits w 31 28 = 0 := by
    simp only [bits_eq, w, synWord]
    omega
  obtain ⟨hcls, hop, hcond, hra, hrb, hrd, hres⟩ := hfields
  refine ⟨hword, ?_⟩
  change decodeTheser ge w = _
  rw [decodeTheser, hcls]
  simp [decodeSyn_eq, hop, hcond, hra, hrb, hrd, hres, himm]

theorem readsBack_syn (hwf : i.wf = true) (henc : encodeTheser i = some (synWord op cond ra rb rd imm))
    (hname : synInstr ge op cond ra rb rd imm = some i) : ReadsBack ge i :=
  have h := decodeTheser_synWord (imm := imm) hfit
  ⟨hwf, _, henc, h.1, h.2.trans hname⟩

theorem readsBack_of_synInstr (h : synInstr ge op cond ra rb rd imm = some i) : ReadsBack ge i := by
  unfold synInstr at h
  split at h
  case h_4 => cases h
  case h_1 | h_2 =>
    obtain ⟨rfl, h⟩ := Option.ite_none_right_eq_some.mp h
    cases h
    refine readsBack_syn ?_ ?_ rfl rfl
    · omega
    · simp only [Instr.wf, below, Bool.and_eq_true, decide_eq_true_eq]
      omega
  all_goals
    cases h
    refine readsBack_syn ?_ ?_ rfl rfl
    · omega
    · simp only [Instr.wf, below, Bool.and_eq_true, decide_eq_true_eq]
      omega

omit hfit in
theorem synInstr_listed (h : (synInstr ge op cond ra rb rd imm).isSome = true) : op ≤ 2 := by
  unfold synInstr at h
  split at h
  case h_4 => cases h
  all_goals decide
end


/-! ### Both readings -/

/-- What decodes is named by fields that fit its class. -/
theorem readsBack_of_decode {ge w : Nat} {i : Instr} (hge : ge < 768) (h : decodeTheser ge w = some i) : ReadsBack ge i := by
  have field (hi lo : Nat) := bits_lt w hi lo
  unfold decodeTheser at h
  split at h
  case h_1 =>
    rw [decodeCtl_eq] at h
    obtain ⟨_, h⟩ := Option.ite_none_left_eq_some.mp h
    exact readsBack_of_ctlInstr ⟨hge, field 8 3, field 13 9, field 18 14, field 23 19⟩ h
  case h_2 =>
    rw [decodeMov_eq] at h
    obtain ⟨_, h⟩ := Option.ite_none_left_eq_some.mp h
    exact readsBack_of_movInstr ⟨hge, field 8 3, field 12 9, field 16 13, field 18 17, field 23 19⟩ h
  case h_3 =>
    rw [decodeMtx_eq] at h
    obtain ⟨_, h⟩ := Option.ite_none_left_eq_some.mp h
    exact readsBack_of_mtxInstr ⟨hge, field 8 3, field 10 9, field 15 11, field 20 16, field 24 21⟩ h
  case h_4 =>
    rw [decodeVch_eq] at h
    obtain ⟨_, h⟩ := Option.ite_none_left_eq_some.mp h
    exact readsBack_of_vchInstr ⟨hge, field 8 3, field 13 9, field 18 14, field 22 19, field 27 23⟩ h
  case h_5 =>
    rw [decodeRly_eq] at h
    obtain ⟨_, h⟩ := Option.ite_none_left_eq_some.mp h
    exact readsBack_of_rlyInstr ⟨hge, field 8 3, field 12 9, field 16 13, field 21 17, field 26 22⟩ h
  case h_6 =>
    rw [decodeSyn_eq] at h
    obtain ⟨_, h⟩ := Option.ite_none_left_eq_some.mp h
    exact readsBack_of_synInstr ⟨hge, field 8 3, field 12 9, field 17 13, field 22 18, field 27 23⟩ h
  case h_7 => cases h

/-- A well-formed command that has a word is named by the fields of its class. -/
theorem readsBack_of_encode {i : Instr} {w : Nat} (hwf : i.wf = true) (h : encodeTheser i = some w) :
    ∃ ge, ge < 768 ∧ ReadsBack ge i := by
  have hfit := hwf
  cases i with
  | ctlNop | ctlLi | ctlLih | ctlAdd | ctlSub | ctlMul | ctlAnd | ctlOr | ctlXor | ctlAddi | ctlSlli | ctlSrli |
    ctlSrai | ctlAndi | ctlBeq | ctlBne | ctlBlt | ctlBge | ctlBltu | ctlBgeu | ctlJal | ctlJr | ctlLds | ctlSts |
    ctlDld | ctlDst | ctlDsetw | ctlDaddw | ctlRds | ctlYieldpt | ctlFault | ctlEnd =>
    simp only [Instr.wf, below, Bool.and_eq_true, decide_eq_true_eq] at hfit
    refine ⟨_, ?_, readsBack_ctl ?_ hwf rfl rfl⟩ <;> omega
  | movCopy | movFill | movCmb | movCdone | movCopen | movCclose =>
    simp only [Instr.wf, below, Bool.and_eq_true, decide_eq_true_eq] at hfit
    refine ⟨_, ?_, readsBack_mov ?_ hwf rfl rfl⟩ <;> omega
  | mtxRun | mtxTdecl | mtxTrel | mtxTzero | mtxTclr | mtxTsave | mtxTrest | mtxTstat | mtxFmtld =>
    simp only [Instr.wf, below, Bool.and_eq_true, decide_eq_true_eq] at hfit
    refine ⟨_, ?_, readsBack_mtx ?_ hwf rfl rfl⟩ <;> omega
  | vchRun | vchCrvld | vchCclr | vchCstat =>
    simp only [Instr.wf, below, Bool.and_eq_true, decide_eq_true_eq] at hfit
    refine ⟨_, ?_, readsBack_vch ?_ hwf rfl rfl⟩ <;> omega
  | rlyDispatch | rlySend | rlyPostrx | rlyReturn | rlyStepflags | rlyCancelrx =>
    simp only [Instr.wf, below, Bool.and_eq_true, decide_eq_true_eq] at hfit
    refine ⟨_, ?_, readsBack_rly ?_ hwf rfl rfl⟩ <;> omega
  | synFenceData | synFenceFlag | synWait =>
    simp only [Instr.wf, below, Bool.and_eq_true, decide_eq_true_eq] at hfit
    refine ⟨_, ?_, readsBack_syn ?_ hwf rfl rfl⟩ <;> omega
  | _ => cases h

/-! ### Words that decode to nothing -/

theorem listed_of_decode {ge w : Nat} (h : (decodeTheser ge w).isSome = true) :
    bits w 2 0 ≤ 5
    ∧ (bits w 2 0 = 0 → bits w 31 24 = 0 ∧ (bits w 8 3 ≤ 0x0D ∨ (0x10 ≤ bits w 8 3 ∧ bits w 8 3 ≤ 0x1E) ∨ bits w 8 3 = 0x30
        ∨ bits w 8 3 = 0x3E ∨ bits w 8 3 = 0x3F))
    ∧ (bits w 2 0 = 1 → bits w 31 24 = 0 ∧ bits w 8 3 ≤ 5)
    ∧ (bits w 2 0 = 2 → bits w 31 25 = 0 ∧ bits w 8 3 ≤ 8)
    ∧ (bits w 2 0 = 3 → bits w 31 28 = 0 ∧ bits w 8 3 ≤ 3)
    ∧ (bits w 2 0 = 4 → bits w 31 27 = 0 ∧ bits w 8 3 ≤ 5)
    ∧ (bits w 2 0 = 5 → bits w 31 28 = 0 ∧ bits w 8 3 ≤ 2) := by
  have checked {n : Nat} {o : Option Instr} (h : (if n ≠ 0 then none else o).isSome = true) : n = 0 ∧ o.isSome = true := by
    split at h
    · cases h
    · next hn => exact ⟨Decidable.not_not.mp hn, h⟩
  unfold decodeTheser at h
  split at h
  case h_1 => have hop := (checked h).imp id ctlInstr_listed; omega
  case h_2 => have hop := (checked h).imp id movInstr_listed; omega
  case h_3 => have hop := (checked h).imp id mtxInstr_listed; omega
  case h_4 => have hop := (checked h).imp id vchInstr_listed; omega
  case h_5 => have hop := (checked h).imp id rlyInstr_listed; omega
  case h_6 => have hop := (checked h).imp id synInstr_listed; omega
  case h_7 => cases h

/-- A word that breaks R172 raises ILLEGAL where it issues. -/
theorem execIllegalInstruction_of_illegal {s : State} {ge : Nat} {word : W64} (hready : ready s ge [] = true)
    (h : wordIllegal word.toNat = true) : execIllegalInstruction ge word s = .next (raisedAs s ge 0x20 0) := by
  unfold execIllegalInstruction
  rw [if_pos h, issue_ready _ _ _ _ hready]
  rfl

theorem wordIllegal_of_undecoded {w : Nat} (h : decodeTheser 0 w = none) : wordIllegal w = true := by
  rw [wordIllegal, h]
  rfl

/-! ### The statement -/

/-- Settles O9: what has a word or is decoded is named by fields that fit its class, and those fields' own word names it again; what
decodes has a listed class and OP and no reserved field. -/
theorem streamWordsRoundTrip : Obligations.StreamWordsRoundTrip := by
  refine ⟨fun i w hwf henc => ?_, fun ge w i hge hdec => ?_, fun ge w => listed_of_decode, fun s ge word hdec hready =>
    execIllegalInstruction_of_illegal hready (wordIllegal_of_undecoded hdec)⟩
  · obtain ⟨ge, hge, -, v, hv, hlt, hdec⟩ := readsBack_of_encode hwf henc
    obtain rfl : v = w := Option.some.inj (hv.symm.trans henc)
    exact ⟨hlt, ge, hge, hdec⟩
  · obtain ⟨hwf, v, hv, -, hback⟩ := readsBack_of_decode hge hdec
    exact ⟨hwf, v, hv, hback⟩

end Sys2Proof
end

section
/-! Issue (R159 to R162, R164, R173): when an instruction is issued, what its fetch and its issue wave leave, and the scalar
registers. -/

namespace Sys2Proof.Machine

/-! ### Scalar registers (R159) -/

section
variable {e : Engine} {r q : Nat} {v : W64}

@[simp] theorem rdS_zero (e : Engine) : rdS e 0 = 0 := rfl

@[simp] theorem wrS_zero (e : Engine) (v : W64) : wrS e 0 v = e := rfl

theorem wrS_of_nonzero (h : r ≠ 0) : wrS e r v = { e with regs := sset 0 e.regs r v } := if_neg h

theorem rdS_of_nonzero (h : r ≠ 0) : rdS e r = sget 0 e.regs r := if_neg h

theorem rdS_wrS_same (hwf : swf 0 e.regs = true) (h : r ≠ 0) : rdS (wrS e r v) r = v := by
  rw [wrS_of_nonzero h, rdS_of_nonzero h]
  exact sget_sset_same _ _ _ _ hwf

theorem rdS_wrS_other (h : q ≠ r) : rdS (wrS e r v) q = rdS e q := by
  by_cases hr : r = 0
  · rw [hr, wrS_zero]
  · by_cases hq : q = 0
    · rw [hq, rdS_zero, rdS_zero]
    · rw [wrS_of_nonzero hr, rdS_of_nonzero hq, rdS_of_nonzero hq]
      exact sget_sset_other _ _ _ _ _ h

theorem wrS_regs_wf (hwf : swf 0 e.regs = true) (h : r ≠ 0) : swf 0 (wrS e r v).regs = true := by
  rw [wrS_of_nonzero h]
  exact swf_sset _ _ _ _ hwf

/-- A write of a register changes the register file only. -/
theorem wrS_eq (e : Engine) (r : Nat) (v : W64) : wrS e r v = { e with regs := (wrS e r v).regs } := by
  unfold wrS
  split <;> rfl

theorem rdS_fresh (r : Nat) : rdS {} r = 0 := by
  unfold rdS
  split <;> rfl
end

/-- Settles O11: s0 apart, a register is one key of the register file. -/
theorem scalarRegisterWriteAndRead : Obligations.ScalarRegisterWriteAndRead := fun e r v =>
  ⟨rdS_zero e, wrS_zero e v, fun hwf h => ⟨rdS_wrS_same hwf h, fun _ => rdS_wrS_other, wrS_regs_wf hwf h, wrS_eq e r v⟩,
    rdS_fresh r⟩

/-! ### What the fetch and the issue leave (R164, R207) -/

theorem eng_faultCtx (s : State) (c g : Nat) : eng (faultCtx s c) g = eng s g := rfl

/-- A fault of one engine leaves every other engine alone. -/
theorem eng_raise_other (s : State) {ge g : Nat} (source arr code : Nat) (pc addr : W64) (h : g ≠ ge) :
    eng (raise s ge source arr code pc addr) g = eng s g := by
  by_cases hf : (eng s ge).seq.state = .faulted
  · rw [raise_of_faulted hf, eng_setEng_other _ _ _ _ h]
  · rw [raise_of_unfaulted hf, eng_faultCtx, eng_setEng_other _ _ _ _ h]

theorem eng_of_memSide {s t : State} (h : memSide s t) (g : Nat) : eng t g = eng s g := by
  rw [eng, (memSide_fields h).1]
  rfl

theorem fetched_eq (s : State) (ge : Nat) : fetched s ge = { s with
    stamp := s.stamp + 1, mem := (fetchFault s ge).2.mem, harn := (fetchFault s ge).2.harn, hcnt := (fetchFault s ge).2.hcnt,
    trans := (fetchFault s ge).2.trans, free := (fetchFault s ge).2.free } := by
  have h : (fetchFault s ge).2 = _ := fetchFault_side s ge
  rw [fetched, h]

/-- Settles O10: the fetch is an access to memory, and the instruction's work writes its own engine. -/
theorem fetchTouchesOnlyTheMemorySide : Obligations.FetchTouchesOnlyTheMemorySide := by
  intro s ge f
  refine ⟨fetchFault_side s ge, eng_fetched s ge, ?_⟩
  intro t
  have ht : t = setEng (fetched s ge) ge (f (issued (eng s ge))) := rfl
  refine ⟨?_, fun g h => ?_⟩
  · rw [ht, fetched_eq]
    rfl
  · rw [ht, eng_setEng_other _ _ _ _ h, eng_fetched]

/-! ### When an instruction is issued (R160, R162) -/

/-- The sequencer, the registers that the instruction names and the slot let it issue. -/
structure MayIssue (s : State) (ge : Nat) (regs : List Nat) : Prop where
  runs : canIssue (eng s ge) = true
  free : regsFree (eng s ge) regs = true
  slot : slotRuns s ge = true

section
variable {s : State} {ge : Nat} {regs : List Nat} {work : State → Engine → Tag → State}

theorem issue_of_held (h : canIssue (eng s ge) = false ∨ regsFree (eng s ge) regs = false ∨ slotRuns s ge = false) :
    issue s ge regs work = s := by
  have hheld : (!canIssue (eng s ge) || !regsFree (eng s ge) regs || !slotRuns s ge) = true := by
    obtain h | h | h := h <;> simp [h]
  exact if_pos hheld

theorem issue_of_fetch_fault {c : Nat} (h : MayIssue s ge regs) (hfetch : (fetchFault s ge).1 = some c) :
    issue s ge regs work = raise (fetchFault s ge).2 ge 0 0 c (eng s ge).seq.pc (eng s ge).seq.pc := by
  have hgoes : (!canIssue (eng s ge) || !regsFree (eng s ge) regs || !slotRuns s ge) = false := by
    simp [h.runs, h.free, h.slot]
  have hpair : fetchFault s ge = (some c, (fetchFault s ge).2) := Prod.ext hfetch rfl
  refine (if_neg (Bool.eq_false_iff.mp hgoes)).trans ?_
  rw [hpair]
  simp [raiseSeq]

/-- A fetch that fails raises the code of its own engine only. -/
theorem eng_issue_of_fetch_fault {c g : Nat} (h : MayIssue s ge regs) (hfetch : (fetchFault s ge).1 = some c) (hg : g ≠ ge) :
    eng (issue s ge regs work) g = eng s g := by
  rw [issue_of_fetch_fault h hfetch, eng_raise_other _ _ _ _ _ _ hg, eng_of_memSide (fetchFault_side s ge)]
end

/-- Settles O17: issue by its three outcomes. -/
theorem issueWaitsOrRaisesTheFetchFault : Obligations.IssueWaitsOrRaisesTheFetchFault := fun s ge regs work =>
  ⟨issue_of_held, fun _ hruns hfree hslot hfetch => ⟨issue_of_fetch_fault ⟨hruns, hfree, hslot⟩ hfetch,
    fun _ => eng_issue_of_fetch_fault ⟨hruns, hfree, hslot⟩ hfetch⟩, issue_ready s ge regs work⟩

/-! ### What an issued instruction reads and does -/

/-- The issue wave leaves the registers. -/
@[simp] theorem rdS_issued (e : Engine) (r : Nat) : rdS (issued e) r = rdS e r := rfl

@[simp] theorem rdD_issued (e : Engine) (d : Nat) : rdD (issued e) d = rdD e d := rfl

theorem issued_eq (e : Engine) : issued e = { e with
    cnt := { e.cnt with streamWaves := e.cnt.streamWaves + 1, yieldGap := e.cnt.yieldGap + 1 },
    seq := { e.seq with issued := e.seq.issued + 1, pc := e.seq.pc + 8, prevYield := e.seq.lastYield, lastYield := none } } := rfl

/-- The tag of the instruction at PC. -/
def tagAt (s : State) (ge : Nat) : Tag := { pc := (eng s ge).seq.pc, stamp := s.stamp }

/-- A sequencer code that an instruction raises in its work. -/
theorem raiseSeq_fetched (s : State) (ge code addr : Nat) :
    raiseSeq (fetched s ge) ge code (tagAt s ge) addr = raisedAs s ge code (BitVec.ofNat 64 addr) := rfl

theorem issueAlu_of_ready {s : State} {ge rd : Nat} {regs : List Nat} (f : Engine → W64) (h : ready s ge (rd :: regs) = true) :
    issueAlu s ge rd regs f = issuedAs s ge fun e => wrS e rd (f e) :=
  issue_ready _ _ _ _ h

end Sys2Proof.Machine
end

section
/-! CTL arithmetic, branches and jumps (R159 to R161, R172, R173). -/

namespace Sys2Proof.Machine

/-! ### Arithmetic -/

section
variable {s : State} {ge rd ra rb : Nat} {imm : W32}

/-- A shift by an amount below 64. -/
theorem ctlShift_of_amount (f : W64 → Nat → W64) (hready : ready s ge [rd, ra] = true) (h : imm.toNat < 64) :
    ctlShift s ge rd ra imm f = issuedAs s ge fun e => wrS e rd (f (rdS (eng s ge) ra) imm.toNat) := by
  rw [ctlShift, issue_ready _ _ _ _ hready, illegalIf, if_neg (by simpa using h), Nat.mod_eq_of_lt h]
  rfl

/-- IMM[31:6] must be 0. -/
theorem ctlShift_of_reserved (f : W64 → Nat → W64) (hready : ready s ge [rd, ra] = true) (h : 64 ≤ imm.toNat) :
    ctlShift s ge rd ra imm f = raisedAs s ge 0x20 0 := by
  rw [ctlShift, issue_ready _ _ _ _ hready, illegalIf, if_pos (by simpa using h)]
  rfl
end

/-- Settles O12: each is one register write of the issued engine. -/
theorem ctlArithmeticWritesOneRegister : Obligations.CtlArithmeticWritesOneRegister := by
  intro s ge rd ra rb imm x y w
  have alu (regs : List Nat) (f : Engine → W64) (h : ready s ge (rd :: regs) = true) :
      ok (issueAlu s ge rd regs f) = .next (w (f (issued (eng s ge)))) := congrArg _ (issueAlu_of_ready f h)
  refine ⟨fun h => congrArg _ (issue_ready _ _ _ _ h), fun h => ⟨alu _ _ h, alu _ _ h⟩,
    fun h => ⟨alu _ _ h, alu _ _ h, alu _ _ h, alu _ _ h, alu _ _ h, alu _ _ h⟩,
    fun h => ⟨alu _ _ h, alu _ _ h, fun hi => ?_, fun hi => ?_⟩, issued_eq _⟩
  · exact ⟨congrArg _ (ctlShift_of_amount _ h hi), congrArg _ (ctlShift_of_amount _ h hi), congrArg _ (ctlShift_of_amount _ h hi)⟩
  · exact ⟨congrArg _ (ctlShift_of_reserved _ h hi), congrArg _ (ctlShift_of_reserved _ h hi),
      congrArg _ (ctlShift_of_reserved _ h hi)⟩

/-! ### Branches and jumps -/

section
variable {s : State} {ge ra rb : Nat} {imm : W32}

/-- A jump of an instruction that may have written a register: its stream stays as it was. -/
theorem jumpTo_of_issued (f : Engine → Engine) (tgt : W64) (hseq : (f (issued (eng s ge))).seq = (issued (eng s ge)).seq) :
    jumpTo (fetched s ge) ge (f (issued (eng s ge))) (tagAt s ge) tgt = goesTo s ge f tgt := by
  have hin : inStream (f (issued (eng s ge))).seq tgt = decide ((tgt - (eng s ge).seq.streamBase).toNat % 8 = 0
      ∧ (tgt - (eng s ge).seq.streamBase).toNat < (eng s ge).seq.instrCount * 8) := by
    rw [hseq]
    rfl
  simp only [jumpTo, hin, decide_eq_true_eq, goesTo, raiseSeq_fetched, BitVec.ofNat_toNat, BitVec.setWidth_eq]
  rfl

theorem wrS_seq (e : Engine) (r : Nat) (v : W64) : (wrS e r v).seq = e.seq := by
  rw [wrS_eq]

theorem ctlBranch_of_ready (c : W64 → W64 → Bool) (h : ready s ge [ra, rb] = true) : ctlBranch s ge ra rb imm c =
    if c (rdS (eng s ge) ra) (rdS (eng s ge) rb) then goesTo s ge id ((eng s ge).seq.pc + 8 * imm.signExtend 64)
    else issuedAs s ge id := by
  rw [ctlBranch, issue_ready _ _ _ _ h, ← jumpTo_of_issued id _ rfl]
  rfl

/-- Signed less or equal is the negation of signed greater. -/
theorem not_slt_eq (x y : W64) : (!x.slt y) = decide (y.toInt ≤ x.toInt) := by
  simp only [BitVec.slt, ← decide_not, Int.not_lt]

theorem not_ult_eq (x y : W64) : (!x.ult y) = decide (y.toNat ≤ x.toNat) := by
  simp only [BitVec.ult, ← decide_not, Nat.not_lt]
end

/-- Settles O13: a branch compares the registers at issue; a target is taken where it lies in the stream. -/
theorem branchesGoToTheirTarget : Obligations.BranchesGoToTheirTarget := by
  intro s ge rd ra rb imm q x y tgt br
  refine ⟨fun h => ?_, fun h => ?_, fun h => ?_⟩
  · have branch (c : W64 → W64 → Bool) : ok (ctlBranch s ge ra rb imm c) = br (c x y) := congrArg _ (ctlBranch_of_ready c h)
    exact ⟨branch _, branch _, branch _, (branch _).trans (congrArg br (not_slt_eq x y)), branch _,
      (branch _).trans (congrArg br (not_ult_eq x y))⟩
  · have hjal := issue_ready s ge [rd]
      (fun s1 e t => jumpTo s1 ge (wrS e rd (t.pc + 8 - e.seq.streamBase)) t (branchTarget t imm)) h
    exact congrArg _ (hjal.trans (jumpTo_of_issued (fun e => wrS e rd (q.pc + 8 - q.streamBase)) tgt (wrS_seq _ _ _)))
  · have hjr := issue_ready s ge [ra] (fun s1 e t => jumpTo s1 ge e t (e.seq.streamBase + rdS e ra)) h
    exact congrArg _ (hjr.trans (jumpTo_of_issued id _ rfl))

end Sys2Proof.Machine
end

section
/-! The sequencer's accesses to its scratchpad, and the descriptor instructions (R48, R162, R165, R168, R172, R173). -/

namespace Sys2Proof.Machine

/-! ### Races (R162) -/

theorem view_of_no_race {e : Engine} {u stamp : Nat} (h : raced e u stamp = []) : view e u stamp = e := by
  simp [view, h]

theorem raceBytes_of_no_race {e : Engine} {u stamp : Nat} (h : raced e u stamp = []) (mem : Bool) (a : Nat) (d : List PByte) :
    raceBytes e u stamp mem a d = d := by
  simp [raceBytes, h]

/-! ### Checks before the work -/

@[simp] theorem spadRead_issued (e : Engine) (a n : Nat) : spadRead (issued e) a n = spadRead e a n := rfl

theorem spadAddr_issued (s : State) (ge ra : Nat) (imm : W32) : spadAddr (issued (eng s ge)) ra imm = spadEa s ge ra imm := rfl

section
variable {s : State} {ge : Nat} {regs : List Nat} {work : State → Engine → Tag → State}

/-- An issued instruction's access to the scratchpad: aligned and in the binding, it is made. -/
theorem spadAccess_of_issued (a n : Nat) (k : State) :
    spadAccess (fetched s ge) ge (issued (eng s ge)) (tagAt s ge) a n k = spadDoes s ge a n k := by
  have hin : spadOk (issued (eng s ge)) a n = spadOk (eng s ge) a n := rfl
  simp only [spadAccess, spadDoes, hin, raiseSeq_fetched]
  cases spadOk (eng s ge) a n <;> rfl

/-- An instruction whose operands break a rule of its OP raises ILLEGAL. -/
theorem issue_of_illegal {bad : Engine → Bool} (hready : ready s ge regs = true) (hbad : bad (issued (eng s ge)) = true) :
    issue s ge regs (fun s1 e t => illegalIf (bad e) s1 ge t (work s1 e t)) = raisedAs s ge 0x20 0 := by
  rw [issue_ready _ _ _ _ hready]
  exact if_pos hbad

/-- One whose operands break none does its work. -/
theorem issue_of_legal {bad : Engine → Bool} (hready : ready s ge regs = true) (hgood : bad (issued (eng s ge)) = false) :
    issue s ge regs (fun s1 e t => illegalIf (bad e) s1 ge t (work s1 e t))
      = work (fetched s ge) (issued (eng s ge)) (tagAt s ge) := by
  rw [issue_ready _ _ _ _ hready]
  exact if_neg (Bool.eq_false_iff.mp hgood)
end

/-! ### Loads and stores (R48, R162) -/

section
variable {s : State} {ge rd ra rb : Nat} {imm : W32}

/-- What lds reads where no byte is poison. -/
theorem execCtlLds_of_clean (hready : ready s ge [rd, ra] = true)
    (hclean : (spadRead (eng s ge) (spadEa s ge ra imm) 8).any Prod.snd = false) :
    execCtlLds ge rd ra imm s = .next (spadDoes s ge (spadEa s ge ra imm) 8 (issuedAs s ge fun x => wrS x rd
      (BitVec.ofNat 64 (spadNat (view (issued (eng s ge)) uSeq s.stamp) (spadEa s ge ra imm) 8)))) := by
  rw [execCtlLds, issue_ready _ _ _ _ hready, ← spadAccess_of_issued]
  simp only [spadAddr_issued, spadRead_issued, hclean, Bool.false_eq_true, if_false]
  rfl

theorem execCtlLds_of_poison (hready : ready s ge [rd, ra] = true)
    (hpoison : (spadRead (eng s ge) (spadEa s ge ra imm) 8).any Prod.snd = true) :
    execCtlLds ge rd ra imm s = .next (spadDoes s ge (spadEa s ge ra imm) 8
      { issuedAs s ge (fun x => wrS x rd (Config.freeWord (fetched s ge).free)) with free := (fetched s ge).free + 1 }) := by
  rw [execCtlLds, issue_ready _ _ _ _ hready, ← spadAccess_of_issued]
  simp only [spadAddr_issued, spadRead_issued, hpoison, if_true]
  rfl

theorem execCtlSts_of_ready (hready : ready s ge [ra, rb] = true) :
    execCtlSts ge ra rb imm s = .next (spadDoes s ge (spadEa s ge ra imm) 8 (issuedAs s ge fun x =>
      seqWrite x (tagAt s ge) (spadEa s ge ra imm) ((leBytes 8 (rdS (eng s ge) rb).toNat).map (·, false)))) := by
  rw [execCtlSts, issue_ready _ _ _ _ hready, ← spadAccess_of_issued]
  rfl

/-! ### Descriptor registers -/

theorem execCtlDld_of_clean (hready : ready s ge [ra] = true) (hrd : rd < 16)
    (hclean : (spadRead (eng s ge) (spadEa s ge ra imm) 64).any Prod.snd = false) :
    execCtlDld ge rd ra imm s = .next (spadDoes s ge (spadEa s ge ra imm) 64 (issuedAs s ge fun x => wrD x rd
      (spadWords (view (issued (eng s ge)) uSeq s.stamp) (spadEa s ge ra imm) 8))) := by
  rw [execCtlDld, issue_of_legal hready (by simpa using hrd), ← spadAccess_of_issued]
  simp only [spadAddr_issued, spadRead_issued, hclean, Bool.false_eq_true, if_false]
  rfl

theorem execCtlDld_of_poison (hready : ready s ge [ra] = true) (hrd : rd < 16)
    (hpoison : (spadRead (eng s ge) (spadEa s ge ra imm) 64).any Prod.snd = true) :
    execCtlDld ge rd ra imm s = .next (spadDoes s ge (spadEa s ge ra imm) 64
      { issuedAs s ge (fun x => wrD x rd ((List.range 8).map fun i => Config.freeWord ((fetched s ge).free + i)))
        with free := (fetched s ge).free + 8 }) := by
  rw [execCtlDld, issue_of_legal hready (by simpa using hrd), ← spadAccess_of_issued]
  simp only [spadAddr_issued, spadRead_issued, hpoison, if_true]
  rfl

theorem execCtlDst_of_ready (hready : ready s ge [ra] = true) (hrb : rb < 16) :
    execCtlDst ge ra rb imm s = .next (spadDoes s ge (spadEa s ge ra imm) 64 (issuedAs s ge fun x =>
      seqWrite x (tagAt s ge) (spadEa s ge ra imm) ((rdD (eng s ge) rb).flatMap fun w => (leBytes 8 w.toNat).map (·, false)))) := by
  rw [execCtlDst, issue_of_legal hready (by simpa using hrb), ← spadAccess_of_issued]
  rfl

theorem execCtlDsetw_of_word (hready : ready s ge [ra] = true) (hrd : rd < 16) (hword : imm.toNat < 8) :
    execCtlDsetw ge rd ra imm s = .next (issuedAs s ge fun x => wrDw x rd imm.toNat (rdS (eng s ge) ra)) := by
  rw [execCtlDsetw, issue_of_legal hready (by simp [hrd, hword]), Nat.mod_eq_of_lt hword]
  rfl

theorem execCtlDaddw_of_word (hready : ready s ge [ra] = true) (hrd : rd < 16) (hword : imm.toNat < 8) :
    execCtlDaddw ge rd ra imm s = .next (issuedAs s ge fun x =>
      wrDw x rd imm.toNat (sget 0 (eng s ge).desc (8 * rd + imm.toNat) + rdS (eng s ge) ra)) := by
  rw [execCtlDaddw, issue_of_legal hready (by simp [hrd, hword]), Nat.mod_eq_of_lt hword]
  rfl

/-- The items of ctl.rds: ge, the context, STREAM_WAVES and YIELD_GAP. -/
theorem execCtlRds_of_item (hready : ready s ge [rd] = true) (hitem : imm.toNat < 4) :
    execCtlRds ge rd imm s = .next (issuedAs s ge fun x => wrS x rd
      ([BitVec.ofNat 64 ge, BitVec.ofNat 64 (eng s ge).seq.context, x.cnt.streamWaves, x.cnt.yieldGap].getD imm.toNat 0)) := by
  rw [execCtlRds, issue_of_legal hready (by simpa using hitem)]
  obtain h | h | h | h : imm.toNat = 0 ∨ imm.toNat = 1 ∨ imm.toNat = 2 ∨ imm.toNat = 3 := by omega
  all_goals
    rw [h]
    rfl
end

/-- Settles O14: each access by what its bytes are, each descriptor instruction by the numbers it names. -/
theorem sequencerScratchpadAndDescriptorAccess : Obligations.SequencerScratchpadAndDescriptorAccess := by
  intro s ge rd ra rb imm e a ill clean n tag seen
  have poison {k : Nat} (h : ¬ clean k) : (spadRead e a k).any Prod.snd = true := Bool.not_eq_false _ ▸ h
  refine ⟨fun h => ⟨view_of_no_race h, fun a d => raceBytes_of_no_race h false a d⟩,
    fun hready => ⟨execCtlLds_of_clean hready, fun h => execCtlLds_of_poison hready (poison h)⟩, execCtlSts_of_ready,
    fun hready => ⟨execCtlDld_of_clean hready, fun hrd h => execCtlDld_of_poison hready hrd (poison h),
      execCtlDst_of_ready hready, fun h => congrArg _ (issue_of_illegal hready (decide_eq_true h)),
      fun h => congrArg _ (issue_of_illegal hready (decide_eq_true h)),
      fun hrd hword => ⟨execCtlDsetw_of_word hready hrd hword, execCtlDaddw_of_word hready hrd hword⟩,
      fun h => ⟨congrArg _ (issue_of_illegal hready (decide_eq_true h)), congrArg _ (issue_of_illegal hready (decide_eq_true h))⟩⟩,
    fun hready => ⟨execCtlRds_of_item hready, fun h => congrArg _ (issue_of_illegal hready (decide_eq_true h))⟩⟩

end Sys2Proof.Machine
end

section
/-! Yield points and the end of a stream (R172, R173, R181, R188 to R191, R194, R340): their checks, their wait, what is free once
they pass, and what is recorded of a late yield or an overrun. -/

namespace Sys2Proof.Machine

/-! ### The IMM of a yield point (R188) -/

theorem bitAt_eq_testBit (w n : Nat) : bitAt w n = w.testBit n := by
  rw [bitAt, Nat.testBit_eq_decide_div_mod_eq, Nat.shiftRight_eq_div_pow, Bool.beq_eq_decide_eq]

theorem yieldImmBad_iff (imm : Nat) :
    yieldImmBad imm = true ↔ 2 ^ 23 ≤ imm ∨ (imm.testBit 22 = true ∧ imm % 2 ^ 22 ≠ 0) := by
  rw [yieldImmBad, bitAt_eq_testBit, decide_eq_true_eq]

theorem yieldFault_eq_none_iff (e : Engine) (imm : Nat) :
    yieldFault e imm = none ↔ anyOpen e = false ∧ (imm.testBit 22 = true ∨ (imm % 64 = 0
      ∧ spadOk e (imm % 2 ^ 22) (liveBytes e (imm % 2 ^ 22)) = true ∧ liveBad e (imm % 2 ^ 22) = false)) := by
  unfold yieldFault
  rw [bitAt_eq_testBit]
  (repeat' split) <;> simp_all

/-! ### The wait (R188, R190) -/

/-- The engine waits at a yield point or at its stream's end. -/
def yieldWaits (w : SeqWait) (e : Engine) : Engine :=
  { e with cnt := { e.cnt with yieldGap := 0 }, seq := { e.seq with state := .yielding, wait := w } }

section
variable {s : State} {ge : Nat} {imm : W32} (hready : ready s ge [] = true)
include hready

section
variable (hbad : yieldImmBad imm.toNat = true)
include hbad

theorem execCtlYieldpt_of_reserved : execCtlYieldpt ge imm s = .next (raisedAs s ge 0x20 0) :=
  congrArg _ (issue_of_illegal hready hbad)

theorem execCtlEnd_of_reserved : execCtlEnd ge imm s = .next (raisedAs s ge 0x20 0) :=
  congrArg _ (issue_of_illegal hready hbad)
end

section
variable (hgood : yieldImmBad imm.toNat = false)
include hgood

section
variable {c : Nat × Nat} (hrefused : yieldFault (view (issued (eng s ge)) uSeq s.stamp) imm.toNat = some c)
include hrefused

theorem execCtlYieldpt_of_refused : execCtlYieldpt ge imm s = .next (raisedAs s ge c.1 (BitVec.ofNat 64 c.2)) := by
  rw [execCtlYieldpt, issue_of_legal hready hgood]
  simp only [tagAt, hrefused]
  rfl

theorem execCtlEnd_of_refused : execCtlEnd ge imm s = .next (raisedAs s ge c.1 (BitVec.ofNat 64 c.2)) := by
  rw [execCtlEnd, issue_of_legal hready hgood]
  simp only [tagAt, hrefused]
  rfl
end

section
variable (hpass : yieldFault (view (issued (eng s ge)) uSeq s.stamp) imm.toNat = none)
include hpass

theorem execCtlEnd_of_passed : execCtlEnd ge imm s = .next (issuedAs s ge (yieldWaits (.endPt imm.toNat))) := by
  rw [execCtlEnd, issue_of_legal hready hgood]
  simp only [tagAt, hpass]
  rfl

theorem execCtlYieldpt_of_pending (hpre : (eng s ge).seq.preemptReq = true) :
    execCtlYieldpt ge imm s = .next (issuedAs s ge (yieldWaits (.yieldPt imm.toNat))) := by
  rw [execCtlYieldpt, issue_of_legal hready hgood]
  simp only [tagAt, hpass]
  exact congrArg ok (if_pos hpre)

/-- Where no pre-emption is pending the stream goes on, and what is not live becomes free. -/
theorem execCtlYieldpt_of_none_pending (hpre : (eng s ge).seq.preemptReq = false) :
    execCtlYieldpt ge imm s = .next (passYield (fetched s ge) ge (issued (eng s ge)) imm.toNat) := by
  rw [execCtlYieldpt, issue_of_legal hready hgood]
  simp only [tagAt, hpass]
  exact congrArg ok (if_neg (Bool.eq_false_iff.mp hpre))
end
end
end

/-! ### Sparse maps under removal and repeated writes -/

section
variable {α : Type} {d x : α} {j : Nat}

/-- A key whose every entry is removed reads the default. -/
theorem sget_filter_removed {p : Nat × α → Bool} (m : SMap α) (h : ∀ v, p (j, v) = false) : sget d (m.filter p) j = d := by
  induction m with
  | nil => rfl
  | cons e r ih =>
    obtain ⟨k, v⟩ := e
    by_cases hp : p (k, v) = true
    · have hne : j ≠ k := by
        rintro rfl
        exact Bool.false_ne_true ((h v).symm.trans hp)
      rw [List.filter_cons_of_pos hp, sget, if_neg hne, ih]
    · rw [List.filter_cons_of_neg hp, ih]

variable [DecidableEq α]

theorem sget_ssetMany_other (l : List (Nat × α)) (m : SMap α) (h : ∀ v, (j, v) ∉ l) : sget d (ssetMany d m l) j = sget d m j := by
  induction l generalizing m with
  | nil => rfl
  | cons e r ih =>
    obtain ⟨k, v⟩ := e
    have hne : j ≠ k := by
      rintro rfl
      exact h v List.mem_cons_self
    rw [ssetMany, ih _ fun w hw => h w (List.mem_cons_of_mem _ hw), sget_sset_other _ _ _ _ _ hne]

/-- Keys that are all given one value read it. -/
theorem sget_ssetMany_const (ks : List Nat) (m : SMap α) (hx : x ≠ d) (h : j ∈ ks) :
    sget d (ssetMany d m (ks.map (·, x))) j = x := by
  induction ks generalizing m with
  | nil => cases h
  | cons k r ih =>
    by_cases hr : j ∈ r
    · exact ih _ hr
    · obtain rfl : j = k := (List.mem_cons.mp h).resolve_right hr
      rw [List.map_cons, ssetMany, sget_ssetMany_other, sget_sset_new _ _ _ _ hx]
      intro v hv
      obtain ⟨i, hi, heq⟩ := List.mem_map.mp hv
      exact hr ((Prod.mk.inj heq).1 ▸ hi)
end

/-! ### What a yield point leaves free (R188) -/

/-- A physical scratchpad address lies in the binding. -/
def inBinding (e : Engine) (p : Nat) : Bool :=
  decide (e.seq.qbase * 65536 ≤ p % 2 ^ 20 ∧ p % 2 ^ 20 < (e.seq.qbase + e.seq.qlen) * 65536)

/-- The bytes of the live ranges, by physical address. -/
def liveBytesKept (e : Engine) (imm : Nat) : List (Nat × Option Byte) := (liveOf e imm).1.flatMap fun r =>
  (List.range r.2).map fun i => (spadPhys e (r.1 + i), some (spadByte e (spadPhys e (r.1 + i))))

/-- The scratchpad after a yield point. -/
def scrambledSpad (e : Engine) (seed imm : Nat) : Engine := { e with
  spad := ssetMany none (e.spad.filter fun x => !inBinding e x.1) (liveBytesKept e imm)
  spadSeed := ssetMany 0 e.spadSeed (((List.range 64).filter fun u => inBinding e (u * 65536)).map (·, seed + 1)) }

/-- The slots of an array's tiles of the context that are not live. -/
def deadSlots (e : Engine) (imm a : Nat) (c : Acc) : List Nat := c.tiles.flatMap fun v =>
  if v.2.declared && v.2.owner == e.seq.context && !((liveOf e imm).2 a).contains v.1 then slotsOf v.1 v.2 else []

/-- The tile store of an array after a yield point. -/
def scrambledAcc (e : Engine) (seed imm a : Nat) (c : Acc) : Acc := { c with
  elems := c.elems.filter fun v => !(deadSlots e imm a c).contains (v.1 / 1024)
  elemSeed := ssetMany 0 c.elemSeed ((deadSlots e imm a c).map (·, seed + 1)) }

theorem scramble_eq (e : Engine) (seed imm : Nat) : scramble e seed imm = (List.range 4).foldl (fun t a =>
    setAcc t a (scrambledAcc e seed imm a (accOf t a))) (scrambledSpad e seed imm) := rfl

/-- The arrays' changes leave the scratchpad. -/
theorem scramble_spad (e : Engine) (seed imm : Nat) : ((scramble e seed imm).spad, (scramble e seed imm).spadSeed)
    = ((scrambledSpad e seed imm).spad, (scrambledSpad e seed imm).spadSeed) :=
  foldl_keeps (fun t : Engine => (t.spad, t.spadSeed)) (fun t a => setAcc t a (scrambledAcc e seed imm a (accOf t a)))
    (fun _ _ => rfl) _ _

theorem spadByte_congr {e f : Engine} (h : (f.spad, f.spadSeed) = (e.spad, e.spadSeed)) (p : Nat) : spadByte f p = spadByte e p := by
  obtain ⟨hspad, hseed⟩ := Prod.mk.inj h
  rw [spadByte, spadByte, hspad, hseed]

/-- A byte of the binding that no live range holds is free. -/
theorem spadByte_scramble {e : Engine} {seed imm p : Nat} (hp : p < 2 ^ 22) (hin : inBinding e p = true)
    (hdead : ∀ r ∈ (liveOf e imm).1, ∀ i, i < r.2 → spadPhys e (r.1 + i) ≠ p) :
    spadByte (scramble e seed imm) p = Config.freeByte ((seed + 1) * 2 ^ 22 + p) := by
  have hkept (v : Option Byte) : (p, v) ∉ liveBytesKept e imm := by
    intro hmem
    obtain ⟨r, hr, hmem⟩ := List.mem_flatMap.mp hmem
    obtain ⟨i, hi, heq⟩ := List.mem_map.mp hmem
    exact hdead r hr i (List.mem_range.mp hi) (Prod.mk.inj heq).1
  have hunit : p / 65536 ∈ (List.range 64).filter fun u => inBinding e (u * 65536) := by
    simp only [inBinding, List.mem_filter, List.mem_range, decide_eq_true_eq] at hin ⊢
    omega
  have hspad : sget none (scrambledSpad e seed imm).spad p = none := by
    rw [scrambledSpad, sget_ssetMany_other _ _ hkept, sget_filter_removed _ fun _ => by rw [hin]; rfl]
  have hseed : sget 0 (scrambledSpad e seed imm).spadSeed (p / 65536) = seed + 1 :=
    sget_ssetMany_const _ _ (Nat.succ_ne_zero seed) hunit
  rw [spadByte_congr (scramble_spad e seed imm), spadByte, hspad, hseed]
  exact if_neg (Nat.succ_ne_zero seed)

/-- Arrays that are changed one by one, each from what it holds, read so. -/
theorem accOf_foldl_setAcc (f : Nat → Acc → Acc) (l : List Nat) (hl : l.Nodup) (e : Engine) {a : Nat} :
    (a ∉ l → accOf (l.foldl (fun t a => setAcc t a (f a (accOf t a))) e) a = accOf e a)
    ∧ (a ∈ l → f a (accOf e a) ≠ {} → accOf (l.foldl (fun t a => setAcc t a (f a (accOf t a))) e) a = f a (accOf e a)) := by
  induction l generalizing e with
  | nil => exact ⟨fun _ => rfl, fun h => by cases h⟩
  | cons k r ih =>
    obtain ⟨hk, hr⟩ := List.nodup_cons.mp hl
    obtain ⟨hout, hin⟩ := ih hr (setAcc e k (f k (accOf e k)))
    have hother (h : a ≠ k) : accOf (setAcc e k (f k (accOf e k))) a = accOf e a := sget_sset_other _ _ _ _ _ h
    refine ⟨fun h => ?_, fun h hne => ?_⟩
    · obtain ⟨hne, hmem⟩ := not_or.mp (mt List.mem_cons.mpr h)
      exact (hout hmem).trans (hother hne)
    · by_cases hak : a = k
      · subst hak
        exact (hout hk).trans (sget_sset_new _ _ _ _ hne)
      · have hmem : a ∈ r := (List.mem_cons.mp h).resolve_left hak
        rw [List.foldl_cons, hin hmem (by rwa [hother hak]), hother hak]

/-- An element of a tile of the context that is not live is free. -/
theorem elemAt_scramble {e : Engine} {seed imm a k : Nat} (ha : a < 4) (hdead : k / 1024 ∈ deadSlots e imm a (accOf e a)) :
    elemAt (accOf (scramble e seed imm) a) k = (Config.freeWord ((seed + 1) * 2 ^ 18 + k)).truncate 32 := by
  let c := scrambledAcc e seed imm a (accOf e a)
  have hseed : sget 0 c.elemSeed (k / 1024) = seed + 1 := sget_ssetMany_const _ _ (Nat.succ_ne_zero seed) hdead
  have helem : sget none c.elems k = none := sget_filter_removed _ fun _ => by simpa using hdead
  have hne : c ≠ {} := by
    intro h
    rw [h] at hseed
    cases hseed
  have hacc : accOf (scramble e seed imm) a = c := (accOf_foldl_setAcc (scrambledAcc e seed imm) (List.range 4)
    List.nodup_range (scrambledSpad e seed imm)).2 (List.mem_range.mpr ha) hne
  rw [hacc, elemAt, helem, hseed]
  exact if_neg (Nat.succ_ne_zero seed)

theorem mem_deadSlots {e : Engine} {imm a t k : Nat} {c : Acc} (hmem : (t, tileOf c t) ∈ c.tiles)
    (hdecl : (tileOf c t).declared = true) (hown : (tileOf c t).owner = e.seq.context) (hlive : t ∉ (liveOf e imm).2 a)
    (hslot : k ∈ slotsOf t (tileOf c t)) : k ∈ deadSlots e imm a c :=
  List.mem_flatMap.mpr ⟨_, hmem, by simpa [hdecl, hown, hlive] using hslot⟩

/-- Settles O15: the checks of the IMM and of the live-range descriptor, the wait or the passing, and what is free then. -/
theorem yieldPointsAndStreamEndWait : Obligations.YieldPointsAndStreamEndWait := by
  intro s ge imm word hready e wait n refusal
  refine ⟨congrArg _ (issue_ready _ _ _ _ hready), execIllegalInstruction_of_illegal hready, fun hbad => ?_, fun h23 h22 => ?_,
    fun x => yieldFault_eq_none_iff x imm.toNat, fun x p hp hlo hhi => spadByte_scramble hp (decide_eq_true ⟨hlo, hhi⟩),
    fun x a t k ha hmem hdecl hown hlive hslot => elemAt_scramble ha (mem_deadSlots hmem hdecl hown hlive hslot)⟩
  · have hbad := (yieldImmBad_iff _).mpr hbad
    exact ⟨execCtlYieldpt_of_reserved hready hbad, execCtlEnd_of_reserved hready hbad⟩
  · have hgood : yieldImmBad imm.toNat = false := by
      rw [Bool.eq_false_iff, ne_eq, yieldImmBad_iff]
      rintro (h | ⟨ht, h⟩)
      · omega
      · exact h (h22 ht)
    refine ⟨fun c hc => ⟨execCtlYieldpt_of_refused hready hgood hc, execCtlEnd_of_refused hready hgood hc⟩, fun hpass => ?_⟩
    exact ⟨execCtlEnd_of_passed hready hgood hpass, execCtlYieldpt_of_pending hready hgood hpass,
      execCtlYieldpt_of_none_pending hready hgood hpass⟩

end Sys2Proof.Machine
end

section
/-! Streams that are stopped (R188, R190, R191, R194, R340): the wait of a yield point or of the stream's end is over, and late
yields and overruns are recorded once. -/

namespace Sys2Proof.Machine

/-! ### The wait is over -/

/-- The engine after the waves of its wait: what is not live is free, and the sequencer stops. -/
def stopsAfter (s : State) (ge waves imm : Nat) (f : Seq → Seq) : State :=
  let y := scramble (addWaves (eng s ge) waves) s.free imm
  setEng { s with free := s.free + 1 } ge { y with seq := f y.seq }

theorem waitYield_iff (e : Engine) (imm : Nat) : waitYield e = some imm ↔
    (∃ c i ra rb rd w, e.seq.wait = .cond c i ra rb rd w ∧ (c = 4 ∨ c = 5)) ∧ e.seq.prevYield = some imm := by
  unfold waitYield
  split
  · next c i ra rb rd w h => simp [h]
  · next h =>
    exact ⟨fun hnone => (nomatch hnone), fun ⟨⟨c, i, ra, rb, rd, w, hw, _⟩, _⟩ => (h c i ra rb rd w hw).elim⟩

section
variable {s : State} {ge waves imm : Nat}

theorem execYieldSave_of_yield_point (hwait : (eng s ge).seq.wait = .yieldPt imm) (hidle : unitsIdle (eng s ge) = true) :
    execYieldSave ge waves s = .next (stopsAfter s ge waves imm fun q =>
      { q with state := .saved, wait := .none, preemptReq := false }) := by
  simp only [execYieldSave, hwait, hidle, if_true]
  rfl

/-- A stream that waits directly after a yield point is saved with PC back at the wait (R340). -/
theorem execYieldSave_of_wait (hwait : waitYield (eng s ge) = some imm) (hpre : (eng s ge).seq.preemptReq = true)
    (hidle : unitsIdle (eng s ge) = true) : execYieldSave ge waves s = .next (stopsAfter s ge waves imm fun q =>
      { q with state := .saved, wait := .none, preemptReq := false, pc := q.pc - 8 }) := by
  obtain ⟨⟨c, i, ra, rb, rd, w, hcond, -⟩, -⟩ := (waitYield_iff _ _).mp hwait
  simp only [execYieldSave, hcond, hwait, hpre, hidle, Bool.and_self, if_true]
  rfl

theorem execStreamEnd_of_end (hwait : (eng s ge).seq.wait = .endPt imm) (hidle : unitsIdle (eng s ge) = true) :
    execStreamEnd ge waves s = .next (stopsAfter s ge waves imm fun q => { q with state := .idle, wait := .none }) := by
  simp only [execStreamEnd, hwait, hidle, if_true]
  rfl

section
variable (hbusy : unitsIdle (eng s ge) = false)
include hbusy

theorem execYieldSave_of_busy : execYieldSave ge waves s = .next s := by
  simp only [execYieldSave, hbusy, Bool.and_false, Bool.false_eq_true, if_false, ok]
  (repeat' split) <;> rfl

theorem execStreamEnd_of_busy : execStreamEnd ge waves s = .next s := by
  simp only [execStreamEnd, hbusy, Bool.false_eq_true, if_false, ok]
  split <;> rfl
end
end

/-! ### Late yields and overruns (R191, R194) -/

/-- An engine is marked, and a record is raised where none has been. -/
def markedOnce (s : State) (ge : Nat) (e : Engine) (recorded : Bool) (code : Nat) (v : W64) : State :=
  if recorded then setEng s ge e else note (setEng s ge e) 3 code 1 2 ge [v]

section
variable (s : State) (ge code : Nat) (e : Engine) (recorded : Bool) (v : W64)

/-- A record is an event raised and nothing else. -/
theorem markedOnce_eq : markedOnce s ge e recorded code v =
    { s with engines := (setEng s ge e).engines, raised := (markedOnce s ge e recorded code v).raised } := by
  cases recorded <;> rfl

theorem markedOnce_raised_length :
    (markedOnce s ge e recorded code v).raised.length = s.raised.length + (if recorded then 0 else 1) := by
  cases recorded
  · exact List.length_append
  · rfl

theorem markedOnce_outcome {x : Host.Outcome State Fault Refusal} (h : x = .next (markedOnce s ge e recorded code v)) :
    ∃ t, x = .next t ∧ t = { s with engines := t.engines, raised := t.raised } ∧ t.engines = (setEng s ge e).engines
      ∧ t.raised.length = s.raised.length + (if recorded then 0 else 1) := by
  have heq := markedOnce_eq s ge code e recorded v
  refine ⟨_, h, ?_, ?_, markedOnce_raised_length s ge code e recorded v⟩
  · rw [heq]
  · rw [heq]
end

section
variable {s : State} {ge : Nat}

theorem execYieldGapExceeded_of_late (h : (eng s ge).seq.maxYieldGap < (eng s ge).cnt.yieldGap.toNat) :
    execYieldGapExceeded ge s = .next (markedOnce s ge { eng s ge with
      seq := { (eng s ge).seq with yieldLate := true }, cnt := { (eng s ge).cnt with lateRecorded := true } }
      (eng s ge).cnt.lateRecorded 1 (eng s ge).cnt.yieldGap) :=
  congrArg ok (if_pos (decide_eq_true h))

theorem execYieldGapExceeded_of_early (h : (eng s ge).cnt.yieldGap.toNat ≤ (eng s ge).seq.maxYieldGap) :
    execYieldGapExceeded ge s = .next s :=
  congrArg ok (if_neg (by simpa using h))

theorem execOverrun_of_over (h : ((eng s ge).seq.worstWaves.toNat : Int) < countedWaves (eng s ge)) :
    execOverrun ge s = .next (markedOnce s ge { eng s ge with
      seq := { (eng s ge).seq with overrun := true }, cnt := { (eng s ge).cnt with overrunRecorded := true } }
      (eng s ge).cnt.overrunRecorded 2 (eng s ge).cnt.streamWaves) :=
  congrArg ok (if_pos (decide_eq_true h))

theorem execOverrun_of_within (h : countedWaves (eng s ge) ≤ ((eng s ge).seq.worstWaves.toNat : Int)) :
    execOverrun ge s = .next s :=
  congrArg ok (if_neg (by simpa using h))
end

/-- Settles O16: each wait by what it waits at and whether the units are idle, each counter by its bound. -/
theorem stoppedEnginesSaveOrEnd : Obligations.StoppedEnginesSaveOrEnd := fun _ _ _ _ =>
  ⟨execYieldSave_of_yield_point, execYieldSave_of_wait, waitYield_iff _ _, execStreamEnd_of_end,
    fun hbusy => ⟨execYieldSave_of_busy hbusy, execStreamEnd_of_busy hbusy⟩,
    fun h => markedOnce_outcome _ _ _ _ _ _ (execYieldGapExceeded_of_late h), execYieldGapExceeded_of_early,
    fun h => markedOnce_outcome _ _ _ _ _ _ (execOverrun_of_over h), execOverrun_of_within⟩

end Sys2Proof.Machine
end

section
/-! Instructions that enter a queue of their engine (R154, R160, R162, R174, R175, R178, R187): the move queues, the arrays' queues,
the format loads and the chain's queue. -/

namespace Sys2Proof.Machine

/-! ### Move queues (R174) -/

section
variable {s : State} {ge q : Nat} {regs : List Nat} {op : Engine → Tag → MovOp} {bad : Bool}

theorem issueMov_of_full (h : 64 ≤ (movq (eng s ge) q).length) : issueMov s ge q regs op bad = s := if_pos h

theorem issueMov_of_room (hroom : (movq (eng s ge) q).length < 64) (hready : ready s ge regs = true) :
    issueMov s ge q regs op bad = if bad then raisedAs s ge 0x20 0 else
      issuedAs s ge fun x => setMovq x q (movq x q ++ [op (issued (eng s ge)) (tagAt s ge)]) := by
  rw [issueMov, if_neg (Nat.not_le.mpr hroom), issue_ready _ _ _ _ hready]
  rfl
end

/-- Settles O18: each instruction is one entry of queue Q, or ILLEGAL, or waits for a full queue. -/
theorem movInstructionsEnterTheirQueue : Obligations.MovInstructionsEnterTheirQueue := by
  intro s ge q ds dd ra imm e g enters ep
  refine ⟨fun hroom hready => ?_, fun hroom hready => ?_, fun hfull => ?_⟩
  · have goes (op : Engine → Tag → MovOp) : ok (issueMov s ge q [] op false) = .next (enters (op (issued e) g)) :=
      congrArg _ (issueMov_of_room hroom hready)
    exact ⟨goes _, goes _, goes _⟩
  · refine ⟨congrArg _ (issueMov_of_room hroom hready), fun hi => ?_, fun hi => ?_⟩
    · have goes (op : Nat → Engine → Tag → MovOp) :
          ok (issueMov s ge q [ra] (op (imm.toNat % 256)) (decide (256 ≤ imm.toNat)))
            = .next (enters (op imm.toNat (issued e) g)) := by
        rw [issueMov_of_room hroom hready, if_neg (by simpa using hi), Nat.mod_eq_of_lt hi]
        rfl
      exact ⟨goes fun n x t => .cmb (rdD x ds) (rdD x dd) n ((rdS x ra).toNat % 2 ^ 32) t,
        goes fun n x t => .cdone (rdD x dd) n ((rdS x ra).toNat % 2 ^ 32) t⟩
    · have refused (op : Engine → Tag → MovOp) : ok (issueMov s ge q [ra] op (decide (256 ≤ imm.toNat)))
          = .next (raisedAs s ge 0x20 0) :=
        congrArg _ ((issueMov_of_room hroom hready).trans (if_pos (decide_eq_true hi)))
      exact ⟨refused _, refused _⟩
  · have waits (regs : List Nat) (op : Engine → Tag → MovOp) (bad : Bool) : ok (issueMov s ge q regs op bad) = .next s :=
      congrArg _ (issueMov_of_full hfull)
    exact ⟨waits _ _ _, waits _ _ _, waits _ _ _, waits _ _ _, waits _ _ _, waits _ _ _⟩

/-! ### The arrays' queues and format loads (R175) -/

/-- An operation joins an array's queue, and the registers that it writes are pending. -/
def arrayEntered (a : Nat) (op : ArrOp) (pend : List Nat) (x : Engine) : Engine :=
  let y := setArr x a { arrOf x a with queue := (arrOf x a).queue ++ [op] }
  { y with units := { y.units with pendRegs := y.units.pendRegs ++ pend } }

theorem arrayDepth_eq (x : Arr) : arrayDepth x =
    x.queue.length + (if x.run.isSome then 1 else 0) + (if x.pass.any (·.final) then 1 else 0) := by
  unfold arrayDepth
  cases x.pass <;> rfl

section
variable {s : State} {ge a r : Nat} {imm : W32} {regs pend : List Nat} {op : Engine → Tag → ArrOp} {bad : Bool}

theorem issueMtx_of_full (h : 4 ≤ arrayDepth (arrOf (eng s ge) a)) : issueMtx s ge a regs bad op pend = s := if_pos h

section
variable (hroom : arrayDepth (arrOf (eng s ge) a) < 4) (hready : ready s ge regs = true)
include hroom hready

theorem issueMtx_of_illegal (hbad : bad = true) : issueMtx s ge a regs bad op pend = raisedAs s ge 0x20 0 := by
  rw [issueMtx, if_neg (Nat.not_le.mpr hroom), issue_ready _ _ _ _ hready]
  exact if_pos hbad

theorem issueMtx_of_legal (hgood : bad = false) : issueMtx s ge a regs bad op pend =
    advance 5 (issuedAs s ge (arrayEntered a (op (issued (eng s ge)) (tagAt s ge)) pend)) ge a := by
  rw [issueMtx, if_neg (Nat.not_le.mpr hroom), issue_ready _ _ _ _ hready]
  exact if_neg (Bool.eq_false_iff.mp hgood)

/-- A tile instruction names its slot by IMM[5:0]. -/
theorem issueMtx_of_slot {op : Nat → Engine → Tag → ArrOp} (hi : imm.toNat < 64) :
    issueMtx s ge a regs (decide (64 ≤ imm.toNat)) (op (imm.toNat % 64)) pend =
      advance 5 (issuedAs s ge (arrayEntered a (op imm.toNat (issued (eng s ge)) (tagAt s ge)) pend)) ge a := by
  rw [issueMtx_of_legal hroom hready (by simpa using hi), Nat.mod_eq_of_lt hi]
end

theorem execMtxFmtld_of_full (h : 2 ≤ (eng s ge).units.fmtLoads.length) : execMtxFmtld ge r imm s = .next s :=
  congrArg ok (if_pos h)

theorem execMtxFmtld_of_slot (hroom : (eng s ge).units.fmtLoads.length < 2) (hready : ready s ge [] = true)
    (hi : imm.toNat < 32) : execMtxFmtld ge r imm s = .next (issuedAs s ge fun x => { x with
      units := { x.units with fmtLoads := x.units.fmtLoads ++ [(imm.toNat, rdD (eng s ge) r, tagAt s ge)] } }) := by
  rw [execMtxFmtld, if_neg (Nat.not_le.mpr hroom), issue_ready _ _ _ _ hready, if_neg (Nat.not_le.mpr hi), Nat.mod_eq_of_lt hi]
  rfl

theorem execMtxFmtld_of_reserved (hroom : (eng s ge).units.fmtLoads.length < 2) (hready : ready s ge [] = true)
    (hi : 32 ≤ imm.toNat) : execMtxFmtld ge r imm s = .next (raisedAs s ge 0x20 0) := by
  rw [execMtxFmtld, if_neg (Nat.not_le.mpr hroom), issue_ready _ _ _ _ hready, if_pos hi]
  rfl
end

/-- Settles O21: each instruction is one entry of the array's queue, or ILLEGAL, or waits for a full queue. -/
theorem mtxInstructionsEnterTheArrayQueue : Obligations.MtxInstructionsEnterTheArrayQueue := by
  intro s ge a r imm e g n held enters illegal
  refine ⟨arrayDepth_eq _, fun hroom hready => ?_, fun hroom hready => ?_, fun hfull => ?_,
    fun hroom hready => ⟨execMtxFmtld_of_slot hroom hready, execMtxFmtld_of_reserved hroom hready⟩, execMtxFmtld_of_full⟩
  · exact ⟨congrArg _ (issueMtx_of_legal hroom hready rfl),
      fun hi => congrArg _ (issueMtx_of_slot (op := fun n _ t => .tstat n r t) hroom hready hi),
      fun hi => congrArg _ (issueMtx_of_illegal hroom hready (decide_eq_true hi))⟩
  · have slot (op : Nat → Engine → Tag → ArrOp) (hi : n < 64) :
        ok (issueMtx s ge a [] (decide (64 ≤ n)) (op (n % 64)) []) = .next (enters (op n (issued e) g) []) :=
      congrArg _ (issueMtx_of_slot hroom hready hi)
    have refused (op : Engine → Tag → ArrOp) {p : Prop} [Decidable p] (hp : p) :
        ok (issueMtx s ge a [] (decide p) op []) = .next illegal :=
      congrArg _ (issueMtx_of_illegal hroom hready (decide_eq_true hp))
    refine ⟨fun h10 hshape hformat => ?_, refused _, fun hi => ?_, fun hi => ?_⟩
    · exact congrArg _ (issueMtx_of_legal hroom hready (decide_eq_false fun h => h.elim (Nat.not_le.mpr h10) (Or.elim · hshape hformat)))
    · exact ⟨slot (fun n _ t => .trel n t) hi, slot (fun n _ t => .tzero n t) hi, slot (fun n _ t => .tclr n t) hi,
        slot (fun n x t => .tsave n (rdD x r) t) hi, slot (fun n x t => .trest n (rdD x r) t) hi⟩
    · exact ⟨refused _ hi, refused _ hi, refused _ hi, refused _ hi, refused _ hi⟩
  · have waits (regs : List Nat) (bad : Bool) (op : Engine → Tag → ArrOp) (pend : List Nat) :
        ok (issueMtx s ge a regs bad op pend) = .next s :=
      congrArg _ (issueMtx_of_full hfull)
    exact ⟨waits _ _ _ _, waits _ _ _ _, waits _ _ _ _, waits _ _ _ _, waits _ _ _ _, waits _ _ _ _, waits _ _ _ _,
      waits _ _ _ _⟩

/-! ### The chain's queue (R178, R187) -/

section
variable {s : State} {ge : Nat} {regs : List Nat} {pend : Nat} {op : Engine → Tag → ChainOp} {bad : Bool}

theorem issueVch_of_full (h : 4 ≤ chainDepth (eng s ge)) : issueVch s ge regs bad op pend = s := if_pos h

section
variable (hroom : chainDepth (eng s ge) < 4) (hready : ready s ge regs = true)
include hroom hready

theorem issueVch_of_illegal (hbad : bad = true) : issueVch s ge regs bad op pend = raisedAs s ge 0x20 0 := by
  rw [issueVch, if_neg (Nat.not_le.mpr hroom), issue_ready _ _ _ _ hready]
  exact if_pos hbad

theorem issueVch_of_legal (hgood : bad = false) : issueVch s ge regs bad op pend =
    issuedAs s ge fun x => enqueueChain x (op (issued (eng s ge)) (tagAt s ge)) pend := by
  rw [issueVch, if_neg (Nat.not_le.mpr hroom), issue_ready _ _ _ _ hready]
  exact if_neg (Bool.eq_false_iff.mp hgood)
end
end

section
variable {s : State} {ge rp rc : Nat} {imm : W32}

/-- A run whose tally register holds nothing back. -/
theorem execVchRun_of_untallied
    (hfree : tallyHeld (eng s ge) (progRegs (eng s ge) (rdS (eng s ge) rp).toNat).2.1
      (progRegs (eng s ge) (rdS (eng s ge) rp).toNat).2.2 = false) :
    execVchRun ge rp rc imm s = .next (
      let pr := progRegs (eng s ge) (rdS (eng s ge) rp).toNat
      issueVch s ge (rp :: rc :: pr.1) (decide (2 ^ 14 ≤ imm.toNat) || (rc != 0 && imm != 0))
        (fun x t => .run (rdS (eng s ge) rp).toNat (if rc = 0 then imm.toNat else (rdS x rc).toNat)
          ((List.range 16).map (rdD x)) ((List.range 32).map (rdS x)) pr.2.1 t) pr.2.1) :=
  congrArg ok (if_neg (Bool.eq_false_iff.mp hfree))

theorem execVchRun_of_full (h : 4 ≤ chainDepth (eng s ge)) : execVchRun ge rp rc imm s = .next s := by
  simp [execVchRun, issueVch_of_full h, ok]
end

/-! Status clears and reads (R154) -/

section
variable {e : Engine} (hcur : e.chain.cur = none)
include hcur

theorem advanceChain_of_empty (hqueue : e.chain.queue = []) (f : Nat) : advanceChain f e = e := by
  cases f with
  | zero => rfl
  | succ f => simp [advanceChain, hcur, hqueue]

theorem advanceChain_cclr {n : Nat} {q : List ChainOp} (hqueue : e.chain.queue = .cclr n :: q) (f : Nat) :
    advanceChain (f + 1) e = advanceChain f { e with chain := { chainClear e.chain n with queue := q } } := by
  simp only [advanceChain, hcur, hqueue, Option.isSome_none, Bool.false_eq_true, if_false]

theorem advanceChain_cstat {r : Nat} {q : List ChainOp} (hqueue : e.chain.queue = .cstat r :: q) (f : Nat) :
    advanceChain (f + 1) e = advanceChain f (unpend (wrS (modChain e fun c => { c with queue := q }) r
      (BitVec.ofNat 64 ((chainStatus e.chain).toNat % 256))) r) := by
  have hlow (w : Nat) : bits w 7 0 = w % 256 := by
    rw [bits_eq]
    omega
  simp only [advanceChain, hcur, hqueue, hlow, Option.isSome_none, Bool.false_eq_true, if_false]

section
variable (hqueue : e.chain.queue = [])
include hqueue

/-- In an empty chain a status clear acts at once. -/
theorem enqueueChain_cclr (n : Nat) : enqueueChain e (.cclr n) 0 = { e with chain := chainClear e.chain n } := by
  let e1 := modChain e fun c => { c with queue := c.queue ++ [.cclr n] }
  have hq1 : e1.chain.queue = [.cclr n] := congrArg (· ++ [ChainOp.cclr n]) hqueue
  have hclear : { chainClear e1.chain n with queue := [] } = chainClear e.chain n := by
    rw [← hqueue]
    rfl
  calc enqueueChain e (.cclr n) 0
      = advanceChain 4 e1 := rfl
    _ = advanceChain 3 { e1 with chain := chainClear e.chain n } := by rw [advanceChain_cclr (e := e1) hcur hq1, hclear]
    _ = { e with chain := chainClear e.chain n } := advanceChain_of_empty (e := { e with chain := chainClear e.chain n }) hcur hqueue 3

/-- In an empty chain a status read writes sRD at once, and sRD is pending no longer. -/
theorem enqueueChain_cstat {r : Nat} (hr : r ≠ 0) (hpend : r ∉ e.units.pendRegs) : enqueueChain e (.cstat r) r =
    wrS e r (BitVec.ofNat 64 ((chainStatus e.chain).toNat % 256)) := by
  let e1 := modChain e fun c => { c with queue := c.queue ++ [.cstat r] }
  let e2 : Engine := { e1 with units := { e1.units with pendRegs := e1.units.pendRegs ++ [r] } }
  let v := BitVec.ofNat 64 ((chainStatus e.chain).toNat % 256)
  have hq2 : e2.chain.queue = [.cstat r] := congrArg (· ++ [ChainOp.cstat r]) hqueue
  have herase : (e.units.pendRegs ++ [r]).erase r = e.units.pendRegs := by
    rw [List.erase_append_right _ hpend, List.erase_cons_head, List.append_nil]
  have hempty : { e.chain with queue := [] } = e.chain := by rw [← hqueue]
  have hread : unpend (wrS (modChain e2 fun c => { c with queue := [] }) r v) r = wrS e r v := by
    rw [wrS_of_nonzero hr, wrS_of_nonzero hr]
    simp only [unpend, modChain, e2, e1, herase, hempty]
  have hcalm : (wrS e r v).chain.cur = none ∧ (wrS e r v).chain.queue = [] := by
    rw [wrS_eq]
    exact ⟨hcur, hqueue⟩
  calc enqueueChain e (.cstat r) r
      = advanceChain 4 e2 := by rw [enqueueChain, if_neg hr]
    _ = advanceChain 3 (unpend (wrS (modChain e2 fun c => { c with queue := [] }) r v) r) := advanceChain_cstat (e := e2) hcur hq2 3
    _ = wrS e r v := by rw [hread, advanceChain_of_empty hcalm.1 hcalm.2]
end
end

/-- Settles O25: each instruction is one entry of the chain's queue, or ILLEGAL, or waits for a full queue; the head of an empty
chain's queue acts at once. -/
theorem chainInstructionsEnterTheQueue : Obligations.ChainInstructionsEnterTheQueue := by
  intro s ge rp rc r imm e g n pr enters illegal idle
  refine ⟨fun hroom hfree hready => ⟨fun hn hcount => ?_, fun hbad => ?_⟩, fun hroom hready => ⟨fun hi => ?_, fun hi => ?_,
    fun hi hbit => ?_, fun hi => ?_⟩, fun hroom hready => congrArg _ (issueVch_of_legal hroom hready rfl), fun hfull => ?_,
    fun x hidle => ⟨enqueueChain_cclr hidle.1 hidle.2 n, enqueueChain_cstat hidle.1 hidle.2⟩⟩
  · have hgood : (decide (2 ^ 14 ≤ n) || (rc != 0 && imm != 0)) = false := by
      simpa [Classical.or_iff_not_imp_left] using And.intro hn hcount
    exact (execVchRun_of_untallied hfree).trans (congrArg _ (issueVch_of_legal hroom hready hgood))
  · have hbad : (decide (2 ^ 14 ≤ n) || (rc != 0 && imm != 0)) = true := by simpa using hbad
    exact (execVchRun_of_untallied hfree).trans (congrArg _ (issueVch_of_illegal hroom hready hbad))
  · exact congrArg _ (issueVch_of_legal hroom hready (decide_eq_false (Nat.not_le.mpr hi)))
  · exact congrArg _ (issueVch_of_illegal hroom hready (decide_eq_true hi))
  · exact congrArg _ (issueVch_of_legal hroom hready (Bool.or_eq_false_iff.mpr ⟨decide_eq_false (Nat.not_le.mpr hi), hbit⟩))
  · exact congrArg _ (issueVch_of_illegal hroom hready (by simpa using hi))
  · have waits (regs : List Nat) (bad : Bool) (op : Engine → Tag → ChainOp) (pend : Nat) :
        ok (issueVch s ge regs bad op pend) = .next s :=
      congrArg _ (issueVch_of_full hfull)
    exact ⟨execVchRun_of_full hfull, waits _ _ _ _, waits _ _ _ _, waits _ _ _ _⟩

end Sys2Proof.Machine
end

section
/-! SYN instructions (R168, R180, R195, R217, R218): the fences, and the waits of the sequencer. -/

namespace Sys2Proof.Machine

/-! ### Fences (R217, R218) -/

section
variable {s u : State} {ge ra rb : Nat} {p : Piece} {l : List Piece}

theorem execSynFenceData_of_ready (hready : ready s ge [] = true) : execSynFenceData ge s =
    .next (addFence (issuedAs s ge id) { ctx := (eng s ge).seq.context, stamp := s.stamp, flag := none }) :=
  congrArg _ (issue_ready _ _ _ _ hready)

/-- Where a flag's address lies, and where it translates. -/
def flagPieces (s : State) (ge ra : Nat) : Except (Nat × Nat) (List Piece) × State :=
  vPieces (issuedAs s ge id) (walker ge) (eng s ge).seq.context .write (rdS (eng s ge) ra).toNat 8

section
variable (hready : ready s ge [ra, rb] = true)
include hready

theorem execSynFenceFlag_of_misaligned (h : (rdS (eng s ge) ra).toNat % 8 ≠ 0) : execSynFenceFlag ge ra rb s =
    .next (raiseSeq (issuedAs s ge id) ge 0x22 (tagAt s ge) (rdS (eng s ge) ra).toNat) := by
  rw [execSynFenceFlag, issue_ready _ _ _ _ hready]
  exact congrArg ok (if_pos h)

section
variable (h : (rdS (eng s ge) ra).toNat % 8 = 0)
include h

theorem execSynFenceFlag_of_aligned : execSynFenceFlag ge ra rb s = .next (match flagPieces s ge ra with
    | (.error c, u) => raiseSeq u ge c.1 (tagAt s ge) c.2
    | (.ok l, u) => match l with
      | p :: _ =>
        if attrKind u.mem p.a = 1 ∨ attrKind u.mem p.a = 2 then raiseSeq u ge 0x29 (tagAt s ge) (rdS (eng s ge) ra).toNat
        else addFence u { ctx := (eng s ge).seq.context, stamp := s.stamp, flag := some (p.a, rdS (eng s ge) rb) }
      | [] => raiseSeq u ge 0x28 (tagAt s ge) (rdS (eng s ge) ra).toNat) := by
  rw [execSynFenceFlag, issue_ready _ _ _ _ hready]
  exact congrArg ok (if_neg (not_not_intro h))

theorem execSynFenceFlag_of_failed_translation {c : Nat × Nat} (hp : flagPieces s ge ra = (.error c, u)) :
    execSynFenceFlag ge ra rb s = .next (raiseSeq u ge c.1 (tagAt s ge) c.2) := by
  rw [execSynFenceFlag_of_aligned hready h, hp]

section
variable (hp : flagPieces s ge ra = (.ok (p :: l), u))
include hp

/-- No flag lies in a STREAMING or a COMBINE region. -/
theorem execSynFenceFlag_of_kind (hkind : attrKind u.mem p.a = 1 ∨ attrKind u.mem p.a = 2) :
    execSynFenceFlag ge ra rb s = .next (raiseSeq u ge 0x29 (tagAt s ge) (rdS (eng s ge) ra).toNat) := by
  rw [execSynFenceFlag_of_aligned hready h, hp]
  exact congrArg _ (if_pos hkind)

theorem execSynFenceFlag_of_place (h1 : attrKind u.mem p.a ≠ 1) (h2 : attrKind u.mem p.a ≠ 2) :
    execSynFenceFlag ge ra rb s = .next (addFence u
      { ctx := (eng s ge).seq.context, stamp := s.stamp, flag := some (p.a, rdS (eng s ge) rb) }) := by
  rw [execSynFenceFlag_of_aligned hready h, hp]
  exact congrArg _ (if_neg (not_or.mpr ⟨h1, h2⟩))
end
end
end
end

/-! ### syn.wait (R180) -/

section
variable {s : State} {ge cond ra rb rd : Nat} {imm : W32} (hready : ready s ge [ra, rb, rd] = true)
include hready

theorem execSynWait_of_reserved (h : 6 < cond ∨ cond ≠ 5 ∧ bits imm.toNat 31 16 ≠ 0) :
    execSynWait ge cond ra rb rd imm s = .next (raiseSeq (fetched s ge) ge 0x20 (tagAt s ge) 0) := by
  rw [execSynWait, issue_ready _ _ _ _ hready]
  exact congrArg ok (if_pos h)

theorem execSynWait_of_condition (hcond : cond ≤ 6) (htime : cond = 5 ∨ bits imm.toNat 31 16 = 0) :
    execSynWait ge cond ra rb rd imm s = .next (issuedAs s ge fun x => { x with seq := { x.seq with
      state := .waiting, wait := .cond cond imm.toNat (rdS (eng s ge) ra) (rdS (eng s ge) rb) rd 0 } }) := by
  have hlisted : ¬ (6 < cond ∨ cond ≠ 5 ∧ bits imm.toNat 31 16 ≠ 0) := by omega
  rw [execSynWait, issue_ready _ _ _ _ hready]
  exact congrArg ok (if_neg hlisted)
end

/-! ### The wait (R180, R195, R219) -/

/-- The wait goes on. -/
def waitsOn (cond imm : Nat) (va vb : W64) (rd w : Nat) (x : Engine) : Engine :=
  { x with seq := { x.seq with wait := .cond cond imm va vb rd w } }

section
variable {s u : State} {ge cond imm rd n waves : Nat} {va vb : W64} {d : List PByte}

/-- What an engine's own units decide. -/
theorem execSynWaitSatisfied_of_units (hwf : swf {} s.engines = true) (hwait : (eng s ge).seq.wait = .cond cond imm va vb rd n)
    (h5 : cond ≠ 5) : execSynWaitSatisfied ge waves s =
      (let x := waitWaves (eng s ge) cond waves
       .next (setEng (setEng s ge x) ge (if condHolds x cond imm then endWait x rd 1 else waitsOn cond imm va vb rd (n + waves) x))) := by
  have hread : eng (setEng s ge (waitWaves (eng s ge) cond waves)) ge = waitWaves (eng s ge) cond waves :=
    sget_sset_same _ _ _ _ hwf
  simp only [execSynWaitSatisfied, hwait, if_pos h5, modEng, hread]
  rfl

/-- What memory decides. -/
theorem execSynWaitSatisfied_of_memory (hwait : (eng s ge).seq.wait = .cond 5 imm va vb rd n)
    (hread : vRead (setEng s ge (waitWaves (eng s ge) 5 waves)) ge va.toNat 8 = (.ok d, u)) : execSynWaitSatisfied ge waves s =
      .next (modEng u ge fun x => if vb.toNat ≤ leNat (d.map Prod.fst) then endWait x rd 1
        else waitsOn 5 imm va vb rd (n + waves) x) := by
  have hread : vRead (modEng s ge fun e => waitWaves e 5 waves) ge va.toNat 8 = (.ok d, u) := hread
  simp only [execSynWaitSatisfied, hwait, ne_eq, not_true_eq_false, if_false, hread, decide_eq_true_eq]
  rfl

/-- The time-out of COND 5 has passed, or the wait goes on. -/
theorem execSynWaitTimeout_of_wait (hwait : (eng s ge).seq.wait = .cond cond imm va vb rd n) : execSynWaitTimeout ge waves s =
    (let x := waitWaves (eng s ge) cond waves
     .next (setEng s ge (if cond = 5 ∧ bits imm 31 16 ≠ 0 ∧ bits imm 31 16 * 1024 ≤ n + waves then endWait x rd 0
       else waitsOn cond imm va vb rd (n + waves) x))) := by
  simp only [execSynWaitTimeout, hwait]
  rfl
end

/-- Waves of a COND 4 or 5 wait count as external waves. -/
theorem waitWaves_extwait (e : Engine) (cond n : Nat) : (waitWaves e cond n).cnt.extwaitWaves =
    e.cnt.extwaitWaves + (if cond = 4 ∨ cond = 5 then BitVec.ofNat 64 n else 0) := by
  unfold waitWaves
  split
  · rfl
  · exact (BitVec.add_zero _).symm

/-- Settles O27: the fences by the flag's address, syn.wait by COND, and the wait by its condition, its bytes or its time-out. -/
theorem synInstructionsFenceAndWait : Obligations.SynInstructionsFenceAndWait := by
  intro s u ge cond ra rb rd waves k n code addr imm va vb p l d e f s2 g A waits resumes
  refine ⟨execSynFenceData_of_ready, fun hready => ⟨execSynFenceFlag_of_misaligned hready,
      fun h => execSynFenceFlag_of_failed_translation (c := (code, addr)) hready h, fun h hp => ⟨execSynFenceFlag_of_kind hready h hp,
        execSynFenceFlag_of_place hready h hp⟩⟩,
    fun hready => ⟨execSynWait_of_condition hready, execSynWait_of_reserved hready⟩, fun hwf hwait h5 => ?_,
    execSynWaitSatisfied_of_memory, fun hwait => ⟨fun h5 hlim hover => ?_, fun h => ?_⟩, waitWaves_extwait e k waves, fun _ => rfl⟩
  · have hunits := execSynWaitSatisfied_of_units (waves := waves) hwf hwait h5
    exact ⟨fun h => hunits.trans (congrArg (fun x => ok (setEng _ ge x)) (if_pos h)),
      fun h => hunits.trans (congrArg (fun x => ok (setEng _ ge x)) (if_neg (Bool.eq_false_iff.mp h)))⟩
  · exact (execSynWaitTimeout_of_wait hwait).trans (congrArg (fun x => ok (setEng s ge x)) (if_pos ⟨h5, hlim, hover⟩))
  · exact (execSynWaitTimeout_of_wait hwait).trans (congrArg (fun x => ok (setEng s ge x)) (if_neg (by omega)))

end Sys2Proof.Machine
end

section
/-! The Relay instructions (R160, R179, R261, R262, R267, R271, R273, R289, R292): when they wait, what refuses them before anything is
sent, and what each leaves. -/

namespace Sys2Proof.Machine

/-! ### Issue (R160, R217) -/

theorem issueRly_of_waiting {s : State} {ge : Nat} {regs : List Nat} {work : State → Engine → Tag → State}
    (h : 256 ≤ (eng s ge).units.rly.length ∨ fenceHolds s (eng s ge).seq.context s.stamp = true) :
    issueRly s ge regs work = s := if_pos h

/-- A Relay instruction that is issued: fewer than 256 operations are outstanding, no fence of the context holds it, and it is
ready. -/
structure RlyIssues (s : State) (ge : Nat) (regs : List Nat) : Prop where
  room : (eng s ge).units.rly.length < 256
  unfenced : fenceHolds s (eng s ge).seq.context s.stamp = false
  ready : ready s ge regs = true

theorem issueRly_of_issues {s : State} {ge : Nat} {regs : List Nat} {work : State → Engine → Tag → State}
    (h : RlyIssues s ge regs) : issueRly s ge regs work = work (issuedAs s ge id) (issued (eng s ge)) (tagAt s ge) := by
  have hgoes : ¬ (256 ≤ (eng s ge).units.rly.length ∨ fenceHolds s (eng s ge).seq.context s.stamp = true) := by
    simp [h.room, h.unfenced]
  rw [issueRly, if_neg hgoes, issue_ready _ _ _ _ h.ready]
  rfl

/-- A Relay code that an issued instruction raises. -/
def rlyRefuses (s : State) (ge code addr : Nat) (v : State) : State := raise v ge 3 0 code (eng s ge).seq.pc (BitVec.ofNat 64 addr)

theorem raiseRly_tagAt (s v : State) (ge code addr : Nat) : raiseRly v ge code (tagAt s ge) addr = rlyRefuses s ge code addr v := rfl

/-! ### rly.dispatch (R261, R262) -/

/-- The descriptors of a dispatch are in order and its control block is read (R168, R171). -/
structure DispatchReads (s : State) (ge ds dd rb : Nat) (b : List PByte) (s2 : State) : Prop where
  team : noTeam (issuedAs s ge id) = false
  block : dReserved (rdD (eng s ge) dd) = false
  blockSpace : dSpace (rdD (eng s ge) dd) ≤ 1
  records : dReserved (rdD (eng s ge) ds) = false
  recordSpace : dSpace (rdD (eng s ge) ds) ≤ 1
  acts : actBad (issued (eng s ge)) (rdD (eng s ge) ((rdS (eng s ge) rb).toNat % 16)) = none
  read : uReadSpace (issuedAs s ge id) ge (eng s ge).seq.context s.stamp (dSpace (rdD (eng s ge) dd)) (dBase (rdD (eng s ge) dd)) 64
    = (.ok b, s2)

/-- The words of a control block. -/
def dispatchBlock (b : List PByte) : List W64 := (chunk 8 64 (b.map Prod.fst)).map fun w => BitVec.ofNat 64 (leNat w)

section
variable {s s2 : State} {ge ds dd ra rb : Nat} {imm : W32} {b : List PByte} (h : RlyIssues s ge [ra, rb])
include h

theorem execRlyDispatch_of_bad_count (hn : imm.toNat = 0 ∨ 65535 < imm.toNat) :
    execRlyDispatch ge ds dd ra rb imm s = .next (rlyRefuses s ge 0x20 0 (issuedAs s ge id)) := by
  rw [execRlyDispatch, issueRly_of_issues h]
  exact congrArg ok (if_pos hn)

section
variable (hn0 : imm.toNat ≠ 0) (hn : imm.toNat ≤ 65535)
include hn0 hn

theorem execRlyDispatch_of_no_team (hteam : noTeam (issuedAs s ge id) = true) :
    execRlyDispatch ge ds dd ra rb imm s = .next (rlyRefuses s ge 0x24 0 (issuedAs s ge id)) := by
  rw [execRlyDispatch, issueRly_of_issues h]
  exact congrArg ok ((if_neg (by omega)).trans (if_pos hteam))

theorem execRlyDispatch_of_read (hread : DispatchReads s ge ds dd rb b s2) : execRlyDispatch ge ds dd ra rb imm s = .next (
    if cbBad (dispatchBlock b) then rlyRefuses s ge 0x22 (dBase (rdD (eng s ge) dd)) s2
    else startDispatch s2 ge (tagAt s ge) (dispatchBlock b) (rdD (eng s ge) ((rdS (eng s ge) rb).toNat % 16))
      (dSpace (rdD (eng s ge) ds)) (dBase (rdD (eng s ge) ds)) imm.toNat (bits (rdS (eng s ge) ra).toNat 19 0)) := by
  obtain ⟨hteam, hblock, hbspace, hrecords, hrspace, hacts, hbytes⟩ := hread
  have hcount : ¬ (imm.toNat = 0 ∨ 65535 < imm.toNat) := by omega
  have hdesc : ¬ (dReserved (rdD (eng s ge) dd) = true ∨ 1 < dSpace (rdD (eng s ge) dd) ∨ dReserved (rdD (eng s ge) ds) = true
      ∨ 1 < dSpace (rdD (eng s ge) ds)) := by
    simp [hblock, hrecords, hbspace, hrspace]
  rw [execRlyDispatch, issueRly_of_issues h]
  simp only [rdD_issued, rdS_issued, if_neg hcount, hteam, Bool.false_eq_true, if_false, if_neg hdesc, hacts]
  rw [show uReadSpace (issuedAs s ge id) ge (issued (eng s ge)).seq.context (tagAt s ge).stamp _ _ 64 = _ from hbytes]
  rfl
end
end

/-! ### rly.send outside GRAD (R271) -/

/-- A message whose stream and tensor are in order, and whose tensor is read (R168, R271). -/
structure SendReads (s : State) (ge ds ra : Nat) (l : List (List PByte)) (s2 : State) : Prop where
  team : noTeam (issuedAs s ge id) = false
  peer : keyPeer (rdS (eng s ge) ra).toNat < teamSize (issuedAs s ge id)
  tensor : dReserved (rdD (eng s ge) ds) = false
  space : dSpace (rdD (eng s ge) ds) ≤ 1
  extent0 : dExt0 (rdD (eng s ge) ds) ≠ 0
  extent1 : dExt1 (rdD (eng s ge) ds) ≠ 0
  aligned : tensorMisaligned (issued (eng s ge)) (rdD (eng s ge) ds) = false
  read : uReadAll (issuedAs s ge id) ge (eng s ge).seq.context s.stamp (dSpace (rdD (eng s ge) ds)) (dRows (rdD (eng s ge) ds))
    = (.ok l, s2)
  reaches : unreachable s2 (keyPeer (rdS (eng s ge) ra).toNat) (keyClass (rdS (eng s ge) ra).toNat) = false

section
variable {s s2 : State} {ge ds dd ra rb : Nat} {imm : W32} {l : List (List PByte)} (h : RlyIssues s ge [ra, rb])
include h

theorem execRlySend_of_bad_key (hkey : keyBad (rdS (eng s ge) ra).toNat = true) :
    execRlySend ge ds ra rb imm s = .next (rlyRefuses s ge 0x20 0 (issuedAs s ge id)) := by
  rw [execRlySend, issueRly_of_issues h]
  exact congrArg ok (if_pos (Bool.or_eq_true_iff.mpr (.inl hkey)))

section
variable (hkey : keyBad (rdS (eng s ge) ra).toNat = false) (hcls : keyClass (rdS (eng s ge) ra).toNat ≠ 2) (himm : imm = 0)
include hkey hcls himm

section
variable (hrb : rdS (eng s ge) rb = 0)
include hrb

theorem execRlySend_of_no_team (hteam : noTeam (issuedAs s ge id) = true) :
    execRlySend ge ds ra rb imm s = .next (rlyRefuses s ge 0x24 0 (issuedAs s ge id)) := by
  rw [execRlySend, issueRly_of_issues h]
  refine congrArg ok ((if_neg ?operands).trans (if_pos hteam))
  simp [hkey, hcls, himm, hrb]

theorem execRlySend_of_read (hread : SendReads s ge ds ra l s2) : execRlySend ge ds ra rb imm s = .next (
    queueMsg (newOp s2 ge (curStep s2) 1 true false).2 (keyPeer (rdS (eng s ge) ra).toNat) (keyClass (rdS (eng s ge) ra).toNat)
      { id := 0, op := some s2.rly.nextId, tcls := keyTensor (rdS (eng s ge) ra).toNat, step := curStep s2, data := l.flatten,
        bundle := none, body := .plain }) := by
  obtain ⟨hteam, hpeer, htensor, hspace, h0, h1, halign, hbytes, hreach⟩ := hread
  have hdesc : ¬ (dReserved (rdD (eng s ge) ds) = true ∨ 1 < dSpace (rdD (eng s ge) ds) ∨ dExt0 (rdD (eng s ge) ds) = 0
      ∨ dExt1 (rdD (eng s ge) ds) = 0) := by
    simp [htensor, hspace, h0, h1]
  have hplain : (keyClass (rdS (eng s ge) ra).toNat == 2) = false := by simpa using hcls
  have hbytes : uReadAll (issuedAs s ge id) ge (issued (eng s ge)).seq.context (tagAt s ge).stamp
    (dSpace (rdD (eng s ge) ds)) (dRows (rdD (eng s ge) ds)) = (.ok l, s2) := hbytes
  rw [execRlySend, issueRly_of_issues h]
  refine congrArg ok ((if_neg ?operands).trans ((if_neg (Bool.eq_false_iff.mp hteam)).trans
    ((if_neg (Nat.not_le.mpr hpeer)).trans ((if_neg hdesc).trans ((if_neg (Bool.eq_false_iff.mp halign)).trans ?tensor)))))
  case operands => simp [hkey, hcls, himm, hrb]
  case tensor =>
    simp only [rdS_issued, rdD_issued, hbytes, hreach, hplain, Bool.false_eq_true, if_false]
    rfl
end

/-! ### rly.postrx into the scratchpad (R271) -/

omit h hcls in
theorem postOperands_good : (keyBad (rdS (eng s ge) ra).toNat || imm != 0) = false := by
  simp [hkey, himm]

omit hcls in
theorem execRlyPostrx_of_no_team (hteam : noTeam (issuedAs s ge id) = true) :
    execRlyPostrx ge dd ra rb imm s = .next (rlyRefuses s ge 0x24 0 (issuedAs s ge id)) := by
  have hgood := postOperands_good hkey himm
  rw [execRlyPostrx, issueRly_of_issues h]
  simp only [rdS_issued, hgood, hteam, Bool.false_eq_true, if_false, if_true]
  rfl
end

theorem execRlyPostrx_of_bad_key (hkey : keyBad (rdS (eng s ge) ra).toNat = true) :
    execRlyPostrx ge dd ra rb imm s = .next (rlyRefuses s ge 0x20 0 (issuedAs s ge id)) := by
  rw [execRlyPostrx, issueRly_of_issues h]
  exact congrArg ok (if_pos (Bool.or_eq_true_iff.mpr (.inl hkey)))
end

/-- A posting whose stream is in order and whose rows lie in the scratchpad's binding (R168, R271). -/
structure SpadPost (s : State) (ge dd ra : Nat) (imm : W32) : Prop where
  key : keyBad (rdS (eng s ge) ra).toNat = false
  cls : keyClass (rdS (eng s ge) ra).toNat ≠ 2
  imm : imm = 0
  team : noTeam (issuedAs s ge id) = false
  tensor : dReserved (rdD (eng s ge) dd) = false
  space : dSpace (rdD (eng s ge) dd) = 0
  extent0 : dExt0 (rdD (eng s ge) dd) ≠ 0
  extent1 : dExt1 (rdD (eng s ge) dd) ≠ 0
  aligned : tensorMisaligned (issued (eng s ge)) (rdD (eng s ge) dd) = false
  bundle : keyClass (rdS (eng s ge) ra).toNat = 0 → 5120 ≤ dExt0 (rdD (eng s ge) dd)
  bound : rowsInSpad (issued (eng s ge)) (dRows (rdD (eng s ge) dd)) = none

/-- The buffers of a posting: one for each row of its tensor. -/
def spadPosting (s o : State) (ge dd ra rb : Nat) : Posting := {
  id := o.rly.nextId, op := (issuedAs s ge id).rly.nextId, ge := ge, ctx := (eng s ge).seq.context, pc := (eng s ge).seq.pc,
  peer := keyPeer (rdS (eng s ge) ra).toNat, cls := keyClass (rdS (eng s ge) ra).toNat,
  tcls := keyTensor (rdS (eng s ge) ra).toNat, spad := true, bufs := (dRows (rdD (eng s ge) dd)).map Prod.fst,
  left := (dRows (rdD (eng s ge) dd)).length, size := dExt0 (rdD (eng s ge) dd), flag := (rdS (eng s ge) rb).toNat % 2 ^ 57,
  region := 0, ctype := contribType {}, widen := false }

/-- A posting joins those that wait, and credits are offered on its class. -/
def posted (o : State) (p : Posting) : State :=
  offerCredits { o with rly := { o.rly with nextId := o.rly.nextId + 1, posts := o.rly.posts ++ [p] } } p.cls

theorem execRlyPostrx_of_spad {s : State} {ge dd ra rb : Nat} {imm : W32} (h : RlyIssues s ge [ra, rb])
    (hpost : SpadPost s ge dd ra imm) : execRlyPostrx ge dd ra rb imm s = .next (
      let o := (newOp (issuedAs s ge id) ge (curStep (issuedAs s ge id)) (dRows (rdD (eng s ge) dd)).length false true).2
      posted o (spadPosting s o ge dd ra rb)) := by
  obtain ⟨hkey, hcls, himm, hteam, htensor, hspace, h0, h1, halign, hbundle, hbound⟩ := hpost
  have hgood := postOperands_good hkey himm
  have hdesc : ¬ (dReserved (rdD (eng s ge) dd) = true ∨ 1 < dSpace (rdD (eng s ge) dd) ∨ dExt0 (rdD (eng s ge) dd) = 0
      ∨ dExt1 (rdD (eng s ge) dd) = 0) := by
    simp [htensor, hspace, h0, h1]
  have hroom : ¬ (keyClass (rdS (eng s ge) ra).toNat = 0 ∧ dExt0 (rdD (eng s ge) dd) < 1024 + 64 * 64) := by
    omega
  rw [execRlyPostrx, issueRly_of_issues h]
  simp only [rdS_issued, rdD_issued, hgood, hteam, Bool.false_eq_true, if_false, if_neg hcls, if_neg hdesc, halign, if_neg hroom,
    if_pos hspace, hbound, List.length_map]
  rfl

/-! ### rly.return (R267) -/

/-- The address of a bundle as received, and the space that it lies in. -/
def bundleVa (s : State) (ge ra : Nat) : Nat := (rdS (eng s ge) ra).toNat % 2 ^ 57

/-- The rows that the list in the scratchpad chooses. -/
def chosenRows (s : State) (ge dd n : Nat) : List Nat :=
  (List.range n).map fun i => spadNat (view (issued (eng s ge)) uRly s.stamp) (dBase (rdD (eng s ge) dd) + i) 1

/-- A return whose tensor and row list are in order, and whose bundle's header is read (R168, R267). -/
structure ReturnReads (s : State) (ge ds dd ra : Nat) (b : List PByte) (s2 : State) : Prop where
  team : noTeam (issuedAs s ge id) = false
  tensor : dReserved (rdD (eng s ge) ds) = false
  space : dSpace (rdD (eng s ge) ds) ≤ 1
  extent : dExt0 (rdD (eng s ge) ds) ≠ 0
  even : dExt0 (rdD (eng s ge) ds) % 2 = 0
  list : dReserved (rdD (eng s ge) dd) = false
  listSpace : dSpace (rdD (eng s ge) dd) = 0
  listAligned : dBase (rdD (eng s ge) dd) % 64 = 0
  aligned : tensorMisaligned (issued (eng s ge)) (rdD (eng s ge) ds) = false
  listBound : spadOk (issued (eng s ge)) (dBase (rdD (eng s ge) dd)) 64 = true
  read : uReadSpace (issuedAs s ge id) ge (eng s ge).seq.context s.stamp (if bundleVa s ge ra < 2 ^ 22 then 0 else 1)
    (bundleVa s ge ra) 576 = (.ok b, s2)

section
variable {s s2 s3 : State} {ge ds dd ra : Nat} {imm : W32} {b : List PByte} {l : List (List PByte)} (h : RlyIssues s ge [ra])
include h

theorem execRlyReturn_of_bad_count (hn : 64 < imm.toNat) :
    execRlyReturn ge ds dd ra imm s = .next (rlyRefuses s ge 0x20 0 (issuedAs s ge id)) := by
  rw [execRlyReturn, issueRly_of_issues h]
  exact congrArg ok (if_pos hn)

section
variable (hn : imm.toNat ≤ 64)
include hn

theorem execRlyReturn_of_no_team (hteam : noTeam (issuedAs s ge id) = true) :
    execRlyReturn ge ds dd ra imm s = .next (rlyRefuses s ge 0x24 0 (issuedAs s ge id)) := by
  rw [execRlyReturn, issueRly_of_issues h]
  exact congrArg ok ((if_neg (Nat.not_lt.mpr hn)).trans (if_pos hteam))

section
variable (hread : ReturnReads s ge ds dd ra b s2)
include hread

theorem execRlyReturn_of_read : execRlyReturn ge ds dd ra imm s = .next (
    let hd := b.map Prod.fst
    let rows := chosenRows s ge dd imm.toNat
    if hdBad hd || rows.any (fun r => decide (hdRows hd ≤ r)) then rlyRefuses s ge 0x25 (bundleVa s ge ra) s2 else
    match uReadAll s2 ge (eng s ge).seq.context s.stamp (dSpace (rdD (eng s ge) ds)) (rows.map fun (r : Nat) =>
        (addrAt (dBase (rdD (eng s ge) ds)) ((r : Int) * dStride1 (rdD (eng s ge) ds)), dExt0 (rdD (eng s ge) ds))) with
    | (.error c, s3) => raiseSeq s3 ge c.1 (tagAt s ge) c.2
    | (.ok out, s3) =>
      if unreachable s3 (hdSender hd) 1 then s3 else
      queueMsg (newOp s3 ge (hdStep hd) 1 true false).2 (hdSender hd) 1
        { id := 0, op := some s3.rly.nextId, tcls := 0, step := hdStep hd, body := .plain, bundle := none,
          data := (rowHeader (hdBundle hd) (hdStep hd) (hdEntry hd) (selfNo s3) imm.toNat 0 (rows.map (hdRef hd))).map
            (·, false) ++ out.flatten }) := by
  obtain ⟨hteam, htensor, hspace, h0, heven, hlist, hlspace, hlalign, halign, hlbound, hbytes⟩ := hread
  have hdesc : ¬ (dReserved (rdD (eng s ge) ds) = true ∨ 1 < dSpace (rdD (eng s ge) ds) ∨ dExt0 (rdD (eng s ge) ds) = 0
      ∨ dExt0 (rdD (eng s ge) ds) % 2 ≠ 0 ∨ dReserved (rdD (eng s ge) dd) = true ∨ dSpace (rdD (eng s ge) dd) ≠ 0) := by
    simp [htensor, hspace, h0, heven, hlist, hlspace]
  have hbytes : uReadSpace (issuedAs s ge id) ge (issued (eng s ge)).seq.context (tagAt s ge).stamp
    (if (rdS (issued (eng s ge)) ra).toNat % 2 ^ 57 < 2 ^ 22 then 0 else 1) ((rdS (issued (eng s ge)) ra).toNat % 2 ^ 57) 576
      = (.ok b, s2) := hbytes
  rw [execRlyReturn, issueRly_of_issues h]
  refine congrArg ok ((if_neg (Nat.not_lt.mpr hn)).trans ((if_neg (Bool.eq_false_iff.mp hteam)).trans ((if_neg hdesc).trans
    ((if_neg (not_not_intro hlalign)).trans ((if_neg (Bool.eq_false_iff.mp halign)).trans ((if_neg ?bound).trans ?bundle))))))
  case bound => exact Bool.eq_false_iff.mp ((Bool.not_eq_false' ..).mpr hlbound)
  case bundle =>
    rw [hbytes]
    rfl

/-- A header that is none, or a row that the bundle does not have. -/
theorem execRlyReturn_of_bad_bundle (hbad : (hdBad (b.map Prod.fst) || (chosenRows s ge dd imm.toNat).any
    fun r => decide (hdRows (b.map Prod.fst) ≤ r)) = true) :
    execRlyReturn ge ds dd ra imm s = .next (rlyRefuses s ge 0x25 (bundleVa s ge ra) s2) :=
  (execRlyReturn_of_read h hn hread).trans (congrArg ok (if_pos hbad))

theorem execRlyReturn_of_rows (hgood : (hdBad (b.map Prod.fst) || (chosenRows s ge dd imm.toNat).any
      fun r => decide (hdRows (b.map Prod.fst) ≤ r)) = false)
    (hrows : uReadAll s2 ge (eng s ge).seq.context s.stamp (dSpace (rdD (eng s ge) ds))
      ((chosenRows s ge dd imm.toNat).map fun (r : Nat) =>
        (addrAt (dBase (rdD (eng s ge) ds)) ((r : Int) * dStride1 (rdD (eng s ge) ds)), dExt0 (rdD (eng s ge) ds))) = (.ok l, s3))
    (hreach : unreachable s3 (hdSender (b.map Prod.fst)) 1 = false) : execRlyReturn ge ds dd ra imm s = .next (
      let hd := b.map Prod.fst
      queueMsg (newOp s3 ge (hdStep hd) 1 true false).2 (hdSender hd) 1
        { id := 0, op := some s3.rly.nextId, tcls := 0, step := hdStep hd, body := .plain, bundle := none,
          data := (rowHeader (hdBundle hd) (hdStep hd) (hdEntry hd) (selfNo s3) imm.toNat 0
            ((chosenRows s ge dd imm.toNat).map (hdRef hd))).map (·, false) ++ l.flatten }) := by
  rw [execRlyReturn_of_read h hn hread]
  simp only [hgood, hrows, hreach, Bool.false_eq_true, if_false]
end
end

/-! ### rly.stepflags and rly.cancelrx (R271, R289, R292) -/

theorem execRlyStepflags_of_reserved (hi : (imm.toNat ||| 0x12A) ≠ 0x12A) :
    execRlyStepflags ge ra imm s = .next (rlyRefuses s ge 0x20 0 (issuedAs s ge id)) := by
  rw [execRlyStepflags, issueRly_of_issues h]
  exact congrArg ok (if_pos (bne_iff_ne.mpr hi))

theorem execRlyCancelrx_of_bad (hbad : keyBad (rdS (eng s ge) ra).toNat = true ∨ imm ≠ 0) :
    execRlyCancelrx ge ra imm s = .next (rlyRefuses s ge 0x20 0 (issuedAs s ge id)) := by
  rw [execRlyCancelrx, issueRly_of_issues h]
  exact congrArg ok (if_pos (by simpa using hbad))

section
variable (hteam : noTeam (issuedAs s ge id) = false)
include hteam

theorem execRlyStepflags_of_flags (hi : (imm.toNat ||| 0x12A) = 0x12A) : execRlyStepflags ge ra imm s = .next (
    let step := (rdS (eng s ge) ra).toNat % 2 ^ 32
    let e := issued (eng s ge)
    let ovf := bitAt imm.toNat 3 && e.chain.ovf
    modStep (startStep (issuedAs s ge id) step) step fun x => { x with
      ovf := x.ovf || ovf, halve := x.halve || ovf, inv := x.inv || (bitAt imm.toNat 1 && e.chain.inv),
      poison := x.poison || (bitAt imm.toNat 5 && e.chain.poison),
      ended := if bitAt imm.toNat 8 && !x.ended.contains (eng s ge).seq.context then x.ended ++ [(eng s ge).seq.context]
        else x.ended }) := by
  have hlisted : ¬ ((imm.toNat ||| 0x12A) != 0x12A) = true := by simpa using hi
  rw [execRlyStepflags, issueRly_of_issues h]
  exact congrArg ok ((if_neg hlisted).trans (if_neg (Bool.eq_false_iff.mp hteam)))

theorem execRlyCancelrx_of_key (hkey : keyBad (rdS (eng s ge) ra).toNat = false) (himm : imm = 0) :
    execRlyCancelrx ge ra imm s = .next (((issuedAs s ge id).rly.posts.filter fun p =>
      p.ctx == (eng s ge).seq.context && p.peer == keyPeer (rdS (eng s ge) ra).toNat
        && p.cls == keyClass (rdS (eng s ge) ra).toNat && p.tcls == keyTensor (rdS (eng s ge) ra).toNat).foldl cancelPost
      (issuedAs s ge id)) := by
  have hgood := postOperands_good (imm := imm) hkey himm
  rw [execRlyCancelrx, issueRly_of_issues h]
  exact congrArg ok ((if_neg (Bool.eq_false_iff.mp hgood)).trans (if_neg (Bool.eq_false_iff.mp hteam)))
end
end

/-- Settles O34: each instruction by what makes it wait, what refuses it, and what its reads answer. -/
theorem relayInstructionsIssueOrRefuse : Obligations.RelayInstructionsIssueOrRefuse := by
  intro s s2 s3 ge ds dd ra rb imm b l e u g n key D S ctx refuse team room aligned cb VA rows h
  refine ⟨fun hroom hready => ?pair, fun hroom hready => ?single, fun hwaits => ?waits⟩
  case pair =>
    have hissue : RlyIssues s ge [ra, rb] := ⟨hroom.1, hroom.2, hready⟩
    refine ⟨execRlyDispatch_of_bad_count hissue, fun hn0 hn => ⟨execRlyDispatch_of_no_team hissue hn0 hn, ?dispatch⟩,
      fun hkey => ⟨execRlySend_of_bad_key hissue hkey, execRlyPostrx_of_bad_key hissue hkey⟩,
      fun hkey hcls himm => ⟨execRlySend_of_no_team hissue hkey hcls himm, ?send,
        execRlyPostrx_of_no_team hissue hkey himm, ?postrx⟩⟩
    case dispatch =>
      intro hteam hD hDsp hS hSsp hact hb
      have hread := execRlyDispatch_of_read hissue hn0 hn ⟨hteam, hD, hDsp, hS, hSsp, hact, hb⟩
      exact ⟨fun hbad => hread.trans (congrArg ok (if_pos hbad)),
        fun hgood => hread.trans (congrArg ok (if_neg (Bool.eq_false_iff.mp hgood)))⟩
    case send =>
      intro hrb hteam hpeer hS hSsp h0 h1 halign hl hreach
      exact execRlySend_of_read hissue hkey hcls himm hrb ⟨hteam, hpeer, hS, hSsp, h0, h1, halign, hl, hreach⟩
    case postrx =>
      intro hteam hD hDsp h0 h1 halign hbundle hbound
      exact execRlyPostrx_of_spad hissue ⟨hkey, hcls, himm, hteam, hD, hDsp, h0, h1, halign, hbundle, hbound⟩
  case single =>
    have hissue : RlyIssues s ge [ra] := ⟨hroom.1, hroom.2, hready⟩
    refine ⟨execRlyReturn_of_bad_count hissue, fun hn => ⟨execRlyReturn_of_no_team hissue hn, ?back⟩,
      execRlyStepflags_of_reserved hissue, fun hi hteam => execRlyStepflags_of_flags hissue hteam hi,
      execRlyCancelrx_of_bad hissue, fun hkey himm hteam => execRlyCancelrx_of_key hissue hteam hkey himm⟩
    case back =>
      intro hteam hS hSsp h0 heven hD hDsp hDalign halign hbound hb
      have hread : ReturnReads s ge ds dd ra b s2 := ⟨hteam, hS, hSsp, h0, heven, hD, hDsp, hDalign, halign, hbound, hb⟩
      exact ⟨execRlyReturn_of_bad_bundle hissue hn hread, execRlyReturn_of_rows hissue hn hread⟩
  case waits =>
    have waits (regs : List Nat) (work : State → Engine → Tag → State) : ok (issueRly s ge regs work) = .next s :=
      congrArg _ (issueRly_of_waiting hwaits)
    exact ⟨waits _ _, waits _ _, waits _ _, waits _ _, waits _ _, waits _ _⟩

end Sys2Proof.Machine
end

section
/-! The canonical form of memory (R196, R211, R223, R229, R386; assumption log 3): every command keeps it, and the state after reset
has it. -/

namespace Sys2Proof.Machine

section
variable {s : State}

/-- A command that leaves memory alone keeps its form. -/
theorem memForm_of_unchanged {x : Host.Outcome State Fault Refusal} (hs : s.mem.wf = true) (h : ∀ t, x = .next t → t.mem = s.mem) :
    ∀ t, x = .next t → t.mem.wf = true := fun t ht => by rw [h t ht]; exact hs

/-- No command leaves memory out of its form: what each does to memory is the lemma of its own unit. -/
theorem exec_keeps_memForm (c : Instr) (hs : s.mem.wf = true) : ∀ t, exec c s = .next t → t.mem.wf = true := by
  cases c with
  | standbyPowerOn => exact execStandbyPowerOn_mem s hs
  | pkgResetAssert => exact execPkgResetAssert_mem s hs
  | pkgResetRelease straps finds => exact memForm_of_unchanged hs (execPkgResetRelease_mem straps finds s)
  | roleAnnounceTimeout => exact memForm_of_unchanged hs (execRoleAnnounceTimeout_mem s)
  | bootWatchdogReset => exact memForm_of_unchanged hs (execBootWatchdogReset_mem s)
  | recoveryImageChunk data last sig => exact memForm_of_unchanged hs (execRecoveryImageChunk_mem data last sig s)
  | powerGoodRise rail failed => exact execPowerGoodRise_mem rail failed s hs
  | powerGoodTimeout rail lost => exact execPowerGoodTimeout_mem rail lost s hs
  | powerGoodFall rail lost => exact execPowerGoodFall_mem rail lost s hs
  | powerBrakeAssert => exact memForm_of_unchanged hs (execPowerBrakeAssert_mem s)
  | powerBrakeRelease => exact memForm_of_unchanged hs (execPowerBrakeRelease_mem s)
  | wakeNAssert => exact memForm_of_unchanged hs (execWakeNAssert_mem s)
  | vstbyLoss => exact execVstbyLoss_mem s hs
  | tapBypass data => exact memForm_of_unchanged hs (execTapBypass_mem data s)
  | tapSamplePreload pins data => exact memForm_of_unchanged hs (execTapSamplePreload_mem pins data s)
  | tapExtest pins data => exact memForm_of_unchanged hs (execTapExtest_mem pins data s)
  | tapIdcode => exact memForm_of_unchanged hs (execTapIdcode_mem s)
  | tapReset => exact memForm_of_unchanged hs (execTapReset_mem s)
  | ostlerHeartbeat => exact memForm_of_unchanged hs (execOstlerHeartbeat_mem s)
  | standbyTakeover dies => exact memForm_of_unchanged hs (execStandbyTakeover_mem dies s)
  | handoverRequest dies => exact execHandoverRequest_mem dies s hs
  | standbySelfTestPass => exact memForm_of_unchanged hs (execStandbySelfTestPass_mem s)
  | standbySyncComplete => exact memForm_of_unchanged hs (execStandbySyncComplete_mem s)
  | mgmtRingCommand epoch cmd => exact memForm_of_unchanged hs (execMgmtRingCommand_mem epoch cmd s)
  | groomHeartbeat groom => exact memForm_of_unchanged hs (execGroomHeartbeat_mem groom s)
  | groomSilent groom resetOk lines engines => exact execGroomSilent_mem groom resetOk lines engines s hs
  | groomRestartReport groom => exact execGroomRestartReport_mem groom s hs
  | groomReportTimeout groom resetOk lines engines => exact execGroomReportTimeout_mem groom resetOk lines engines s hs
  | groomHoldTimeout lost => exact execGroomHoldTimeout_mem lost s hs
  | odpRead eid frame => exact execOdpRead_mem eid frame s hs
  | odpWrite eid env frame => exact execOdpWrite_mem eid env frame s hs
  | odpWriteSet eid env frame => exact execOdpWriteSet_mem eid env frame s hs
  | odpReadStaged eid frame => exact execOdpReadStaged_mem eid frame s hs
  | odpEnum eid frame => exact execOdpEnum_mem eid frame s hs
  | mctpSetEndpointId op eid => exact memForm_of_unchanged hs (execMctpSetEndpointId_mem op eid s)
  | mctpGetEndpointId => exact memForm_of_unchanged hs (execMctpGetEndpointId_mem s)
  | mctpGetVersionSupport type => exact memForm_of_unchanged hs (execMctpGetVersionSupport_mem type s)
  | mctpGetMessageTypeSupport => exact memForm_of_unchanged hs (execMctpGetMessageTypeSupport_mem s)
  | mctpGetVendorMsgSupport selector => exact memForm_of_unchanged hs (execMctpGetVendorMsgSupport_mem selector s)
  | i3cEntdaa addr => exact memForm_of_unchanged hs (execI3cEntdaa_mem addr s)
  | i3cSetdasa target addr => exact memForm_of_unchanged hs (execI3cSetdasa_mem target addr s)
  | mailboxSubmit ch w env => exact execMailboxSubmit_mem ch w env s hs
  | mailboxDoneClear x => exact memForm_of_unchanged hs (execMailboxDoneClear_mem x s)
  | registerWrite agent pa width v => exact execRegisterWrite_mem agent pa width v s hs
  | snapshotRead agent x => exact memForm_of_unchanged hs (execSnapshotRead_mem agent x s)
  | chainStatusW1c ge v => exact memForm_of_unchanged hs (execChainStatusW1c_mem ge v s)
  | rangeErrorW1c p v => exact memForm_of_unchanged hs (execRangeErrorW1c_mem p v s)
  | gaitMonitorSample cluster pred live => exact memForm_of_unchanged hs (execGaitMonitorSample_mem cluster pred live s)
  | governorInterval powers other hosts temps hbm avs lost => exact execGovernorInterval_mem powers other hosts temps hbm avs lost s hs
  | floorBreachClear => exact memForm_of_unchanged hs (execFloorBreachClear_mem s)
  | groomPowerSample die power => exact memForm_of_unchanged hs (execGroomPowerSample_mem die power s)
  | slewWindow mean dies full => exact memForm_of_unchanged hs (execSlewWindow_mem mean dies full s)
  | coolantDemandUpdate mean => exact memForm_of_unchanged hs (execCoolantDemandUpdate_mem mean s)
  | liveCalibration cluster pred live => exact memForm_of_unchanged hs (execLiveCalibration_mem cluster pred live s)
  | replicaSelfCheck cluster cal => exact memForm_of_unchanged hs (execReplicaSelfCheck_mem cluster cal s)
  | avsbusRetry die good => exact memForm_of_unchanged hs (execAvsbusRetry_mem die good s)
  | supplyFault lost => exact execSupplyFault_mem lost s hs
  | sensorCheck die reads => exact memForm_of_unchanged hs (execSensorCheck_mem die reads s)
  | eyeRetrainScan pc => exact memForm_of_unchanged hs (execEyeRetrainScan_mem pc s)
  | eyeRetrainHold pc => exact memForm_of_unchanged hs (execEyeRetrainHold_mem pc s)
  | thermalTrip die lost => exact execThermalTrip_mem die lost s hs
  | hobbleRequest lost => exact execHobbleRequest_mem lost s hs
  | hobbleExit => exact execHobbleExit_mem s hs
  | hobbleAutoExit => exact memForm_of_unchanged hs (execHobbleAutoExit_mem s)
  | sleepRequest lost => exact execSleepRequest_mem lost s hs
  | studbookSubmit => exact memForm_of_unchanged hs (execStudbookSubmit_mem s)
  | tokenRefill => exact memForm_of_unchanged hs (execTokenRefill_mem s)
  | studbookRecordWrite => exact memForm_of_unchanged hs (execStudbookRecordWrite_mem s)
  | recorderFailure recorder => exact memForm_of_unchanged hs (execRecorderFailure_mem recorder s)
  | studbookNorCopyDone => exact memForm_of_unchanged hs (execStudbookNorCopyDone_mem s)
  | studbookRecordRead reader => exact memForm_of_unchanged hs (execStudbookRecordRead_mem reader s)
  | qvaRecordRead reader => exact memForm_of_unchanged hs (execQvaRecordRead_mem reader s)
  | swRecord data => exact execSwRecord_mem data s hs
  | triggerEntryWrite data => exact execTriggerEntryWrite_mem data s hs
  | rateLimitWrite burst v => exact execRateLimitWrite_mem burst v s hs
  | updateLoad => exact execUpdateLoad_mem s hs
  | updateLoadComplete sig flash => exact memForm_of_unchanged hs (execUpdateLoadComplete_mem sig flash s)
  | updateGrooms => exact execUpdateGrooms_mem s hs
  | updateOstler => exact execUpdateOstler_mem s hs
  | updateAtReset => exact execUpdateAtReset_mem s hs
  | updateCommitSvn => exact execUpdateCommitSvn_mem s hs
  | repairRecordCommit kind => exact memForm_of_unchanged hs (execRepairRecordCommit_mem kind s)
  | attestNonce reader nonce => exact execAttestNonce_mem reader nonce s hs
  | bottomTreeCompute => exact memForm_of_unchanged hs (execBottomTreeCompute_mem s)
  | slotAdmission slot => exact memForm_of_unchanged hs (execSlotAdmission_mem slot s)
  | drainRequest slot => exact memForm_of_unchanged hs (execDrainRequest_mem slot s)
  | containmentReport kind unit resetOk lines engines => exact execContainmentReport_mem kind unit resetOk lines engines s hs
  | containmentClear kind unit => exact execContainmentClear_mem kind unit s hs
  | remount slot test readable => exact execRemount_mem slot test readable s hs
  | spareMapCommit slot => exact memForm_of_unchanged hs (execSpareMapCommit_mem slot s)
  | remountResume slot readable => exact execRemountResume_mem slot readable s hs
  | unitReadmission kind unit pass bySleep => exact execUnitReadmission_mem kind unit pass bySleep s hs
  | packedModeEnter slot arr => exact memForm_of_unchanged hs (execPackedModeEnter_mem slot arr s)
  | packedModeExit slot arr => exact memForm_of_unchanged hs (execPackedModeExit_mem slot arr s)
  | packedModeTest slot test => exact memForm_of_unchanged hs (execPackedModeTest_mem slot test s)
  | spareTestInterval die tests => exact memForm_of_unchanged hs (execSpareTestInterval_mem die tests s)
  | checkpointPoint step => exact execCheckpointPoint_mem step s hs
  | checkpointCopyComplete => exact execCheckpointCopyComplete_mem s hs
  | checkpointDrainComplete stored => exact memForm_of_unchanged hs (execCheckpointDrainComplete_mem stored s)
  | checkpointRestore images => exact execCheckpointRestore_mem images s hs
  | replayStallTimeout step => exact memForm_of_unchanged hs (execReplayStallTimeout_mem step s)
  | groupTallyReport member step group tally => exact execGroupTallyReport_mem member step group tally s hs
  | replicaTripleExchange group handle step triples => exact execReplicaTripleExchange_mem group handle step triples s hs
  | replicaRepairInstall group handle step data => exact execReplicaRepairInstall_mem group handle step data s hs
  | replicaScrub step => exact execReplicaScrub_mem step s hs
  | memberSuspect member => exact memForm_of_unchanged hs (execMemberSuspect_mem member s)
  | declareLost member => exact execDeclareLost_mem member s hs
  | schedulerDecision p delta bills => exact execSchedulerDecision_mem p delta bills s hs
  | sliceEnd ctx => exact memForm_of_unchanged hs (execSliceEnd_mem ctx s)
  | blockThresholdReached ctx => exact memForm_of_unchanged hs (execBlockThresholdReached_mem ctx s)
  | contextDispatch ctx => exact execContextDispatch_mem ctx s hs
  | swapOutComplete ctx => exact execSwapOutComplete_mem ctx s hs
  | swapInComplete ctx => exact memForm_of_unchanged hs (execSwapInComplete_mem ctx s)
  | paddockStart p => exact execPaddockStart_mem p s hs
  | paddockStop p => exact memForm_of_unchanged hs (execPaddockStop_mem p s)
  | paddockDrainComplete p => exact memForm_of_unchanged hs (execPaddockDrainComplete_mem p s)
  | paddockClustersWrite p hi v => exact execPaddockClustersWrite_mem p hi v s hs
  | ringRangeWrite p count v => exact execRingRangeWrite_mem p count v s hs
  | paddockRangeWrite p entry word v => exact memForm_of_unchanged hs (execPaddockRangeWrite_mem p entry word v s)
  | shareWeightWrite ctx v => exact execShareWeightWrite_mem ctx v s hs
  | doorbell ring d => exact memForm_of_unchanged hs (execDoorbell_mem ring d s)
  | doorbellContinue ring => exact memForm_of_unchanged hs (execDoorbellContinue_mem ring s)
  | doorbellReset ring => exact memForm_of_unchanged hs (execDoorbellReset_mem ring s)
  | ringEnable die w => exact execRingEnable_mem die w s hs
  | ringDisable die w => exact execRingDisable_mem die w s hs
  | ringCtlReset die w => exact execRingCtlReset_mem die w s hs
  | cmdNop ring => exact execCmdNop_mem ring s hs
  | cmdLaunch ring => exact execCmdLaunch_mem ring s hs
  | cmdWrite ring => exact execCmdWrite_mem ring s hs
  | cmdCmb ring => exact execCmdCmb_mem ring s hs
  | cmdWait ring => exact execCmdWait_mem ring s hs
  | cmdWaitPoll ring => exact execCmdWaitPoll_mem ring s hs
  | cmdWaitTimeout ring => exact execCmdWaitTimeout_mem ring s hs
  | cmdCreate ring => exact execCmdCreate_mem ring s hs
  | cmdDestroy ring => exact execCmdDestroy_mem ring s hs
  | cmdUnknownOpcode ring => exact execCmdUnknownOpcode_mem ring s hs
  | launchComplete ctx => exact execLaunchComplete_mem ctx s hs
  | hostDieReset die lost => exact execHostDieReset_mem die lost s hs
  | hostCoreReset hart late failed => exact execHostCoreReset_mem hart late failed s hs
  | hostDieResetExit die => exact memForm_of_unchanged hs (execHostDieResetExit_mem die s)
  | ctlNop ge => exact execCtlNop_mem ge s hs
  | ctlLi ge rd imm => exact execCtlLi_mem ge rd imm s hs
  | ctlLih ge rd imm => exact execCtlLih_mem ge rd imm s hs
  | ctlAdd ge rd ra rb => exact execCtlAdd_mem ge rd ra rb s hs
  | ctlSub ge rd ra rb => exact execCtlSub_mem ge rd ra rb s hs
  | ctlMul ge rd ra rb => exact execCtlMul_mem ge rd ra rb s hs
  | ctlAnd ge rd ra rb => exact execCtlAnd_mem ge rd ra rb s hs
  | ctlOr ge rd ra rb => exact execCtlOr_mem ge rd ra rb s hs
  | ctlXor ge rd ra rb => exact execCtlXor_mem ge rd ra rb s hs
  | ctlAddi ge rd ra imm => exact execCtlAddi_mem ge rd ra imm s hs
  | ctlSlli ge rd ra imm => exact execCtlSlli_mem ge rd ra imm s hs
  | ctlSrli ge rd ra imm => exact execCtlSrli_mem ge rd ra imm s hs
  | ctlSrai ge rd ra imm => exact execCtlSrai_mem ge rd ra imm s hs
  | ctlAndi ge rd ra imm => exact execCtlAndi_mem ge rd ra imm s hs
  | ctlBeq ge ra rb imm => exact execCtlBeq_mem ge ra rb imm s hs
  | ctlBne ge ra rb imm => exact execCtlBne_mem ge ra rb imm s hs
  | ctlBlt ge ra rb imm => exact execCtlBlt_mem ge ra rb imm s hs
  | ctlBge ge ra rb imm => exact execCtlBge_mem ge ra rb imm s hs
  | ctlBltu ge ra rb imm => exact execCtlBltu_mem ge ra rb imm s hs
  | ctlBgeu ge ra rb imm => exact execCtlBgeu_mem ge ra rb imm s hs
  | ctlJal ge rd imm => exact execCtlJal_mem ge rd imm s hs
  | ctlJr ge ra => exact execCtlJr_mem ge ra s hs
  | ctlLds ge rd ra imm => exact execCtlLds_mem ge rd ra imm s hs
  | ctlSts ge ra rb imm => exact execCtlSts_mem ge ra rb imm s hs
  | ctlDld ge rd ra imm => exact execCtlDld_mem ge rd ra imm s hs
  | ctlDst ge ra rb imm => exact execCtlDst_mem ge ra rb imm s hs
  | ctlDsetw ge rd ra imm => exact execCtlDsetw_mem ge rd ra imm s hs
  | ctlDaddw ge rd ra imm => exact execCtlDaddw_mem ge rd ra imm s hs
  | ctlRds ge rd imm => exact execCtlRds_mem ge rd imm s hs
  | ctlYieldpt ge imm => exact execCtlYieldpt_mem ge imm s hs
  | ctlFault ge imm => exact execCtlFault_mem ge imm s hs
  | ctlEnd ge imm => exact execCtlEnd_mem ge imm s hs
  | illegalInstruction ge word => exact execIllegalInstruction_mem ge word s hs
  | yieldSave ge waves => exact memForm_of_unchanged hs (execYieldSave_mem ge waves s)
  | streamEnd ge waves => exact memForm_of_unchanged hs (execStreamEnd_mem ge waves s)
  | yieldGapExceeded ge => exact memForm_of_unchanged hs (execYieldGapExceeded_mem ge s)
  | overrun ge => exact memForm_of_unchanged hs (execOverrun_mem ge s)
  | movCopy ge q ds dd => exact execMovCopy_mem ge q ds dd s hs
  | movFill ge q dd ra => exact execMovFill_mem ge q dd ra s hs
  | movCmb ge q ds dd ra imm => exact execMovCmb_mem ge q ds dd ra imm s hs
  | movCdone ge q dd ra imm => exact execMovCdone_mem ge q dd ra imm s hs
  | movCopen ge q ds => exact execMovCopen_mem ge q ds s hs
  | movCclose ge q dd => exact execMovCclose_mem ge q dd s hs
  | movTransferComplete ge q => exact execMovTransferComplete_mem ge q s hs
  | moveUnitFault ge q => exact execMoveUnitFault_mem ge q s hs
  | regEccError ge => exact execRegEccError_mem ge s hs
  | mtxRun ge arr rb imm => exact execMtxRun_mem ge arr rb imm s hs
  | mtxTdecl ge arr imm => exact execMtxTdecl_mem ge arr imm s hs
  | mtxTrel ge arr imm => exact execMtxTrel_mem ge arr imm s hs
  | mtxTzero ge arr imm => exact execMtxTzero_mem ge arr imm s hs
  | mtxTclr ge arr imm => exact execMtxTclr_mem ge arr imm s hs
  | mtxTsave ge arr dr imm => exact execMtxTsave_mem ge arr dr imm s hs
  | mtxTrest ge arr dr imm => exact execMtxTrest_mem ge arr dr imm s hs
  | mtxTstat ge arr rd imm => exact execMtxTstat_mem ge arr rd imm s hs
  | mtxFmtld ge dr imm => exact execMtxFmtld_mem ge dr imm s hs
  | formatSlotLoad ge => exact execFormatSlotLoad_mem ge s hs
  | passStart ge arr => exact execPassStart_mem ge arr s hs
  | arrayWave ge arr dry busy fill => exact execArrayWave_mem ge arr dry busy fill s hs
  | shadowLoadRead ge arr => exact execShadowLoadRead_mem ge arr s hs
  | shadowLoadBankWrite ge arr => exact memForm_of_unchanged hs (execShadowLoadBankWrite_mem ge arr s)
  | finishedTileRaise ge arr tile => exact memForm_of_unchanged hs (execFinishedTileRaise_mem ge arr tile s)
  | fullSaveStop ctx waves => exact execFullSaveStop_mem ctx waves s hs
  | fullSaveResume ge arr => exact execFullSaveResume_mem ge arr s hs
  | arrayHwFault ge arr code => exact execArrayHwFault_mem ge arr code s hs
  | handshakeTimeout ge unit => exact execHandshakeTimeout_mem ge unit s hs
  | vchRun ge rp rc imm => exact execVchRun_mem ge rp rc imm s hs
  | vchCrvld ge dr imm => exact execVchCrvld_mem ge dr imm s hs
  | vchCclr ge imm => exact execVchCclr_mem ge imm s hs
  | vchCstat ge rd => exact execVchCstat_mem ge rd s hs
  | curveSlotLoad ge => exact execCurveSlotLoad_mem ge s hs
  | chainInstrStart ge => exact execChainInstrStart_mem ge s hs
  | chainInstrComplete ge p => exact execChainInstrComplete_mem ge p s hs
  | chainHwFault ge code => exact execChainHwFault_mem ge code s hs
  | rlyDispatch ge ds dd ra rb imm => exact execRlyDispatch_mem ge ds dd ra rb imm s hs
  | rlySend ge ds ra rb imm => exact execRlySend_mem ge ds ra rb imm s hs
  | rlyPostrx ge dd ra rb imm => exact execRlyPostrx_mem ge dd ra rb imm s hs
  | rlyReturn ge ds dd ra imm => exact execRlyReturn_mem ge ds dd ra imm s hs
  | rlyStepflags ge ra imm => exact execRlyStepflags_mem ge ra imm s hs
  | rlyCancelrx ge ra imm => exact execRlyCancelrx_mem ge ra imm s hs
  | synFenceData ge => exact execSynFenceData_mem ge s hs
  | synFenceFlag ge ra rb => exact execSynFenceFlag_mem ge ra rb s hs
  | synWait ge cond ra rb rd imm => exact execSynWait_mem ge cond ra rb rd imm s hs
  | synWaitSatisfied ge waves => exact execSynWaitSatisfied_mem ge waves s hs
  | synWaitTimeout ge waves => exact memForm_of_unchanged hs (execSynWaitTimeout_mem ge waves s)
  | fenceFlagMarker home ctx => exact memForm_of_unchanged hs (execFenceFlagMarker_mem home ctx s)
  | fenceFlagWrite ctx => exact execFenceFlagWrite_mem ctx s hs
  | staleLogOverflow home => exact memForm_of_unchanged hs (execStaleLogOverflow_mem home s)
  | regionAttrGo w1 => exact memForm_of_unchanged hs (execRegionAttrGo_mem w1 s)
  | regionAttrDone => exact execRegionAttrDone_mem s hs
  | offloadStreamEnable home stream w1 => exact memForm_of_unchanged hs (execOffloadStreamEnable_mem home stream w1 s)
  | offloadShortInterval home stream carried demand =>
    exact memForm_of_unchanged hs (execOffloadShortInterval_mem home stream carried demand s)
  | iotinvalVma inst dev all va => exact memForm_of_unchanged hs (execIotinvalVma_mem inst dev all va s)
  | iotinvalGvma inst dev all va => exact memForm_of_unchanged hs (execIotinvalGvma_mem inst dev all va s)
  | iodirInvalDdt inst dev all => exact memForm_of_unchanged hs (execIodirInvalDdt_mem inst dev all s)
  | iodirInvalPdt inst dev pid => exact memForm_of_unchanged hs (execIodirInvalPdt_mem inst dev pid s)
  | iofenceC inst flag => exact memForm_of_unchanged hs (execIofenceC_mem inst flag s)
  | iofenceCComplete inst => exact execIofenceCComplete_mem inst s hs
  | rs agent pa core err => exact execRs_mem agent pa core err s hs
  | ru agent pa u => exact execRu_mem agent pa u s hs
  | upg agent pa u => exact execUpg_mem agent pa u s hs
  | rnc agent pa n r => exact execRnc_mem agent pa n r s hs
  | wnc agent pa data w => exact execWnc_mem agent pa data w s hs
  | anc agent pa width op x => exact execAnc_mem agent pa width op x s hs
  | putm agent pa => exact memForm_of_unchanged hs (execPutm_mem agent pa s)
  | puto agent pa => exact memForm_of_unchanged hs (execPuto_mem agent pa s)
  | pute agent pa => exact memForm_of_unchanged hs (execPute_mem agent pa s)
  | forward agent pa => exact execForward_mem agent pa s hs
  | invalidation agent pa => exact memForm_of_unchanged hs (execInvalidation_mem agent pa s)
  | invalidationAck agent pa => exact execInvalidationAck_mem agent pa s hs
  | dataResponse agent pa => exact memForm_of_unchanged hs (execDataResponse_mem agent pa s)
  | completionAck agent pa => exact execCompletionAck_mem agent pa s hs
  | putAck agent pa => exact execPutAck_mem agent pa s hs
  | retry agent pa => exact memForm_of_unchanged hs (execRetry_mem agent pa s)
  | grant home => exact memForm_of_unchanged hs (execGrant_mem home s)
  | release home num agent => exact execRelease_mem home num agent s hs
  | creditLapse home num => exact execCreditLapse_mem home num s hs
  | lrDeferEnd core => exact execLrDeferEnd_mem core s hs
  | harnessAckTimeout agent x => exact execHarnessAckTimeout_mem agent x s hs
  | cacheAgentLost agent => exact execCacheAgentLost_mem agent s hs
  | dirUncorrectableError home x => exact execDirUncorrectableError_mem home x s hs
  | setRecall agent home set => exact execSetRecall_mem agent home set s hs
  | combineOpen home words owner => exact execCombineOpen_mem home words owner s hs
  | combineContribution pa type epoch contrib d src => exact execCombineContribution_mem pa type epoch contrib d src s hs
  | combineDone pa epoch contrib src => exact memForm_of_unchanged hs (execCombineDone_mem pa epoch contrib src s)
  | combineClose pa owner => exact memForm_of_unchanged hs (execCombineClose_mem pa owner s)
  | combineApplyComplete pa => exact execCombineApplyComplete_mem pa s hs
  | combineRefusal => exact execCombineRefusal_mem s hs
  | combineUnitFault home => exact execCombineUnitFault_mem home s hs
  | portLinkUp p => exact memForm_of_unchanged hs (execPortLinkUp_mem p s)
  | laneFailure port lane => exact execLaneFailure_mem port lane s hs
  | laneSpareComplete port => exact memForm_of_unchanged hs (execLaneSpareComplete_mem port s)
  | packetTransmit stream => exact execPacketTransmit_mem stream s hs
  | frameData a f => exact execFrameData_mem a f s hs
  | frameAck a f => exact execFrameAck_mem a f s hs
  | frameNack a f now => exact execFrameNack_mem a f now s hs
  | frameCredit a f => exact execFrameCredit_mem a f s hs
  | frameOpen a f => exact execFrameOpen_mem a f s hs
  | frameOpenAck a f => exact execFrameOpenAck_mem a f s hs
  | frameOpenNack a f => exact execFrameOpenNack_mem a f s hs
  | frameClose a f => exact execFrameClose_mem a f s hs
  | frameProbe a f => exact execFrameProbe_mem a f s hs
  | frameProbeAck a f => exact execFrameProbeAck_mem a f s hs
  | openRetryTimer stream => exact execOpenRetryTimer_mem stream s hs
  | retransmitTimeout stream psn now => exact execRetransmitTimeout_mem stream psn now s hs
  | noPathTimeout stream => exact execNoPathTimeout_mem stream s hs
  | ackTimer stream => exact execAckTimer_mem stream s hs
  | probeTimer stream => exact execProbeTimer_mem stream s hs
  | earlyRetry => exact execEarlyRetry_mem s hs
  | stepDeadline step => exact execStepDeadline_mem step s hs
  | stepCloseRecord step => exact execStepCloseRecord_mem step s hs
  | relayUnitFault unit => exact execRelayUnitFault_mem unit s hs
  | streamQuerySelect reader data => exact memForm_of_unchanged hs (execStreamQuerySelect_mem reader data s)
  | streamClose stream => exact memForm_of_unchanged hs (execStreamClose_mem stream s)
  | lendWriteRequest member off data => exact execLendWriteRequest_mem member off data s hs
  | lendReadRequest member off len => exact execLendReadRequest_mem member off len s hs
  | lendEnableWrite v => exact memForm_of_unchanged hs (execLendEnableWrite_mem v s)
  | lendNoticeExpiry => exact memForm_of_unchanged hs (execLendNoticeExpiry_mem s)
  | verdictReport member step halve incomplete => exact execVerdictReport_mem member step halve incomplete s hs
  | verdictWaitExpiry step => exact execVerdictWaitExpiry_mem step s hs
  | verdictReceive step halve incomplete lsNext clean => exact execVerdictReceive_mem step halve incomplete lsNext clean s hs
  | commitDeadline step => exact execCommitDeadline_mem step s hs
  | nvmeRingPoll unit ring => exact execNvmeRingPoll_mem unit ring s hs
  | nvmeRead unit => exact execNvmeRead_mem unit s hs
  | nvmeWrite unit => exact execNvmeWrite_mem unit s hs
  | nvmeWriteFua unit => exact execNvmeWriteFua_mem unit s hs
  | nvmeFlush unit => exact execNvmeFlush_mem unit s hs
  | nvmeDeallocate unit => exact execNvmeDeallocate_mem unit s hs
  | nvmeWriteZeroes unit => exact execNvmeWriteZeroes_mem unit s hs
  | nvmeCompletion unit id status data => exact execNvmeCompletion_mem unit id status data s hs
  | groomWatchdogRestart groom => exact memForm_of_unchanged hs (execGroomWatchdogRestart_mem groom s)
/-- A step is the front command's, on a state with the same memory. -/
theorem step_keeps_memForm {t : State} (hs : s.mem.wf = true) (h : step s = .next t) : t.mem.wf = true := by
  unfold step at h
  split at h
  · cases h
    exact hs
  · next c r _ => exact exec_keeps_memForm (s := { s with pending := r }) c hs t h
end

/-- Settles O3: an invariant of `exec`, command by command. -/
theorem memoryStaysCanonical : Obligations.MemoryStaysCanonical := fun _ _ => step_keeps_memForm

/-- Settles O4: nothing is listed, so every byte is the default. -/
theorem resetMemoryIsCanonical : Obligations.ResetMemoryIsCanonical :=
  ⟨Mem.wf_empty, fun a => congrArg (Prod.mk 0) (granPoison_reset a)⟩

end Sys2Proof.Machine
end

section
/-! The physical map of HBM (R3, R9, R197, R198): stacks in the stack-local view, and the granules that an island's interleaved
window deals over its stacks. -/

namespace Sys2Proof.Machine

/-! ### The stack-local view (R197) -/

section
variable {c : MapCfg} {n off a : Nat}

theorem homeOf_of_hbm (h : a < hbmEnd) : homeOf a = a / stackBytes := if_pos h

/-- What lies at an offset of a stack lies in HBM, on that stack. -/
theorem stack_place (hn : n < 32) (hoff : off < stackBytes) :
    n * stackBytes + off < hbmEnd ∧ (n * stackBytes + off) / stackBytes = n := by
  unfold hbmEnd stackBytes at *
  omega

theorem homeOf_stack (hn : n < 32) (hoff : off < stackBytes) : homeOf (n * stackBytes + off) = n :=
  (homeOf_of_hbm (stack_place hn hoff).1).trans (stack_place hn hoff).2

/-- Four stacks hang off each compute die. -/
theorem die_of_stack (hoff : off < stackBytes) : (n * stackBytes + off) / (4 * stackBytes) = n / 4 := by
  unfold stackBytes at *
  omega

theorem canon_stack (hn : n < 32) (hoff : off < stackBytes) (hdie : c.retired ≠ some (n / 4)) :
    canon c (n * stackBytes + off) = some (n * stackBytes + off) := by
  simp [canon, (stack_place hn hoff).1, die_of_stack hoff, dieRetired, hdie]

theorem canon_stack_of_retired (hn : n < 32) (hoff : off < stackBytes) (hdie : c.retired = some (n / 4)) :
    canon c (n * stackBytes + off) = none := by
  simp [canon, (stack_place hn hoff).1, die_of_stack hoff, dieRetired, hdie]
end

/-- Settles O5: an HBM address divided by a stack's bytes is the stack, and by four stacks' bytes the die. -/
theorem stacksLieLinearlyBesideTheirHomes : Obligations.StacksLieLinearlyBesideTheirHomes := by
  intro c n off hn hoff
  have hin : off < stackBytes := Nat.lt_succ_of_le hoff
  refine ⟨homeOf_stack hn hin, ?ranges, canon_stack hn hin, canon_stack_of_retired hn hin, by decide⟩
  case ranges =>
    intro a ha
    rw [homeOf_of_hbm ha]
    unfold stackBytes
    omega

/-! ### The interleaved windows (R198) -/

/-- The address that the window of nst stacks from stack 4d on names at offset w. -/
def dealt (d nst w : Nat) : Nat := (4 * d + w / 4096 % nst) * stackBytes + (w / 4096 / nst * 4096 + w % 4096)

section
variable {c : MapCfg} {d k nst w : Nat}

theorem canon_of_alias {pa : Nat} (hlo : hbmAlias ≤ pa) (hhi : pa < hbmAliasEnd)
    (hwhole : islandBroken c (islandStart c ((pa - hbmAlias) / (4 * stackBytes))) = false) :
    canon c pa = some (dealt (islandStart c ((pa - hbmAlias) / (4 * stackBytes))) (4 * islandDies c)
      (pa - (hbmAlias + islandStart c ((pa - hbmAlias) / (4 * stackBytes)) * (4 * stackBytes)))) := by
  have above : ∀ x, x ≤ hbmAlias → ¬ pa < x := fun x hx => Nat.not_lt.mpr (Nat.le_trans hx hlo)
  simp only [canon, above hbmEnd (by decide), above lpBase (by decide), above lpAlias (by decide), above hbmAlias (by decide), hhi,
    hwhole, if_true, if_false, Bool.false_eq_true, dealt, Nat.add_assoc]

/-- An offset of the window stays within one stack. -/
theorem dealt_offset_lt (hw : w < nst * stackBytes) : w / 4096 / nst * 4096 + w % 4096 < stackBytes := by
  have hg : w / 4096 / nst < 0x1200000 := Nat.div_lt_of_lt_mul (by unfold stackBytes at hw; omega)
  unfold stackBytes
  omega

theorem dealt_stack_lt (hw : w < nst * stackBytes) : w / 4096 % nst < nst :=
  Nat.mod_lt _ (Nat.pos_of_ne_zero fun h => by simp [h] at hw)

theorem dealt_bounds (hw : w < nst * stackBytes) :
    4 * d * stackBytes ≤ dealt d nst w ∧ dealt d nst w < (4 * d + nst) * stackBytes := by
  have hoff := dealt_offset_lt hw
  have hst := dealt_stack_lt hw
  unfold dealt stackBytes at *
  omega

theorem homeOf_dealt (hd : 4 * d + nst ≤ 32) (hw : w < nst * stackBytes) : homeOf (dealt d nst w) = 4 * d + w / 4096 % nst :=
  homeOf_stack (Nat.lt_of_lt_of_le (Nat.add_lt_add_left (dealt_stack_lt hw) _) hd) (dealt_offset_lt hw)

/-- Each byte of the island's stacks is dealt at one offset: granule g of stack i at granule g * nst + i of the window. -/
theorem exists_dealt {a : Nat} (hlo : 4 * d * stackBytes ≤ a) (hhi : a < (4 * d + nst) * stackBytes) :
    ∃ v, v < nst * stackBytes ∧ dealt d nst v = a := by
  obtain ⟨x, rfl⟩ := Nat.exists_eq_add_of_le hlo
  have hx : x < nst * stackBytes := by rw [Nat.add_mul] at hhi; omega
  have hi : x / stackBytes < nst := Nat.div_lt_of_lt_mul (by rwa [Nat.mul_comm])
  have ho : x % stackBytes < stackBytes := Nat.mod_lt _ (by decide)
  have hsplit : x = x / stackBytes * stackBytes + x % stackBytes := by rw [Nat.mul_comm, Nat.div_add_mod]
  generalize x / stackBytes = i at hi hsplit
  generalize x % stackBytes = o at ho hsplit
  subst hsplit
  have hpos : 0 < nst := Nat.lt_of_le_of_lt (Nat.zero_le i) hi
  have hgran : ((i + nst * (o / 4096)) * 4096 + o % 4096) / 4096 = i + nst * (o / 4096) := by omega
  have hin : ((i + nst * (o / 4096)) * 4096 + o % 4096) % 4096 = o % 4096 := by omega
  refine ⟨(i + nst * (o / 4096)) * 4096 + o % 4096, ?lt, ?eq⟩
  case lt =>
    have : o / 4096 + 1 ≤ 0x1200000 := by unfold stackBytes at ho; omega
    have := Nat.mul_le_mul_left nst this
    unfold stackBytes
    rw [Nat.mul_succ] at this
    omega
  case eq =>
    unfold dealt
    rw [hgran, hin, Nat.add_mul_mod_self_left, Nat.mod_eq_of_lt hi, Nat.add_mul_div_left _ _ hpos, Nat.div_eq_of_lt hi]
    unfold stackBytes
    omega

section
variable (hk : islandDies c = k) (hd : d % k = 0) (hlast : d + k ≤ 8) (hw : w < 4 * k * stackBytes)
include hk hd hw

/-- Every offset of a window lies in the island that the window is of. -/
theorem islandStart_of_window : islandStart c ((d * (4 * stackBytes) + w) / (4 * stackBytes)) = d := by
  have hj : w / (4 * stackBytes) < k := Nat.div_lt_of_lt_mul (by rwa [Nat.mul_right_comm] at hw)
  obtain ⟨m, rfl⟩ := Nat.dvd_of_mod_eq_zero hd
  rw [Nat.add_comm, Nat.add_mul_div_right _ _ (by decide), islandStart, hk, Nat.add_mul_div_left _ _ (Nat.zero_lt_of_lt hj),
    Nat.div_eq_of_lt hj, Nat.zero_add, Nat.mul_comm]

include hlast

/-- An offset of an island's window names the address dealt there. -/
theorem canon_window (hwhole : ∀ j, j < k → c.retired ≠ some (d + j)) :
    canon c (hbmAlias + d * (4 * stackBytes) + w) = some (dealt d (4 * k) w) := by
  have hbroken : islandBroken c d = false := by
    simp only [islandBroken, hk, List.any_eq_false, List.mem_range, dieRetired, beq_iff_eq]
    exact hwhole
  have hend : hbmAlias + d * (4 * stackBytes) + w < hbmAliasEnd := by unfold hbmAlias hbmAliasEnd stackBytes at *; omega
  have hsub : hbmAlias + d * (4 * stackBytes) + w - hbmAlias = d * (4 * stackBytes) + w := by
    rw [Nat.add_assoc, Nat.add_sub_cancel_left]
  have hdie := islandStart_of_window hk hd hw
  rw [← hsub] at hdie
  have h := canon_of_alias (c := c) (pa := hbmAlias + d * (4 * stackBytes) + w)
    (Nat.le_add_right_of_le (Nat.le_add_right _ _)) hend
    (hdie.symm ▸ hbroken)
  rwa [hdie, hk, Nat.add_sub_cancel_left] at h
end
end

/-- Settles O6: a window's offset names what is dealt there, and every byte of the island's stacks is dealt. -/
theorem aliasWindowsInterleaveTheirStacks : Obligations.AliasWindowsInterleaveTheirStacks := by
  intro c d k w hislands hk hd hlast hwhole nst start g named
  have hstart : start = hbmAlias + d * (4 * stackBytes) := by simp only [start, hbmAlias, stackBytes]
  have hnamed : named = dealt d nst := by funext v; simp only [named, dealt, stackBytes]
  have hnames : ∀ {v pa a}, v < nst * stackBytes → hbmAlias + d * (4 * stackBytes) + v = pa → dealt d nst v = a →
      canon c pa = some a := by
    rintro v pa a hv rfl rfl
    exact canon_window hk.symm hd hlast hv hwhole
  have hwindow : ∀ v, v < nst * stackBytes → canon c (start + v) = some (named v) := fun v hv =>
    hnames hv (by rw [hstart]) (by rw [hnamed])
  have hbytes : k * (288 * 2 ^ 30) = nst * stackBytes := by simp only [nst, stackBytes]; omega
  refine ⟨?window, ?reached, ?worked⟩
  case window =>
    intro hw
    rw [hbytes] at hw
    obtain ⟨hlo, hhi⟩ := dealt_bounds (d := d) hw
    exact ⟨hwindow w hw, hlo, hhi, homeOf_dealt (by simp only [nst]; omega) hw⟩
  case reached =>
    intro a hlo hhi
    obtain ⟨v, hv, rfl⟩ := exists_dealt hlo hhi
    exact ⟨v, by rwa [hbytes], hwindow v hv⟩
  case worked =>
    rintro rfl rfl
    exact ⟨hnames (v := 0x5123) (by decide) (by decide) (by decide), hnames (v := 0x9000) (by decide) (by decide) (by decide)⟩

end Sys2Proof.Machine
end

section
/-! A store within one granule (R223 to R226, R386): its bytes, the marks of poison and the dirty region. -/

namespace Sys2Proof.Machine

/-- Each value of a run is read back at its key. -/
theorem sget_ssetRun_same {α : Type} [DecidableEq α] (d : α) (l : List α) (m : SMap α) (b i : Nat) (hm : swf d m = true)
    (hi : i < l.length) : sget d (ssetRun d m b l) (b + i) = l[i] := by
  induction l generalizing m b i with
  | nil => cases hi
  | cons x r ih =>
    cases i with
    | zero =>
      have hkeep := sget_ssetRun_other d r (sset d m b x) (b + 1) b (Or.inl (Nat.lt_succ_self b))
      exact hkeep.trans (sget_sset_same d m b x hm)
    | succ j =>
      have hrest := ih (sset d m b x) (b + 1) j (swf_sset d m b x hm) (Nat.lt_of_succ_lt_succ hi)
      rw [Nat.add_right_comm] at hrest
      exact hrest

section
variable (m : Mem) (a : Nat)

@[simp] theorem poisonGran_bytes : (poisonGran m a).bytes = m.bytes := by
  simp only [poisonGran]
  split <;> rfl

@[simp] theorem poisonGran_dirty : (poisonGran m a).dirty = m.dirty ∧ (poisonGran m a).dirtyOld = m.dirtyOld := by
  simp only [poisonGran]
  split <;> exact ⟨rfl, rfl⟩

/-- In HBM the check pattern takes the mark, and no region's entry changes (R223). -/
theorem poisonGran_of_hbm (h : isLpHome (homeOf a) = false) : poisonGran m a = { m with poison := sset false m.poison (a / 64) true } := by
  simp [poisonGran, h]

variable (d : List PByte)

@[simp] theorem memWrite_bytes : (memWrite m a d).bytes = ssetRun 0 m.bytes a (d.map Prod.fst) := by
  simp only [memWrite]
  split
  · rw [poisonGran_bytes]
    rfl
  · split <;> rfl

theorem memWrite_dirty : (memWrite m a d).dirty = sset false m.dirty (a / mib2) true ∧ (memWrite m a d).dirtyOld = m.dirtyOld := by
  simp only [memWrite]
  split
  · exact poisonGran_dirty _ _
  · split <;> exact ⟨rfl, rfl⟩

variable {d}

theorem memWrite_of_clean_part (hclean : d.any Prod.snd = false) (hpart : d.length ≠ 64) :
    memWrite m a d = memPut m a (d.map Prod.fst) := by
  simp [memWrite, hclean, hpart]

theorem memWrite_of_clean_granule (hclean : d.any Prod.snd = false) (hwhole : d.length = 64) :
    memWrite m a d = { memPut m a (d.map Prod.fst) with poison := sset false m.poison (a / 64) false } := by
  simp only [memWrite, hclean, hwhole, Bool.false_eq_true, if_true, if_false]
  rfl

theorem memWrite_of_poison (hbad : d.any Prod.snd = true) (hhbm : isLpHome (homeOf a) = false) :
    memWrite m a d = { memPut m a (d.map Prod.fst) with poison := sset false m.poison (a / 64) true } := by
  simp only [memWrite, hbad, if_true, poisonGran_of_hbm _ _ hhbm]
  rfl
end

/-- Settles O30: the bytes are a run of keys, and the granule's mark is by whether a byte is poisoned or all 64 are clean. -/
theorem memoryStoresExactlyItsBytes : Obligations.MemoryStoresExactlyItsBytes := by
  intro m a b i d n
  refine ⟨?outside, ?stored, ?part, ?whole, ?poisoned, memWrite_dirty m a d⟩
  case outside =>
    intro hb
    simp only [n, memWrite_bytes]
    exact sget_ssetRun_other _ _ _ _ _ (by simpa using hb)
  case stored =>
    intro hwf hi
    obtain ⟨hbytes, -⟩ := (Mem.wf_iff m).mp hwf
    simp only [n, memWrite_bytes]
    rw [sget_ssetRun_same _ _ _ _ _ hbytes (by simpa using hi), List.getElem_map, List.getD_eq_getElem?_getD,
      List.getElem?_eq_getElem hi, Option.getD_some]
  case part =>
    intro hclean hpart
    rw [show n = _ from memWrite_of_clean_part m a hclean hpart]
    exact ⟨rfl, rfl⟩
  case whole =>
    intro hclean hwhole
    rw [show n = _ from memWrite_of_clean_granule m a hclean hwhole]
    exact ⟨rfl, rfl⟩
  case poisoned =>
    intro hbad hhbm
    rw [show n = _ from memWrite_of_poison m a hbad hhbm]
    exact ⟨rfl, rfl, sget_sset_new _ _ _ _ (by decide), fun g hg => sget_sset_other _ _ _ _ _ hg⟩

end Sys2Proof.Machine
end

section
/-! Fences at the homes and at the translation agents (R206, R208, R214, R216, R218): stale-line logs that drain, the flag's write, and
the commands that invalidate translations. -/

namespace Sys2Proof.Machine

/-! ### Stale-line logs (R216) -/

/-- What a drain leaves alone: the counters, and the logs themselves. -/
def drainKeeps (s : State) : HarnessCounters × SMap (List StaleEnt) := (s.hcnt, s.harn.stale)

theorem tidyDir_keeps (s : State) (line : Nat) : drainKeeps (tidyDir s line) = drainKeeps s := by
  unfold tidyDir
  split
  · split <;> rfl
  · rfl

/-- The copies dropped and entries freed by a drain leave counters and logs alone. -/
theorem drainStale_copies_keep (s : State) (l : List StaleEnt) : drainKeeps
    (l.foldl (fun t e => tidyDir (e.agents.foldl (fun u a => dropCopy u a e.line) t) e.line) s) = drainKeeps s :=
  foldl_keeps drainKeeps _ (fun t e => (tidyDir_keeps _ _).trans
    (foldl_keeps drainKeeps (fun u a => dropCopy u a e.line) (fun _ _ => rfl) e.agents t)) l s

theorem drainStale_drains (s : State) (l : List StaleEnt) :
    (drainStale s l).hcnt.staleLogDrains = s.hcnt.staleLogDrains + BitVec.ofNat 64 l.length :=
  congrArg (fun k : HarnessCounters × SMap (List StaleEnt) => k.1.staleLogDrains + BitVec.ofNat 64 l.length)
    (drainStale_copies_keep s l)

@[simp] theorem drainStale_stale (s : State) (l : List StaleEnt) : (drainStale s l).harn.stale = s.harn.stale :=
  congrArg Prod.snd (drainStale_copies_keep s l)

section
variable {s : State} {home ctx : Nat}

/-- The logs of a home, once drained up to the entries that are left. -/
def drained (s : State) (home : Nat) (gone left : List StaleEnt) : State :=
  let d := drainStale s gone
  { d with harn := { d.harn with stale := sset [] s.harn.stale home left } }

theorem drainOldest_of_full (h : 4096 ≤ (sget [] s.harn.stale home).length) : drainOldest s home =
    drained s home ((sget [] s.harn.stale home).take 1024) ((sget [] s.harn.stale home).drop 1024) := by
  simp [drainOldest, Nat.not_lt.mpr h, drained]

theorem drainOldest_of_room (h : (sget [] s.harn.stale home).length < 4096) : drainOldest s home = s := if_pos h

/-! ### FENCE.FLAG (R214, R218) -/

/-- A fence of the context that has still to write its flag. -/
def flagFence (ctx : Nat) (f : Fence) : Bool := f.ctx == ctx && f.flag.isSome

theorem execFenceFlagMarker_of_fence (h : s.harn.fences.any (flagFence ctx) = true) :
    execFenceFlagMarker home ctx s = .next (drained s home (sget [] s.harn.stale home) []) := by
  unfold flagFence at h
  simp [execFenceFlagMarker, h, ok, drained]

theorem execFenceFlagMarker_of_none (h : s.harn.fences.any (flagFence ctx) = false) : execFenceFlagMarker home ctx s = .next s := by
  unfold flagFence at h
  simp [execFenceFlagMarker, h, ok]

section
variable {f : Fence} {a : Nat} {v : W64} (hf : s.harn.fences.find? (flagFence ctx) = some f) (hflag : f.flag = some (a, v))
include hf hflag

theorem execFenceFlagWrite_of_visible (hvis : ctxVisible s ctx f.stamp = true) (hline : lineBusy s (a / 64) = false) :
    execFenceFlagWrite ctx s = .next (let w := homeWrite s ctx f.stamp false a ((leBytes 8 v.toNat).map fun b => (b, false))
      { w with harn := { w.harn with fences := w.harn.fences.erase f } }) := by
  unfold flagFence at hf
  simp [execFenceFlagWrite, hf, hflag, hvis, hline, ok]

theorem execFenceFlagWrite_of_hidden (hvis : ctxVisible s ctx f.stamp = false) : execFenceFlagWrite ctx s = .next s := by
  unfold flagFence at hf
  simp [execFenceFlagWrite, hf, hflag, hvis, ok]
end
end

/-! ### Commands of the translation agents (R206, R208) -/

section
variable {s : State} {inst : Nat}

theorem cmdTaken_of_off (h : bitAt (transReg s inst 0x48) 16 = false) : cmdTaken s inst = s := by
  simp [cmdTaken, h]

theorem cmdTaken_of_on (h : bitAt (transReg s inst 0x48) 16 = true)
    (hfull : transReg s inst 0x20 % 2 ^ 32 ≠ transReg s inst 0x20 / 2 ^ 32) : cmdTaken s inst =
      setTransReg s inst 0x20 ((transReg s inst 0x20 % 2 ^ 32 + 1) % 2 ^ (transReg s inst 0x18 % 32 + 1)
        + transReg s inst 0x20 / 2 ^ 32 * 2 ^ 32) := by
  simp only [cmdTaken, h, Bool.not_true, Bool.false_or, beq_iff_eq, hfull, if_false]

/-- Marks by the same entries are the same marks. -/
theorem invalTlb_congr {p q : TlbEnt → Bool} (h : ∀ e, p e = q e) : invalTlb s p = invalTlb s q := by
  rw [funext h]

variable {dev pid va : Nat}

/-- IODIR.INVAL_DDT: the translations of the devices it covers are marked, and each of their cached contexts. -/
theorem execIodirInvalDdt_marks (all : Bool) : ∃ t, execIodirInvalDdt inst dev all s = .next t
    ∧ t = { cmdTaken s inst with trans := t.trans }
    ∧ t.trans.tlb = (invalTlb (cmdTaken s inst) fun e => e.inst == inst && (all || e.dev == dev)).trans.tlb
    ∧ ∀ d ∈ s.trans.dcs, d.1 = inst → (all = true ∨ d.2.1 = dev) → (inst, d.2.1) ∈ t.trans.dcInval := by
  refine ⟨_, rfl, rfl, rfl, ?_⟩
  rintro ⟨i, dv, w⟩ hd rfl hdev
  refine List.mem_eraseDups.mpr (List.mem_append_right _ (List.mem_map.mpr ⟨_, List.mem_filter.mpr ⟨hd, ?_⟩, rfl⟩))
  simpa using hdev

section
variable {f : Nat × Option (Nat × W32)}

/-- An agent's caches once its IOFENCE.C is complete: what was invalidated is gone. -/
def fenced (s : State) (inst : Nat) (f : Nat × Option (Nat × W32)) : State :=
  { s with trans := { s.trans with
      tlb := s.trans.tlb.filter fun e => !(e.inst == inst && e.invalidated),
      dcs := s.trans.dcs.filter fun d => !(d.1 == inst && s.trans.dcInval.contains (d.1, d.2.1)),
      dcInval := s.trans.dcInval.filter fun d => d.1 != inst,
      fences := s.trans.fences.erase f } }

theorem execIofenceCComplete_of_none (h : s.trans.fences.find? (fun f => f.1 == inst) = none) :
    execIofenceCComplete inst s = .next s := by
  simp [execIofenceCComplete, h, ok]

section
variable (hf : s.trans.fences.find? (fun f => f.1 == inst) = some f)
include hf

/-- The engine translation agent's waits for translated writes that are held (R208). -/
theorem execIofenceCComplete_of_held (hinst : inst = 0) (hheld : engHeld s = true) : execIofenceCComplete inst s = .next s := by
  simp [execIofenceCComplete, hinst ▸ hf, hinst, hheld, ok]

variable (hfree : inst ≠ 0 ∨ engHeld s = false)
include hfree

omit hf in
theorem not_held_of_free : ¬ (inst = 0 ∧ engHeld s = true) := by
  rintro ⟨hinst, hheld⟩
  obtain hother | hidle := hfree
  · exact hother hinst
  · exact Bool.false_ne_true (hidle.symm.trans hheld)

theorem execIofenceCComplete_of_no_flag (hflag : f.2 = none) : execIofenceCComplete inst s = .next (fenced s inst f) := by
  simp only [execIofenceCComplete, hf, if_neg (not_held_of_free hfree), hflag]
  rfl

theorem execIofenceCComplete_of_flag {pa a : Nat} {v : W32} (hflag : f.2 = some (pa, v)) (hpa : canon s.map pa = some a) :
    execIofenceCComplete inst s = .next
      (homeWrite (fenced s inst f) noCtx 0 false (a / 4 * 4) ((leBytes 4 v.toNat).map fun b => (b, false))) := by
  simp only [execIofenceCComplete, hf, if_neg (not_held_of_free hfree), hflag, hpa]
  rfl
end
end
end

/-! ### The statement -/

/-- Settles O28: the marker, the flag and the full log by what the home holds, then each command of a translation agent. -/
theorem fencesDrainHomesAndTranslations : Obligations.FencesDrainHomesAndTranslations := by
  refine ⟨?homes, ?agents⟩
  case homes =>
    intro s home ctx a v f log d o
    refine ⟨execFenceFlagMarker_of_fence, execFenceFlagMarker_of_none, ?flag, ?full, ?room, drainStale_drains s log,
      drainStale_stale s log⟩
    case flag =>
      intro hf hflag
      exact ⟨execFenceFlagWrite_of_visible hf hflag, execFenceFlagWrite_of_hidden hf hflag⟩
    case full =>
      intro hfull
      exact congrArg ok (drainOldest_of_full hfull)
    case room =>
      intro hroom
      exact congrArg ok (drainOldest_of_room hroom)
  case agents =>
    intro s inst dev va pid a v flag f q marks mine done
    refine ⟨?vma, ?vmaAll, ?gvmaAll, ?gvma, ?ddt, ?ddtAll, ?pdt, rfl, rfl, execIofenceCComplete_of_none, cmdTaken_of_off,
      cmdTaken_of_on, ?held, ?completes⟩
    case vma => exact congrArg ok (invalTlb_congr fun e => by simp [mine])
    case vmaAll => exact congrArg ok (invalTlb_congr fun e => by simp [mine])
    case gvmaAll => exact congrArg ok (invalTlb_congr fun e => by simp [mine])
    case gvma =>
      intro hva
      exact congrArg ok (invalTlb_congr fun e => by
        simp only [mine, decide_eq_true hva, Bool.or_true, Bool.and_true])
    case ddt =>
      obtain ⟨t, ht, hframe, htlb, hdc⟩ := execIodirInvalDdt_marks (s := s) (inst := inst) (dev := dev) false
      refine ⟨t, ht, hframe, htlb, fun d hd hi hdev => ?_⟩
      exact hdev ▸ hdc d hd hi (Or.inr hdev)
    case ddtAll =>
      obtain ⟨t, ht, hframe, htlb, hdc⟩ := execIodirInvalDdt_marks (s := s) (inst := inst) (dev := dev) true
      exact ⟨t, ht, hframe, htlb.trans (congrArg (fun t => t.trans.tlb) (invalTlb_congr fun e => by simp)),
        fun d hd hi => hdc d hd hi (Or.inl rfl)⟩
    case pdt =>
      intro hinst
      exact congrArg ok (if_neg hinst)
    case held => exact execIofenceCComplete_of_held
    case completes =>
      intro hf hfree
      exact ⟨execIofenceCComplete_of_no_flag hf hfree, fun pa => execIofenceCComplete_of_flag hf hfree⟩

end Sys2Proof.Machine
end

section
/-! Commands that change regions (R211 to R213) and the offload streams of the LPDDR homes (R221, R222). -/

namespace Sys2Proof.Machine

/-! ### Regions -/

section
variable {s : State} {w1 : W64}

/-- The second word of a command as it is stored: GO is not kept. -/
def attrFields (w1 : W64) : W64 := w1 &&& 0x7FFFFFFFFFFFFFFF

theorem execRegionAttrGo_of_idle_write (h : s.attrCmd.busy = true ∨ bitAt w1.toNat 63 = false) :
    execRegionAttrGo w1 s = .next { s with attrCmd := { s.attrCmd with w1 := attrFields w1 } } :=
  congrArg ok (if_pos (by simpa using h))

section
variable (hidle : s.attrCmd.busy = false) (hgo : bitAt w1.toNat 63 = true)
include hidle hgo

theorem execRegionAttrGo_of_failing {r : Nat} (h : attrCheck s s.attrCmd.w0 (attrFields w1) = .error r) : execRegionAttrGo w1 s =
    .next { s with attrCmd := { s.attrCmd with w1 := attrFields w1, result := r, done := 0 } } := by
  unfold attrFields at h
  simp only [execRegionAttrGo, hidle, hgo, Bool.false_eq_true, Bool.not_true, or_self, if_false, h]
  rfl

theorem execRegionAttrGo_of_sound {l : List Nat} (h : attrCheck s s.attrCmd.w0 (attrFields w1) = .ok l) : execRegionAttrGo w1 s =
    .next { s with attrCmd := { s.attrCmd with
      w1 := attrFields w1, run := (s.attrCmd.w0, attrFields w1), busy := true, result := 0, done := 0 } } := by
  unfold attrFields at h
  simp only [execRegionAttrGo, hidle, hgo, Bool.false_eq_true, Bool.not_true, or_self, if_false, h]
  rfl
end

theorem execRegionAttrDone_of_idle (h : s.attrCmd.busy = false) : execRegionAttrDone s = .next s := by
  simp [execRegionAttrDone, h, ok]

theorem execRegionAttrDone_of_busy (h : s.attrCmd.busy = true) : execRegionAttrDone s =
    .next (let u := attrRun s.attrCmd.run.2.toNat ((attrLeft s.map s.attrCmd).take 1) s
      settleHarn (if (attrLeft u.map u.attrCmd).isEmpty
        then { u with attrCmd := { u.attrCmd with busy := false, result := 0 } } else u)) := by
  simp [execRegionAttrDone, h, ok]

theorem attrLeft_of_busy {c : MapCfg} {x : AttrCmd} {l : List Nat} (h : x.busy = true)
    (hl : attrRegions c (attrBase x.run.1) (attrCount x.run.2) = .ok l) : attrLeft c x = l.drop x.done := by
  simp [attrLeft, h, hl]

section
variable {w r : Nat} {l : List Nat}

/-- A region with a transaction open holds the command up (R213, R245). -/
theorem attrRun_of_open (h : regionOpen s r = true) : attrRun w (r :: l) s = s := if_pos h

theorem attrRun_of_closed (h : regionOpen s r = false) : attrRun w (r :: l) s =
    attrRun w l (let u := attrApply s (bits w 22 21) (bitAt w 23) r
      { u with attrCmd := { u.attrCmd with done := u.attrCmd.done + 1 } }) := by
  simp only [attrRun, h, Bool.false_eq_true, if_false]
end

/-- A region takes its kind, and keeps RPOISON unless it is zeroed (R213 step 4). -/
theorem attrApply_attr (s : State) (kind : Nat) (zero : Bool) (r : Nat) : ∃ u : State, attrApply s kind zero r =
    { u with mem := { u.mem with attr := sset 0 u.mem.attr r (kind + if zero then 0 else sget 0 u.mem.attr r / 4 % 2 * 4) } } := by
  unfold attrApply
  extract_lets h log mine s1 harn1 s2 ls s3 harn3 s4 old m
  refine ⟨{ s4 with mem := m }, ?_⟩
  cases zero <;> rfl
end

/-! ### Offload streams -/

section
variable {s : State} {home st : Nat} {w1 : W64}

/-- A stream of a home. -/
def streamAt (s : State) (home st : Nat) : Offload := sget {} s.offload (offKey home st)

/-- A stream of a home takes a value. -/
def withStream (s : State) (home st : Nat) (o : Offload) : State := { s with offload := sset {} s.offload (offKey home st) o }

theorem execOffloadStreamEnable_of_off (h : bitAt w1.toNat 63 = false) : execOffloadStreamEnable home st w1 s =
    .next (withStream s home st { streamAt s home st with
      ctl := (w1 &&& 0xBFFFFFFFFFFFFFFF) ||| ((streamAt s home st).ctl &&& 0x4000000000000000) }) := by
  simp only [execOffloadStreamEnable, h, Bool.not_false, if_true]
  rfl

/-- A LENGTH of 0, or above 2 TiB, is refused (R222). -/
theorem execOffloadStreamEnable_of_bad_length (h : bitAt w1.toNat 63 = true)
    (hlen : bits w1.toNat 20 0 = 0 ∨ 1048576 < bits w1.toNat 20 0) : execOffloadStreamEnable home st w1 s =
    .next (withStream s home st { streamAt s home st with
      ctl := ((w1 &&& 0xBFFFFFFFFFFFFFFF) &&& 0x7FFFFFFFFFFFFFFF) ||| 0x4000000000000000 }) := by
  simp only [execOffloadStreamEnable, h, decide_eq_true hlen, Bool.or_true, Bool.true_or, Bool.not_true, Bool.false_eq_true, if_true,
    if_false]
  rfl

theorem execOffloadShortInterval_eq (carried : Nat) (demand : Bool) : execOffloadShortInterval home st carried demand s =
    .next (let o := streamAt s home st
      let got := min carried (o.bytes - o.mark).toNat
      withStream s home st { o with
        mark := o.mark + BitVec.ofNat 64 got,
        short := o.short + (if bitAt o.ctl.toNat 63 = true ∧ demand = true ∧ got < bits o.ctl.toNat 30 21 * 1000 then 1 else 0) }) := by
  simp only [execOffloadShortInterval, Bool.and_eq_true, decide_eq_true_eq, and_assoc]
  rfl
end

/-! ### The statement -/

/-- Settles O29: the GO write by what it finds, the command's regions one by one, and the control word and interval of a stream. -/
theorem regionAttributesAndOffloadStreams : Obligations.RegionAttributesAndOffloadStreams := by
  intro s w1 r home st carried kind zero demand l c f k o offl
  exact ⟨execRegionAttrGo_of_idle_write,
    fun hidle hgo => ⟨execRegionAttrGo_of_failing hidle hgo, execRegionAttrGo_of_sound hidle hgo⟩,
    execRegionAttrDone_of_idle, execRegionAttrDone_of_busy, attrLeft_of_busy, ⟨rfl, attrRun_of_open, attrRun_of_closed⟩,
    attrApply_attr s kind zero r, execOffloadStreamEnable_of_off, execOffloadStreamEnable_of_bad_length,
    execOffloadShortInterval_eq carried demand⟩

end Sys2Proof.Machine
end

section
/-! Requests of the harness (R203, R211, R231, R233, R239, R240, R243, R246 to R248): what an access is at its agent, and the request at
its agent and at its home. -/

namespace Sys2Proof.Machine

/-! ### Accesses (R203) -/

section
variable {s : State} {agent pa a : Nat} {k : AccKind} {go : State → Nat → State}

theorem agentAccess_of_absent (hpow : powered s = true) (hpa : canon s.map pa = none) :
    agentAccess s agent pa none k go = reply s (.fault agent pa) := by
  simp [agentAccess, hpow, hpa]

theorem agentAccess_of_present (hpow : powered s = true) (hpa : canon s.map pa = some a) : agentAccess s agent pa none k go = go s a := by
  simp [agentAccess, hpow, hpa]
end

/-- The package is powered, and the address exists (R203). -/
structure AccessAt (s : State) (pa a : Nat) : Prop where
  powered : powered s = true
  place : canon s.map pa = some a

/-! ### Loads (R211, R231) -/

section
variable {s : State} {agent pa a core : Nat} {err : Bool} {c : CLine}

/-- An agent that is no host die gets the bytes it loads, poisoned or not. -/
theorem loadLine_of_cluster (hc : cached s agent (a / 64) = some c) (hhost : isHost agent = false) :
    loadLine s agent (a / 64) core pa = reply s (.data agent pa (c.data.map fun b => (b, c.poison))) := by
  simp [loadLine, hc, loaded, hhost, CLine.bytes]

variable (h : AccessAt s pa a)
include h

theorem execRs_of_hit (hmay : mayCache s agent a = true) (hc : cached s agent (a / 64) = some c) :
    execRs agent pa core err s = .next (loadLine s agent (a / 64) core pa) := by
  simp [execRs, agentAccess_of_present h.powered h.place, hmay, hc, ok]

theorem execRs_of_miss (hmay : mayCache s agent a = true) (hc : cached s agent (a / 64) = none) :
    execRs agent pa core err s = .next (sendReq (readMeets s err a) agent (a / 64) .rs (.act core pa .none) false) := by
  simp [execRs, agentAccess_of_present h.powered h.place, hmay, hc, ok]

theorem execRs_of_uncached (hmay : mayCache s agent a = false) :
    execRs agent pa core err s = .next (sendReq (readMeets s err a) agent (a / 64) .rnc (.act core pa .none) false) := by
  simp [execRs, agentAccess_of_present h.powered h.place, hmay, ok]
end

/-! ### Stores and atomics in a line (R239, R240, R247) -/

/-- An act that the agent may do: a core's that fits its line, or a walker's update of a PTE. -/
def mayAct (agent a : Nat) (act : CoreAct) : Prop := actFits a act = true ∧ (isHost agent = true ∨ walkerAct act = true)

section
variable {s : State} {agent pa a core : Nat} {err nc : Bool} {c : CLine} {act : CoreAct}

/-- A store in a line that the cache of no host die holds (R247). -/
theorem useLine_store (line : Nat) (b : List Byte) (hc : cached s agent line = some c) (hhost : isHost agent = false) :
    useLine s agent line core a (.store b) = dropResv (setCached s agent line (some { c with
      st := .m, data := c.data.take (a % 64) ++ b ++ c.data.drop (a % 64 + b.length),
      poison := c.poison && decide (b.length < 64) })) line := by
  simp [useLine, hc, hhost]

theorem act_refused_iff : (!actFits a act || (!isHost agent && !walkerAct act)) = true ↔ ¬ mayAct agent a act := by
  unfold mayAct
  cases actFits a act <;> cases isHost agent <;> cases walkerAct act <;> decide

theorem act_not_refused (hmay : mayAct agent a act) : ¬ (!actFits a act || (!isHost agent && !walkerAct act)) = true :=
  fun hrefused => act_refused_iff.mp hrefused hmay

variable (h : AccessAt s pa a)
include h

section
variable (hno : ¬ mayAct agent a act)
include hno

theorem execRu_of_unfit : execRu agent pa ⟨core, act, nc, err⟩ s = .next s := by
  simp only [execRu, agentAccess_of_present h.powered h.place, act_refused_iff.mpr hno, if_true]
  rfl

theorem execUpg_of_unfit : execUpg agent pa ⟨core, act⟩ s = .next s := by
  simp only [execUpg, agentAccess_of_present h.powered h.place, act_refused_iff.mpr hno, if_true]
  rfl
end

section
variable (hmay : mayAct agent a act)
include hmay

theorem execRu_of_uncached (hnc : nc = true ∨ mayCache s agent a = false) :
    execRu agent pa ⟨core, act, nc, err⟩ s = .next (uncachedAct s agent pa a act) := by
  have hunc : (nc || !mayCache s agent a) = true := by simpa using hnc
  simp only [execRu, agentAccess_of_present h.powered h.place, if_neg (act_not_refused hmay), hunc, if_true]
  rfl

theorem execUpg_of_uncached (hcache : mayCache s agent a = false) :
    execUpg agent pa ⟨core, act⟩ s = .next (uncachedAct s agent pa a act) := by
  simp only [execUpg, agentAccess_of_present h.powered h.place, if_neg (act_not_refused hmay), hcache, Bool.not_false,
    if_true]
  rfl

section
variable (hcache : mayCache s agent a = true)
include hcache

theorem execRu_of_miss (hc : cached s agent (a / 64) = none) : execRu agent pa ⟨core, act, false, err⟩ s =
    .next (sendReq (readMeets s err a) agent (a / 64) .ru (.act core a act) false) := by
  simp only [execRu, agentAccess_of_present h.powered h.place, if_neg (act_not_refused hmay), hcache, hc, Bool.not_true,
    Bool.or_self, Bool.false_eq_true, if_false]
  rfl

theorem execRu_of_owned (hc : cached s agent (a / 64) = some c) (hst : c.st = .m ∨ c.st = .e) :
    execRu agent pa ⟨core, act, false, err⟩ s = .next (settleHarn
      (useLine (setCached s agent (a / 64) (some { c with st := .m })) agent (a / 64) core a act)) := by
  simp only [execRu, agentAccess_of_present h.powered h.place, if_neg (act_not_refused hmay), hcache, hc, Bool.not_true,
    Bool.or_self, Bool.false_eq_true, if_false, hst, if_true]
  rfl

theorem execRu_of_shared (hc : cached s agent (a / 64) = some c) (hst : c.st = .s ∨ c.st = .o) :
    execRu agent pa ⟨core, act, false, err⟩ s = .next (sendReq s agent (a / 64) .upg (.act core a act) false) := by
  have hown : ¬ (c.st = .m ∨ c.st = .e) := by
    obtain hst | hst := hst <;> simp [hst]
  simp only [execRu, agentAccess_of_present h.powered h.place, if_neg (act_not_refused hmay), hcache, hc, Bool.not_true,
    Bool.or_self, Bool.false_eq_true, if_false, hown]
  rfl

theorem execUpg_of_shared (hc : cached s agent (a / 64) = some c) (hst : c.st = .s ∨ c.st = .o) :
    execUpg agent pa ⟨core, act⟩ s = .next (sendReq s agent (a / 64) .upg (.act core a act) false) := by
  simp only [execUpg, agentAccess_of_present h.powered h.place, if_neg (act_not_refused hmay), hcache, hc, Bool.not_true,
    Bool.false_eq_true, if_false, hst, if_true]
  rfl
end
end
end

/-! ### Uncached accesses (R107, R211, R248) -/

section
variable {s : State} {agent pa a n w op : Nat} {err : Bool} {d : List PByte} {b : List Byte} {v : W64}

theorem uncachedAct_store_refused (h : writeRefused s a false = true) :
    uncachedAct s agent pa a (.store b) = reply s (.fault agent pa) := if_pos h

theorem uncachedAct_store_sent (h : writeRefused s a false = false) : uncachedAct s agent pa a (.store b) =
    sendReq s agent (a / 64) .wnc (.write a (b.map fun y => (y, false)) false) false := if_neg (Bool.eq_false_iff.mp h)

theorem uncachedAct_amo_refused (h : attrKind s.mem a = 2) :
    uncachedAct s agent pa a (.amo w op v) = reply s (.fault agent pa) := if_pos h

theorem uncachedAct_amo_sent (h : attrKind s.mem a ≠ 2) : uncachedAct s agent pa a (.amo w op v) =
    sendReq s agent (a / 64) .anc (.amo a w (amoOf op) v) false := if_neg h

variable (h : AccessAt s pa a)
include h

theorem execRnc_of_line (hn : a % 64 + n ≤ 64) :
    execRnc agent pa n ⟨none, err⟩ s = .next (sendReq (readMeets s err a) agent (a / 64) .rnc .none false) := by
  simp only [execRnc, agentAccess_of_present h.powered h.place, if_neg (Nat.not_lt.mpr hn)]
  rfl

section
variable (hn : a % 64 + d.length ≤ 64) (hd : d ≠ [])
include hn hd

theorem execWnc_of_refused (href : writeRefused s a false = true) :
    execWnc agent pa d ⟨false, none⟩ s = .next (reply s (.fault agent pa)) := by
  simp [execWnc, agentAccess_of_present h.powered h.place, Nat.not_lt.mpr hn, hd, href, ok]

theorem execWnc_of_sent (href : writeRefused s a false = false) :
    execWnc agent pa d ⟨false, none⟩ s = .next (sendReq s agent (a / 64) .wnc (.write a d false) false) := by
  simp [execWnc, agentAccess_of_present h.powered h.place, Nat.not_lt.mpr hn, hd, href, ok, inOrder]
end

section
variable (hw : w = 4 ∨ w = 8) (ha : a % w = 0)
include hw ha

theorem execAnc_of_combine (hkind : attrKind s.mem a = 2) :
    execAnc agent pa w op ⟨v, err⟩ s = .next (reply s (.fault agent pa)) := by
  have hwidth : (w == 4 || w == 8) = true := by simpa using hw
  simp [execAnc, agentAccess_of_present h.powered h.place, hwidth, ha, hkind, ok]

theorem execAnc_of_sent (hkind : attrKind s.mem a ≠ 2) : execAnc agent pa w op ⟨v, err⟩ s =
    .next (sendReq (readMeets s err a) agent (a / 64) .anc (.amo a w (amoOf op) v) false) := by
  have hwidth : (w == 4 || w == 8) = true := by simpa using hw
  simp [execAnc, agentAccess_of_present h.powered h.place, hwidth, ha, hkind, ok]
end
end

/-! ### A request at its agent (R233) -/

section
variable {s : State} {agent line : Nat} {q : Req} {x : ReqData} {ordered : Bool}

/-- A request as its agent keeps it. -/
def keptReq (agent line : Nat) (q : Req) (x : ReqData) (ordered : Bool) : Held :=
  { home := homeOf (line * 64), num := 0, ordered := ordered, agent := agent, line := line, req := q, data := x }

/-- A credit that was given for a request. -/
def creditFor (agent line : Nat) (q : Req) (x : ReqData) (y : Credit) : Bool :=
  y.agent == agent && y.line == line && y.req == q && y.data == x

theorem sendReq_of_kept (h : s.harn.queued.contains (keptReq agent line q x ordered) = true) : sendReq s agent line q x ordered = s :=
  if_pos h

theorem maySend_of_full (h : 8 ≤ outstanding s agent (homeOf (line * 64))) : maySend s agent line ordered = false := by
  simp [maySend, Nat.not_lt.mpr h]

section
variable (hnew : s.harn.queued.contains (keptReq agent line q x ordered) = false)
  (hcredit : s.harn.credits.any (creditFor agent line q x) = false)
include hnew hcredit

theorem sendReq_of_may (hmay : maySend s agent line ordered = true)
    (hfirst : ordered = false ∨ s.harn.queued.any (fun y => y.agent == agent && y.ordered) = false) :
    sendReq s agent line q x ordered = request s agent line q x := by
  have hgo : (maySend s agent line ordered && !(ordered && s.harn.queued.any fun x => x.agent == agent && x.ordered)) = true := by
    rw [hmay]
    obtain hfirst | hfirst := hfirst <;> simp [hfirst]
  unfold keptReq at hnew
  unfold creditFor at hcredit
  simp only [sendReq, hnew, hcredit, hgo, Bool.false_eq_true, if_false, if_true]

theorem sendReq_of_held_back (hmay : maySend s agent line ordered = false) : sendReq s agent line q x ordered =
    { s with harn := { s.harn with queued := s.harn.queued ++ [keptReq agent line q x ordered] } } := by
  unfold keptReq at hnew
  unfold creditFor at hcredit
  simp only [sendReq, hnew, hcredit, hmay, Bool.false_and, Bool.false_eq_true, if_false]
  rfl
end

/-! ### A request at its home (R243) -/

theorem request_of_ungranted {y : Credit} (h : s.harn.credits.find? (creditFor agent line q x) = some y) (hy : y.granted = false) :
    request s agent line q x = s := by
  unfold creditFor at h
  simp [request, h, hy]

section
variable (hcredit : s.harn.credits.find? (creditFor agent line q x) = none)
include hcredit

theorem request_of_held (h : s.harn.holds.any (fun y => y.agent == agent && y.line == line && y.req == q && y.data == x) = true) :
    request s agent line q x = s := by
  unfold creditFor at hcredit
  simp [request, hcredit, h]

section
variable (hheld : s.harn.holds.any (fun y => y.agent == agent && y.line == line && y.req == q && y.data == x) = false)
include hheld

theorem request_of_free (hopen : canOpen s line = true) (hbusy : lineBusy s line = false) :
    request s agent line q x = openTxn s agent line q x := by
  unfold creditFor at hcredit
  simp only [request, hcredit, hheld, hopen, hbusy, Bool.not_false, Bool.and_self, Bool.false_eq_true, if_false, if_true]

theorem request_of_busy (h : canOpen s line = false ∨ lineBusy s line = true) : request s agent line q x = meetBusy s agent line q x := by
  have hwait : ¬ (canOpen s line && !lineBusy s line) = true := by
    obtain h | h := h <;> simp [h]
  unfold creditFor at hcredit
  simp only [request, hcredit, hheld, hwait, Bool.false_eq_true, if_false]
end
end

/-- A busy home touches the fabric and its counters only. -/
theorem meetBusy_frame (s : State) (agent line : Nat) (q : Req) (x : ReqData) : meetBusy s agent line q x =
    { s with harn := (meetBusy s agent line q x).harn, hcnt := (meetBusy s agent line q x).hcnt } := by
  simp only [meetBusy]
  split <;> rfl

/-- A credit home records the refusal, sends RETRY and counts it. -/
theorem meetBusy_of_credits (h : creditMode s.map (homeOf (line * 64)) = true) :
    (meetBusy s agent line q x).hcnt.dirRetries = s.hcnt.dirRetries + 1 ∧ (meetBusy s agent line q x).harn.holds = s.harn.holds
      ∧ (meetBusy s agent line q x).harn.msgs = s.harn.msgs ++ [.retry line agent s.harn.nextId] := by
  simp only [meetBusy, h, if_true]
  exact ⟨rfl, rfl, rfl⟩

/-- A blocking home holds the request and counts it. -/
theorem meetBusy_of_blocking (h : creditMode s.map (homeOf (line * 64)) = false) :
    (meetBusy s agent line q x).hcnt.dirHolds = s.hcnt.dirHolds + 1 ∧ (meetBusy s agent line q x).harn.credits = s.harn.credits
      ∧ (meetBusy s agent line q x).harn.msgs = s.harn.msgs := by
  simp only [meetBusy, h, Bool.false_eq_true, if_false]
  exact ⟨rfl, rfl, rfl⟩
end

/-! ### A write that opens (R240) -/

section
variable {s : State} {agent line pa : Nat} {d : List PByte}

/-- The transaction of a write that opens. -/
def openedWrite (s : State) (agent line : Nat) (x : ReqData) : Txn :=
  { id := s.harn.nextId, line := line, agent := agent, req := .wnc, data := x, acks := [], fwd := none, granted := false,
    lost := false, result := none, buf := [], wasDirty := false }

/-- The state in which a write's transaction is open and its entry pinned. -/
def writeOpened (s : State) (agent line : Nat) (x : ReqData) : State :=
  modHarn (pin (modHarn { s with stamp := s.stamp + 1 } fun h => { h with nextId := h.nextId + 1 }) line true) fun h =>
    { h with txns := h.txns ++ [openedWrite s agent line x] }

/-- With no owner to forward to, the home does its work at once. -/
theorem openTxn_wnc_of_unowned (x : ReqData) (h : ownerOf s line = none) :
    openTxn s agent line .wnc x = progress (writeOpened s agent line x) s.harn.nextId := by
  simp only [openTxn, h, reduceCtorEq, false_and, or_self, if_false]
  rfl

@[simp] theorem pin_txns (s : State) (line : Nat) (b : Bool) : (pin s line b).harn.txns = s.harn.txns := by
  unfold pin
  split <;> rfl

/-- The transaction just opened is the one of its number. -/
theorem txnOf_writeOpened (x : ReqData) (hnew : ∀ t ∈ s.harn.txns, t.id ≠ s.harn.nextId) :
    txnOf (writeOpened s agent line x) s.harn.nextId = some (openedWrite s agent line x) := by
  have hold : s.harn.txns.find? (fun t => t.id == s.harn.nextId) = none :=
    List.find?_eq_none.mpr fun t ht => by simpa using hnew t ht
  simp [txnOf, writeOpened, modHarn, hold, openedWrite]

/-- The home performs a write of no deferring writer before it asks for invalidations. -/
theorem progress_write_mem {id : Nat} {t : Txn} (ht : txnOf s id = some t) (hfwd : t.fwd = none) (hacks : t.acks = [])
    (hgr : t.granted = false) (hreq : t.req = .wnc) (hdata : t.data = .write pa d false) :
    (progress s id).mem = memWrite s.mem pa d := by
  simp [progress, ht, hfwd, hacks, hgr, hreq, hdata]

theorem openTxn_write_mem (hnew : ∀ t ∈ s.harn.txns, t.id ≠ s.harn.nextId) (hown : ownerOf s line = none) :
    (openTxn s agent line .wnc (.write pa d false)).mem = memWrite s.mem pa d := by
  rw [openTxn_wnc_of_unowned _ hown, progress_write_mem (txnOf_writeOpened _ hnew) rfl rfl rfl rfl rfl]
  simp [writeOpened]
end

/-! ### The statement -/

/-- Settles O31: each access at an address that is absent and at one that exists, by what the agent's cache holds and may hold, then
the request at its agent and at its home. -/
theorem harnessRequestsAtTheHome : Obligations.HarnessRequestsAtTheHome := by
  intro s agent pa a n w op core d b v act c q x o err line fault sends same heldAs kept may
  refine ⟨?absent, ?present, ?uncached,
    useLine_store line b, sendReq_of_kept, ?sent, maySend_of_full, fun y => request_of_ungranted, ?home, openTxn_write_mem⟩
  case uncached =>
    exact ⟨uncachedAct_store_refused, uncachedAct_store_sent, uncachedAct_amo_refused, uncachedAct_amo_sent, rfl, rfl⟩
  case absent =>
    intro hpow hpa
    have hfault : ∀ k go, ok (agentAccess s agent pa none k go) = .next fault := fun k go =>
      congrArg ok (agentAccess_of_absent hpow hpa)
    exact ⟨hfault _ _, hfault _ _, hfault _ _, hfault _ _, hfault _ _, hfault _ _⟩
  case present =>
    intro hpow hpa
    have h : AccessAt s pa a := ⟨hpow, hpa⟩
    refine ⟨?cacheable, ?uncacheable, fun hmay => execRu_of_uncached h hmay (Or.inl rfl), ?unfit, execRnc_of_line h, ?write, ?atomic⟩
    case cacheable =>
      intro hcache
      refine ⟨fun hc hhost => ?_, execRs_of_hit h hcache, execRs_of_miss h hcache, fun hmay => execRu_of_miss h hmay hcache,
        fun hmay hc => ⟨execRu_of_owned h hmay hcache hc, fun hst =>
          ⟨execRu_of_shared h hmay hcache hc hst, execUpg_of_shared h hmay hcache hc hst⟩⟩⟩
      have hload := execRs_of_hit (core := core) (err := err) h hcache hc
      rw [loadLine_of_cluster hc hhost] at hload
      exact hload
    case uncacheable =>
      intro hcache
      exact ⟨execRs_of_uncached h hcache, fun hmay =>
        ⟨execRu_of_uncached h hmay (Or.inr hcache), execUpg_of_uncached h hmay hcache⟩⟩
    case unfit =>
      intro hno
      have hnot : ¬ mayAct agent a act := act_refused_iff.mp (by simpa using hno)
      exact ⟨execRu_of_unfit h hnot, execUpg_of_unfit h hnot⟩
    case write =>
      intro hn hd
      exact ⟨execWnc_of_refused h hn hd, execWnc_of_sent h hn hd⟩
    case atomic =>
      intro hw ha
      exact ⟨execAnc_of_combine h hw ha, execAnc_of_sent h hw ha⟩
  case sent =>
    intro hnew hcredit
    exact ⟨sendReq_of_may hnew hcredit, sendReq_of_held_back hnew hcredit⟩
  case home =>
    intro hcredit
    refine ⟨request_of_held hcredit, fun hheld => ⟨request_of_free hcredit hheld, fun hbusy => ?_⟩⟩
    exact ⟨_, request_of_busy hcredit hheld hbusy, meetBusy_frame s agent line q x, meetBusy_of_credits, meetBusy_of_blocking⟩

end Sys2Proof.Machine
end

section
/-! Messages of the harness, its credits and its failures (R215, R231, R239 to R244, R247, R249 to R251): each message as it arrives,
evictions and their notices, the deferral after an LR, credits, lost agents and directory errors. -/

namespace Sys2Proof.Machine

/-! ### Messages for an agent's line (R240, R242) -/

/-- A forward for an agent's line; so for each message below. -/
def forwardTo (line agent : Nat) (m : HMsg) : Bool := match m with | .forward _ l x _ _ => l == line && x == agent | _ => false

def invalTo (line agent : Nat) (m : HMsg) : Bool := match m with | .inval _ l x => l == line && x == agent | _ => false

def invAckFrom (line agent : Nat) (m : HMsg) : Bool := match m with | .invAck _ l x => l == line && x == agent | _ => false

def dataTo (line agent : Nat) (m : HMsg) : Bool := match m with | .data _ l x => l == line && x == agent | _ => false

def compAckFrom (line agent : Nat) (m : HMsg) : Bool := match m with | .compAck _ l x => l == line && x == agent | _ => false

def retryTo (line agent : Nat) (m : HMsg) : Bool := match m with | .retry l x _ => l == line && x == agent | _ => false

/-- A message waits until the deferral of a core of the agent ends (R247). -/
def deferredMsg (s : State) (m : HMsg) : State := modHarn (takeMsg s m) fun h => { h with deferred := h.deferred ++ [m] }

section
variable {s : State} {agent pa a id : Nat} {iv sd : Bool} {t : Txn} (hpa : canon s.map pa = some a)
include hpa

section
variable (h : s.harn.msgs.find? (forwardTo (a / 64) agent) = some (.forward id (a / 64) agent iv sd))
include h

theorem execForward_of_served (hlr : lrHolds s agent (a / 64) = false) : execForward agent pa s =
    .next (finishLost (serveForward (takeMsg s (.forward id (a / 64) agent iv sd)) id (a / 64) agent iv sd) id) := by
  simp only [execForward, hpa]
  erw [h]
  simp [hlr, ok]

theorem execForward_of_deferred (hlr : lrHolds s agent (a / 64) = true) : execForward agent pa s =
    .next (deferredMsg s (.forward id (a / 64) agent iv sd)) := by
  simp only [execForward, hpa]
  erw [h]
  simp [hlr, ok, deferredMsg]
end

section
variable (h : s.harn.msgs.find? (invalTo (a / 64) agent) = some (.inval id (a / 64) agent))
include h

theorem execInvalidation_of_served (hlr : lrHolds s agent (a / 64) = false) : execInvalidation agent pa s =
    .next (serveInval (takeMsg s (.inval id (a / 64) agent)) id (a / 64) agent) := by
  simp only [execInvalidation, hpa]
  erw [h]
  simp [hlr, ok]

theorem execInvalidation_of_deferred (hlr : lrHolds s agent (a / 64) = true) : execInvalidation agent pa s =
    .next (deferredMsg s (.inval id (a / 64) agent)) := by
  simp only [execInvalidation, hpa]
  erw [h]
  simp [hlr, ok, deferredMsg]
end

/-- Without a message, an engine's write is invalidating the copy (R215). -/
theorem execInvalidation_of_write (h : s.harn.msgs.find? (invalTo (a / 64) agent) = none) (hlr : lrHolds s agent (a / 64) = false)
    (hpend : s.harn.pendInv.any (fun p => p.line == a / 64 && p.agent == agent && !p.hit) = true) : execInvalidation agent pa s =
    .next (modHarn (dropCopy s agent (a / 64)) fun h => { h with
      pendInv := h.pendInv.map fun p => if p.line = a / 64 ∧ p.agent = agent then { p with hit := true } else p }) := by
  simp only [execInvalidation, hpa]
  erw [h]
  simp only [hlr, hpend, Bool.not_false, Bool.and_self, if_true]
  rfl

theorem execInvalidationAck_of_txn (h : s.harn.msgs.find? (invAckFrom (a / 64) agent) = some (.invAck id (a / 64) agent))
    (ht : txnOf s id = some t) : execInvalidationAck agent pa s = .next (finishLost
      (progress (setTxn (takeMsg s (.invAck id (a / 64) agent)) { t with acks := t.acks.erase agent }) id) id) := by
  have ht' : txnOf (takeMsg s (.invAck id (a / 64) agent)) id = some t := ht
  simp only [execInvalidationAck, hpa]
  erw [h]
  simp [ht', ok]

theorem execInvalidationAck_of_write (h : s.harn.msgs.find? (invAckFrom (a / 64) agent) = none) : execInvalidationAck agent pa s =
    .next (settleHarn (modHarn s fun h =>
      { h with pendInv := h.pendInv.filter fun p => !(p.line == a / 64 && p.agent == agent && p.hit) })) := by
  simp only [execInvalidationAck, hpa]
  erw [h]
  rfl

theorem execDataResponse_of_txn (h : s.harn.msgs.find? (dataTo (a / 64) agent) = some (.data id (a / 64) agent))
    (ht : txnOf s id = some t) : execDataResponse agent pa s =
    .next (sendMsg (deliver (takeMsg s (.data id (a / 64) agent)) t) (.compAck id (a / 64) agent)) := by
  have ht' : txnOf (takeMsg s (.data id (a / 64) agent)) id = some t := ht
  simp only [execDataResponse, hpa]
  erw [h]
  simp [ht', ok]

theorem execCompletionAck_of_txn (h : s.harn.msgs.find? (compAckFrom (a / 64) agent) = some (.compAck id (a / 64) agent))
    (ht : txnOf s id = some t) (hacks : t.acks = []) : execCompletionAck agent pa s =
    .next (closeTxn (takeMsg s (.compAck id (a / 64) agent)) t) := by
  simp only [execCompletionAck, hpa]
  erw [h]
  simp [ht, hacks, ok]

theorem execRetry_of_msg {m : HMsg} (h : s.harn.msgs.find? (retryTo (a / 64) agent) = some m) :
    execRetry agent pa s = .next (takeMsg s m) := by
  simp only [execRetry, hpa]
  erw [h]
  rfl
end

/-! ### Evictions and their notices (R239, R241) -/

section
variable {s : State} {agent pa a line : Nat} {c : CLine}

section
variable (hpa : canon s.map pa = some a)
include hpa

theorem evict_of_held {want : List Moesi} (hc : cached s agent (a / 64) = some c) (hopen : lineOpen s (a / 64) = false)
    (hst : c.st ∈ want) : evict s agent pa want = evictLine s agent (a / 64) := by
  simp [evict, hpa, hc, hopen, hst]

theorem evict_of_none (want : List Moesi) (h : cached s agent (a / 64) = none ∨ lineOpen s (a / 64) = true) :
    evict s agent pa want = s := by
  obtain h | h := h
  · simp [evict, hpa, h]
  · cases hc : cached s agent (a / 64) <;> simp [evict, hpa, hc, h]

theorem execPutAck_of_notice {st : Moesi}
    (h : s.harn.puts.find? (fun p => p.1 == agent && p.2.1 == a / 64) = some (agent, a / 64, st)) : execPutAck agent pa s =
    .next (settleHarn (modHarn (handlePut s agent (a / 64) st) fun h => { h with
      puts := h.puts.erase (agent, a / 64, st), wb := sset none h.wb (ckey agent (a / 64)) none })) := by
  simp [execPutAck, hpa, h, ok]
end

theorem evictLine_of_shared (hc : cached s agent line = some c) (hst : c.st = .s) : evictLine s agent line = dropCopy s agent line := by
  simp [evictLine, hc, hst]

theorem evictLine_of_owned (hc : cached s agent line = some c) (hst : c.st ≠ .s) : evictLine s agent line =
    modHarn (dropCopy s agent line) fun h => { h with
      puts := h.puts ++ [(agent, line, c.st)],
      wb := if c.st = .m ∨ c.st = .o then sset none h.wb (ckey agent line) (some c) else h.wb } := by
  simp only [evictLine, hc, hst, if_false, CLine.dirty, Bool.or_eq_true, beq_iff_eq]
  rfl

theorem handlePut_of_no_owner {st : Moesi} (h : ownerOf s line ≠ some agent) : handlePut s agent line st = s := if_pos h

/-- The owner's dirty data reaches memory, and the entry keeps its sharers or is freed. -/
theorem handlePut_of_owner {st : Moesi} {e : DirEnt} (hown : ownerOf s line = some agent) (hdir : dirEnt s line = some e)
    (hst : st ≠ .e) (hwb : sget none s.harn.wb (ckey agent line) = some c) : handlePut s agent line st =
    setDir { s with mem := memWrite s.mem (line * 64) (c.data.map fun b => (b, c.poison)) } line
      (if e.csharers = 0 ∧ e.hsharers = 0 ∧ !e.openTx then none else some { e with dstate := .s, owner := 127 }) := by
  simp only [handlePut, hown, hdir, hst, hwb, ne_eq, not_true_eq_false, if_false]
  rfl
end

/-! ### The deferral after an LR (R247) -/

section
variable {s : State} {core id line : Nat}

/-- The deferral of a core is over. -/
def deferralOver (s : State) (core : Nat) : State := modHarn s fun h => { h with lrDefer := sset 0 h.lrDefer core 0 }

/-- A deferred message for the core's die that no other core's deferral keeps. -/
def released (s : State) (core : Nat) (m : HMsg) : Bool :=
  match msgFor m (agentOfCore core) with
  | some l => !lrHolds (deferralOver s core) (agentOfCore core) l
  | none => false

/-- A deferred message is served at last. -/
def serveDeferred (s : State) (m : HMsg) : State :=
  match m with
  | .forward id ln x iv sd => finishLost (serveForward s id ln x iv sd) id
  | .inval id ln x => serveInval s id ln x
  | _ => s

theorem execLrDeferEnd_eq (core : Nat) (s : State) : execLrDeferEnd core s =
    .next (settleHarn ((s.harn.deferred.filter (released s core)).foldl serveDeferred (modHarn s fun h => { h with
      lrDefer := sset 0 h.lrDefer core 0, deferred := h.deferred.filter fun m => !released s core m }))) := rfl

theorem execLrDeferEnd_of_none (h : s.harn.deferred = []) : execLrDeferEnd core s =
    .next (settleHarn (modHarn s fun h => { h with lrDefer := sset 0 h.lrDefer core 0, deferred := [] })) := by
  simp [execLrDeferEnd_eq, modHarn, h]

theorem execLrDeferEnd_of_inval (h : s.harn.deferred = [.inval id line (agentOfCore core)])
    (hlr : lrHolds (deferralOver s core) (agentOfCore core) line = false) : execLrDeferEnd core s =
    .next (settleHarn (serveInval (modHarn s fun h => { h with lrDefer := sset 0 h.lrDefer core 0, deferred := [] })
      id line (agentOfCore core))) := by
  have hrel : released s core (.inval id line (agentOfCore core)) = true := by simp [released, msgFor, hlr]
  simp [execLrDeferEnd_eq, modHarn, h, hrel, serveDeferred]
end

/-! ### Credits (R243, R244) -/

section
variable {s : State} {home num : Nat} {c : Credit}

/-- A credit that the home can grant. -/
def grantable (s : State) (home : Nat) (c : Credit) : Bool :=
  c.home == home && !c.granted && canOpen s c.line && !waitsBefore s c.line c.num

theorem grantNext_of_some (h : s.harn.credits.find? (grantable s home) = some c) : grantNext s home =
    modHarn s fun h => { h with credits := h.credits.map fun d => if d = c then { d with granted := true } else d } := by
  unfold grantable at h
  simp [grantNext, h]

theorem grantNext_of_none (h : s.harn.credits.find? (grantable s home) = none) : grantNext s home = s := by
  unfold grantable at h
  simp [grantNext, h]

theorem execCreditLapse_of_granted (h : s.harn.credits.any (fun c => c.home == home && c.num == num && c.granted) = true) :
    execCreditLapse home num s = execGrant home (settleHarn { s with
      harn := { s.harn with credits := s.harn.credits.filter fun c => !(c.home == home && c.num == num) },
      hcnt := { s.hcnt with creditLapses := s.hcnt.creditLapses + 1 } }) := congrArg ok (if_pos h)

theorem execCreditLapse_of_none (h : s.harn.credits.any (fun c => c.home == home && c.num == num && c.granted) = false) :
    execCreditLapse home num s = .next s := congrArg ok (if_neg (Bool.eq_false_iff.mp h))
end

/-! ### Late acknowledgements and lost agents (R249, R250) -/

section
variable {s : State} {agent pa a : Nat} {lines engines : List Nat}

/-- An answer of the agent for the line is awaited. -/
def awaitedFrom (s : State) (agent line : Nat) : Bool :=
  s.harn.txns.any (fun t => t.line == line && (t.fwd == some agent || t.acks.contains agent))
    || s.harn.pendInv.any fun p => p.line == line && p.agent == agent

section
variable (hpa : canon s.map pa = some a)
include hpa

theorem execHarnessAckTimeout_of_awaited (h : awaitedFrom s agent (a / 64) = true) :
    execHarnessAckTimeout agent ⟨pa, lines, engines⟩ s =
      .next (reportUnit (note s 5 1 3 10 (homeOf a) [BitVec.ofNat 64 agent, BitVec.ofNat 64 a]) (dieOfAgent agent)
        { resetOk := true, lines := lines, engines := engines }) := by
  simp only [execHarnessAckTimeout, hpa]
  exact congrArg ok (if_pos h)

theorem execHarnessAckTimeout_of_answered (h : awaitedFrom s agent (a / 64) = false) :
    execHarnessAckTimeout agent ⟨pa, lines, engines⟩ s = .next s := by
  simp only [execHarnessAckTimeout, hpa]
  exact congrArg ok (if_neg (Bool.eq_false_iff.mp h))
end

/-- With nothing held or queued, nothing goes on. -/
theorem settleHarn_of_none (hholds : s.harn.holds = []) (hqueued : s.harn.queued = []) : settleHarn s = s := by
  simp [settleHarn, takeHeld, sendQueued, hholds, hqueued]

/-- The fabric without a lost agent's lines, requests and messages. -/
def forgotten (h : Harness) (agent : Nat) : Harness := { h with
  lines := h.lines.filter fun e => e.1 / 2 ^ 38 != agent, wb := h.wb.filter fun e => e.1 / 2 ^ 38 != agent,
  l2 := h.l2.filter fun e => agentOfCore (e.1 / 2 ^ 38) != agent,
  credits := h.credits.filter fun c => c.agent != agent, holds := h.holds.filter fun c => c.agent != agent,
  queued := h.queued.filter fun c => c.agent != agent, puts := h.puts.filter fun p => p.1 != agent,
  pendInv := h.pendInv.filter fun p => p.agent != agent,
  recalls := h.recalls.map fun r => (r.1, r.2.1, r.2.2.filter fun a => a != agent),
  resv := h.resv.filter fun r => agentOfCore r.1 != agent, lrDefer := h.lrDefer.filter fun r => agentOfCore r.1 != agent,
  deferred := h.deferred.filter (notOf agent), msgs := h.msgs.filter (notOf agent) }

/-- With no entry, transaction or waiting request, a lost agent is forgotten and its acknowledgements under way are counted as stale. -/
theorem loseAgent_of_quiet (hdir : s.harn.dir = []) (htxns : s.harn.txns = []) (hholds : s.harn.holds = [])
    (hqueued : s.harn.queued = []) : ∃ g, loseAgent s agent = { s with harn := forgotten s.harn agent, gens := g } := by
  refine ⟨(loseAgent s agent).gens, ?_⟩
  have hquiet : ∀ u : State, u.harn = forgotten s.harn agent → settleHarn u = u := fun u hu =>
    settleHarn_of_none (by simp [hu, forgotten, hholds]) (by simp [hu, forgotten, hqueued])
  simp only [loseAgent, hdir, htxns, modHarn, List.map_nil, List.foldl_nil]
  rw [hquiet _ (by simp [forgotten, hdir, htxns])]
  simp [forgotten, hdir, htxns]

theorem forgotten_leaves_nothing (h : Harness) (agent : Nat) :
    (∀ e ∈ (forgotten h agent).lines, e.1 / 2 ^ 38 ≠ agent) ∧ (∀ e ∈ (forgotten h agent).wb, e.1 / 2 ^ 38 ≠ agent)
      ∧ (∀ k ∈ (forgotten h agent).credits, k.agent ≠ agent) ∧ (∀ k ∈ (forgotten h agent).holds, k.agent ≠ agent)
      ∧ (∀ k ∈ (forgotten h agent).puts, k.1 ≠ agent) ∧ (∀ k ∈ (forgotten h agent).pendInv, k.agent ≠ agent)
      ∧ (∀ k ∈ (forgotten h agent).recalls, agent ∉ k.2.2) := by
  have left : ∀ {β : Type} (p : β → Nat) (l : List β), ∀ x ∈ l.filter (fun x => p x != agent), p x ≠ agent := by
    intro β p l x hx
    simpa using (List.mem_filter.mp hx).2
  refine ⟨left _ _, left _ _, left _ _, left _ _, left _ _, left _ _, fun k hk hin => ?_⟩
  obtain ⟨r, -, rfl⟩ := List.mem_map.mp hk
  exact left id _ _ hin rfl
end

/-! ### Directory errors (R251) -/

section
variable {s : State} {agent home set pa a : Nat} {lines engines : List Nat} {e : DirEnt} {r : Nat × Nat × List Nat}

theorem execDirUncorrectableError_of_corrected (hpa : canon s.map pa = some a) (hdir : dirEnt s (a / 64) = some e) :
    execDirUncorrectableError home ⟨set, some pa, lines, engines⟩ s = .next (setDir
      { s with hcnt := { s.hcnt with dirEntryErrors := s.hcnt.dirEntryErrors + 1 } } (a / 64) (some { e with eccMark := true })) := by
  unfold dirEnt at hdir
  simp only [execDirUncorrectableError, hpa, dirCorrected, dirEnt, hdir]
  rfl

theorem execDirUncorrectableError_of_first (h : sget false s.harn.hwPending home = false) :
    execDirUncorrectableError home ⟨set, none, lines, engines⟩ s =
      .next (dirUncorrectable (note s 5 3 2 10 home [BitVec.ofNat 64 set]) home set) := by
  simp [execDirUncorrectableError, h, ok]

theorem execDirUncorrectableError_of_second (h : sget false s.harn.hwPending home = true) :
    execDirUncorrectableError home ⟨set, none, lines, engines⟩ s =
      .next (reportUnit (dirUncorrectable (note s 5 4 5 10 home [BitVec.ofNat 64 set]) home set) (dieOfUnit (10, home))
        { resetOk := true, lines := lines, engines := engines }) := by
  simp [execDirUncorrectableError, h, ok]

/-- A line of a set of the home. -/
def inHomeSet (home set l : Nat) : Bool := homeOf (l * 64) == home && dirSet l == set

/-- The set's recall is under way, the home is marked, and the transactions whose data was not sent are taken back. -/
theorem dirUncorrectable_harn (s : State) (home set : Nat) :
    (dirUncorrectable s home set).harn.recalls = s.harn.recalls ++ [(home, set, trackedAgents s.map home)]
      ∧ (dirUncorrectable s home set).harn.hwPending = sset false s.harn.hwPending home true
      ∧ (dirUncorrectable s home set).harn.txns = s.harn.txns.filter fun t => !(inHomeSet home set t.line && !t.granted) := by
  have hdirty : ∀ ts : List Txn, (ts.foldl (fun u t => if t.wasDirty && !t.buf.isEmpty then
      { u with mem := memWrite u.mem (t.line * 64) t.buf } else u) s).harn = s.harn := fun ts =>
    foldl_keeps State.harn _ (fun u t => by split <;> rfl) ts s
  simp only [dirUncorrectable]
  split <;> simp only [modHarn, hdirty, inHomeSet, and_self]

theorem execSetRecall_of_none (h : s.harn.recalls.find? (fun r => r.1 == home && r.2.1 == set && r.2.2.contains agent) = none) :
    execSetRecall agent home set s = .next s := by
  simp only [execSetRecall, h]
  rfl

/-- The agent's lines of a set, in a cache or a write-back buffer. -/
def linesOfSet (agent home set : Nat) (m : SMap (Option CLine)) : List Nat :=
  (m.filter fun e => e.1 / 2 ^ 38 == agent && inHomeSet home set (e.1 % 2 ^ 38)).map fun e => e.1 % 2 ^ 38

/-- The lines that a set recall asks of the agent. -/
def recalledLines (s : State) (agent home set : Nat) : List Nat :=
  (linesOfSet agent home set s.harn.lines ++ linesOfSet agent home set s.harn.wb).eraseDups

section
variable (h : s.harn.recalls.find? (fun r => r.1 == home && r.2.1 == set && r.2.2.contains agent) = some r)
include h

theorem execSetRecall_of_deferral (hlr : (recalledLines s agent home set).any (lrHolds s agent) = true) :
    execSetRecall agent home set s = .next s := by
  simp only [execSetRecall, h]
  exact congrArg ok (if_pos hlr)

/-- With other agents left to act, the agent's part is done. -/
theorem execSetRecall_of_others (hlr : (recalledLines s agent home set).any (lrHolds s agent) = false)
    (hleft : (r.2.2.filter fun x => x != agent) ≠ []) : execSetRecall agent home set s =
    .next (modHarn ((recalledLines s agent home set).foldl (fun t l => dropCopy (writeBack t agent l) agent l) s) fun h => { h with
      wb := h.wb.filter fun e => !(e.1 / 2 ^ 38 == agent && inHomeSet home set (e.1 % 2 ^ 38)),
      puts := h.puts.filter fun p => !(p.1 == agent && inHomeSet home set p.2.1),
      recalls := h.recalls.map fun x => if x.1 = home ∧ x.2.1 = set then (home, set, r.2.2.filter fun x => x != agent) else x }) := by
  have hmore : (r.2.2.filter fun x => x != agent).isEmpty = false := by simpa using hleft
  unfold recalledLines linesOfSet inHomeSet at *
  simp only [execSetRecall, h, hlr, hmore, Bool.false_eq_true, if_false]
  rfl
end
end

/-! ### The statement -/

/-- Settles O32: each message by the agent's line, evictions and notices by the copy's state, credits, then lost agents and directory
errors. -/
theorem harnessMessagesCreditsAndFailures : Obligations.HarnessMessagesCreditsAndFailures := by
  refine ⟨?messages, ?failures⟩
  case messages =>
    intro s agent pa a id core iv sd st m t c e line take sent isF isI isA isD isC isR txn hpa
    refine ⟨?forward, ?inval, execInvalidation_of_write hpa, execInvalidationAck_of_txn hpa, execInvalidationAck_of_write hpa,
      execDataResponse_of_txn hpa, execCompletionAck_of_txn hpa, execRetry_of_msg hpa, ?evicts, ?keeps, execPutAck_of_notice hpa,
      handlePut_of_no_owner, handlePut_of_owner, execLrDeferEnd_of_none, ?deferral⟩
    case forward => exact fun h => ⟨execForward_of_served hpa h, execForward_of_deferred hpa h⟩
    case inval => exact fun h => ⟨execInvalidation_of_served hpa h, execInvalidation_of_deferred hpa h⟩
    case evicts =>
      intro hc hopen
      exact ⟨fun hst => congrArg ok (evict_of_held hpa hc hopen (by simp [hst])),
        fun hst => congrArg ok (evict_of_held hpa hc hopen (by simp [hst])),
        fun hst => congrArg ok (evict_of_held hpa hc hopen (by simpa using hst)), evictLine_of_shared hc, evictLine_of_owned hc⟩
    case keeps =>
      intro h
      exact ⟨congrArg ok (evict_of_none hpa _ h), congrArg ok (evict_of_none hpa _ h), congrArg ok (evict_of_none hpa _ h)⟩
    case deferral =>
      rintro rfl hdef hlr
      exact execLrDeferEnd_of_inval hdef hlr
  case failures =>
    intro s home num agent pa a set lines engines c e r can inSet awaited
    refine ⟨fun h => congrArg ok (grantNext_of_some h), fun h => congrArg ok (grantNext_of_none h), rfl, execCreditLapse_of_granted,
      execCreditLapse_of_none, ?timeout, ?lost,
      execDirUncorrectableError_of_corrected (home := home) (set := set) (lines := lines) (engines := engines),
      execDirUncorrectableError_of_first, execDirUncorrectableError_of_second, dirUncorrectable_harn s home set,
      execSetRecall_of_none, ?recalled⟩
    case timeout => exact fun hpa => ⟨execHarnessAckTimeout_of_awaited hpa, execHarnessAckTimeout_of_answered hpa⟩
    case lost =>
      intro hdir htxns hholds hqueued
      obtain ⟨g, hg⟩ := loseAgent_of_quiet (agent := agent) hdir htxns hholds hqueued
      exact ⟨_, congrArg ok hg, rfl, forgotten_leaves_nothing s.harn agent⟩
    case recalled => exact fun h => ⟨execSetRecall_of_deferral h, execSetRecall_of_others h⟩

end Sys2Proof.Machine
end

section
/-! Requests of the NVMe initiators (R225, R324, R325): the ring's entries, what each request sends or how it ends, and what a
completion does. -/

namespace Sys2Proof.Machine

/-! ### Ring polls -/

section
variable {s : State} {unit ring : Nat}

/-- The entries that a poll finds between HEAD and TAIL. -/
def nvWaiting (s : State) (unit ring : Nat) : Nat :=
  min 256 ((physNat s (nvRingAt s unit ring) 4 + 2 ^ 32 - physNat s (nvRingAt s unit ring + 4) 4) % 2 ^ 32)

theorem execNvmeRingPoll_of_out (h : nvOut s unit = true) : execNvmeRingPoll unit ring s = .next s :=
  congrArg ok (if_pos (by simp [h]))

theorem execNvmeRingPoll_of_entries (hring : od s 0x8051 (unit + 1) ≠ 0) (hunit : unit < 2) (hnum : ring < 64)
    (hpow : powered s = true) (hout : nvOut s unit = false) (hn : nvWaiting s unit ring ≠ 0) : execNvmeRingPoll unit ring s =
    .next (let b := nvRingAt s unit ring
      let head := physNat s (b + 4) 4
      physWrite (((List.range (nvWaiting s unit ring)).map fun i => b + 64 + 64 * ((head + i) % 256)).foldl (nvTake unit) s) (b + 4)
        (leBytes 4 (head + nvWaiting s unit ring))) := by
  have hgo : ¬ (od s 0x8051 (unit + 1) = 0 ∨ 2 ≤ unit ∨ 64 ≤ ring ∨ (!powered s) = true ∨ nvOut s unit = true) := by
    simp [hring, hunit, hnum, hpow, hout]
  unfold nvWaiting at hn
  simp only [execNvmeRingPoll, if_neg hgo, if_neg hn]
  rfl
end

/-! ### Requests that are sent or end in error (R324, R325) -/

section
variable {s t : State} {unit op : Nat} {r : NvReq} {d : List PByte} {l : List Piece} {e : Nat × Nat}

/-- The controller of a request takes no command. -/
def nvDead (s : State) (r : NvReq) : Bool := !nvEnabled s (nvKey r) || sget false s.nvme.failed (nvKey r)

/-- A request is marked as sent, and its command is on its way. -/
def nvSent (s : State) (r : NvReq) (d : List PByte) : State := { s with nvme := { s.nvme with
  reqs := s.nvme.reqs.map fun x => if x.id = r.id then { x with sent := true } else x,
  out := s.nvme.out ++ [{
    unit := r.unit, ctrl := nvCtrl r, id := r.id, op := nvOp r, ns := nvNs r, slba := nvSlba r, nlb := nvNlb r, data := d }] } }

theorem nvSend_eq (s : State) (r : NvReq) (d : List PByte) :
    nvSend s r d = if nvDead s r then nvFinish s r 0 true else nvSent s r d := rfl

/-- An initiator in containment or RETIRED sends nothing (R377, R383). -/
theorem nvNext_of_out (op : Nat) (h : nvOut s unit = true) : nvNext s unit op = none := if_pos h

section
variable (hout : nvOut s unit = true)
include hout

theorem execNvmeRead_of_out : execNvmeRead unit s = .next s := by simp [execNvmeRead, nvNext_of_out 0 hout, ok]

theorem nvWriteReq_of_out (op : Nat) : nvWriteReq s unit op = s := by simp [nvWriteReq, nvNext_of_out op hout]

theorem nvPlain_of_out (op : Nat) : nvPlain s unit op = s := by simp [nvPlain, nvNext_of_out op hout]
end

theorem nvPlain_of_next (h : nvNext s unit op = some r) :
    nvPlain s unit op = if nvDead s r then nvFinish s r 0 true else nvSent s r [] := by
  simp [nvPlain, h, nvSend_eq]

section
variable (h : nvNext s unit 0 = some r)
include h

theorem execNvmeRead_of_writable (hl : vPieces s none (nvCtx r) .write (nvBuf r) (nvNlb r * 4096) = (.ok l, t)) :
    execNvmeRead unit s = .next (if nvDead t r then nvFinish t r 0 true else nvSent t r []) := by
  simp [execNvmeRead, h, hl, nvSend_eq, ok]

theorem execNvmeRead_of_unreachable (hl : vPieces s none (nvCtx r) .write (nvBuf r) (nvNlb r * 4096) = (.error e, t)) :
    execNvmeRead unit s = .next (nvFinish t r 0 true) := by
  simp [execNvmeRead, h, hl, ok]
end

theorem nvWriteReq_of_read (hread : uRead s (nvCtx r) (nvBuf r) (nvNlb r * 4096) = (some d, t)) (h : nvNext s unit op = some r) :
    nvWriteReq s unit op = if d.any Prod.snd || nvDead t r then nvFinish t r 0 true else nvSent t r d := by
  cases hbad : d.any Prod.snd <;> simp only [nvWriteReq, h, hread, hbad, nvSend_eq, Bool.true_or, Bool.false_or, Bool.false_eq_true,
    if_true, if_false]

theorem nvWriteReq_of_unreachable (hread : uRead s (nvCtx r) (nvBuf r) (nvNlb r * 4096) = (none, t))
    (h : nvNext s unit op = some r) : nvWriteReq s unit op = nvFinish t r 0 true := by
  simp [nvWriteReq, h, hread]
end

/-! ### Completions (R324) -/

section
variable {s : State} {unit id status : Nat} {data : List Byte} {r : NvReq}

/-- A failed request goes to its controller again. -/
def nvAgain (s : State) (r : NvReq) : State :=
  let q := { r with retries := r.retries + 1 }
  nvResend { s with nvme := { s.nvme with reqs := s.nvme.reqs.map fun x => if x.id = r.id then q else x } } q

variable (h : s.nvme.reqs.find? (fun x => x.unit == unit && x.id == id && x.sent) = some r)
include h

theorem execNvmeCompletion_of_done (hst : status % 2 ^ 15 = 0) (hop : nvOp r ≠ 0) :
    execNvmeCompletion unit id status data s = .next (nvFinish s r 0 false) := by
  simp only [execNvmeCompletion, h, hst, hop, if_true, if_false]
  rfl

theorem execNvmeCompletion_of_read (hst : status % 2 ^ 15 = 0) (hop : nvOp r = 0) : execNvmeCompletion unit id status data s =
    .next (let w := dmaWrite s (nvCtx r) (nvBuf r) ((data.take (nvNlb r * 4096)).map fun b => (b, false))
      nvFinish w.2 r 0 (!w.1)) := by
  simp only [execNvmeCompletion, h, hst, hop, if_true]
  rfl

section
variable (hst : status % 2 ^ 15 ≠ 0)
include hst

theorem execNvmeCompletion_of_retry (hretry : r.retries < 3) : execNvmeCompletion unit id status data s = .next (nvAgain s r) := by
  simp only [execNvmeCompletion, h, hst, hretry, if_true, if_false]
  rfl

/-- After three retries the controller is reset once. -/
theorem execNvmeCompletion_of_reset (hretry : r.retries = 3) (hreset : sget false s.nvme.wasReset (nvKey r) = false) :
    execNvmeCompletion unit id status data s = .next (nvAgain { s with nvme := { s.nvme with
      wasReset := sset false s.nvme.wasReset (nvKey r) true, resets := s.nvme.resets ++ [nvKey r] } } r) := by
  have hmore : ¬ r.retries < 3 := by omega
  have hgo : r.retries = 3 ∧ (!sget false s.nvme.wasReset (nvKey r)) = true := ⟨hretry, by simp [hreset]⟩
  simp only [execNvmeCompletion, h, if_neg hst, if_neg hmore, if_pos hgo]
  rfl

theorem execNvmeCompletion_of_failed (hretry : 4 ≤ r.retries) : execNvmeCompletion unit id status data s =
    .next (let ended := nvFinish s r status true
      note { ended with nvme := { ended.nvme with failed := sset false ended.nvme.failed (nvKey r) true } } 5 9 3 6 unit
        [BitVec.ofNat 64 (nvCtrl r), BitVec.ofNat 64 status]) := by
  have hmore : ¬ r.retries < 3 := by omega
  have hreset : ¬ (r.retries = 3 ∧ (!sget false s.nvme.wasReset (nvKey r)) = true) := by omega
  simp only [execNvmeCompletion, h, if_neg hst, if_neg hmore, if_neg hreset]
  rfl
end
end

/-! ### The statement -/

/-- Settles O41: the poll, each operation's first request by what its controller and buffer allow, and the completion by its status. -/
theorem nvmeRequestsAreSentAndCompleted : Obligations.NvmeRequestsAreSentAndCompleted := by
  intro s t unit ring id status data r d l e b tail head n next dead sent again ended
  have plain : ∀ op, next op → ok (nvPlain s unit op) = .next (if dead s then nvFinish s r 0 true else sent s []) := fun op h =>
    congrArg ok (nvPlain_of_next h)
  refine ⟨execNvmeRingPoll_of_entries, ?out, plain 3, plain 4, plain 5, execNvmeRead_of_writable, execNvmeRead_of_unreachable, ?read,
    ?unreachable, ?completes⟩
  case out =>
    intro hout
    exact ⟨execNvmeRingPoll_of_out hout, execNvmeRead_of_out hout, congrArg ok (nvWriteReq_of_out hout 1),
      congrArg ok (nvPlain_of_out hout 3)⟩
  case read =>
    intro hread
    exact ⟨fun h => congrArg ok (nvWriteReq_of_read hread h), fun h => congrArg ok (nvWriteReq_of_read hread h)⟩
  case unreachable =>
    intro hread
    exact ⟨fun h => congrArg ok (nvWriteReq_of_unreachable hread h), fun h => congrArg ok (nvWriteReq_of_unreachable hread h)⟩
  case completes =>
    intro h
    exact ⟨execNvmeCompletion_of_done h, execNvmeCompletion_of_read h, fun hst =>
      ⟨execNvmeCompletion_of_retry h hst, execNvmeCompletion_of_reset h hst, execNvmeCompletion_of_failed h hst⟩⟩

end Sys2Proof.Machine
end

section
/-! Host dies and cores in reset, and out of it (R228, R352, R371, R471). -/

namespace Sys2Proof.Machine

section
variable {s : State} {die hart : Nat} {lost late failed : List Nat}

theorem execHostDieReset_of_range (h : 1 < die) : execHostDieReset die lost s = .next (abortWith s aRANGE) := congrArg ok (if_pos h)

theorem execHostDieReset_of_die (h : die ≤ 1) : execHostDieReset die lost s = .next (abortWith (resetHostDie s die lost) aNONE) :=
  congrArg ok (if_neg (Nat.not_lt.mpr h))

theorem resetHostDie_eq {gone : State} (h : loseAgent (flushAgent s (96 + die) lost) (96 + die) = gone) : resetHostDie s die lost =
    note { gone with hosts := { gone.hosts with dieReset := sset false gone.hosts.dieReset die true } } 14 1 3 5 die [] := by
  subst h
  rfl

theorem execHostCoreReset_of_range (h : 95 < hart) : execHostCoreReset hart late failed s = .next (abortWith s aRANGE) :=
  congrArg ok (if_pos h)

theorem execHostCoreReset_of_core (h : hart ≤ 95) :
    execHostCoreReset hart late failed s = .next (abortWith (resetHostCore s hart (late ++ failed)) aNONE) :=
  congrArg ok (if_neg (Nat.not_lt.mpr h))

/-- The lines that a core's L2 cache holds. -/
def l2Lines (s : State) (hart : Nat) : List Nat := ((s.harn.l2.map Prod.fst).filter fun k => k / 2 ^ 38 == hart).map (· % 2 ^ 38)

theorem resetHostCore_eq {back : State} (h : (l2Lines s hart).foldl (fun t l => leaveL2 t hart l lost) s = back) :
    resetHostCore s hart lost = note (modHarn back fun x => { x with
      resv := x.resv.filter fun r => r.1 != hart, lrDefer := x.lrDefer.filter fun r => r.1 != hart })
      14 2 2 5 (hart / 48) [BitVec.ofNat 64 hart] := by
  subst h
  rfl

theorem execHostDieResetExit_of_running (h : sget false s.hosts.dieReset die = false) : execHostDieResetExit die s = .next s :=
  congrArg ok (if_neg (Bool.eq_false_iff.mp h))

theorem execHostDieResetExit_of_reset (h : sget false s.hosts.dieReset die = true) :
    execHostDieResetExit die s = .next (exitHostDie s die) := congrArg ok (if_pos h)

/-- No descriptor is named (R371). -/
theorem preserveStatus_of_none (h : od s 0x4020 3 = 0) : preserveStatus s = 0 := if_pos h

theorem ite_status_le {a b c : Prop} [Decidable a] [Decidable b] [Decidable c] :
    (if a then 0 else if b then 3 else if c then 1 else 2) ≤ 3 := by
  split
  · decide
  · split
    · decide
    · split <;> decide

theorem preserveStatus_le (s : State) : preserveStatus s ≤ 3 := ite_status_le
end

/-- Settles O47: each command by its operand, and the exit by whether the die is in reset. -/
theorem hostDiesResetAndReturn : Obligations.HostDiesResetAndReturn := by
  intro s die hart lost late failed abort gone mine back n
  have habort : abort = fun c t => abortWith t c := rfl
  have hgone : loseAgent (flushAgent s (96 + die) lost) (96 + die) = gone := rfl
  have hback : (l2Lines s hart).foldl (fun t l => leaveL2 t hart l (late ++ failed)) s = back := rfl
  clear_value abort gone back
  subst habort
  rw [← resetHostDie_eq hgone, ← resetHostCore_eq hback]
  exact ⟨execHostDieReset_of_range, execHostDieReset_of_die, execHostCoreReset_of_range, execHostCoreReset_of_core,
    execHostDieResetExit_of_running, execHostDieResetExit_of_reset, preserveStatus_of_none, preserveStatus_le s⟩

end Sys2Proof.Machine
end

section
/-! Package resets and the boot path (R229, R406, R414, R465, R469, R472, R473, R490, R494): standby power, the assertion and release of
PKG_RESET_N, the role, and the repair log. -/

namespace Sys2Proof.Machine

/-! ### Standby power and PKG_RESET_N (R229, R494) -/

section
variable {s : State} {straps : Nat} {ed0 : Bool} {finds : FlashFinds}

theorem execStandbyPowerOn_of_on (h : s.lands.stby = true) : execStandbyPowerOn s = .next s := congrArg ok (if_pos h)

theorem execStandbyPowerOn_of_off (h : s.lands.stby = false) :
    execStandbyPowerOn s = .next (modLands (coldState s) fun l => { l with stby := true }) :=
  congrArg ok (if_neg (Bool.eq_false_iff.mp h))

theorem execPkgResetAssert_of_active (hstby : s.lands.stby = true) (hreset : s.lands.inReset = false) :
    execPkgResetAssert s = .next (warmState s) := by
  simp [execPkgResetAssert, hstby, hreset, ok]

theorem execPkgResetAssert_of_idle (h : s.lands.stby = false ∨ s.lands.inReset = true) : execPkgResetAssert s = .next s :=
  congrArg ok (if_pos (by simpa using h))

/-- PKG_RESET_N is asserted, with standby power on. -/
def resetHeld (s : State) : Prop := s.lands.inReset = true ∧ s.lands.stby = true

/-- The straps are sampled at the release. -/
def resetReleased (s : State) (straps : Nat) (finds : FlashFinds) : State :=
  modBoot (modLands s fun l => { l with inReset := false, straps := straps % 4 }) fun b => { b with finds := finds }

theorem execPkgResetRelease_of_not_held (h : ¬ resetHeld s) : execPkgResetRelease straps ⟨ed0, finds⟩ s = .next s := by
  have hidle : (!s.lands.inReset || !s.lands.stby) = true := by
    unfold resetHeld at h
    cases hreset : s.lands.inReset <;> simp_all
  exact congrArg ok (if_pos hidle)

section
variable (hheld : resetHeld s)
include hheld

theorem execPkgResetRelease_of_test (hstrap : bitAt straps 1 = true) : execPkgResetRelease straps ⟨ed0, finds⟩ s =
    .next (modBoot (resetReleased s straps finds) fun b => { b with testMode := true }) := by
  obtain ⟨hreset, hstby⟩ := hheld
  simp only [execPkgResetRelease, hreset, hstby, hstrap, Bool.not_true, Bool.or_self, Bool.false_eq_true, if_false, if_true]
  rfl

section
variable (hstrap : bitAt straps 1 = false)
include hstrap

theorem execPkgResetRelease_of_announced (hed0 : ed0 = true) (hsecret : finds.noSecret.contains 0 = false) :
    execPkgResetRelease straps ⟨ed0, finds⟩ s = .next (romBoot (takeRole (resetReleased s straps finds) 0)) := by
  obtain ⟨hreset, hstby⟩ := hheld
  have htakes : (ed0 && hasSecret (resetReleased s straps finds) 0) = true := by
    rw [hed0, Bool.true_and]
    exact congrArg not hsecret
  unfold resetReleased at htakes ⊢
  simp only [execPkgResetRelease, hreset, hstby, hstrap, Bool.not_true, Bool.or_self, Bool.false_eq_true, if_false, if_pos htakes]
  rfl

theorem execPkgResetRelease_of_silent (h : ed0 = false ∨ finds.noSecret.contains 0 = true) :
    execPkgResetRelease straps ⟨ed0, finds⟩ s = .next (modBoot (resetReleased s straps finds) fun b => { b with seq := .role }) := by
  obtain ⟨hreset, hstby⟩ := hheld
  have hwaits : ¬ (ed0 && hasSecret (resetReleased s straps finds) 0) = true := by
    obtain h | h := h
    · simp [h]
    · rw [Bool.and_eq_true, not_and, Bool.not_eq_true]
      exact fun _ => congrArg not h
  unfold resetReleased at hwaits ⊢
  simp only [execPkgResetRelease, hreset, hstby, hstrap, Bool.not_true, Bool.or_self, Bool.false_eq_true, if_false, if_neg hwaits]
  rfl
end
end

/-! ### The role and the watchdog (R406, R465, R469) -/

theorem execRoleAnnounceTimeout_of_role (hrole : s.boot.seq = .role) (hsecret : s.boot.finds.noSecret.contains 1 = false) :
    execRoleAnnounceTimeout s = .next (romBoot (takeRole (modBoot s fun b => { b with seq := .none }) 1)) :=
  congrArg ok (if_pos ⟨hrole, congrArg not hsecret⟩)

theorem execRoleAnnounceTimeout_of_other (h : s.boot.seq ≠ .role ∨ s.boot.finds.noSecret.contains 1 = true) :
    execRoleAnnounceTimeout s = .next s := by
  refine congrArg ok (if_neg ?_)
  rintro ⟨hrole, hsecret⟩
  obtain h | h := h
  · exact h hrole
  · exact absurd (hsecret.symm.trans (congrArg not h)) (by decide)

theorem execBootWatchdogReset_of_idle (h : s.boot.fw = false ∨ s.boot.complete = true) : execBootWatchdogReset s = .next s :=
  congrArg ok (if_pos (by simpa using h))

theorem execBootWatchdogReset_of_boot (hfw : s.boot.fw = true) (hboot : s.boot.complete = false) : execBootWatchdogReset s =
    .next (romBoot (takeRole (modBoot s fun b => { b with watchdog := b.watchdog + 1, fw := false, seq := .none }) s.ost.active)) := by
  simp only [execBootWatchdogReset, hfw, hboot, Bool.not_true, Bool.or_self, Bool.false_eq_true, if_false]
  rfl
end

/-! ### The repair log (R472, R473) -/

section
variable {s t : State} {r : Repair} {k : Nat}

/-- The records of the repair log that verify. -/
def validRepairs (s : State) : List Repair := s.boot.repairs.filter fun r => !s.boot.finds.badRepairs.contains r.seq

/-- The newest of them of a kind. -/
def newestValid (s : State) (k : Nat) : Option Repair := ((validRepairs s).filter fun r => r.kind == k).getLast?

/-- The newest valid record of a kind takes effect. -/
def repaired (s : State) (k : Nat) (t : State) : State := ((newestValid s k).map (applyRepair t)).getD t

/-- The log's bad records are reported. -/
def repairsReported (s : State) : State :=
  (s.boot.repairs.filter fun r => s.boot.finds.badRepairs.contains r.seq).foldl
    (fun t r => noteUnit t 12 2 2 0 0 [BitVec.ofNat 64 r.seq, BitVec.ofNat 64 r.kind]) s

theorem repaired_eq (s : State) (k : Nat) (t : State) :
    repaired s k t = (match newestValid s k with | some r => applyRepair t r | none => t) := by
  unfold repaired
  cases newestValid s k <;> rfl

/-- The kinds take effect in their order. -/
theorem verifyLog_eq (s : State) : verifyLog s = modBoot (repaired s 4 (repaired s 3 (repaired s 2 (repaired s 1 (repairsReported s)))))
    fun b => { b with repairs := validRepairs s } := by
  simp only [repaired_eq]
  rfl

theorem kind_of_newestValid (h : newestValid s k = some r) : r.kind = k := by
  have hmem := List.mem_of_getLast? h
  simpa using (List.mem_filter.mp hmem).2

theorem repaired_of_none (h : newestValid s k = none) : repaired s k t = t := by
  simp [repaired, h]

theorem repaired_of_some (h : newestValid s k = some r) : repaired s k t = applyRepair t r := by
  simp [repaired, h]

/-- What a record of a kind leaves alone, the kind leaves alone. -/
theorem repaired_keeps {γ : Type} (part : State → γ) (hpart : ∀ t r, r.kind = k → part (applyRepair t r) = part t) :
    part (repaired s k t) = part t := by
  cases h : newestValid s k with
  | none => rw [repaired_of_none h]
  | some r => rw [repaired_of_some h, hpart t r (kind_of_newestValid h)]

theorem repairsReported_keeps {γ : Type} (part : State → γ) (hpart : ∀ t n v l, part (noteUnit t 12 n v 0 0 l) = part t) :
    part (repairsReported s) = part s :=
  foldl_keeps part _ (fun _ _ => hpart _ _ _ _) _ s

/-! ### What each kind of record sets (R472) -/

theorem applyRepair_slots (h : r.kind = 1) : (applyRepair t r).slots = { t.slots with
    map := ssetMany none [] ((List.range 768).filterMap fun ge =>
      if imgN r.body ge 1 = ge % 8 then none else some (ge, some (imgN r.body ge 1)))
    st := ssetMany .inService [] ((List.range 864).filterMap fun p =>
      if imgN r.body (768 + p) 1 = 4 then some (p, .retired) else none) } := by
  simp only [applyRepair, h, if_true]

theorem applyRepair_gens (h : r.kind = 3) : (applyRepair t r).gens = { t.gens with
    record := ssetMany 0 [] (genKeys.zipIdx.map fun k => (k.1, imgN r.body (2 * k.2) 2)) } := by
  simp only [applyRepair, h, if_true, Nat.reduceEqDiff, if_false]

theorem applyRepair_map (h : r.kind = 4) : (applyRepair t r).map = { t.map with
    retired := if imgN r.body 0 1 = 255 then none else some (imgN r.body 0 1) } := by
  simp only [applyRepair, h, Nat.reduceEqDiff, if_false]

theorem applyRepair_slots_of_other (h : r.kind ≠ 1) : (applyRepair t r).slots = t.slots := by
  simp only [applyRepair, h, if_false]
  repeat' split
  all_goals rfl

theorem applyRepair_gens_of_other (h : r.kind ≠ 3) : (applyRepair t r).gens = t.gens := by
  simp only [applyRepair, h, if_false]
  repeat' split
  all_goals rfl

theorem applyRepair_map_of_other (h : r.kind = 1 ∨ r.kind = 2 ∨ r.kind = 3) : (applyRepair t r).map = t.map := by
  obtain h | h | h := h <;> simp [applyRepair, h]

/-- The spare map and the slots are those of kind 1. -/
theorem verifyLog_slots (s : State) : (verifyLog s).slots = (repaired s 1 (repairsReported s)).slots := by
  have other : ∀ k t, k ≠ 1 → (repaired s k t).slots = t.slots := fun k t hk =>
    repaired_keeps State.slots fun t r hr => applyRepair_slots_of_other (by rwa [hr])
  rw [verifyLog_eq]
  exact ((other 4 _ (by decide)).trans (other 3 _ (by decide))).trans (other 2 _ (by decide))

/-- The generations are those of kind 3. -/
theorem verifyLog_gens (s : State) : (verifyLog s).gens = (repaired s 3 (repaired s 2 (repaired s 1 (repairsReported s)))).gens := by
  rw [verifyLog_eq]
  exact repaired_keeps State.gens fun t r hr => applyRepair_gens_of_other (by rw [hr]; decide)

theorem repaired_before_gens (s : State) : (repaired s 2 (repaired s 1 (repairsReported s))).gens = s.gens := by
  have other : ∀ k t, k ≠ 3 → (repaired s k t).gens = t.gens := fun k t hk =>
    repaired_keeps State.gens fun t r hr => applyRepair_gens_of_other (by rwa [hr])
  rw [other 2 _ (by decide), other 1 _ (by decide), repairsReported_keeps State.gens fun t n v l => rfl]

/-- The retired die is that of kind 4, the last. -/
theorem verifyLog_map (s : State) :
    (verifyLog s).map = (repaired s 4 (repaired s 3 (repaired s 2 (repaired s 1 (repairsReported s))))).map := by
  rw [verifyLog_eq]
  rfl

theorem repaired_before_map (s : State) : (repaired s 3 (repaired s 2 (repaired s 1 (repairsReported s)))).map = s.map := by
  have other : ∀ k t, (k = 1 ∨ k = 2 ∨ k = 3) → (repaired s k t).map = t.map := fun k t hk =>
    repaired_keeps State.map fun t r hr => applyRepair_map_of_other (by rwa [hr])
  rw [other 3 _ (by decide), other 2 _ (by decide), other 1 _ (by decide), repairsReported_keeps State.map fun t n v l => rfl]

theorem repairsReported_slots (s : State) : (repairsReported s).slots = s.slots := repairsReported_keeps State.slots fun _ _ _ _ => rfl
end

/-! ### The statement -/

/-- Settles O55: standby power, the assertion and the release by what is held and strapped, the role, the repair log kind by kind, and
the watchdog. -/
theorem packageResetsKeepWhatTheyKeep : Obligations.PackageResetsKeepWhatTheyKeep := by
  intro s straps ed0 finds r boot lands released valid newest byte cold warm held
  refine ⟨execStandbyPowerOn_of_on, execStandbyPowerOn_of_off, rfl, ⟨rfl, rfl, rfl, rfl, rfl, rfl, rfl, rfl, rfl, rfl, rfl, rfl, rfl⟩,
    execPkgResetAssert_of_active, execPkgResetAssert_of_idle, ⟨rfl, rfl, rfl, rfl, rfl, rfl, rfl, rfl, rfl, rfl⟩,
    execPkgResetRelease_of_not_held, ?release, execRoleAnnounceTimeout_of_role, execRoleAnnounceTimeout_of_other,
    congrArg (fun t => t.boot.repairs) (verifyLog_eq s), ?noSlots, ?noGens, ?noMap, ?slots, ?gens, ?map, fun core => ⟨rfl, rfl⟩,
    execBootWatchdogReset_of_idle, execBootWatchdogReset_of_boot⟩
  case release =>
    intro hheld
    exact ⟨execPkgResetRelease_of_test hheld, fun hstrap =>
      ⟨execPkgResetRelease_of_announced hheld hstrap, execPkgResetRelease_of_silent hheld hstrap⟩⟩
  case noSlots =>
    intro h
    rw [verifyLog_slots, repaired_of_none h, repairsReported_slots]
  case noGens =>
    intro h
    rw [verifyLog_gens, repaired_of_none h, repaired_before_gens]
  case noMap =>
    intro h
    rw [verifyLog_map, repaired_of_none h, repaired_before_map]
  case slots =>
    intro h
    rw [verifyLog_slots, repaired_of_some h, applyRepair_slots (kind_of_newestValid h), repairsReported_slots]
  case gens =>
    intro h
    rw [verifyLog_gens, repaired_of_some h, applyRepair_gens (kind_of_newestValid h), repaired_before_gens]
  case map =>
    intro h
    rw [verifyLog_map, repaired_of_some h, applyRepair_map (kind_of_newestValid h), repaired_before_map]

end Sys2Proof.Machine
end

section
/-! Frames of the Relay units as they are received (R256, R275, R278, R279, R281 to R288, R384): the checks that each passes first,
then what a good frame of each type does. -/

namespace Sys2Proof.Machine

/-! ### The checks of every frame (R256, R278, R279, R384) -/

section
variable {s : State} {a : Arrival} {f : RFrame} {type : Nat} {work : State → State}

/-- A frame of a type has its port's generation and the form that R256, R278 and R279 ask for. -/
def FrameGood (s : State) (a : Arrival) (f : RFrame) (type : Nat) : Prop :=
  staleTag s 9 a.port a.gen = false ∧ frameBad s a f type = false

theorem frameGate_of_stale (h : staleTag s 9 a.port a.gen = true) : frameGate s a f type work = countStale s := if_pos h

theorem frameGate_of_bad (htag : staleTag s 9 a.port a.gen = false) (hbad : frameBad s a f type = true) :
    frameGate s a f type work = discardFrame s := by
  simp [frameGate, htag, hbad]

theorem frameGate_of_good (h : FrameGood s a f type) : frameGate s a f type work = work s := by
  obtain ⟨htag, hform⟩ := h
  simp [frameGate, htag, hform]

/-- The ten frame commands, each with its frame type (R279). -/
def frameCommands (a : Arrival) (f : RFrame) (now : Nat) : List (Nat × Instr) := [
  (0, .frameData a f), (1, .frameAck a f), (2, .frameNack a f now), (3, .frameCredit a f), (4, .frameOpen a f),
  (5, .frameOpenAck a f), (6, .frameOpenNack a f), (7, .frameClose a f), (8, .frameProbe a f), (9, .frameProbeAck a f)]

theorem frameCommands_gated (s : State) (a : Arrival) (f : RFrame) (now : Nat) :
    ∀ p ∈ frameCommands a f now, ∃ work, exec p.2 s = .next (frameGate s a f p.1 work) := by
  simp only [frameCommands, List.forall_mem_cons]
  exact ⟨⟨_, rfl⟩, ⟨_, rfl⟩, ⟨_, rfl⟩, ⟨_, rfl⟩, ⟨_, rfl⟩, ⟨_, rfl⟩, ⟨_, rfl⟩, ⟨_, rfl⟩, ⟨_, rfl⟩, ⟨_, rfl⟩, by simp⟩
end

/-! ### DATA (R281, R282, R284, R285, R288) -/

section
variable {s : State} {a : Arrival} {f : RFrame} {h : StepHdr} {k n : Nat}

theorem execFrameData_of_opened (hgood : FrameGood s a f 0) (hstep : f.step = some h) (hstream : frameStream s a f = true)
    (hcls : (strm s f.dst).cls = f.cls) (hst : (strm s f.dst).st = .opened) :
    execFrameData a f s = .next (recvData s f.dst f h) := by
  simp [execFrameData, frameGate_of_good hgood, hstep, hstream, hcls, hst, ok]

theorem recvData_of_digest (hdigest : digestFault s h = some n) : recvData s k f h = refuseDigest s k n h := by
  simp [recvData, hdigest]

/-- CUM once it has passed every PSN held (R282). -/
def cumPast (cum : Nat) (held : List Nat) : Nat := (List.range 257).foldl (fun c _ => if held.contains c then c + 1 else c) cum

theorem tookPsn_cum (r : StreamRx) (psn : Nat) : (tookPsn r psn).cum = cumPast r.cum (psn :: r.have_) := by
  rw [tookPsn, cumPast]

theorem tookPsn_have (r : StreamRx) (psn : Nat) :
    (tookPsn r psn).have_ = (psn :: r.have_).filter fun p => decide (cumPast r.cum (psn :: r.have_) ≤ p) := by
  rw [tookPsn, cumPast]

/-- The receiving side has seen the next frame of a path. -/
def pathSeen (s : State) (k : Nat) (f : RFrame) : State := modSrx s k fun y => { y with
  pathSeq := sset 0 y.pathSeq f.path (sget 0 (srx s k).pathSeq f.path + 1), tstamp := f.tstamp }

section
variable (hdigest : digestFault s h = none) (hseq : f.pathSeq = sget 0 (srx s k).pathSeq f.path)
include hdigest hseq

/-- A PSN that the receiver holds is acknowledged again and does not land. -/
theorem recvData_of_held (hheld : f.psn < (srx s k).cum ∨ (srx s k).have_.contains f.psn = true) :
    recvData s k f h = sendAck (pathSeen s k f) k := by
  simp only [recvData, hdigest, hseq, Nat.le_refl, if_true, Nat.max_eq_right (Nat.le_succ _), if_pos hheld]
  rfl

theorem recvData_of_window (hcum : (srx s k).cum ≤ f.psn) (hnew : (srx s k).have_.contains f.psn = false)
    (hwindow : f.psn < (srx s k).cum + 256) (hbody : f.body = .plain)
    (hmsg : msgClass (strm s k).cls = true → 0 < (srx s k).granted)
    (hpkt : msgClass (strm s k).cls = false → f.psn < (srx s k).limit) :
    recvData s k f h = ackDue (recordPsn (landFrame (seeHeader (pathSeen s k f) h) k f h.step) k f.psn) k := by
  have hfresh : ¬ (f.psn < (srx s k).cum ∨ (srx s k).have_.contains f.psn = true) := by simpa [hcum] using hnew
  have hcredit : (if msgClass (strm s k).cls then
      (!((srx s k).msgs.any fun m => m.id == f.msgId)) && (srx s k).granted == 0 && !f.retx
      else decide ((srx s k).limit ≤ f.psn)) = false := by
    cases hc : msgClass (strm s k).cls with
    | true => simp [Nat.ne_of_gt (hmsg hc)]
    | false => simpa using hpkt hc
  have hroom : decide ((srx s k).cum + 256 ≤ f.psn) = false := by simpa using hwindow
  simp only [recvData, hdigest, hseq, Nat.le_refl, if_true, Nat.max_eq_right (Nat.le_succ _), if_neg hfresh, hcredit,
    hroom, Bool.or_self, Bool.false_eq_true, if_false, hbody]
  rfl
end
end

/-! ### ACK, NACK and CREDIT (R281 to R285, R288) -/

section
variable {s : State} {a : Arrival} {f : RFrame} {k now cum map reason msgs : Nat} {limit : Option Nat} {done pairs : List (Nat × Nat)}

theorem execFrameAck_of_ack (hgood : FrameGood s a f 1) (hstream : frameStream s a f = true) (hbody : f.body = .ack cum map done) :
    execFrameAck a f s = .next (ackStream s f.dst cum map done (if a.ce then some f.path else none)) := by
  simp [execFrameAck, frameGate_of_good hgood, hstream, hbody, ok]

theorem execFrameNack_of_nack (hgood : FrameGood s a f 2) (hstream : frameStream s a f = true) (hbody : f.body = .nack reason pairs)
    (hreason : reason ≤ 4) (hpairs : pairs.length ≤ 16) :
    execFrameNack a f now s = .next (nackStream s f.dst reason pairs now) := by
  simp [execFrameNack, frameGate_of_good hgood, hstream, hbody, hreason, hpairs, ok]

/-- TEAM and DIGEST refusals put an open stream in MISMATCH. -/
theorem nackStream_of_mismatch (hreason : reason = 1 ∨ reason = 2) (hst : (strm s k).st = .opened) :
    nackStream s k reason pairs now = modStrm s k fun y => { y with st := .mismatch } := by
  obtain rfl | rfl := hreason <;> exact if_pos hst

theorem execFrameCredit_of_credit (hgood : FrameGood s a f 3) (hstream : frameStream s a f = true)
    (hbody : f.body = .credit limit msgs 0) : execFrameCredit a f s = .next (modStrm s f.dst fun y => { y with
      limit := max y.limit (limit.getD 0), msgCredits := y.msgCredits + msgs, demanded := if msgs = 0 then y.demanded else false }) := by
  simp [execFrameCredit, frameGate_of_good hgood, hstream, hbody, ok]
end

/-! ### OPEN, its answers, CLOSE and PROBE (R275, R277, R288) -/

section
variable {s : State} {a : Arrival} {f : RFrame} {h : StepHdr} {cls credits n w : Nat}

section
variable (hgood : FrameGood s a f 4) (hstep : f.step = some h) (hbody : f.body = .opening cls credits)
  (hfind : findStream s h.member cls = none)
include hgood hstep hbody hfind

theorem execFrameOpen_of_full (hfree : freeEntry s (a.port / 9) = none) : execFrameOpen a f s =
    .next (let t := emitOn s a.port 0 h.member { type := 6, cls := cls, dst := f.src, src := 0 }
      { t with rly := { t.rly with cnt := { t.rly.cnt with tableWaits := t.rly.cnt.tableWaits + 1 } } }) := by
  simp [execFrameOpen, frameGate_of_good hgood, hstep, hbody, hfind, hfree, ok]

/-- A free entry holds the stream that a peer opens. -/
def openedEntry (s : State) (f : RFrame) (h : StepHdr) (cls n : Nat) : State :=
  fillPaths (setSrx (setStrm s n { st := .opening, peer := h.member, cls := cls, peerEntry := f.src, lastUse := s.stamp }) n {}) n

/-- A stream of a class opens with the credits that the peer gives. -/
def credited (cls credits : Nat) (y : Stream) (e : Nat) : Stream := { y with
  st := .opened, peerEntry := e, limit := if msgClass cls then 0 else credits, msgCredits := if msgClass cls then credits else 0 }

section
variable (hfree : freeEntry s (a.port / 9) = some n)
include hfree

theorem execFrameOpen_of_digest (hdigest : digestFault s h = some w) :
    execFrameOpen a f s = .next (refuseDigest (openedEntry s f h cls n) n w h) := by
  simp [execFrameOpen, frameGate_of_good hgood, hstep, hbody, hfind, hfree, hdigest, openedEntry, ok]

theorem execFrameOpen_of_free (hdigest : digestFault s h = none) : execFrameOpen a f s =
    .next (let g := openCredits (modStrm (openedEntry s f h cls n) n fun y => credited cls credits y y.peerEntry) n
      emitCtl g.2 n 5 none (.opening cls g.1)) := by
  simp [execFrameOpen, frameGate_of_good hgood, hstep, hbody, hfind, hfree, hdigest, openedEntry, credited, ok]
end
end

theorem execFrameOpenAck_of_opening (hgood : FrameGood s a f 5) (hbody : f.body = .opening cls credits)
    (hst : (strm s f.dst).st = .opening) (hunit : unitOf f.dst = a.port / 9) : execFrameOpenAck a f s =
    .next (modStrm s f.dst fun y => { credited cls credits y f.src with retries := 0 }) := by
  simp [execFrameOpenAck, frameGate_of_good hgood, hbody, hst, hunit, credited, ok]

theorem execFrameOpenNack_of_opening (hgood : FrameGood s a f 6) (hst : (strm s f.dst).st = .opening)
    (hunit : unitOf f.dst = a.port / 9) : execFrameOpenNack a f s =
    .next (modStrm s f.dst fun y => { y with backoff := if y.backoff = 0 then 10 else min 1000 (2 * y.backoff) }) := by
  simp [execFrameOpenNack, frameGate_of_good hgood, hst, hunit, ok]

theorem execFrameClose_of_idle (hgood : FrameGood s a f 7) (hstream : frameStream s a f = true) (hidle : streamIdle s f.dst = true) :
    execFrameClose a f s = .next (retryWaiting (setSrx (setStrm (sendAck s f.dst) f.dst {}) f.dst {})) := by
  simp [execFrameClose, frameGate_of_good hgood, hstream, hidle, ok]

/-- A stream in MISMATCH is open again. -/
def mismatchEnded (s : State) (k : Nat) : State := modStrm s k fun y => { y with st := if y.st = .mismatch then .opened else y.st }

section
variable (hgood : FrameGood s a f 8) (hstream : frameStream s a f = true) (hstep : f.step = some h)
include hgood hstream hstep

theorem execFrameProbe_of_match (hdigest : digestFault s h = none) :
    execFrameProbe a f s = .next (emitCtl (mismatchEnded s f.dst) f.dst 9 none .plain) := by
  simp [execFrameProbe, frameGate_of_good hgood, hstream, hstep, hdigest, mismatchEnded, ok]

theorem execFrameProbe_of_digest (hdigest : digestFault s h = some w) :
    execFrameProbe a f s = .next (refuseDigest s f.dst w h) := by
  simp [execFrameProbe, frameGate_of_good hgood, hstream, hstep, hdigest, ok]
end

theorem execFrameProbeAck_of_stream (hgood : FrameGood s a f 9) (hstream : frameStream s a f = true) :
    execFrameProbeAck a f s = .next (mismatchEnded s f.dst) := by
  simp [execFrameProbeAck, frameGate_of_good hgood, hstream, mismatchEnded, ok]
end

/-! ### The statements -/

/-- Settles O35: the two checks of every type, DATA by its digest and PSN, then what ACK, NACK and CREDIT do at the sender. -/
theorem framesOfDataFlowAreGatedThenLand : Obligations.FramesOfDataFlowAreGatedThenLand := by
  intro s a f h now cum map reason msgs limit done pairs k good all r x e seen t l c named again
  refine ⟨?gates, ?data, execFrameAck_of_ack, ?nack, execFrameCredit_of_credit⟩
  case gates =>
    intro p hp
    obtain ⟨work, hwork⟩ := frameCommands_gated s a f now p hp
    rw [hwork]
    exact ⟨fun h => congrArg ok (frameGate_of_stale h), fun htag hbad => congrArg ok (frameGate_of_bad htag hbad)⟩
  case data =>
    intro hgood hstep hstream hcls hst
    have hdata : exec (.frameData a f) s = .next (recvData s k f h) := execFrameData_of_opened hgood hstep hstream hcls hst
    rw [hdata]
    refine ⟨fun n hdigest => congrArg ok (recvData_of_digest hdigest), fun hdigest hseq => ⟨?held, ?lands⟩⟩
    case held => exact fun hheld => congrArg ok (recvData_of_held hdigest hseq hheld)
    case lands =>
      intro hcum hnew hwindow hbody hmsg hpkt
      exact ⟨congrArg ok (recvData_of_window hdigest hseq hcum hnew hwindow hbody hmsg hpkt), tookPsn_cum r f.psn,
        tookPsn_have r f.psn⟩
  case nack =>
    intro hgood hstream hbody hreason hpairs
    have hnack : exec (.frameNack a f now) s = .next (nackStream s k reason pairs now) :=
      execFrameNack_of_nack hgood hstream hbody hreason hpairs
    rw [hnack]
    refine ⟨rfl, ?credit, ?loss, fun hreason hst => congrArg ok (nackStream_of_mismatch hreason hst)⟩
    case credit => rintro rfl; rfl
    case loss => rintro rfl; rfl

/-- Settles O36: OPEN by the table and the digest, its two answers, CLOSE of an idle stream, PROBE by the digest, and PROBE_ACK. -/
theorem streamsOpenCloseAndProbe : Obligations.StreamsOpenCloseAndProbe := by
  intro s a f h cls credits k good sane credit
  refine ⟨?opens, execFrameOpenAck_of_opening, execFrameOpenNack_of_opening, execFrameClose_of_idle, ?probe,
    execFrameProbeAck_of_stream⟩
  case opens =>
    intro hgood hstep hbody hfind
    refine ⟨execFrameOpen_of_full hgood hstep hbody hfind, ?free⟩
    case free =>
      intro n hfree t
      exact ⟨fun w => execFrameOpen_of_digest hgood hstep hbody hfind hfree, execFrameOpen_of_free hgood hstep hbody hfind hfree⟩
  case probe =>
    intro hgood hstream hstep
    exact ⟨execFrameProbe_of_match hgood hstream hstep, fun w => execFrameProbe_of_digest hgood hstream hstep⟩

end Sys2Proof.Machine
end

section
/-! Packets, timers and ports of the Relay units (R253, R254, R275, R276, R282 to R285, R288, R295): what a stream sends, what its
timers do, and how a port comes up, spares a lane or goes down. -/

namespace Sys2Proof.Machine

/-! ### A peer marked LOST (R276, R295) -/

section
variable {s t : State} {k : Nat}

theorem lostFirst_of_present (h : memberLost s (strm s k).peer = false) : lostFirst s k t = t := by
  simp [lostFirst, h]

theorem lostFirst_of_lost (hclosed : (strm s k).st ≠ .closed) (hfailed : (strm s k).st ≠ .failed)
    (hpeer : (strm s k).peer ≠ selfNo s) (hlost : memberLost s (strm s k).peer = true) : lostFirst s k t = failStream s k :=
  if_pos ⟨hclosed, hfailed, hpeer, hlost⟩
end

/-! ### Packets (R282 to R285) -/

section
variable {s : State} {k off len n i : Nat} {m : TxMsg} {q : Path}
variable (hst : (strm s k).st = .opened) (hnext : nextPkt s (strm s k) = some (m, off, len, n, none))
include hst hnext

/-- With 256 packets unacknowledged, or no packet credit, nothing is sent. -/
theorem execPacketTransmit_of_full (h : 256 ≤ (strm s k).unacked.length ∨
    (msgClass (strm s k).cls = false ∧ (strm s k).limit ≤ n)) : execPacketTransmit k s = .next (lostFirst s k s) := by
  have hfull : (decide (256 ≤ (strm s k).unacked.length) ||
      (!msgClass (strm s k).cls && decide ((strm s k).limit ≤ n))) = true := by simpa using h
  simp only [execPacketTransmit, hst, hnext, hfull]
  rfl

theorem execPacketTransmit_of_demand (hroom : (strm s k).unacked.length < 256) (hcls : msgClass (strm s k).cls = true)
    (hfresh : m.started = false) (hcredit : (strm s k).msgCredits = 0) (hdemand : (strm s k).demanded = false) :
    execPacketTransmit k s = .next (lostFirst s k (emitCtl (modStrm s k fun y => { y with demanded := true }) k 3 none
      (.credit none 0 ((strm s k).tx.filter fun y => !y.started).length))) := by
  simp [execPacketTransmit, hst, hnext, Nat.not_le.mpr hroom, hcls, hfresh, hcredit, hdemand, ok]

/-- A packet that goes on a path for the first time. -/
def firstPkt (s : State) (q : Path) (m : TxMsg) (off len n i : Nat) : Pkt := {
  psn := n, path := i, pathSeq := q.nextSeq, msgId := m.id, off := off, len := len, resend := false, rto := od s 0x6036 1 }

/-- The stream once the next packet has gone on a path. -/
def pktSent (s : State) (k : Nat) (q : Path) (m : TxMsg) (off len n i : Nat) : State :=
  setStrm { s with stamp := s.stamp + 1 } k { strm s k with
    paths := sset none (strm s k).paths i (some { q with nextSeq := q.nextSeq + 1 }),
    unacked := ((strm s k).unacked.filter fun y => y.psn != n) ++ [firstPkt s q m off len n i],
    nextPsn := (strm s k).nextPsn + 1, lastUse := s.stamp,
    tx := (strm s k).tx.map fun y => if y.id = m.id then { y with started := true, sent := off + len } else y }

/-- The DATA frame of a packet that goes on a path for the first time. -/
def pktFrame (s : State) (k : Nat) (q : Path) (m : TxMsg) (off len n i : Nat) : RFrame :=
  let d := (m.data.drop off).take len
  { type := 0, cls := (strm s k).cls, first := off == 0, last := decide (m.data.length ≤ off + len), dst := (strm s k).peerEntry,
    src := k, path := i, tcls := m.tcls, psn := n, pathSeq := q.nextSeq, msgId := m.id, msgOff := off,
    tstamp := s.ost.time % 2 ^ 32, step := some (stepHdr s m.step), pmask := poisonMask d, payload := d.map Prod.fst,
    body := m.body }

theorem execPacketTransmit_of_path (hroom : (strm s k).unacked.length < 256) (hcls : msgClass (strm s k).cls = false)
    (hcredit : n < (strm s k).limit) (hpeer : (strm s k).peer ≠ selfNo s) (hbest : bestPath (strm s k) none = some i)
    (hpath : pathOf (strm s k) i = some q) : execPacketTransmit k s = .next (lostFirst s k
      (emitOn (pktSent s k q m off len n i) q.port q.entropy (strm s k).peer (pktFrame s k q m off len n i))) := by
  have hother : ((strm s k).peer == selfNo s) = false := beq_false_of_ne hpeer
  simp [execPacketTransmit, hst, hnext, hcls, Nat.not_le.mpr hroom, Nat.not_le.mpr hcredit, hother, hbest, hpath, modPath,
    pktSent, firstPkt, pktFrame, ok]
end

/-! ### Timers (R275, R276, R282, R284, R288) -/

section
variable {s : State} {k psn now : Nat} {p : Pkt}

section
variable (h : (strm s k).unacked.find? (fun y => y.psn == psn) = some p)
include h

theorem execRetransmitTimeout_of_eighth (hlast : 7 ≤ (strm s k).expiries) :
    execRetransmitTimeout k psn now s = .next (lostFirst s k (failStream s k)) := by
  simp [execRetransmitTimeout, h, hlast, ok]

theorem execRetransmitTimeout_of_again (hmore : (strm s k).expiries < 7) : execRetransmitTimeout k psn now s =
    .next (lostFirst s k (pathLoss (modStrm s k fun y => { y with
      expiries := y.expiries + 1, unacked := y.unacked.map fun w =>
        if w.psn = psn then { w with resend := true, rto := min 6400000 (2 * w.rto) } else w }) k p.path now)) := by
  simp [execRetransmitTimeout, h, Nat.not_le.mpr hmore, ok]
end

theorem execOpenRetryTimer_of_last (hst : (strm s k).st = .opening) (hlast : 8 ≤ (strm s k).retries) :
    execOpenRetryTimer k s = .next (lostFirst s k (failStream s k)) := by
  simp [execOpenRetryTimer, hst, hlast, ok]

theorem execOpenRetryTimer_of_again (hst : (strm s k).st = .opening) (hmore : (strm s k).retries < 8) : execOpenRetryTimer k s =
    .next (lostFirst s k (sendOpen (modStrm s k fun y => { y with retries := y.retries + 1 }) k)) := by
  simp [execOpenRetryTimer, hst, Nat.not_le.mpr hmore, ok]

theorem execNoPathTimeout_of_down (hclosed : (strm s k).st ≠ .closed) (hfailed : (strm s k).st ≠ .failed)
    (hpeer : (strm s k).peer ≠ selfNo s) (hports : upPorts s (unitOf k) = []) :
    execNoPathTimeout k s = .next (failStream s k) := by
  simp [execNoPathTimeout, hclosed, hfailed, hpeer, hports, ok]

theorem execAckTimer_of_arrived (h : (srx s k).sinceAck ≠ 0) :
    execAckTimer k s = .next (lostFirst s k (giveCredit (sendAck s k) k)) := by
  simp [execAckTimer, h, ok]

theorem execProbeTimer_of_mismatch (h : (strm s k).st = .mismatch) :
    execProbeTimer k s = .next (lostFirst s k (emitCtl s k 8 (some (stepHdr s (curStep s))) .plain)) := by
  simp [execProbeTimer, h, ok]
end

/-! ### Ports (R253, R254) -/

section
variable {s : State} {port mac lane : Nat}

/-- A port as the state holds it. -/
def relayPort (s : State) (port : Nat) : Port := sget {} s.rly.ports port

/-- A port is up in the mode selected for it. -/
def portRaised (s : State) (port mac : Nat) : State := modPort s port fun q => { q with
  up := true, mode := od s 0x6031 (port + 1), sparing := false,
  peerMac := if od s 0x6031 (port + 1) = 2 then BitVec.ofNat 64 mac else q.peerMac }

theorem execPortLinkUp_of_mode (hup : (relayPort s port).up = false) (hmode : od s 0x6031 (port + 1) ≠ 0) (hpow : powered s = true)
    (hsound : sget false s.contain.retired (9 * 4096 + port) = false) : execPortLinkUp ⟨port, mac⟩ s =
    .next ((((portRaised s port mac).rly.streams.filter fun e =>
      unitOf e.1 == port / 9 && e.2.st != .failed && e.2.peer != selfNo (portRaised s port mac)).map Prod.fst).foldl fillPaths
        (portRaised s port mac)) := by
  have hgo : ¬ ((sget {} s.rly.ports port).up = true ∨ od s 0x6031 (port + 1) = 0 ∨ (!powered s) = true ∨
      sget false s.contain.retired (9 * 4096 + port) = true) := by
    simp only [hmode, hpow, hsound, Bool.not_true, Bool.false_eq_true, or_false]
    exact Bool.eq_false_iff.mp hup
  exact congrArg ok (if_neg hgo)

/-- Some PCS lane of a port is on a physical lane. -/
def laneUsed (s : State) (port lane : Nat) : Bool := (List.range 8).any fun j => laneOf (relayPort s port).laneMap j == lane

/-- A lane of a port has failed. -/
def laneFailed (s : State) (port lane : Nat) : State := modPort s port fun q => { q with failed := setBit q.failed lane }

theorem execLaneFailure_eq (s : State) (port lane : Nat) : execLaneFailure port lane s = .next (
    if (!(relayPort s port).up) = true ∨ 8 < lane ∨ bitAt (relayPort s port).failed lane = true then s
    else if (!laneUsed s port lane) = true then laneFailed s port lane
    else if (relayPort s port).mode = 2 ∧ (!(relayPort s port).sparing) = true ∧
        (!bitAt (relayPort s port).failed (spareLane (relayPort s port).laneMap)) = true ∧
        spareLane (relayPort s port).laneMap = 8 then
      note (modPort (laneFailed s port lane) port fun q => { q with sparing := true }) 6 5 2 9 port [BitVec.ofNat 64 lane]
    else note (unitEvent (raiseGen (portDown (laneFailed s port lane) port) 9 port) 9 port) 6 6 4 9 port
      [BitVec.ofNat 64 lane]) := rfl

section
variable (hup : (relayPort s port).up = true) (hlane : lane ≤ 8) (hnew : bitAt (relayPort s port).failed lane = false)
include hup hlane hnew

/-- A lane not in use only leaves the port without a spare. -/
theorem execLaneFailure_of_unused (hused : laneUsed s port lane = false) :
    execLaneFailure port lane s = .next (laneFailed s port lane) := by
  simp [execLaneFailure_eq, hup, Nat.not_lt.mpr hlane, hnew, hused]

section
variable (hused : laneUsed s port lane = true)
include hused

theorem execLaneFailure_of_spare (hmode : (relayPort s port).mode = 2) (hidle : (relayPort s port).sparing = false)
    (hspare : spareLane (relayPort s port).laneMap = 8) (hsound : bitAt (relayPort s port).failed 8 = false) :
    execLaneFailure port lane s = .next (note (modPort (laneFailed s port lane) port fun q => { q with sparing := true })
      6 5 2 9 port [BitVec.ofNat 64 lane]) := by
  simp [execLaneFailure_eq, hup, Nat.not_lt.mpr hlane, hnew, hused, hmode, hidle, hspare, hsound]

theorem execLaneFailure_of_no_spare (hbad : (relayPort s port).mode ≠ 2 ∨ (relayPort s port).sparing = true ∨
    spareLane (relayPort s port).laneMap ≠ 8 ∨ bitAt (relayPort s port).failed 8 = true) :
    execLaneFailure port lane s = .next (note (unitEvent (raiseGen (portDown (laneFailed s port lane) port) 9 port) 9 port)
      6 6 4 9 port [BitVec.ofNat 64 lane]) := by
  have hnone : ¬ ((relayPort s port).mode = 2 ∧ (!(relayPort s port).sparing) = true ∧
      (!bitAt (relayPort s port).failed (spareLane (relayPort s port).laneMap)) = true ∧
      spareLane (relayPort s port).laneMap = 8) := by
    rintro ⟨hmode, hidle, hsound, hspare⟩
    rw [hspare] at hsound
    simp_all
  simp only [execLaneFailure_eq, hup, Nat.not_lt.mpr hlane, hnew, hused, if_neg hnone, Bool.not_true, Bool.false_eq_true, or_self,
    if_false]
end
end

/-- The PCS lanes on failed physical lanes are on L8. -/
def sparedMap (s : State) (port : Nat) : Nat := (List.range 8).foldl (fun w j =>
  w + (if bitAt (relayPort s port).failed (laneOf (relayPort s port).laneMap j) then 8
    else laneOf (relayPort s port).laneMap j) * 16 ^ j) 0

theorem execLaneSpareComplete_of_sparing (h : (relayPort s port).sparing = true) : execLaneSpareComplete port s =
    .next (note (repairDue (modPort s port fun q => { q with
      sparing := false, spareUsed := true, laneMap := BitVec.ofNat 32 (sparedMap s port) }) 2) 6 7 1 9 port
        [BitVec.ofNat 64 (sparedMap s port)]) := by
  unfold relayPort at h
  simp only [execLaneSpareComplete, h, sparedMap, relayPort, Bool.not_true, Bool.false_eq_true, if_false]
  rfl
end

/-! ### The statement -/

/-- Settles O37: what a stream sends, what each timer does, how a port comes up, and a lane's failure by its use and the spare. -/
theorem relayTimersPortsAndPackets : Obligations.RelayTimersPortsAndPackets := by
  intro s k psn now port mac lane off len n m p x pt failed go used moved
  refine ⟨?packets, fun hlost t => lostFirst_of_present hlost,
    fun hclosed hfailed hpeer hlost t => lostFirst_of_lost hclosed hfailed hpeer hlost, ?retransmit, ?retry,
    execNoPathTimeout_of_down, execAckTimer_of_arrived, execProbeTimer_of_mismatch, execPortLinkUp_of_mode, ?lanes,
    execLaneSpareComplete_of_sparing⟩
  case packets =>
    intro hst hnext
    exact ⟨execPacketTransmit_of_full hst hnext, execPacketTransmit_of_demand hst hnext,
      fun i q => execPacketTransmit_of_path hst hnext⟩
  case retransmit =>
    intro h
    exact ⟨execRetransmitTimeout_of_eighth h, execRetransmitTimeout_of_again h⟩
  case retry =>
    intro hst
    exact ⟨execOpenRetryTimer_of_last hst, execOpenRetryTimer_of_again hst⟩
  case lanes =>
    intro hup hlane hnew
    exact ⟨execLaneFailure_of_unused hup hlane hnew, execLaneFailure_of_spare hup hlane hnew,
      execLaneFailure_of_no_spare hup hlane hnew⟩

end Sys2Proof.Machine
end

section
/-! Steps and streams as they end (R277, R288, R290, R293, R294, R296, R305, R306, R308, R394, R417, R497): the step's deadline and
close record, a fault of a Relay unit, and the dictionary's stream objects. -/

namespace Sys2Proof.Machine

/-! ### The deadline (R277, R288, R290, R394) -/

section
variable {s : State} {step : Nat}

theorem execStepDeadline_of_idle (h : (stepOf s step).timer = false ∨ (stepOf s step).expired = true) :
    execStepDeadline step s = .next s :=
  congrArg ok (if_pos (by simpa using h))

/-- The deadline of a step has passed. -/
def stepExpired (s : State) (step : Nat) : State := modStep s step fun y => { y with expired := true }

/-- The TEAM regions of an expired step are closed. -/
def regionsShut (s : State) (step : Nat) : State :=
  (teamRegions (stepExpired s step) step).foldl (fun t r => cmbClose t r.1 r.2.1) (stepExpired s step)

/-- What waits for a stream in MISMATCH or for an entry has ended. -/
def waitersEnded (s : State) (step : Nat) : State := endWaiting (endMismatch (regionsShut s step) step) step

/-- A bundle of a combine waits on a stream in MISMATCH (R288). -/
def combStuck (s : State) (c : GComb) : Bool := c.bundles.any fun b => match findStream s b.member 0 with
  | some k => (strm s k).st == .mismatch && (strm s k).tx.any fun m => m.bundle == some (c.id, b.num)
  | none => false

/-- A bundle of a combine waits for a stream entry (R277). -/
def combWaiting (s : State) (c : GComb) : Bool :=
  s.rly.waiting.any fun w => match w.2.2.bundle with | some b => b.1 == c.id | none => false

/-- A combine of a step, of those that the closed regions leave, has a property. -/
def combNamed (s : State) (step : Nat) (f : GComb → Bool) (c : GComb) : Bool :=
  (((regionsShut s step).rly.combs.filter fun d => d.step == step && f d).map GComb.id).contains c.id

/-- A combine completes at the deadline with what has arrived (R270, R290). -/
def combFinished (s : State) (step : Nat) (t : State) (c : GComb) : State :=
  let u := (List.range c.n).foldl (fun u r => match combOf u c.id with
    | some d => if bitAt (recStatus d r) 14 then u
        else formRecord u c.id r (bits (recStatus d r) 3 0 != bits (recStatus d r) 7 4)
    | none => u) t
  endComb u c.id (if combNamed s step (combStuck s) c then 4
    else if combNamed s step (combWaiting (regionsShut s step)) c then 6 else 0)

section
variable (htimer : (stepOf s step).timer = true) (hexp : (stepOf s step).expired = false)
include htimer hexp

theorem execStepDeadline_of_replay (h : replaying s = true) : execStepDeadline step s = .next (stepExpired s step) := by
  simp [execStepDeadline, htimer, hexp, h, stepExpired, ok]

theorem execStepDeadline_of_live (h : replaying s = false) : execStepDeadline step s =
    .next (((waitersEnded s step).rly.combs.filter fun c => c.step == step).foldl (combFinished s step) (waitersEnded s step)) := by
  simp only [execStepDeadline, htimer, hexp, h, Bool.not_true, Bool.or_self, Bool.false_eq_true, if_false]
  rfl
end
end

/-! ### The close record (R293, R305, R308) -/

section
variable {s : State} {step : Nat}

/-- A closed step keeps one item for each TEAM region. -/
def regionItems (s : State) (step : Nat) : List JItem := (teamRegions s step).map fun r =>
  .regionClose r.1 r.2.1 r.2.2.epoch r.2.2.done r.2.2.forced r.2.2.ordered r.2.2.lateCount

/-- A step is closed with the blocks it touched and, outside replay, its decisions. -/
def stepClosed (s : State) (step : Nat) : State := modStep s step fun y => { y with
  closed := true, touched := touchedBlocks s step, items := if replaying s then y.items else y.items ++ regionItems s step }

theorem execStepCloseRecord_of_ready (htimer : (stepOf s step).timer = true) (hclosed : (stepOf s step).closed = false)
    (hregions : ((teamRegions s step).any fun r => cmbBusy r.2.2) = false)
    (hcombs : (s.rly.combs.any fun c => c.step == step) = false) (hrec : (stepOf (stepClosed s step) step).recorded = none) :
    execStepCloseRecord step s = .next
      (if allReported (stepClosed s step) step then sendReport (stepClosed s step) step false else stepClosed s step) := by
  unfold stepClosed regionItems at hrec ⊢
  simp only [execStepCloseRecord, htimer, hclosed, hregions, hcombs, hrec, Bool.not_true, Bool.or_self, Bool.false_eq_true, if_false]
  rfl
end

/-! ### A fault of a Relay unit (R294, R306) -/

/-- Every stream of a unit is reset after its partly received buffers have ended. -/
def unitReset (s : State) (unit : Nat) : State :=
  ((s.rly.streams.filter fun e => unitOf e.1 == unit).map Prod.fst).foldl (fun t k => resetStream (abandonRx t k) k) s

/-- The unit is out of service, the list goes to unit 1 when unit 0 fails, and the record's severity is that of a first or a later
fault. -/
theorem execRelayUnitFault_eq (s : State) (unit : Nat) : execRelayUnitFault unit s =
    .next (let t := unitReset s unit
      note { t with
        rly := { t.rly with faulted := setBit t.rly.faulted unit, outOfService := setBit t.rly.outOfService unit }
        team := { t.team with writer := if unit = 0 then 1 else t.team.writer } }
        6 9 (if bitAt s.rly.faulted unit then 5 else 4) 6 unit []) := rfl

/-! ### Selections and releases of streams (R296, R417, R497) -/

section
variable {s : State} {reader k : Nat} {data : List Byte}

theorem execStreamQuerySelect_of_length (h : data.length ≠ 64) :
    execStreamQuerySelect reader data s = .next (abortWith s 0x00030001) := by
  simp [execStreamQuerySelect, writeStreamQuery, h, aTYPELEN, ok]

theorem execStreamQuerySelect_of_range (hlen : data.length = 64) (h : 2 ^ 14 ≤ leNat data) :
    execStreamQuerySelect reader data s = .next (abortWith s 0x00030002) := by
  simp only [execStreamQuerySelect, writeStreamQuery, hlen, h, ne_eq, not_true_eq_false, if_false, if_true]
  rfl

theorem execStreamQuerySelect_of_number (hlen : data.length = 64) (h : leNat data < 2 ^ 14) :
    execStreamQuerySelect reader data s = .next (abortWith (setSel s reader 0x6040 1 data) 0) := by
  simp only [execStreamQuerySelect, writeStreamQuery, hlen, Nat.not_le.mpr h, ne_eq, not_true_eq_false, if_false]
  rfl

theorem execStreamClose_of_range (h : 2 ^ 14 ≤ k) : execStreamClose k s = .next (abortWith s 0x00030002) := by
  simp only [execStreamClose, writeStreamClose, if_pos h]
  rfl

/-- Only an open stream is idle. -/
theorem st_of_streamIdle (h : streamIdle s k = true) : (strm s k).st = .opened := by
  simp only [streamIdle, Bool.and_eq_true, beq_iff_eq] at h
  obtain ⟨⟨⟨hst, -⟩, -⟩, -⟩ := h
  exact hst

section
variable (hk : k < 2 ^ 14)
include hk

theorem execStreamClose_of_failed (h : (strm s k).st = .failed) : execStreamClose k s =
    .next (abortWith (retryWaiting (setSrx (setStrm s k {}) k {})) 0) := by
  simp only [execStreamClose, writeStreamClose, if_neg (Nat.not_le.mpr hk), if_pos h]
  rfl

theorem execStreamClose_of_idle (hidle : streamIdle s k = true) (hpeer : (strm s k).peer ≠ selfNo s) : execStreamClose k s =
    .next (abortWith (modStrm (emitCtl s k 7 none .plain) k fun y => { y with st := .closing }) 0) := by
  have hst : (strm s k).st ≠ .failed := by simp [st_of_streamIdle hidle]
  simp only [execStreamClose, writeStreamClose, if_neg (Nat.not_le.mpr hk), if_neg hst, if_pos hidle, if_neg hpeer]
  rfl

theorem execStreamClose_of_busy (hst : (strm s k).st ≠ .failed) (hbusy : streamIdle s k = false) :
    execStreamClose k s = .next (abortWith s 0x00030003) := by
  simp only [execStreamClose, writeStreamClose, if_neg (Nat.not_le.mpr hk), if_neg hst, hbusy, Bool.false_eq_true, if_false]
  rfl
end
end

/-! ### The statement -/

/-- Settles O38: the deadline by the step's timer and replay, the close record, the unit fault, and each access to a stream object. -/
theorem stepsCloseAndStreamsAreReleased : Obligations.StepsCloseAndStreamsAreReleased := by
  intro s step unit reader k data x expired regions closed abort freed shut rid stuck full named finish
  refine ⟨execStepDeadline_of_idle, ?deadline, execStepCloseRecord_of_ready, execRelayUnitFault_eq s unit,
    execStreamQuerySelect_of_length, execStreamQuerySelect_of_range, execStreamQuerySelect_of_number, execStreamClose_of_range, ?close⟩
  case deadline =>
    intro htimer hexp
    exact ⟨execStepDeadline_of_replay htimer hexp, execStepDeadline_of_live htimer hexp⟩
  case close =>
    intro hk
    exact ⟨execStreamClose_of_failed hk, execStreamClose_of_idle hk, execStreamClose_of_busy hk⟩

end Sys2Proof.Machine
end

section
/-! The verdict tree and lent memory (R306, R308 to R310, R318, R323): how reports gather, what the root's verdict does to the loss
scale, what adopting it leaves, and when lent memory is served. -/

namespace Sys2Proof.Machine

/-! ### Reports (R308) -/

section
variable {s : State} {member step : Nat} {halve inc missing : Bool}

/-- A report of a child is kept. -/
def reportKept (s : State) (member step : Nat) (halve inc : Bool) : State :=
  modStep s step fun y => { y with reports := y.reports ++ [(member, halve, inc)] }

theorem execVerdictReport_of_stray (h : (childrenOf s).contains member = false ∨
    ((stepOf s step).reports.any fun r => r.1 == member) = true) : execVerdictReport member step halve inc s = .next s :=
  congrArg ok (if_pos (h.imp_left fun hchild => by rw [hchild]; rfl))

theorem execVerdictReport_of_child (hchild : (childrenOf s).contains member = true)
    (hnew : ((stepOf s step).reports.any fun r => r.1 == member) = false) : execVerdictReport member step halve inc s =
    .next (if (stepOf (reportKept s member step halve inc) step).closed && allReported (reportKept s member step halve inc) step
      then sendReport (reportKept s member step halve inc) step false else reportKept s member step halve inc) :=
  congrArg ok (if_neg (by rw [hchild, hnew]; simp))

theorem execVerdictWaitExpiry_of_closed (hclosed : (stepOf s step).closed = true) (hrep : (stepOf s step).reported = false) :
    execVerdictWaitExpiry step s = .next (sendReport s step true) := by
  simp [execVerdictWaitExpiry, hclosed, hrep, ok]

/-- The member, or a member below it, asks for HALVE. -/
def halveAsked (s : State) (step : Nat) : Bool := (stepOf s step).halve || (stepOf s step).reports.any fun r => r.2.1

/-- Some report below the member is missing or incomplete. -/
def reportsShort (s : State) (step : Nat) (missing : Bool) : Bool := missing || (stepOf s step).reports.any fun r => r.2.2

/-- The member's report of a step is out. -/
def stepReported (s : State) (step : Nat) : State := modStep s step fun y => { y with reported := true }

theorem sendReport_of_root (hrep : (stepOf s step).reported = false) (hroot : selfNo s = rootMember s) :
    sendReport s step missing = adoptVerdict (stepReported s step) step
      (formVerdict (stepReported s step) (halveAsked s step) (reportsShort s step missing)) := by
  simp only [sendReport, hrep, if_pos hroot, Bool.false_eq_true, if_false]
  rfl

theorem sendReport_reportsOut_of_member (hrep : (stepOf s step).reported = false) (hroot : selfNo s ≠ rootMember s) :
    (sendReport s step missing).team.reportsOut = s.team.reportsOut ++
      [(parentOf s 5 (selfNo s), step, halveAsked s step, reportsShort s step missing)] := by
  simp only [sendReport, hrep, if_neg hroot, Bool.false_eq_true, if_false]
  rfl
end

/-! ### The verdict that the root forms (R309, R310) -/

section
variable {s : State} {halve inc : Bool}

theorem formVerdict_of_halve (h : halve = true ∨ inc = true) : formVerdict s halve inc =
    { halve := true, incomplete := inc, lsNext := max (s.team.lsExp - 1) (-24), clean := 0 } :=
  if_pos (by simpa using h)

theorem formVerdict_of_grown (h : od s 0x8020 3 ≤ s.team.clean + 1) : formVerdict s false false =
    { halve := false, incomplete := false, lsNext := min (s.team.lsExp + 1) 32, clean := 0 } := by
  simp [formVerdict, h]

theorem formVerdict_of_clean (h : s.team.clean + 1 < od s 0x8020 3) : formVerdict s false false =
    { halve := false, incomplete := false, lsNext := s.team.lsExp, clean := s.team.clean + 1 } := by
  simp [formVerdict, Nat.not_le.mpr h]
end

/-! ### A verdict adopted (R306, R308 to R310, R318) -/

section
variable {s : State} {step : Nat} {v : Verdict}

theorem adoptVerdict_of_second (h : (stepOf s step).verdict.isSome = true) : adoptVerdict s step v = s := if_pos h

/-- The late contributions of a step that a verdict of HALVE drops. -/
def lateDropped (s : State) (step : Nat) (halve : Bool) : List RelayHeld :=
  if halve then s.cmb.relayHeld.filter fun r => r.late && r.epoch == step else []

/-- The late contributions that a verdict drops are gone, each with its note. -/
def lateCleared (s : State) (step : Nat) (halve : Bool) : State :=
  (lateDropped s step halve).foldl (fun t r => noteLate t r 4)
    { s with cmb := { s.cmb with relayHeld := s.cmb.relayHeld.filter fun r => !(lateDropped s step halve).contains r } }

/-- The journal holds the step with its verdict. -/
def verdictWritten (s : State) (step : Nat) (v : Verdict) : State :=
  writeJournal (modStep (lateCleared s step v.halve) step fun y => { y with verdict := some v }) step

/-- The loss scale and the clean count are the verdict's, and the children have it. -/
def verdictAdopted (s : State) (step : Nat) (v : Verdict) : State :=
  let t := verdictWritten s step v
  { t with team := { t.team with
    lsExp := v.lsNext, clean := v.clean, verdictsOut := t.team.verdictsOut ++ (childrenOf s).map fun m => (m, step, v),
    halvings := if v.halve then t.team.halvings + 1 else t.team.halvings } }

theorem adoptVerdict_of_first (h : (stepOf s step).verdict = none) : adoptVerdict s step v =
    if (stepOf s step).skipped then verdictAdopted s step v else releaseList (verdictAdopted s step v) step :=
  if_neg (by simp [h])
end

/-! ### Lent memory (R323) -/

section
variable {s : State} {member off len : Nat} {data : List (Byte × Bool)}

/-- A lend request is served: memory is lent to the member, and the bytes are inside the window. -/
structure LendOpen (s : State) (member off len : Nat) : Prop where
  lending : s.team.lending = true
  borrower : od s 0x8040 3 = member
  inside : off + len ≤ od s 0x8040 2

section
variable (h : LendOpen s member off len)
include h

theorem execLendReadRequest_of_open : execLendReadRequest member off len s = .next (queueMsg s member 4
    { id := 0, op := none, tcls := 0, step := curStep s, data := physRead s (od s 0x8040 1 + off) len, body := .plain,
      bundle := none }) := by
  simp [execLendReadRequest, serveLend, h.lending, h.borrower, Nat.not_lt.mpr h.inside, ok]

theorem execLendWriteRequest_of_present (hlen : data.length = len)
    (hmem : (physRange s.map (od s 0x8040 1 + off) len).isSome = true) :
    execLendWriteRequest member off data s = .next (physPut s (od s 0x8040 1 + off) data) := by
  simp [execLendWriteRequest, serveLend, hlen, h.lending, h.borrower, Nat.not_lt.mpr h.inside, hmem,
    List.take_of_length_le (Nat.le_of_eq hlen), ok]

theorem execLendWriteRequest_of_absent (hlen : data.length = len) (hmem : physRange s.map (od s 0x8040 1 + off) len = none) :
    execLendWriteRequest member off data s = .next (refuseLend s member) := by
  simp [execLendWriteRequest, serveLend, hlen, h.lending, h.borrower, Nat.not_lt.mpr h.inside, hmem, ok]
end

/-- Outside the window, and for a member that is not the borrower, nothing is served and nothing changes. -/
theorem serveLend_of_shut {op : Nat} (h : s.team.lending = false ∨ od s 0x8040 3 ≠ member ∨ od s 0x8040 2 < off + len) :
    serveLend s member op off len data = (false, s) :=
  if_pos (by simpa [or_assoc] using h)

section
variable (h : s.team.lending = false ∨ od s 0x8040 3 ≠ member ∨ od s 0x8040 2 < off + len)
include h

theorem execLendReadRequest_of_shut : execLendReadRequest member off len s = .next (refuseLend s member) := by
  simp [execLendReadRequest, serveLend_of_shut h, ok]

theorem execLendWriteRequest_of_shut (hlen : data.length = len) :
    execLendWriteRequest member off data s = .next (refuseLend s member) := by
  simp [execLendWriteRequest, hlen, serveLend_of_shut h, ok]
end
end

section
variable {s : State} {n v : Nat}

/-- lend_enable holds a value. -/
def lendPut (s : State) (v : Nat) : State := putNow s (okey 0x8040 4) (leBytes 1 v)

theorem execLendEnableWrite_of_range (h : 1 < v) : execLendEnableWrite v s = .next (abortWith s 0x00030002) :=
  congrArg ok (if_pos h)

theorem execLendEnableWrite_of_grant (h : v = 1) : execLendEnableWrite v s = .next (abortWith
    { lendPut s v with team := { (lendPut s v).team with lending := true, notice := none } } 0) := by
  subst h
  rfl

theorem execLendEnableWrite_of_notice (h : v = 0) (hlend : s.team.lending = true) (hnone : s.team.notice = none) :
    execLendEnableWrite v s = .next (abortWith
      { lendPut s v with team := { (lendPut s v).team with notice := some (curStep s + od s 0x8040 5) } } 0) := by
  subst h
  simp only [execLendEnableWrite, setLend, hlend, hnone]
  rfl

theorem execLendEnableWrite_of_ended (h : v = 0) (hidle : s.team.lending = false ∨ s.team.notice.isSome = true) :
    execLendEnableWrite v s = .next (abortWith (lendPut s v) 0) := by
  have hshut : (s.team.lending && s.team.notice.isNone) = false :=
    Bool.and_eq_false_iff.mpr (hidle.imp_right fun hsome => by simpa [← Option.not_isSome] using hsome)
  subst h
  simp only [execLendEnableWrite, setLend, hshut]
  rfl

theorem execLendNoticeExpiry_of_early (hnotice : s.team.notice = some n) (h : curStep s < n) :
    execLendNoticeExpiry s = .next s := by
  simp [execLendNoticeExpiry, hnotice, h, ok]

theorem execLendNoticeExpiry_of_due (hnotice : s.team.notice = some n) (h : n ≤ curStep s) :
    execLendNoticeExpiry s = .next { s with team := { s.team with notice := none, lending := false } } := by
  simp [execLendNoticeExpiry, hnotice, Nat.not_lt.mpr h, ok]
end

/-! ### The statement -/

/-- Settles O39: reports by sender, the root's verdict by what was reported, its adoption once, and lent memory by its window. -/
theorem lossScaleVerdictsAndLentMemory : Obligations.LossScaleVerdictsAndLentMemory := by
  intro s member step clean off len n v halve inc ls data x got e abort lends put marked late verdict wrote adopted base
  refine ⟨execVerdictReport_of_stray, execVerdictReport_of_child, ?expiry, ?halved, ?grown, ?kept,
    fun h => congrArg ok (adoptVerdict_of_second h), fun h => congrArg ok (adoptVerdict_of_first h), ?root, ?served, ?refused,
    execLendEnableWrite_of_range, execLendEnableWrite_of_grant, execLendEnableWrite_of_notice, execLendEnableWrite_of_ended,
    fun h => ⟨execLendNoticeExpiry_of_early h, execLendNoticeExpiry_of_due h⟩⟩
  case expiry =>
    intro hclosed hrep
    have hsend := execVerdictWaitExpiry_of_closed hclosed hrep
    exact ⟨hsend, fun hroot => ⟨_, hsend, sendReport_reportsOut_of_member hrep hroot⟩⟩
  case halved =>
    intro h
    rw [formVerdict_of_halve h]
    exact ⟨rfl, rfl, rfl⟩
  case grown =>
    intro h
    rw [formVerdict_of_grown h]
    exact ⟨rfl, rfl⟩
  case kept =>
    intro h
    rw [formVerdict_of_clean h]
    exact ⟨rfl, rfl⟩
  case root =>
    intro hclosed hrep hroot
    exact (execVerdictWaitExpiry_of_closed hclosed hrep).trans (congrArg ok (sendReport_of_root hrep hroot))
  case served =>
    intro ⟨hlend, hborrower⟩ hinside
    have hopen : LendOpen s member off len := ⟨hlend, hborrower, hinside⟩
    exact ⟨execLendReadRequest_of_open hopen, execLendWriteRequest_of_present hopen, execLendWriteRequest_of_absent hopen⟩
  case refused =>
    intro h
    exact ⟨execLendReadRequest_of_shut h, execLendWriteRequest_of_shut h⟩

end Sys2Proof.Machine
end

section
/-! Replicas and lost members (R309, R315, R394, R397 to R402, R417): the commit deadline, replay's stall, the tallies of a group, the
exchange and repair of copies, the scrub, and members suspected or declared lost. -/

namespace Sys2Proof.Machine

/-! ### The commit deadline and replay's stall (R309, R315, R394, R400) -/

section
variable {s : State} {step : Nat}

/-- The blocks of a step have been skipped. -/
def stepSkipped (s : State) (step : Nat) : State := modStep s step fun y => { y with skipped := true }

/-- The blocks whose repair withholds the touched list are skipped. -/
def heldSkipped (s : State) (step : Nat) : State :=
  skipBlocks s step 1 ((s.team.gate.filter fun g => g != 0).map fun g => g - 1)

theorem execCommitDeadline_of_settled (h : (stepOf s step).closed = false ∨ (stepOf s step).skipped = true ∨
    (replaying s = false ∧ (stepOf s step).verdict.isSome = true ∧ (stepOf s step).listed = true)) :
    execCommitDeadline step s = .next s := by
  obtain hopen | hskip | ⟨hlive, hverdict, hlisted⟩ := h
  · simp [execCommitDeadline, hopen, ok]
  · simp [execCommitDeadline, hskip, ok]
  · have hsome : (stepOf s step).verdict.isNone = false := by simpa using hverdict
    simp [execCommitDeadline, hlive, hsome, hlisted, ok]

section
variable (hclosed : (stepOf s step).closed = true) (hskip : (stepOf s step).skipped = false)
include hclosed hskip

theorem execCommitDeadline_of_replay (h : replaying s = true) : execCommitDeadline step s =
    .next ((recordedSkips s step).foldl (fun t h => skipBlock t (jobCtx s step) step h) (stepSkipped s step)) := by
  simp only [execCommitDeadline, hclosed, hskip, h]
  rfl

section
variable (hlive : replaying s = false)
include hlive

theorem execCommitDeadline_of_no_verdict (h : (stepOf s step).verdict = none) : execCommitDeadline step s =
    .next (note (writeJournal (skipBlocks (stepSkipped s step) step 1 (stepOf s step).touched) step)
      7 3 3 14 (selfNo s) [BitVec.ofNat 64 step]) := by
  simp only [execCommitDeadline, hclosed, hskip, hlive, h]
  rfl

theorem execCommitDeadline_of_withheld (hverdict : (stepOf s step).verdict.isSome = true)
    (hlisted : (stepOf s step).listed = false) : execCommitDeadline step s =
    .next (releaseLists { heldSkipped s step with team := { (heldSkipped s step).team with
      gate := (heldSkipped s step).team.gate.filter fun g => g == 0 } }) := by
  have hsome : (stepOf s step).verdict.isNone = false := by simpa using hverdict
  simp only [execCommitDeadline, hclosed, hskip, hlive, hsome, hlisted]
  rfl
end
end

theorem execReplayStallTimeout_of_busy (hreplay : replaying s = true) (htimer : (stepOf s step).timer = true)
    (hbusy : ((teamRegions s step).any fun r => cmbBusy r.2.2) = true) :
    execReplayStallTimeout step s = .next { s with team := { s.team with replayStatus := 3 } } := by
  simp [execReplayStallTimeout, hreplay, htimer, hbusy, ok]
end

/-! ### Tallies of a group (R396, R397) -/

section
variable {s : State} {member step group : Nat} {tally : W64} {g : RepGroup}

/-- A holder has reported a group's tally for a step. -/
def tallyKnown (s : State) (step group member : Nat) : Bool :=
  s.team.groupReps.any fun r => r.1 == step && r.2.1 == group && r.2.2.1 == member

/-- A holder's tally is kept. -/
def tallyKept (s : State) (step group member : Nat) (tally : W64) : State :=
  { s with team := { s.team with groupReps := s.team.groupReps ++ [(step, group, member, tally)] } }

/-- This member's own tally of a group is kept and sent to the other holders. -/
def ownTallySent (s : State) (step group : Nat) (g : RepGroup) (t : W64) : State :=
  { s with team := { s.team with
    groupReps := s.team.groupReps ++ [(step, group, selfNo s, t)],
    talliesOut := s.team.talliesOut ++ (g.holders.filter fun m => m != selfNo s).map fun m => (m, step, group, t) } }

section
variable (hgroup : repFind s group = some g)
include hgroup

theorem execGroupTallyReport_of_known (h : tallyKnown s step group member = true) :
    execGroupTallyReport member step group tally s = .next s := by
  unfold tallyKnown at h
  simp only [execGroupTallyReport, hgroup, h, Bool.or_true, if_true]
  rfl

section
variable (hholder : g.holders.contains member = true) (hnew : tallyKnown s step group member = false)
include hholder hnew

theorem execGroupTallyReport_of_other (h : member ≠ selfNo s) : execGroupTallyReport member step group tally s =
    .next (compareGroup (tallyKept s step group member tally) step g) := by
  unfold tallyKnown at hnew
  simp only [execGroupTallyReport, hgroup, hholder, hnew, if_neg h, Bool.not_true, Bool.or_self, Bool.false_eq_true, if_false]
  rfl

theorem execGroupTallyReport_of_self (h : member = selfNo s) (hsettled : groupSettled s (jobCtx s step) step g = true) :
    let t := groupTally s (jobCtx s step) g
    execGroupTallyReport member step group tally s = .next (compareGroup
      (lateItem (replayCompare (ownTallySent s step group g t) step group t) step (.groupTally group t)) step g) := by
  subst h
  unfold tallyKnown at hnew
  simp only [execGroupTallyReport, hgroup, hholder, hnew, hsettled, Bool.not_true, Bool.or_self, Bool.false_eq_true, if_false,
    if_true]
  rfl
end
end
end

/-! ### The exchange of copies (R398 to R400) -/

section
variable {s : State} {group handle step n e w rule : Nat} {g : RepGroup} {win : List Nat}
  {triples : List (Nat × W64 × Nat × Nat × Bool)}

/-- This member's copy of a block. -/
def ownCopy (s : State) (step handle w n e : Nat) : Copy :=
  (selfNo s, BitVec.ofNat 64 w, n, e, blkBodyOk s (jobCtx s step) handle)

/-- The copies of a block: an own one, and those that the other holders sent. -/
def copiesOf (s : State) (g : RepGroup) (own : Copy) (triples : List Copy) : List Copy :=
  own :: triples.filter fun c => c.1 != selfNo s && g.holders.contains c.1

/-- All copies of a block agree and are whole. -/
def copiesSound (own : Copy) (l : List Copy) : Bool := l.all (sameCopy own) && l.all fun c => c.2.2.2.2

/-- The lowest holder of the copy that wins sends it to those that lost. -/
def winnerSends (s : State) (step handle : Nat) (l : List Copy) (win : List Nat) : State :=
  if (win.all fun m => decide (selfNo s ≤ m)) = true then
    ((l.map Prod.fst).filter fun m => !win.contains m).foldl (fun u m => sendRepair u (jobCtx s step) step handle m) s
  else s

/-- A block whose copies differ is settled. -/
def copiesSettled (s : State) (step handle : Nat) (l : List Copy) : Option (List Nat × Nat) → State
  | some (win, rule) => if win.contains (selfNo s) then winnerSends s step handle l win else needRepair s handle win.head? rule
  | none => needRepair s handle none 2

/-- A block that this member has lies in a group whose tallies of a step are unequal. -/
structure UnequalBlock (s : State) (group handle step : Nat) (g : RepGroup) (w n e : Nat) : Prop where
  found : repFind s group = some g
  unequal : s.team.unequal.contains (step, group) = true
  first : g.first ≤ handle
  last : handle < g.first + g.count
  triple : blkTriple s (jobCtx s step) handle = some (w, n, e)

section
variable (hb : UnequalBlock s group handle step g w n e)
include hb

/-- A block of an unequal group is left alone where its copies are sound, and settled otherwise. -/
theorem execReplicaTripleExchange_of_unequal :
    let own := ownCopy s step handle w n e
    let copies := copiesOf s g own triples
    execReplicaTripleExchange group handle step triples s =
      .next (if copiesSound own copies then s else copiesSettled s step handle copies (settleCopies copies)) := by
  have hin : (!s.team.unequal.contains (step, group) || decide (handle < g.first) ||
      decide (g.first + g.count ≤ handle)) = false := by
    rw [hb.unequal]
    simp [hb.first, hb.last]
  simp only [execReplicaTripleExchange, hb.found, hin, hb.triple, Bool.false_eq_true, if_false]
  rfl

theorem execReplicaTripleExchange_of_sound
    (h : copiesSound (ownCopy s step handle w n e) (copiesOf s g (ownCopy s step handle w n e) triples) = true) :
    execReplicaTripleExchange group handle step triples s = .next s :=
  (execReplicaTripleExchange_of_unequal hb).trans (congrArg ok (if_pos h))

theorem execReplicaTripleExchange_of_unsound {o : Option (List Nat × Nat)}
    (h : copiesSound (ownCopy s step handle w n e) (copiesOf s g (ownCopy s step handle w n e) triples) = false)
    (ho : settleCopies (copiesOf s g (ownCopy s step handle w n e) triples) = o) :
    execReplicaTripleExchange group handle step triples s =
      .next (copiesSettled s step handle (copiesOf s g (ownCopy s step handle w n e) triples) o) :=
  ho ▸ (execReplicaTripleExchange_of_unequal hb).trans
    (congrArg ok (if_neg (Bool.eq_false_iff.mp h)))
end

theorem copiesSettled_of_lost {l : List Copy} (h : win.contains (selfNo s) = false) :
    copiesSettled s step handle l (some (win, rule)) = needRepair s handle win.head? rule :=
  if_neg (Bool.eq_false_iff.mp h)

theorem copiesSettled_of_won {l : List Copy} (h : win.contains (selfNo s) = true) :
    copiesSettled s step handle l (some (win, rule)) = winnerSends s step handle l win :=
  if_pos h
end

/-! ### Repairs and the scrub (R398 to R400) -/

section
variable {s t : State} {group handle step : Nat} {data : List Byte} {r : Nat × Option Nat × Nat}

/-- A repair is recorded with its holder and rule. -/
def repairRecorded (t : State) (group handle step : Nat) (r : Nat × Option Nat × Nat) : State :=
  lateItem t step (.repair group handle (r.2.1.getD 0x3FFF) r.2.2)

theorem execReplicaRepairInstall_of_installed (hrepair : s.team.repairs.find? (fun r => r.1 == handle) = some r)
    (hinstall : installRepair s (jobCtx s step) handle step r.2.1.isNone data = some t) :
    let u := repairRecorded t group handle step r
    execReplicaRepairInstall group handle step data s = .next (releaseLists { u with team := { u.team with
      repairs := u.team.repairs.filter fun x => x.1 != handle,
      gate := u.team.gate.filter fun x => x != handle + 1,
      repairsDone := u.team.repairsDone + 1 } }) := by
  simp only [execReplicaRepairInstall, hrepair, hinstall]
  rfl

/-- The blocks that one scrub covers. -/
def scrubLap (s : State) : Nat := min (od s 0x8032 3) (od s 0x8011 2)

/-- A step's share of the block table has been scrubbed. -/
def blocksScrubbed (s : State) (step : Nat) : State :=
  (List.range (scrubLap s)).foldl (fun t i => scrubBlock t step ((s.team.scrubAt + i) % od s 0x8011 2)) s

theorem execReplicaScrub_of_blocks (h : od s 0x8011 2 ≠ 0) : execReplicaScrub step s =
    .next { blocksScrubbed s step with team := { (blocksScrubbed s step).team with
      scrubAt := (s.team.scrubAt + scrubLap s) % od s 0x8011 2 } } := by
  simp only [execReplicaScrub, if_neg h]
  rfl
end

/-! ### Members suspected and lost (R401, R402, R417) -/

section
variable {s : State} {member a : Nat}

/-- The open streams to a member. -/
def streamsTo (s : State) (member : Nat) : List Nat :=
  (s.rly.streams.filter fun e => e.2.peer == member && e.2.st != .closed).map Prod.fst

/-- A unit has streams to a member, and all of them are FAILED. -/
def unitCutOff (s : State) (member u : Nat) : Bool :=
  (streamsTo s member).any (fun k => unitOf k == u) &&
    (streamsTo s member).all fun k => unitOf k != u || (strm s k).st == .failed

theorem execMemberSuspect_eq (s : State) (member : Nat) : execMemberSuspect member s = .next
    (if sget false s.team.suspect member || !(unitCutOff s member 0 || unitCutOff s member 1) then s
    else note { s with team := { s.team with suspect := sset false s.team.suspect member true } } 6 10 3 14 member []) := rfl

theorem execMemberSuspect_of_reachable (h : sget false s.team.suspect member = true ∨
    (unitCutOff s member 0 || unitCutOff s member 1) = false) : execMemberSuspect member s = .next s :=
  (execMemberSuspect_eq s member).trans (congrArg ok (if_pos (by simpa using h)))

theorem execMemberSuspect_of_cut_off (hnew : sget false s.team.suspect member = false)
    (h : (unitCutOff s member 0 || unitCutOff s member 1) = true) : execMemberSuspect member s =
    .next (note { s with team := { s.team with suspect := sset false s.team.suspect member true } } 6 10 3 14 member []) :=
  (execMemberSuspect_eq s member).trans (congrArg ok (if_neg (by simp [hnew, h])))

theorem execDeclareLost_of_range (h : teamSize s ≤ member) : execDeclareLost member s = .next (abortWith s 0x00030002) := by
  simp only [execDeclareLost, declareLost, if_pos h]
  rfl

/-- The member table marks a member LOST. -/
def memberMarked (s : State) (member a : Nat) : State :=
  homeWrite s noCtx 0 false (a + 16) [(BitVec.ofNat 8 (memberBits s member ||| 2), false)]

/-- The streams to a lost member have failed. -/
def streamsLost (s : State) (member a : Nat) : State :=
  (((memberMarked s member a).rly.streams.filter fun e => e.2.peer == member && e.2.st != .closed && e.2.st != .failed).map
    Prod.fst).foldl failStream (memberMarked s member a)

/-- Every closed step that waited for no one else has its report sent. -/
def dueReported (s : State) : State :=
  ((s.rly.steps.filter fun e => e.2.closed && !e.2.reported && e.2.verdict.isNone).map Prod.fst).foldl
    (fun t k => if allReported t k then sendReport t k false else t) s

theorem execDeclareLost_of_member (h : member < teamSize s) (ha : memberAt s member = some a) :
    execDeclareLost member s = .next (abortWith (dueReported (streamsLost s member a)) 0) := by
  simp only [execDeclareLost, declareLost, if_neg (Nat.not_le.mpr h), ha]
  rfl
end

/-! ### The statement -/

/-- Settles O40: the deadline by verdict and replay, tallies by their holder, copies by how they are settled, and lost members. -/
theorem replicasAreComparedAndRepaired : Obligations.ReplicasAreComparedAndRepaired := by
  intro s t step member group handle a n e w rule tally g data win r triples x ctx known reported own copies total lap scrubbed ks
    dead abort withheld
  refine ⟨execCommitDeadline_of_no_verdict, execCommitDeadline_of_settled, execCommitDeadline_of_replay,
    execCommitDeadline_of_withheld, execReplayStallTimeout_of_busy, ?tallies, ?exchange, execReplicaRepairInstall_of_installed,
    execReplicaScrub_of_blocks, execMemberSuspect_of_reachable, execMemberSuspect_of_cut_off, execDeclareLost_of_range, ?declared⟩
  case tallies =>
    intro hgroup hholder
    refine ⟨execGroupTallyReport_of_known hgroup, execGroupTallyReport_of_other hgroup hholder, ?self⟩
    case self =>
      intro hnew hself
      subst hself
      exact execGroupTallyReport_of_self hgroup hholder hnew rfl
  case exchange =>
    intro hgroup hunequal hfirst hlast hblk
    have hb : UnequalBlock s group handle step g w n e := ⟨hgroup, hunequal, hfirst, hlast, hblk⟩
    refine ⟨?sound, fun hdiff => ⟨execReplicaTripleExchange_of_unsound hb hdiff, ?lost, ?won⟩⟩
    case sound =>
      intro hsame hwhole
      exact execReplicaTripleExchange_of_sound hb (Bool.and_eq_true_iff.mpr ⟨hsame, hwhole⟩)
    case lost =>
      intro hwin hself
      exact (execReplicaTripleExchange_of_unsound hb hdiff hwin).trans (congrArg ok (copiesSettled_of_lost hself))
    case won =>
      intro hwin hself
      exact (execReplicaTripleExchange_of_unsound hb hdiff hwin).trans (congrArg ok (copiesSettled_of_won hself))
  case declared =>
    intro hmember ha marked u due
    -- With the folds named, the two states are compared once and not field by field.
    have hdecl := execDeclareLost_of_member hmember ha
    have hlost : streamsLost s member a = u := rfl
    have hdue : dueReported u = due.foldl (fun t k => if allReported t k then sendReport t k false else t) u := rfl
    rw [hlost, hdue] at hdecl
    exact hdecl

end Sys2Proof.Machine
end

section
/-! Contexts and their scheduler (R335 to R344, R348): dispatch, the end of a slice, the block threshold, saves and restores, and what
a decision does in each state of its paddock. -/

namespace Sys2Proof.Machine

/-! ### Dispatch (R335, R342) -/

section
variable {s : State} {c : Nat}

theorem execContextDispatch_of_free (h : canDispatch s c = true) : execContextDispatch c s = .next (dispatch s c) :=
  congrArg ok (if_pos h)

theorem execContextDispatch_of_held (h : canDispatch s c = false) : execContextDispatch c s = .next s :=
  congrArg ok (if_neg (Bool.eq_false_iff.mp h))

/-- No claim of a context outlives its dispatch. -/
theorem dispatch_claims_ne (s : State) (c : Nat) : ∀ e ∈ (dispatch s c).claims, e.2 ≠ c + 1 := by
  intro e he
  obtain ⟨-, hother⟩ := List.mem_filter.mp he
  exact bne_iff_ne.mp hother

/-! ### The end of a slice (R341) -/

/-- A context on its gang has been billed a whole slice per engine. -/
def sliceOver (s : State) (c : Nat) : Bool :=
  (ctxOf s c).admitted && (ctxOf s c).onGang && decide (od s 0x5110 2 ≤ (ctxOf s c).acct.slice)

/-- A RUNNABLE context of higher deficit wants engines of the context's gang. -/
def hasRival (s : State) (c : Nat) : Bool :=
  (padCtxs s (ctxOf s c).paddock).any fun e => e.1 != c && e.2.st == .runnable && gangsMeet (ctxOf s c) e.2
    && decide ((ctxOf s c).acct.deficit < e.2.acct.deficit)

theorem endSlice_of_rival (h : hasRival s c = true) : endSlice s c = preempt s c := if_pos h

theorem endSlice_of_no_rival (h : hasRival s c = false) :
    endSlice s c = modCtx s c fun y => { y with acct := { y.acct with slice := 0 } } :=
  if_neg (Bool.eq_false_iff.mp h)

theorem execSliceEnd_of_over (h : sliceOver s c = true) : execSliceEnd c s = .next (endSlice s c) :=
  congrArg ok (if_pos h)

/-! ### The block threshold (R336) -/

/-- Some engine of a context's gang holds it in an external wait. -/
def gangWaits (s : State) (c : Nat) : Bool := (gang (ctxOf s c)).any fun ge => holds (eng s ge) c && extWait (eng s ge)

/-- A context has Relay operations outstanding. -/
def relayBusy (s : State) (c : Nat) : Bool := s.rly.ops.any fun o => o.ctx == c

/-- What makes a context BLOCKED at the threshold: an external wait of a running one, Relay operations of an idle one. -/
def thresholdBlocks (s : State) (c : Nat) : Bool :=
  (ctxOf s c).admitted && ((ctxOf s c).st == .running && gangWaits s c || (ctxOf s c).st == .idle && relayBusy s c)

theorem execBlockThresholdReached_of_blocks (h : thresholdBlocks s c = true) :
    execBlockThresholdReached c s = .next (modCtx s c fun y => { y with st := .blocked }) :=
  congrArg ok (if_pos h)

theorem execBlockThresholdReached_of_not_blocks (h : thresholdBlocks s c = false) : execBlockThresholdReached c s = .next s :=
  congrArg ok (if_neg (Bool.eq_false_iff.mp h))

theorem thresholdBlocks_of_running (hadm : (ctxOf s c).admitted = true) (hrun : (ctxOf s c).st = .running)
    (hwait : gangWaits s c = true) : thresholdBlocks s c = true := by
  simp [thresholdBlocks, hadm, hrun, hwait]

theorem thresholdBlocks_of_idle (hadm : (ctxOf s c).admitted = true) (hidle : (ctxOf s c).st = .idle)
    (hrelay : relayBusy s c = true) : thresholdBlocks s c = true := by
  simp [thresholdBlocks, hadm, hidle, hrelay]

theorem thresholdBlocks_of_other (hrun : (ctxOf s c).st ≠ .running) (hidle : (ctxOf s c).st ≠ .idle) :
    thresholdBlocks s c = false := by
  simp [thresholdBlocks, hrun, hidle]

/-! ### Saves and restores (R337 to R339, R348) -/

/-- A save that was started can end: its context is stopped, quiet and not pinned, and no slot of its gang is HELD. -/
def saveEnds (s : State) (c : Nat) : Bool :=
  powered s && (ctxOf s c).swap == .out && (ctxOf s c).resident.isSome && !pinned s c && gangStopped s c
    && (gang (ctxOf s c)).all fun ge => slotState s (slotOf s ge) != .held && (!holds (eng s ge) c || quiet (eng s ge))

/-- The checks of SWAP_OUT_COMPLETE are the failure of one of the conditions under which a save ends. -/
theorem execSwapOutComplete_eq (s : State) (c : Nat) :
    execSwapOutComplete c s = .next (if saveEnds s c then swapOut s c else s) := by
  have hcheck : (!powered s || (ctxOf s c).swap != .out || (ctxOf s c).resident.isNone || pinned s c || !gangStopped s c
      || (gang (ctxOf s c)).any fun ge => slotState s (slotOf s ge) == .held || (holds (eng s ge) c && !quiet (eng s ge)))
      = !saveEnds s c := by
    simp [saveEnds, Bool.not_and, List.not_all_eq_any_not, bne]
  refine congrArg ok ((congrArg (fun b : Bool => if b then s else swapOut s c) hcheck).trans ?_)
  cases saveEnds s c <;> rfl

theorem execSwapOutComplete_of_ends (h : saveEnds s c = true) : execSwapOutComplete c s = .next (swapOut s c) :=
  (execSwapOutComplete_eq s c).trans (congrArg ok (if_pos h))

theorem execSwapOutComplete_of_not_ends (h : saveEnds s c = false) : execSwapOutComplete c s = .next s :=
  (execSwapOutComplete_eq s c).trans (congrArg ok (if_neg (Bool.eq_false_iff.mp h)))

/-- A resident context whose gang meets the context's holds part of the binding at a base. -/
def bindingTaken (s : State) (c q : Nat) : Bool :=
  (admitted s).any fun e => e.1 != c && gangsMeet (ctxOf s c) e.2 && e.2.resident.isSome
    && bindsOver e.2 q (ctxOf s c).sched.qlen

section
variable {q : Nat} (hswap : (ctxOf s c).swap = .into q)
include hswap

theorem execSwapInComplete_of_into : execSwapInComplete c s =
    .next (if !powered s || bindingTaken s c q then s else swapIn s c q) := by
  simp only [execSwapInComplete, hswap]
  rfl

theorem execSwapInComplete_of_free (hpow : powered s = true) (hfree : bindingTaken s c q = false) :
    execSwapInComplete c s = .next (swapIn s c q) :=
  (execSwapInComplete_of_into hswap).trans (congrArg ok (if_neg (by simp [hpow, hfree])))

theorem execSwapInComplete_of_taken (htaken : bindingTaken s c q = true) : execSwapInComplete c s = .next s :=
  (execSwapInComplete_of_into hswap).trans (congrArg ok (if_pos (by simp [htaken])))
end
end

/-! ### Decisions (R341 to R344) -/

/-- A decision is counted, with the engine-waves that claims left idle since the last one. -/
def decisionCounted (s t : State) (p delta : Nat) : State :=
  modPad t p fun y => { y with
    decisions := y.decisions + 1, claimIdle := y.claimIdle + BitVec.ofNat 64 (claimedIdle s p * delta) }

/-- The contexts of a paddock are billed and their stops settled, and the decision is counted. -/
def decisionTold (s : State) (p delta : Nat) (bills : List (Nat × Nat × Nat × Nat × Nat)) : State :=
  decisionCounted s (settleStops (billAll s p delta bills) p) p delta

/-- Every running context of a paddock that has had its slice is at the slice's end. -/
def slicesEnded (s : State) (p : Nat) : State :=
  (padCtxs s p).foldl (fun t e =>
    if e.2.onGang && e.2.st == .running && decide (od t 0x5110 2 ≤ e.2.acct.slice) then endSlice t e.1 else t) s

/-- The swapped-out contexts of a paddock that want to run are placed in the order of service. -/
def outsidersPlaced (s : State) (p : Nat) : State := (outsiders s p).foldl (fun t e => placeOutsider t p e.1) s

/-- The accounting entries of a paddock's contexts on their gangs are written. -/
def accountsWritten (s : State) (p : Nat) : State :=
  (padCtxs s p).foldl (fun t e => if e.2.onGang then writeAccount t e.1 else t) s

/-- A decision's part by the state of its paddock. -/
def paddockServed (s : State) (p : Nat) : State :=
  if (padOf s p).st == .draining then drainPad s p
  else if (padOf s p).st == .running then serveGangs (outsidersPlaced (evictBlocked (slicesEnded s p) p) p) p
  else s

section
variable {s : State} {p : Nat}

theorem paddockServed_of_draining (h : (padOf s p).st = .draining) : paddockServed s p = drainPad s p :=
  if_pos (beq_iff_eq.mpr h)

theorem paddockServed_of_running (h : (padOf s p).st = .running) :
    paddockServed s p = serveGangs (outsidersPlaced (evictBlocked (slicesEnded s p) p) p) p := by
  simp [paddockServed, h]

theorem paddockServed_of_other (hdrain : (padOf s p).st ≠ .draining) (hrun : (padOf s p).st ≠ .running) :
    paddockServed s p = s := by
  simp [paddockServed, hdrain, hrun]

theorem accountsWritten_of_empty (h : padCtxs s p = []) : accountsWritten s p = s := by
  simp [accountsWritten, h]

variable {delta : Nat} {bills : List (Nat × Nat × Nat × Nat × Nat)}

theorem decisionTold_of_empty (h : padCtxs s p = []) : decisionTold s p delta bills = decisionCounted s s p delta := by
  simp [decisionTold, billAll, settleStops, h]

theorem execSchedulerDecision_of_unpowered (h : powered s = false) : execSchedulerDecision p delta bills s = .next s :=
  congrArg ok (if_pos (by simp [h]))

section
variable (hpow : powered s = true)
include hpow

theorem execSchedulerDecision_of_powered : execSchedulerDecision p delta bills s =
    .next (accountsWritten (paddockServed (decisionTold s p delta bills) p) p) :=
  congrArg ok (if_neg (by simp [hpow]))

theorem execSchedulerDecision_of_served {t : State} (h : paddockServed (decisionTold s p delta bills) p = t) :
    execSchedulerDecision p delta bills s = .next (accountsWritten t p) :=
  h ▸ execSchedulerDecision_of_powered hpow

/-- A decision of a stopped paddock that has no context is counted and changes nothing else. -/
theorem execSchedulerDecision_of_empty (hnone : padCtxs s p = []) (hstill : padCtxs (decisionCounted s s p delta) p = [])
    (hstop : (padOf (decisionCounted s s p delta) p).st = .stopped) :
    execSchedulerDecision p delta bills s = .next (decisionCounted s s p delta) := by
  rw [execSchedulerDecision_of_powered hpow, decisionTold_of_empty hnone,
    paddockServed_of_other (by simp [hstop]) (by simp [hstop]), accountsWritten_of_empty hstill]
end
end

/-- DEFICIT is clamped to four slices either way. -/
theorem nextDeficit_bounds (s : State) (l : List (Nat × Ctx)) (delta : Nat) (x : Ctx) (billed : Nat) :
    nextDeficit s l delta x billed ≤ 4 * od s 0x5110 2 ∧ -(4 * od s 0x5110 2 : Int) ≤ nextDeficit s l delta x billed :=
  ⟨max_le (by omega) (min_le_left _ _), le_max_left _ _⟩

/-! ### The statement -/

/-- Settles O43: dispatch, slices, the block threshold, saves and restores, each by its condition, then a decision by the state of its
paddock, and the clamp of DEFICIT. -/
theorem schedulerMovesContexts : Obligations.SchedulerMovesContexts := by
  intro s ctx p delta q billed bills l y x sliced rival waits outNow taken counted told ended evicted placed written
  refine ⟨fun h => ⟨execContextDispatch_of_free h, dispatch_claims_ne s ctx⟩, execContextDispatch_of_held, ?preempted, ?renewed,
    ?waiting, ?relaying, ?neither, execSwapOutComplete_of_ends, execSwapOutComplete_of_not_ends, execSwapInComplete_of_free,
    execSwapInComplete_of_taken, execSchedulerDecision_of_empty, ?decides, execSchedulerDecision_of_unpowered,
    nextDeficit_bounds s l delta y billed⟩
  case preempted =>
    intro hover hrival
    exact (execSliceEnd_of_over hover).trans (congrArg ok (endSlice_of_rival hrival))
  case renewed =>
    intro hover hrival
    exact (execSliceEnd_of_over hover).trans (congrArg ok (endSlice_of_no_rival hrival))
  case waiting =>
    intro hadm hrun hwait
    exact execBlockThresholdReached_of_blocks (thresholdBlocks_of_running hadm hrun hwait)
  case relaying =>
    intro hadm hidle hrelay
    exact execBlockThresholdReached_of_blocks (thresholdBlocks_of_idle hadm hidle hrelay)
  case neither =>
    intro hrun hidle
    exact execBlockThresholdReached_of_not_blocks (thresholdBlocks_of_other hrun hidle)
  case decides =>
    intro hpow
    -- With each stage named, the states are compared stage by stage and not field by field.
    have htold : decisionTold s p delta bills = told := rfl
    have hended : slicesEnded told p = ended := rfl
    have hplaced : outsidersPlaced evicted p = placed := rfl
    have hserved {t : State} (h : paddockServed told p = t) : exec (.schedulerDecision p delta bills) s = .next (written t) :=
      execSchedulerDecision_of_served hpow (htold ▸ h)
    refine ⟨fun hdrain => hserved (paddockServed_of_draining hdrain), fun hrun => hserved ?_,
      fun hdrain hrun => hserved (paddockServed_of_other hdrain hrun)⟩
    rw [paddockServed_of_running hrun, hended, hplaced]

end Sys2Proof.Machine
end

section
/-! Paddocks set up, started and stopped (R329 to R332, R345, R414, R417): the writes of masks, rings, ranges and weights, and the
states of a paddock. -/

namespace Sys2Proof.Machine

/-! ### Writes that answer with an abort code (R417) -/

theorem ok_ownWrite_of_error {s : State} {r : Except Nat State} {n : Nat} (h : r = .error n) :
    ok (ownWrite s r) = .next (abortWith s n) := by
  rw [h]
  rfl

theorem ok_ownWrite_of_ok {s t : State} {r : Except Nat State} (h : r = .ok t) :
    ok (ownWrite s r) = .next (abortWith t aNONE) := by
  rw [h]
  rfl

/-- Two changes of a paddock that agree on it as it stands leave the same state. -/
theorem modPad_congr {s : State} {p : Nat} {f g : Pad → Pad} (h : f (padOf s p) = g (padOf s p)) : modPad s p f = modPad s p g :=
  congrArg (fun y => { s with pads := sset {} s.pads p y }) h

theorem not_busy_of_padIdle {s : State} {p : Nat} (h : padIdle s p = true) : ¬ (!padIdle s p) = true := by
  simp [h]

/-! ### Cluster masks (R329, R330) -/

/-- A paddock's mask once one of its two halves is written. -/
def writtenMask (s : State) (p : Nat) (hi : Bool) (v : Nat) : Nat :=
  if hi then (padOf s p).mask % 2 ^ 64 + v % 2 ^ 32 * 2 ^ 64 else (padOf s p).mask / 2 ^ 64 * 2 ^ 64 + v % 2 ^ 64

/-- A mask names a cluster that is out of service or on a retired die. -/
def namesOut (s : State) (m : Nat) : Bool :=
  (maskList 96 m).any fun k => sget false s.contain.clOut k || dieRetired s.map (k / 12)

/-- A mask names a cluster of another paddock. -/
def namesTaken (s : State) (p m : Nat) : Bool := s.pads.any fun e => e.1 != p && e.2.mask &&& m != 0

/-- A paddock with a new mask (R330): an unused one that takes clusters is configured, its counters at 0, and one without clusters is
unused. -/
def padMasked (m : Nat) (y : Pad) : Pad :=
  let z := if y.st = .unused ∧ m ≠ 0 then
    { y with st := .stopped, decisions := 0, swapOuts := 0, swapIns := 0, fullSaves := 0, evictions := 0, pinHolds := 0,
             claimIdle := 0 } else y
  { z with mask := m, st := if m = 0 then .unused else z.st }

theorem padMasked_of_stopped {m : Nat} {y : Pad} (hmask : m ≠ 0) (hst : y.st = .stopped) :
    padMasked m y = { y with mask := m, st := y.st } := by
  simp [padMasked, hmask, hst]

section
variable {s t : State} {p v : Nat} {hi : Bool}

theorem writeClusters_of_busy (h : padIdle s p = false) : writeClusters s p hi v = .error aRUNNING :=
  if_pos (by simp [h])

section
variable (hidle : padIdle s p = true)
include hidle

theorem writeClusters_of_clash (h : namesOut s (writtenMask s p hi v) = true ∨ namesTaken s p (writtenMask s p hi v) = true) :
    writeClusters s p hi v = .error aRANGE := by
  refine (if_neg (not_busy_of_padIdle hidle)).trans (ite_eq_left_iff.mpr fun hin => ?_)
  exact if_pos (h.resolve_left hin)

theorem writeClusters_of_kept (hout : namesOut s (writtenMask s p hi v) = false)
    (hfree : namesTaken s p (writtenMask s p hi v) = false)
    (hkept : commitStore s (storeKey p 0x5100 (if hi then 3 else 2)) (leBytes 8 v) = .ok t)
    (hmask : writtenMask s p hi v ≠ 0) (hstop : (padOf t p).st = .stopped) : writeClusters s p hi v =
    .ok (modPad t p fun y => { y with mask := writtenMask s p hi v, st := y.st }) := by
  refine (if_neg (not_busy_of_padIdle hidle)).trans ((if_neg (Bool.eq_false_iff.mp hout)).trans
    ((if_neg (Bool.eq_false_iff.mp hfree)).trans ?_))
  rw [hkept]
  exact congrArg Except.ok (modPad_congr (padMasked_of_stopped hmask hstop))
end
end

/-! ### Ring ranges (R329) -/

/-- A paddock's first ring once one of its two ring objects is written. -/
def writtenFirst (s : State) (p : Nat) (count : Bool) (v : Nat) : Nat := if count then (padOf s p).ringFirst else v

/-- A paddock's number of rings once one of its two ring objects is written. -/
def writtenCount (s : State) (p : Nat) (count : Bool) (v : Nat) : Nat := if count then v else (padOf s p).ringCount

/-- A range of rings meets another paddock's. -/
def ringsTaken (s : State) (p f n : Nat) : Bool :=
  s.pads.any fun e => e.1 != p
    && decide (0 < n ∧ 0 < e.2.ringCount ∧ f < e.2.ringFirst + e.2.ringCount ∧ e.2.ringFirst < f + n)

section
variable {s t : State} {p v : Nat} {count : Bool}

theorem writeRingRange_of_busy (h : padIdle s p = false) : writeRingRange s p count v = .error aRUNNING :=
  if_pos (by simp [h])

section
variable (hidle : padIdle s p = true)
include hidle

theorem writeRingRange_of_clash (h : 32768 < writtenFirst s p count v + writtenCount s p count v ∨
    ringsTaken s p (writtenFirst s p count v) (writtenCount s p count v) = true) :
    writeRingRange s p count v = .error aRANGE := by
  refine (if_neg (not_busy_of_padIdle hidle)).trans (ite_eq_left_iff.mpr fun hin => ?_)
  exact if_pos (h.resolve_left hin)

theorem writeRingRange_of_kept (hend : writtenFirst s p count v + writtenCount s p count v ≤ 32768)
    (hfree : ringsTaken s p (writtenFirst s p count v) (writtenCount s p count v) = false)
    (hkept : commitStore s (storeKey p 0x5100 (if count then 6 else 5)) (leBytes 2 v) = .ok t) : writeRingRange s p count v =
    .ok (modPad t p fun y => { y with ringFirst := writtenFirst s p count v, ringCount := writtenCount s p count v }) := by
  refine (if_neg (not_busy_of_padIdle hidle)).trans ((if_neg (Nat.not_lt.mpr hend)).trans
    ((if_neg (Bool.eq_false_iff.mp hfree)).trans ?_))
  rw [hkept]
  rfl
end
end

/-! ### Range entries (R331, R332) -/

/-- The key of word 0 of a paddock's range entry; word 1 is at the next. -/
def rangeKey (p entry : Nat) : Nat := p * 128 + 2 * entry

/-- Word 0 of a range entry as it stands. -/
def rangeWord0 (s : State) (p entry : Nat) : W64 := sget 0 s.padRanges (rangeKey p entry)

/-- Word 1 of a range entry as it stands. -/
def rangeWord1 (s : State) (p entry : Nat) : W64 := sget 0 s.padRanges (rangeKey p entry + 1)

/-- Word 0 of a range entry once one of its two words is written. -/
def writtenWord0 (s : State) (p entry word : Nat) (w : W64) : W64 := if word = 0 then w else rangeWord0 s p entry

/-- Word 1 of a range entry once one of its two words is written. -/
def writtenWord1 (s : State) (p entry word : Nat) (w : W64) : W64 := if word = 0 then rangeWord1 s p entry else w

/-- A write changes an entry's BASE, WRITE or LENGTH. -/
def entryMoved (s : State) (p entry word : Nat) (w : W64) : Bool :=
  rangeBase (writtenWord0 s p entry word w) != rangeBase (rangeWord0 s p entry)
    || bitAt (writtenWord0 s p entry word w).toNat 1 != bitAt (rangeWord0 s p entry).toNat 1
    || rangeLen (writtenWord1 s p entry word w) != rangeLen (rangeWord1 s p entry)

/-- A write would leave an entry VALID, new or moved, and against R332. -/
def entryRefused (s : State) (p entry word : Nat) (w : W64) : Bool :=
  bitAt (writtenWord0 s p entry word w).toNat 0 && (!bitAt (rangeWord0 s p entry).toNat 0 || entryMoved s p entry word w)
    && rangeBad s p (writtenWord0 s p entry word w) (writtenWord1 s p entry word w)

section
variable {s : State} {p entry word : Nat} {w : W64} (hp : p < 96) (hentry : entry < 64) (hword : word < 2)
include hp hentry hword

theorem execPaddockRangeWrite_of_refused (h : entryRefused s p entry word w = true) :
    execPaddockRangeWrite p entry word w s = .next (modPad s p fun y => { y with rangeError := true }) :=
  congrArg ok ((if_neg (by omega)).trans (if_pos h))

theorem execPaddockRangeWrite_of_accepted (h : entryRefused s p entry word w = false) :
    execPaddockRangeWrite p entry word w s = .next { s with
      padRanges := sset 0 (sset 0 s.padRanges (rangeKey p entry) (writtenWord0 s p entry word w)) (rangeKey p entry + 1)
        (writtenWord1 s p entry word w) } :=
  congrArg ok ((if_neg (by omega)).trans (if_neg (Bool.eq_false_iff.mp h)))
end

theorem execRangeErrorW1c_of_one {s : State} {p : Nat} {w : W64} (h : bitAt w.toNat 9 = true) :
    execRangeErrorW1c p w s = .next (modPad s p fun y => { y with rangeError := false }) :=
  congrArg ok (if_pos h)

/-! ### The states of a paddock (R330) -/

section
variable {s : State} {p : Nat}

theorem startPad_of_not_ready (h : (padOf s p).st = .unused ∨ (padOf s p).st = .draining) : startPad s p = .error aSTATE := by
  obtain hst | hst := h <;> simp only [startPad, hst]

section
variable (hst : (padOf s p).st = .stopped)
include hst

theorem startPad_of_ready (hrange : padHasRange s p = true) (hrings : (padOf s p).ringCount ≠ 0)
    (hguar : allGuarantees s (admitted s) = true) : startPad s p = .ok (modPad s p fun y => { y with st := .running }) := by
  simp [startPad, hst, hrange, hrings, hguar]

theorem startPad_of_bare (h : padHasRange s p = false ∨ (padOf s p).ringCount = 0) : startPad s p = .error aSTATE := by
  obtain hrange | hrings := h
  · simp [startPad, hst, hrange]
  · simp [startPad, hst, hrings]
end

theorem stopPad_of_running (h : (padOf s p).st = .running) :
    stopPad s p = drainPad (modPad s p fun y => { y with st := .draining }) p :=
  if_pos h

/-- No context of a paddock runs or is resident. -/
def padEmpty (s : State) (p : Nat) : Bool := (padCtxs s p).all fun e => !e.2.onGang && e.2.resident.isNone

theorem execPaddockDrainComplete_of_empty (hst : (padOf s p).st = .draining) (h : padEmpty s p = true) :
    execPaddockDrainComplete p s = .next (modPad s p fun y => { y with st := .stopped, pinHold := false }) :=
  congrArg ok (if_pos ⟨hst, h⟩)

theorem execPaddockDrainComplete_of_not_empty (h : padEmpty s p = false) : execPaddockDrainComplete p s = .next s :=
  congrArg ok (if_neg fun hdrained => Bool.eq_false_iff.mp h hdrained.2)
end

/-! ### Share weights (R345) -/

/-- A context's share weight is changed. -/
def weighed (s : State) (c v : Nat) : State := modCtx s c fun y => { y with sched := { y.sched with weight := v } }

section
variable {s : State} {c v : Nat} (hadm : (ctxOf s c).admitted = true)
include hadm

theorem writeWeight_of_out_of_range (h : v = 0 ∨ 65535 < v) : writeWeight s c v = .error aRANGE :=
  (if_neg (by simp [hadm])).trans (if_pos h)

section
variable (hlow : v ≠ 0) (hhigh : v ≤ 65535)
include hlow hhigh

theorem writeWeight_of_in_range : writeWeight s c v =
    if allGuarantees (weighed s c v) (admitted (weighed s c v)) then .ok (weighed s c v) else .error aSTATE :=
  (if_neg (by simp [hadm])).trans (if_neg (by omega))

theorem writeWeight_of_held (h : allGuarantees (weighed s c v) (admitted (weighed s c v)) = true) :
    writeWeight s c v = .ok (weighed s c v) :=
  (writeWeight_of_in_range hadm hlow hhigh).trans (if_pos h)

theorem writeWeight_of_broken (h : allGuarantees (weighed s c v) (admitted (weighed s c v)) = false) :
    writeWeight s c v = .error aSTATE :=
  (writeWeight_of_in_range hadm hlow hhigh).trans (if_neg (Bool.eq_false_iff.mp h))
end
end

/-! ### The statement -/

/-- Settles O44: masks, rings and range entries by what holds or refuses the write, each state's start, stop and end of drain, and the
weight by its range and the guarantees. -/
theorem paddocksAreConfiguredStartedAndDrained : Obligations.PaddocksAreConfiguredStartedAndDrained := by
  intro s t p v c entry word hi count w x abort m outs meets f n clash kept keptRings k o0 o1 n0 n1 moved bad weighted empty
  refine ⟨fun hbusy => ⟨ok_ownWrite_of_error (writeClusters_of_busy hbusy), ok_ownWrite_of_error (writeRingRange_of_busy hbusy)⟩,
    ?configured, fun hp hentry hword => ⟨execPaddockRangeWrite_of_refused hp hentry hword,
      execPaddockRangeWrite_of_accepted hp hentry hword⟩, execRangeErrorW1c_of_one,
    fun hst => ok_ownWrite_of_error (startPad_of_not_ready hst), ?started, ?stopped, execPaddockDrainComplete_of_empty,
    fun _ hheld => execPaddockDrainComplete_of_not_empty hheld, ?weight⟩
  case configured =>
    intro hidle
    refine ⟨fun h => ok_ownWrite_of_error (writeClusters_of_clash hidle h), ?_,
      fun h => ok_ownWrite_of_error (writeRingRange_of_clash hidle h), ?_⟩
    · intro hout hfree hkept hmask _ hstop
      exact ok_ownWrite_of_ok (writeClusters_of_kept hidle hout hfree hkept hmask hstop)
    · intro hend hfree hkept
      exact ok_ownWrite_of_ok (writeRingRange_of_kept hidle hend hfree hkept)
  case started =>
    intro hst
    exact ⟨fun hrange hrings hguar => ok_ownWrite_of_ok (startPad_of_ready hst hrange hrings hguar),
      fun h => ok_ownWrite_of_error (startPad_of_bare hst h)⟩
  case stopped =>
    intro hst
    exact congrArg (fun u => ok (abortWith u aNONE)) (stopPad_of_running hst)
  case weight =>
    intro hadm
    exact ⟨fun h => ok_ownWrite_of_error (writeWeight_of_out_of_range hadm h),
      fun hlow hhigh h => ok_ownWrite_of_ok (writeWeight_of_held hadm hlow hhigh h),
      fun hlow hhigh h => ok_ownWrite_of_error (writeWeight_of_broken hadm hlow hhigh h)⟩

end Sys2Proof.Machine
end

section
/-! The Ostler role and the Grooms (R353, R406 to R410, R465, R476): heartbeats, the role as it passes, the standby, the management
ring, and the Grooms as they fall silent, restart and report. -/

namespace Sys2Proof.Machine

/-! ### The role as it passes (R353, R408, R409) -/

section
variable {s : State} {dies lost : List Nat}

theorem execOstlerHeartbeat_of_serving (hfw : s.boot.fw = true) (hrole : s.ost.failed = false) (hstby : s.lands.stby = true) :
    execOstlerHeartbeat s = .next (modOst { s with hosts := { s.hosts with time := s.hosts.time + 100000 } }
      fun o => { o with time := o.time + 1000000 }) :=
  congrArg ok (if_pos (by simp [hfw, hrole, hstby]))

theorem execStandbyTakeover_of_no_firmware (hfw : s.boot.fw = false) : execStandbyTakeover dies s = .next s :=
  congrArg ok (if_pos (congrArg not hfw))

section
variable (hfw : s.boot.fw = true)
include hfw

theorem execStandbyTakeover_of_ready (h : s.ost.standby = .ready) : execStandbyTakeover dies s = .next (takeover s false dies) :=
  congrArg ok ((if_neg (by simp [hfw])).trans (if_pos h))

theorem execStandbyTakeover_of_not_ready (h : s.ost.standby ≠ .ready) :
    execStandbyTakeover dies s = .next (modOst s fun o => { o with failed := true }) :=
  congrArg ok ((if_neg (by simp [hfw])).trans (if_neg h))
end

theorem requestHandover_of_ready (h : s.ost.standby = .ready) : requestHandover s dies = .ok (takeover s true dies) := if_pos h

theorem requestHandover_of_not_ready (h : s.ost.standby ≠ .ready) : requestHandover s dies = .error aSTATE := if_neg h

theorem execGroomHoldTimeout_of_failed (h : s.ost.failed = true) : execGroomHoldTimeout lost s = .next (enterHobble s 5 lost) :=
  congrArg ok (if_pos h)

theorem execGroomHoldTimeout_of_held (h : s.ost.failed = false) : execGroomHoldTimeout lost s = .next s :=
  congrArg ok (if_neg (Bool.eq_false_iff.mp h))
end

/-- The other core has the role, with the next epoch; unread evidence and unused leaves are gone. -/
def roleTaken (s : State) (planned : Bool) : State :=
  modBoot (modOst s fun o => { o with
    active := 1 - o.active, epoch := o.epoch + 1, handovers := o.handovers + 1, standby := .absent, mustTest := !planned })
    fun b => { b with evidence := [], nextLeaf := 0, leafEnd := 0 }

/-- What the role's passing decides: the Ostler's registers apart from its Grooms', the evidence and the leaves. -/
def roleFields (t : State) : Ostler × List (Nat × Option (List Byte)) × Nat × Nat :=
  ({ t.ost with grooms := [] }, t.boot.evidence, t.boot.nextLeaf, t.boot.leafEnd)

theorem startBreach_roleFields (s : State) (d cause : Nat) : roleFields (startBreach s d cause) = roleFields s := by
  unfold startBreach
  split <;> rfl

/-- The update that stops, the Grooms that restart and the dies that are reined leave the role as it was taken. -/
theorem takeover_roleFields (s : State) (planned : Bool) (dies : List Nat) :
    roleFields (takeover s planned dies) = roleFields (roleTaken s planned) := by
  refine (foldl_keeps roleFields _ (fun t d => ?reined) _ _).trans ?_
  case reined => exact startBreach_roleFields _ d 5
  split
  · rfl
  · refine foldl_keeps roleFields _ (fun t i => ?_) _ _
    dsimp only
    split <;> rfl

/-! ### The standby (R408, R465) -/

/-- The core without the role may enter SYNCING once its self-test has passed. -/
def standbyStarts (s : State) : Prop :=
  s.ost.standby = .absent ∧ s.ost.mustTest = false ∧ hasSecret s (1 - s.ost.active) = true ∧ s.boot.fw = true
    ∧ s.ost.failed = false ∧ s.power.sleepState = 0

section
variable {s : State}

theorem execStandbySelfTestPass_of_starts (h : standbyStarts s) :
    execStandbySelfTestPass s = .next (modOst s fun o => { o with standby := .syncing }) := congrArg ok (if_pos h)

theorem execStandbySelfTestPass_of_not_starts (h : ¬ standbyStarts s) : execStandbySelfTestPass s = .next s :=
  congrArg ok (if_neg h)

theorem execStandbySyncComplete_of_syncing (h : s.ost.standby = .syncing) :
    execStandbySyncComplete s = .next (modOst s fun o => { o with standby := .ready }) := congrArg ok (if_pos h)

theorem execStandbySyncComplete_of_other (h : s.ost.standby ≠ .syncing) : execStandbySyncComplete s = .next s :=
  congrArg ok (if_neg h)

/-! ### The management ring (R406) -/

variable {epoch : Nat} {cmd : MgmtCmd}

theorem execMgmtRingCommand_of_stale (h : epoch ≠ s.ost.epoch.toNat) :
    execMgmtRingCommand epoch cmd s = .next (modOst s fun o => { o with staleCmds := o.staleCmds + 1 }) := congrArg ok (if_pos h)

section
variable (hnow : epoch = s.ost.epoch.toNat)
include hnow

theorem execMgmtRingCommand_none : execMgmtRingCommand epoch .none s = .next s := congrArg ok (if_neg (not_not.mpr hnow))

theorem execMgmtRingCommand_drain (slot : Nat) : execMgmtRingCommand epoch (.drain slot) s = .next (drainSlot s slot) :=
  congrArg ok (if_neg (not_not.mpr hnow))

theorem execMgmtRingCommand_rein {d : Nat} (duty : Nat) (hd : d < 8) : execMgmtRingCommand epoch (.rein d duty) s =
    .next (applyRein (modDie s d fun p => { p with duty := min 16 duty }) d) :=
  congrArg ok ((if_neg (not_not.mpr hnow)).trans (if_pos hd))
end
end

/-! ### Grooms (R408, R410, R476) -/

/-- A Groom takes a state. -/
def groomSet (s : State) (g : Nat) (x : GroomSt) : State := modOst s fun o => { o with grooms := sset .running o.grooms g x }

/-- An update among the Grooms stops with ABORTED. -/
def groomUpdateStopped (s : State) : State :=
  if s.boot.status = 3 then modBoot s fun b => { b with status := 6, groomsDone := 0, dieNow := 0 } else s

/-- The update takes this Groom's die at present (R476). -/
def updatesGroom (s : State) (g : Nat) : Prop :=
  s.boot.status = 3 ∧ s.boot.groomsDone < 12 ∧ (updateOrder s).getD s.boot.dieNow 0 = g

/-- The firmware that a Groom runs after a restart outside an update: an aborted one leaves the running slot's (R478). -/
def restartVersion (s : State) (g : Nat) : W32 :=
  if s.boot.status = 6 then slotVersion s s.boot.running else sget 0 s.ost.groomFw g

/-- A Groom runs again, with its firmware's version, and its die's buffer is empty. -/
def groomBack (s : State) (g : Nat) (fw : W32) : State :=
  modOst s fun o => { o with
    grooms := sset .running o.grooms g .running, groomFw := sset 0 o.groomFw g fw, beats := sset 0 o.beats g o.time,
    waiting := sset [] o.waiting g [], overflow := sset false o.overflow g false }

/-- A report that says nothing of its unit. -/
def bareInfo : ReportInfo := { resetOk := true, lines := [], engines := [] }

/-- The reports that waited for a Groom are taken, in order. -/
def waitingTaken (s : State) (g : Nat) (t : State) : State :=
  (sget [] s.ost.waiting g).foldl (fun t u => takeReport t u bareInfo) t

section
variable {s : State} {g : Nat} {resetOk : Bool} {lines engines : List Nat}

theorem execGroomSilent_of_heard
    (h : 12 ≤ g ∨ sget .running s.ost.grooms g ≠ .running ∨ s.ost.time < sget 0 s.ost.beats g + 10000000) :
    execGroomSilent g resetOk lines engines s = .next s := congrArg ok (if_pos h)

theorem execGroomSilent_of_silent (hg : g < 12) (hrun : sget .running s.ost.grooms g = .running)
    (hlate : sget 0 s.ost.beats g + 10000000 ≤ s.ost.time) : execGroomSilent g resetOk lines engines s =
      .next (takeReport (groomSet s g .silent) (groomUnit g) ⟨resetOk, lines, engines⟩) := by
  refine congrArg ok (if_neg ?_)
  rintro (hout | hother | hheard)
  · exact Nat.not_le.mpr hg hout
  · exact hother hrun
  · exact Nat.not_lt.mpr hlate hheard

theorem execGroomWatchdogRestart_of_running (hg : g < 12) (hrun : sget .running s.ost.grooms g = .running) :
    execGroomWatchdogRestart g s = .next (modOst s fun o =>
      { o with grooms := sset .running o.grooms g .restarting, groomRestarts := o.groomRestarts + 1 }) := by
  refine congrArg ok (if_neg ?_)
  rintro (hout | hother)
  · exact Nat.not_le.mpr hg hout
  · exact hother hrun

section
variable (h : sget .running s.ost.grooms g ≠ .restarting)
include h

theorem execGroomReportTimeout_of_other : execGroomReportTimeout g resetOk lines engines s = .next s := congrArg ok (if_pos h)

theorem execGroomRestartReport_of_other : execGroomRestartReport g s = .next s := congrArg ok (if_pos h)
end

section
variable (h : sget .running s.ost.grooms g = .restarting)
include h

theorem execGroomReportTimeout_of_restarting : execGroomReportTimeout g resetOk lines engines s =
    .next (takeReport (groomUpdateStopped (groomSet s g .silent)) (groomUnit g) ⟨resetOk, lines, engines⟩) :=
  congrArg ok (if_neg (not_not.mpr h))

section
variable (hown : ¬ updatesGroom s g)
include hown

/-- A restart outside an update: the waiting reports are taken, then the die is reported where its buffer overflowed. -/
theorem execGroomRestartReport_of_restarting :
    execGroomRestartReport g s = .next (if sget false s.ost.overflow g = true
      then takeReport (waitingTaken s g (groomBack s g (restartVersion s g))) (groomUnit g) bareInfo
      else waitingTaken s g (groomBack s g (restartVersion s g))) := by
  unfold updatesGroom at hown
  simp only [execGroomRestartReport, h, ne_eq, not_true, if_false, if_neg hown]
  rfl

theorem execGroomRestartReport_of_kept (hroom : sget false s.ost.overflow g = false) :
    execGroomRestartReport g s = .next (waitingTaken s g (groomBack s g (restartVersion s g))) :=
  (execGroomRestartReport_of_restarting h hown).trans (congrArg ok (if_neg (Bool.eq_false_iff.mp hroom)))

theorem execGroomRestartReport_of_overflow (hover : sget false s.ost.overflow g = true) : execGroomRestartReport g s =
    .next (takeReport (waitingTaken s g (groomBack s g (restartVersion s g))) (groomUnit g) bareInfo) :=
  (execGroomRestartReport_of_restarting h hown).trans (congrArg ok (if_pos hover))
end
end
end

/-! ### The statement -/

/-- Settles O57: the role by the standby's state, the standby's own way, the management ring by the epoch, each Groom by its state, and
the package with no role. -/
theorem ostlerRoleHeartbeatsAndGrooms : Obligations.OstlerRoleHeartbeatsAndGrooms := by
  intro s g epoch cmd dies lost lines engines resetOk ost abort info plain state now starts stops fw back took
  refine ⟨execOstlerHeartbeat_of_serving, execStandbyTakeover_of_ready, execStandbyTakeover_of_not_ready,
    execStandbyTakeover_of_no_firmware, ?passed, fun h => ok_ownWrite_of_ok (requestHandover_of_ready h),
    fun h => ok_ownWrite_of_error (requestHandover_of_not_ready h), execStandbySelfTestPass_of_starts,
    execStandbySelfTestPass_of_not_starts, execStandbySyncComplete_of_syncing, execStandbySyncComplete_of_other,
    execMgmtRingCommand_of_stale, fun hnow => ⟨execMgmtRingCommand_none hnow, execMgmtRingCommand_drain hnow,
      fun d duty => execMgmtRingCommand_rein hnow duty⟩, rfl, execGroomSilent_of_heard, execGroomSilent_of_silent,
    execGroomReportTimeout_of_restarting, fun h => ⟨execGroomReportTimeout_of_other h, execGroomRestartReport_of_other h⟩,
    execGroomWatchdogRestart_of_running, ?back, execGroomHoldTimeout_of_failed, execGroomHoldTimeout_of_held⟩
  case passed =>
    intro planned
    have hrole := takeover_roleFields s planned []
    obtain ⟨host, hboot⟩ := Prod.mk.inj hrole
    obtain ⟨hevidence, hleaves⟩ := Prod.mk.inj hboot
    obtain ⟨hnext, hend⟩ := Prod.mk.inj hleaves
    exact ⟨congrArg Ostler.active host, congrArg Ostler.epoch host, congrArg Ostler.standby host, hevidence, hnext.trans hend.symm,
      congrArg Ostler.handovers host⟩
  case back =>
    intro hrestart hstatus
    have hown : ¬ updatesGroom s g := fun ⟨hupdating, _, _⟩ => hstatus hupdating
    exact ⟨execGroomRestartReport_of_kept hrestart hown, execGroomRestartReport_of_overflow hrestart hown⟩

end Sys2Proof.Machine
end

section
/-! A step of the block: the command at the front of its queue, or none. -/

namespace Sys2Proof.Machine

@[simp] theorem step_cons (c : Instr) (s : State) (q : List Instr) :
    step { s with pending := c :: q } = exec c { s with pending := q } := rfl

theorem step_of_empty {s : State} (h : s.pending = []) : step s = .next s := by
  simp only [step, h]

/-- Settles O1: the queue is matched on its front. -/
theorem stepRunsTheFrontCommand : Obligations.StepRunsTheFrontCommand := step_cons

/-- Settles O2: the queue is matched on its front, and there is none. -/
theorem emptyQueueLeavesTheBlockAlone : Obligations.EmptyQueueLeavesTheBlockAlone := fun _ => step_of_empty

end Sys2Proof.Machine
end

section
/-! MCTP control commands and I3C addresses (R421). -/

namespace Sys2Proof.Machine

/-- An endpoint ID is set. -/
def endpointNamed (s : State) (eid : Nat) : State := modOst s fun o => { o with eid := eid }

/-- A dynamic address is taken. -/
def addressTaken (s : State) (addr : Nat) : State := modOst s fun o => { o with i3c := addr }

section
variable {s : State} {op eid type selector addr target cmd : Nat} {r : List Byte}

theorem dictServed_endpointNamed (s : State) (eid : Nat) : dictServed (endpointNamed s eid) = dictServed s := rfl

theorem control_of_served (h : dictServed s = true) : control s cmd r = sendFrame s (.control cmd) r := if_pos h

theorem control_of_unserved (h : dictServed s = false) : control s cmd r = s := if_neg (Bool.eq_false_iff.mp h)

/-! ### While the Ostler serves -/

section
variable (h : dictServed s = true)
include h

theorem execMctpSetEndpointId_of_valid (hset : op < 2 ∧ 8 ≤ eid ∧ eid < 255) : execMctpSetEndpointId op eid s =
    .next (sendFrame (endpointNamed s eid) (.control 1) [0, 0, BitVec.ofNat 8 eid, 0]) := by
  refine congrArg ok ((if_pos hset).trans ?_)
  rw [if_pos h]
  exact control_of_served ((dictServed_endpointNamed s eid).trans h)

theorem execMctpSetEndpointId_of_invalid (hset : ¬ (op < 2 ∧ 8 ≤ eid ∧ eid < 255)) :
    execMctpSetEndpointId op eid s = .next (sendFrame s (.control 1) [2]) :=
  congrArg ok ((if_neg hset).trans (control_of_served h))

theorem execMctpGetEndpointId_of_served :
    execMctpGetEndpointId s = .next (sendFrame s (.control 2) [0, BitVec.ofNat 8 s.ost.eid, 0, 0]) :=
  congrArg ok (control_of_served h)

theorem execMctpGetVersionSupport_of_known (htype : type = 0xFF ∨ type = 0 ∨ type = 0x7E) : execMctpGetVersionSupport type s =
    .next (sendFrame s (.control 4) ([0, 1] ++ (List.range 4).map fun i => Config.mctpByte (4 * type + i))) :=
  congrArg ok ((if_pos htype).trans (control_of_served h))

theorem execMctpGetVersionSupport_of_unknown (htype : ¬ (type = 0xFF ∨ type = 0 ∨ type = 0x7E)) :
    execMctpGetVersionSupport type s = .next (sendFrame s (.control 4) [0x80]) :=
  congrArg ok ((if_neg htype).trans (control_of_served h))

theorem execMctpGetMessageTypeSupport_of_served :
    execMctpGetMessageTypeSupport s = .next (sendFrame s (.control 5) [0, 1, 0x7E]) :=
  congrArg ok (control_of_served h)

theorem execMctpGetVendorMsgSupport_of_first (hsel : selector = 0) : execMctpGetVendorMsgSupport selector s =
    .next (sendFrame s (.control 6)
      ([0, 0xFF, 1, 0, 0, 0xC1, 0xE5] ++ (List.range 2).map fun i => Config.mctpByte (1024 + i))) :=
  congrArg ok ((if_pos hsel).trans (control_of_served h))

theorem execMctpGetVendorMsgSupport_of_other (hsel : selector ≠ 0) :
    execMctpGetVendorMsgSupport selector s = .next (sendFrame s (.control 6) [2]) :=
  congrArg ok ((if_neg hsel).trans (control_of_served h))

theorem execI3cEntdaa_of_free (hfree : s.ost.i3c = 0) : execI3cEntdaa addr s = .next (addressTaken s addr) :=
  congrArg ok (if_pos ⟨h, hfree⟩)

theorem execI3cSetdasa_of_free (hfree : s.ost.i3c = 0) (hmeant : target = od s 0x1100 4) :
    execI3cSetdasa target addr s = .next (addressTaken s addr) :=
  congrArg ok (if_pos ⟨h, hfree, hmeant⟩)
end

/-! ### Addresses that are not taken -/

section
variable (h : s.ost.i3c ≠ 0 ∨ dictServed s = false)
include h

theorem not_free_of_held : ¬ (dictServed s = true ∧ s.ost.i3c = 0) := by
  rintro ⟨hserved, hfree⟩
  exact h.elim (absurd hfree) (absurd hserved ∘ Bool.eq_false_iff.mp)

theorem execI3cEntdaa_of_held : execI3cEntdaa addr s = .next s := congrArg ok (if_neg (not_free_of_held h))

theorem execI3cSetdasa_of_held : execI3cSetdasa target addr s = .next s :=
  congrArg ok (if_neg fun ⟨hserved, hfree, _⟩ => not_free_of_held h ⟨hserved, hfree⟩)
end

theorem execI3cSetdasa_of_not_meant (h : target ≠ od s 0x1100 4) : execI3cSetdasa target addr s = .next s :=
  congrArg ok (if_neg fun ⟨_, _, hmeant⟩ => h hmeant)

/-! ### While no Ostler serves -/

section
variable (h : dictServed s = false)
include h

theorem execMctpSetEndpointId_of_unserved : execMctpSetEndpointId op eid s = .next s := by
  unfold execMctpSetEndpointId
  rw [if_neg (Bool.eq_false_iff.mp h), control_of_unserved h, control_of_unserved h, ite_self]
  rfl

theorem execMctpGetEndpointId_of_unserved : execMctpGetEndpointId s = .next s := congrArg ok (control_of_unserved h)

theorem execMctpGetVersionSupport_of_unserved : execMctpGetVersionSupport type s = .next s := by
  unfold execMctpGetVersionSupport
  rw [control_of_unserved h, control_of_unserved h, ite_self]
  rfl

theorem execMctpGetMessageTypeSupport_of_unserved : execMctpGetMessageTypeSupport s = .next s :=
  congrArg ok (control_of_unserved h)

theorem execMctpGetVendorMsgSupport_of_unserved : execMctpGetVendorMsgSupport selector s = .next s := by
  unfold execMctpGetVendorMsgSupport
  rw [control_of_unserved h, control_of_unserved h, ite_self]
  rfl
end
end

/-! ### The statement -/

/-- Settles O60: each control command by its operand while the Ostler serves, the addresses by what is held and meant, and silence while
no Ostler serves. -/
theorem mctpAndI3cGiveTheOstlerItsAddresses : Obligations.MctpAndI3cGiveTheOstlerItsAddresses := by
  intro s op eid type selector addr target sent named free given sets versions
  exact ⟨fun h => ⟨execMctpSetEndpointId_of_valid h, execMctpSetEndpointId_of_invalid h, execMctpGetEndpointId_of_served h,
      execMctpGetVersionSupport_of_known h, execMctpGetVersionSupport_of_unknown h, execMctpGetMessageTypeSupport_of_served h,
      execMctpGetVendorMsgSupport_of_first h, execMctpGetVendorMsgSupport_of_other h, execI3cEntdaa_of_free h,
      execI3cSetdasa_of_free h⟩,
    fun h => ⟨execI3cEntdaa_of_held h, execI3cSetdasa_of_held h⟩, execI3cSetdasa_of_not_meant,
    fun h => ⟨execMctpSetEndpointId_of_unserved h, execMctpGetEndpointId_of_unserved h, execMctpGetVersionSupport_of_unserved h,
      execMctpGetMessageTypeSupport_of_unserved h, execMctpGetVendorMsgSupport_of_unserved h⟩⟩

end Sys2Proof.Machine
end

section
/-! The ladder of containment (R377 to R379, R410): an error report as it is taken, waits for a Groom that restarts, or covers its die,
and the clear of a handling. -/

namespace Sys2Proof.Machine

/-- The unit of a handling. -/
def handledUnit (x : Handling) : Nat × Nat := (x.kind, x.unit)

/-- A handling of its own for a reported unit. -/
def ownHandling (u : Nat × Nat) : Handling := { kind := u.1, unit := u.2, level := levelOf u.1 }

/-- A handling is of a unit, or of one that the unit encloses. -/
def handlesWithin (u : Nat × Nat) (x : Handling) : Bool := handledUnit x == u || encloses u (handledUnit x)

/-- The handlings of a unit and of what it encloses end, and an escalation is counted. -/
def escalationOpened (s : State) (u : Nat × Nat) : State :=
  modContain s fun c => { c with
    escalations := c.escalations + 1, active := c.active.filter fun x => !handlesWithin u x }

/-- The handling of the next unit outward, with all reports of what it takes in. -/
def outerHandling (s : State) (u : Nat × Nat) : Handling :=
  let p := (outerOf u.1 u.2).getD (0, 0)
  { kind := p.1, unit := p.2, level := levelOf p.1,
    reports := 1 + ((s.contain.active.filter (handlesWithin u)).map Handling.reports).sum }

/-- The handling of a unit's die. -/
def dieHandling (u : Nat × Nat) : Handling := { kind := (dieOfUnit u).1, unit := (dieOfUnit u).2, level := 5 }

/-! ### A report that is taken (R378, R379) -/

section
variable {s : State} {u : Nat × Nat} {i : ReportInfo}

theorem takeReport_of_under_way (h : s.contain.active.any (handlesWithin u) = true) :
    takeReport s u i = startHandling (escalationOpened s u) (outerHandling s u) i := if_pos h

section
variable (hnone : s.contain.active.any (handlesWithin u) = false)
include hnone

theorem takeReport_of_enclosed (h : (s.contain.active.any fun x => encloses (handledUnit x) u) = true) :
    takeReport s u i = noteUnit (modContain s fun c => { c with absorbed := c.absorbed + 1 }) 13 5 1 u.1 u.2 [] :=
  (if_neg (Bool.eq_false_iff.mp hnone)).trans (if_pos h)

section
variable (hfree : (s.contain.active.any fun x => encloses (handledUnit x) u) = false)
include hfree

theorem takeReport_of_room (h : s.contain.active.length < 8) : takeReport s u i = startHandling s (ownHandling u) i :=
  (if_neg (Bool.eq_false_iff.mp hnone)).trans ((if_neg (Bool.eq_false_iff.mp hfree)).trans (if_pos h))

theorem takeReport_of_full (h : 8 ≤ s.contain.active.length) : takeReport s u i =
    if s.contain.queue.length < 256 then modContain s fun c => { c with queue := enqueueReport c.queue (ownHandling u) }
    else startHandling s (dieHandling u) i :=
  (if_neg (Bool.eq_false_iff.mp hnone)).trans ((if_neg (Bool.eq_false_iff.mp hfree)).trans (if_neg (Nat.not_lt.mpr h)))
end
end

/-! ### A report that reaches the Ostler, or waits (R410) -/

theorem reportUnit_of_served (h : ∀ g, groomOf u = some g → sget .running s.ost.grooms g ≠ .restarting) :
    reportUnit s u i = takeReport s u i := by
  unfold reportUnit
  cases hgroom : groomOf u with
  | none => rfl
  | some g => exact if_pos (bne_iff_ne.mpr (h g hgroom))

theorem reportUnit_of_restarting {g : Nat} (hgroom : groomOf u = some g)
    (hrestart : sget .running s.ost.grooms g = .restarting) : reportUnit s u i =
    if (sget [] s.ost.waiting g).length < 64 then
      modOst s fun o => { o with waiting := sset [] o.waiting g (sget [] o.waiting g ++ [u]) }
    else modOst s fun o => { o with overflow := sset false o.overflow g true } := by
  unfold reportUnit
  simp only [hgroom, hrestart, bne_self_eq_false, Bool.false_eq_true, if_false]
  rfl
end

/-! ### The queue of reports (R378) -/

/-- A report goes behind all that wait where none of them is of a lower level. -/
theorem enqueueReport_eq_append_iff (q : List Handling) (h : Handling) :
    q ++ [h] = enqueueReport q h ↔ ∀ x ∈ q, h.level ≤ x.level := by
  have hwhole : enqueueReport [] h = [h] := rfl
  induction q with
  | nil => simp [hwhole]
  | cons y q ih =>
    by_cases hy : h.level ≤ y.level
    · have hskip : enqueueReport (y :: q) h = y :: enqueueReport q h := by
        simp [enqueueReport, hy]
      simp [hskip, hy, ih]
    · have hfront : enqueueReport (y :: q) h = h :: y :: q := by
        simp [enqueueReport, hy]
      have hne : y ≠ h := fun heq => hy (heq ▸ le_refl _)
      simp [hfront, hy, hne]

/-! ### A handling that is cleared -/

/-- A handling of a unit is under way. -/
def underWay (s : State) (u : Nat × Nat) : Bool := s.contain.active.any fun x => x.kind == u.1 && x.unit == u.2

/-- A unit's handling is taken off, its fault cleared, and the clear recorded. -/
def handlingCleared (s : State) (u : Nat × Nat) : State :=
  noteUnit (clearFault (modContain s fun c => { c with
    active := c.active.filter fun x => !(x.kind == u.1 && x.unit == u.2) }) u) 13 6 0 u.1 u.2 []

section
variable {s : State} {kind unit : Nat}

theorem execContainmentClear_of_none (h : underWay s (kind, unit) = false) : execContainmentClear kind unit s = .next s :=
  congrArg ok (if_pos (congrArg not h))

section
variable (h : underWay s (kind, unit) = true)
include h

theorem execContainmentClear_of_last (hlast : (handlingCleared s (kind, unit)).contain.queue = []
    ∨ 8 ≤ (handlingCleared s (kind, unit)).contain.active.length) :
    execContainmentClear kind unit s = .next (handlingCleared s (kind, unit)) := by
  refine congrArg ok ((if_neg (Bool.eq_false_iff.mp (congrArg not h))).trans ?_)
  dsimp only
  split
  · rfl
  case h_2 hqueue => exact if_pos (hlast.resolve_left fun hnil => List.cons_ne_nil _ _ (hqueue.symm.trans hnil))

theorem execContainmentClear_of_next {x : Handling} {q : List Handling}
    (hqueue : (handlingCleared s (kind, unit)).contain.queue = x :: q)
    (hroom : (handlingCleared s (kind, unit)).contain.active.length < 8) :
    execContainmentClear kind unit s = .next (startHandling
      (modContain (handlingCleared s (kind, unit)) fun c => { c with queue := q }) x bareInfo) := by
  refine congrArg ok ((if_neg (Bool.eq_false_iff.mp (congrArg not h))).trans ?_)
  dsimp only
  split
  case h_1 hnil => exact absurd (hqueue.symm.trans hnil) (List.cons_ne_nil _ _)
  case h_2 hcons =>
    obtain ⟨rfl, rfl⟩ := List.cons.inj (hqueue.symm.trans hcons)
    exact if_neg (Nat.not_le.mpr hroom)
end
end

/-! ### The statement -/

/-- Settles O53: a report by the Groom of its die and by what is under way and queued, then the clear of a handling. -/
theorem reportsAreEscalatedAbsorbedOrQueued : Obligations.ReportsAreEscalatedAbsorbedOrQueued := by
  intro s kind unit resetOk lines engines h q u i none_ named cont own outer meets under over_ old raised opened die whole serves w
    told closed cleared inside sum
  refine ⟨rfl, ?served, ?restarting, enqueueReport_eq_append_iff q h, execContainmentClear_of_none,
    fun hunder => ⟨execContainmentClear_of_last hunder, execContainmentClear_of_next hunder⟩⟩
  case served =>
    intro hserves
    have htold : told = .next (takeReport s u i) := congrArg ok (reportUnit_of_served hserves)
    rw [htold]
    refine ⟨fun hunder => congrArg ok (takeReport_of_under_way hunder),
      fun hnone hover => congrArg ok (takeReport_of_enclosed hnone hover), fun hnone hfree =>
      ⟨fun hroom => congrArg ok (takeReport_of_room hnone hfree hroom), fun hfull => ⟨fun hqueue => ?_, fun hqueue => ?_⟩⟩⟩
    · exact congrArg ok ((takeReport_of_full hnone hfree hfull).trans (if_pos hqueue))
    · exact congrArg ok ((takeReport_of_full hnone hfree hfull).trans (if_neg (Nat.not_lt.mpr hqueue)))
  case restarting =>
    intro g hgroom hrestart
    have htold := congrArg ok (reportUnit_of_restarting (i := i) hgroom hrestart)
    exact ⟨fun hroom => htold.trans (congrArg ok (if_pos hroom)),
      fun hfull => htold.trans (congrArg ok (if_neg (Nat.not_lt.mpr hfull)))⟩

end Sys2Proof.Machine
end

section
/-! Gait monitors, rein and breaches, slew and coolant demand (R425, R431 to R437, R490): each command by what its measurement, the
state of its unit and the time allow. -/

namespace Sys2Proof.Machine

/-! ### Gait monitors (R425, R437) -/

/-- The clusters of a cluster's die that are in service, apart from itself. -/
def clustersBeside (s : State) (k : Nat) : List Nat :=
  ((List.range 12).map (k / 12 * 12 + ·)).filter fun j => j != k && !sget false s.contain.clOut j

/-- CAL after a live calibration: toward live / PRED by no more than 0.5 % of what it was. -/
def calibrated (s : State) (k pred live : Nat) : Nat :=
  if calOf s k < live * 1000000 / pred then min (live * 1000000 / pred) (calOf s k + calOf s k * 5 / 1000)
  else max (live * 1000000 / pred) (calOf s k - calOf s k * 5 / 1000)

section
variable {s : State} {k pred live cal : Nat}

theorem execGaitMonitorSample_of_sound (h : (monOf s k).faulty = false) :
    execGaitMonitorSample k pred live s = .next (modMon s k fun m => { m with gait := pred * calOf s k / 1000000 }) :=
  congrArg (fun g => ok (modMon s k fun m => { m with gait := g })) (if_pos (congrArg not h))

section
variable (h : (monOf s k).faulty = true)
include h

theorem execGaitMonitorSample_of_busy (hlive : 0 < live) :
    execGaitMonitorSample k pred live s = .next (modMon s k fun m => { m with gait := live * 97 / 100 }) :=
  congrArg (fun g => ok (modMon s k fun m => { m with gait := g }))
    ((if_neg (Bool.eq_false_iff.mp (congrArg not h))).trans (if_pos hlive))

theorem execGaitMonitorSample_of_idle (hlive : live = 0) : execGaitMonitorSample k pred live s = .next (modMon s k fun m =>
    { m with gait := ((clustersBeside s k).map fun j => (monOf s j).gait).min?.getD 0 }) :=
  congrArg (fun g => ok (modMon s k fun m => { m with gait := g }))
    ((if_neg (Bool.eq_false_iff.mp (congrArg not h))).trans (if_neg (by omega)))
end

theorem execLiveCalibration_of_zero (h : pred = 0) : execLiveCalibration k pred live s = .next s := congrArg ok (if_pos h)

theorem execLiveCalibration_of_kept (h : pred ≠ 0) (hlow : 850000 ≤ calibrated s k pred live)
    (hhigh : calibrated s k pred live ≤ 1150000) : execLiveCalibration k pred live s =
    .next (modMon s k fun m => { m with cal := some (calibrated s k pred live) }) :=
  congrArg ok ((if_neg h).trans (if_neg (by unfold calibrated at hlow hhigh; omega)))

theorem execLiveCalibration_of_lost (h : pred ≠ 0)
    (hout : calibrated s k pred live < 850000 ∨ 1150000 < calibrated s k pred live) : execLiveCalibration k pred live s =
    .next (noteUnit (modMon s k fun m => { m with faulty := true }) 10 4 2 3 k [BitVec.ofNat 64 (calibrated s k pred live)]) :=
  congrArg ok ((if_neg h).trans (if_pos hout))

theorem execReplicaSelfCheck_of_sound (h : (monOf s k).faulty = true) (hlow : 850000 ≤ cal) (hhigh : cal ≤ 1150000) :
    execReplicaSelfCheck k cal s = .next (modMon s k fun m => { m with faulty := false, cal := some cal }) :=
  congrArg ok (if_pos ⟨h, hlow, hhigh⟩)

theorem execReplicaSelfCheck_of_other (h : (monOf s k).faulty = false ∨ cal < 850000 ∨ 1150000 < cal) :
    execReplicaSelfCheck k cal s = .next s := by
  refine congrArg ok (if_neg ?_)
  rintro ⟨hfaulty, hlow, hhigh⟩
  obtain hsound | hless | hmore := h
  · exact Bool.eq_false_iff.mp hsound hfaulty
  · exact Nat.not_le.mpr hless hlow
  · exact Nat.not_le.mpr hmore hhigh
end

/-! ### Rein and breaches (R431 to R434, R490) -/

section
variable {s : State} {die power : Nat}

theorem execGroomPowerSample_of_above (h : 12 * (dieOf s die).cap < 10 * power) (hdie : die < 8) :
    execGroomPowerSample die power s =
      .next (startBreach (applyRein (modDie s die fun x => { x with groomRein := true }) die) die 2) :=
  congrArg ok (if_pos ⟨h, hdie⟩)

theorem execGroomPowerSample_of_below (h : 10 * power ≤ 12 * (dieOf s die).cap ∨ 8 ≤ die) :
    execGroomPowerSample die power s = .next s :=
  congrArg ok (if_neg (by omega))

theorem execAvsbusRetry_of_good {good : Bool} (hgood : good = true) (hfail : (dieOf s die).avsFail = true) :
    execAvsbusRetry die good s = .next (applyRein (modDie s die fun x => { x with avsFail := false }) die) :=
  congrArg ok (if_pos ⟨hgood, hfail⟩)

theorem execAvsbusRetry_of_other {good : Bool} (h : good = false ∨ (dieOf s die).avsFail = false) :
    execAvsbusRetry die good s = .next s :=
  congrArg ok (if_neg fun ⟨hgood, hfail⟩ => h.elim (Bool.eq_false_iff.mp · hgood) (Bool.eq_false_iff.mp · hfail))

/-- The brake is on, and counted. -/
def brakeTaken (s : State) : State := modLands s fun l => { l with brake := true, brakeEvents := l.brakeEvents + 1 }

/-- The compute dies in service are reined, each with a breach of the rein. -/
def diesReined (s : State) : State := (diesIn s).foldl (fun t d => startBreach (applyRein t d) d 2) s

/-- Both host dies are slowed to the brake's frequency. -/
def hostsSlowed (s : State) : State :=
  { s with hosts := { s.hosts with freq := sset 3600 (sset 3600 s.hosts.freq 0 800) 1 800 } }

theorem execPowerBrakeAssert_of_off (h : s.lands.brake = false) :
    execPowerBrakeAssert s = .next (hostsSlowed (diesReined (brakeTaken s))) :=
  congrArg ok (if_neg (Bool.eq_false_iff.mp h))

theorem execPowerBrakeAssert_of_on (h : s.lands.brake = true) : execPowerBrakeAssert s = .next s := congrArg ok (if_pos h)

/-- The record of a breach's end. -/
def breachEnded (s : State) (b : Breach) : Event :=
  { area := 10, num := 2, sev := 0, kind := 4, unit := b.die,
    params := [BitVec.ofNat 64 b.die, BitVec.ofNat 64 b.cause, BitVec.ofNat 64 (s.ost.time - b.start)] }

/-- The ends of breaches are recorded in their order, and nothing else changes. -/
theorem foldl_breachEnded (s t : State) (l : List Breach) :
    l.foldl (fun t b => { t with raised := t.raised ++ [breachEnded s b] }) t =
      { t with raised := t.raised ++ l.map (breachEnded s) } := by
  induction l generalizing t with
  | nil => simp
  | cons b l ih => simp [ih]

theorem execFloorBreachClear_of_held (h : breachHolds s = true ∨ s.ost.time < s.power.condAt + 100000000) :
    execFloorBreachClear s = .next s := congrArg ok (if_pos h)

theorem execFloorBreachClear_of_over (hnone : breachHolds s = false) (hlate : s.power.condAt + 100000000 ≤ s.ost.time) :
    execFloorBreachClear s = .next { s with
      power := { s.power with breaches := [] }, raised := s.raised ++ s.power.breaches.map (breachEnded s) } := by
  refine congrArg ok ((if_neg ?_).trans ?_)
  · rintro (hheld | hearly)
    · exact Bool.eq_false_iff.mp hnone hheld
    · exact Nat.not_le.mpr hearly hlate
  · exact congrArg (modPower · fun p => { p with breaches := [] }) (foldl_breachEnded s s s.power.breaches)
end

/-! ### Coolant demand (R436) -/

/-- The demand for a mean power: the larger of it and the ceiling, rounded up to 50 W. -/
def demandFor (s : State) (mean : Nat) : Nat := (max mean (s.power.ceiling.getD 0) + 49) / 50 * 50

/-- The demand is shown, and kept as the newest of ten. -/
def demandShown (s : State) (mean : Nat) : State :=
  modPower s fun p => { p with demand := demandFor s mean, demands := (demandFor s mean :: p.demands).take 10 }

section
variable {s : State} {mean : Nat}

theorem execCoolantDemandUpdate_of_rise (h : (s.power.demands.any fun x => decide (x + 500 < demandFor s mean)) = true) :
    execCoolantDemandUpdate mean s =
      .next (noteUnit (demandShown s mean) 10 3 1 0 0 [BitVec.ofNat 64 (demandFor s mean)]) :=
  congrArg ok (if_pos h)

theorem execCoolantDemandUpdate_of_steady (h : (s.power.demands.any fun x => decide (x + 500 < demandFor s mean)) = false) :
    execCoolantDemandUpdate mean s = .next (demandShown s mean) :=
  congrArg ok (if_neg (Bool.eq_false_iff.mp h))
end

/-! ### The statement -/

/-- Settles O50: the gait monitor's three commands by its fault and the calibration found, then rein, breaches, slew, demand and the
brake, each by its condition. -/
theorem gaitPowerAndBreachesAreKept : Obligations.GaitPowerAndBreachesAreKept := by
  refine ⟨?monitors, ?power⟩
  case monitors =>
    intro s k pred live cal m c want v mon others
    exact ⟨execGaitMonitorSample_of_sound, fun h => ⟨execGaitMonitorSample_of_busy h, execGaitMonitorSample_of_idle h⟩,
      execLiveCalibration_of_zero, fun h => ⟨execLiveCalibration_of_kept h, execLiveCalibration_of_lost h⟩,
      execReplicaSelfCheck_of_sound, execReplicaSelfCheck_of_other⟩
  case power =>
    intro s die power mean dies good full pw slew floor low missed slewed inService demand shown p ended braked reined
    exact ⟨execGroomPowerSample_of_above, execGroomPowerSample_of_below, execFloorBreachClear_of_held,
      fun hnone hlate => ⟨_, execFloorBreachClear_of_over hnone hlate, rfl, rfl, rfl, rfl⟩, rfl, execCoolantDemandUpdate_of_rise,
      execCoolantDemandUpdate_of_steady, execAvsbusRetry_of_good, execAvsbusRetry_of_other, execPowerBrakeAssert_of_off,
      execPowerBrakeAssert_of_on, rfl⟩

end Sys2Proof.Machine
end

section
/-! The rate governor (R429, R430, R432, R433, R440): what one interval does to a die by its gait, its power and its cap, the bounds of
the cap, and the interval of the package. -/

namespace Sys2Proof.Machine

/-! ### One die (R429) -/

/-- What a governed interval leaves: a setpoint within the regulator's range and a rein duty, with the cap and the power it went by. -/
def dieSet (s : State) (d power rest mv duty : Nat) : State :=
  applyRein (modDie s d fun x => { x with
    vddc := max 550 (min 850 mv), duty := duty, cap := (dieCap s d rest).1, last := power, groomRein := false, holdRein := false }) d

section
variable {s : State} {d power rest : Nat} (hbrake : s.lands.brake = false) (havs : (dieOf s d).avsFail = false)
include hbrake havs

theorem governDie_of_low_gait (hg : dieGait s d < 1600) : governDie s d power rest =
    if (dieOf s d).vddc = vmaxOf d
    then startBreach (dieSet s d power rest (min ((dieOf s d).vddc + 25) (vmaxOf d)) (dieOf s d).duty) d 1
    else dieSet s d power rest (min ((dieOf s d).vddc + 25) (vmaxOf d)) (dieOf s d).duty :=
  (if_neg (by simp [hbrake, havs])).trans (if_pos hg)

/-- A die below the floor gait whose voltage is at its limit breaches the floor. -/
theorem governDie_of_breach (hg : dieGait s d < 1600) (hv : (dieOf s d).vddc = vmaxOf d) :
    governDie s d power rest = startBreach (dieSet s d power rest (vmaxOf d) (dieOf s d).duty) d 1 := by
  rw [governDie_of_low_gait hbrake havs hg, if_pos hv, hv, min_eq_right (Nat.le_add_right _ _)]

section
variable (hg : 1600 ≤ dieGait s d)
include hg

theorem governDie_of_above_cap (hp : (dieCap s d rest).1 < power) : governDie s d power rest =
    if 1616 < dieGait s d then dieSet s d power rest ((dieOf s d).vddc - 5) (dieOf s d).duty
    else startBreach (dieSet s d power rest (dieOf s d).vddc (min ((dieOf s d).duty + 1) 16)) d (dieCap s d rest).2 :=
  (if_neg (by simp [hbrake, havs])).trans ((if_neg (Nat.not_lt.mpr hg)).trans (if_pos hp))

section
variable (hp : power ≤ (dieCap s d rest).1)
include hp

theorem governDie_of_eased (hduty : 0 < (dieOf s d).duty) (hlow : 100 * power < 98 * (dieCap s d rest).1) :
    governDie s d power rest = dieSet s d power rest (dieOf s d).vddc ((dieOf s d).duty - 1) :=
  (if_neg (by simp [hbrake, havs])).trans ((if_neg (Nat.not_lt.mpr hg)).trans ((if_neg (Nat.not_lt.mpr hp)).trans
    (if_pos ⟨hduty, hlow⟩)))

/-- Within its cap and not eased, a die's voltage follows its gait. -/
theorem governDie_of_not_eased (hkeep : (dieOf s d).duty = 0 ∨ 98 * (dieCap s d rest).1 ≤ 100 * power) :
    governDie s d power rest =
      if dieGait s d < 2000 ∧ 100 * power < 98 * (dieCap s d rest).1 ∧ (dieOf s d).vddc < vmaxOf d
      then dieSet s d power rest ((dieOf s d).vddc + 5) (dieOf s d).duty
      else if 2020 < dieGait s d then dieSet s d power rest ((dieOf s d).vddc - 5) (dieOf s d).duty
      else dieSet s d power rest (dieOf s d).vddc (dieOf s d).duty :=
  (if_neg (by simp [hbrake, havs])).trans ((if_neg (Nat.not_lt.mpr hg)).trans ((if_neg (Nat.not_lt.mpr hp)).trans
    (if_neg (by omega))))

theorem governDie_of_raised (hduty : (dieOf s d).duty = 0) (hslow : dieGait s d < 2000)
    (hlow : 100 * power < 98 * (dieCap s d rest).1) (hv : (dieOf s d).vddc < vmaxOf d) :
    governDie s d power rest = dieSet s d power rest ((dieOf s d).vddc + 5) 0 := by
  rw [governDie_of_not_eased hbrake havs hg hp (.inl hduty), if_pos ⟨hslow, hlow, hv⟩, hduty]

section
variable (hkeep : (dieOf s d).duty = 0 ∨ 98 * (dieCap s d rest).1 ≤ 100 * power)
include hkeep

theorem governDie_of_fast (hfast : 2020 < dieGait s d) :
    governDie s d power rest = dieSet s d power rest ((dieOf s d).vddc - 5) (dieOf s d).duty := by
  rw [governDie_of_not_eased hbrake havs hg hp hkeep, if_neg (by omega), if_pos hfast]

theorem governDie_of_nominal (hlow : 2000 ≤ dieGait s d) (hhigh : dieGait s d ≤ 2020) :
    governDie s d power rest = dieSet s d power rest (dieOf s d).vddc (dieOf s d).duty := by
  rw [governDie_of_not_eased hbrake havs hg hp hkeep, if_neg (by omega), if_neg (by omega)]
end
end
end
end

/-! ### The cap of a die (R430) -/

/-- A die's share of the package cap, after the power of everything but the compute dies. -/
def packageShare (s : State) (d rest : Nat) : Nat := shareOf s (od s 0x3000 1 - rest) d

/-- A die's cap before its ramp share: its own or its share of the package cap. -/
def dieBase (s : State) (d rest : Nat) : Nat := min (od s 0x3001 (d + 1)) (packageShare s d rest)

/-- A die's share of the ramp ceiling; with no ceiling the ramp does not bound it. -/
def dieRamp (s : State) (d rest : Nat) : Nat :=
  match s.power.ceiling with
  | some c => shareOf s (c - rest) d
  | none => dieBase s d rest

theorem dieCap_eq (s : State) (d rest : Nat) : dieCap s d rest =
    if (dieOf s d).slow then (min (min (dieBase s d rest) (dieRamp s d rest)) (95 * (dieOf s d).last / 100), 4)
    else if dieRamp s d rest < dieBase s d rest then (dieRamp s d rest, 3) else (dieBase s d rest, 2) := rfl

theorem dieCap_le_base (s : State) (d rest : Nat) : (dieCap s d rest).1 ≤ dieBase s d rest := by
  rw [dieCap_eq]
  split
  · exact (min_le_left _ _).trans (min_le_left _ _)
  · split
    case isTrue hramp => exact le_of_lt hramp
    case isFalse => exact le_refl _

theorem dieCap_of_slow {s : State} {d rest : Nat} (h : (dieOf s d).slow = true) :
    (dieCap s d rest).1 ≤ 95 * (dieOf s d).last / 100 ∧ (dieCap s d rest).2 = 4 := by
  rw [dieCap_eq, if_pos h]
  exact ⟨min_le_right _ _, rfl⟩

theorem reinOf_of_held {s : State} {d : Nat} (h : s.lands.brake = true ∨ (dieOf s d).groomRein = true ∨ (dieOf s d).holdRein = true
    ∨ (dieOf s d).avsFail = true) : reinOf s d = 16 :=
  if_pos (by simpa [or_assoc] using h)

/-! ### What an interval leaves alone -/

@[simp] theorem applyRein_ost (s : State) (d : Nat) : (applyRein s d).ost = s.ost := rfl

@[simp] theorem startBreach_ost (s : State) (d cause : Nat) : (startBreach s d cause).ost = s.ost := by
  unfold startBreach
  split <;> rfl

theorem governDie_ost (s : State) (d power rest : Nat) : (governDie s d power rest).ost = s.ost := by
  unfold governDie
  dsimp only
  repeat' split
  all_goals simp

theorem readTemps_keeps {γ : Type} (part : State → γ) (hpart : ∀ s f, part (modPower s f) = part s) (s : State)
    (ts hbm : List Int) : part (readTemps s ts hbm) = part s :=
  (foldl_keeps part _ (fun t _ => hpart t _) _ _).trans (hpart s _)

theorem readTemps_ost (s : State) (ts hbm : List Int) : (readTemps s ts hbm).ost = s.ost :=
  readTemps_keeps State.ost (fun _ _ => rfl) s ts hbm

theorem powered_modPower {s : State} {f : Power → Power} (hhobble : (f s.power).hobble = s.power.hobble)
    (hsleep : (f s.power).sleepState = s.power.sleepState) : powered (modPower s f) = powered s := by
  simp [powered, hhobble, hsleep]

theorem powered_readTemps (s : State) (ts hbm : List Int) : powered (readTemps s ts hbm) = powered s :=
  (foldl_keeps powered _ (fun _ _ => powered_modPower rfl rfl) _ _).trans (powered_modPower rfl rfl)

theorem od_readTemps (s : State) (ts hbm : List Int) (ix sub : Nat) : od (readTemps s ts hbm) ix sub = od s ix sub :=
  readTemps_keeps (fun t => od t ix sub) (fun _ _ => rfl) s ts hbm

/-! ### The interval (R429, R431, R440) -/

/-- A die in an interval: it is governed, and reined where its Groom restarts and its power is above 1.2 times its cap. -/
def dieInterval (powers : List Nat) (rest : Nat) (grooms : SMap GroomSt) (u : State) (k : Nat) : State :=
  let w := governDie u k (powers.getD k 0) rest
  if sget .running grooms k == .restarting && decide (12 * (dieOf w k).cap < 10 * powers.getD k 0) then
    startBreach (applyRein (modDie w k fun x => { x with holdRein := true }) k) k 2
  else w

theorem dieInterval_ost (powers : List Nat) (rest : Nat) (grooms : SMap GroomSt) (u : State) (k : Nat) :
    (dieInterval powers rest grooms u k).ost = u.ost := by
  unfold dieInterval
  dsimp only
  split
  · exact (startBreach_ost _ _ _).trans (governDie_ost _ _ _ _)
  · exact governDie_ost _ _ _ _

/-- The Grooms stay as they are from die to die, so each die may go by the Grooms as they stand. -/
theorem foldl_dieInterval (powers : List Nat) (rest : Nat) (grooms : SMap GroomSt) (l : List Nat) (s : State)
    (h : s.ost.grooms = grooms) : l.foldl (fun u k => dieInterval powers rest u.ost.grooms u k) s =
      l.foldl (dieInterval powers rest grooms) s := by
  induction l generalizing s with
  | nil => rfl
  | cons k l ih =>
    have hkeep : (dieInterval powers rest grooms s k).ost.grooms = grooms :=
      (congrArg Ostler.grooms (dieInterval_ost powers rest grooms s k)).trans h
    simp only [List.foldl_cons, h]
    exact ih _ hkeep

/-- The AVSBus of dies has failed three times: each is reined, with a breach. -/
def busesFailed (avs : List Nat) (t : State) : State :=
  avs.foldl (fun t d => startBreach (applyRein (modDie t d fun x => { x with avsFail := true }) d) d 6) t

/-- The dies in service in an interval, one after the other. -/
def diesInterval (powers : List Nat) (rest : Nat) (grooms : SMap GroomSt) (t : State) : State :=
  (diesIn t).foldl (dieInterval powers rest grooms) t

/-- Consecutive intervals above the package cap, with the one that ends. -/
def excessAfter (s : State) (total : Nat) : Nat := if od s 0x3000 1 < total then s.power.excess + 1 else 0

/-- The intervals above the package cap are counted; past 100 of them every die in service is reined further. -/
def packageReined (n : Nat) (s : State) : State :=
  let t := modPower s fun p => { p with excess := n }
  if n ≤ 100 then t else (diesIn t).foldl (fun t d =>
    startBreach (applyRein (modDie t d fun x => { x with duty := min 16 (x.duty + 1) }) d) d 2) t

/-- Both host dies are governed, cut where the package is above its cap with every compute die fully reined. -/
def hostsGoverned (above : Bool) (hosts : List Nat) (t : State) : State :=
  let cut := above && (diesIn t).all fun d => sget 0 t.rein d == 16
  governHost (governHost t 0 (hosts.getD 0 0) cut) 1 (hosts.getD 1 0) cut

/-- The time of a condition that holds is kept. -/
def conditionTimed (now : Nat) (t : State) : State :=
  if breachHolds t then modPower t fun p => { p with condAt := now } else t

theorem hostsGoverned_rein (above : Bool) (hosts : List Nat) (t : State) : (hostsGoverned above hosts t).rein = t.rein := rfl

theorem conditionTimed_rein (now : Nat) (t : State) : (conditionTimed now t).rein = t.rein := by
  unfold conditionTimed
  split <;> rfl

theorem packageReined_rein {n : Nat} (h : n ≤ 100) (s : State) : (packageReined n s).rein = s.rein :=
  (congrArg State.rein (if_pos h)).trans (modPower_rein s _)

section
variable {s : State} {powers hosts lost : List Nat} {other : Nat} {temps hbm : List Int}

theorem execGovernorInterval_of_hot {avs : List Nat}
    (h : temps.any (fun x => decide (115 ≤ x)) = true ∨ hbm.any (fun x => decide (105 ≤ x)) = true) :
    execGovernorInterval powers other hosts temps hbm avs lost s = .next (enterHobble (readTemps s temps hbm) 1 lost) :=
  congrArg ok (if_pos (Bool.or_eq_true_iff.mpr h))

section
variable (hcool : temps.any (fun x => decide (115 ≤ x)) = false) (hstack : hbm.any (fun x => decide (105 ≤ x)) = false)
  (hpow : powered (readTemps s temps hbm) = true) (hrole : (readTemps s temps hbm).ost.failed = false)
include hcool hstack hpow hrole

theorem execGovernorInterval_of_governed {avs : List Nat} : execGovernorInterval powers other hosts temps hbm avs lost s =
    .next (conditionTimed s.ost.time (hostsGoverned (decide (od s 0x3000 1 < other + hosts.sum + powers.sum)) hosts
      (packageReined (excessAfter s (other + hosts.sum + powers.sum))
        (diesInterval powers (other + hosts.sum) s.ost.grooms (busesFailed avs (readTemps s temps hbm)))))) := by
  have hbelow : ¬ (temps.any (fun x => decide (115 ≤ x)) || hbm.any (fun x => decide (105 ≤ x))) = true := by
    rw [hcool, hstack]
    decide
  have hserved : ¬ (!powered s || s.ost.failed) = true := by
    rw [← powered_readTemps s temps hbm, hpow, ← readTemps_ost s temps hbm, hrole]
    decide
  exact congrArg ok ((if_neg hbelow).trans (if_neg hserved))

/-- Within the package cap nothing after the dies' own intervals changes a rein. -/
theorem execGovernorInterval_rein (htotal : other + hosts.sum + powers.sum ≤ od (readTemps s temps hbm) 0x3000 1) :
    ∃ t, execGovernorInterval powers other hosts temps hbm [] lost s = .next t ∧
      t.rein = (diesInterval powers (other + hosts.sum) s.ost.grooms (readTemps s temps hbm)).rein := by
  have hexcess : excessAfter s (other + hosts.sum + powers.sum) = 0 :=
    if_neg (Nat.not_lt.mpr (htotal.trans_eq (od_readTemps s temps hbm _ _)))
  refine ⟨_, execGovernorInterval_of_governed hcool hstack hpow hrole, ?_⟩
  rw [conditionTimed_rein, hostsGoverned_rein, packageReined_rein (hexcess.trans_le (Nat.zero_le _))]
  rfl
end
end

/-! ### The statement -/

/-- Settles O51: one die by its gait, its power and its cap, the bounds of the cap, the rein that is held, and the interval by the
temperatures that it reads. -/
theorem governorStepsVoltageAndRein : Obligations.GovernorStepsVoltageAndRein := by
  intro s d power rest other hosts powers lost temps hbm p g c cause v top setTo
  refine ⟨fun hbrake havs => ⟨?low, fun hg hv => governDie_of_breach hbrake havs hg hv, ?fast, ?reined, ?within⟩, ?cap, reinOf_of_held,
    execGovernorInterval_of_hot, ?interval⟩
  case low =>
    intro hg hv
    exact (governDie_of_low_gait hbrake havs hg).trans (if_neg hv)
  case fast =>
    intro hfast hp
    exact (governDie_of_above_cap hbrake havs (by omega) hp).trans (if_pos hfast)
  case reined =>
    intro hg hnom hp
    exact (governDie_of_above_cap hbrake havs hg hp).trans (if_neg (Nat.not_lt.mpr hnom))
  case within =>
    intro hg hp
    exact ⟨governDie_of_eased hbrake havs hg hp, governDie_of_raised hbrake havs hg hp,
      governDie_of_fast hbrake havs hg hp, fun hlow hhigh hkeep => governDie_of_nominal hbrake havs hg hp hkeep hlow hhigh⟩
  case cap =>
    exact ⟨(dieCap_le_base s d rest).trans (min_le_left _ _), (dieCap_le_base s d rest).trans (min_le_right _ _), dieCap_of_slow⟩
  case interval =>
    intro hcool hstack hpow hrole htotal
    obtain ⟨t, hexec, hrein⟩ := execGovernorInterval_rein (lost := lost) hcool hstack hpow hrole htotal
    have hgrooms : (readTemps s temps hbm).ost.grooms = s.ost.grooms := congrArg Ostler.grooms (readTemps_ost s temps hbm)
    exact ⟨t, hexec, hrein.trans (congrArg State.rein (foldl_dieInterval powers (other + hosts.sum) _ _ _ hgrooms).symm)⟩

end Sys2Proof.Machine
end

section
/-! Hobble, sleep, rails and the test access port (R434, R438 to R444, R490): what enters Hobble and how it ends, sleep and its end,
sensors and retraining, the rails as their power good moves, and the TAP in its mode. -/

namespace Sys2Proof.Machine

/-! ### Hobble (R440 to R442) -/

/-- Every engine is stopped and every port is down. -/
def enginesSilenced (t : State) : State := (List.range 18).foldl portDown { t with engines := [], claims := [] }

/-- The host dies are held in reset, and VDDC and VDDH are switched off. -/
def suppliesOff (t : State) : State := { t with
  hosts := { t.hosts with dieReset := sset false (sset false t.hosts.dieReset 0 true) 1 true },
  lands := { t.lands with en := t.lands.en / 1024 * 1024, pg := t.lands.pg / 1024 * 1024 },
  power := { t.power with vddh := 0 } }

theorem powerDown_eq (t : State) (lost : List Nat) : powerDown t lost = abortUpdate ((List.range 8).foldl
    (fun t d => modDie t d fun p => { p with vddc := 0 }) (suppliesOff (flushAll (enginesSilenced t) lost))) := by
  unfold powerDown suppliesOff enginesSilenced
  dsimp only

/-- What Hobble leaves of the package: powered down, its copy of the Studbook kept, and the generations of dies, host dies and Relay units
raised. -/
def hobbleAged (s : State) (cause : Nat) (lost : List Nat) : State :=
  raiseGens (raiseGens (raiseGens (powerDown (freezeCopy s cause) lost) 4 8) 5 2) 16 2

/-- The package is in Hobble with its cause, no power sequence runs, and the entry is recorded. -/
def inHobble (t : State) (cause : Nat) : State :=
  noteUnit { t with
    power := { t.power with hobble := 2, cause := cause, sleepState := 0 },
    boot := { t.boot with seq := .none } } 10 6 6 0 0 [BitVec.ofNat 64 cause]

theorem inHobble_eq (t : State) (cause : Nat) :
    (let u := modPower t (fun p => { p with hobble := 2, cause := cause, sleepState := 0 });
     noteUnit { u with boot := { u.boot with seq := .none } } 10 6 6 0 0 [BitVec.ofNat 64 cause]) = inHobble t cause := rfl

/-- The rails come up to leave Hobble. -/
def hobbleLeaving (s : State) : State := startRails (modPower s fun p => { p with hobble := 3 }) .hobbleExit

/-- Hobble cannot end: the package is not in it, its cause has not cleared, or no Ostler serves. -/
def hobbleStays (s : State) : Prop := s.power.hobble ≠ 2 ∨ hobbleClear s = false ∨ s.ost.failed = true

section
variable {s : State} {cause : Nat} {lost : List Nat}

theorem enterHobble_of_in_hobble (h : s.power.hobble = 2) : enterHobble s cause lost = s := if_pos h

theorem enterHobble_of_out (h : s.power.hobble ≠ 2) : enterHobble s cause lost = inHobble (hobbleAged s cause lost) cause := by
  unfold enterHobble hobbleAged
  rw [if_neg h]
  exact inHobble_eq _ _

theorem enterHobble_power (h : s.power.hobble ≠ 2) :
    (enterHobble s cause lost).power.hobble = 2 ∧ (enterHobble s cause lost).power.cause = cause := by
  rw [enterHobble_of_out h]
  exact ⟨rfl, rfl⟩

theorem exitHobble_of_stays (h : hobbleStays s) : exitHobble s = .error aSTATE := if_pos h

theorem exitHobble_of_leaves (h : ¬ hobbleStays s) : exitHobble s = .ok (hobbleLeaving s) := if_neg h

theorem execHobbleAutoExit_of_stays (h : hobbleStays s) : execHobbleAutoExit s = .next s := by
  unfold execHobbleAutoExit
  rw [exitHobble_of_stays h, ite_self]
  rfl

theorem execHobbleAutoExit_of_enabled (h : ¬ hobbleStays s) (hauto : od s 0x3008 5 = 1) :
    execHobbleAutoExit s = .next (hobbleLeaving s) := by
  unfold execHobbleAutoExit
  rw [exitHobble_of_leaves h, if_pos hauto]
  rfl

theorem execHobbleAutoExit_of_disabled (hauto : od s 0x3008 5 ≠ 1) : execHobbleAutoExit s = .next s := congrArg ok (if_neg hauto)
end

/-- A time that is kept, if there is one, lies a wait back. -/
theorem waited_iff (t : Option Nat) (wait now : Nat) :
    (match t with | some t => decide (t + wait ≤ now) | none => true) = true ↔ ∀ u, t = some u → u + wait ≤ now := by
  cases t <;> simp

theorem hobbleClear_iff (s : State) : hobbleClear s = true ↔
    (∀ t, s.power.hotAt = some t → t + 10000000000 ≤ s.ost.time)
      ∧ (∀ t, s.power.supplyAt = some t → t + 100000000 ≤ s.ost.time) :=
  Bool.and_eq_true_iff.trans (and_congr (waited_iff _ _ _) (waited_iff _ _ _))

/-! ### Sleep (R443, R444) -/

/-- Some paddock in use is not stopped. -/
def padsActive (s : State) : Bool := s.pads.any fun e => e.2.st != .unused && e.2.st != .stopped

section
variable {s : State} {lost : List Nat}

theorem requestSleep_of_active (h : powered s = false ∨ padsActive s = true) : requestSleep s lost = .error aSTATE :=
  if_pos (Bool.or_eq_true_iff.mpr (h.imp_left (congrArg not)))

theorem requestSleep_of_still (hpow : powered s = true) (hpads : padsActive s = false) :
    requestSleep s lost = .ok (enterSleep s lost) := by
  unfold padsActive at hpads
  refine if_neg ?_
  rw [hpow, hpads]
  decide

theorem enterSleep_sleepState (s : State) (lost : List Nat) : (enterSleep s lost).power.sleepState = 2 := rfl

theorem execWakeNAssert_of_asleep (hbit : bitAt (od s 0x3009 3) 2 = true) (hsleep : s.power.sleepState = 2)
    (hhobble : s.power.hobble = 0) :
    execWakeNAssert s = .next (startRails (modPower s fun p => { p with sleepState := 3 }) .wake) :=
  congrArg ok ((if_pos hbit).trans (if_pos ⟨hsleep, hhobble⟩))

theorem execWakeNAssert_of_other (h : bitAt (od s 0x3009 3) 2 = false ∨ s.power.sleepState ≠ 2 ∨ s.power.hobble ≠ 0) :
    execWakeNAssert s = .next s := by
  refine congrArg ok (ite_eq_right_iff.mpr fun hbit => if_neg ?_)
  rintro ⟨hsleep, hhobble⟩
  obtain hclear | hawake | hhob := h
  · exact Bool.eq_false_iff.mp hclear hbit
  · exact hawake hsleep
  · exact hhob hhobble
end

/-! ### Rails (R490) -/

/-- A rail's power good is noted. -/
def goodNoted (s : State) (rail : Nat) : State := modLands s fun l => { l with pg := setBit l.pg rail }

/-- A rail whose enable is high and whose power good is low. -/
def railRises (s : State) (rail : Nat) : Prop := bitAt s.lands.en rail = true ∧ bitAt s.lands.pg rail = false ∧ rail ≤ 11

/-- A rail's power good is gone. -/
def goodLost (s : State) (rail : Nat) : State := modLands s fun l => { l with pg := clrBit l.pg rail }

section
variable {s : State} {rail : Nat} {failed : List (Nat × Nat)} {lost : List Nat}

theorem execPowerGoodRise_of_not_rises (h : ¬ railRises s rail) : execPowerGoodRise rail failed s = .next s := by
  refine congrArg ok (if_pos ?_)
  by_contra hnone
  simp only [Bool.or_eq_true, Bool.not_eq_true', decide_eq_true_eq, not_or, Bool.not_eq_false, Bool.not_eq_true, not_lt,
    and_assoc] at hnone
  exact h hnone

section
variable (h : railRises s rail)
include h

theorem execPowerGoodRise_of_rises : execPowerGoodRise rail failed s = .next (
    if s.boot.seq = .none ∨ s.boot.seq = .role then goodNoted s rail
    else if (nextRail (goodNoted s rail)).isSome then raiseRail (goodNoted s rail)
    else finishRails (goodNoted s rail) failed) := by
  obtain ⟨hen, hpg, hrail⟩ := h
  exact congrArg ok (if_neg (by simp [hen, hpg, hrail]))

theorem execPowerGoodRise_of_outside (hseq : s.boot.seq = .none ∨ s.boot.seq = .role) :
    execPowerGoodRise rail failed s = .next (goodNoted s rail) :=
  (execPowerGoodRise_of_rises h).trans (congrArg ok (if_pos hseq))

section
variable (hnone : s.boot.seq ≠ .none) (hrole : s.boot.seq ≠ .role)
include hnone hrole

theorem execPowerGoodRise_of_next {n : Nat} (hnext : nextRail (goodNoted s rail) = some n) : execPowerGoodRise rail failed s =
    .next (modLands (goodNoted s rail) fun l => { l with en := setBit l.en n }) := by
  rw [execPowerGoodRise_of_rises h, if_neg (not_or.mpr ⟨hnone, hrole⟩), if_pos (Option.isSome_iff_exists.mpr ⟨n, hnext⟩), raiseRail,
    hnext]

theorem execPowerGoodRise_of_last (hlast : nextRail (goodNoted s rail) = none) :
    execPowerGoodRise rail failed s = .next (finishRails (goodNoted s rail) failed) := by
  rw [execPowerGoodRise_of_rises h, if_neg (not_or.mpr ⟨hnone, hrole⟩), if_neg (by simp [hlast])]
end
end

theorem execPowerGoodTimeout_of_waiting (hen : bitAt s.lands.en rail = true) (hpg : bitAt s.lands.pg rail = false) :
    execPowerGoodTimeout rail lost s = .next (railFault s lost) :=
  congrArg ok (if_pos (by simp [hen, hpg]))

theorem execPowerGoodTimeout_of_other (h : bitAt s.lands.en rail = false ∨ bitAt s.lands.pg rail = true) :
    execPowerGoodTimeout rail lost s = .next s :=
  congrArg ok (if_neg (by obtain h | h := h <;> simp [h]))

theorem execPowerGoodFall_of_good (hen : bitAt s.lands.en rail = true) (hpg : bitAt s.lands.pg rail = true) :
    execPowerGoodFall rail lost s = .next (railFault (goodLost s rail) lost) :=
  congrArg ok (if_pos (by simp [hen, hpg]))

theorem execPowerGoodFall_of_other (h : bitAt s.lands.en rail = false ∨ bitAt s.lands.pg rail = false) :
    execPowerGoodFall rail lost s = .next (goodLost s rail) :=
  congrArg ok (if_neg (by obtain h | h := h <;> simp [h]))
end

/-! ### The test access port -/

theorem tapRun_of_scan {s : State} (h : s.boot.testMode = true) (ir : TapIr) (f : Lands → Lands) :
    tapRun s ir f = modLands s fun l => f { l with tap := ir } := if_pos h

theorem tapRun_of_run {s : State} (h : s.boot.testMode = false) (ir : TapIr) (f : Lands → Lands) : tapRun s ir f = s :=
  if_neg (Bool.eq_false_iff.mp h)

/-! ### The statement -/

/-- Settles O52: Hobble by its causes and by what lets it end, sleep by the paddocks and WAKE_N, sensors and scans, then a rail by its
enable and its power good, and the TAP by its mode. -/
theorem hobbleSleepRailsAndTheTestPort : Obligations.HobbleSleepRailsAndTheTestPort := by
  refine ⟨?hobble, ?rails⟩
  case hobble =>
    intro s die pc lost reads pw abort tripped unit leaving stays m bad silent off dark aged
    -- Each stage is named, so that the states are compared stage by stage and not field by field.
    have hsilent (t : State) : enginesSilenced t = silent t := rfl
    have hoff (t : State) : suppliesOff t = off t := rfl
    have hdark (t : State) : powerDown t lost = dark t := by rw [powerDown_eq, hsilent, hoff]
    have haged (cause : Nat) : hobbleAged s cause lost = aged cause := by rw [hobbleAged, hdark]
    refine ⟨rfl, rfl, rfl, fun cause => enterHobble_of_in_hobble, fun cause => enterHobble_power, ?entered,
      fun h => ⟨ok_ownWrite_of_error (exitHobble_of_stays h), execHobbleAutoExit_of_stays h⟩,
      fun h => ⟨ok_ownWrite_of_ok (exitHobble_of_leaves h), execHobbleAutoExit_of_enabled h, execHobbleAutoExit_of_disabled⟩,
      hobbleClear_iff s, fun h => ok_ownWrite_of_error (requestSleep_of_active h),
      fun hpow hpads => ⟨ok_ownWrite_of_ok (requestSleep_of_still hpow hpads), enterSleep_sleepState s lost⟩,
      execWakeNAssert_of_asleep, execWakeNAssert_of_other, rfl, rfl, rfl⟩
    case entered =>
      intro cause h
      rw [enterHobble_of_out h, haged]
      generalize aged cause = t
      rfl
  case rails =>
    intro s rail failed lost pins data lands en pg good rises fails tap b d
    refine ⟨execPowerGoodRise_of_not_rises, fun h => ⟨execPowerGoodRise_of_outside h, fun hnone hrole =>
        ⟨fun n => execPowerGoodRise_of_next h hnone hrole, execPowerGoodRise_of_last h hnone hrole⟩⟩,
      execPowerGoodTimeout_of_waiting, execPowerGoodTimeout_of_other, execPowerGoodFall_of_good, execPowerGoodFall_of_other, ?scan, ?run⟩
    case scan =>
      intro h
      exact ⟨congrArg ok (tapRun_of_scan h _ _), congrArg ok (tapRun_of_scan h _ _), congrArg ok (tapRun_of_scan h _ _),
        congrArg ok (tapRun_of_scan h _ _), congrArg ok (tapRun_of_scan h _ _)⟩
    case run =>
      intro h
      exact ⟨congrArg ok (tapRun_of_run h _ _), congrArg ok (tapRun_of_run h _ _), congrArg ok (tapRun_of_run h _ _),
        congrArg ok (tapRun_of_run h _ _), congrArg ok (tapRun_of_run h _ _)⟩

end Sys2Proof.Machine
end

section
/-! Mordant checkpoints (R386 to R391): the checkpoint point by what is due, the copy by what staging holds, the drain by how it ends,
and the restore by the chain that passes. -/

namespace Sys2Proof.Machine

/-! ### The checkpoint point (R387, R390) -/

/-- A step is a settled multiple of the interval, and no copy runs. -/
def pointDue (s : State) (step : Nat) : Prop :=
  od s 0x8030 1 ≠ 0 ∧ step % od s 0x8030 1 = 0 ∧ physNat s (od s 0x8030 12) 8 = step ∧ s.ckpt.copying = none

/-- The next image is full: one is needed, or it is the first of full_every. -/
def nextFull (s : State) : Bool := s.ckpt.needFull || s.ckpt.taken % od s 0x8030 2 == 0

/-- The bitmaps change places, the next touched list is withheld, and the copy of a step starts. -/
def copyStarted (s : State) (step : Nat) : State := { s with
  mem := { s.mem with dirty := s.mem.dirtyOld, dirtyOld := s.mem.dirty },
  team := { s.team with gate := if s.team.gate.contains 0 then s.team.gate else s.team.gate ++ [0] },
  ckpt := { s.ckpt with copying := some (step, nextFull s), needFull := false } }

/-- The checkpoint of a step is postponed, and recorded. -/
def pointPostponed (s : State) (step : Nat) : State :=
  note { s with ckpt := { s.ckpt with postponed := s.ckpt.postponed + 1, needFull := nextFull s } } 7 5 2 0 0
    [BitVec.ofNat 64 step]

section
variable {s : State} {step : Nat}

theorem execCheckpointPoint_of_not_due (h : ¬ pointDue s step) : execCheckpointPoint step s = .next s := by
  refine congrArg ok (if_pos ?_)
  by_contra hnone
  obtain ⟨hiv, hnone⟩ := not_or.mp hnone
  obtain ⟨hstep, hnone⟩ := not_or.mp hnone
  obtain ⟨hsettle, hcopy⟩ := not_or.mp hnone
  exact h ⟨hiv, not_not.mp hstep, not_not.mp hsettle, Option.not_isSome_iff_eq_none.mp hcopy⟩

section
variable (h : pointDue s step)
include h

theorem execCheckpointPoint_of_due : execCheckpointPoint step s =
    .next (if s.ckpt.draining.isSome then pointPostponed s step else copyStarted s step) := by
  obtain ⟨hiv, hstep, hsettle, hcopy⟩ := h
  exact congrArg ok (if_neg (by simp [hiv, hstep, hsettle, hcopy]))

theorem execCheckpointPoint_of_free (hdrain : s.ckpt.draining = none) :
    execCheckpointPoint step s = .next (copyStarted s step) :=
  (execCheckpointPoint_of_due h).trans (congrArg ok (if_neg (by simp [hdrain])))

theorem execCheckpointPoint_of_draining (hdrain : s.ckpt.draining.isSome = true) :
    execCheckpointPoint step s = .next (pointPostponed s step) :=
  (execCheckpointPoint_of_due h).trans (congrArg ok (if_pos hdrain))
end
end

/-! ### The copy (R387, R388) -/

/-- The image of a step stands in staging where it fits, and its checkpoint has been taken. -/
def copyTaken (s : State) (step : Nat) (full : Bool) : State :=
  ckptTaken (ckptCopied s step full) step (ckptBase s step full) (ckptRegions s full)

/-- Header and journal, then an entry and its bytes for each region. -/
theorem ckptLen_eq (s : State) (step : Nat) (full : Bool) : ckptLen s step full =
    64 + (16 + mib2) * (ckptRegions s full).length + (ckptJournal s s.ckpt.lastTaken step).1.length := by
  unfold ckptLen
  ring

section
variable {s : State} {step : Nat} {full : Bool}

theorem ckptCopied_of_too_long (h : od s 0x8030 6 < ckptLen s step full) :
    ckptCopied s step full = note s 7 7 3 0 0 [BitVec.ofNat 64 step] := if_pos h

section
variable (hcopy : s.ckpt.copying = some (step, full))
include hcopy

theorem execCheckpointCopyComplete_of_copying : execCheckpointCopyComplete s = .next (releaseLists (
    if od s 0x8030 6 < ckptLen s step full then copyTaken s step full
    else startDrain (copyTaken s step full) step (ckptBase s step full) (ckptLen s step full) full)) := by
  simp only [execCheckpointCopyComplete, hcopy]
  rfl

theorem execCheckpointCopyComplete_of_fits (h : ckptLen s step full ≤ od s 0x8030 6) : execCheckpointCopyComplete s =
    .next (releaseLists
      (startDrain (copyTaken s step full) step (ckptBase s step full) (ckptLen s step full) full)) :=
  (execCheckpointCopyComplete_of_copying hcopy).trans (congrArg (fun t => ok (releaseLists t)) (if_neg (Nat.not_lt.mpr h)))

theorem execCheckpointCopyComplete_of_too_long (h : od s 0x8030 6 < ckptLen s step full) :
    execCheckpointCopyComplete s = .next (releaseLists (copyTaken s step full)) :=
  (execCheckpointCopyComplete_of_copying hcopy).trans (congrArg (fun t => ok (releaseLists t)) (if_pos h))
end
end

theorem ckptTaken_gate (s : State) (step base : Nat) (rs : List Nat) : (ckptTaken s step base rs).team.gate.contains 0 = false := by
  simp [ckptTaken]

/-! ### The drain (R387, R389) -/

section
variable {s : State} {i : CkImage} (hdrain : s.ckpt.draining = some i)
include hdrain

theorem execCheckpointDrainComplete_of_failed : execCheckpointDrainComplete false s =
    .next (note { s with ckpt := { s.ckpt with draining := none, needFull := true } } 7 8 3 0 0 [BitVec.ofNat 64 i.step]) := by
  simp only [execCheckpointDrainComplete, hdrain]
  rfl

/-- An image stored on flash ends those whose blocks it takes, and is the newest. -/
theorem execCheckpointDrainComplete_of_flash (h : od s 0x8030 7 ≠ 1) : execCheckpointDrainComplete true s = .next { s with
    team := { s.team with ckptLast := i.step },
    ckpt := { s.ckpt with
      draining := none, nextLba := (i.lba + i.len) % od s 0x8030 10,
      images := (s.ckpt.images.filter fun x => !(lbasMeet (od s 0x8030 10) (x.lba, x.len) (i.lba, i.len))) ++ [i] } } := by
  have hflash : (od s 0x8030 7 != 1) = true := bne_iff_ne.mpr h
  simp only [execCheckpointDrainComplete, hdrain, hflash]
  rfl

/-- An image that only a peer stores changes nothing of the store. -/
theorem execCheckpointDrainComplete_of_peer (h : od s 0x8030 7 = 1) : execCheckpointDrainComplete true s = .next { s with
    team := { s.team with ckptLast := i.step }, ckpt := { s.ckpt with draining := none } } := by
  have hpeer : (od s 0x8030 7 != 1) = false := by simp [h]
  simp only [execCheckpointDrainComplete, hdrain, hpeer]
  rfl
end

/-! ### The restore (R391) -/

/-- The regions of a chain are written, and its last manifest's loss scale, count and step are taken. -/
def restoredFrom (s : State) (good : List CkptImage) (x : CkptImage) : State :=
  let t := good.foldl putImage s
  { t with
    team := { t.team with lsExp := signed 8 (ciW x 2), clean := bits (ciW x 2) 23 8 },
    ckpt := { t.ckpt with restored := some (bits (ciW x 0) 31 0), joinRefused := ciW x 3 != digest64 (digestCur s) } }

section
variable {s : State} {images : List CkptImage}

theorem execCheckpointRestore_of_none (h : chainPrefix none images = []) : execCheckpointRestore images s = .next s := by
  simp only [execCheckpointRestore, h]
  rfl

theorem execCheckpointRestore_of_chain {x : CkptImage} (h : (chainPrefix none images).getLast? = some x) :
    execCheckpointRestore images s = .next (restoredFrom s (chainPrefix none images) x) := by
  simp only [execCheckpointRestore, h]
  rfl
end

/-! ### The statement -/

/-- Settles O42: the point by what is due and drains, the copy by the length of staging, the drain by how it ended and where it went,
and the restore by the chain. -/
theorem checkpointsAreTakenDrainedAndRestored : Obligations.CheckpointsAreTakenDrainedAndRestored := by
  intro s step full i x images iv whole due started base n copied flash good restored
  have hlen : ckptLen s step full = n := ckptLen_eq s step full
  have htaken : copyTaken s step full = copied := rfl
  refine ⟨execCheckpointPoint_of_not_due, execCheckpointPoint_of_free, execCheckpointPoint_of_draining, ?fits, ?long, rfl, rfl,
    ckptTaken_gate _ _ _ _, fun hdrain => ⟨execCheckpointDrainComplete_of_failed hdrain, execCheckpointDrainComplete_of_flash hdrain,
      fun h => execCheckpointDrainComplete_of_peer hdrain (not_not.mp h)⟩, execCheckpointRestore_of_none,
    execCheckpointRestore_of_chain⟩
  case fits =>
    intro hcopy hfits
    have hexec := execCheckpointCopyComplete_of_fits hcopy (hlen.trans_le hfits)
    rwa [hlen, htaken] at hexec
  case long =>
    intro hcopy hlong
    have hlong := hlong.trans_eq hlen.symm
    exact ⟨execCheckpointCopyComplete_of_too_long hcopy hlong, ckptCopied_of_too_long hlong⟩

end Sys2Proof.Machine
end

section
/-! The Studbook (R446, R451, R453 to R455, R457 to R461): submissions by their bucket and the queue, records by their slot, recorders and
the copy to NOR, readers, and the writes that are checked. -/

namespace Sys2Proof.Machine

/-! ### Submissions (R453, R454) -/

/-- The code of an event. -/
def eventCode (e : Event) : Nat := e.area % 16 * 4096 + e.num % 4096

/-- The bucket that an event meets. -/
def eventBucket (s : State) (e : Event) : Bucket := sget {} s.book.buckets (bucketOf (eventCode e))

/-- An event spends no token: by its severity, its area, or the entry that matches it. -/
def tokenFree (s : State) (e : Event) : Bool :=
  decide (6 ≤ (formRec s e 0).1.sev) || e.area % 16 == 0
    || (match triggerFor s (eventCode e) with | some w => bitAt (trW w 0) 37 | none => false)

/-- The free values that the event's record takes are taken. -/
def recordFormed (s : State) (e : Event) : State := { s with free := s.free + (formRec s e 0).2 }

/-- The bucket that an event meets takes a value. -/
def bucketSet (s : State) (e : Event) (x : Bucket) : State :=
  modBook s fun y => { y with buckets := sset {} y.buckets (bucketOf (eventCode e)) x }

/-- A record is at the end of the queue. -/
def recordQueued (s : State) (r : Rec) : State := modBook s fun y => { y with queue := y.queue ++ [r] }

/-- An event is suppressed, and counted at its bucket and in the total. -/
def eventSuppressed (s : State) (e : Event) : State :=
  modBook (bucketSet s e { eventBucket s e with sup := (eventBucket s e).sup + 1 })
    fun y => { y with suppressedTotal := y.suppressedTotal + 1 }

theorem enqueueRec_of_room {s : State} {r : Rec} (h : s.book.queue.length < 256) : enqueueRec s r = some (recordQueued s r) :=
  if_pos h

theorem enqueueRec_of_full {s : State} {r : Rec} (hfull : 256 ≤ s.book.queue.length) (hsev : r.sev < 7) :
    enqueueRec s r = some (dropRec s r) :=
  (if_neg (Nat.not_lt.mpr hfull)).trans (if_pos hsev)

section
variable {s : State} {e : Event}

theorem submit_of_suppressed (hfree : tokenFree s e = false) (htokens : (eventBucket s e).tokens = 0) :
    submit s e = some (eventSuppressed s e) :=
  (if_neg (Bool.eq_false_iff.mp hfree)).trans (if_pos htokens)

section
variable (hroom : s.book.queue.length < 256)
include hroom

theorem submit_of_free (hfree : tokenFree s e = true) :
    submit s e = some (recordQueued (recordFormed s e) (formRec s e 0).1) :=
  (if_pos hfree).trans (enqueueRec_of_room hroom)

theorem submit_of_paid (hfree : tokenFree s e = false) (htokens : (eventBucket s e).tokens ≠ 0) : submit s e =
    some (recordQueued (bucketSet (recordFormed s e) e { tokens := (eventBucket s e).tokens - 1, sup := 0 })
      { (formRec s e 0).1 with suppressed := min 65535 (eventBucket s e).sup }) :=
  (if_neg (Bool.eq_false_iff.mp hfree)).trans ((if_neg htokens).trans (enqueueRec_of_room hroom))
end
end

section
variable {s : State}

/-- With no recorder running, an event waits on the management ring. -/
theorem execStudbookSubmit_of_stopped (h : recorderRuns s = false) : execStudbookSubmit s = .next s := by
  unfold execStudbookSubmit
  split
  · rfl
  · exact congrArg ok (if_pos (congrArg not h))

theorem execStudbookSubmit_of_accepted {e : Event} {l : List Event} {t : State} (hruns : recorderRuns s = true)
    (hraised : s.raised = e :: l) (h : submit { s with raised := l } e = some t) : execStudbookSubmit s = .next t := by
  simp only [execStudbookSubmit, hraised, hruns, h]
  rfl

/-! ### Records (R455) -/

theorem execStudbookRecordWrite_of_idle (h : s.book.queue = [] ∨ recorderRuns s = false) :
    execStudbookRecordWrite s = .next s := by
  unfold execStudbookRecordWrite
  split
  · rfl
  case h_2 hqueue =>
    refine congrArg ok (if_pos (congrArg not (h.resolve_left fun hnil => ?_)))
    exact List.cons_ne_nil _ _ (hqueue.symm.trans hnil)

section
variable {r : Rec} {q : List Rec} (hqueue : s.book.queue = r :: q) (hruns : recorderRuns s = true)
include hqueue hruns

theorem execStudbookRecordWrite_of_slot {i : Nat} (h : slotFor (modBook s fun y => { y with queue := q }) r = some i) :
    execStudbookRecordWrite s = .next (writeRec (modBook s fun y => { y with queue := q }) i r) := by
  simp only [execStudbookRecordWrite, hqueue, hruns, h]
  rfl

theorem execStudbookRecordWrite_of_no_slot (h : slotFor (modBook s fun y => { y with queue := q }) r = none) :
    execStudbookRecordWrite s = .next (dropRec (modBook s fun y => { y with queue := q }) r) := by
  simp only [execStudbookRecordWrite, hqueue, hruns, h]
  rfl
end

/-! ### Recorders and the copy to NOR (R446, R460) -/

/-- A recorder has failed: its ring is lost, and nothing mirrors it. -/
def recorderGone (s : State) (rc : Nat) : State :=
  modBook s fun y => { y with
    failed := setBit y.failed rc, mirrorOk := false, ring := y.ring.filter fun (x : Nat × Option Rec) => x.1 / 16384 != rc }

theorem execRecorderFailure_of_running {rc : Nat} (hrc : rc ≤ 1) (h : bitAt s.book.failed rc = false) :
    execRecorderFailure rc s = .next (if recorderRuns (recorderGone s rc) then noteUnit (recorderGone s rc) 0 3 5 6 rc []
      else recorderGone s rc) :=
  congrArg ok (if_neg (not_or.mpr ⟨Nat.not_lt.mpr hrc, Bool.eq_false_iff.mp h⟩))

theorem execStudbookNorCopyDone_of_held {c : NorCopy} (h : s.book.hold = some c) : execStudbookNorCopyDone s =
    .next (modBook s fun y => { y with hold := none, nor := sset none y.nor (norSlot s) (some c) }) := by
  simp only [execStudbookNorCopyDone, h]
  rfl

/-! ### Readers (R457, R459) -/

/-- A reader has been given bytes. -/
def readerGiven (s : State) (reader : Nat) (d : List Byte) : State :=
  modBook (abortWith s aNONE) fun y => { y with reads := y.reads ++ [(reader, d)] }

section
variable {reader ix k : Nat} {d : List Byte}

theorem readRecord_of_ok (h : objRead s reader ix 3 = .ok d) :
    readRecord s reader ix = readerGiven (afterRead s reader ix 3) reader d := by
  simp only [readRecord, h]
  rfl

theorem readRecord_of_error (h : objRead s reader ix 3 = .error k) : readRecord s reader ix = abortWith s k := by
  simp only [readRecord, h]

theorem afterRead_of_record {r : Rec} (h : recFrom s (selNat s reader 0x7000 2) = some r) :
    afterRead s reader 0x7000 3 = setSel s reader 0x7000 2 (leBytes 8 (r.seq + 1)) := by
  simp [afterRead, h]

theorem afterRead_of_qva (h : selNat s reader 0x7001 2 < s.book.qva.length) :
    afterRead s reader 0x7001 3 = setSel s reader 0x7001 2 (leBytes 2 (selNat s reader 0x7001 2 + 1)) := by
  simp [afterRead, h]

theorem execStudbookRecordRead_of_held {r : Rec} (hread : objRead s reader 0x7000 3 = .ok d)
    (hrec : recFrom s (selNat s reader 0x7000 2) = some r) : execStudbookRecordRead reader s =
    .next (readerGiven (setSel s reader 0x7000 2 (leBytes 8 (r.seq + 1))) reader d) :=
  congrArg ok ((readRecord_of_ok hread).trans (congrArg (readerGiven · reader d) (afterRead_of_record hrec)))

theorem execQvaRecordRead_of_held (hread : objRead s reader 0x7001 3 = .ok d)
    (hheld : selNat s reader 0x7001 2 < s.book.qva.length) : execQvaRecordRead reader s =
    .next (readerGiven (setSel s reader 0x7001 2 (leBytes 2 (selNat s reader 0x7001 2 + 1))) reader d) :=
  congrArg ok ((readRecord_of_ok hread).trans (congrArg (readerGiven · reader d) (afterRead_of_qva hheld)))
end

/-! ### Writes that are checked (R451, R453, R458) -/

section
variable {d : List Byte}

theorem writeSwRecord_of_other_length (h : d.length ≠ 72) : writeSwRecord s d = .error aTYPELEN := if_pos h

theorem writeSwRecord_of_refused (hlen : d.length = 72) (h : bits (leNat (d.take 8)) 15 12 ≠ 15
    ∨ 5 < bits (leNat (d.take 8)) 18 16 ∨ bits (leNat (d.take 8)) 63 19 ≠ 0) : writeSwRecord s d = .error aRANGE :=
  (if_neg (not_not.mpr hlen)).trans (if_pos h)

theorem writeSwRecord_of_accepted (hlen : d.length = 72) (harea : bits (leNat (d.take 8)) 15 12 = 15)
    (hsev : bits (leNat (d.take 8)) 18 16 ≤ 5) (hzero : bits (leNat (d.take 8)) 63 19 = 0) : writeSwRecord s d =
    .ok (noteUnit s 15 (bits (leNat (d.take 8)) 11 0) (bits (leNat (d.take 8)) 18 16) 15 0
      ((List.range 8).map fun i => BitVec.ofNat 64 (bufWord d (8 + 8 * i)))) :=
  (if_neg (not_not.mpr hlen)).trans (if_neg (by simp [harea, hsev, hzero]))

/-- The words of a trigger entry that is written. -/
def entryWords (d : List Byte) : List W64 := (List.range 32).map fun i => BitVec.ofNat 64 (bufWord d (8 * i))

/-- The selected trigger entry is in effect; one of zeros only is none. -/
def entryStored (s t : State) (d : List Byte) : State :=
  modBook t fun y => { y with
    triggers := sset [] y.triggers (od s 0x7003 1) (if (entryWords d).all (· == 0) then [] else entryWords d) }

theorem writeTrigger_of_bad (hlen : d.length = 256) (h : triggerBad (entryWords d) = true) : writeTrigger s d = .error aRANGE :=
  (if_neg (not_not.mpr hlen)).trans (if_pos h)

theorem writeTrigger_of_committed {t : State} (hlen : d.length = 256) (h : triggerBad (entryWords d) = false)
    (hkept : commitStore s (storeKey (od s 0x7003 1) 0x7003 2) d = .ok t) : writeTrigger s d = .ok (entryStored s t d) := by
  refine (if_neg (not_not.mpr hlen)).trans ((if_neg (Bool.eq_false_iff.mp h)).trans ?_)
  rw [hkept]
  rfl
end

section
variable {v : Nat}

theorem writeRate_of_out_of_range {burst : Bool} (h : v = 0 ∨ (if burst then 1024 else 10000) < v) :
    writeRate s burst v = .error aRANGE := if_pos h

theorem writeRate_of_kept {t : State} (hzero : v ≠ 0) (hhigh : v ≤ 10000)
    (hkept : persistPut s 0x7005 1 (leBytes 2 v) = .ok t) : writeRate s false v = .ok t := by
  refine (if_neg (not_or.mpr ⟨hzero, Nat.not_lt.mpr hhigh⟩)).trans ?_
  simp only [Bool.false_eq_true, if_false, hkept]
  rfl
end
end

/-! ### The statement -/

/-- Settles O49: a submission by the recorders, its bucket and the queue, a record by its slot, the recorders and their copy, readers by
what is held, and each write by its checks. -/
theorem studbookRecordsAreLimitedKeptAndRead : Obligations.StudbookRecordsAreLimitedKeptAndRead := by
  intro s t e r l q i rc reader k v c d burst abort book s1 code b free taken bucket join room rest w words refilled sel
  refine ⟨execStudbookSubmit_of_stopped, ?submitted, enqueueRec_of_full, rfl, execStudbookRecordWrite_of_idle, ?written,
    execRecorderFailure_of_running, execStudbookNorCopyDone_of_held, execStudbookRecordRead_of_held,
    fun h => congrArg ok (readRecord_of_error h), execQvaRecordRead_of_held, fun h => congrArg ok (readRecord_of_error h),
    fun h => ok_ownWrite_of_error (writeSwRecord_of_other_length h), fun hlen =>
      ⟨fun h => ok_ownWrite_of_error (writeSwRecord_of_refused hlen h),
        fun harea hsev hzero => ok_ownWrite_of_ok (writeSwRecord_of_accepted hlen harea hsev hzero)⟩,
    fun hlen => ⟨fun h => ok_ownWrite_of_error (writeTrigger_of_bad hlen h),
      fun h hkept => ok_ownWrite_of_ok (writeTrigger_of_committed hlen h hkept)⟩,
    fun h => ok_ownWrite_of_error (writeRate_of_out_of_range h),
    fun hzero hhigh hkept => ok_ownWrite_of_ok (writeRate_of_kept hzero hhigh hkept)⟩
  case submitted =>
    intro hruns hraised hroom
    exact ⟨fun h => execStudbookSubmit_of_accepted hruns hraised (submit_of_free (s := s1) hroom h),
      fun h htokens => execStudbookSubmit_of_accepted hruns hraised (submit_of_suppressed (s := s1) h htokens),
      fun h htokens => execStudbookSubmit_of_accepted hruns hraised (submit_of_paid (s := s1) hroom h htokens)⟩
  case written =>
    intro hqueue hruns
    exact ⟨fun h => ⟨execStudbookRecordWrite_of_slot hqueue hruns h, rfl⟩, execStudbookRecordWrite_of_no_slot hqueue hruns⟩

end Sys2Proof.Machine
end

section
/-! The ROM's choice of an image (R467 to R470): the slot that runs by the checks, the strap and the watchdog, and recovery chunk by
chunk. -/

namespace Sys2Proof.Machine

/-! ### The choice of a slot (R469) -/

/-- The slot that the ROM tries first: the preferred one, or after three watchdog resets the other. -/
def firstSlot (s : State) : Nat := if 3 ≤ s.boot.watchdog then 1 - preferred s else preferred s

/-- The ROM waits for a recovery image. -/
def recoveryEntered (s : State) : State := modBoot s fun b => { b with recovery := true, recv := [], seq := .none }

/-- A fallback from the preferred slot is counted and recorded with the check that failed. -/
def fellBack (s : State) (check : Nat) : State :=
  noteUnit (modBoot s fun b => { b with fallbacks := b.fallbacks + 1 }) 12 1 4 0 0
    [BitVec.ofNat 64 (preferred s), BitVec.ofNat 64 check]

section
variable {s : State}

theorem firstSlot_of_few (h : s.boot.watchdog < 3) : firstSlot s = preferred s := if_neg (Nat.not_le.mpr h)

theorem romBoot_of_strap (h : bitAt s.lands.straps 0 = true) : romBoot s = recoveryEntered s := if_pos h

section
variable (hstrap : bitAt s.lands.straps 0 = false)
include hstrap

theorem romBoot_of_first_ok (h : slotCheck s (firstSlot s) = 0) : romBoot s =
    if firstSlot s = preferred s then runImage s (firstSlot s) else runImage (fellBack s 0) (firstSlot s) :=
  (if_neg (Bool.eq_false_iff.mp hstrap)).trans (if_pos h)

theorem romBoot_of_preferred (hok : slotCheck s (preferred s) = 0) (hfew : s.boot.watchdog < 3) :
    romBoot s = runImage s (preferred s) := by
  have hfirst := firstSlot_of_few hfew
  rw [romBoot_of_first_ok hstrap (hfirst.symm ▸ hok), if_pos hfirst, hfirst]

theorem romBoot_of_watchdog (hother : firstSlot s ≠ preferred s) (hok : slotCheck s (firstSlot s) = 0) :
    romBoot s = runImage (fellBack s 0) (firstSlot s) :=
  (romBoot_of_first_ok hstrap hok).trans (if_neg hother)

section
variable (hbad : slotCheck s (firstSlot s) ≠ 0)
include hbad

theorem romBoot_of_second_ok (hok : slotCheck s (1 - firstSlot s) = 0) : romBoot s =
    if firstSlot s = preferred s then runImage (fellBack s (slotCheck s (preferred s))) (1 - firstSlot s)
    else runImage s (1 - firstSlot s) :=
  (if_neg (Bool.eq_false_iff.mp hstrap)).trans ((if_neg hbad).trans (if_pos hok))

theorem romBoot_of_none_ok (h : slotCheck s (1 - firstSlot s) ≠ 0) : romBoot s = recoveryEntered s :=
  (if_neg (Bool.eq_false_iff.mp hstrap)).trans ((if_neg hbad).trans (if_neg h))
end

theorem romBoot_of_fallback (hbad : slotCheck s (preferred s) ≠ 0) (hfew : s.boot.watchdog < 3)
    (hok : slotCheck s (1 - preferred s) = 0) :
    romBoot s = runImage (fellBack s (slotCheck s (preferred s))) (1 - preferred s) := by
  have hfirst := firstSlot_of_few hfew
  rw [romBoot_of_second_ok hstrap (hfirst.symm ▸ hbad) (hfirst.symm ▸ hok), if_pos hfirst, hfirst]
end
end

/-! ### The checks of an image (R467, R468) -/

/-- A check that fails with a number of its own leaves 0 to those after it. -/
theorem checks_eq_zero_iff {fails : Prop} [Decidable fails] {n rest : Nat} (hn : n ≠ 0) :
    (if fails then n else rest) = 0 ↔ ¬ fails ∧ rest = 0 := by
  split <;> simp [*]

theorem imageCheck_eq_zero_iff (s : State) (x : Image) : imageCheck s x = 0 ↔
    x.fmtOk = true ∧ x.keyOk = true ∧ x.sigOk = true ∧ s.boot.rollback ≤ x.svn ∧ x.secOk = true := by
  simp [imageCheck, checks_eq_zero_iff]

/-! ### Recovery (R470) -/

/-- A chunk is taken in recovery: it is no longer than a frame's, and all that came fits the largest image. -/
def chunkTaken (s : State) (data : List Byte) : Prop :=
  s.boot.recovery = true ∧ data.length ≤ 1024 ∧ s.boot.recv.length + data.length ≤ 2 ^ 24

/-- Slot A is erased, with what has come of the recovery image. -/
def slotErased (s : State) (recv : List Byte) : State :=
  modBoot s fun b => { b with recv := recv, slots := sset none b.slots 0 none, verified := sset false b.verified 0 false }

/-- A recovery image that passes its checks stands in slot A. -/
def slotFilled (s : State) (x : Image) : State :=
  modBoot s fun b => { b with slots := sset none b.slots 0 (some x), verified := sset false b.verified 0 true }

section
variable {s : State} {data : List Byte} {sig : Bool}

theorem execRecoveryImageChunk_of_not_taken {last : Bool} (h : ¬ chunkTaken s data) :
    execRecoveryImageChunk data last sig s = .next s := by
  refine congrArg ok (if_pos ?_)
  by_contra hnone
  obtain ⟨hrecovery, hlength⟩ := not_or.mp (mt Bool.or_eq_true_iff.mpr hnone)
  obtain ⟨hchunk, htotal⟩ := not_or.mp (mt decide_eq_true hlength)
  exact h ⟨by simpa using hrecovery, Nat.not_lt.mp hchunk, Nat.not_lt.mp htotal⟩

section
variable (h : chunkTaken s data)
include h

theorem execRecoveryImageChunk_of_taken {last : Bool} : execRecoveryImageChunk data last sig s = .next (
    if !last then slotErased s (s.boot.recv ++ data)
    else if imageCheck s (parseImage (s.boot.recv ++ data) sig) = 0
      then runImage (writeBootDir (slotFilled s (parseImage (s.boot.recv ++ data) sig)) 0) 0
    else slotErased s []) := by
  obtain ⟨hrecovery, hchunk, htotal⟩ := h
  refine congrArg ok (if_neg ?_)
  simp only [hrecovery, Bool.not_true, Bool.false_or, decide_eq_true_eq]
  omega

theorem execRecoveryImageChunk_of_part :
    execRecoveryImageChunk data false sig s = .next (slotErased s (s.boot.recv ++ data)) :=
  execRecoveryImageChunk_of_taken h

theorem execRecoveryImageChunk_of_last : execRecoveryImageChunk data true sig s = .next (
    if imageCheck s (parseImage (s.boot.recv ++ data) sig) = 0
      then runImage (writeBootDir (slotFilled s (parseImage (s.boot.recv ++ data) sig)) 0) 0
    else slotErased s []) :=
  execRecoveryImageChunk_of_taken h
end
end

/-! ### The statement -/

/-- Settles O56: the slot by the strap, the checks and the watchdog, the checks of an image, and a chunk by what recovery takes. -/
theorem theRomChoosesAVerifiedImage : Obligations.TheRomChoosesAVerifiedImage := by
  intro s x data sig boot lost p first fell all img takes kept
  exact ⟨romBoot_of_strap, fun hstrap => ⟨romBoot_of_preferred hstrap, fun _ _ => romBoot_of_watchdog hstrap,
      romBoot_of_fallback hstrap, romBoot_of_none_ok hstrap⟩, imageCheck_eq_zero_iff s x,
    fun h => ⟨execRecoveryImageChunk_of_not_taken h, execRecoveryImageChunk_of_not_taken h⟩,
    fun h => ⟨execRecoveryImageChunk_of_part h, execRecoveryImageChunk_of_last h⟩⟩

end Sys2Proof.Machine
end

section
/-! Live updates, leaves, repair records and evidence (R472, R474 to R477, R479, R480): each update command by what has come before it, the
leaf that is taken next, and what a leaf signs. -/

namespace Sys2Proof.Machine

/-! ### LOAD (R474, R475) -/

/-- An update command runs. -/
abbrev updateBusy (s : State) : Prop := s.boot.status = 1 ∨ s.boot.status = 3 ∨ s.boot.status = 4

/-- The image to load has a legal length and lies at addresses that exist. -/
def loadInside (s : State) : Prop :=
  4096 ≤ od s 0x9001 2 ∧ od s 0x9001 2 ≤ 2 ^ 24 ∧ (canon s.map (od s 0x9001 1)).isSome
    ∧ (canon s.map (od s 0x9001 1 + od s 0x9001 2 - 1)).isSome

/-- The bytes to load. -/
def loadBytes (s : State) : List Byte := (physRead s (od s 0x9001 1) (od s 0x9001 2)).map Prod.fst

/-- A LOAD has its bytes, and the slot that does not run is erased. -/
def loadStarted (s : State) : State :=
  modBoot s fun b => { b with
    loading := some (loadBytes s), status := 1, failedCheck := 0, groomsDone := 0,
    slots := sset none b.slots (otherSlot s) none, verified := sset false b.verified (otherSlot s) false }

/-- The check that a loaded image fails; 6 where flash failed, 0 none. -/
def loadCheck (s : State) (d : List Byte) (sig flash : Bool) : Nat := if flash then imageCheck s (parseImage d sig) else 6

/-- A LOAD ends with its check. -/
def loadEnded (s : State) (d : List Byte) (sig flash : Bool) : State :=
  modBoot s fun b => { b with
    loading := none, failedCheck := loadCheck s d sig flash, status := if loadCheck s d sig flash = 0 then 2 else 6,
    slots := sset none b.slots (otherSlot s) (if flash then some (parseImage d sig) else none),
    verified := sset false b.verified (otherSlot s) (loadCheck s d sig flash == 0) }

section
variable {s : State}

theorem updateLoad_of_outside (h : ¬ loadInside s) : updateLoad s = .error aRANGE := by
  refine if_pos ?_
  by_contra hnone
  obtain ⟨hlow, hnone⟩ := not_or.mp hnone
  obtain ⟨hhigh, hnone⟩ := not_or.mp hnone
  obtain ⟨hfirst, hlast⟩ := not_or.mp hnone
  exact h ⟨Nat.not_lt.mp hlow, Nat.not_lt.mp hhigh, Option.isSome_iff_ne_none.mpr (mt Option.isNone_iff_eq_none.mpr hfirst),
    Option.isSome_iff_ne_none.mpr (mt Option.isNone_iff_eq_none.mpr hlast)⟩

section
variable (h : loadInside s)
include h

theorem updateLoad_of_inside : updateLoad s = if updateBusy s then .error aSTATE
    else if imgN (loadBytes s) 12 4 < s.boot.rollback then .error aSTATE else .ok (loadStarted s) := by
  obtain ⟨hlow, hhigh, hfirst, hlast⟩ := h
  refine if_neg ?_
  rintro (hless | hmore | hnone | hnone)
  · exact Nat.not_le.mpr hless hlow
  · exact Nat.not_le.mpr hmore hhigh
  · simp [Option.isNone_iff_eq_none.mp hnone] at hfirst
  · simp [Option.isNone_iff_eq_none.mp hnone] at hlast

theorem updateLoad_of_busy (hbusy : updateBusy s) : updateLoad s = .error aSTATE := (updateLoad_of_inside h).trans (if_pos hbusy)

theorem updateLoad_of_old (hold : imgN (loadBytes s) 12 4 < s.boot.rollback) : updateLoad s = .error aSTATE := by
  rw [updateLoad_of_inside h, if_pos hold, ite_self]

theorem updateLoad_of_new (hbusy : ¬ updateBusy s) (hnew : s.boot.rollback ≤ imgN (loadBytes s) 12 4) :
    updateLoad s = .ok (loadStarted s) :=
  (updateLoad_of_inside h).trans ((if_neg hbusy).trans (if_neg (Nat.not_lt.mpr hnew)))
end

section
variable {sig flash : Bool}

theorem execUpdateLoadComplete_of_none (h : s.boot.loading = none) : execUpdateLoadComplete sig flash s = .next s := by
  simp only [execUpdateLoadComplete, h]
  rfl

theorem execUpdateLoadComplete_of_loading {d : List Byte} (h : s.boot.loading = some d) :
    execUpdateLoadComplete sig flash s = .next (loadEnded s d sig flash) := by
  simp only [execUpdateLoadComplete, h]
  rfl
end

/-! ### GROOMS, OSTLER, AT_RESET, COMMIT_SVN (R474 to R477) -/

section
variable (h : loadedImage s = none)
include h

theorem updateGrooms_of_none : updateGrooms s = .error aSTATE := by
  simp only [updateGrooms, h]

theorem updateAtReset_of_none : updateAtReset s = .error aSTATE := if_pos (Option.isNone_iff_eq_none.mpr h)

theorem updateOstler_of_none : updateOstler s = .error aSTATE :=
  if_pos (.inr (.inr (.inr (Option.isNone_iff_eq_none.mpr h))))
end

/-- The update is done: a slot runs. -/
def updateDone (t : State) (slot : Nat) : State :=
  modBoot t fun b => { b with running := slot, status := 5, groomsDone := 0, dieNow := 0 }

/-- The new firmware takes the role, and the boot directory prefers its slot. -/
def updateHandedOver (s : State) (slot : Nat) : State := updateDone (writeBootDir (takeover s true []) slot) slot

theorem updateOstler_of_early (h : s.boot.status ≠ 3 ∨ s.boot.groomsDone ≠ 12 ∨ s.ost.standby ≠ .ready) :
    updateOstler s = .error aSTATE :=
  if_pos (h.imp_right (Or.imp_right Or.inl))

section
variable {x : Image} (h : loadedImage s = some x)
include h

theorem updateGrooms_of_refused (hheld : updateBusy s ∨ (slotVersion s s.boot.running).toNat < x.prev) :
    updateGrooms s = .error aSTATE := by
  simp only [updateGrooms, h]
  exact if_pos (by simpa only [updateBusy, or_assoc] using hheld)

theorem updateGrooms_of_ready (hbusy : ¬ updateBusy s) (hprev : x.prev ≤ (slotVersion s s.boot.running).toNat) :
    updateGrooms s = .ok (restartFrom (modBoot s fun b => { b with status := 3 }) 0) := by
  simp only [updateGrooms, h]
  refine if_neg fun hheld => ?_
  obtain hupdate | hold := or_assoc.symm.mp ((or_congr_right or_assoc.symm).mp hheld)
  · exact hbusy hupdate
  · exact Nat.not_lt.mpr hprev hold

theorem updateAtReset_of_loaded : updateAtReset s = .ok (writeBootDir s (otherSlot s)) := if_neg (by simp [h])

theorem updateOstler_of_ready (hstatus : s.boot.status = 3) (hdone : s.boot.groomsDone = 12) (hready : s.ost.standby = .ready) :
    updateOstler s = .ok (updateHandedOver s (otherSlot s)) :=
  if_neg (by simp [hstatus, hdone, hready, h])
end

/-- The security version of the running image. -/
def runningSvn (s : State) : Nat := ((runningImage s).map Image.svn).getD 0

theorem updateCommitSvn_of_refused (h : runningSvn s ≤ s.boot.rollback ∨ updateBusy s ∨ s.boot.status = 2) :
    updateCommitSvn s = .error aSTATE :=
  if_pos (by unfold updateBusy runningSvn at h; omega)

theorem updateCommitSvn_of_new (hnew : s.boot.rollback < runningSvn s) (hbusy : ¬ updateBusy s) (hloaded : s.boot.status ≠ 2) :
    updateCommitSvn s = .ok (modBoot s fun b => { b with rollback := runningSvn s }) :=
  if_neg (by unfold updateBusy runningSvn at *; omega)

/-! ### Leaves (R479) -/

/-- The leaf that is taken next: the next reserved one, or the first of the block that the counter gives. -/
def leafNext (s : State) : Nat := if s.boot.nextLeaf < s.boot.leafEnd then s.boot.nextLeaf else 4096 * s.boot.rpmc1

/-- What is left once a leaf is taken: the one behind it is next, and a new block raises the counter. -/
def leafTaken (s : State) : State :=
  if s.boot.nextLeaf < s.boot.leafEnd then modBoot s fun b => { b with nextLeaf := b.nextLeaf + 1 }
  else modBoot s fun b => { b with
    rpmc1 := s.boot.rpmc1 + 1, nextLeaf := 4096 * s.boot.rpmc1 + 1, leafEnd := 4096 * s.boot.rpmc1 + 4096 }

theorem takeLeaf_eq (s : State) : takeLeaf s = (leafNext s, leafTaken s) := by
  unfold takeLeaf leafNext leafTaken
  split <;> rfl

theorem leafTaken_nextLeaf (s : State) : (leafTaken s).boot.nextLeaf = leafNext s + 1 := by
  unfold leafNext leafTaken
  split <;> rfl

theorem le_leafTaken_rpmc1 (s : State) : s.boot.rpmc1 ≤ (leafTaken s).boot.rpmc1 := by
  unfold leafTaken
  split
  · exact le_refl _
  · exact Nat.le_succ _

theorem leafTaken_rpmc1_of_block (h : s.boot.leafEnd ≤ s.boot.nextLeaf) : (leafTaken s).boot.rpmc1 = s.boot.rpmc1 + 1 := by
  rw [leafTaken, if_neg (Nat.not_lt.mpr h)]
  rfl

/-- A leaf leaves alone whatever no change of the leaf counters touches. -/
theorem leafTaken_keeps {γ : Type} (part : State → γ)
    (hpart : ∀ n c m, part (modBoot s fun b => { b with rpmc1 := c, nextLeaf := n, leafEnd := m }) = part s) :
    part (leafTaken s) = part s := by
  unfold leafTaken
  split
  · exact hpart _ s.boot.rpmc1 s.boot.leafEnd
  · exact hpart _ _ _

/-! ### Repair records (R472) -/

/-- The record of a kind that a commit writes. -/
def repairNext (s : State) (kind : Nat) : Repair :=
  { kind := kind, seq := s.boot.repairSeq + 1, leaf := leafNext s, body := repairBody s kind }

/-- The records that stay before a new one: all of them, or the newest of each kind where the half has no room. -/
def repairsKept (t : State) (r : Repair) : List Repair :=
  if decide ((t.boot.repairs.map repairSize).sum + repairSize r ≤ 1536 * 1024) then t.boot.repairs
  else [1, 2, 3, 4].filterMap (newestRepair t)

/-- A repair record is written under the leaf that was taken, and its kind is no longer due. -/
def repairCommitted (s : State) (kind : Nat) : State :=
  modBoot (leafTaken s) fun b => { b with
    repairs := repairsKept (leafTaken s) (repairNext s kind) ++ [repairNext s kind], repairSeq := s.boot.repairSeq + 1,
    due := clrBit b.due kind }

theorem repairCommitted_repairs (s : State) (kind : Nat) : (repairCommitted s kind).boot.repairs =
    repairsKept (leafTaken s) (repairNext s kind) ++ [repairNext s kind] := rfl

/-- The record that a commit writes is the newest of its kind. -/
theorem newestRepair_repairCommitted (s : State) (kind : Nat) :
    newestRepair (repairCommitted s kind) kind = some (repairNext s kind) := by
  have hkind : (repairNext s kind).kind = kind := rfl
  simp [newestRepair, repairCommitted_repairs, hkind]

theorem execRepairRecordCommit_of_none {kind : Nat} (h : kind = 0 ∨ 4 < kind ∨ s.boot.fw = false) :
    execRepairRecordCommit kind s = .next s :=
  congrArg ok (if_pos (by simpa using h))

theorem execRepairRecordCommit_of_kind {kind : Nat} (hlow : 1 ≤ kind) (hhigh : kind ≤ 4) (hfw : s.boot.fw = true) :
    execRepairRecordCommit kind s = .next (repairCommitted s kind) := by
  have hseq : (leafTaken s).boot.repairSeq = s.boot.repairSeq := leafTaken_keeps (fun t => t.boot.repairSeq) fun _ _ _ => rfl
  refine congrArg ok ((if_neg ?_).trans ?_)
  · simp only [hfw, Bool.not_true, Bool.false_eq_true, or_false]
    omega
  · simp only [takeLeaf_eq, hseq]
    rfl

/-! ### Evidence (R480) -/

/-- The latest evidence is less than a second old. -/
def evidenceSoon (s : State) : Prop := ∃ t, s.boot.lastEvidence = some t ∧ s.ost.time < t + 1000000000

/-- The claims under a leaf that was taken, with their signature. -/
def evidenceSigned (l : Nat × State) (nonce : List Byte) : List Byte :=
  claims l.2 nonce l.1 ++ signature l.1 (claims l.2 nonce l.1)

/-- Evidence under a leaf that was taken stands for its reader, its time kept and its signature counted. -/
def evidenceGiven (now : Nat) (l : Nat × State) (reader : Nat) (nonce : List Byte) : State :=
  modBoot l.2 fun b => { b with
    evidence := sset none b.evidence reader (some (evidenceSigned l nonce)), lastEvidence := some now,
    signatures := b.signatures + 1 }

theorem evidenceSoon_iff : (match s.boot.lastEvidence with | some t => decide (s.ost.time < t + 1000000000) | none => false) = true
    ↔ evidenceSoon s := by
  unfold evidenceSoon
  cases s.boot.lastEvidence <;> simp

section
variable {reader : Nat} {nonce : List Byte}

theorem attest_of_other_length (h : nonce.length ≠ 32) : attest s reader nonce = .error aTYPELEN := if_pos h

section
variable (hlen : nonce.length = 32)
include hlen

theorem attest_of_few_leaves (h : leavesLeft s ≤ 2 ^ 20) : attest s reader nonce = .error aSTATE :=
  (if_neg (not_not.mpr hlen)).trans (if_pos h)

section
variable (hleaves : 2 ^ 20 < leavesLeft s)
include hleaves

theorem attest_of_soon (h : evidenceSoon s) : attest s reader nonce = .error aBUSY :=
  (if_neg (not_not.mpr hlen)).trans ((if_neg (Nat.not_le.mpr hleaves)).trans (if_pos (evidenceSoon_iff.mpr h)))

theorem attest_of_late (h : ¬ evidenceSoon s) :
    attest s reader nonce = .ok (evidenceGiven s.ost.time (takeLeaf s) reader nonce) :=
  (if_neg (not_not.mpr hlen)).trans ((if_neg (Nat.not_le.mpr hleaves)).trans (if_neg (mt evidenceSoon_iff.mp h)))
end
end
end

/-! ### Bottom trees (R479) -/

theorem execBottomTreeCompute_of_few (h : 32768 - leafNext s % 32768 ≤ 8192) : execBottomTreeCompute s =
    .next (modBoot s fun b => { b with tree := max b.tree (leafNext s / 32768 + 1) }) :=
  congrArg ok (if_pos h)

theorem execBottomTreeCompute_of_many (h : 8192 < 32768 - leafNext s % 32768) : execBottomTreeCompute s = .next s :=
  congrArg ok (if_neg (Nat.not_le.mpr h))
end

/-! ### The statement -/

/-- Settles O58: each update command by what has come before it, the leaf and what it leaves, a repair record, evidence by the nonce, the
leaves and the time, and the bottom tree. -/
theorem updatesAndLeavesGoInOrder : Obligations.UpdatesAndLeavesGoInOrder := by
  intro s sig flash reader kind nonce d x boot abort refused a n busy inside bytes slot started img check ended svn l evidence next soon
  have hleaf : l = (leafNext s, leafTaken s) := takeLeaf_eq s
  refine ⟨fun h => ok_ownWrite_of_error (updateLoad_of_outside h), fun h hbusy => ok_ownWrite_of_error (updateLoad_of_busy h hbusy),
    fun h hold => ok_ownWrite_of_error (updateLoad_of_old h hold),
    fun h hbusy hnew => ok_ownWrite_of_ok (updateLoad_of_new h hbusy hnew), execUpdateLoadComplete_of_none,
    execUpdateLoadComplete_of_loading, ?unloaded, ?loaded, fun h => ok_ownWrite_of_error (updateCommitSvn_of_refused h),
    fun hnew hbusy hloaded => ok_ownWrite_of_ok (updateCommitSvn_of_new hnew hbusy hloaded), ?leaf, execRepairRecordCommit_of_none,
    ?repair, fun h => ok_ownWrite_of_error (attest_of_other_length h), ?evidence, execBottomTreeCompute_of_few,
    execBottomTreeCompute_of_many⟩
  case unloaded =>
    intro h
    exact ⟨ok_ownWrite_of_error (updateGrooms_of_none h), ok_ownWrite_of_error (updateAtReset_of_none h),
      ok_ownWrite_of_error (updateOstler_of_none h)⟩
  case loaded =>
    intro h
    refine ⟨fun hheld => ok_ownWrite_of_error (updateGrooms_of_refused h hheld),
      fun hbusy hprev => ok_ownWrite_of_ok (updateGrooms_of_ready h hbusy hprev), ok_ownWrite_of_ok (updateAtReset_of_loaded h),
      fun hearly => ok_ownWrite_of_error (updateOstler_of_early hearly), fun hstatus hdone hready => ?_⟩
    -- The states are named one around the other, so that they are not compared field by field.
    have hslot : otherSlot s = slot := rfl
    have hended (t : State) : abortWith (updateDone t slot) aNONE
        = abort 0 (boot t fun b => { b with running := slot, status := 5, groomsDone := 0, dieNow := 0 }) := rfl
    have hexec := ok_ownWrite_of_ok (s := s) (updateOstler_of_ready h hstatus hdone hready)
    rw [updateHandedOver, hslot, hended] at hexec
    exact hexec
  case leaf =>
    rw [hleaf]
    exact ⟨rfl, leafTaken_nextLeaf s, le_leafTaken_rpmc1 s, leafTaken_rpmc1_of_block⟩
  case repair =>
    intro hlow hhigh hfw
    refine ⟨_, execRepairRecordCommit_of_kind hlow hhigh hfw, newestRepair_repairCommitted s kind, rfl, ?_, ?_⟩
    · exact congrArg (clrBit · kind) (leafTaken_keeps (fun t => t.boot.due) fun _ _ _ => rfl)
    · exact leafTaken_keeps State.mem fun _ _ _ => rfl
  case evidence =>
    intro hlen
    exact ⟨fun h => ok_ownWrite_of_error (attest_of_few_leaves hlen h),
      fun hleaves h => ok_ownWrite_of_error (attest_of_soon hlen hleaves h),
      fun hleaves h => ok_ownWrite_of_ok (attest_of_late hlen hleaves h)⟩

end Sys2Proof.Machine
end
